-- ==== Sys2Proof/Word.lean ====
section
/-! DEFINITION. The words of DXQ4: 64-bit registers (R10), 128-bit instruction slots (R327), binary32 patterns, bytes. -/

namespace Sys2Proof

/-- One byte of host memory, of a Paddock slice or of a record. -/
abbrev Byte := BitVec 8

/-- A control-space register, or one word of a remote operation (R10, R368). -/
abbrev Word64 := BitVec 64

/-- The bit pattern of a binary32 value (R37, R114). -/
abbrev F32 := BitVec 32

/-- One 16-byte slot of a step program (R327). -/
abbrev Slot := BitVec 128

end Sys2Proof
end

