-- ==== Sys2Proof/Machine/Hash.lean ====
section
/-! DEFINITION. The seal CRC-32C (R21), Philox-4×32-10 (R213), SipHash-2-4 (R292), little-endian byte strings. -/

namespace Sys2Proof.Machine

/-- The little-endian number that bytes spell. -/
def leNat : List Byte → Nat
  | [] => 0
  | b :: bs => b.toNat + 256 * leNat bs

/-- The `n` bytes of a number, little-endian. -/
def leBytes : Nat → Nat → List Byte
  | 0, _ => []
  | n + 1, v => BitVec.ofNat 8 v :: leBytes n (v / 256)

/-- The number of the `n` bytes at `off` of a byte string; absent bytes read as zero. -/
def leAt (a : Array Byte) (off n : Nat) : Nat :=
  leNat ((List.range n).map fun i => a.getD (off + i) 0)

def byteAt (a : Array Byte) (off : Nat) : Nat := (a.getD off 0).toNat

/-- Nibble `i` of a packed region at `off`: low nibble for even `i`. -/
def nibbleAt (a : Array Byte) (off i : Nat) : Nat := (byteAt a (off + i / 2)) / (if i % 2 = 0 then 1 else 16) % 16

/-- Replaces bytes `off ..` of a byte string. -/
def putBytes (l : List Byte) (off : Nat) (bs : List Byte) : List Byte :=
  l.take off ++ bs ++ l.drop (off + bs.length)

/-- Pads with zero bytes to `n` bytes. -/
def padTo (n : Nat) (l : List Byte) : List Byte := l ++ List.replicate (n - l.length) 0

/-- One bit step of the reflected CRC. -/
def crcBit (c : BitVec 32) : BitVec 32 :=
  if c.getLsbD 0 then (c >>> 1) ^^^ 0x82F63B78 else c >>> 1

def crcByte (c : BitVec 32) (b : Byte) : BitVec 32 :=
  (List.range 8).foldl (fun c _ => crcBit c) (c ^^^ b.setWidth 32)

/-- The CRC register run over bytes, before the final exclusive-or. -/
def crcRun (c : BitVec 32) (l : List Byte) : BitVec 32 := l.foldl crcByte c

/-- CRC-32C of a byte string (R21). -/
def crc32c (l : List Byte) : BitVec 32 := crcRun 0xFFFFFFFF l ^^^ 0xFFFFFFFF

/-- The seal of a record: the CRC with the bytes 60 to 63 taken as zero (R21). -/
def sealOf (rec : List Byte) : BitVec 32 :=
  crc32c (rec.take 60 ++ [0, 0, 0, 0] ++ rec.drop 64)

def sealRecord (rec : List Byte) : List Byte := putBytes rec 60 (leBytes 4 (sealOf rec).toNat)

def sealOk (rec : List Byte) : Bool := sealOf rec == BitVec.ofNat 32 (leNat ((rec.drop 60).take 4))

/-- A Philox counter or result block: four 32-bit words. -/
structure PhiloxBlock where
  x0 : BitVec 32
  x1 : BitVec 32
  x2 : BitVec 32
  x3 : BitVec 32
deriving DecidableEq, Repr

def mulHiLo (a b : BitVec 32) : BitVec 32 × BitVec 32 :=
  let p := a.toNat * b.toNat
  (BitVec.ofNat 32 (p / 2 ^ 32), BitVec.ofNat 32 p)

/-- One Philox round with the keys `k0`, `k1`. -/
def philoxRound (c : PhiloxBlock) (k0 k1 : BitVec 32) : PhiloxBlock :=
  let (h0, l0) := mulHiLo 0xD2511F53 c.x0
  let (h1, l1) := mulHiLo 0xCD9E8D57 c.x2
  ⟨h1 ^^^ c.x1 ^^^ k0, l1, h0 ^^^ c.x3 ^^^ k1, l0⟩

def philoxRounds : Nat → PhiloxBlock → BitVec 32 → BitVec 32 → PhiloxBlock
  | 0, c, _, _ => c
  | n + 1, c, k0, k1 => philoxRounds n (philoxRound c k0 k1) (k0 + 0x9E3779B9) (k1 + 0xBB67AE85)

/-- Philox-4×32-10 (R213). -/
def philox (c : PhiloxBlock) (k0 k1 : BitVec 32) : PhiloxBlock := philoxRounds 10 c k0 k1

/-- The state of SipHash: four 64-bit words. -/
structure SipState where
  v0 : Word64
  v1 : Word64
  v2 : Word64
  v3 : Word64
deriving DecidableEq, Repr

def sipRound (s : SipState) : SipState :=
  let a0 := s.v0 + s.v1
  let a1 := (s.v1.rotateLeft 13) ^^^ a0
  let a0 := a0.rotateLeft 32
  let a2 := s.v2 + s.v3
  let a3 := (s.v3.rotateLeft 16) ^^^ a2
  let b0 := a0 + a3
  let b3 := (a3.rotateLeft 21) ^^^ b0
  let b2 := a2 + a1
  let b1 := (a1.rotateLeft 17) ^^^ b2
  ⟨b0, b1, b2.rotateLeft 32, b3⟩

def sipWord (s : SipState) (m : Word64) : SipState :=
  let t := sipRound (sipRound { s with v3 := s.v3 ^^^ m })
  { t with v0 := t.v0 ^^^ m }

/-- The 8-byte message words of SipHash over a byte string: the last holds the length in its top byte. -/
def sipWords (len : Nat) : Nat → List Byte → List Word64
  | 0, _ => []
  | n + 1, l =>
    if l.length < 8 then [BitVec.ofNat 64 (leNat l + 2 ^ 56 * (len % 256))]
    else BitVec.ofNat 64 (leNat (l.take 8)) :: sipWords len n (l.drop 8)

/-- SipHash-2-4 of a byte string under a 128-bit key. -/
def siphash (k0 k1 : Word64) (msg : List Byte) : Word64 :=
  let s : SipState := ⟨k0 ^^^ 0x736f6d6570736575, k1 ^^^ 0x646f72616e646f6d,
    k0 ^^^ 0x6c7967656e657261, k1 ^^^ 0x7465646279746573⟩
  let s := (sipWords msg.length (msg.length / 8 + 1) msg).foldl sipWord s
  let s := { s with v2 := s.v2 ^^^ 0xff }
  let s := sipRound (sipRound (sipRound (sipRound s)))
  s.v0 ^^^ s.v1 ^^^ s.v2 ^^^ s.v3

end Sys2Proof.Machine
end

