-- ==== Sys2Proof/Syntax.lean ====
section
/-! DEFINITION. The commands of DXQ4: one constructor of `Instr` for each row of spec/opcode_table.json, with the row's operands. -/

namespace Sys2Proof

/-- Who sent a remote operation, as its message header says (R365): its agent id, in TACK-4 its agent epoch (R376), the tag that the response echoes, and the virtual channel. -/
structure Sender where
  agent  : BitVec 16
  aepoch : BitVec 16
  tag    : BitVec 12
  vc     : BitVec 2
deriving DecidableEq, Repr, Inhabited

/-- A flit of the H-port with its sideband (R363): its slots from lane 0 on, `KIND`, `PAR`, and the credits that ride on it. -/
structure Flit where
  slots : List (BitVec 128)
  kind  : Nat
  par   : BitVec 8
  crVc  : Nat
  crHdr : Nat
  crDat : Nat
deriving DecidableEq, Repr, Inhabited

/-- A write of one word, a write of 1 to 32 consecutive words (`WR`), or an atomic operation (`ATOM` with its `SUB`) on one word of the control space (R366, R368, R369). -/
inductive Access where
  | put (v : Word64)
  | block (vs : List Word64)
  | atom (sub : Nat) (x y : Word64)
deriving DecidableEq, Repr, Inhabited

/-- What a response brings for a granule or its data (R367, R388): good data, poisoned data, or another error status without data. -/
inductive Mark where
  | good
  | pois
  | errData
  | err (status : Nat)
deriving DecidableEq, Repr, Inhabited

/-- An error response other than `ERR_DATA` carries one of the other statuses of R367. -/
def Mark.wf : Mark → Bool
  | .err st => st == 1 || st == 2 || st == 3 || st == 4 || st == 6
  | _ => true

/-- Which plane record a use reads: plane 0 (P0 tile), 1 or 2 (row records), with 4 added for the reference set of a paired step (R245), the first global id of its slab or its token, and its chunk (R17, R22). -/
structure RecRef where
  plane : Nat
  base  : Nat
  chunk : Nat
deriving DecidableEq, Repr, Inhabited

/-- The ports of DXQ4: the H-port and the 16 memory channels (chapter 14). -/
inductive Port where
  | hport
  | mc (n : Nat)
deriving DecidableEq, Repr, Inhabited

/-- The on-die SRAMs whose words carry SEC-DED and whose damage R471 describes, each with what it takes to name the part hit; `ref` tells a paired step's second score store (R245) from its first. -/
inductive SramPart where
  | planeRegion (cluster word : Nat)
  | rowCopy (cluster word ln row : Nat)
  | scoreStore (cluster word ln row token : Nat) (ref : Bool)
  | streamBuffer (cluster word ln : Nat) (rec : RecRef)
  | sidePartBias (cluster word ln token : Nat)
  | sidePartMask (cluster word ln : Nat)
  | candidateStore (cluster word ln : Nat) (rows : List Nat)
  | laneCopy (cluster word : Nat)
  | clusterFixed (cluster word : Nat)
  | selMaster (bank word : Nat)
  | selFixed (word ln row : Nat)
  | digestLog (tile : Nat)
  | emitBuffer (word ln row : Nat)
  | requestTable (slot word : Nat)
  | historyCache (slot word : Nat)
  | maskStore (set word : Nat)
  | retention (reqKey word : Nat) (pos : Nat)
  | paramStore (ln row word : Nat)
  | stopSet (addr word : Nat)
  | working (slot word : Nat)
  | tenantKey (tenant word : Nat)
deriving DecidableEq, Repr, Inhabited

/-- An IEEE 1687 instrument (R502). -/
inductive Instrument where
  | tsense | vsense | biststat | fuseread | pllobs | bridle
deriving DecidableEq, Repr, Inhabited

/-- What an access to Bridle asks for (R502): its trace buffer, a load of its breakpoints, a read of one granule of a memory channel, or a write of bytes inside one (R390). -/
inductive BridleOp where
  | trace
  | breakpoints (words : List Word64)
  | readGranule (addr : Nat)
  | writeBytes (addr : Nat) (data : List Byte)
deriving DecidableEq, Repr, Inhabited

/-- Which coalescing window of R478 closes. -/
inductive CoalKey where
  | padCe (cluster : Nat)
  | halCe
  | cured (psid : Nat)
  | scrubCured (psid : Nat)
  | granule (requester channel : Nat)
  | exqOverflow
  | rowCode (ln code : Nat)
deriving DecidableEq, Repr, Inhabited

/-- The commands. `q` is a step queue, `ln` a launch number (R309), `ps` a plane set, `snd` the sender of an operation. -/
inductive Instr where
  /-- DOORBELL (R298): a write or atomic on `Q_TAIL` of queue `q`. -/
  | doorbell (q : Nat) (op : Access) (snd : Sender)
  /-- QUEUE_ENABLE (R297): a write of `v` to `Q_ATTR`, with `EN` set. -/
  | queueEnable (q : Nat) (v : Word64) (snd : Sender)
  /-- QUEUE_DISABLE (R299): a write of `v` to `Q_ATTR`, with `EN` clear. -/
  | queueDisable (q : Nat) (v : Word64) (snd : Sender)
  /-- RESUME (R297): a write of `v` to `Q_ATTR`, with `RESUME` set. -/
  | resume (q : Nat) (v : Word64) (snd : Sender)
  /-- SKIP (R297): a write of `v` to `Q_ATTR`, with `SKIP` set. -/
  | skip (q : Nat) (v : Word64) (snd : Sender)
  /-- SLOT_FETCH_ARRIVAL (R360): the next 256-byte fetch of the queue arrives. -/
  | slotFetchArrival (q : Nat)
  /-- DECODE (R331). -/
  | decode (q : Nat)
  /-- G2_G3_DESCRIPTOR (R306). -/
  | g2g3Descriptor (q : Nat)
  /-- LAUNCH (R324). -/
  | launch
  /-- NOP (R315). -/
  | nop (q : Nat)
  /-- HALT (R358). -/
  | halt (q : Nat)
  /-- STEP (R302). -/
  | stepOpen (q : Nat)
  /-- END (R311). -/
  | stepEnd (q : Nat)
  /-- ROWS (R334). -/
  | rows (q : Nat)
  /-- LOADH (R335). -/
  | loadh (ln : Nat)
  /-- ALLOCATE_WORKING_SET (R80). -/
  | allocateWorkingSet (ln : Nat)
  /-- HISTORY_SNAPSHOT (R124). -/
  | historySnapshot (ln : Nat)
  /-- FILL_RELEASE (R420). -/
  | fillRelease (ln : Nat)
  /-- SCREEN (R86); `cured` names the uses whose first read was damaged and whose second was good (R22). -/
  | screen (ln : Nat) (cured : List RecRef)
  /-- M0_BROADCAST (R81); `lag` says that a Gumbel evaluator had fallen behind and delayed it (R168). -/
  | m0Broadcast (ln : Nat) (lag : Bool)
  /-- SUM_SWEEP (R82); `cured` names the uses of a second screen (R84) whose first read was damaged. -/
  | sumSweep (ln : Nat) (cured : List RecRef)
  /-- REFINE_ROUND (R97) of one row; `late` says that a read of the round, a second read included, returned after its allowance, or that one channel carried more than its share (R105, R422). -/
  | refineRound (ln row : Nat) (cured : List RecRef) (late : Bool)
  /-- SCREEN_INSTR (R91). -/
  | screenInstr (q : Nat)
  /-- REFINE (R92). -/
  | refine (q : Nat)
  /-- FUSE (R120). -/
  | fuse (q : Nat)
  /-- BIAS (R339). -/
  | bias (q : Nat)
  /-- PENAL (R339). -/
  | penal (q : Nat)
  /-- TEMP (R339). -/
  | temp (q : Nat)
  /-- MASK_USE (R341). -/
  | maskUse (q : Nat)
  /-- GUMBEL (R342). -/
  | gumbel (q : Nat)
  /-- DRAW (R342). -/
  | draw (q : Nat)
  /-- SELECT (R181). -/
  | select (ln : Nat)
  /-- VERIFY (R195). -/
  | verify (ln : Nat)
  /-- EMIT (R291). -/
  | emit (ln : Nat)
  /-- EMIT_CONS_RETRY (R286). -/
  | emitConsRetry (ln : Nat)
  /-- COMPLETION_STATUS (R310). -/
  | completionStatus (ln : Nat)
  /-- SCOREQ (R237); `cured` and `late` as in REFINE_ROUND, for the scored tokens that it refines (R239). -/
  | scoreq (ln : Nat) (cured : List RecRef) (late : Bool)
  /-- KLREF (R244); `cured` and `late` as in REFINE_ROUND, for the reference tokens that it refines (R247). -/
  | klref (ln : Nat) (cured : List RecRef) (late : Bool)
  /-- GRAD (R252); `cured` names the uses of its screens whose first read was damaged. -/
  | grad (ln : Nat) (cured : List RecRef)
  /-- GRAD_TRANSPOSED_PASS (R256); `cured` names the uses of the pass whose first read was damaged. -/
  | gradTransposedPass (ln : Nat) (cured : List RecRef)
  /-- XMERGE (R191). -/
  | xmerge (ln : Nat)
  /-- MERGE_ROUND_COMPLETE (R184); `cured` and `late` as in REFINE_ROUND, for the tokens that a chip refines between the rounds (R189). -/
  | mergeRoundComplete (ln : Nat) (cured : List RecRef) (late : Bool)
  /-- DIGEST (R351). -/
  | digest (ln : Nat)
  /-- DIGEST_DELIVERY (R435): the peer's 16-byte write of `DG_LO` and `DG_HI`. -/
  | digestDelivery (lo hi : Word64) (snd : Sender)
  /-- DIGEST_BISECT_ROUND (R436). -/
  | digestBisectRound
  /-- MISMATCH_CLEAR (R436): a write of `v` to `LOCKSTEP_STAT`. -/
  | mismatchClear (v : Word64) (snd : Sender)
  /-- LAUNCHAT (R352). -/
  | launchat (q : Nat)
  /-- LAUNCHAT_SATISFIED (R428). -/
  | launchatSatisfied (q : Nat)
  /-- BARRIER (R430). -/
  | barrier (q : Nat)
  /-- BARRIER_RELEASE (R430). -/
  | barrierRelease
  /-- SYNC_BAR_DN (R430): the level of barrier-in. -/
  | syncBarDn (level : Bool)
  /-- SYNC_BAR_CUP (R430): the level of a child's arrival line. -/
  | syncBarCup (child : Nat) (level : Bool)
  /-- WAITQ (R315). -/
  | waitq (q : Nat)
  /-- SIGNAL (R354). -/
  | signal (q : Nat)
  /-- FENCE (R316). -/
  | fence (q : Nat)
  /-- PUT (R354). -/
  | put (q : Nat)
  /-- GET (R354). -/
  | get (q : Nat)
  /-- REPACK (R357). -/
  | repack (q : Nat)
  /-- REPACK_START (R45). -/
  | repackStart
  /-- REPACK_COMPLETE (R54). -/
  | repackComplete
  /-- REPACK_STOP (R55). -/
  | repackStop
  /-- MASK_LOAD (R128). -/
  | maskLoad (q : Nat)
  /-- MASK_LOAD_COMPLETE (R128). -/
  | maskLoadComplete
  /-- TABCOMMIT (R155). -/
  | tabcommit (q : Nat)
  /-- COMMIT_GO (R155): a write of `v` to `CF_COMMIT`. -/
  | commitGo (v : Word64) (snd : Sender)
  /-- COMMIT_CHECK_DONE (R155). -/
  | commitCheckDone
  /-- LANE_COPY_DONE (R155). -/
  | laneCopyDone
  /-- BANK_DRAIN_DONE (R155). -/
  | bankDrainDone
  /-- BANK_COPY_DONE (R155). -/
  | bankCopyDone
  /-- TABLE_WINDOW_WRITE (R154): a write of `v` at byte `off` of the Campion region. -/
  | tableWindowWrite (off : Nat) (v : Word64) (snd : Sender)
  /-- NORMAL (R229): the values of a launched NORMAL are produced. -/
  | normal (ln : Nat)
  /-- PS_RELEASE (R58): a write of `v` to `PS_STAT`. -/
  | psRelease (ps : Nat) (v : Word64) (snd : Sender)
  /-- PS_ADOPT (R58): a write of `v` to `PS_STAT`. -/
  | psAdopt (ps : Nat) (v : Word64) (snd : Sender)
  /-- LEASE_ACQUIRE (R266): a CAS on `LEASE`. -/
  | leaseAcquire (slot : Nat) (expect new : Word64) (snd : Sender)
  /-- LEASE_RELEASE (R267): a PUT of 0 to `LEASE`. -/
  | leaseRelease (slot : Nat) (snd : Sender)
  /-- LEASE_DISCARD (R267): a PUT of `DISCARD` to `LEASE`. -/
  | leaseDiscard (slot : Nat) (snd : Sender)
  /-- HALTER_ENTRY_WRITE (R262). -/
  | halterEntryWrite (slot word : Nat) (op : Access) (snd : Sender)
  /-- LEASE_TIMEOUT (R269): the lease of `slot` has been held longer than `LEASE_TMO`. -/
  | leaseTimeout (slot : Nat)
  /-- ADMISSION (R270). -/
  | admission
  /-- DEADLINE_SCAN (R273). -/
  | deadlineScan
  /-- AGEING (R276). -/
  | ageing
  /-- YARROW_BLOCK (R292). -/
  | yarrowBlock
  /-- YARROW_REPORT (R295): the directory group of the oldest lookup arrives. -/
  | yarrowReport
  /-- TENANT_KEY_WRITE (R296). -/
  | tenantKeyWrite (tenant : Nat) (hi : Bool) (v : Word64) (snd : Sender)
  /-- ARB_COMMIT (R393): a write of `v` to `ARB_COMMIT`. -/
  | arbCommit (v : Word64) (snd : Sender)
  /-- ARB_SNAPSHOT_APPLY (R393) in group `g`. -/
  | arbSnapshotApply (g : Nat)
  /-- ARB_MODE_CHANGE (R395) in group `g`. -/
  | arbModeChange (g : Nat)
  /-- GCTL_WRITE (R405). -/
  | gctlWrite (v : Word64) (snd : Sender)
  /-- TK_HMWIN_WRITE (R382). -/
  | tkHmwinWrite (v : Word64) (snd : Sender)
  /-- EVENT_RING_ENABLE (R414): a write of `v` to `EV_RING_SIZE`. -/
  | eventRingEnable (v : Word64) (snd : Sender)
  /-- SYNC_REGISTER_WRITE (R409): a write at offset `off` of the sync region. -/
  | syncRegisterWrite (off : Nat) (v : Word64) (snd : Sender)
  /-- PADDOCK_WINDOW_ACCESS (R417): a read, or a write of a word, at byte `off` of the window. -/
  | paddockWindowAccess (off : Nat) (v : Option Word64) (snd : Sender)
  /-- POWER_REGISTER_WRITE (R412): a write at offset `off` of the power region. -/
  | powerRegisterWrite (off : Nat) (v : Word64) (snd : Sender)
  /-- RC_FIELD_READ (R9): a read of `n` words at control-space offset `off`. -/
  | rcFieldRead (off n : Nat) (snd : Sender)
  /-- REGISTER_WRITE (R401): a write or atomic at control-space offset `off`. -/
  | registerWrite (off : Nat) (op : Access) (snd : Sender)
  /-- LC_REQ_WRITE (R406): a write of `v` to `LIFECYCLE`; `rmaEn` is the level of `tst_rma_en` meanwhile (R469). -/
  | lcReqWrite (v : Word64) (rmaEn : Bool) (snd : Sender)
  /-- LC_FUSE_DONE (R469). -/
  | lcFuseDone
  /-- PING (R482); every mailbox command writes `FR_MBOX_ARG` and then `FR_MBOX_CMD` with `seq` (R407). -/
  | ping (arg : Word64) (seq : BitVec 8) (snd : Sender)
  /-- CTX_SAVE (R440). -/
  | ctxSave (arg : Word64) (seq : BitVec 8) (snd : Sender)
  /-- CTX_RESTORE (R441). -/
  | ctxRestore (arg : Word64) (seq : BitVec 8) (snd : Sender)
  /-- TELEM_CFG (R485). -/
  | telemCfg (arg : Word64) (seq : BitVec 8) (snd : Sender)
  /-- FAULT_LOG (R482). -/
  | faultLog (arg : Word64) (seq : BitVec 8) (snd : Sender)
  /-- CLUSTER_TEST (R482), with the outcomes of the two self tests, and the uncorrectable words that the recovery after them finds: it fails when there is one (R451). -/
  | clusterTest (arg : Word64) (seq : BitVec 8) (mbistOk lbistOk : Bool) (words : List Nat) (snd : Sender)
  /-- LEASE_BREAK (R482). -/
  | leaseBreak (arg : Word64) (seq : BitVec 8) (snd : Sender)
  /-- QUEUE_ABANDON (R482). -/
  | queueAbandon (arg : Word64) (seq : BitVec 8) (snd : Sender)
  /-- DBG_SNAPSHOT (R482). -/
  | dbgSnapshot (arg : Word64) (seq : BitVec 8) (snd : Sender)
  /-- DBG_TRACE (R482). -/
  | dbgTrace (arg : Word64) (seq : BitVec 8) (snd : Sender)
  /-- PAD_REPAIR (R474): Farrier handles the entry at the front; `hard` are the words still uncorrectable after their rewrite; `glitch` says that the first read of the host copy was damaged. -/
  | padRepair (hard : List Nat) (glitch : Bool)
  /-- CE_STORM (R483): `persists` says whether the rewritten word corrects again. -/
  | ceStorm (persists : Bool)
  /-- SCRUB_FIX (R475). -/
  | scrubFix
  /-- STALE_FAIL (R483). -/
  | staleFail
  /-- SORREL_CHECK (R483): the outcome of the rerun comparison. -/
  | sorrelCheck (passed : Bool)
  /-- LINK_LOG (R483). -/
  | linkLog
  /-- LOCKSTEP_LOG (R483). -/
  | lockstepLog
  /-- FARRIER_RESET (R481). -/
  | farrierReset
  /-- FARRIER_RESTART_DONE (R481). -/
  | farrierRestartDone
  /-- TELEMETRY_PERIOD (R485). -/
  | telemetryPeriod
  /-- STEP_TIMEOUT (R479). -/
  | stepTimeout (ln : Nat)
  /-- RSP_TIMEOUT (R480): the request of `tag` on `port` has been outstanding for 100 ms. -/
  | rspTimeout (port : Port) (tag : Nat)
  /-- COALESCE_WINDOW_CLOSE (R478). -/
  | coalesceWindowClose (key : CoalKey)
  /-- SRAM_PATROL (R470): the patrol, or a reader, meets a damaged word: `double` says two bits; `storm` says that this is its 16th correction within 1 s (R483). -/
  | sramPatrol (part : SramPart) (double storm : Bool) (syndrome : BitVec 8)
  /-- SCRUB_READ (R475): the scrubber reads the next record; `glitch` says that the first of its reads was damaged. -/
  | scrubRead (glitch : Bool)
  /-- SORREL_RESEED (R221): lane `lane` of cluster `cl` reseeds from jitter word `j`; `nb` is the word of the next lane in the same cycle. -/
  | sorrelReseed (cl lane : Nat) (j nb : BitVec 32)
  /-- H_RESPONSE (R367): an `RSP` or `ACK` for the request of `tag` on the H-port; `addr` is where the words of an `RSP` lie. -/
  | hResponse (tag status : Nat) (pois : Bool) (addr : Nat) (words : List Word64)
  /-- MC_READ_RESPONSE (R386): granule data at `addr` arrive on channel `ch`; `tag` names the request they answer. -/
  | mcReadResponse (ch tag addr : Nat) (data : List Byte) (mark : Mark)
  /-- MC_WRITE_ACK (R371): channel `ch` acknowledges the write of `tag`, with a status of R367. -/
  | mcWriteAck (ch tag status : Nat)
  /-- MC_ORD_ACK (R389). -/
  | mcOrdAck (ch : Nat)
  /-- CAP_RECEIVE (R380, R387): the peer's capability word on a port; on the H-port with DXQ4's agent id and epoch. -/
  | capReceive (port : Port) (cap : Word64) (agent aepoch : BitVec 16)
  /-- CAP_RESEND (R380). -/
  | capResend
  /-- MODE_ACK_RECEIVE (R380). -/
  | modeAckReceive (mode : Nat)
  /-- CREDIT_INIT_RECEIVE (R380). -/
  | creditInitReceive (vc hdr dat : Nat)
  /-- NEGOTIATE_TIMEOUT (R380). -/
  | negotiateTimeout
  /-- EPOCH_NOTE (R377). -/
  | epochNote (agent aepoch : BitVec 16)
  /-- LINK_FAULT (R384): the flit that arrives; its first `carry` slots belong to a message of channel `vc` that an earlier flit began. -/
  | linkFault (flit : Flit) (carry vc : Nat)
  /-- QUIESCE (R467). -/
  | quiesce
  /-- DRAINED (R467). -/
  | drained
  /-- ISOLATE (R467). -/
  | isolate
  /-- PD_AO_POWER_UP (R466). -/
  | pdAoPowerUp
  /-- RESET (R459): `pm_rst_n` low. -/
  | reset
  /-- WIPE_DONE (R460). -/
  | wipeDone
  /-- BIST_DONE (R466): clusters that failed, and which of PD_SEL, PD_HAL and PD_PORT (bits 0, 1, 2) failed. -/
  | bistDone (failed : BitVec 16) (others : BitVec 3)
  /-- PD_COMMIT (R411): a write of `v` to `PD_CTL`. -/
  | pdCommit (v : Word64) (snd : Sender)
  /-- DOMAIN_MOVE (R447). -/
  | domainMove
  /-- PD_ACK (R446): `pm_pd_ack[n]` is sampled at `level`. -/
  | pdAck (n : Nat) (level : Bool)
  /-- CLUSTER_RECOVERY (R451) of domain `n`; `words` are the uncorrectable words that it found. -/
  | clusterRecovery (n : Nat) (words : List Nat)
  /-- CHIP_SLEEP_REQ (R449). -/
  | chipSleepReq
  /-- CHIP_WAKE (R449). -/
  | chipWake
  /-- SUPPLY_WARNING (R457): supply 0 VDD_CORE, 1 VDD_MEM, 2 VDD_RET. -/
  | supplyWarning (supply : Nat)
  /-- SUPPLY_RECOVERED (R457): 2 µs after every supply has recovered; `us` since the first crossing. -/
  | supplyRecovered (us : BitVec 32)
  /-- SUPPLY_RESET (R458). -/
  | supplyReset (supply : Nat)
  /-- DVFS_DECISION (R464). -/
  | dvfsDecision
  /-- VSEL_ACK (R454). -/
  | vselAck
  /-- VSEL_TIMEOUT (R455). -/
  | vselTimeout
  /-- ENERGY_REFILL (R463). -/
  | energyRefill
  /-- THERMAL_SAMPLE (R465): the 16 sensor readings. -/
  | thermalSample (temps : List (BitVec 12))
  /-- SYNC_TICK (R427). -/
  | syncTick
  /-- SYNC_LOAD (R427): `sync_load` takes a level, with `v` on the load bus. -/
  | syncLoad (v : Word64) (level : Bool)
  /-- WS_BYPASS (R501): the code shifted in, 0 or one that the table does not define. -/
  | wsBypass (code : BitVec 4)
  /-- WS_SAFE (R501). -/
  | wsSafe
  /-- WS_PRELOAD (R501): the values loaded into the boundary cells. -/
  | wsPreload (cells : List Bool)
  /-- WS_CLAMP (R501). -/
  | wsClamp
  /-- WS_EXTEST (R501): the values captured from the host-die connections. -/
  | wsExtest (captured : List Bool)
  /-- WS_INTEST (R501): the values captured from DXQ4's outputs. -/
  | wsIntest (captured : List Bool)
  /-- MS_MBIST (R501): for each cluster, PD_SEL and PD_HAL (R503), whether its memories failed. -/
  | msMbist (failed : BitVec 18)
  /-- MS_LBIST (R501): likewise for its logic. -/
  | msLbist (failed : BitVec 18)
  /-- MS_FUSE (R504): the fuse bits to program. -/
  | msFuse (bits : BitVec 1024)
  /-- IEEE1687_ACCESS (R502): item `index` of an instrument; `op` is what an access to Bridle asks for, and nothing to any other instrument. -/
  | ieee1687Access (inst : Instrument) (index : Nat) (op : BridleOp)
  /-- CREDIT_RETURN (R364): credits of `vc` ride on a received flit. -/
  | creditReturn (vc hdr dat : Nat)
  /-- MAILBOX_COMMAND_DONE (R407). -/
  | mailboxCommandDone
  /-- SUPPLY_RECOVERY_CROSSING (R457): supply `n` rises above its warning level plus the hysteresis. -/
  | supplyRecoveryCrossing (supply : Nat)
  /-- PD_ACK_BUDGET_EXCEEDED (R466). -/
  | pdAckBudgetExceeded (n : Nat)
deriving DecidableEq, Repr, Inhabited

end Sys2Proof
end

