-- ==== Sys2Proof/Machine/Header.lean ====
section
/-! DEFINITION. Messages of the TACK ports (chapter 14): headers, which header is allowed where, slots, flits with their parity, and what a flit shows to be wrong. -/

namespace Sys2Proof.Machine

/-- The fields of a message header (R365). -/
structure Header where
  op     : Nat
  vc     : Nat
  pois   : Bool
  tag    : Nat
  nds    : Nat
  addr   : Nat
  agent  : Nat
  aepoch : Nat
  sub    : Nat
  lenw   : Nat
deriving DecidableEq, Repr, Inhabited

/-- A header with every field zero: `NOP`, an empty slot (R364). -/
def Header.nop : Header := ⟨0, 0, false, 0, 0, 0, 0, 0, 0, 0⟩

/-- The header slot (R365). -/
def Header.word (h : Header) : BitVec 128 :=
  BitVec.ofNat 128 (h.op + 2 ^ 4 * h.vc + 2 ^ 6 * h.pois.toNat + 2 ^ 8 * h.tag + 2 ^ 20 * h.nds + 2 ^ 32 * h.addr +
    2 ^ 80 * h.agent + 2 ^ 96 * h.aepoch + 2 ^ 112 * h.sub + 2 ^ 120 * h.lenw)

/-- The header that a slot spells (R365). -/
def Header.parse (w : BitVec 128) : Header :=
  let f (lsb width : Nat) : Nat := w.toNat / 2 ^ lsb % 2 ^ width
  ⟨f 0 4, f 4 2, f 6 1 == 1, f 8 12, f 20 5, f 32 48, f 80 16, f 96 16, f 112 8, f 120 5⟩

/-- Every field fits its place (R365). -/
abbrev Header.fits (h : Header) : Prop :=
  h.op < 16 ∧ h.vc < 4 ∧ h.tag < 2 ^ 12 ∧ h.nds < 32 ∧ h.addr < 2 ^ 48 ∧ h.agent < 2 ^ 16 ∧ h.aepoch < 2 ^ 16 ∧
    h.sub < 2 ^ 8 ∧ h.lenw < 32

def opRD : Nat := 1
def opWR : Nat := 2
def opATOM : Nat := 3
def opORD : Nat := 4
def opRSP : Nat := 8
def opACK : Nat := 9
def opMGMT : Nat := 12

/-- `OP` values of the H-port with the virtual channels on which R366 allows them; `NOP` is allowed on any. -/
def opChannels : List (Nat × Nat) :=
  [(opRD, 0), (opWR, 0), (opWR, 2), (opATOM, 0), (opATOM, 2), (opRSP, 1), (opACK, 1), (opMGMT, 3)]
def Header.legal (h : Header) : Bool := h.op == 0 || opChannels.contains (h.op, h.vc)

/-! Data slots (R368). -/

/-- Bytes as data slots of 16, little-endian. -/
def byteSlots (bs : List Byte) : List (BitVec 128) :=
  (List.range ((bs.length + 15) / 16)).map fun i => BitVec.ofNat 128 (leNat ((bs.drop (16 * i)).take 16))

/-- Words of a message as data slots: word i lies in slot i / 2. -/
def wordSlots (ws : List Word64) : List (BitVec 128) := byteSlots (ws.flatMap fun w => leBytes 8 w.toNat)

/-! Flits (R362, R363). -/

/-- Slots of a flit in a version of the H-port: TACK-2, TACK-3, TACK-4. -/
def flitSlots (mode : Nat) : Nat := match mode with | 0 => 2 | 1 => 4 | _ => 8

/-- The parity bit of a slot. -/
def slotParity (x : BitVec 128) : Bool := (List.range 128).foldl (fun b i => b != x.getLsbD i) false

/-- `PAR` of a flit's slots; the bits beyond them are 0. -/
def flitParity (l : List (BitVec 128)) : BitVec 8 :=
  BitVec.ofNat 8 (l.zipIdx.foldl (fun n q => n + if slotParity q.1 then 2 ^ q.2 else 0) 0)

/-- The lanes of a flit; unused ones carry zero. -/
def Flit.lanes (f : Flit) : BitVec 1024 :=
  BitVec.ofNat 1024 (f.slots.zipIdx.foldl (fun n q => n + 2 ^ (128 * q.2) * q.1.toNat) 0)

/-- The idle flit. -/
def idleFlit : Flit := ⟨[], 0, 0, 0, 0, 0⟩

/-- A flit of a kind with its slots, filled with empty ones. -/
def flitOf (mode kind : Nat) (l : List (BitVec 128)) : Flit :=
  let l := l ++ List.replicate (flitSlots mode - l.length) 0
  ⟨l, kind, flitParity l, 0, 0, 0⟩

/-- The `DATA` flits that carry one message: its slots are consecutive (R364; log entry 117). -/
def dataFlits (mode : Nat) (slots : List (BitVec 128)) : List Flit :=
  let n := flitSlots mode
  (List.range ((slots.length + n - 1) / n)).map fun i => flitOf mode 1 ((slots.drop (n * i)).take n)

/-- The idle flits that return credits of a virtual channel: one header at most 3, data slots at most 15 a flit. -/
def creditFlits (vc hdr dat : Nat) : List Flit :=
  (List.range (Nat.max ((hdr + 2) / 3) ((dat + 14) / 15))).map fun i =>
    { idleFlit with crVc := vc, crHdr := Nat.min 3 (hdr - 3 * i), crDat := Nat.min 15 (dat - 15 * i) }

/-- Keeps the last `n` of a list. -/
def lastOf {α : Type} (n : Nat) (l : List α) : List α := l.drop (l.length - n)

/-! What is wrong with a flit (R366, R384). -/

/-- The headers that begin in a run of slots, each with its place; `carry` slots of an earlier message come first. -/
def flitHeaders : Nat → Nat → List (BitVec 128) → List (Nat × Header)
  | _, _, [] => []
  | i, c + 1, _ :: r => flitHeaders (i + 1) c r
  | i, 0, x :: r =>
    let h := Header.parse x
    (i, h) :: flitHeaders (i + 1) (if h.op = 0 then 0 else h.nds) r

/-- The virtual channel of the message to which slot `i` belongs. -/
def slotVc (hs : List (Nat × Header)) (vc i : Nat) : Nat := (hs.filter fun q => decide (q.1 ≤ i)).foldl (fun _ q => q.2.vc) vc

/-- The cause (0 parity, 1 header) and virtual channel of a link fault, if the flit is one. -/
def flitFault (f : Flit) (carry vc : Nat) : Option (Nat × Nat) :=
  let hs := flitHeaders 0 carry f.slots
  if f.kind = 1 then
    if f.par = flitParity f.slots then (hs.find? fun q => !q.2.legal).map fun q => (1, q.2.vc)
    else
      let bad := (List.range 8).find? fun i => f.par.getLsbD i != (flitParity f.slots).getLsbD i
      some (0, slotVc hs vc (bad.getD 0))
  else if f.kind = 2 then
    let h := Header.parse (f.slots.getD 0 0)
    if h.op = opMGMT then none else some (1, h.vc)
  else none

/-! The write path and the return path of a memory channel (R386, R490). -/

/-- The mask slot of bytes `off` to `off + n - 1` of a granule: bit i enables its 4-byte word i. -/
def maskSlot (off n : Nat) : BitVec 128 :=
  BitVec.ofNat 128 ((List.range 64).foldl (fun m i => m + if off / 4 ≤ i ∧ i ≤ (off + n - 1) / 4 then 2 ^ i else 0) 0)

/-- A stream as it passes, `n` in a cycle: 20 write slots (an empty one is none), or 5 return segments. -/
def streamCycles {α : Type} (n : Nat) (l : List α) : List (List α) :=
  (List.range ((l.length + n - 1) / n)).map fun i => (l.drop (n * i)).take n

/-- Keeps at least the last `k` of a stream of `n` in a cycle, and drops whole cycles only: what stays keeps its places. -/
def lastCycles {α : Type} (n k : Nat) (l : List α) : List α := l.drop (n * ((l.length - k) / n))

/-- The segments of a granule on the return path, each with the header slot beside it: the header lies beside the first (R490). -/
def returnSegments (h : BitVec 128) (data : List Byte) : List (List Byte × Option (BitVec 128)) :=
  (List.range ((data.length + 127) / 128)).map fun i => ((data.drop (128 * i)).take 128, if i = 0 then some h else none)

end Sys2Proof.Machine
end

