-- ==== Sys2Proof/Machine/Num.lean ====
section
/-! DEFINITION. Exact rational arithmetic, binary32 numbers, and the roundings of the spec (R30, R37, R41). -/

namespace Sys2Proof.Machine

/-- An exact rational, numerator over a positive denominator; not kept in lowest terms. -/
structure Frac where
  num : Int
  den : Nat
deriving DecidableEq, Repr, Inhabited

def Frac.ofInt (n : Int) : Frac := ⟨n, 1⟩

/-- `n · 2^e`, exactly. -/
def Frac.scaled (n : Int) (e : Int) : Frac :=
  if 0 ≤ e then ⟨n * (2 ^ e.toNat : Nat), 1⟩ else ⟨n, 2 ^ (-e).toNat⟩

def Frac.pow2 (e : Int) : Frac := Frac.scaled 1 e

def Frac.add (a b : Frac) : Frac :=
  if a.den = b.den then ⟨a.num + b.num, a.den⟩ else ⟨a.num * b.den + b.num * a.den, a.den * b.den⟩
def Frac.neg (a : Frac) : Frac := ⟨-a.num, a.den⟩
def Frac.sub (a b : Frac) : Frac := a.add b.neg
def Frac.mul (a b : Frac) : Frac := ⟨a.num * b.num, a.den * b.den⟩
def Frac.abs (a : Frac) : Frac := ⟨a.num.natAbs, a.den⟩

/-- The quotient; by zero it is zero, a case no caller reaches. -/
def Frac.div (a b : Frac) : Frac :=
  if b.num = 0 then ⟨0, 1⟩ else ⟨a.num * b.den * b.num.sign, a.den * b.num.natAbs⟩

/-- Dividing out the common factor, to keep long computations small. -/
def Frac.norm (a : Frac) : Frac :=
  let g := Nat.gcd a.num.natAbs a.den
  if g ≤ 1 then a else ⟨a.num / g, a.den / g⟩

def Frac.le (a b : Frac) : Bool := decide (a.num * b.den ≤ b.num * a.den)
def Frac.lt (a b : Frac) : Bool := decide (a.num * b.den < b.num * a.den)
def Frac.eqv (a b : Frac) : Bool := decide (a.num * b.den = b.num * a.den)
def Frac.max (a b : Frac) : Frac := if a.le b then b else a
def Frac.min (a b : Frac) : Frac := if a.le b then a else b

/-- Floor division of integers by a natural number. -/
def Frac.floor (a : Frac) : Int := a.num.fdiv a.den
def Frac.ceil (a : Frac) : Int := -((-a.num).fdiv a.den)

/-- To the nearest integer, halves to even. -/
def Frac.roundHalfEven (a : Frac) : Int :=
  let q := a.floor
  let r := a.num - q * a.den
  if 2 * r < a.den then q
  else if (a.den : Int) < 2 * r then q + 1
  else if q % 2 = 0 then q else q + 1

/-- To the nearest integer, halves upward. -/
def Frac.roundHalfUp (a : Frac) : Int := (a.add ⟨1, 2⟩).floor

/-- `n / d < 2^k` for positive naturals. -/
def ltPow2 (n d : Nat) (k : Int) : Bool :=
  if 0 ≤ k then n < d * 2 ^ k.toNat else n * 2 ^ (-k).toNat < d

/-- `floor(log2 a)` of a positive rational. -/
def Frac.floorLog2 (a : Frac) : Int :=
  let n := a.num.natAbs
  let k : Int := (Nat.log2 n : Int) - (Nat.log2 a.den : Int)
  if ltPow2 n a.den k then k - 1 else k

/-- The number of bits of a natural number; 0 of 0. -/
def bitLength (n : Nat) : Nat := if n = 0 then 0 else Nat.log2 n + 1

/-- The roundings to binary32 that the spec uses: nearest even (R37), toward +inf and toward −inf (R41). -/
inductive RMode where
  | even | up | down
deriving DecidableEq, Repr

/-- Rounds a non-negative quotient `n / d` to an integer; `up` says away from zero. -/
def roundMag (nearest up : Bool) (n d : Nat) : Nat :=
  let q := n / d
  let r := n % d
  if nearest then
    if 2 * r < d then q else if d < 2 * r then q + 1 else if q % 2 = 0 then q else q + 1
  else if up && r != 0 then q + 1 else q

/-- The binary32 bits of a rounded magnitude `k · 2^(e - 23)`, `e ≥ -126`. -/
def encodeMag (k : Nat) (e : Int) : Nat := 2 ^ 23 * (e + 126).toNat + k

/-- An exact value to binary32: subnormals kept, a zero is +0.0, overflow by the mode (R37, R41). -/
def round32 (mode : RMode) (a : Frac) : F32 :=
  if a.num = 0 then 0
  else
    let negv := decide (a.num < 0)
    let n := a.num.natAbs
    let away := match mode with | .even => false | .up => !negv | .down => negv
    let e := Max.max a.floorLog2 (-126)
    let k := if 23 ≤ e then roundMag (mode = .even) away n (a.den * 2 ^ (e - 23).toNat)
             else roundMag (mode = .even) away (n * 2 ^ (23 - e).toNat) a.den
    let m := encodeMag k e
    let m := if m < 0x7F800000 then m
             else if mode = .even || away then 0x7F800000 else 0x7F7FFFFF
    if m = 0 then 0 else BitVec.ofNat 32 (m + if negv then 2 ^ 31 else 0)

def rne32 (a : Frac) : F32 := round32 .even a
def ru32 (a : Frac) : F32 := round32 .up a
def rd32 (a : Frac) : F32 := round32 .down a

def fNan : F32 := 0x7FC00000
def fPinf : F32 := 0x7F800000
def fNinf : F32 := 0xFF800000

def F32.expField (x : F32) : Nat := (x.toNat / 2 ^ 23) % 256
def F32.fracField (x : F32) : Nat := x.toNat % 2 ^ 23
def F32.isNeg (x : F32) : Bool := decide (2 ^ 31 ≤ x.toNat)
def F32.isNan (x : F32) : Bool := F32.expField x == 255 && F32.fracField x != 0
def F32.isInf (x : F32) : Bool := F32.expField x == 255 && F32.fracField x == 0
def F32.isFinite (x : F32) : Bool := F32.expField x != 255
def F32.isPinf (x : F32) : Bool := x == fPinf
def F32.isNinf (x : F32) : Bool := x == fNinf

/-- The exact value of a finite binary32. -/
def F32.val (x : F32) : Frac :=
  let e := F32.expField x
  let m : Int := if e = 0 then F32.fracField x else F32.fracField x + 2 ^ 23
  Frac.scaled (if F32.isNeg x then -m else m) ((if e = 0 then 1 else e : Int) - 150)

/-- An extended real: what a binary32 stands for. -/
inductive XR where
  | nan | pinf | ninf
  | fin (q : Frac)
deriving DecidableEq, Repr

def XR.of (x : F32) : XR :=
  if F32.isNan x then .nan
  else if F32.isInf x then (if F32.isNeg x then .ninf else .pinf)
  else .fin (F32.val x)

/-- The binary32 of an extended real, rounded by the mode. -/
def XR.toF32 (mode : RMode) : XR → F32
  | .nan => fNan
  | .pinf => fPinf
  | .ninf => fNinf
  | .fin q => round32 mode q

def XR.neg : XR → XR
  | .nan => .nan
  | .pinf => .ninf
  | .ninf => .pinf
  | .fin q => .fin q.neg

/-- The exact sum; opposite infinities give NaN (IEEE 754). -/
def XR.add : XR → XR → XR
  | .nan, _ | _, .nan | .pinf, .ninf | .ninf, .pinf => .nan
  | .pinf, _ | _, .pinf => .pinf
  | .ninf, _ | _, .ninf => .ninf
  | .fin a, .fin b => .fin (a.add b)

def XR.sub (a b : XR) : XR := a.add b.neg

/-- The sign of an extended real: −1, 0 or 1. -/
def XR.sgn : XR → Int
  | .nan => 0
  | .pinf => 1
  | .ninf => -1
  | .fin q => q.num.sign

/-- The exact product; zero times an infinity gives NaN (IEEE 754). -/
def XR.mul : XR → XR → XR
  | .nan, _ | _, .nan => .nan
  | .fin a, .fin b => .fin (a.mul b)
  | a, b =>
    if a.sgn * b.sgn = 0 then .nan else if 0 < a.sgn * b.sgn then .pinf else .ninf

/-- `a ≤ b` in the extended reals; false of a NaN. -/
def XR.le : XR → XR → Bool
  | .nan, _ | _, .nan => false
  | .ninf, _ | _, .pinf => true
  | .pinf, _ | _, .ninf => false
  | .fin a, .fin b => a.le b

def XR.lt (a b : XR) : Bool := a.le b && !(b.le a)

def XR.isNan : XR → Bool
  | .nan => true
  | _ => false

/-- One correctly rounded binary32 operation each. -/
def F32.add (m : RMode) (a b : F32) : F32 := ((XR.of a).add (XR.of b)).toF32 m
def F32.sub (m : RMode) (a b : F32) : F32 := ((XR.of a).sub (XR.of b)).toF32 m
def F32.mul (m : RMode) (a b : F32) : F32 := ((XR.of a).mul (XR.of b)).toF32 m
/-- The fused multiply and add: one rounding of `a · b + c`. -/
def F32.fma (m : RMode) (a b c : F32) : F32 := (((XR.of a).mul (XR.of b)).add (XR.of c)).toF32 m
def F32.le (a b : F32) : Bool := (XR.of a).le (XR.of b)
def F32.lt (a b : F32) : Bool := (XR.of a).lt (XR.of b)

/-- A binary32 of an integer, to nearest even. -/
def F32.ofInt (n : Int) : F32 := rne32 (Frac.ofInt n)

/-- The 32-bit key whose unsigned order is the order of the numbers (both zeros have distinct keys). -/
def orderKey (x : F32) : Nat := if F32.isNeg x then 2 ^ 32 - 1 - x.toNat else x.toNat + 2 ^ 31

/-- An unsigned number as a two's-complement value of `w` bits. -/
def signedOf (w n : Nat) : Int := if n % 2 ^ w < 2 ^ (w - 1) then (n % 2 ^ w : Nat) else (n % 2 ^ w : Nat) - (2 ^ w : Nat)

/-- The low `w` bits of an integer. -/
def lowBits (w : Nat) (i : Int) : Nat := (i % (2 ^ w : Nat)).toNat

/-- `floor(a / b)` for naturals, rounded up. -/
def ceilDiv (a b : Nat) : Nat := (a + b - 1) / b

/-- The sum of a list of integers. -/
def sumInt (l : List Int) : Int := l.foldl (· + ·) 0

end Sys2Proof.Machine
end

