-- ==== Sys2Proof/Machine/Planes.lean ====
section
/-! DEFINITION. Bitriad planes (chapter 01): element codes, records, their checks, construction from master weights, the exact dot product and the interval bound. -/

namespace Sys2Proof.Machine

/-- Twice the magnitude of an E2M1 code (R13). -/
def fp4Mag2 : Nat → Int
  | 0 => 0 | 1 => 1 | 2 => 2 | 3 => 3 | 4 => 4 | 5 => 6 | 6 => 8 | _ => 12

/-- `2·v0` of an MXFP4 code (R13, R32). -/
def fp4Int (c : Nat) : Int := if c / 8 % 2 = 1 then -fp4Mag2 (c % 8) else fp4Mag2 (c % 8)

/-- `2·v0` of a lean code (R14, R32). -/
def leanInt (c : Nat) : Int := match c % 4 with | 0 => 1 | 1 => 3 | 2 => -1 | _ => -3

def p0Int (lean : Bool) (c : Nat) : Int := if lean then leanInt c else fp4Int c

/-- Record sizes: T0, S1 and S2, for `hd` = H/64 (R18, R20). -/
def tileSize (lean : Bool) : Nat := if lean then 1280 else 2304
def p1Size (hd : Nat) : Nat := 256 * ceilDiv (64 + 35 * hd) 256
def p2Size (hd : Nat) : Nat := 256 * ceilDiv (64 + 65 * hd) 256

/-- Fields of the 64-byte header (R17). -/
def recKind (r : Array Byte) : Nat := byteAt r 0
def recFmt (r : Array Byte) : Nat := byteAt r 1
def recChunk (r : Array Byte) : Nat := leAt r 2 2
def recTokenBase (r : Array Byte) : Nat := leAt r 4 3
def recEpoch (r : Array Byte) : Nat := leAt r 8 4
def recPsid (r : Array Byte) : Nat := byteAt r 12 % 16
def recHdim (r : Array Byte) : Nat := leAt r 14 2
def recTms (r : Array Byte) : Nat := byteAt r 16
def recNtok (r : Array Byte) : Nat := byteAt r 17
def recDevx (r : Array Byte) : Nat := byteAt r 18

/-- The stored TMS that a P0 tile gives for its token `t` (R17). -/
def tileTms (r : Array Byte) (t : Nat) : Int := (recTms r : Int) - nibbleAt r 20 t

/-- A P0 tile's elements, scales and interval exponents (R19). -/
def tileCode (lean : Bool) (r : Array Byte) (t k : Nat) : Nat :=
  if lean then byteAt r (64 + 16 * t + k / 4) / 4 ^ (k % 4) % 4
  else nibbleAt r (64 + 32 * t) k
def tileX0 (lean : Bool) (r : Array Byte) (t j : Nat) : Nat :=
  byteAt r ((if lean then 1088 else 2112) + 64 * j + t)
def tileD1 (lean : Bool) (r : Array Byte) (t j : Nat) : Nat :=
  nibbleAt r ((if lean then 1216 else 2240) + 32 * j) t

/-- A P1 row record's elements, scales and offsets (R20); `H = 64·hd`. -/
def p1Elem (r : Array Byte) (i : Nat) : Int := signedOf 4 (nibbleAt r 64 i)
def p1X0 (hd : Nat) (r : Array Byte) (g : Nat) : Nat := byteAt r (64 + 32 * hd + g)
def p1D1 (hd : Nat) (r : Array Byte) (g : Nat) : Nat := nibbleAt r (64 + 34 * hd) g
/-- A P2 row record's elements and offsets (R20). -/
def p2Elem (r : Array Byte) (i : Nat) : Int := signedOf 8 (byteAt r (64 + i))
def p2D2 (hd : Nat) (r : Array Byte) (g : Nat) : Nat := nibbleAt r (64 + 64 * hd) g

/-- What a use of a record expects of its header (R22). `tms` is the tile's stored TMS of the token, for row records. -/
structure RecExpect where
  kind  : Nat
  psid  : Nat
  epoch : Nat
  base  : Nat
  chunk : Nat
  ntok  : Nat
  hdim  : Nat
  tms   : Option Int
deriving DecidableEq, Repr

/-- The X0 bytes of the real tokens of a record, each with the stored TMS of its token (R22). For a P1 row record that is the TMS of its own header, not the tile's common value of R506 (log entry 129, DESIGN CHOICE): only the field reported, 8 or 9, can depend on it. -/
def recScales (x : RecExpect) (r : Array Byte) : List (Nat × Int) :=
  if x.kind = 1 ∨ x.kind = 2 then
    (List.range x.ntok).flatMap fun t => (List.range 2).map fun j => (tileX0 (x.kind = 2) r t j, tileTms r t)
  else if x.kind = 3 then
    (List.range (2 * x.hdim)).map fun g => (p1X0 x.hdim r g, (recTms r : Int))
  else []

/-- The first header mismatch in the order of R22, by its code of R477; none when the header is good. -/
def headerFault (x : RecExpect) (r : Array Byte) : Option Nat :=
  if recKind r ≠ x.kind then some 1
  else if recFmt r ≠ 4 then some 2
  else if recPsid r ≠ x.psid then some 3
  else if recEpoch r ≠ x.epoch then some 4
  else if recTokenBase r ≠ x.base ∨ recChunk r ≠ x.chunk then some 5
  else if (x.kind = 1 ∨ x.kind = 2) ∧ recNtok r ≠ x.ntok then some 10
  else if recHdim r ≠ x.hdim then some 6
  else if (recScales x r).any (fun p => p.1 == 255) then some 7
  else if (recScales x r).any (fun p => decide (p.2 < (p.1 : Int))) then some 8
  else match x.tms with
    | some t => if (recTms r : Int) ≠ t then some 9 else none
    | none => none

/-- A hidden row as LOADH holds it (R25, R33, R39): integer operands, group scales, their norms and largest scale. -/
structure HRow where
  ua        : Int
  b         : Array Int
  xa        : Array Nat
  xaMax     : Nat
  norms     : Array Nat
  nonFinite : Bool
deriving DecidableEq, Repr, Inhabited

/-- The hidden formats of R25; the codes are those of LOADH (R335). -/
inductive HFmt where
  | e4m3 | e5m2 | mxint8
deriving DecidableEq, Repr, Inhabited

def HFmt.ua : HFmt → Int
  | .e4m3 => -9 | .e5m2 => -16 | .mxint8 => -6

/-- The integer operand of one element byte, or none for a non-finite code (R25). -/
def hiddenInt (f : HFmt) (c : Nat) : Option Int :=
  let sg : Int := if 128 ≤ c then -1 else 1
  match f with
  | .mxint8 => some (signedOf 8 c)
  | .e4m3 =>
    let e := c / 8 % 16
    let m := c % 8
    if e = 15 ∧ m = 7 then none
    else some (sg * if e = 0 then m else (8 + m) * 2 ^ (e - 1))
  | .e5m2 =>
    let e := c / 4 % 32
    let m := c % 4
    if e = 31 then none
    else some (sg * if e = 0 then m else (4 + m) * 2 ^ (e - 1))

/-- The upward rounding of an L1 norm to eight significant bits (R39). -/
def normUp (n : Nat) : Nat :=
  if n < 256 then n
  else
    let k := bitLength n - 8
    let m := ceilDiv n (2 ^ k)
    if m = 256 then 128 * 2 ^ (k + 1) else m * 2 ^ k

/-- A hidden row from its bytes: `H` elements and then `H/32` scales (R26, R27). -/
def hiddenRow (f : HFmt) (hd : Nat) (bytes : Array Byte) : HRow :=
  let h := 64 * hd
  let ops := (List.range h).map fun i => hiddenInt f (byteAt bytes i)
  let xa := (List.range (2 * hd)).map fun g => byteAt bytes (h + g)
  let b := (ops.map fun o => o.getD 0).toArray
  { ua := f.ua, b := b, xa := xa.toArray
    xaMax := xa.foldl Nat.max 0
    norms := ((List.range (2 * hd)).map fun g =>
      normUp ((List.range 32).foldl (fun s i => s + (b.getD (32 * g + i) 0).natAbs) 0)).toArray
    nonFinite := ops.any (·.isNone) || xa.any (· == 255) }

/-- The anchor A of a row and a token (R33). -/
def anchor (h : HRow) (tms : Int) : Int := (h.xaMax : Int) - 127 + (tms - 127) + 24

/-- `Σ a·b` over a group (R32). -/
def groupInt (h : HRow) (g : Nat) (a : Nat → Int) : Int :=
  (List.range 32).foldl (fun s i => s + a i * h.b.getD (32 * g + i) 0) 0

/-- A group contribution on the grid of R34: `floor(G·2^f / 2^(A − 150))`. -/
def placeOnGrid (gint f A : Int) : Int :=
  let sh := f - A + 150
  if 0 ≤ sh then gint * (2 ^ sh.toNat : Nat) else gint.fdiv (2 ^ (-sh).toNat : Nat)

/-- The placed contribution of group `g` whose weight exponent is `fw` (R32, R34). -/
def placedGroup (h : HRow) (A fw : Int) (g : Nat) (a : Nat → Int) : Int :=
  placeOnGrid (groupInt h g a) (fw + h.xa.getD g 0 - 127 + h.ua) A

/-- The P0 contributions of one tile for its token `t`: both groups of chunk `c` (R36). -/
def tileContribution (lean : Bool) (h : HRow) (r : Array Byte) (c t : Nat) (A : Int) : Int :=
  sumInt ((List.range 2).map fun j =>
    placedGroup h A ((tileX0 lean r t j : Int) - 128) (2 * c + j)
      fun i => p0Int lean (tileCode lean r t (32 * j + i)))

/-- The rounded interval terms of one tile for its token `t` (R40). -/
def tileInterval (lean : Bool) (h : HRow) (r : Array Byte) (c t : Nat) (A : Int) : Nat :=
  ((List.range 2).map fun j =>
    let g := 2 * c + j
    let e : Int := (h.xa.getD g 0 : Int) - 127 + h.ua + (tileX0 lean r t j : Int) - 124 - tileD1 lean r t j - (A - 48)
    ((Frac.scaled (h.norms.getD g 0) e).ceil).toNat).foldl (· + ·) 0

/-- C1 of a token, from its P1 record (R36). -/
def p1Sum (hd : Nat) (h : HRow) (r : Array Byte) (A : Int) : Int :=
  sumInt ((List.range (2 * hd)).map fun g =>
    placedGroup h A ((p1X0 hd r g : Int) - 127 - p1D1 hd r g) g fun i => p1Elem r (32 * g + i))

/-- C2 of a token, from its P2 record and the scales of its P1 record (R20, R36). -/
def p2Sum (hd : Nat) (h : HRow) (r1 r2 : Array Byte) (A : Int) : Int :=
  sumInt ((List.range (2 * hd)).map fun g =>
    placedGroup h A ((p1X0 hd r1 g : Int) - 127 - p1D1 hd r1 g - p2D2 hd r2 g) g fun i => p2Elem r2 (32 * g + i))

/-- `rne32(C · 2^(A − 150))` (R36, R37). -/
def scoreOfSum (c A : Int) : F32 := rne32 (Frac.scaled c (A - 150))

/-- The interval half-width of R41. `U` is the sum of R40 with its added 1. -/
def halfWidth (s0 : F32) (U : Nat) (A : Int) : F32 :=
  if F32.isNan s0 then fNan
  else
    let dr := ru32 (Frac.scaled U (A - 48))
    if F32.isInf s0 then fPinf
    else
      let mm := XR.toF32 .up ((XR.fin (F32.val s0).abs).add (XR.of dr))
      if (XR.fin (Frac.pow2 127)).le (XR.of mm) then fPinf
      else
        let mv := F32.val mm
        let u := if mv.lt (Frac.pow2 (-126)) then Frac.pow2 (-149) else Frac.pow2 (mv.floorLog2 - 23)
        ru32 ((F32.val dr).add (u.add u))

/-- Master formats (R28). -/
inductive MFmt where
  | bf16 | f32 | m40
deriving DecidableEq, Repr, Inhabited

/-- A master element: `w` is the BF16 half, the binary32 or the word W; `e` is M40's extension. None when not finite (R28, R29). -/
def masterValue (f : MFmt) (w e : Nat) : Option Frac :=
  let w : Nat := match f with | .bf16 => 2 ^ 16 * w | _ => w
  let ex : Nat := w / 2 ^ 23 % 256
  if ex = 255 then none
  else
    let sg : Int := if 2 ^ 31 ≤ w then -1 else 1
    match f with
    | .m40 =>
      let frac : Nat := 2 ^ 16 * (w % 2 ^ 23) + e
      some (if ex = 0 then Frac.scaled (sg * (frac : Int)) (-165)
        else Frac.scaled (sg * ((2 ^ 39 + frac : Nat) : Int)) ((ex : Int) - 166))
    | _ => some (F32.val (BitVec.ofNat 32 w))

/-- The nearest E2M1 code to a scaled value (R30). -/
def nearFp4 (y : Frac) : Nat :=
  let x := y.abs
  let mids : List Frac := [⟨1, 4⟩, ⟨3, 4⟩, ⟨5, 4⟩, ⟨7, 4⟩, ⟨5, 2⟩, ⟨7, 2⟩, ⟨5, 1⟩]
  let c := (mids.foldl (fun (p : Nat × Nat) m =>
      (p.1 + 1, if m.lt x || (m.eqv x && p.1 % 2 == 1) then p.1 + 1 else p.2)) (0, 0)).2
  if c = 0 then 0 else if y.num < 0 then c + 8 else c

/-- The nearest lean code to a scaled value; halves go to the lower code (R30). -/
def nearLean (y : Frac) : Nat :=
  if 0 ≤ y.num then (if y.le ⟨1, 1⟩ then 0 else 1) else (if (⟨-1, 1⟩ : Frac).le y then 2 else 3)

/-- The largest `d ≤ n` for which `ok d`; 0 when none is. -/
def largestDown (ok : Nat → Bool) : Nat → Nat
  | 0 => 0
  | n + 1 => if ok (n + 1) then n + 1 else largestDown ok n

/-- One group as R30 builds it. -/
structure GroupRec where
  x0  : Nat
  v0  : List Nat
  d1  : Nat
  q1  : List Int
  d2  : Nat
  q2  : List Int
  dev : Frac
deriving DecidableEq, Repr

def maxAbs (l : List Frac) : Frac := l.foldl (fun m x => Frac.max m x.abs) ⟨0, 1⟩

/-- The construction of R30; `rnd i` rounds element `i` of the P2 plane (R222 or half-even). -/
def buildGroup (lean : Bool) (m : List Frac) (rnd : Nat → Frac → Int) : GroupRec :=
  let mx := maxAbs m
  let x0 : Nat := if mx.num = 0 then 0 else (mx.floorLog2 + (if lean then 127 else 125)).toNat
  let pe : Int := (x0 : Int) - 127
  let p := Frac.pow2 pe
  let codes := m.map fun v => let y := v.div p; if lean then nearLean y else nearFp4 y
  let r0 := List.zipWith (fun v c => v.sub (Frac.scaled (p0Int lean c) (pe - 1))) m codes
  let a0 := maxAbs r0
  let d1 := largestDown (fun d => a0.le (Frac.scaled 7 (pe - d))) 15
  let u1 := Frac.pow2 (pe - d1)
  let q1 := r0.map fun r => (r.div u1).roundHalfEven
  let r1 := List.zipWith (fun r q => r.sub (Frac.scaled q (pe - d1))) r0 q1
  let a1 := maxAbs r1
  let d2 := largestDown (fun d => a1.le (Frac.scaled 127 (pe - d1 - d))) 15
  let u2 := Frac.pow2 (pe - d1 - d2)
  let q2 := r1.zipIdx.map fun p => rnd p.2 (p.1.div u2)
  let r2 := List.zipWith (fun r q => r.sub (Frac.scaled q (pe - d1 - d2))) r1 q2
  { x0 := x0, v0 := codes, d1 := d1, q1 := q1, d2 := d2, q2 := q2, dev := maxAbs r2 }

/-- A value that a rounding to integers changes. -/
def Frac.inexact (x : Frac) : Bool := (x.sub (Frac.ofInt x.floor)).num != 0

/-- The elements of a group whose P2 value is inexact (R222). -/
def groupInexact (lean : Bool) (m : List Frac) : List Bool :=
  (buildGroup lean m fun _ x => if x.inexact then 1 else 0).q2.map (· == 1)

/-- Stochastic rounding to an integer grid with an `n`-bit chunk value `r` (R222). -/
def stochInt (n : Nat) (r : Nat) (x : Frac) : Int :=
  let lo := x.floor
  let f := x.sub (Frac.ofInt lo)
  if f.num = 0 then lo
  else if (r : Int) < (f.mul ⟨2 ^ n, 1⟩).roundHalfUp then lo + 1 else lo

/-- DEVX of the largest deviation of a token (R31). -/
def devxOf (d : Frac) : Nat :=
  if d.num = 0 then 0
  else
    let e := d.floorLog2
    let ce := if d.le (Frac.pow2 e) then e else e + 1
    Nat.min 255 (Nat.max 1 (ce + 127).toNat)

def tokenDevx (t : List GroupRec) : Nat := devxOf (t.foldl (fun m g => Frac.max m g.dev) ⟨0, 1⟩)
def tokenScale (t : List GroupRec) : Nat := t.foldl (fun m g => Nat.max m g.x0) 0

/-- The base of a slab and the stored TMS of its tokens (R16). -/
def slabBase (slab : List (List GroupRec)) : Nat := slab.foldl (fun m t => Nat.max m (tokenScale t)) 0
def storedTms (base : Nat) (t : List GroupRec) : Nat := Nat.max (tokenScale t) (base - 15)

/-- Packing of 4-bit and 2-bit codes, low first. -/
def packNibbles : List Nat → List Byte
  | a :: b :: r => BitVec.ofNat 8 (a % 16 + 16 * (b % 16)) :: packNibbles r
  | [a] => [BitVec.ofNat 8 (a % 16)]
  | [] => []

def packCrumbs : List Nat → List Byte
  | a :: b :: c :: d :: r => BitVec.ofNat 8 (a % 4 + 4 * (b % 4) + 16 * (c % 4) + 64 * (d % 4)) :: packCrumbs r
  | _ => []

/-- What the headers of one build share (R17). -/
structure BuildInfo where
  lean     : Bool
  epoch    : Nat
  psid     : Nat
  hd       : Nat
  dithered : Bool
deriving DecidableEq, Repr

def recHeader (b : BuildInfo) (kind chunk base flags tms ntok devx : Nat) (off : List Nat) : List Byte :=
  leBytes 1 kind ++ [4] ++ leBytes 2 chunk ++ leBytes 4 base ++ leBytes 4 b.epoch ++ leBytes 1 b.psid ++
  leBytes 1 flags ++ leBytes 2 b.hd ++ leBytes 1 tms ++ leBytes 1 ntok ++ leBytes 1 devx ++ [0] ++
  padTo 32 (packNibbles off) ++ List.replicate 12 0

/-- The P0 tile of chunk `c` of a slab (R17, R19). -/
def buildTile (b : BuildInfo) (slab : List (List GroupRec)) (tokenBase c : Nat) : List Byte :=
  let base := slabBase slab
  let n := slab.length
  let grp (t : List GroupRec) (j : Nat) : GroupRec := t.getD (2 * c + j) ⟨0, [], 0, [], 0, [], ⟨0, 1⟩⟩
  let off := slab.map fun t => base - storedTms base t
  let hdr := recHeader b (if b.lean then 2 else 1) c tokenBase (if n < 64 then 2 else 0) base n 0
    (off ++ List.replicate (64 - n) 0)
  let data := slab.flatMap fun t =>
    let codes := (grp t 0).v0 ++ (grp t 1).v0
    if b.lean then packCrumbs codes else packNibbles codes
  let scales := (List.range 2).flatMap fun j => padTo 64 (slab.map fun t => BitVec.ofNat 8 (grp t j).x0)
  let offs := (List.range 2).flatMap fun j => padTo 32 (packNibbles (slab.map fun t => (grp t j).d1))
  sealRecord (padTo (tileSize b.lean) (hdr ++ padTo (if b.lean then 1024 else 2048) data ++ scales ++ offs))

/-- The P1 row record of a token (R20). -/
def buildP1 (b : BuildInfo) (t : List GroupRec) (id tms : Nat) : List Byte :=
  let hdr := recHeader b 3 0 id 0 tms 1 0 []
  sealRecord (padTo (p1Size b.hd) (hdr ++ packNibbles (t.flatMap fun g => g.q1.map (lowBits 4)) ++
    t.map (fun g => BitVec.ofNat 8 g.x0) ++ packNibbles (t.map (·.d1))))

/-- The P2 row record of a token (R20). -/
def buildP2 (b : BuildInfo) (t : List GroupRec) (id tms : Nat) : List Byte :=
  let hdr := recHeader b 4 0 id (if b.dithered then 1 else 0) tms 1 (tokenDevx t) []
  sealRecord (padTo (p2Size b.hd) (hdr ++ (t.flatMap fun g => g.q2.map fun q => BitVec.ofNat 8 (lowBits 8 q)) ++
    packNibbles (t.map (·.d2))))

end Sys2Proof.Machine
end

