-- ==== Sys2Proof/Config.lean ====
section
/-! DEFINITION. The values that the spec leaves open: opaque constants without a body, applied to the state's counter of free values (log entry 2). Nothing in Lean can evaluate one. -/

namespace Sys2Proof

/-- A fresh 64-bit value. -/
opaque Config.free64 : Nat → Word64

/-- A fresh 32-bit value. -/
opaque Config.free32 : Nat → BitVec 32

/-- A fresh 32-bit value by number and index. -/
opaque Config.freeWord : Nat → Nat → BitVec 32

/-- A fresh natural number. -/
opaque Config.freeNat : Nat → Nat

/-- A fresh byte string of a given length. -/
opaque Config.freeByte : Nat → Nat → Byte

/-- A fresh choice. -/
opaque Config.freeBool : Nat → Nat → Bool

/-- The Sorrel lane that rounds an element, modulo the lanes of its kind in its cluster: the build's number, the token or row, the element (R221). -/
opaque Config.freeLane : Nat → Nat → Nat → Nat

/-- A Sorrel chunk drawn past a reseed whose jitter word the model has not been given: the build's number, the lane, its count of chunks (R221 to R223; log entry 113). -/
opaque Config.freeChunk : Nat → Nat → Nat → BitVec 4

/-- The pipeline score of a token in a row whose score path lacks an input, by `STEP_ID`, row and place of the token in the window (R425, R433; log entry 112). -/
opaque Config.blindScore : Nat → Nat → Nat → BitVec 32

/-- A 32-bit value that a step leaves open, by `STEP_ID`, kind and index: the same on every chip and in every run of the step (R425; log entry 126). -/
opaque Config.stepWord : Nat → Nat → Nat → BitVec 32

/-- A byte that a step leaves open, likewise. -/
opaque Config.stepByte : Nat → Nat → Nat → Byte

/-- A logprob over a reference that is not finite, which R249 leaves open, by what every chip of the group knows of it: the reference score of the token and each chip's Ar_C (log entry 127). -/
opaque Config.lpOfRef : BitVec 32 → List (BitVec 32) → BitVec 32

/-- `CLAMP` with a bound that is NaN, by its operands (R149; log entry 128). -/
opaque Config.clampNan : BitVec 32 → BitVec 32 → BitVec 32 → BitVec 32

/-- In units of 2^-63, Lg of 0, and modulo 2^33 what Lg of an integer below 2^63 has beyond the formula of R174; and the quotient of R177 over an empty Σ*, by M* (log entry 132). -/
opaque Config.lgBelow : Nat → Int
opaque Config.entEmpty : Nat → BitVec 32

/-- The SEC-DED code of the fuse words, which R504 does not give: the word that a stored word and its check bits stand for, none when the error is uncorrectable. -/
opaque Config.fuseWord : BitVec 64 → BitVec 8 → Option (BitVec 64)

/-- The boundary cell that drives a bit of an output: the order of the cells is not given (R501). -/
opaque Config.cellOf : Nat → Nat → Nat

/-- The firmware version that Farrier reports (R403). -/
opaque Config.fwVer : BitVec 16

/-- The lowest MCLK of the four channel groups in kHz, which the host die's clocks fix (R422, R461). -/
opaque Config.mclkKHz : Nat

/-- The hidden format of G2 and G3 descriptors, which R305 does not give, as a code of R335 modulo 3. -/
opaque Config.descHFmt : Nat

/-- The bits that `BISTSTAT` shows for a result: 0 no test yet, 1 passed, 2 failed. R502 gives no format. -/
opaque Config.bistCode : Nat → List Bool

end Sys2Proof
end

