-- ==== Sys2Proof/Machine/Campion.lean ====
section
/-! DEFINITION. Campion functions to the bit (chapter 06): the table entries by their definition, the segment rule, the built-ins, the DXQ3 functions, user tables, micro-programs and the commit check. -/

namespace Sys2Proof.Machine

/-- The precision, in bits, of the series that give the real table functions; DEDUCED to suffice for their rounding to the 62 bits of R138. -/
def fixW : Nat := 200

def fixOne : Nat := 2 ^ fixW

/-- `Σ z^(2i+1)/(2i+1)` for a fixed-point `z < 1/2`: the inverse hyperbolic tangent. -/
def fixAtanh (z : Nat) : Nat :=
  let z2 := z * z / fixOne
  ((List.range 80).foldl (fun (p : Nat × Nat) i => (p.1 * z2 / fixOne, p.2 + p.1 / (2 * i + 1))) (z, 0)).2

/-- `ln(a / b)` for `b ≤ a ≤ 2b`. -/
def fixLn (a b : Nat) : Nat := 2 * fixAtanh ((a - b) * fixOne / (a + b))

def fixLn2 : Nat := fixLn 2 1

/-- The exponential of a fixed-point number below 1. -/
def fixExp (x : Nat) : Nat :=
  ((List.range 50).foldl (fun (p : Nat × Nat) i => (p.1 * x / (fixOne * (i + 1)), p.2 + p.1)) (fixOne, 0)).2

/-- `2^v` for a rational `v = n/d` in [0, 1]. -/
def fixPow2 (n d : Nat) : Nat := fixExp (n * fixLn2 / d)

/-- `log2(1 + n/d)`. -/
def fixLog2 (n d : Nat) : Nat := fixLn (d + n) d * fixOne / fixLn2

/-- The arctangent of `1/q`. -/
def fixAtanInv (q : Nat) : Int :=
  ((List.range 90).foldl (fun (p : Nat × Int) i =>
    (p.1 / (q * q), p.2 + (if i % 2 = 0 then 1 else -1) * ((p.1 / (2 * i + 1) : Nat) : Int))) (fixOne / q, 0)).2

/-- π by Machin's formula. -/
def fixPi : Nat := (16 * fixAtanInv 5 - 4 * fixAtanInv 239).toNat

/-- The cosine of a fixed-point number below 2. -/
def fixCos (x : Nat) : Int :=
  ((List.range 40).foldl (fun (p : Nat × Int) i =>
    (p.1 * x / (fixOne * (2 * i + 1)) * x / (fixOne * (2 * i + 2)),
     p.2 + (if i % 2 = 0 then 1 else -1) * (p.1 : Int))) (fixOne, 0)).2

/-- `tanh(n/d)` for a non-negative rational below 32. -/
def fixTanh (n d : Nat) : Nat :=
  let y := 2 * n * fixOne / d
  let k := y / fixLn2
  let e := fixExp (y % fixLn2) * 2 ^ k
  (e - fixOne) * fixOne / (e + fixOne)

/-- A fixed-point number to the nearest multiple of `2^-q`, as an integer. -/
def fixRound (q : Nat) (x : Int) : Int := (⟨x, 2 ^ (fixW - q)⟩ : Frac).roundHalfEven

/-- Table functions of R139, at `v = n/d`, in fixed point. -/
inductive TabFn where
  | pow2Neg | pow2 | log2 | tanhBinade (k : Int) | cosHalfPi
deriving DecidableEq, Repr

def TabFn.eval (f : TabFn) (n d : Nat) : Int :=
  match f with
  | .pow2Neg => ((fixPow2 (d - n) d / 2 : Nat) : Int)
  | .pow2 => (fixPow2 n d : Int)
  | .log2 => (fixLog2 n d : Int)
  | .tanhBinade k =>
    if 0 ≤ k then (fixTanh ((d + n) * 2 ^ k.toNat) d : Int) else (fixTanh (d + n) (d * 2 ^ (-k).toNat) : Int)
  | .cosHalfPi => fixCos (fixPi * n / (2 * d))

/-- The polynomial of a segment at `t` of `2^τ` (R138). -/
def segPoly (y mu y1 : Int) (t tau : Nat) : Int :=
  let b := 4 * mu - 3 * y - y1
  let a := 2 * y + 2 * y1 - 4 * mu
  y * 2 ^ (2 * tau) + b * t * 2 ^ tau + a * t * t

/-- P of segment `j` of an `n`-segment table of a function at precision `q` (R138). -/
def tabPoly (f : TabFn) (n q tau j t : Nat) : Int :=
  let nd (i : Nat) : Int := fixRound q (f.eval i (2 * n))
  segPoly (nd (2 * j)) (nd (2 * j + 1)) (nd (2 * j + 2)) t tau

/-- `rne(log2(e)·2^62)` and `rne(ln 2·2^64)` (R139, R140). -/
def cL2E : Nat := (fixRound 62 (fixOne * fixOne / fixLn2 : Nat)).toNat
def cL2 : Int := fixRound 64 fixLn2

/-- A positive binary32 as `2^k·(1 + F/2^23)`, subnormals normalised (R139). -/
def normParts (x : F32) : Int × Nat :=
  let m := F32.fracField x
  if F32.expField x = 0 then
    let sh := 24 - bitLength m
    ((-126 : Int) - sh, m * 2 ^ sh - 2 ^ 23)
  else ((F32.expField x : Int) - 127, m)

/-- `floor(x)` and the fraction of a rational, as integers scaled by `2^w`: `(k, floor((x − k)·2^w))` (R139). -/
def splitFloor (x : Frac) (w : Nat) : Int × Nat :=
  let k := x.floor
  (k, ((x.sub (Frac.ofInt k)).mul ⟨2 ^ w, 1⟩).floor.toNat)

/-- E of a positive exact difference (R140); zero when it is 64 or more. -/
def expfxDelta (delta : Frac) : Nat :=
  if (Frac.ofInt 64).le delta then 0
  else
    let df := (delta.mul ⟨2 ^ 48, 1⟩).floor.toNat
    let d := df * cL2E / 2 ^ 62
    let k := d / 2 ^ 48
    if 64 ≤ k then 0
    else
      let f := d % 2 ^ 48
      (⟨tabPoly .pow2Neg 256 62 40 (f / 2 ^ 40) (f % 2 ^ 40), 2 ^ (79 + k)⟩ : Frac).roundHalfEven.toNat

/-- The DXQ3 segment value in units of `2^-46` (R145): `f` in fixed point at the segment ends. -/
def dxq3Poly (f0 f1 : Int) (t : Nat) : Int :=
  fixRound 30 f0 * 2 ^ 16 + fixRound 30 (f1 - f0) * t

/-- `EXP2` (R139, R141, R145). -/
def cfExp2 (compat : Bool) (x : F32) : F32 :=
  if F32.isNan x then fNan
  else if x == fPinf then fPinf
  else if x == fNinf then 0
  else
    let v := F32.val x
    if v.lt (Frac.ofInt (-150)) then 0
    else if (Frac.ofInt 128).le v then fPinf
    else if compat then
      let (k, f) := splitFloor v 23
      let j := f / 2 ^ 16
      rne32 (Frac.scaled (dxq3Poly (TabFn.pow2.eval j 128) (TabFn.pow2.eval (j + 1) 128) (f % 2 ^ 16)) (k - 46))
    else
      let (k, f) := splitFloor v 48
      rne32 (Frac.scaled (tabPoly .pow2 256 61 40 (f / 2 ^ 40) (f % 2 ^ 40)) (k - 141))

/-- `LOG2` scaled: the exact value before rounding, as `k` and the polynomial (R139). -/
def cfLog2 (compat : Bool) (x : F32) : F32 :=
  if F32.isNan x then fNan
  else if x == fPinf then fPinf
  else if (F32.val x).num = 0 then fNinf
  else if F32.isNeg x then fNan
  else
    let (k, f) := normParts x
    if compat then
      let j := f / 2 ^ 16
      rne32 (Frac.scaled (k * 2 ^ 46 + dxq3Poly (TabFn.log2.eval j 128) (TabFn.log2.eval (j + 1) 128) (f % 2 ^ 16)) (-46))
    else
      rne32 (Frac.scaled (k * 2 ^ 92 + tabPoly .log2 256 62 15 (f / 2 ^ 15) (f % 2 ^ 15)) (-92))

/-- `LN` (R139, R141, R145). -/
def cfLn (compat : Bool) (x : F32) : F32 :=
  if F32.isNan x then fNan
  else if x == fPinf then fPinf
  else if (F32.val x).num = 0 then fNinf
  else if F32.isNeg x then fNan
  else if compat then F32.mul .even (cfLog2 true x) 0x3F317218
  else
    let (k, f) := normParts x
    rne32 (Frac.scaled ((k * 2 ^ 92 + tabPoly .log2 256 62 15 (f / 2 ^ 15) (f % 2 ^ 15)) * cL2) (-156))

/-- `TANH` (R139, R141, R145). -/
def cfTanh (compat : Bool) (x : F32) : F32 :=
  if F32.isNan x then fNan
  else
    let neg := F32.isNeg x
    let sgn (r : F32) : F32 := if neg && r != 0 then r ^^^ 0x80000000 else r
    let v := (F32.val x).abs
    if F32.isInf x || (Frac.ofInt (if compat then 8 else 10)).le v then sgn 0x3F800000
    else if v.lt (Frac.pow2 (-12)) then sgn (x &&& 0x7FFFFFFF)
    else if compat then
      let X := (v.mul ⟨2 ^ 20, 1⟩).floor.toNat
      let j := X / 2 ^ 16
      sgn (rne32 (Frac.scaled (dxq3Poly (fixTanh j 16) (fixTanh (j + 1) 16) (X % 2 ^ 16)) (-46)))
    else
      let (k, f) := normParts (x &&& 0x7FFFFFFF)
      sgn (rne32 (Frac.scaled (tabPoly (.tanhBinade k) 128 62 16 (f / 2 ^ 16) (f % 2 ^ 16)) (-94)))

/-- The integer square root, one bit a step. -/
def isqrtBits : Nat → Nat → Nat → Nat
  | 0, _, r => r
  | b + 1, n, r => let c := r + 2 ^ b; isqrtBits b n (if c * c ≤ n then c else r)

def isqrt (n : Nat) : Nat := isqrtBits (bitLength n / 2 + 1) n 0

/-- `SQRT`, correctly rounded (R139, R141). -/
def cfSqrt (x : F32) : F32 :=
  if F32.isNan x then fNan
  else if x == fPinf then fPinf
  else if (F32.val x).num = 0 then 0
  else if F32.isNeg x then fNan
  else
    let (k, f) := normParts x
    let m := (2 ^ 23 + f) * (if k % 2 = 0 then 2 ^ 41 else 2 ^ 42)
    let s := isqrt m
    rne32 (Frac.scaled (2 * s + (if s * s < m then 1 else 0) : Nat) (k.fdiv 2 - 33))

/-- `COS2PI` of an exact argument (R139, R230). -/
def cfCos2piExact (x : Frac) : F32 :=
  let w := (splitFloor x 48).2
  let q := w / 2 ^ 46
  let g := w % 2 ^ 46
  let g' := if q = 0 ∨ q = 2 then g else 2 ^ 46 - g
  let p := if g' = 2 ^ 46 then fixRound 62 (TabFn.cosHalfPi.eval 1 1) * 2 ^ 76
           else tabPoly .cosHalfPi 256 62 38 (g' / 2 ^ 38) (g' % 2 ^ 38)
  let r := rne32 (Frac.scaled p (-138))
  if (q = 1 ∨ q = 2) ∧ r ≠ 0 then r ^^^ 0x80000000 else r

def cfCos2pi (x : F32) : F32 := if F32.isFinite x then cfCos2piExact (F32.val x) else fNan

/-- `EXPFX` of a score and a reference (R140, R145). -/
def cfExpfx (compat : Bool) (s m : F32) : Nat :=
  if F32.isNan s || F32.isNan m then 0
  else if s == fNinf then 0
  else if F32.le m s then 2 ^ 63
  else if m == fPinf then 0
  else if compat then
    let d3 := F32.mul .even (F32.sub .even m s) 0x3FB8AA3B
    ((F32.val (cfExp2 true (XR.toF32 .even (XR.of d3).neg))).mul ⟨2 ^ 63, 1⟩).floor.toNat
  else expfxDelta ((F32.val m).sub (F32.val s))

/-- `Φ(x) − 1/2` scaled by `2^W`, for a fixed-point `x` below 5: `φ(x)·Σ x^(2i+1)/(1·3·…·(2i+1))`. -/
def fixPhiHalf (x : Nat) : Nat :=
  let x2 := x * x / fixOne
  let s := ((List.range 120).foldl (fun (p : Nat × Nat) i =>
    (p.1 * x2 / (fixOne * (2 * i + 3)), p.2 + p.1)) (x, 0)).2
  let y := x2 / 2
  let k := y / fixLn2
  let e := fixOne * fixOne / fixExp (y % fixLn2) / 2 ^ k
  s * e / isqrt (2 * fixPi * fixOne)

/-- Bisection for `Φ(x) − 1/2 = p`. -/
def nicdfBits : Nat → Nat → Nat → Nat
  | 0, _, r => r
  | b + 1, p, r => let c := r + 2 ^ (b + fixW - 80); nicdfBits b p (if fixPhiHalf c ≤ p then c else r)

/-- The `NICDF` entry of an index (R139). -/
def cfNicdf (i : Nat) : F32 :=
  let n := 2 * i + 1
  let p := (if n < 4096 then 4096 - n else n - 4096) * fixOne / 8192
  let x := nicdfBits 83 p 0
  rne32 (Frac.mk (if n < 4096 then -(x : Int) else x) fixOne)

/-! User tables and micro-programs (R147 to R152). A bank is read as words by their offset in the Campion region (R159). -/

/-- A user-table descriptor (R150). -/
structure UTab where
  base : Nat
  ns   : Nat
  tau  : Nat
  q    : Nat
  geom : Nat
  mono : Bool
  monoDn : Bool
  oorNan : Bool
  valid : Bool
  xlo  : F32
  xs   : Int
deriving DecidableEq, Repr

def utab (rd : Nat → Word64) (n : Nat) : UTab :=
  let w0 := (rd (0x100 + 0x10 * n)).toNat
  let w1 := (rd (0x108 + 0x10 * n)).toNat
  { base := w0 % 2 ^ 12, ns := w0 / 2 ^ 12 % 16, tau := w0 / 2 ^ 16 % 64, q := w0 / 2 ^ 22 % 64
    geom := w0 / 2 ^ 28 % 4, mono := w0 / 2 ^ 30 % 2 = 1, monoDn := w0 / 2 ^ 31 % 2 = 1
    oorNan := w0 / 2 ^ 32 % 2 = 1, valid := w0 / 2 ^ 33 % 2 = 1
    xlo := BitVec.ofNat 32 w1, xs := signedOf 8 (w1 / 2 ^ 32) }

/-- Pool word `w`, signed. -/
def poolWord (rd : Nat → Word64) (w : Nat) : Int := (rd (0x8000 + 8 * (w % 4096))).toInt

/-- A register of a micro-program, by its class (R147). -/
inductive MVal where
  | unset
  | f (x : F32)
  | sNan
  | s (tab j t : Nat) (k : Int)
  | nNan
  | n (y mu y1 : Int) (tab t : Nat) (k : Int)
  | b (v : Bool)
deriving DecidableEq, Repr

/-- SPLIT of a user table (R151). -/
def utSplit (u : UTab) (tab : Nat) (x : F32) : MVal :=
  let n := 2 ^ u.ns
  if F32.isNan x then .sNan
  else match u.geom with
  | 0 =>
    let below : MVal := if u.oorNan then .sNan else .s tab 0 0 0
    let above : MVal := if u.oorNan then .sNan else .s tab n 0 0
    if x == fPinf then above
    else if x == fNinf then below
    else
      let v := (((F32.val x).sub (F32.val u.xlo)).mul (Frac.pow2 u.xs)).floor
      if v < 0 then below
      else if ((n * 2 ^ u.tau : Nat) : Int) ≤ v then above
      else .s tab (v.toNat / 2 ^ u.tau) (v.toNat % 2 ^ u.tau) 0
  | 1 =>
    if F32.isInf x || (F32.val x).num = 0 then .sNan
    else
      let (k, f) := normParts (x &&& 0x7FFFFFFF)
      .s tab (f / 2 ^ u.tau) (f % 2 ^ u.tau) k
  | _ =>
    if F32.isInf x then .sNan
    else
      let (k, w) := splitFloor (F32.val x) (u.ns + u.tau)
      .s tab (w / 2 ^ u.tau) (w % 2 ^ u.tau) k

/-- LOOKUP (R148). -/
def utLookup (rd : Nat → Word64) : MVal → MVal
  | .s tab j t k =>
    let u := utab rd tab
    let y (i : Nat) := poolWord rd (u.base + i)
    if j = 2 ^ u.ns then .n (y (2 * j)) (y (2 * j)) (y (2 * j)) tab t k
    else .n (y (2 * j)) (y (2 * j + 1)) (y (2 * j + 2)) tab t k
  | _ => .nNan

/-- KMODE applied before the one rounding (R148). Beyond ±1,000 a scaling saturates alike. -/
def kmode (m : Nat) (k : Int) (v : Frac) : Frac :=
  let kc := Max.max (-1000) (Min.min 1000 k)
  match m with
  | 0 => v
  | 1 => v.add (Frac.ofInt k)
  | 2 => v.mul (Frac.pow2 kc)
  | _ => v.mul (Frac.pow2 (-kc))

def noNegZero (x : F32) : F32 := if x = 0x80000000 then 0 else x

/-- A step of a micro-program: its fields (R147). -/
structure MStep where
  op : Nat
  d  : Nat
  a  : Nat
  b  : Nat
  c  : Nat
  kb : Bool
  imm : Nat
deriving DecidableEq, Repr

def mstepOf (w : Nat) : MStep :=
  { op := w / 2 ^ 28 % 16, d := w / 2 ^ 25 % 8, a := w / 2 ^ 22 % 8, b := w / 2 ^ 19 % 8, c := w / 2 ^ 16 % 8
    kb := w / 2 ^ 15 % 2 = 1, imm := w % 2 ^ 15 }

/-- Step `i` and constant `i` of program slot `p`, and its header (R159). -/
def progStep (rd : Nat → Word64) (p i : Nat) : MStep :=
  mstepOf ((rd (0x4000 + 0x100 * p + 8 * (i / 2))).toNat / (if i % 2 = 0 then 1 else 2 ^ 32) % 2 ^ 32)
def progConst (rd : Nat → Word64) (p i : Nat) : F32 :=
  BitVec.ofNat 32 ((rd (0x4000 + 0x100 * p + 128 + 8 * (i / 2))).toNat / (if i % 2 = 0 then 1 else 2 ^ 32))
def progLen (rd : Nat → Word64) (p : Nat) : Nat := (rd (0x4000 + 0x100 * p + 160)).toNat % 64
def progTwoIn (rd : Nat → Word64) (p : Nat) : Bool := (rd (0x4000 + 0x100 * p + 160)).toNat / 64 % 2 = 1

/-- The result of one basic step (R148). A CLAMP against a NaN bound, which the spec does not give, is a free value of its operands (log entry 128), the same in every run (R425). -/
def mstepRun (rd : Nat → Word64) (p : Nat) (v : List MVal) (st : MStep) : MVal :=
  let reg (i : Nat) := v.getD i .unset
  let opB := if st.kb then .f (progConst rd p (st.imm / 2 ^ 12 % 8)) else reg st.b
  match st.op, reg st.a with
  | 0, .f x => let tab := st.imm % 16; utSplit (utab rd tab) tab x
  | 1, s => utLookup rd s
  | 2, .n y _ y1 tab t k =>
    let u := utab rd tab
    .f (rne32 (kmode (st.imm % 4) k (Frac.scaled (y * 2 ^ u.tau + (y1 - y) * t) (-(u.q + u.tau : Nat)))))
  | 3, .n y mu y1 tab t k =>
    let u := utab rd tab
    .f (rne32 (kmode (st.imm % 4) k (Frac.scaled (segPoly y mu y1 t u.tau) (-(u.q + 2 * u.tau : Nat)))))
  | 2, _ => .f fNan
  | 3, _ => .f fNan
  | 4, .f x =>
    match opB, reg st.c with
    | .f y, .f z => .f (F32.fma .even x y z)
    | _, _ => .unset
  | 5, .f x => .f (XR.toF32 .even ((XR.of x).mul (.fin (Frac.pow2 (signedOf 9 (st.imm % 512))))))
  | 6, .f x =>
    match opB with
    | .f y => .b (match st.imm % 4 with
        | 0 => F32.lt x y
        | 1 => F32.le x y
        | 2 => F32.le x y && F32.le y x
        | _ => F32.isNan x || F32.isNan y)
    | _ => .unset
  | 7, .f x =>
    match opB, reg st.c with
    | .f y, .b c => .f (noNegZero (if c then x else y))
    | _, _ => .unset
  | 8, .f x =>
    match opB, reg st.c with
    | .f y, .f z =>
      if F32.isNan x then .f fNan
      else if F32.isNan y || F32.isNan z then .f (Config.clampNan x y z)
      else
        let m := if F32.le x y then y else x
        .f (noNegZero (if F32.le m z then m else z))
    | _, _ => .unset
  | 9, .f x => .f (XR.toF32 .even (XR.of x).neg)
  | _, _ => .unset

/-- A micro-program on its argument: V0 after its last step (R147). -/
def progRun (rd : Nat → Word64) (p : Nat) (x : F32) : F32 :=
  let v0 : List MVal := .f x :: List.replicate 7 .unset
  let v := (List.range (progLen rd p)).foldl (fun v i =>
    let st := progStep rd p i
    v.set st.d (mstepRun rd p v st)) v0
  match v.getD 0 .unset with
  | .f r => r
  | _ => fNan

/-- Register classes (R147). -/
inductive MClass where
  | unset | f | s | n | b
deriving DecidableEq, Repr

/-- The class a step gives, or none when a class, an op, a table or a reserved bit is wrong (R148, R149). R149's reserved bits are the bits of `IMM` that the op does not name; the register fields A, B, C and the bit KB of a step that does not use them are ignored (log entry 63, DEDUCED). -/
def mstepClass (rd : Nat → Word64) (v : List MClass) (st : MStep) : Option MClass :=
  let reg (i : Nat) := v.getD i .unset
  let usesB := st.op = 4 ∨ st.op = 6 ∨ st.op = 7 ∨ st.op = 8
  let named := (match st.op with | 0 => 2 ^ 4 | 2 => 2 ^ 2 | 3 => 2 ^ 2 | 5 => 2 ^ 9 | 6 => 2 ^ 2 | _ => 1)
  let immRest := if usesB ∧ st.kb = true then st.imm % 2 ^ 12 else st.imm
  let bF := st.kb || reg st.b == .f
  if immRest / named ≠ 0 then none
  else match st.op with
  | 0 => if reg st.a = .f ∧ (utab rd (st.imm % 16)).valid then some .s else none
  | 1 => if reg st.a = .s then some .n else none
  | 2 => if reg st.a = .n then some .f else none
  | 3 => if reg st.a = .n then some .f else none
  | 4 => if reg st.a = .f ∧ bF ∧ reg st.c = .f then some .f else none
  | 5 => if reg st.a = .f then some .f else none
  | 6 => if reg st.a = .f ∧ bF then some .b else none
  | 7 => if reg st.a = .f ∧ bF ∧ reg st.c = .b then some .f else none
  | 8 => if reg st.a = .f ∧ bF ∧ reg st.c = .f then some .f else none
  | 9 => if reg st.a = .f then some .f else none
  | _ => none

/-- The first failing step of a program, from step `i`, with `n` steps left (R149). -/
def progCheckFrom (rd : Nat → Word64) (p : Nat) : Nat → Nat → List MClass → Option Nat
  | 0, i, v => if v.getD 0 .unset = .f then none else some (i - 1)
  | n + 1, i, v =>
    let st := progStep rd p i
    match mstepClass rd v st with
    | none => some i
    | some c => progCheckFrom rd p n (i + 1) (v.set st.d c)

/-- The header's reserved bits (R159). -/
def progResv (rd : Nat → Word64) (p : Nat) : Nat := (rd (0x4000 + 0x100 * p + 160)).toNat / 2 ^ 7

/-- The check of a program slot: the step that `CF_SUB` names (R149, R155). R149 names no refusal of a `LENGTH` of 33 to 63, and no rule gives the `CF_SUB` of a header: such a program is refused with `CF_SUB` 31, and one whose header has a reserved bit set with `CF_SUB` 0 (log entry 108; DESIGN CHOICE). -/
def progCheck (rd : Nat → Word64) (p : Nat) : Option Nat :=
  let n := progLen rd p
  if n = 0 then none
  else if progResv rd p ≠ 0 then some 0
  else if 32 < n then some 31
  else progCheckFrom rd p n 0
    ([.f, if progTwoIn rd p then .f else .unset] ++ List.replicate 6 .unset)

/-- The descriptor conditions of R151. -/
def utabOk (u : UTab) : Bool :=
  decide (u.geom ≠ 3 ∧ u.tau ≤ 40 ∧ u.base + 2 ^ (u.ns + 1) ≤ 4095) && !(u.mono && u.monoDn) &&
  (match u.geom with
   | 0 => F32.isFinite u.xlo
   | 1 => decide (u.ns + u.tau = 23)
   | _ => decide (u.ns + u.tau ≤ 48))

/-- The first segment that breaks a MONO or MONO_DN promise (R152). -/
def monoFail (rd : Nat → Word64) (u : UTab) : Option Nat :=
  (List.range (2 ^ u.ns)).find? fun j =>
    let y := poolWord rd (u.base + 2 * j)
    let mu := poolWord rd (u.base + 2 * j + 1)
    let y1 := poolWord rd (u.base + 2 * j + 2)
    let b := 4 * mu - 3 * y - y1
    let e := b + 2 * (2 * y + 2 * y1 - 4 * mu)
    (u.mono && (b < 0 || e < 0)) || (u.monoDn && (0 < b || 0 < e))

/-- A refusal of the commit check: `CFAIL`, `CF_ITEM`, `CF_SUB` (R155, R159). -/
structure CommitFail where
  code : Nat
  item : Nat
  sub  : Nat
deriving DecidableEq, Repr

/-- The reserved bits of a descriptor's two words (R150). -/
def utabResv (rd : Nat → Word64) (n : Nat) : Bool :=
  (rd (0x100 + 0x10 * n)).toNat / 2 ^ 34 != 0 || (rd (0x108 + 0x10 * n)).toNat / 2 ^ 40 != 0

/-- The refusal of a user table (R151, R152). A `QBITS` of 63, outside the range of R150, is refused like the conditions that R151 lists, and so is an `NS` above 10 (log entry 109; DESIGN CHOICE). -/
def tableFail (rd : Nat → Word64) (n : Nat) : Option CommitFail :=
  let u := utab rd n
  if !u.valid then none
  else if utabResv rd n || !utabOk u || 10 < u.ns || 62 < u.q then some ⟨1, n, 0⟩
  else (monoFail rd u).map fun j => ⟨2, n, j⟩

/-- The first failure in ascending table and then program order (R155). -/
def commitCheck (rd : Nat → Word64) : Option CommitFail :=
  match (List.range 16).findSome? (tableFail rd) with
  | some f => some f
  | none => (List.range 64).findSome? fun p => (progCheck rd p).map fun i => ⟨3, p, i⟩

end Sys2Proof.Machine
end

