-- ==== Sys2Proof/Machine/Score.lean ====
section
/-! DEFINITION. The score path (chapter 05): parameter blocks and their checks, steps 3 to 8 on a score and its interval, the draws' Gumbel values, EMULATE3's reduction. -/

namespace Sys2Proof.Machine

/-- A parameter block (R117). -/
structure ParamBlock where
  ver      : Nat
  flags    : Nat
  maskEn   : Nat
  maskInv  : Nat
  maskSel  : List Nat
  invT     : F32
  softcap  : F32
  rho      : F32
  alpha    : F32
  phi      : F32
  topK     : Nat
  lbCount  : Nat
  topP     : Nat
  minP     : Nat
  rowMask  : Nat
  restZero : Bool
  lb       : List (Nat × F32)
deriving DecidableEq, Repr, Inhabited

/-- The length of a block in bytes: rounded up to 256 (R117); a count above 256 is not followed. -/
def pbLength (lbCount : Nat) : Nat := 256 * ceilDiv (256 + 8 * (if 256 < lbCount then 0 else lbCount)) 256

def parseParam (a : Array Byte) : ParamBlock :=
  let f32 (o : Nat) : F32 := BitVec.ofNat 32 (leAt a o 4)
  let n := leAt a 30 2
  { ver := byteAt a 0, flags := byteAt a 1, maskEn := byteAt a 2, maskInv := byteAt a 3
    maskSel := (List.range 4).map fun j => byteAt a (4 + j)
    invT := f32 8, softcap := f32 12, rho := f32 16, alpha := f32 20, phi := f32 24
    topK := leAt a 28 2, lbCount := n, topP := leAt a 32 4, minP := leAt a 36 4, rowMask := leAt a 40 8
    restZero := (List.range 208).all fun i => byteAt a (48 + i) == 0
    lb := (List.range (if 256 < n then 0 else n)).map fun j => (leAt a (256 + 8 * j) 4, f32 (260 + 8 * j)) }

def ParamBlock.nanAsMask (p : ParamBlock) : Bool := p.flags % 2 = 1
def ParamBlock.histPrompt (p : ParamBlock) : Bool := p.flags / 2 % 2 = 1
def ParamBlock.topkEn (p : ParamBlock) : Bool := p.flags / 4 % 2 = 1
def ParamBlock.toppEn (p : ParamBlock) : Bool := p.flags / 8 % 2 = 1
def ParamBlock.minpEn (p : ParamBlock) : Bool := p.flags / 16 % 2 = 1
def ParamBlock.rowMaskEn (p : ParamBlock) : Bool := p.maskEn / 16 % 2 = 1
def ParamBlock.maskOn (p : ParamBlock) (j : Nat) : Bool := p.maskEn / 2 ^ j % 2 = 1
def ParamBlock.maskNeg (p : ParamBlock) (j : Nat) : Bool := p.maskInv / 2 ^ j % 2 = 1
def ParamBlock.softOn (p : ParamBlock) : Bool := p.softcap != 0
/-- T = 0 (R130). -/
def ParamBlock.greedy (p : ParamBlock) : Bool := p.invT == fPinf
/-- `k_eff` (R171). -/
def ParamBlock.kEff (p : ParamBlock) : Nat := if p.topkEn then p.topK else 1024

def F32.positive (x : F32) : Bool := !F32.isNan x && decide (0 < (XR.of x).sgn)

def ascending : List Nat → Bool
  | a :: b :: r => decide (a < b) && ascending (b :: r)
  | _ => true

/-- Whether a parameter block passes the checks of R119; `serve` is the request's class, `loaded` the mask sets that are loaded. Padding bytes behind the last bias entry are not checked (log entry 111; DESIGN CHOICE). -/
def paramOk (p : ParamBlock) (serve : Bool) (loaded : Nat → Bool) : Bool :=
  p.ver == 4 && decide (p.flags < 32) && decide (p.maskEn < 32) && decide (p.maskInv < 32) &&
  p.maskSel.all (fun b => decide (b < 64)) && decide (p.rowMask < 2 ^ 48) && p.restZero &&
  F32.positive p.invT &&
  (p.softcap == 0 || (F32.positive p.softcap && F32.isFinite p.softcap)) &&
  F32.positive p.rho && F32.isFinite p.rho && F32.isFinite p.alpha && F32.isFinite p.phi &&
  decide (p.lbCount ≤ 256) && p.lb.all (fun e => decide (e.1 < 2 ^ 24) && !F32.isNan e.2) && ascending (p.lb.map (·.1)) &&
  (List.range 4).all (fun j => !p.maskOn j || loaded (p.maskSel.getD j 0 % 64)) &&
  (!p.rowMaskEn || (p.rowMask != 0 && p.rowMask % 256 == 0)) &&
  (!p.topkEn || decide (1 ≤ p.topK ∧ p.topK ≤ 1024)) &&
  (!p.toppEn || p.topP != 0) && (!p.minpEn || p.minP != 0) &&
  (serve || !(p.topkEn || p.toppEn || p.minpEn))

/-- What steps 3 to 8 read for one row and token. `beta` is the head-bias word when the step has a FUSE. -/
structure PathIn where
  fuse    : Option (F32 × F32)
  softcap : F32
  bias    : Option F32
  rho     : F32
  alpha   : F32
  phi     : F32
  count   : Nat
  masked  : Bool
  invT    : F32
  compat  : Bool
deriving DecidableEq, Repr

def step3 (p : PathIn) (x : F32) : F32 :=
  match p.fuse with
  | none => x
  | some (sigma, beta) => F32.fma .even x sigma beta

/-- The exact quotient of extended reals with a positive finite divisor. -/
def XR.divPos (x : XR) (c : F32) : XR :=
  match x with
  | .fin q => .fin (q.div (F32.val c))
  | y => y

def step4 (p : PathIn) (x : F32) : F32 :=
  if p.softcap == 0 then x
  else
    let t := cfTanh p.compat (((XR.of x).divPos p.softcap).toF32 .even)
    F32.mul .even p.softcap t

def step5 (p : PathIn) (x : F32) : F32 :=
  match p.bias with
  | none => x
  | some b => F32.add .even x b

/-- The repetition penalty (R125). -/
def step6r (p : PathIn) (x : F32) : F32 :=
  if p.rho == 0x3F800000 || p.count == 0 || F32.isNan x then x
  else
    let v := XR.of x
    if 0 < v.sgn then (v.divPos p.rho).toF32 .even
    else if v.sgn < 0 then (v.mul (XR.of p.rho)).toF32 .even
    else x

/-- The presence and frequency penalties, one rounding (R126). -/
def step6 (p : PathIn) (x : F32) : F32 :=
  let y := step6r p x
  let a := F32.val p.alpha
  let f := F32.val p.phi
  if p.count == 0 || (a.num == 0 && f.num == 0) then y
  else ((XR.of y).sub (.fin (a.add (f.mul (Frac.ofInt p.count))))).toF32 .even

def step8 (p : PathIn) (x : F32) : F32 :=
  if p.invT == 0x3F800000 || p.invT == fPinf then x else F32.mul .even x p.invT

/-- The next smaller and next larger binary32 (R146); no zero is negative. -/
def nextDown (x : F32) : F32 := if x = 0 then 0x80000001 else if F32.isNeg x then x + 1 else x - 1
def nextUp (x : F32) : F32 := if x = 0x80000001 then 0 else if F32.isNeg x then x - 1 else x + 1

/-- A score with its interval and its poison mark. -/
structure Group3 where
  v  : F32
  lo : F32
  hi : F32
deriving DecidableEq, Repr

/-- One step on a score and both endpoints; a NaN endpoint of a score that is none is opened (R116). -/
def Group3.app (f : F32 → F32) (g : Group3) : Group3 :=
  let v := f g.v
  let lo := f g.lo
  let hi := f g.hi
  if F32.isNan v then ⟨v, lo, hi⟩
  else ⟨v, if F32.isNan lo then fNinf else lo, if F32.isNan hi then fPinf else hi⟩

/-- The COMPAT widening after step 4 (R146). -/
def Group3.widen (p : PathIn) (g : Group3) : Group3 :=
  if p.compat then
    ⟨g.v, if F32.isFinite g.lo then nextDown g.lo else g.lo, if F32.isFinite g.hi then nextUp g.hi else g.hi⟩
  else g

/-- Steps 3 to 8 (R113). -/
def scorePath (p : PathIn) (g : Group3) : Group3 :=
  let g := (g.app (step3 p)).app (step4 p) |>.widen p
  let g := (g.app (step5 p)).app (step6 p)
  let g := if p.masked then ⟨fNinf, fNinf, fNinf⟩ else g
  g.app (step8 p)

/-- The interval at step 2 (R116). -/
def startGroup (s0 e : F32) : Group3 :=
  if F32.isNan s0 then ⟨fNan, fNan, fNan⟩
  else if F32.isInf s0 || F32.isInf e then ⟨s0, fNinf, fPinf⟩
  else ⟨s0, F32.sub .down s0 e, F32.add .up s0 e⟩

/-- The score path of a single value, as the refine lane runs it (R93). -/
def scoreOne (p : PathIn) (s : F32) : F32 := (scorePath p ⟨s, s, s⟩).v

/-! Draws (R213 to R216). -/

/-- Purpose codes (R215). -/
inductive Purpose where
  | gumbel | invcdf | specAccept | specResid | normal
deriving DecidableEq, Repr

def Purpose.code : Purpose → Nat
  | .gumbel => 1 | .invcdf => 2 | .specAccept => 3 | .specResid => 4 | .normal => 5

/-- The Philox evaluation of a draw (R214). -/
def drawBlock (seed : Word64) (key pos index : Nat) (p : Purpose) : PhiloxBlock :=
  philox ⟨BitVec.ofNat 32 index, BitVec.ofNat 32 pos, BitVec.ofNat 32 key, BitVec.ofNat 32 p.code⟩
    (seed.setWidth 32) ((seed >>> 32).setWidth 32)

/-- The 24-bit draw a (R216). -/
def draw24 (seed : Word64) (key pos index : Nat) (p : Purpose) : Nat := (drawBlock seed key pos index p).x0.toNat / 256

/-- The Gumbel value of a draw (R166). -/
def gumbelOf (compat : Bool) (a : Nat) : F32 :=
  let neg (x : F32) : F32 := XR.toF32 .even (XR.of x).neg
  neg (cfLn compat (neg (cfLn compat (rd32 (Frac.scaled (2 * a + 1 : Nat) (-25))))))

/-- The bound-table entries of a bin (R167). The built-in LN never steps backward (R143), so its bin's ends bound it; DEDUCED. -/
def gumbelLow (compat : Bool) (b : Nat) : F32 :=
  if compat then
    (List.range 4096).foldl (fun m i => let g := gumbelOf true (4096 * b + i); if F32.lt g m then g else m) fPinf
  else gumbelOf false (4096 * b)
def gumbelHigh (compat : Bool) (b : Nat) : F32 :=
  if compat then
    (List.range 4096).foldl (fun m i => let g := gumbelOf true (4096 * b + i); if F32.lt m g then g else m) fNinf
  else gumbelOf false (4096 * b + 4095)

/-! EMULATE3 (R426). -/

/-- A value to the nearest BF16, ties to even, as a binary32 with a zero lower half. -/
def roundBf16 (a : Frac) : F32 :=
  if a.num = 0 then 0
  else
    let n := a.num.natAbs
    let e := Max.max a.floorLog2 (-126)
    let k := if 7 ≤ e then roundMag true false n (a.den * 2 ^ (e - 7).toNat)
             else roundMag true false (n * 2 ^ (7 - e).toNat) a.den
    let m := Nat.min 0x7F80 ((e + 126).toNat * 2 ^ 7 + k)
    if m = 0 then 0 else BitVec.ofNat 32 ((m + if a.num < 0 then 2 ^ 15 else 0) * 2 ^ 16)

def XR.toBf16 : XR → F32
  | .fin q => roundBf16 q
  | x => x.toF32 .even

/-- One level of the reduction tree. -/
def emuLevel : List F32 → List F32
  | a :: b :: r => ((XR.of a).add (XR.of b)).toBf16 :: emuLevel r
  | l => l

/-- The tree over `v_0 ..`; ten levels serve 1,024 groups. -/
def emuTree (l : List F32) : F32 := ((List.range 11).foldl (fun l _ => emuLevel l) l).headD 0

/-- The screen score of EMULATE3 from the tiles of a slab. -/
def emuScore (h : HRow) (tiles : List (Array Byte)) (t : Nat) : F32 :=
  emuTree (tiles.zipIdx.flatMap fun p => (List.range 2).map fun j =>
    let g := 2 * p.2 + j
    roundBf16 (Frac.scaled (groupInt h g fun i => fp4Int (tileCode false p.1 t (32 * j + i)))
      ((tileX0 false p.1 t j : Int) - 128 + h.xa.getD g 0 - 127 + h.ua)))

end Sys2Proof.Machine
end

