-- ==== Sys2Proof/Machine/Program.lean ====
section
/-! DEFINITION. Step programs (chapters 12 and 13): the slots of a queue as instructions, the decode checks 1 to 3 of R331, the forms of R303 and R333, and the program of a step. -/

namespace Sys2Proof.Machine

/-- An instruction of a step program with its operands (R327 to R359). -/
inductive GInstr where
  | nop | halt
  | stepOpen (id : Nat)
  | rows (n slotAddr : Nat)
  | loadh (fmt hdim stride addr : Nat)
  | stepEnd (cpl : Nat)
  | screen (psid prec : Nat)
  | refine (k : Nat)
  | fuse (sigma : F32) (hb : Nat)
  | bias (noInf : Bool) (lbMax : Nat)
  | penal (noPen : Bool) (rhoMax pfMax : F32)
  | maskUse (noRow : Bool) (sets : Nat)
  | temp (cap : Bool) (lo hi : F32)
  | select (retain : Bool)
  | gumbel
  | draw (topp minp : Bool) (kcap : Nat)
  | verify (adapt : Bool) (dmax nent vt : Nat)
  | emit (tv : Nat)
  | scoreq (tbl out : Nat)
  | klref (sigma : F32) (hb : Nat)
  | grad (gd : Nat)
  | xmerge (ext write : Bool) (rounds kmax rnd gd : Nat)
  | digest (wr cmp : Bool) (dg : Nat)
  | launchat (gc : Nat)
  | barrier (bseq : Nat)
  | waitq (q count : Nat)
  | signal (fadd : Bool) (addr value : Nat)
  | fence (drain hostvis : Bool)
  | put (addr value : Nat)
  | get (len src dst : Nat)
  | repack (psid rd : Nat)
  | maskLoad (set base64 len64 src : Nat)
  | tabcommit
  | normal (nd cpl : Nat)
deriving DecidableEq, Repr, Inhabited

/-- Bits `msb:lsb` of a slot. -/
def slotBits (s : Slot) (msb lsb : Nat) : Nat := s.toNat / 2 ^ lsb % 2 ^ (msb + 1 - lsb)

def slotOpc (s : Slot) : Nat := slotBits s 7 0
def slotLoad (s : Slot) : Bool := slotBits s 8 8 = 1

/-- Check 1: the opcodes of R329. -/
def opcKnown (o : Nat) : Bool :=
  [0x00, 0x01, 0x10, 0x11, 0x12, 0x1F, 0x20, 0x21, 0x22, 0x23, 0x24, 0x25, 0x26, 0x28, 0x29, 0x2A, 0x2B, 0x2F,
   0x30, 0x31, 0x32, 0x38, 0x40, 0x41, 0x42, 0x43, 0x44, 0x48, 0x49, 0x50, 0x58, 0x59, 0x5A].contains o

/-- The place part of check 2 (R301, R329, R341): may the slot stand in a step body, or as a queue item. -/
def placeBody (s : Slot) : Bool :=
  let o := slotOpc s
  if o = 0x25 then !slotLoad s
  else [0x00, 0x11, 0x12, 0x20, 0x21, 0x22, 0x23, 0x24, 0x26, 0x28, 0x29, 0x2A, 0x2B, 0x2F, 0x30, 0x31, 0x32, 0x50, 0x5A].contains o
def placeQueue (s : Slot) : Bool :=
  let o := slotOpc s
  if o = 0x25 then slotLoad s
  else [0x00, 0x01, 0x38, 0x40, 0x41, 0x42, 0x43, 0x44, 0x48, 0x49, 0x58, 0x59].contains o

/-- The bits that the tables of chapter 13 name, by opcode; the others are reserved (R327). -/
def namedBits (s : Slot) : Nat :=
  let f (l : List (Nat × Nat)) : Nat := l.foldl (fun m p => m + (2 ^ (p.1 + 1 - p.2) - 1) * 2 ^ p.2) 0xFF
  match slotOpc s with
  | 0x10 => f [(63, 32)]
  | 0x11 => f [(26, 16), (111, 64)]
  | 0x12 => f [(9, 8), (25, 16), (63, 32), (111, 64)]
  | 0x1F => f [(111, 64)]
  | 0x20 => f [(11, 8), (13, 12)]
  | 0x21 => f [(22, 16)]
  | 0x22 => f [(63, 32), (111, 64)]
  | 0x31 => f [(63, 32), (111, 64)]
  | 0x23 => f [(8, 8), (24, 16)]
  | 0x24 => f [(8, 8), (63, 32), (95, 64)]
  | 0x25 => if slotLoad s then f [(8, 8), (21, 16), (49, 32), (79, 64), (127, 80)] else f [(8, 8), (9, 9), (127, 64)]
  | 0x26 => f [(8, 8), (63, 32), (95, 64)]
  | 0x28 => f [(8, 8)]
  | 0x2A => f [(8, 8), (9, 9), (26, 16)]
  | 0x2B => f [(8, 8), (19, 16), (41, 32), (111, 64)]
  | 0x2F => f [(111, 64)]
  | 0x30 => f [(63, 16), (111, 64)]
  | 0x32 => f [(111, 64)]
  | 0x38 => f [(11, 8), (111, 64)]
  | 0x40 => f [(127, 64)]
  | 0x41 => f [(63, 32)]
  | 0x42 => f [(12, 8), (63, 32)]
  | 0x43 => f [(8, 8), (63, 16), (127, 64)]
  | 0x44 => f [(8, 8), (9, 9)]
  | 0x48 => f [(63, 16), (127, 64)]
  | 0x49 => f [(12, 8), (63, 16), (111, 64)]
  | 0x50 => f [(8, 8), (9, 9), (11, 10), (26, 16), (63, 32), (111, 64)]
  | 0x59 => f [(63, 16), (111, 64)]
  | 0x5A => f [(8, 8), (9, 9), (111, 64)]
  | _ => 0xFF

/-- The instruction a slot spells, field by field. -/
def slotInstr (s : Slot) : GInstr :=
  let b := slotBits s
  let f32 (m l : Nat) : F32 := BitVec.ofNat 32 (b m l)
  let flag (i : Nat) : Bool := b i i = 1
  match slotOpc s with
  | 0x01 => .halt
  | 0x10 => .stepOpen (b 63 32)
  | 0x11 => .rows (b 26 16) (b 111 64)
  | 0x12 => .loadh (b 9 8) (b 25 16) (b 63 32) (b 111 64)
  | 0x1F => .stepEnd (b 111 64)
  | 0x20 => .screen (b 11 8) (b 13 12)
  | 0x21 => .refine (b 22 16)
  | 0x22 => .fuse (f32 63 32) (b 111 64)
  | 0x23 => .bias (flag 8) (b 24 16)
  | 0x24 => .penal (flag 8) (f32 63 32) (f32 95 64)
  | 0x25 => if slotLoad s then .maskLoad (b 21 16) (b 49 32) (b 79 64) (b 127 80) else .maskUse (flag 9) (b 127 64)
  | 0x26 => .temp (flag 8) (f32 63 32) (f32 95 64)
  | 0x28 => .select (flag 8)
  | 0x29 => .gumbel
  | 0x2A => .draw (flag 8) (flag 9) (b 26 16)
  | 0x2B => .verify (flag 8) (b 19 16) (b 41 32) (b 111 64)
  | 0x2F => .emit (b 111 64)
  | 0x30 => .scoreq (b 63 16) (b 111 64)
  | 0x31 => .klref (f32 63 32) (b 111 64)
  | 0x32 => .grad (b 111 64)
  | 0x38 => .repack (b 11 8) (b 111 64)
  | 0x40 => .launchat (b 127 64)
  | 0x41 => .barrier (b 63 32)
  | 0x42 => .waitq (b 12 8) (b 63 32)
  | 0x43 => .signal (flag 8) (b 63 16) (b 127 64)
  | 0x44 => .fence (flag 8) (flag 9)
  | 0x48 => .put (b 63 16) (b 127 64)
  | 0x49 => .get (b 12 8 + 1) (b 63 16) (b 111 64)
  | 0x50 => .xmerge (flag 8) (flag 9) (b 11 10) (b 26 16) (b 63 32) (b 111 64)
  | 0x58 => .tabcommit
  | 0x59 => .normal (b 63 16) (b 111 64)
  | 0x5A => .digest (flag 8) (flag 9) (b 111 64)
  | _ => .nop

def alignedTo (n a : Nat) : Bool := a != 0 && a % n == 0
/-- A binary32 guard field from a low value up to +inf, no NaN, no negative zero (R338, R339). -/
def guardRange (lo : F32) (strict : Bool) (x : F32) : Bool :=
  !F32.isNan x && !F32.isNeg x && F32.le lo x && (!strict || !F32.le x lo)

/-- Ranges and alignments of check 3. `scoreStep` says that the step holds SCOREQ, which decides what ROWS must carry (chapter 13). -/
def fieldsOk (scoreStep : Bool) : GInstr → Bool
  | .rows n a => decide (1 ≤ n ∧ n ≤ 1024) && (if scoreStep then a == 0 else alignedTo 64 a)
  | .loadh f h st a => decide (f < 3 ∧ 1 ≤ h ∧ h ≤ 512 ∧ 66 * h ≤ 256 * st) && alignedTo 256 a
  | .stepEnd a => alignedTo 64 a
  | .screen _ p => decide (p < 3)
  | .refine k => decide (k ≤ 64)
  | .fuse _ hb => hb % 256 == 0
  | .klref _ hb => hb % 256 == 0
  | .bias _ m => decide (m ≤ 256)
  | .penal _ r p => guardRange 0x3F800000 false r && guardRange 0 false p
  | .temp _ lo hi => guardRange 0 false lo && guardRange 0 true hi && F32.le lo hi
  | .draw _ _ k => decide (1 ≤ k ∧ k ≤ 1024)
  | .verify _ d n a => decide (1 ≤ d ∧ d ≤ 8 ∧ 1 ≤ n ∧ n ≤ 512) && alignedTo 64 a
  | .emit a => alignedTo 256 a
  | .scoreq t o => alignedTo 64 t && alignedTo 256 o
  | .grad a => alignedTo 64 a
  | .repack _ a => alignedTo 64 a
  | .signal _ a _ => alignedTo 8 a
  | .put a _ => alignedTo 8 a
  | .get _ s d => alignedTo 8 s && alignedTo 8 d
  | .maskLoad _ b n a => decide (1 ≤ n ∧ n ≤ 32768 ∧ b + n ≤ 2 ^ 18) && alignedTo 256 a
  | .normal n c => alignedTo 64 n && alignedTo 64 c
  | .xmerge _ _ r k n a =>
    decide ((r = 1 ∨ r = 2) ∧ k ≤ 1024 ∧ (k = 0 → r = 1) ∧ 1 ≤ n ∧ n + r ≤ 2 ^ 32) && alignedTo 64 a
  | .digest wr _ a => if wr then alignedTo 16 a else a == 0
  | .nop | .halt | .stepOpen _ | .maskUse _ _ | .select _ | .gumbel
  | .launchat _ | .barrier _ | .waitq _ _ | .fence _ _ | .tabcommit => true

/-- Check 3 on a slot. -/
def slotFieldsOk (scoreStep : Bool) (s : Slot) : Bool :=
  s.toNat &&& (2 ^ 128 - 1 - namedBits s) == 0 && fieldsOk scoreStep (slotInstr s)

/-- A failed decode: halt code (R300), slots after HEAD, order number of the check (R331). -/
structure DecFail where
  code  : Nat
  slot  : Nat
  order : Nat
deriving DecidableEq, Repr, Inhabited

/-- Pass 1 over a step's slots after its STEP, whose index is `i`. -/
def passOne (scoreStep : Bool) : Nat → List Slot → Option DecFail
  | _, [] => none
  | i, s :: r =>
    if !opcKnown (slotOpc s) then some ⟨0x09, i, 1⟩
    else if !(placeBody s || slotOpc s == 0x1F) then some ⟨0x03, i, 2⟩
    else if !slotFieldsOk scoreStep s then some ⟨0x02, i, 3⟩
    else passOne scoreStep (i + 1) r

/-- The opcodes met so far, for the form check. -/
def seen (l : List Nat) (o : Nat) : Bool := l.contains o

/-- Whether the slot of opcode `o` shows that the step breaks R303 or R333, after the opcodes `l`; `all` are those of the whole step. One that stands before what it must follow shows it where that comes later; where it never comes, `END` shows that it is missing (R331). -/
def formBreak (all l : List Nat) (o : Nat) : Bool :=
  let early (x : Nat) : Bool := !seen l x && all.contains x
  let once := [0x11, 0x12, 0x20, 0x28, 0x2F, 0x30, 0x21, 0x22, 0x31, 0x23, 0x24, 0x26, 0x25, 0x29, 0x2A, 0x2B, 0x32, 0x50, 0x5A]
  (once.contains o && seen l o) || (seen l 0x5A && o != 0x1F) ||
  (match o with
   | 0x12 => early 0x11
   | 0x20 => early 0x12
   | 0x28 => early 0x20 || seen l 0x30
   | 0x2F => early 0x20 || seen l 0x30
   | 0x30 => seen l 0x28 || seen l 0x2F || seen l 0x2B
   | 0x2B => seen l 0x28 || seen l 0x30
   | 0x21 => early 0x12 || seen l 0x28 || seen l 0x30
   | 0x32 => !seen l 0x30 && (all.contains 0x30 || all.contains 0x28 || all.contains 0x2F)
   | 0x50 => !(seen l 0x28 || seen l 0x30) && (all.contains 0x28 || all.contains 0x30)
   | 0x1F => !(seen l 0x11 && seen l 0x12 && seen l 0x20 && ((seen l 0x28 && seen l 0x2F) || seen l 0x30))
   | _ => [0x22, 0x31, 0x23, 0x24, 0x26, 0x25, 0x29, 0x2A].contains o && seen l 0x20)

/-- Pass 2: the form part of check 2, from index `i`, in a step of the opcodes `all`. -/
def passTwo (all : List Nat) : Nat → List Nat → List Slot → Option DecFail
  | _, _, [] => none
  | i, l, s :: r =>
    let o := slotOpc s
    if formBreak all l o then some ⟨0x03, i, 2⟩ else passTwo all (i + 1) (o :: l) r

/-- The slots of a step after its STEP up to and with its END, of at most 63 slots. -/
def takeToEnd : Nat → List Slot → Option (List Slot)
  | 0, _ => none
  | _, [] => none
  | n + 1, s :: r => if slotOpc s = 0x1F then some [s] else (takeToEnd n r).map (s :: ·)

/-- A group descriptor as Lead copies it (R183). -/
structure GroupDesc where
  c      : Nat
  self   : Nat
  mgId   : Nat
  rxBase : Nat
  rxBytes : Nat
  peers  : List (Nat × Nat × Nat × Nat)
deriving DecidableEq, Repr, Inhabited

/-- A gradient descriptor as Lead copies it (R250). -/
structure GradDesc where
  coef     : Bool
  dfmt     : Nat
  dhSrc    : Nat
  epsLo    : F32
  epsHi    : F32
  beta     : F32
  eta      : F32
  dlAddr   : Nat
  dlStride : Nat
  dhAddr   : Nat
  dhStride : Nat
deriving DecidableEq, Repr, Inhabited

/-- The program of a step: its operands, its guards and what Lead copied at decode (R332). -/
structure StepProg where
  stepId  : Nat
  gen     : Nat
  extReq  : Bool
  rows    : Nat
  slotAddr : Nat
  slots   : List Nat
  hfmt    : Nat
  hdim    : Nat
  stride  : Nat
  hidAddr : Nat
  psid    : Nat
  prec    : Nat
  k       : Nat
  fuse    : Option (F32 × Nat)
  bias    : Option (Bool × Nat)
  penal   : Option (Bool × F32 × F32)
  maskUse : Option (Bool × Nat)
  temp    : Option (Bool × F32 × F32)
  gumbel  : Bool
  draw    : Option (Bool × Bool × Nat)
  retain  : Bool
  verify  : Option (Bool × Nat × Nat × Nat)
  tv      : Nat
  scoreq  : Option (Nat × Nat)
  klref   : Option (F32 × Nat)
  gradAt  : Option Nat
  grad    : Option GradDesc
  xmerge  : Option (Bool × Bool × Nat × Nat × Nat × Nat)
  group   : Option GroupDesc
  digest  : Option (Bool × Bool × Nat)
  cpl     : Nat
deriving DecidableEq, Repr, Inhabited

def emptyProg : StepProg := { (default : StepProg) with k := 16, gen := 2 }

/-- What one instruction puts into its step's program. -/
def addInstr (p : StepProg) : GInstr → StepProg
  | .stepOpen id => { p with stepId := id }
  | .rows n a => { p with rows := n, slotAddr := a }
  | .loadh f h s a => { p with hfmt := f, hdim := h, stride := s, hidAddr := a }
  | .stepEnd c => { p with cpl := c }
  | .screen ps pr => { p with psid := ps, prec := pr }
  | .refine k => { p with k := k }
  | .fuse s hb => { p with fuse := some (s, hb) }
  | .bias n m => { p with bias := some (n, m) }
  | .penal n r f => { p with penal := some (n, r, f) }
  | .maskUse n s => { p with maskUse := some (n, s) }
  | .temp c lo hi => { p with temp := some (c, lo, hi) }
  | .gumbel => { p with gumbel := true }
  | .draw t m k => { p with draw := some (t, m, k) }
  | .select r => { p with retain := r }
  | .verify a d n t => { p with verify := some (a, d, n, t) }
  | .emit t => { p with tv := t }
  | .scoreq t o => { p with scoreq := some (t, o) }
  | .klref s hb => { p with klref := some (s, hb) }
  | .grad g => { p with gradAt := some g }
  | .xmerge e w r k n g => { p with xmerge := some (e, w, r, k, n, g) }
  | .digest w c a => { p with digest := some (w, c, a) }
  | _ => p

def progOf (l : List GInstr) : StepProg := l.foldl addInstr emptyProg

/-- Instructions that a command of their own brings into the program: the frame and the guards. -/
def isFrame : GInstr → Bool
  | .stepOpen _ | .rows _ _ | .stepEnd _ | .screen _ _ | .refine _ | .fuse _ _ | .bias _ _ | .penal _ _ _
  | .maskUse _ _ | .temp _ _ _ | .gumbel | .draw _ _ _ => true
  | _ => false

def StepProg.isScore (p : StepProg) : Bool := p.scoreq.isSome
def StepProg.paired (p : StepProg) : Bool := p.klref.isSome
/-- The classes a step admits, and its caps on SERVE (R342). -/
def StepProg.admitsRollout (p : StepProg) : Bool := p.gumbel || p.draw.isNone
def StepProg.admitsServe (p : StepProg) : Bool := p.draw.isSome || !p.gumbel
def StepProg.kcap (p : StepProg) : Nat := match p.draw with | some d => d.2.2 | none => 1024
def StepProg.toppOk (p : StepProg) : Bool := match p.draw with | some d => d.1 | none => true
def StepProg.minpOk (p : StepProg) : Bool := match p.draw with | some d => d.2.1 | none => true
/-- Whether a step admits the soft-cap (R340). -/
def StepProg.admitsSoft (p : StepProg) : Bool := match p.temp with | some t => t.1 | none => true
def StepProg.noRow (p : StepProg) : Bool := match p.maskUse with | some m => m.1 | none => false
def StepProg.hbAddr (p : StepProg) : Nat := match p.fuse with | some f => f.2 | none => 0

/-- The first parameter-block guard of its step that a block fails, by its cause of R477 (R339, R343). -/
def guardFail (p : StepProg) (b : ParamBlock) (serve : Bool) : Option Nat :=
  let xr := XR.of
  let biasOk := match p.bias with
    | some (noInf, m) => decide (b.lbCount ≤ m) && !(noInf && b.lb.any (fun e => F32.isInf e.2))
    | none => true
  let penalOk := match p.penal with
    | some (noPen, rm, pm) =>
      !(noPen && (b.rho != 0x3F800000 || (F32.val b.alpha).num != 0 || (F32.val b.phi).num != 0)) &&
      F32.le b.rho rm && (XR.fin ⟨1, 1⟩).le ((xr b.rho).mul (xr rm)) &&
      F32.le (b.alpha &&& 0x7FFFFFFF) pm && F32.le (b.phi &&& 0x7FFFFFFF) pm
    | none => true
  let tempOk := match p.temp with
    | some (cap, lo, hi) => (cap || b.softcap == 0) && F32.le lo b.invT && F32.le b.invT hi
    | none => true
  let maskOk := match p.maskUse with
    | some (noRow, sets) =>
      (List.range 4).all (fun j => !b.maskOn j || sets / 2 ^ (b.maskSel.getD j 0 % 64) % 2 == 1) && !(noRow && b.rowMaskEn)
    | none => true
  let drawOk := !serve ||
    ((if b.topkEn then decide (b.topK ≤ p.kcap) else decide (1024 ≤ p.kcap)) &&
     (!b.toppEn || p.toppOk) && (!b.minpEn || p.minpOk))
  if !biasOk then some 1 else if !penalOk then some 2 else if !tempOk then some 3 else if !maskOk then some 4
  else if !drawOk then some 5 else none

/-- A row fails the class guards of its step (R343, R346, R350), or asks of a G2 step what G2 lacks (R308). -/
def classFail (p : StepProg) (serve : Bool) (b : Option ParamBlock) : Bool :=
  (if serve || p.retain then !p.admitsServe else !p.admitsRollout) || (p.retain && !serve) ||
  (serve && (match p.xmerge with | some (_, _, r, _, _, _) => r == 1 | none => false)) ||
  (p.gen == 0 && (match b with | some x => x.toppEn || x.minpEn | none => false))

/-- A G2 descriptor that asks for what G2 lacks: a precision, a budget, a head scale or a head bias (R300, R305; DEDUCED). -/
def descLacks (gen : Nat) (d : Array Byte) : Bool :=
  gen = 0 && !(byteAt d 5 == 0 && byteAt d 6 == 0 && leAt d 48 4 == 0 && leAt d 56 8 == 0)

/-- A G2 or G3 descriptor as its step (R305, R306); `gen` is 0 for G2 and 1 for G3. None when a field breaks R305. -/
def descStep (gen idx : Nat) (d : Array Byte) : Option StepProg :=
  let n := leAt d 2 2
  let ok := decide (byteAt d 1 < 2) && decide (1 ≤ n ∧ n ≤ 1024) && decide (byteAt d 4 < 16) && byteAt d 7 == 0 &&
    leAt d 52 4 == 0 && [8, 24, 32, 40, 56].all (fun o => decide (leAt d o 8 < 2 ^ 48)) &&
    alignedTo 256 (leAt d 8 8) && alignedTo 64 (leAt d 24 8) && alignedTo 256 (leAt d 32 8) && alignedTo 64 (leAt d 40 8) &&
    leAt d 56 8 % 256 == 0 && leAt d 16 8 % 256 == 0 && decide (leAt d 16 8 < 2 ^ 40) &&
    (gen = 0 || (decide (byteAt d 5 < 3) && decide (byteAt d 6 ≤ 64)))
  if !ok then none
  else
    let sg := leAt d 48 4
    some { emptyProg with
      stepId := idx, gen := gen, extReq := byteAt d 1 % 2 = 1 && gen != 0, rows := n, slotAddr := leAt d 24 8
      stride := leAt d 16 8 / 256, hidAddr := leAt d 8 8, psid := byteAt d 4
      prec := if gen = 0 then 1 else byteAt d 5, k := if gen = 0 then 16 else byteAt d 6
      fuse := some (if sg = 0 then 0x3F800000 else BitVec.ofNat 32 sg, leAt d 56 8)
      tv := leAt d 32 8, cpl := leAt d 40 8 }

end Sys2Proof.Machine
end

