-- ==== Sys2Proof/Machine/Store.lean ====
section
/-! DEFINITION. Sparse stores: a list of (key, value) pairs in one canonical form, over what an unlisted key reads as. Host memory, Paddock slices, table banks and the register file are such stores. -/

namespace Sys2Proof.Machine

/-- A sparse store of values by key. -/
abbrev Store (α : Type) := List (Nat × α)

/-- The value at a key; an unlisted key reads as `d` gives it. -/
def Store.read {α : Type} (d : Nat → α) (l : Store α) (k : Nat) : α :=
  match l.find? (fun p => p.1 == k) with
  | some p => p.2
  | none => d k

/-- The entries that a run of values needs: those that differ from what an unlisted key reads as. -/
def Store.entries {α : Type} [DecidableEq α] (d : Nat → α) : Nat → List α → Store α
  | _, [] => []
  | a, v :: vs => if v = d a then Store.entries d (a + 1) vs else (a, v) :: Store.entries d (a + 1) vs

/-- Writes a run of values at the keys `a`, `a + 1`, … -/
def Store.writeRange {α : Type} [DecidableEq α] (d : Nat → α) (l : Store α) (a : Nat) (vs : List α) : Store α :=
  l.filter (fun p => p.1 < a) ++ Store.entries d a vs ++ l.filter (fun p => a + vs.length ≤ p.1)

/-- Writes one value. -/
def Store.write {α : Type} [DecidableEq α] (d : Nat → α) (l : Store α) (k : Nat) (v : α) : Store α :=
  Store.writeRange d l k [v]

/-- Walks a sorted list for the `n` values from key `a` on. -/
def Store.walk {α : Type} (d : Nat → α) : Nat → Nat → Store α → List α
  | 0, _, _ => []
  | n + 1, a, [] => d a :: Store.walk d n (a + 1) []
  | n + 1, a, (k, v) :: r =>
    if k = a then v :: Store.walk d n (a + 1) r else d a :: Store.walk d n (a + 1) ((k, v) :: r)

/-- The `n` values from key `a` on. -/
def Store.readRange {α : Type} (d : Nat → α) (l : Store α) (a n : Nat) : List α :=
  Store.walk d n a (l.filter fun p => a ≤ p.1 && p.1 < a + n)

/-- The canonical form: keys strictly rising, no entry equal to what an unlisted key reads as. -/
abbrev Store.wf {α : Type} (d : Nat → α) (l : Store α) : Prop :=
  l.Pairwise (fun p q => p.1 < q.1) ∧ ∀ p ∈ l, p.2 ≠ d p.1

end Sys2Proof.Machine
end

