-- ==== Sys2Proof/Machine/Regs.lean ====
section
/-! DEFINITION. The control space map (chapter 15 and the register tables of the other chapters): regions, fields, access codes, ranges and reset values. -/

namespace Sys2Proof.Machine

/-- A field of a register: byte offset of the register in the control space, lowest bit, width. -/
structure Fld where
  off   : Nat
  lsb   : Nat
  width : Nat
deriving DecidableEq, Repr

/-- Access codes of R9, with "RW while off" (R400), "RW in EMPTY" (R57) and the write-only tenant keys (R296). -/
inductive Acc where
  | ro | rw | rws | w1c | wo | rc | rwOff | rwEmpty
deriving DecidableEq, Repr

/-- The range that a register table states for a field (R401). -/
inductive Rng where
  | all
  | between (lo hi : Nat)
  | align (n : Nat)
deriving DecidableEq, Repr

def Rng.ok : Rng → Nat → Bool
  | .all, _ => true
  | .between lo hi, v => decide (lo ≤ v ∧ v ≤ hi)
  | .align n, v => v % n == 0

/-- One row of a register table. -/
structure FieldSpec where
  lsb   : Nat
  width : Nat
  acc   : Acc
  rng   : Rng
deriving DecidableEq, Repr

/-! Offsets (R397). -/
def rGCTL : Nat := 0x1000
def rGSTAT : Nat := 0x1008
def rLIFECYCLE : Nat := 0x1010
def rWIPE_STAT : Nat := 0x1018
def rPDW_SEL : Nat := 0x1020
def rMBOX_ARG : Nat := 0x1040
def rMBOX_CMD : Nat := 0x1048
def rMBOX_RSP : Nat := 0x1050
def rQ (q : Nat) : Nat := 0x2000 + 0x40 * q
def rARB_COMMIT : Nat := 0x4010
def rARB_STAT (g : Nat) : Nat := 0x4020 + 8 * g
def rARB_SLOT (n : Nat) : Nat := 0x4100 + 8 * n
def rLOCKSTEP_STAT : Nat := 0x5028
def rPD_CTL : Nat := 0x6000
def rPD_STAT (n : Nat) : Nat := 0x6008 + 8 * n
def rTMON (n : Nat) : Nat := 0x6200 + 8 * n
def rEV_SIZE : Nat := 0x7008
def rPS (n : Nat) : Nat := 0x8000 + 0x40 * n
def rCF : Nat := 0x10000
def rTK_HMWIN : Nat := 0x20020
def rMC_MODE (n : Nat) : Nat := 0x20040 + 8 * n
def rENT (slot word : Nat) : Nat := 0x100000 + 0x80 * slot + 8 * word
/-- Tenant keys are kept outside the control space's numbering, since two maps share their offsets (R399). -/
def kYKEY (tenant hi : Nat) : Nat := 0x8000000 + 0x10 * tenant + 8 * hi

/-! Fields. -/
def fGAIT : Fld := ⟨rGCTL, 0, 1⟩
def fSTRICT : Fld := ⟨rGCTL, 1, 1⟩
def fCOMPAT : Fld := ⟨rGCTL, 2, 1⟩
def fEMU3 : Fld := ⟨rGCTL, 3, 1⟩
def fKEYWIN : Fld := ⟨rGCTL, 4, 1⟩
def fFW_VER : Fld := ⟨0x08, 16, 16⟩
def fCL_SVC : Fld := ⟨rGSTAT, 0, 16⟩
def fCL_STALE : Fld := ⟨rGSTAT, 16, 16⟩
def fFARRIER_UP : Fld := ⟨rGSTAT, 38, 1⟩
def fHOLD : Fld := ⟨rGSTAT, 39, 1⟩
def fLC_BUSY : Fld := ⟨rLIFECYCLE, 8, 1⟩
def fPAD_DONE : Fld := ⟨rWIPE_STAT, 0, 16⟩
def fHAL_DONE : Fld := ⟨rWIPE_STAT, 16, 1⟩
def fTAB_DONE : Fld := ⟨rWIPE_STAT, 17, 1⟩
def fWIPE_ACTIVE : Fld := ⟨rWIPE_STAT, 18, 1⟩
def fWIPE_CAUSE : Fld := ⟨rWIPE_STAT, 19, 2⟩
def fWIPES : Fld := ⟨rWIPE_STAT, 32, 32⟩
def fPDW_CLUSTER : Fld := ⟨rPDW_SEL, 0, 4⟩
def fPDW_HALF : Fld := ⟨rPDW_SEL, 4, 1⟩
def fPDW_WEN : Fld := ⟨rPDW_SEL, 5, 1⟩
def fMB_ARG : Fld := ⟨rMBOX_ARG, 0, 64⟩
def fMB_CMD : Fld := ⟨rMBOX_CMD, 0, 8⟩
def fMB_SEQ : Fld := ⟨rMBOX_CMD, 8, 8⟩
def fMSTAT : Fld := ⟨rMBOX_RSP, 0, 8⟩
def fRSP_SEQ : Fld := ⟨rMBOX_RSP, 8, 8⟩
def fRETRY_US : Fld := ⟨rMBOX_RSP, 16, 16⟩
def fRESULT : Fld := ⟨rMBOX_RSP, 32, 32⟩

def fQ_BASE (q : Nat) : Fld := ⟨rQ q, 0, 48⟩
def fQ_ORDER (q : Nat) : Fld := ⟨rQ q + 0x08, 0, 5⟩
def fQ_HEAD (q : Nat) : Fld := ⟨rQ q + 0x10, 0, 32⟩
def fQ_DONE (q : Nat) : Fld := ⟨rQ q + 0x10, 32, 32⟩
def fQ_TAIL (q : Nat) : Fld := ⟨rQ q + 0x18, 0, 32⟩
def fQ_EN (q : Nat) : Fld := ⟨rQ q + 0x20, 0, 1⟩
def fQ_GEN (q : Nat) : Fld := ⟨rQ q + 0x20, 1, 2⟩
def fQ_PRIO (q : Nat) : Fld := ⟨rQ q + 0x20, 3, 2⟩
def fQ_STATE (q : Nat) : Fld := ⟨rQ q + 0x20, 5, 3⟩
def fQ_HALT (q : Nat) : Fld := ⟨rQ q + 0x20, 8, 8⟩
def fQ_SKIPS (q : Nat) : Fld := ⟨rQ q + 0x20, 32, 16⟩

def fLEASE_TMO : Fld := ⟨0x3000, 0, 16⟩
def fAGE_Q : Fld := ⟨0x3000, 16, 32⟩
def fYMISS : Fld := ⟨0x3000, 48, 1⟩
def fPS_WAITS : Fld := ⟨0x3008, 32, 16⟩
def fRING_VACANT : Fld := ⟨0x3008, 48, 16⟩
def fYDIR_BASE : Fld := ⟨0x3010, 0, 48⟩
def fYDIR_ORDER : Fld := ⟨0x3010, 48, 6⟩
def fYR_BASE : Fld := ⟨0x3018, 0, 48⟩
def fYR_ORDER : Fld := ⟨0x3018, 48, 5⟩
def fYR_PROD : Fld := ⟨0x3020, 0, 64⟩
def fYR_CONS : Fld := ⟨0x3028, 0, 64⟩
def fYR_DROP : Fld := ⟨0x3030, 0, 32⟩
def fYR_SKIP : Fld := ⟨0x3030, 32, 32⟩

def fARB_PRIO (r : Nat) : Fld := ⟨0x4000, 3 * r, 3⟩
def fARB_BURST (r : Nat) : Fld := ⟨0x4008, 8 * r, 8⟩
def fARB_PEND : Fld := ⟨rARB_COMMIT, 1, 4⟩
def fARB_CNUM : Fld := ⟨rARB_COMMIT, 16, 16⟩
def fARB_MODE (g : Nat) : Fld := ⟨rARB_STAT g, 0, 1⟩
def fARB_CUR (g : Nat) : Fld := ⟨rARB_STAT g, 1, 6⟩
def fARB_IDLE (g : Nat) : Fld := ⟨rARB_STAT g, 10, 1⟩
def fARB_CEPOCH (g : Nat) : Fld := ⟨rARB_STAT g, 16, 16⟩
def fPREEMPTS (g : Nat) : Fld := ⟨rARB_STAT g, 32, 16⟩
def fSLOT_REQ (n : Nat) : Fld := ⟨rARB_SLOT n, 0, 4⟩
def fSLOT_LEN (n : Nat) : Fld := ⟨rARB_SLOT n, 4, 12⟩

def fGC_NOW : Fld := ⟨0x5000, 0, 64⟩
def fBAR_EN : Fld := ⟨0x5010, 0, 1⟩
def fBAR_ROLE : Fld := ⟨0x5010, 1, 2⟩
def fREL_DLY : Fld := ⟨0x5010, 4, 12⟩
def fARRIVED : Fld := ⟨0x5018, 0, 32⟩
def fRELEASED : Fld := ⟨0x5018, 32, 32⟩
def fLS_EN : Fld := ⟨0x5020, 0, 1⟩
def fLS_SIDE : Fld := ⟨0x5020, 1, 1⟩
def fMISMATCH : Fld := ⟨rLOCKSTEP_STAT, 0, 1⟩
def fFIRST_TILE : Fld := ⟨rLOCKSTEP_STAT, 8, 24⟩
def fLS_STEP_ID : Fld := ⟨rLOCKSTEP_STAT, 32, 32⟩
def fDIGEST_PEER : Fld := ⟨0x5030, 0, 48⟩
def fXM_CNT : Fld := ⟨0x5038, 0, 64⟩
def fDG_LO : Fld := ⟨0x5040, 0, 64⟩
def fDG_HI : Fld := ⟨0x5048, 0, 64⟩

def fPD_BUSY : Fld := ⟨rPD_CTL, 1, 1⟩
def fPD_TARGET (n : Nat) : Fld := ⟨rPD_STAT n, 0, 2⟩
def fPSTATE (n : Nat) : Fld := ⟨rPD_STAT n, 2, 2⟩
def fPD_STALE (n : Nat) : Fld := ⟨rPD_STAT n, 5, 1⟩
def fSGEN (n : Nat) : Fld := ⟨rPD_STAT n, 16, 16⟩
def fTRANS (n : Nat) : Fld := ⟨rPD_STAT n, 32, 16⟩
def fBUDGET : Fld := ⟨0x6100, 0, 32⟩
def fHEADROOM : Fld := ⟨0x6100, 32, 32⟩
def fWINDOW : Fld := ⟨0x6108, 0, 16⟩
def fV_WARN (k : Nat) : Fld := ⟨0x6110, 8 * k, 7⟩
def fV_RESET (k : Nat) : Fld := ⟨0x6118, 8 * k, 7⟩
def fV_LOW (k : Nat) : Fld := ⟨0x6120, k, 1⟩
def fV_DIP (k : Nat) : Fld := ⟨0x6120, 4 + k, 1⟩
def fRST_CAUSE : Fld := ⟨0x6120, 8, 2⟩
def fDIPS : Fld := ⟨0x6120, 16, 16⟩
def fPT_REQ : Fld := ⟨0x6128, 0, 2⟩
def fPT_CUR : Fld := ⟨0x6128, 2, 2⟩
def fHALVED : Fld := ⟨0x6128, 4, 1⟩
def fCCLK : Fld := ⟨0x6128, 16, 12⟩
def fTHR_C : Fld := ⟨0x6130, 0, 8⟩
def fTRIP_C : Fld := ⟨0x6130, 8, 8⟩
def fTEMP (n : Nat) : Fld := ⟨rTMON n, 0, 12⟩
def fT_VALID (n : Nat) : Fld := ⟨rTMON n, 12, 1⟩
def fT_HOT (n : Nat) : Fld := ⟨rTMON n, 13, 1⟩
def fTMAX (n : Nat) : Fld := ⟨rTMON n, 16, 12⟩

def fEV_BASE : Fld := ⟨0x7000, 0, 48⟩
def fEV_ORDER : Fld := ⟨rEV_SIZE, 0, 5⟩
def fEV_EN : Fld := ⟨rEV_SIZE, 8, 1⟩
def fEV_DROP : Fld := ⟨rEV_SIZE, 32, 32⟩
def fEV_HEAD : Fld := ⟨0x7010, 0, 32⟩
def fEV_TAIL : Fld := ⟨0x7018, 0, 32⟩
def fERR_STAT : Fld := ⟨0x7020, 0, 19⟩
def fERR_CLASS (k : Nat) : Fld := ⟨0x7020, k, 1⟩
def fERR_MASK (k : Nat) : Fld := ⟨0x7028, k, 1⟩
def fCE_SRAM : Fld := ⟨0x7030, 0, 32⟩
def fCE_SEAL : Fld := ⟨0x7030, 32, 32⟩
def fUE_SRAM : Fld := ⟨0x7038, 0, 32⟩
def fUE_POISON : Fld := ⟨0x7038, 32, 32⟩
def fEXQ_DROPS : Fld := ⟨0x7040, 0, 32⟩
def fEXQ_HIGH : Fld := ⟨0x7040, 48, 9⟩
def fSTEP_MS : Fld := ⟨0x7048, 0, 16⟩
def fFHB_MS : Fld := ⟨0x7048, 16, 8⟩
def fSTEP_TO : Fld := ⟨0x7048, 32, 16⟩
def fFR_RST : Fld := ⟨0x7048, 48, 16⟩
def fSCRUB_EN : Fld := ⟨0x7050, 0, 1⟩
def fSCRUB_RATE : Fld := ⟨0x7050, 8, 8⟩
def fPASSES : Fld := ⟨0x7050, 32, 32⟩
def fEV_NOTE : Fld := ⟨0x7058, 0, 48⟩

def fPS_STATE (n : Nat) : Fld := ⟨rPS n, 0, 3⟩
def fPS_RES (n p : Nat) : Fld := ⟨rPS n, 3 + p, 1⟩
def fPS_MIRROR (n : Nat) : Fld := ⟨rPS n, 6, 1⟩
def fPS_DITHERED (n : Nat) : Fld := ⟨rPS n, 7, 1⟩
def fPS_FROZEN (n : Nat) : Fld := ⟨rPS n, 8, 1⟩
def fPS_PAIRED (n : Nat) : Fld := ⟨rPS n, 9, 1⟩
def fPS_REF (n : Nat) : Fld := ⟨rPS n, 12, 4⟩
def fPS_NPLACE (n : Nat) : Fld := ⟨rPS n, 16, 5⟩
def fPS_PDBASE (n : Nat) : Fld := ⟨rPS n, 21, 9⟩
def fPS_PDLEN (n : Nat) : Fld := ⟨rPS n, 30, 10⟩
def fPS_EPOCH (n : Nat) : Fld := ⟨rPS n + 0x08, 0, 32⟩
def fPS_VLO (n : Nat) : Fld := ⟨rPS n + 0x10, 0, 25⟩
def fPS_VHI (n : Nat) : Fld := ⟨rPS n + 0x10, 32, 25⟩
def fPS_HEADV (n : Nat) : Fld := ⟨rPS n + 0x18, 0, 25⟩
def fPS_HDIM (n : Nat) : Fld := ⟨rPS n + 0x18, 32, 10⟩
def fPS_P0FMT (n : Nat) : Fld := ⟨rPS n + 0x18, 48, 1⟩
def fPS_HOST (n p : Nat) : Fld := ⟨rPS n + 0x20 + 8 * p, 0, 48⟩
def fPS_DEVX (n : Nat) : Fld := ⟨rPS n + 0x38, 0, 8⟩
def fPS_DEVCNT (n : Nat) : Fld := ⟨rPS n + 0x38, 8, 24⟩
def fPS_DEVTOK (n : Nat) : Fld := ⟨rPS n + 0x38, 32, 24⟩

def fBANK_ACT : Fld := ⟨rCF, 0, 1⟩
def fSHADOW_ST : Fld := ⟨rCF, 1, 3⟩
def fWREJ_EV : Fld := ⟨rCF, 4, 1⟩
def fCF_EPOCH : Fld := ⟨rCF + 8, 0, 32⟩
def fPEND_EPOCH : Fld := ⟨rCF + 8, 32, 32⟩
def fCFAIL : Fld := ⟨rCF + 0x10, 4, 4⟩
def fCF_ITEM : Fld := ⟨rCF + 0x10, 8, 8⟩
def fCF_SUB : Fld := ⟨rCF + 0x10, 16, 16⟩
def fWREJ : Fld := ⟨rCF + 0x10, 32, 16⟩

def fCAP_PEER : Fld := ⟨0x20008, 0, 64⟩
def fVER_CAP : Fld := ⟨0x20010, 0, 2⟩
def fTK_MODE : Fld := ⟨0x20010, 2, 2⟩
def fTK_EPOCHS : Fld := ⟨0x20010, 4, 1⟩
def fLSTATE : Fld := ⟨0x20010, 5, 3⟩
def fTK_FAIL : Fld := ⟨0x20010, 8, 4⟩
def fAGENT_ID : Fld := ⟨0x20018, 0, 16⟩
def fAEPOCH : Fld := ⟨0x20018, 16, 16⟩
def fBASE_G : Fld := ⟨rTK_HMWIN, 0, 18⟩
def fSIZE_G : Fld := ⟨rTK_HMWIN, 18, 12⟩
def fILV : Fld := ⟨rTK_HMWIN, 30, 4⟩
def fMC_UP (n : Nat) : Fld := ⟨rMC_MODE n, 0, 1⟩
def fMC_GRAN (n : Nat) : Fld := ⟨rMC_MODE n, 1, 1⟩
def fMC_POIS (n : Nat) : Fld := ⟨rMC_MODE n, 2, 1⟩
def fMC_INORD (n : Nat) : Fld := ⟨rMC_MODE n, 3, 1⟩
def fGRAN_CAP (n : Nat) : Fld := ⟨rMC_MODE n, 4, 1⟩
def fPOIS_CAP (n : Nat) : Fld := ⟨rMC_MODE n, 5, 1⟩

/-! Request entries (R263). -/
def fE_STATE (n : Nat) : Fld := ⟨rENT n 0, 0, 3⟩
def fE_LATEDROP (n : Nat) : Fld := ⟨rENT n 0, 3, 1⟩
def fE_EXTREC (n : Nat) : Fld := ⟨rENT n 0, 4, 1⟩
def fE_CLASS (n : Nat) : Fld := ⟨rENT n 0, 5, 1⟩
def fE_PRETRY (n : Nat) : Fld := ⟨rENT n 0, 6, 1⟩
def fE_HPROMPT (n : Nat) : Fld := ⟨rENT n 0, 7, 1⟩
def fE_PRIO (n : Nat) : Fld := ⟨rENT n 0, 8, 2⟩
def fE_EPRIO (n : Nat) : Fld := ⟨rENT n 0, 10, 2⟩
def fE_DLIM (n : Nat) : Fld := ⟨rENT n 0, 12, 4⟩
def fE_REJRUN (n : Nat) : Fld := ⟨rENT n 0, 16, 2⟩
def fE_SPILLED (n : Nat) : Fld := ⟨rENT n 0, 18, 1⟩
def fE_YEN (n : Nat) : Fld := ⟨rENT n 0, 19, 1⟩
def fE_YBLK (n : Nat) : Fld := ⟨rENT n 0, 20, 2⟩
def fE_TENANT (n : Nat) : Fld := ⟨rENT n 0, 24, 8⟩
def fE_REASON (n : Nat) : Fld := ⟨rENT n 0, 32, 8⟩
def fE_INFL (n : Nat) : Fld := ⟨rENT n 0, 40, 8⟩
def fE_HCOUNT (n : Nat) : Fld := ⟨rENT n 0, 48, 10⟩
def fE_KEY (n : Nat) : Fld := ⟨rENT n 1, 0, 32⟩
def fE_PLEN (n : Nat) : Fld := ⟨rENT n 1, 32, 32⟩
def fE_GLEN (n : Nat) : Fld := ⟨rENT n 2, 0, 32⟩
def fE_MAXGEN (n : Nat) : Fld := ⟨rENT n 2, 32, 32⟩
def fE_SEED (n : Nat) : Fld := ⟨rENT n 3, 0, 64⟩
def fE_DEADLINE (n : Nat) : Fld := ⟨rENT n 4, 0, 64⟩
def fE_PB (n : Nat) : Fld := ⟨rENT n 5, 0, 48⟩
def fE_RING (n : Nat) : Fld := ⟨rENT n 6, 0, 48⟩
def fE_RORDER (n : Nat) : Fld := ⟨rENT n 6, 48, 5⟩
def fE_CB (n : Nat) : Fld := ⟨rENT n 7, 0, 48⟩
def fE_STOP (n : Nat) : Fld := ⟨rENT n 8, 0, 48⟩
def fE_HISTPL (n : Nat) : Fld := ⟨rENT n 9, 0, 48⟩
def fE_HPAGES (n : Nat) : Fld := ⟨rENT n 9, 48, 8⟩
def fE_YHASH (n : Nat) : Fld := ⟨rENT n 10, 0, 64⟩
def fE_PHANDLE (n : Nat) : Fld := ⟨rENT n 11, 0, 64⟩
def fE_PROD (n : Nat) : Fld := ⟨rENT n 12, 0, 64⟩
def fE_LASTGC (n : Nat) : Fld := ⟨rENT n 13, 0, 32⟩
def fE_NSPILL (n : Nat) : Fld := ⟨rENT n 13, 32, 32⟩
def fE_LEASE (n : Nat) : Fld := ⟨rENT n 14, 0, 64⟩
def fE_OWNER (n : Nat) : Fld := ⟨rENT n 14, 0, 16⟩
def fE_LEPOCH (n : Nat) : Fld := ⟨rENT n 14, 16, 16⟩
def fE_HELD (n : Nat) : Fld := ⟨rENT n 14, 63, 1⟩
def fE_YBLOCKS (n : Nat) : Fld := ⟨rENT n 15, 0, 32⟩

/-- The fields of a request-entry word (R263). -/
def entryFields : Nat → List FieldSpec
  | 0 => [⟨0, 3, .rws, .all⟩, ⟨3, 1, .rws, .all⟩, ⟨4, 1, .rws, .all⟩, ⟨5, 1, .rws, .all⟩, ⟨6, 1, .rws, .all⟩,
          ⟨7, 1, .ro, .all⟩, ⟨8, 2, .rws, .all⟩, ⟨10, 2, .ro, .all⟩, ⟨12, 4, .ro, .all⟩, ⟨16, 2, .ro, .all⟩,
          ⟨18, 1, .ro, .all⟩, ⟨19, 1, .rws, .all⟩, ⟨20, 2, .rws, .all⟩, ⟨24, 8, .rws, .all⟩, ⟨32, 8, .ro, .all⟩,
          ⟨40, 8, .ro, .all⟩, ⟨48, 10, .ro, .all⟩]
  | 1 => [⟨0, 32, .rws, .all⟩, ⟨32, 32, .rws, .all⟩]
  | 2 => [⟨0, 32, .ro, .all⟩, ⟨32, 32, .rws, .all⟩]
  | 3 => [⟨0, 64, .rws, .all⟩]
  | 4 => [⟨0, 64, .rws, .all⟩]
  | 5 => [⟨0, 48, .rws, .all⟩]
  | 6 => [⟨0, 48, .rws, .all⟩, ⟨48, 5, .rws, .all⟩]
  | 7 => [⟨0, 48, .rws, .all⟩]
  | 8 => [⟨0, 48, .rws, .all⟩]
  | 9 => [⟨0, 48, .rws, .all⟩, ⟨48, 8, .rws, .all⟩]
  | 10 => [⟨0, 64, .ro, .all⟩]
  | 11 => [⟨0, 64, .rws, .all⟩]
  | 12 => [⟨0, 64, .ro, .all⟩]
  | 13 => [⟨0, 32, .ro, .all⟩, ⟨32, 32, .ro, .all⟩]
  | 14 => [⟨0, 64, .rw, .all⟩]
  | 15 => [⟨0, 32, .ro, .all⟩]
  | _ => []

/-- The fields of a queue register (R297). -/
def queueFields : Nat → List FieldSpec
  | 0x00 => [⟨0, 48, .rwOff, .align 256⟩]
  | 0x08 => [⟨0, 5, .rwOff, .between 4 20⟩]
  | 0x10 => [⟨0, 32, .ro, .all⟩, ⟨32, 32, .ro, .all⟩]
  | 0x18 => [⟨0, 32, .rw, .all⟩]
  | 0x20 => [⟨0, 1, .rw, .all⟩, ⟨1, 2, .rwOff, .between 0 2⟩, ⟨3, 2, .rw, .all⟩, ⟨5, 3, .ro, .all⟩, ⟨8, 8, .ro, .all⟩,
             ⟨16, 1, .wo, .all⟩, ⟨17, 1, .wo, .all⟩, ⟨32, 16, .ro, .all⟩]
  | _ => []

/-- The fields of a plane-set register (R57). The fields writable in EMPTY accept any value (R401). -/
def planeSetFields : Nat → List FieldSpec
  | 0x00 => [⟨0, 3, .rw, .between 0 4⟩, ⟨3, 1, .ro, .all⟩, ⟨4, 1, .ro, .all⟩, ⟨5, 1, .ro, .all⟩, ⟨6, 1, .ro, .all⟩,
             ⟨7, 1, .ro, .all⟩, ⟨8, 1, .rw, .all⟩, ⟨9, 1, .rw, .all⟩, ⟨12, 4, .rw, .all⟩, ⟨16, 5, .ro, .all⟩,
             ⟨21, 9, .ro, .all⟩, ⟨30, 10, .ro, .all⟩, ⟨40, 8, .ro, .all⟩]
  | 0x08 => [⟨0, 32, .rwEmpty, .all⟩]
  | 0x10 => [⟨0, 25, .rwEmpty, .all⟩, ⟨32, 25, .rwEmpty, .all⟩]
  | 0x18 => [⟨0, 25, .rwEmpty, .all⟩, ⟨32, 10, .rwEmpty, .all⟩, ⟨48, 1, .rwEmpty, .all⟩]
  | 0x20 => [⟨0, 48, .rwEmpty, .all⟩]
  | 0x28 => [⟨0, 48, .rwEmpty, .all⟩]
  | 0x30 => [⟨0, 48, .rwEmpty, .all⟩]
  | 0x38 => [⟨0, 8, .ro, .all⟩, ⟨8, 24, .ro, .all⟩, ⟨32, 24, .ro, .all⟩]
  | _ => []

/-- The fields of the sync region (R408, R184). -/
def syncFields : Nat → List FieldSpec
  | 0x5000 => [⟨0, 64, .ro, .all⟩]
  | 0x5008 => [⟨0, 64, .ro, .all⟩]
  | 0x5010 => [⟨0, 1, .rw, .all⟩, ⟨1, 2, .rw, .between 0 2⟩, ⟨4, 12, .rw, .all⟩]
  | 0x5018 => [⟨0, 32, .ro, .all⟩, ⟨32, 32, .ro, .all⟩]
  | 0x5020 => [⟨0, 1, .rw, .all⟩, ⟨1, 1, .rw, .all⟩]
  | 0x5028 => [⟨0, 1, .w1c, .all⟩, ⟨8, 24, .ro, .all⟩, ⟨32, 32, .ro, .all⟩]
  | 0x5030 => [⟨0, 48, .rw, .all⟩]
  | 0x5038 => [⟨0, 64, .rw, .all⟩]
  | 0x5040 => [⟨0, 64, .rw, .all⟩]
  | 0x5048 => [⟨0, 64, .rw, .all⟩]
  | _ => []

/-- The fields of the power region (R410). -/
def powerFields (off : Nat) : List FieldSpec :=
  if off = 0x6000 then [⟨0, 1, .wo, .all⟩, ⟨1, 1, .ro, .all⟩]
  else if 0x6008 ≤ off ∧ off < 0x60A8 then
    [⟨0, 2, .rws, .between 0 2⟩, ⟨2, 2, .ro, .all⟩, ⟨4, 1, .ro, .all⟩, ⟨5, 1, .ro, .all⟩, ⟨16, 16, .ro, .all⟩, ⟨32, 16, .rc, .all⟩]
  else if off = 0x6100 then [⟨0, 32, .rw, .all⟩, ⟨32, 32, .ro, .all⟩]
  else if off = 0x6108 then [⟨0, 16, .rw, .between 10 10000⟩]
  else if off = 0x6110 ∨ off = 0x6118 then [⟨0, 7, .rw, .between 85 97⟩, ⟨8, 7, .rw, .between 85 97⟩, ⟨16, 7, .rw, .between 85 97⟩]
  else if off = 0x6120 then
    [⟨0, 1, .ro, .all⟩, ⟨1, 1, .ro, .all⟩, ⟨2, 1, .ro, .all⟩, ⟨4, 1, .w1c, .all⟩, ⟨5, 1, .w1c, .all⟩, ⟨6, 1, .w1c, .all⟩,
     ⟨8, 2, .ro, .all⟩, ⟨16, 16, .rc, .all⟩]
  else if off = 0x6128 then
    [⟨0, 2, .rw, .between 0 2⟩, ⟨2, 2, .ro, .all⟩, ⟨4, 1, .ro, .all⟩, ⟨16, 12, .ro, .all⟩]
  else if off = 0x6130 then [⟨0, 8, .rw, .between 85 105⟩, ⟨8, 8, .ro, .all⟩]
  else if 0x6200 ≤ off ∧ off < 0x6280 then
    [⟨0, 12, .ro, .all⟩, ⟨12, 1, .ro, .all⟩, ⟨13, 1, .ro, .all⟩, ⟨16, 12, .rc, .all⟩]
  else []

/-- The fields of the events region (R413). -/
def eventFields : Nat → List FieldSpec
  | 0x7000 => [⟨0, 48, .rwOff, .align 256⟩]
  | 0x7008 => [⟨0, 5, .rwOff, .between 6 20⟩, ⟨8, 1, .rw, .all⟩, ⟨32, 32, .rc, .all⟩]
  | 0x7010 => [⟨0, 32, .rw, .all⟩]
  | 0x7018 => [⟨0, 32, .ro, .all⟩]
  | 0x7020 => [⟨0, 19, .w1c, .all⟩]
  | 0x7028 => [⟨0, 19, .rw, .all⟩]
  | 0x7030 => [⟨0, 32, .rc, .all⟩, ⟨32, 32, .rc, .all⟩]
  | 0x7038 => [⟨0, 32, .rc, .all⟩, ⟨32, 32, .rc, .all⟩]
  | 0x7040 => [⟨0, 32, .rc, .all⟩, ⟨32, 9, .ro, .all⟩, ⟨48, 9, .rc, .all⟩]
  | 0x7048 => [⟨0, 16, .rw, .between 1 65535⟩, ⟨16, 8, .rw, .between 1 255⟩, ⟨32, 16, .rc, .all⟩, ⟨48, 16, .rc, .all⟩]
  | 0x7050 => [⟨0, 1, .rw, .all⟩, ⟨8, 8, .rw, .between 1 255⟩, ⟨32, 32, .ro, .all⟩]
  | 0x7058 => [⟨0, 48, .rw, .align 8⟩]
  | _ => []

/-- The fields of the arbiter region (R396). -/
def arbFields (off : Nat) : List FieldSpec :=
  if off = 0x4000 then (List.range 8).map fun r => ⟨3 * r, 3, .rws, .all⟩
  else if off = 0x4008 then (List.range 8).map fun r => ⟨8 * r, 8, .rws, .all⟩
  else if off = 0x4010 then [⟨0, 1, .wo, .all⟩, ⟨1, 4, .ro, .all⟩, ⟨16, 16, .ro, .all⟩]
  else if 0x4020 ≤ off ∧ off < 0x4040 then
    [⟨0, 1, .ro, .all⟩, ⟨1, 6, .ro, .all⟩, ⟨7, 3, .ro, .all⟩, ⟨10, 1, .ro, .all⟩, ⟨16, 16, .ro, .all⟩, ⟨32, 16, .rc, .all⟩]
  else if 0x4100 ≤ off ∧ off < 0x4300 then [⟨0, 4, .rws, .between 0 8⟩, ⟨4, 12, .rws, .all⟩]
  else []

/-- The fields of the register at an offset, windows of memory apart; reserved bits belong to none. -/
def regFields (off : Nat) : List FieldSpec :=
  if off < 0x30 then (if off % 8 = 0 then [⟨0, 64, .ro, .all⟩] else [])
  else if off = 0x1000 then [⟨0, 1, .rw, .all⟩, ⟨1, 1, .rw, .all⟩, ⟨2, 1, .rw, .all⟩, ⟨3, 1, .rw, .all⟩, ⟨4, 1, .rw, .all⟩]
  else if off = 0x1008 then
    [⟨0, 16, .ro, .all⟩, ⟨16, 16, .ro, .all⟩, ⟨32, 3, .ro, .all⟩, ⟨35, 1, .ro, .all⟩, ⟨36, 1, .ro, .all⟩, ⟨38, 1, .ro, .all⟩, ⟨39, 1, .ro, .all⟩]
  else if off = 0x1010 then [⟨0, 3, .ro, .all⟩, ⟨4, 3, .wo, .between 0 5⟩, ⟨8, 1, .ro, .all⟩, ⟨9, 1, .ro, .all⟩]
  else if off = 0x1018 then
    [⟨0, 16, .ro, .all⟩, ⟨16, 1, .ro, .all⟩, ⟨17, 1, .ro, .all⟩, ⟨18, 1, .ro, .all⟩, ⟨19, 2, .ro, .all⟩, ⟨32, 32, .ro, .all⟩]
  else if off = 0x1020 then [⟨0, 4, .rw, .all⟩, ⟨4, 1, .rw, .all⟩, ⟨5, 1, .rw, .all⟩]
  else if off = 0x1040 then [⟨0, 64, .rw, .all⟩]
  else if off = 0x1048 then [⟨0, 8, .rw, .all⟩, ⟨8, 8, .rw, .all⟩]
  else if off = 0x1050 then [⟨0, 8, .ro, .all⟩, ⟨8, 8, .ro, .all⟩, ⟨16, 16, .ro, .all⟩, ⟨32, 32, .ro, .all⟩]
  else if 0x2000 ≤ off ∧ off < 0x2800 then queueFields (off % 0x40)
  else if off = 0x3000 then [⟨0, 16, .rw, .between 16 65535⟩, ⟨16, 32, .rw, .all⟩, ⟨48, 1, .rw, .all⟩]
  else if off = 0x3008 then
    [⟨0, 14, .ro, .all⟩, ⟨14, 7, .ro, .all⟩, ⟨21, 11, .ro, .all⟩, ⟨32, 16, .rc, .all⟩, ⟨48, 16, .rc, .all⟩]
  else if off = 0x3010 then [⟨0, 48, .rw, .align 256⟩, ⟨48, 6, .rw, .between 8 40⟩]
  else if off = 0x3018 then [⟨0, 48, .rw, .align 256⟩, ⟨48, 5, .rw, .between 4 20⟩]
  else if off = 0x3020 then [⟨0, 64, .ro, .all⟩]
  else if off = 0x3028 then [⟨0, 64, .rw, .all⟩]
  else if off = 0x3030 then [⟨0, 32, .rc, .all⟩, ⟨32, 32, .rc, .all⟩]
  else if 0x4000 ≤ off ∧ off < 0x4300 then arbFields off
  else if 0x5000 ≤ off ∧ off < 0x5050 then syncFields off
  else if 0x6000 ≤ off ∧ off < 0x6280 then powerFields off
  else if 0x7000 ≤ off ∧ off < 0x7060 then eventFields off
  else if 0x8000 ≤ off ∧ off < 0x8400 then planeSetFields (off % 0x40)
  else if off = 0x10000 then [⟨0, 1, .ro, .all⟩, ⟨1, 3, .ro, .all⟩, ⟨4, 1, .rw, .all⟩]
  else if off = 0x10008 then [⟨0, 32, .ro, .all⟩, ⟨32, 32, .ro, .all⟩]
  else if off = 0x10010 then [⟨0, 1, .wo, .all⟩, ⟨4, 4, .ro, .all⟩, ⟨8, 8, .ro, .all⟩, ⟨16, 16, .ro, .all⟩, ⟨32, 16, .rc, .all⟩]
  else if off = 0x20000 ∨ off = 0x20008 then [⟨0, 64, .ro, .all⟩]
  else if off = 0x20010 then [⟨0, 2, .rw, .between 0 2⟩, ⟨2, 2, .ro, .all⟩, ⟨4, 1, .ro, .all⟩, ⟨5, 3, .ro, .all⟩, ⟨8, 4, .ro, .all⟩]
  else if off = 0x20018 then [⟨0, 16, .ro, .all⟩, ⟨16, 16, .ro, .all⟩]
  else if off = 0x20020 then [⟨0, 18, .rw, .all⟩, ⟨18, 12, .rw, .all⟩, ⟨30, 4, .rw, .between 0 8⟩]
  else if 0x20040 ≤ off ∧ off < 0x200C0 then
    [⟨0, 1, .ro, .all⟩, ⟨1, 1, .ro, .all⟩, ⟨2, 1, .ro, .all⟩, ⟨3, 1, .ro, .all⟩, ⟨4, 1, .rw, .all⟩, ⟨5, 1, .rw, .all⟩, ⟨6, 2, .ro, .all⟩]
  else if 0x100000 ≤ off ∧ off < 0x200000 then entryFields (off % 0x80 / 8)
  else []

/-- The regions of R397. -/
def inRegion (off : Nat) : Bool :=
  decide (off < 0x30 ∨ (0x1000 ≤ off ∧ off < 0x1058) ∨ (0x2000 ≤ off ∧ off < 0x2800) ∨ (0x3000 ≤ off ∧ off < 0x4300) ∨
    (0x5000 ≤ off ∧ off < 0x5050) ∨ (0x6000 ≤ off ∧ off < 0x6280) ∨ (0x7000 ≤ off ∧ off < 0x7060) ∨
    (0x8000 ≤ off ∧ off < 0x8400) ∨ (0x10000 ≤ off ∧ off < 0x20000) ∨ (0x20000 ≤ off ∧ off < 0x200C0) ∨
    (0x100000 ≤ off ∧ off < 0x200000) ∨ (0x1000000 ≤ off ∧ off < 0x2000000))

/-- The reset value of a control-space word, fuse fields and derived fields apart (R402 and the register tables). -/
def regDefault (off : Nat) : Word64 :=
  if off = 0x00 then 0x00000003D4043E1D
  else if off = 0x08 then 0x0000000000000410
  else if off = 0x18 then 0x0000000002000FFF
  else if off = 0x20 then 0x000000000000C387
  else if off = 0x28 then 0x0000000420400907
  else if 0x2000 ≤ off ∧ off < 0x2800 then (match off % 0x40 with | 0x08 => 4 | 0x20 => 4 | _ => 0)
  else if off = 0x3000 then 1000
  else if off = 0x4000 then BitVec.ofNat 64 (5 + 6 * 8 + 4 * 64 + 6 * 512 + 2 * 4096 + 3 * 32768 + 0 + 7 * 2097152)
  else if off = 0x4008 then 0x0804082020101040
  else if 0x4020 ≤ off ∧ off < 0x4040 then (if off % 8 = 0 then 0x400 else 0)
  else if off = 0x4100 then 0x408
  else if off = 0x5008 then 0xFFFFFFFFFFFFFFFF
  else if off = 0x6100 then BitVec.ofNat 64 (36000 + 36000 * 2 ^ 32)
  else if off = 0x6108 then 100
  else if off = 0x6110 then 0x5F5F5F
  else if off = 0x6118 then 0x5A5A5A
  else if off = 0x6128 then BitVec.ofNat 64 (2 + 8 + 2000 * 2 ^ 16)
  else if off = 0x6130 then BitVec.ofNat 64 (105 + 115 * 256)
  else if off = 0x7008 then 8
  else if off = 0x7048 then BitVec.ofNat 64 (50 + 10 * 2 ^ 16)
  else if off = 0x7050 then BitVec.ofNat 64 (1 + 4 * 256)
  else if 0x8000 ≤ off ∧ off < 0x8400 then (if off % 0x40 = 0x38 then 0x00FFFFFF00000000 else 0)
  else if off = 0x20000 then BitVec.ofNat 64 (7 + 8 + 7 * 16 + 1024 * 2 ^ 12 + 200 * 2 ^ 24 + 16 * 2 ^ 32)
  else if off = 0x20010 then 2
  else if off = 0x20020 then BitVec.ofNat 64 (4 * 2 ^ 30)
  else if 0x20040 ≤ off ∧ off < 0x200C0 then
    (if off % 8 = 0 then BitVec.ofNat 64 (16 + 32 + (off - 0x20040) / 32 * 64) else 0)
  else if 0x100000 ≤ off ∧ off < 0x200000 then
    (match off % 0x80 with | 0x00 => 0x8000 | 0x20 => 0xFFFFFFFFFFFFFFFF | _ => 0)
  else 0

/-- The value of a bit field of a word. -/
def getBits (w : Word64) (lsb width : Nat) : Nat := w.toNat / 2 ^ lsb % 2 ^ width

/-- A word with one bit field replaced. -/
def setBits (w : Word64) (lsb width v : Nat) : Word64 :=
  let m : Word64 := BitVec.ofNat 64 ((2 ^ width - 1) * 2 ^ lsb)
  (w &&& ~~~m) ||| BitVec.ofNat 64 (v % 2 ^ width * 2 ^ lsb)

end Sys2Proof.Machine
end

