-- ==== Sys2Proof/Machine/Screen.lean ====
section
/-! DEFINITION. The screening pass (chapter 03): where records lie, the deal of group passes to gangs, the uses of records with their checks, and the screen scores with their half-widths; the cycle formulas that decide something. -/

namespace Sys2Proof.Machine

/-- A plane set as one step sees it (R46, R47, R57). `placed` lists the clusters of the placement, `plP0` and `plP1` say which planes that placement holds. -/
structure PlaneView where
  psid   : Nat
  epoch  : Nat
  vLo    : Nat
  vHi    : Nat
  hd     : Nat
  lean   : Bool
  res0   : Bool
  res1   : Bool
  res2   : Bool
  host0  : Nat
  host1  : Nat
  host2  : Nat
  placed : List Nat
  pdBase : Nat
deriving DecidableEq, Repr, Inhabited

/-- S, the slabs of the window (R46). -/
def PlaneView.slabs (p : PlaneView) : Nat := ceilDiv (p.vHi - p.vLo) 64
def PlaneView.slabBase (p : PlaneView) (s : Nat) : Nat := p.vLo + 64 * s
/-- Real tokens of a slab (R19). -/
def PlaneView.ntok (p : PlaneView) (s : Nat) : Nat := Nat.min 64 (p.vHi - p.slabBase s)

/-- Where a record lies: a slice and byte, or a host address. -/
inductive Loc where
  | pad (cl byte : Nat)
  | host (addr : Nat)
deriving DecidableEq, Repr

/-- J, the slab slots of each slice that holds the placement (R47). -/
def PlaneView.slots (p : PlaneView) : Nat := ceilDiv p.slabs (Nat.max 1 p.placed.length)

def PlaneView.tileLoc (p : PlaneView) (s c : Nat) : Loc :=
  let n := Nat.max 1 p.placed.length
  if p.res0 then .pad (p.placed.getD (s % n) 0) (p.pdBase + ((s / n) * p.hd + c) * tileSize p.lean)
  else .host (p.host0 + (s * p.hd + c) * tileSize p.lean)

def PlaneView.o1 (p : PlaneView) : Nat := if p.res0 then p.slots * p.hd * tileSize p.lean else 0
def PlaneView.o2 (p : PlaneView) : Nat := if p.res1 then p.o1 + 64 * p.slots * p1Size p.hd else p.o1

def PlaneView.p1Loc (p : PlaneView) (id : Nat) : Loc :=
  let s := (id - p.vLo) / 64
  let k := (id - p.vLo) % 64
  let n := Nat.max 1 p.placed.length
  if p.res1 then .pad (p.placed.getD (s % n) 0) (p.pdBase + p.o1 + (64 * (s / n) + k) * p1Size p.hd)
  else .host (p.host1 + (id - p.vLo) * p1Size p.hd)

def PlaneView.p2Loc (p : PlaneView) (id : Nat) : Loc :=
  let s := (id - p.vLo) / 64
  let k := (id - p.vLo) % 64
  let n := Nat.max 1 p.placed.length
  if p.res2 then .pad (p.placed.getD (s % n) 0) (p.pdBase + p.o2 + (64 * (s / n) + k) * p2Size p.hd)
  else .host (p.host2 + (id - p.vLo) * p2Size p.hd)

def Loc.isHost : Loc → Bool
  | .host _ => true
  | _ => false

/-! The deal (R64 to R67). -/

/-- The step's deal: owners in ascending order, row groups, and the shape. -/
structure Deal where
  owners : List Nat
  slabs  : Nat
  groups : Nat
  rg     : Nat
deriving DecidableEq, Repr, Inhabited

/-- Gangs per cluster, gangs in all, group passes, and passes per gang. -/
def Deal.gangs (d : Deal) : Nat := 16 / Nat.max 1 d.rg
def Deal.total (d : Deal) : Nat := d.owners.length * d.gangs
def Deal.passes (d : Deal) : Nat := d.slabs * d.groups
def Deal.block (d : Deal) : Nat := ceilDiv d.passes (Nat.max 1 d.total)

/-- Slabs owned by the `i`-th participating cluster (R66). -/
def Deal.owned (d : Deal) (i : Nat) : Nat := ceilDiv (d.slabs - i) (Nat.max 1 d.owners.length)

/-- The canonical position of group `g` of slab `s` (R67). -/
def Deal.pos (d : Deal) (s g : Nat) : Nat :=
  let n := Nat.max 1 d.owners.length
  (sumNatRange d (s % n) + s / n) * d.groups + g
where
  sumNatRange (d : Deal) (k : Nat) : Nat := (List.range k).foldl (fun a i => a + d.owned i) 0

/-- The gang that runs a group pass. -/
def Deal.gang (d : Deal) (s g : Nat) : Nat := d.pos s g / Nat.max 1 d.block

/-- How often the tile of chunk `c` of slab `s` is read in one screen (R74). -/
def Deal.tileReads (d : Deal) (s c : Nat) : Nat := if d.gang s (2 * c) = d.gang s (2 * c + 1) then 1 else 2

/-- How many gangs walk a slab (R71, R75). -/
def Deal.walkers (d : Deal) (s : Nat) : Nat := d.gang s (d.groups - 1) - d.gang s 0 + 1

/-! Uses of records (R22). -/

/-- An event of the class SEAL (R477): its code and what its record carries. -/
structure SealEvent where
  code  : Nat
  field : Nat
  kind  : Nat
  psid  : Nat
  host  : Bool
  cl    : Nat
  addr  : Nat
  base  : Nat
  chunk : Nat
  want  : Nat
  found : Nat
deriving DecidableEq, Repr

/-- What a read of a record returns: its bytes, whether a granule of it came marked poisoned, and whether the bytes of a tile that hold its stored TMS values did. -/
structure RecRead where
  bytes : Array Byte
  pois  : Bool
  tmsPois : Bool
deriving DecidableEq, Repr

/-- The cluster of a record's slice, 0xFF for host memory; and its host address, 0 in Paddock. -/
def Loc.cluster : Loc → Nat
  | .pad c _ => c
  | .host _ => 0xFF
def Loc.hostAddr : Loc → Nat
  | .pad _ _ => 0
  | .host a => a

/-- One use of a record: good or poisoned, with its events. `cured` says that the first read was damaged. -/
def useRecord (x : RecExpect) (loc : Loc) (cured : Bool) (r : RecRead) : Bool × List SealEvent :=
  let ev (code field found : Nat) : SealEvent :=
    ⟨code, field, x.kind, x.psid, loc.isHost, loc.cluster, loc.hostAddr, x.base, x.chunk, x.epoch, found⟩
  if r.pois || !sealOk r.bytes.toList then (false, [ev 2 0 0])
  else
    let c := if cured then [ev 1 0 0] else []
    match headerFault x r.bytes with
    | some f => (false, c ++ [ev 3 f (recEpoch r.bytes)])
    | none => (true, c)

/-- A use reads its record once more (R22): the first read's seal failed, by a mark, by its bytes, or by damage that the second read does not show. -/
def RecRead.again (r : RecRead) (cured : Bool) : Bool := cured || r.pois || !sealOk r.bytes.toList

/-- `n` uses of one record, of which the first `k` were cured (R74: each read counts on its own). -/
def useRecordTimes (x : RecExpect) (loc : Loc) (k : Nat) (r : RecRead) (n : Nat) : Bool × List SealEvent :=
  (List.range n).foldl (fun (p : Bool × List SealEvent) i =>
    let (ok, ev) := useRecord x loc (decide (i < k)) r
    (p.1 && ok, p.2 ++ ev)) (true, [])

def countRef (l : List RecRef) (r : RecRef) : Nat := l.countP (fun x => x == r)

/-- What a screen has read of one slab. -/
structure SlabTiles where
  base   : Nat
  ntok   : Nat
  tiles  : List (Array Byte)
  bad    : Bool
  tmsBad : List Nat
  rows   : List (Nat × Array Byte × Array Byte × Bool)
  events : List SealEvent
deriving DecidableEq, Repr

def tileExpect (p : PlaneView) (s c : Nat) : RecExpect :=
  { kind := if p.lean then 2 else 1, psid := p.psid, epoch := p.epoch, base := p.slabBase s, chunk := c
    ntok := p.ntok s, hdim := p.hd, tms := none }

def rowExpect (p : PlaneView) (kind id : Nat) (tms : Option Int) : RecExpect :=
  { kind := kind, psid := p.psid, epoch := p.epoch, base := id, chunk := 0, ntok := 1, hdim := p.hd, tms := tms }

/-- The tokens of a slab whose stored TMS differs between two of the tiles that a gang walked, and the first tile that differs (R506): its chunk. A tile takes part when its TMS bytes arrived, whatever else of it came poisoned; which of several odd tiles the event names is the model's choice (log entry 53, DESIGN CHOICE). -/
def tmsDiffer (n : Nat) (tiles : List (Nat × Array Byte)) : List Nat × Nat :=
  match tiles with
  | [] => ([], 0)
  | f :: rest =>
    let odd (t : Nat) (u : Nat × Array Byte) : Bool := tileTms u.2 t != tileTms f.2 t
    ((List.range n).filter fun t => rest.any (odd t),
      match rest.find? (fun u => (List.range n).any fun t => odd t u) with | some u => u.1 | none => 0)

/-- Reads the tiles of slab `s` and, in FULL precision, its row records, with every check of R22 and R506. A row record's `TMS` is compared with the value of the slab's first tile that no check has poisoned; a slab without one gives no value, and the record is not compared. When tiles of the slab disagree, the event names the first tile in chunk order that differs from the first one: its chunk, address and epoch (R506 names none; log entry 53, DESIGN CHOICE). -/
def readSlab (rd : Loc → Nat → RecRead) (p : PlaneView) (d : Deal) (full : Bool) (cured : List RecRef) (s : Nat) : SlabTiles :=
  let n := p.ntok s
  let uses := (List.range p.hd).map fun c =>
    let loc := p.tileLoc s c
    let r := rd loc (tileSize p.lean)
    let u := useRecordTimes (tileExpect p s c) loc (countRef cured ⟨0, p.slabBase s, c⟩) r (d.tileReads s c)
    (r, u.1, u.2)
  let bad := uses.any (fun u => !u.2.1)
  let walked := (uses.zipIdx.filter fun u => !u.1.1.tmsPois).map fun u => (u.2, u.1.1.bytes)
  let (tmsBad, odd) := tmsDiffer n walked
  let tevs := if tmsBad.isEmpty then []
    else
      let l := p.tileLoc s odd
      let found := match walked.find? (fun u => u.1 == odd) with | some u => recEpoch u.2 | none => p.epoch
      [(⟨3, 11, if p.lean then 2 else 1, p.psid, l.isHost, l.cluster, l.hostAddr, p.slabBase s, odd, p.epoch, found⟩ : SealEvent)]
  let sound := uses.find? fun u => u.2.1
  let rows := if full then (List.range n).map fun t =>
      let id := p.slabBase s + t
      let tms := sound.map fun u => tileTms u.1.bytes t
      let r1 := rd (p.p1Loc id) (p1Size p.hd)
      let u1 := useRecordTimes (rowExpect p 3 id tms) (p.p1Loc id) (countRef cured ⟨1, id, 0⟩) r1 (d.walkers s)
      let r2 := rd (p.p2Loc id) (p2Size p.hd)
      let u2 := useRecordTimes (rowExpect p 4 id tms) (p.p2Loc id) (countRef cured ⟨2, id, 0⟩) r2 (d.walkers s)
      ((id, r1.bytes, r2.bytes, u1.1 && u2.1), u1.2 ++ u2.2)
    else []
  { base := p.slabBase s, ntok := n, tiles := uses.map (·.1.bytes), bad := bad, tmsBad := tmsBad
    rows := rows.map (·.1)
    events := (uses.flatMap (·.2.2)) ++ tevs ++ (rows.flatMap (·.2)) }

/-- What the collector passes on for a pair (R72): score, half-width, C0, poison mark. -/
structure PairOut where
  s0   : F32
  e    : F32
  c0   : Int
  pois : Bool
deriving DecidableEq, Repr

/-- Token `t` of a slab for one row (R72, R23, R27, R426). -/
def screenPair (p : PlaneView) (emu : Bool) (h : HRow) (sl : SlabTiles) (t : Nat) : PairOut :=
  let rowRec := sl.rows[t]?
  let rowBad := match rowRec with | some r => !r.2.2.2 | none => false
  if sl.bad || sl.tmsBad.contains t || rowBad then ⟨fNan, fNan, 0, true⟩
  else if h.nonFinite then ⟨fNan, fNan, 0, false⟩
  else
    let A := anchor h (tileTms (sl.tiles.headD #[]) t)
    let c0 := sumInt (sl.tiles.zipIdx.map fun q => tileContribution p.lean h q.1 q.2 t A)
    if emu then ⟨emuScore h sl.tiles t, 0, c0, false⟩
    else match rowRec with
      | some r => ⟨scoreOfSum (c0 + p1Sum p.hd h r.2.1 A + p2Sum p.hd h r.2.1 r.2.2.1 A) A, 0, c0, false⟩
      | none =>
        let s0 := scoreOfSum c0 A
        let u := 1 + (sl.tiles.zipIdx.map fun q => tileInterval p.lean h q.1 q.2 t A).foldl (· + ·) 0
        ⟨s0, halfWidth s0 u A, c0, false⟩

/-! Cycle formulas (R85, R86, R105). -/

/-- The array term of R85; `full` precision, `lean` planes. -/
def arrTerm (d : Deal) (full lean emu : Bool) : Nat :=
  let p := match full, lean with | false, false => 16 | false, true => 8 | true, false => 64 | true, true => 56
  p * d.block * (if emu then 8 else 1)

/-- W, the largest number of real tokens owned by one cluster (R86). -/
def ownedTokens (p : PlaneView) (d : Deal) : Nat :=
  let n := Nat.max 1 d.owners.length
  (List.range n).foldl (fun m i =>
    Nat.max m (((List.range d.slabs).filter fun s => s % n == i).foldl (fun a s => a + p.ntok s) 0)) 0

def pipeTerm (rows w : Nat) (soft : Bool) : Nat := ceilDiv (rows * w) (if soft then 32 else 64)
def sweepTerm (rows w : Nat) : Nat := ceilDiv (rows * w) 512

/-- The channel term: bytes `q` at `b` bytes per cc (R86). -/
def chanTerm (q b : Nat) : Nat := ceilDiv q (Nat.max 1 b)

def screenTime (arr pipe chan : Nat) : Nat := 40 + Nat.max arr (Nat.max pipe chan) + 120

/-- Q: the bytes of host-placed records that a screen reads, every read counted (R86). -/
def streamedBytes (p : PlaneView) (d : Deal) (full : Bool) : Nat :=
  (List.range d.slabs).foldl (fun a s =>
    let tiles := if p.res0 then 0 else
      ((List.range p.hd).foldl (fun b c => b + d.tileReads s c) 0) * tileSize p.lean
    let rows := if full then p.ntok s * d.walkers s *
      ((if p.res1 then 0 else p1Size p.hd) + (if p.res2 then 0 else p2Size p.hd)) else 0
    a + tiles + rows) 0

/-- Working-set parts in 64 KiB units (R78, R121, R245). -/
structure WorkParts where
  rowCopy : Nat
  store   : Nat
  stream  : Nat
  side    : Nat
deriving DecidableEq, Repr, Inhabited

def units (n : Nat) : Nat := ceilDiv n 65536

def workParts (rows hd slots gangs : Nat) (streamed : Bool) (fullHostRows : Bool) (sideBytes : Nat) : WorkParts :=
  { rowCopy := units (rows * (70 * hd))
    store := units (rows * 64 * slots * 4)
    stream := if streamed then units (2 * 1024 * 1024 + (if fullHostRows then 64 * gangs * (p1Size hd + p2Size hd) else 0)) else 0
    side := units sideBytes }

end Sys2Proof.Machine
end

