-- ==== Sys2Proof/Machine/Teasel.lean ====
section
/-! DEFINITION. Teasel and certification (chapters 04 and 07): pool and floor, the tests and rounds of both classes, the decisions, and the statistics of a row. -/

namespace Sys2Proof.Machine

/-- Insertion into a sorted list, and the sort by it: stable. -/
def insOne {α : Type} (le : α → α → Bool) (x : α) : List α → List α
  | [] => [x]
  | y :: ys => if le x y then x :: y :: ys else y :: insOne le x ys

def insSort {α : Type} (le : α → α → Bool) : List α → List α
  | [] => []
  | x :: xs => insOne le x (insSort le xs)

/-- A token as the leaf receives it (R160): its pipeline score and interval, its exact P0 sum, its poison mark, its draw, the stored TMS of its tile, and its score of step 2. -/
structure Tok where
  id   : Nat
  z0   : F32
  lo   : F32
  hi   : F32
  c0   : Int
  pois : Bool
  a    : Nat
  tms  : Int
  s    : F32
deriving DecidableEq, Repr, Inhabited

/-- A refined token: its composite pipeline score, its poison mark and its composite score of step 2 (R93). -/
structure Refined where
  id   : Nat
  z    : F32
  pois : Bool
  s    : F32
deriving DecidableEq, Repr, Inhabited

/-- What a row's class and parameters fix for selection (R161, R171). -/
structure SelCtx where
  serve   : Bool
  greedy  : Bool
  compat  : Bool
  nanMask : Bool
  kEff    : Nat
  topP    : Option Nat
  lnRho   : Option F32
  cdf     : Nat
deriving DecidableEq, Repr, Inhabited

def poolCap (c : SelCtx) : Nat := if c.serve then Nat.min 1024 (c.kEff + 64) else 256

def takesPart (t : Tok) : Bool := !F32.isNan t.z0 && t.hi != fNinf && !F32.isNan t.hi

def tokG (c : SelCtx) (t : Tok) : F32 := if c.greedy then 0 else gumbelOf c.compat t.a

/-- The key bounds formed from the bound tables (R167). -/
def tokKlb (c : SelCtx) (t : Tok) : F32 :=
  if c.greedy then t.lo else F32.add .down t.lo (gumbelLow c.compat (t.a / 4096))
def tokKub (c : SelCtx) (t : Tok) : F32 :=
  if c.greedy then t.hi else F32.add .up t.hi (gumbelHigh c.compat (t.a / 4096))

def rankKey (c : SelCtx) (t : Tok) : F32 := if c.serve then t.hi else tokKub c t

def maxF (l : List F32) : F32 := l.foldl (fun m x => if F32.isNan x then m else if orderKey m < orderKey x then x else m) fNinf

/-- Descending key, then ascending id (R134). -/
def rankLe (k : Tok → Nat) (s t : Tok) : Bool := decide (k t < k s) || (k s == k t && decide (s.id ≤ t.id))

def sortToks (k : Tok → Nat) (l : List Tok) : List Tok := insSort (rankLe k) l

/-- What the root holds of a row at the broadcast of m0 (R81, R160, R162). -/
structure RowScreen where
  nPois   : Nat
  nNan    : Nat
  nInf    : Nat
  m0      : F32
  ceiling : F32
  pool    : List Tok
  floor   : F32
  lamB    : F32
deriving DecidableEq, Repr, Inhabited

def rootForm (c : SelCtx) (toks : List Tok) : RowScreen :=
  let part := toks.filter takesPart
  let keyed := part.map fun t => (orderKey (rankKey c t), t)
  let ranked := (insSort (fun p q => decide (q.1 < p.1) || (p.1 == q.1 && decide (p.2.id ≤ q.2.id))) keyed).map (·.2)
  let pool := ranked.take (poolCap c)
  { nPois := toks.countP (fun t => F32.isNan t.z0 && t.pois)
    nNan := toks.countP (fun t => F32.isNan t.z0 && !t.pois)
    nInf := toks.countP (fun t => t.z0 == fPinf)
    m0 := maxF (toks.map (·.z0))
    ceiling := maxF (part.map (·.hi))
    pool := pool
    floor := match ranked.drop (poolCap c) with | [] => fNinf | t :: _ => rankKey c t
    lamB := if c.serve then fNinf else maxF (part.map (tokKlb c)) }

/-- The root's check of a pool against the row's ceiling (R164). -/
def teaselOk (c : SelCtx) (r : RowScreen) : Bool :=
  r.pool.all (fun t => decide (orderKey t.hi ≤ orderKey r.ceiling)) &&
  (!c.serve || r.pool.isEmpty || orderKey r.ceiling == Nat.max (orderKey r.floor) (orderKey (r.pool.headD default).hi))

/-- A token with its refined value in place, when it has one (R95); a poison mark of its screen stays (R23). A NaN that masks takes no part. -/
def workTok (c : SelCtx) (f : List Refined) (t : Tok) : Tok :=
  if F32.isNan t.z0 && t.pois then t
  else match f.find? (fun r => r.id == t.id) with
  | none => t
  | some r => if F32.isNan r.z && c.nanMask && !r.pois then { t with z0 := fNinf, lo := fNinf, hi := fNinf }
              else { t with z0 := r.z, lo := r.z, hi := r.z, pois := r.pois }

def isRefined (f : List Refined) (id : Nat) : Bool := f.any (fun r => r.id == id)

/-- Row dispositions (R131). -/
inductive Disp where
  | poison | tie | normal | empty
deriving DecidableEq, Repr, Inhabited

/-- The disposition of R131 over working scores. -/
def dispOf (c : SelCtx) (paramBad hiddenBad : Bool) (work : List Tok) : Disp :=
  if paramBad || hiddenBad then .poison
  else if work.any (fun t => F32.isNan t.z0 && (t.pois || !c.nanMask)) then .poison
  else if work.any (fun t => t.z0 == fPinf) then .tie
  else if work.any (fun t => F32.isFinite t.z0) then .normal
  else .empty

/-- The next move of a row's certification. -/
inductive CertStep where
  | refine (ids : List Nat)
  | done
  | uncert
  | poison
  | noPool
deriving DecidableEq, Repr, Inhabited

/-- The test of R97 with R169 for a ROLLOUT row; `f` are the refined tokens. -/
def rolloutTest (c : SelCtx) (r : RowScreen) (f : List Refined) : CertStep :=
  let wp := (r.pool.map (workTok c f)).filter takesPart
  if f.any (fun x => F32.isNan x.z && (x.pois || !c.nanMask)) then .poison
  else if wp.isEmpty then (if r.floor == fNinf then .done else .noPool)
  else
    let keyed := wp.map fun t => let g := tokG c t; (t, orderKey (F32.add .even t.lo g), orderKey (F32.add .even t.hi g))
    let lam := keyed.foldl (fun m p => Nat.max m p.2.1) (orderKey r.lamB)
    let open' := keyed.filter fun p => decide (lam ≤ p.2.2) && !isRefined f p.1.id
    let outside := r.floor != fNinf && decide (lam ≤ orderKey r.floor)
    if open'.isEmpty then (if outside then .uncert else .done)
    else .refine ((insSort (fun p q => decide (q.2.2 < p.2.2) || (p.2.2 == q.2.2 && decide (p.1.id ≤ q.1.id))) open').map (·.1.id))

/-- A stage of SERVE either names the tokens to refine (none left: unresolved) or decides. -/
inductive ServeRes where
  | need (ids : List Nat)
  | choice (id : Nat) (kept : List Tok)
  | tied
  | noPool
  | poison
  | nobody
deriving DecidableEq, Repr, Inhabited

def byHi (l : List Tok) : List Nat := (sortToks (fun t => orderKey t.hi) l).map (·.id)
/-- By width descending, then id (R95, R101). -/
def byWidth (l : List Tok) : List Nat :=
  (sortToks (fun t => orderKey (F32.sub .up t.hi t.lo)) l).map (·.id)

/-- The E terms of a token's bounds (R99); `wide` widens them under COMPAT (R146). -/
def eDn (c : SelCtx) (wide : Bool) (m : F32) (t : Tok) : Nat :=
  let e := cfExpfx c.compat t.lo m
  if c.compat && wide then e - 2 ^ 40 else e
def eUp (c : SelCtx) (wide : Bool) (m : F32) (t : Tok) : Nat :=
  let x := if orderKey t.hi < orderKey m then t.hi else m
  let e := cfExpfx c.compat x m
  if c.compat && wide then Nat.min (2 ^ 63) (e + 2 ^ 40) else e

/-- A token with its order keys and E terms, for the pairwise tests. -/
structure KTok where
  tok : Tok
  klo : Nat
  khi : Nat
  dn  : Nat
  up  : Nat
deriving DecidableEq, Repr, Inhabited

def poss (j i : KTok) : Bool := decide (i.klo < j.khi) || (j.khi == i.klo && decide (j.tok.id < i.tok.id))
def cert (j i : KTok) : Bool := decide (i.khi < j.klo) || (j.klo == i.khi && decide (j.tok.id < i.tok.id))

def sumNat (l : List Nat) : Nat := l.foldl (· + ·) 0

/-- Stage 2 of R99: kept tokens, or the straddlers with whether the rest is out. -/
def stageTopK (k : Nat) (hOut : F32) (l : List KTok) : Bool × List KTok × List KTok :=
  let ho := orderKey hOut
  let ins := l.filter fun i => decide (ho < i.klo) && decide ((l.countP fun j => j.tok.id != i.tok.id && poss j i) < k)
  let outs := l.filter fun i => decide (k ≤ (l.countP fun j => j.tok.id != i.tok.id && cert j i))
  let strad := l.filter fun i => !ins.any (fun x => x.tok.id == i.tok.id) && !outs.any (fun x => x.tok.id == i.tok.id)
  let restOut := hOut == fNinf || decide (k ≤ l.countP fun j => decide (ho < j.klo))
  (restOut, ins, strad)

/-- Stage 3 of R99: tokens kept for certain, and straddlers. -/
def stageTopP (pq : Nat) (l : List KTok) : List KTok × List KTok :=
  let inP (i : KTok) : Bool :=
    let aUp := sumNat ((l.filter fun j => j.tok.id != i.tok.id && poss j i).map (·.up))
    let bDn := sumNat ((l.filter fun j => j.tok.id == i.tok.id || !poss j i).map (·.dn))
    decide (2 ^ 32 * aUp < pq * (aUp + bDn))
  let outP (i : KTok) : Bool :=
    let aDn := sumNat ((l.filter fun j => j.tok.id != i.tok.id && cert j i).map (·.dn))
    let bUp := sumNat ((l.filter fun j => j.tok.id == i.tok.id || !cert j i).map (·.up))
    decide (pq * (aDn + bUp) ≤ 2 ^ 32 * aDn)
  (l.filter inP, l.filter fun i => !inP i && !outP i)

/-- Stage 5 of R100 over the kept set in id order: the running and following sums decide the first sure token. -/
def stageWalk (a : Nat) : Nat → Nat → List KTok → Option Nat
  | _, _, [] => none
  | pdn, pup, i :: r =>
    let pdn := pdn + i.dn
    let pup := pup + i.up
    let sdn := sumNat (r.map (·.dn))
    let sup := sumNat (r.map (·.up))
    if (2 * a + 1) * sup < (2 ^ 25 - 2 * a - 1) * pdn then some i.tok.id
    else if (2 ^ 25 - 2 * a - 1) * pup ≤ (2 * a + 1) * sdn then stageWalk a pdn pup r
    else none

/-- Where stages 1 to 4 leave a row: tokens to refine, a tie, the single token of a greedy row, or the kept set in id order with the reference m. -/
inductive KeptRes where
  | need (ids : List Nat)
  | tied
  | nobody
  | greedy (t : Tok)
  | kept (m : F32) (ks : List KTok)
deriving DecidableEq, Repr, Inhabited

def kTok (c : SelCtx) (wide : Bool) (m : F32) (t : Tok) : KTok :=
  { tok := t, klo := orderKey t.lo, khi := orderKey t.hi, dn := eDn c wide m t, up := eUp c wide m t }

/-- Stages 1 and 2 over a working pool (R98, R99, R101, R172); `ref` says which ids count as refined. -/
def serveTop (c : SelCtx) (wide : Bool) (hOut : F32) (ref : Nat → Bool) (wp : List Tok) : KeptRes :=
  let unref (l : List Tok) := l.filter fun t => !ref t.id
  let lam1 := maxF (wp.map (·.lo))
  let s1 := (unref wp).filter fun t => decide (orderKey lam1 ≤ orderKey t.hi)
  if !s1.isEmpty || !(hOut == fNinf || decide (orderKey hOut < orderKey lam1)) then .need (byHi s1)
  else
    let m := maxF (wp.map (·.z0))
    if m == fPinf then .tied
    else if c.greedy then
      match sortToks (fun t => orderKey t.z0) wp with
      | t :: _ => .greedy t
      | [] => .nobody
    else
      let (restOut, tSet, strad) : Bool × List KTok × List KTok := stageTopK c.kEff hOut (wp.map (kTok c wide m))
      if !strad.isEmpty || !restOut then .need (byWidth (unref (strad.map (·.tok)))) else .kept m tSet

/-- Stages 3 and 4 over the set that stage 2 kept, with its reference m (R99); the kept set in id order. -/
def serveRest (c : SelCtx) (ref : Nat → Bool) (m : F32) (tSet : List KTok) : KeptRes :=
  let unref (l : List Tok) := l.filter fun t => !ref t.id
  let (pSet, strad) : List KTok × List KTok := match c.topP with
    | some pq => stageTopP pq tSet
    | none => (tSet, [])
  if !strad.isEmpty then .need (byWidth (unref (strad.map (·.tok))))
  else
    let (kept, strad) : List KTok × List KTok := match c.lnRho with
      | some lr =>
        let tau := orderKey (F32.add .even m lr)
        (pSet.filter fun i => decide (tau ≤ i.klo), pSet.filter fun i => decide (i.klo < tau) && decide (tau ≤ i.khi))
      | none => (pSet, [])
    if !strad.isEmpty then .need (byWidth (unref (strad.map (·.tok))))
    else .kept m (insSort (fun i j => decide (i.tok.id ≤ j.tok.id)) kept)

/-- Stages 1 to 4. -/
def serveKept (c : SelCtx) (wide : Bool) (hOut : F32) (ref : Nat → Bool) (wp : List Tok) : KeptRes :=
  match serveTop c wide hOut ref wp with
  | .kept m tSet => serveRest c ref m tSet
  | x => x

/-- The unrefined tokens of a kept set in the order of R101. -/
def keptStraddlers (ref : Nat → Bool) (ks : List KTok) : List Nat :=
  byWidth ((ks.map (·.tok)).filter fun t => !ref t.id)

/-- The five stages (R98 to R101, R172). -/
def serveStages (c : SelCtx) (wide : Bool) (hOut : F32) (ref : Nat → Bool) (wp : List Tok) : ServeRes :=
  match serveKept c wide hOut ref wp with
  | .need ids => .need ids
  | .tied => .tied
  | .nobody => .nobody
  | .greedy t => .choice t.id [t]
  | .kept _ ks =>
    match stageWalk c.cdf 0 0 ks with
    | some id => .choice id (ks.map (·.tok))
    | none => .need (keptStraddlers ref ks)

/-- The certification test of a SERVE row. -/
def serveTest (c : SelCtx) (r : RowScreen) (f : List Refined) : ServeRes :=
  let wp := (r.pool.map (workTok c f)).filter takesPart
  if f.any (fun x => F32.isNan x.z && (x.pois || !c.nanMask)) then .poison
  else if wp.isEmpty then (if r.floor == fNinf then .nobody else .noPool)
  else serveStages c true r.floor (isRefined f) wp

/-- A decided SERVE test as a move of certification. -/
def ServeRes.move : ServeRes → CertStep
  | .need [] => .uncert
  | .need ids => .refine ids
  | .choice _ _ | .tied | .nobody => .done
  | .noPool => .noPool
  | .poison => .poison

/-- The next move of a row of either class (R97, R101). -/
def certTest (c : SelCtx) (r : RowScreen) (f : List Refined) : CertStep :=
  if c.serve then (serveTest c r f).move else rolloutTest c r f

/-! SPEC_EXACT and retain rows (R203, R206 to R208). -/

/-- What a row of a SPEC_EXACT run tests: its draft token, the retained distribution and its two draws. -/
structure SpecIn where
  x       : Nat
  entries : List (Nat × Nat)
  sigma   : Nat
  aAcc    : Nat
  aRes    : Nat
deriving DecidableEq, Repr, Inhabited

def entryOf (l : List (Nat × Nat)) (id : Nat) : Nat := match l.find? (fun p => p.1 == id) with | some p => p.2 | none => 0

/-- The union of two ascending id lists. -/
def mergeIds (a b : List Nat) : List Nat := insSort (fun i j => decide (i ≤ j)) (a ++ b.filter fun i => !a.contains i)

/-- The outcome of R206 and R207: the draft token accepted, another token emitted, or tokens to refine. -/
inductive SpecRes where
  | accept
  | emit (id : Nat)
  | need (ids : List Nat)
deriving DecidableEq, Repr, Inhabited

/-- The acceptance test and the residual walk over a kept set (R206 to R208). -/
def specTest (d : SpecIn) (ref : Nat → Bool) (ks : List KTok) : SpecRes :=
  let sdn := sumNat (ks.map (·.dn))
  let sup := sumNat (ks.map (·.up))
  let eq := entryOf d.entries d.x
  let main := ks.find? fun k => k.tok.id == d.x
  let accept := match main with | some k => decide ((2 * d.aAcc + 1) * eq * sup ≤ 2 ^ 25 * k.dn * d.sigma) | none => false
  let reject := match main with | some k => decide (2 ^ 25 * k.up * d.sigma < (2 * d.aAcc + 1) * eq * sdn) | none => true
  if accept then .accept
  else if !reject then .need (keptStraddlers ref ks)
  else
    let ids := mergeIds (ks.map (·.tok.id)) (d.entries.map (·.1))
    let res := ids.map fun i =>
      let q := entryOf d.entries i
      let (dn, up) : Nat × Nat := match ks.find? (fun k => k.tok.id == i) with
        | some k => (k.dn * d.sigma - q * sup, k.up * d.sigma - q * sdn)
        | none => (0, 0)
      ({ tok := { (default : Tok) with id := i }, klo := 0, khi := 0, dn := dn, up := up } : KTok)
    match stageWalk d.aRes 0 0 res with
    | some id => .emit id
    | none => .need (keptStraddlers ref ks)

/-- The kept set against which a SPEC_EXACT row tests, from where stages 1 to 4 leave it. -/
def KeptRes.specSet : KeptRes → Option (List KTok)
  | .greedy t => some [{ tok := t, klo := orderKey t.lo, khi := orderKey t.hi, dn := 2 ^ 63, up := 2 ^ 63 }]
  | .kept _ ks => some ks
  | _ => none

/-- How a row of the step is decided: as an ordinary row, as a retain row, in a SPEC_EXACT run, or as a SERVE row of a merge group, whose stages 3 to 5 follow the rounds (R188). -/
inductive RowMode where
  | ordinary
  | retain
  | spec (d : SpecIn)
  | group
deriving DecidableEq, Repr, Inhabited

/-- The next move of a row in its mode (R97, R101, R203, R208). -/
def rowTest (c : SelCtx) (mode : RowMode) (r : RowScreen) (f : List Refined) : CertStep :=
  match mode with
  | .ordinary => certTest c r f
  | .retain =>
    match serveTest c r f with
    | .choice _ kept =>
      match byWidth (kept.filter fun t => !isRefined f t.id) with
      | [] => .done
      | ids => .refine ids
    | x => x.move
  | .group =>
    let wp := (r.pool.map (workTok c f)).filter takesPart
    if f.any (fun x => F32.isNan x.z && (x.pois || !c.nanMask)) then .poison
    else if wp.isEmpty then (if r.floor == fNinf then .done else .noPool)
    else match serveTop c true r.floor (isRefined f) wp with
      | .need ids => (ServeRes.need ids).move
      | _ => .done
  | .spec d =>
    let wp := (r.pool.map (workTok c f)).filter takesPart
    if f.any (fun x => F32.isNan x.z && (x.pois || !c.nanMask)) then .poison
    else if wp.isEmpty then (if r.floor == fNinf then .done else .noPool)
    else match serveKept c true r.floor (isRefined f) wp with
      | .need ids => (ServeRes.need ids).move
      | .tied | .nobody => .done
      | k =>
        match k.specSet with
        | none => .done
        | some ks =>
          match specTest d (isRefined f) ks with
          | .need ids => (ServeRes.need ids).move
          | _ => .done

/-- Every token as its working score alone (R106); one whose score is −inf then takes no part (R95). -/
def pointToks (wp : List Tok) : List Tok := (wp.map fun t => { t with lo := t.z0, hi := t.z0 }).filter takesPart

/-- A SPEC_EXACT row decided on working values over its pool (R106, R208): accepted, or the token that the residual draw emits, with the kept set. -/
def specComposite (c : SelCtx) (d : SpecIn) (wp : List Tok) : Option (SpecRes × List Tok) :=
  match (serveKept c false fNinf (fun _ => true) (pointToks wp)).specSet with
  | none => none
  | some ks => some (specTest d (fun _ => true) ks, ks.map (·.tok))

/-- The composite evaluation of R106 and R91: every token counts as its working score, nothing outside the pool takes part; none where no pool token does. -/
def serveComposite (c : SelCtx) (wp : List Tok) : Option (Nat × List Tok) :=
  match serveStages c false fNinf (fun _ => true) (pointToks wp) with
  | .choice id kept => some (id, kept)
  | _ => none

/-- The highest-ranking working key (R96, R106). -/
def bestKey (c : SelCtx) (l : List Tok) : Option Tok :=
  (sortToks (fun t => orderKey (F32.add .even t.z0 (tokG c t))) l).head?

/-- The tokens outside the pool that an overflow row takes in (R170). -/
def overflowToks (c : SelCtx) (r : RowScreen) (toks : List Tok) : List Tok :=
  match bestKey c (r.pool.filter takesPart) with
  | none => []
  | some b =>
    let kb := orderKey (F32.add .even b.z0 (tokG c b))
    if r.floor != fNinf && decide (kb ≤ orderKey r.floor) then
      toks.filter fun t => takesPart t && !r.pool.any (fun p => p.id == t.id) &&
        decide (kb ≤ orderKey (if c.greedy then t.z0 else F32.add .up t.z0 (gumbelHigh c.compat (t.a / 4096))))
    else []

/-! Statistics. -/

/-- The moment term of R177. -/
def momTerm (compat : Bool) (x m : F32) : Nat :=
  if F32.isFinite x && F32.isFinite m then
    let d := (F32.val m).sub (F32.val x)
    if 0 < d.num && d.lt (Frac.ofInt 64) then
      let df := (d.mul ⟨2 ^ 48, 1⟩).floor.toNat
      cfExpfx compat x m * df / 2 ^ 48
    else 0
  else 0

/-- Σ0 and M0 of a row (R82, R177). -/
def sumSweepOf (compat : Bool) (toks : List Tok) (m0 : F32) : Nat × Nat :=
  toks.foldl (fun (p : Nat × Nat) t => (p.1 + cfExpfx compat t.z0 m0, p.2 + momTerm compat t.z0 m0)) (0, 0)

/-- The formula of R174, with the exponent of a number below 2^63 negative. -/
def lgFormula (x : Nat) : Frac :=
  let k : Int := (bitLength x : Int) - 64
  let f := x * 2 ^ (-(k + 40)).toNat / 2 ^ (k + 40).toNat - 2 ^ 23
  Frac.scaled ((k * (2 ^ 92 : Nat) + tabPoly .log2 256 62 15 (f / 2 ^ 15) (f % 2 ^ 15)) * cL2) (-156)

/-- The fixed logarithm Lg (R174). Below 2^63, which R175 says cannot arise and R108 lets arise when the token that attained m0 is refined to a lower score, R174 states none: the formula with a free part below 2^-30, which keeps the bound of R109; of 0 a free value. It is the same wherever the same sum arises (log entry 132, DESIGN CHOICE). -/
def fixedLog (x : Nat) : Frac :=
  if x = 0 then ⟨Config.lgBelow 0, 2 ^ 63⟩
  else if x < 2 ^ 63 then (lgFormula x).add ⟨Config.lgBelow x % 2 ^ 33, 2 ^ 63⟩
  else lgFormula x

/-- m*, Σ* and M* after refinement (R108, R177); `f` pairs each refined token's z0 with its z. -/
structure CertStats where
  mStar : F32
  sStar : Nat
  mom   : Nat
deriving DecidableEq, Repr, Inhabited

def certStats (compat : Bool) (m0 : F32) (s0 mom0 : Nat) (f : List (F32 × F32)) : CertStats :=
  let ms := maxF (m0 :: f.map (·.2))
  let rest := s0 - sumNat (f.map fun p => cfExpfx compat p.1 m0)
  let sc := cfExpfx compat m0 ms
  let mrest := mom0 - sumNat (f.map fun p => momTerm compat p.1 m0)
  let dm := if F32.isFinite ms && F32.isFinite m0 then (((F32.val ms).sub (F32.val m0)).mul ⟨2 ^ 48, 1⟩).floor.toNat else 0
  { mStar := ms
    sStar := rest * sc / 2 ^ 63 + sumNat (f.map fun p => cfExpfx compat p.2 ms)
    mom := (mrest + rest * dm / 2 ^ 48) * sc / 2 ^ 63 + sumNat (f.map fun p => momTerm compat p.2 ms) }

/-- `rne32(w − m − Lg(Σ))` (R175, R176); over a sum below 2^63 it is held at 0 or below, as R108 and R175 say of every case (log entry 132). -/
def logprobOf (w m : F32) (s : Nat) : F32 :=
  let z := (((XR.of w).sub (XR.of m)).sub (.fin (fixedLog s))).toF32 .even
  if s < 2 ^ 63 ∧ 0 < (XR.of z).sgn then 0 else z

/-- The entropy of R177; where nothing is left of Σ*, its quotient is free too (log entry 132). -/
def entropyOf (s : CertStats) : F32 := if s.sStar = 0 then Config.entEmpty s.mom else rne32 ((fixedLog s.sStar).add ⟨s.mom, s.sStar⟩)

/-- −LN(n) for a tie count (R132). -/
def negLn (compat : Bool) (n : Nat) : F32 := XR.toF32 .even (XR.of (cfLn compat (F32.ofInt n))).neg

end Sys2Proof.Machine
end

