-- ==== Sys2Proof/Machine/State.lean ====
section
/-! DEFINITION. The state of DXQ4: plain data, everything the spec gives the block, with the queue of waiting commands; the state after reset; faults and refusals. -/

namespace Sys2Proof.Machine

/-! Queues and Lead (chapter 12). -/

/-- A normal descriptor as Lead copies it (R229), with the status address of its NORMAL (R359). -/
structure NormalDesc where
  ctx    : Nat
  method : Nat
  ofmt   : Nat
  post   : Nat
  stream : Nat
  npos   : Nat
  seed   : Word64
  out    : Nat
  count  : Nat
  block0 : Nat
  cpl    : Nat
deriving DecidableEq, Repr, Inhabited

/-- What stands decoded at a queue's HEAD (R301, R309). -/
inductive Item where
  | insn (g : GInstr)
  | step (p : StepProg)
  | norm (d : NormalDesc)
deriving DecidableEq, Repr, Inhabited

/-- A decoded item: as Lead checked it, with its instructions in slot order; for a step also the program as the units have received it so far, the frame and guard instructions that their own commands have still to hand over, and the clusters in service at decode (R66); the ring slots it takes, its launch priority and energy estimate (R323), its place in decode order (R324), the reference set that Lead copied (R332), whether its checks wait for a pending REPACK (R59), and whether its launch has been considered without fitting (R464), or, of a BARRIER, whether its release has come. -/
structure Decoded where
  item   : Item
  code   : List GInstr
  prog   : StepProg
  cls    : List Nat
  len    : Nat
  prio   : Nat
  eEst   : Nat
  order  : Nat
  ref    : Option Nat
  body   : List GInstr
  defer  : Bool
  waited : Bool
deriving DecidableEq, Repr, Inhabited

/-- What LAUNCHAT or BARRIER puts on the item that follows it (R419, R420, R428). -/
inductive Gate where
  | launchat (gc : Nat)
  | barrier (bseq : Nat)
deriving DecidableEq, Repr, Inhabited

/-- A hold with its place in decode order (R431). -/
structure Hold where
  gate : Gate
  met  : Bool
  order : Nat
deriving DecidableEq, Repr, Inhabited

/-- The part of a step queue that no register shows: slots fetched from HEAD on, the decoded item, the hold on the next item, whether the item before was a LAUNCHAT or BARRIER, remote operations and MASK loads not complete, and the channels whose ordering response a FENCE awaits, the slots that SKIP moves HEAD over, and whether the fetch after the last slot returned poison (R297, R300, R315, R316, R360). -/
structure QueueX where
  slots  : List Slot
  item   : Option Decoded
  hold   : Option Hold
  gated  : Bool
  remote : Nat
  loads  : Nat
  ords   : Option (List Nat)
  haltLen : Nat
  pois   : Bool
deriving DecidableEq, Repr, Inhabited

/-! Steps in flight. -/

/-- A score-table entry (R234). -/
structure ScoreEntry where
  token : Nat
  pos   : Nat
  seed  : Word64
  key   : Nat
  serve : Bool
  pb    : Nat
  seq   : Nat
  plen  : Nat
  lpOld : F32
  adv   : F32
  wrow  : F32
deriving DecidableEq, Repr, Inhabited

/-- A retention (R204); `slot` is the Halter slot of its request. -/
structure Retention where
  slot    : Nat
  key     : Nat
  pos     : Nat
  tok     : Nat
  working : Bool
  sigma   : Nat
  entries : List (Nat × Nat)
deriving DecidableEq, Repr, Inhabited

/-- A verify run of a step (R196, R199): its entry, what cut it, how its walk ended (R199, R210), and the retentions of its request at its snapshot. -/
structure VRun where
  index   : Nat
  row0    : Nat
  dlen    : Nat
  spec    : Bool
  key     : Nat
  draft   : List Nat
  failed  : Bool
  deff    : Nat
  limited : Bool
  noret   : Bool
  na      : Nat
  rej     : Bool
  nemit   : Nat
  stopped : Bool
  rets    : List Retention
deriving DecidableEq, Repr, Inhabited

/-- Where a row's certification stands (R97, R101, R111); `ended` is a discarded VERIFY row's in FREE_REIN gait (R212). -/
inductive CertPhase where
  | todo | certified | uncert | poisoned | ended
deriving DecidableEq, Repr, Inhabited

/-- What a merge forms over the chips' partitions (R187, R249): A, Σ_G, Ar, Σr_G. -/
structure MergeSum where
  a   : F32
  s   : Nat
  ar  : F32
  sr  : Nat
deriving DecidableEq, Repr, Inhabited

/-- A token that the first round of a SERVE row exchanges (R188). -/
structure UEnt where
  id  : Nat
  ref : Bool
  tie : Bool
  lo  : F32
  hi  : F32
  z   : F32
deriving DecidableEq, Repr, Inhabited

/-- What the first round of a SERVE row leaves for the second (R188 to R190): merged disposition, UNCERT, NREF so far, the largest M_C, the tie count, whether the first tie tokens are not all among the entries, the union U in chip order, and the group refinement list. -/
structure MergeMid where
  disp   : Disp
  uncert : Bool
  nref   : Nat
  m      : F32
  tieN   : Nat
  tieCut : Bool
  ents   : List UEnt
  plan   : List Nat
deriving DecidableEq, Repr, Inhabited

/-- What a row has come to (R108, R131 to R133, R174 to R180, R237 to R239, R247); `tokOut` says that the scored token takes no part (R237). -/
structure RowOut where
  disp    : Disp
  token   : Option Nat
  lp      : F32
  lp2     : F32
  ent     : F32
  cert    : Nat
  uncert  : Bool
  trunc   : Bool
  top     : List (Nat × F32)
  kept    : List (Nat × F32)
  mK      : F32
  sigK    : Nat
  tieN    : Nat
  kl      : F32
  lpRef   : F32
  klOver  : Bool
  refDisp : Bool
  notKept : Bool
  tokOdd  : Bool
  tokOut  : Bool
  acc     : Bool
  gclip   : Bool
  mg      : Option MergeSum
deriving DecidableEq, Repr, Inhabited

/-- A spill table as LOADH read it (R279): its request, how many spills the request had made, the entries, and whether a granule was poisoned. -/
structure SpillTab where
  slot    : Nat
  spills  : Nat
  entries : List (Nat × Nat)
  bad     : Bool
deriving DecidableEq, Repr, Inhabited

/-- One row of a step: its binding (R272), what LOADH read (`blind`: an input of its score path is missing), its scores, its certification with the cluster whose lane refines it and the rounds it has taken (R103, R105), and its outcome. -/
structure RowState where
  slot    : Option Nat
  bound   : Bool
  vacant  : Bool
  snapped : Bool
  poison  : Bool
  blind   : Bool
  cause   : Nat
  serve   : Bool
  seed    : Word64
  key     : Nat
  pos     : Nat
  pb      : ParamBlock
  h       : HRow
  counts  : List (Nat × Nat)
  rowMask : List Byte
  entry   : Option ScoreEntry
  toks    : List Tok
  rtoks   : List Tok
  scr     : Option RowScreen
  sum0    : Nat
  mom0    : Nat
  mr0     : F32
  sr0     : Nat
  x0      : Int
  ref     : List Refined
  rref    : List Refined
  phase   : CertPhase
  lane    : Option Nat
  rounds  : Nat
  nref    : Nat
  out     : Option RowOut
  merged  : Option RowOut
  mid     : Option MergeMid
  plan2   : List Nat
  nref2   : Nat
deriving DecidableEq, Repr, Inhabited

/-- A step or NORMAL in flight (R307, R309): what it bound at launch (R157, R227), the stages it has passed, whether its screen has been abandoned and waits to start again (R90), its rows, and what its outputs came to: each row's bytes for the digest (R433), the emit count (R273), whether EMIT has begun, the rows whose records carry `LATE`; the granules that each refine round has read on each channel (R422), as round, channel and count; and the writes of each row that EMIT has issued, as row, address and bytes (R313). -/
structure Flight where
  ln       : Nat
  queue    : Nat
  head     : Nat
  prog     : StepProg
  normal   : Option NormalDesc
  bank     : Nat
  tepoch   : Nat
  compat   : Bool
  emu      : Bool
  strict   : Bool
  collected : Bool
  clusters : List Nat
  view     : PlaneView
  rview    : Option PlaneView
  gcLaunch : Nat
  gcDone   : Nat
  eEst     : Nat
  limitMs  : Nat
  hold     : Option Hold
  twice    : Bool
  wsUnits  : Nat
  allocd   : Bool
  restart  : Bool
  loaded   : Bool
  snapped  : Bool
  released : Bool
  screened : Bool
  m0done   : Bool
  swept    : Bool
  selected : Bool
  verified : Bool
  klDone   : Bool
  emitted  : Bool
  complete : Bool
  scored   : Bool
  gradDone : Bool
  transDone : Bool
  mrSent   : Nat
  mrDone   : Nat
  tb       : Nat
  cstat    : Nat
  prio     : Nat
  headBias : List F32
  headPois : List Nat
  refBias  : List F32
  refPois  : List Nat
  psBytes  : Nat
  psWait   : Bool
  spillTabs : List SpillTab
  rows     : List RowState
  runs     : List VRun
  rowBytes : List (List Byte)
  digested : Bool
  digLo    : Nat
  digHi    : Nat
  gEmit    : Nat
  emitting : Bool
  nLate    : Nat
  tally    : List (Nat × Nat × Nat)
  writesOf : List (Nat × Nat × Nat)
deriving DecidableEq, Repr, Inhabited

/-! Halter's storage beside the entries (R260). -/

/-- What Halter keeps of a request outside its entry: resident counts and how many spills it has made (R278), the stop-match tail (R285), the kept `CONS` and the reserved ring slots (R286), the pending end state with its reason (R273 to R275). -/
structure ReqX where
  hist     : List (Nat × Nat)
  spills   : Nat
  tail     : List Nat
  cons     : Nat
  reserved : Nat
  ending   : Option (Nat × Nat)
deriving DecidableEq, Repr, Inhabited

/-- A mask set that is loaded (R128): base, length and bits. -/
structure MaskSet where
  base : Nat
  len  : Nat
  bits : List Byte
deriving DecidableEq, Repr, Inhabited

/-- A MASK load that runs (R129): its place in decode order, queue, set, source, and launch number. -/
structure MaskJob where
  order : Nat
  queue : Nat
  set   : Nat
  base  : Nat
  len   : Nat
  src   : Nat
  ln    : Nat
deriving DecidableEq, Repr, Inhabited

/-- A Yarrow block or handle waiting to be hashed and looked up (R292, R294). -/
structure YBlock where
  slot   : Nat
  key    : Nat
  handle : Bool
  block  : Nat
  first  : Nat
  yblk   : Nat
  hash   : Nat
  skip   : Bool
deriving DecidableEq, Repr, Inhabited

/-! REPACK (chapter 02). -/

/-- A REPACK from its decode to its report (R51, R304): place in decode order, whether REPACK has handed it to the repack units, queue, target, descriptor address, launch number. -/
structure RepackJob where
  order : Nat
  given : Bool
  queue : Nat
  psid  : Nat
  rd    : Nat
  ln    : Nat
  strict : Bool
deriving DecidableEq, Repr, Inhabited

/-- The repack descriptor (R44). -/
structure RepackDesc where
  mfmt    : Nat
  lean    : Bool
  place   : Nat
  hd      : Nat
  pdBase  : Nat
  vLo     : Nat
  vHi     : Nat
  headV   : Nat
  id0     : Nat
  wBase   : Nat
  wStride : Nat
  eBase   : Nat
  eStride : Nat
  p0      : Nat
  p1      : Nat
  p2      : Nat
  report  : Nat
deriving DecidableEq, Repr, Inhabited

/-- The REPACK that builds: its job, descriptor and the clusters of its placement (R47); `lost` says that one of them has left service (R55); the clusters in service at its start, over which the slabs of a build without placement are spread (R221). -/
structure RepackRun where
  job    : RepackJob
  desc   : RepackDesc
  placed : List Nat
  dither : Bool
  lost   : Bool
  builders : List Nat
deriving DecidableEq, Repr, Inhabited

/-! Ports (chapter 14). -/

/-- What a request of DXQ4 was issued for; its response acts accordingly. A remote operation holds its own number `id` and the status of its first message that failed (R354, R355). A `read` is answered at once when it is sent (log entry 35). -/
inductive Purpose2 where
  | event (i : Nat)
  | note
  | read
  | remote (id q slot op addr : Nat) (st : Option Nat)
  | get (id q slot src dst n : Nat) (st : Option Nat)
  | ord (q : Nat)
  | emit (ln : Nat)
  | prod (ln slot : Nat)
  | ringRec (ln slot : Nat)
  | merge (ln round : Nat)
  | mergeCnt (ln round : Nat)
  | yarrow (slot block : Nat)
  | plain
deriving DecidableEq, Repr, Inhabited

/-- A request of DXQ4 that no response has retired: its port, its tag once it has been sent, the bytes it is about, its purpose, its header, and its data slots while it waits to be sent (R364, R373). -/
structure Outstanding where
  port : Port
  tag  : Nat
  addr : Nat
  len  : Nat
  why  : Purpose2
  hdr  : Header
  wait : Option (List (BitVec 128))
deriving DecidableEq, Repr, Inhabited

/-- Link state beside `TK_MODE`: what attach has sent and received (`inits` the peer's grants), the credits of VC0, VC2 and VC3 held towards the peer, the capability words sent on the channels (R387), the last 64 flits of the H-port, each channel's last 64 request headers, the write slots behind them (none: a slot left empty), and the return segments that it took, each with the header slot beside it (R489, R490); what each port's last fault captured (R483), and a QUIESCE that waits for a commit (R364, R372, R380, R467). -/
structure LinkX where
  epochs   : Store (BitVec 16)
  capSeen  : Bool
  capMc    : List (Nat × Nat)
  ackSent  : Option Nat
  ackGot   : Option Nat
  inits    : List (Nat × Nat × Nat)
  hdr      : List Nat
  dat      : List Nat
  drained  : Bool
  isolated : Bool
  sent     : List (Nat × Nat)
  mcSent   : List (Nat × Nat)
  flits    : List Flit
  mcReq    : List (List (BitVec 128))
  mcData   : List (List (Option (BitVec 128)))
  mcRet    : List (List (List Byte × Option (BitVec 128)))
  capture  : List (Port × List (List (BitVec 128)))
  goQuiet  : Bool
deriving DecidableEq, Repr, Inhabited

/-- Arbiter snapshots (R393): the words of the shadows, pending and in effect, of each group. -/
structure ArbX where
  pend : List (Option (Nat × List Word64))
  eff  : List (List Word64)
deriving DecidableEq, Repr, Inhabited

/-! Sync port (chapter 16). -/

/-- Barrier lines with the barrier this chip waits at, the level of `sync_load`, and the lock-step comparison with the peer's digest (R427, R430, R433 to R436). -/
structure SyncX where
  up        : Bool
  dn        : Bool
  cdn       : Bool
  cup       : List Bool
  delivered : Bool
  cmpLn     : Option Nat
  peer      : Nat × Nat
  bisect    : Option (Nat × Nat × Nat)
  log       : List Nat
  relWait   : Bool
  cur       : Option Nat
  load      : Bool
deriving DecidableEq, Repr, Inhabited

/-! Power (chapter 17). -/

/-- Steps of attach (R466). -/
inductive AttachStep where
  | on | wipe | bist | negotiate | online | failed
deriving DecidableEq, Repr, Inhabited

/-- Martingale's state (R446 to R467): attach and the domains it has still to bring up; the moves to come, the domain that moves, whether chip sleep is asked for, domains that await recovery, clusters suspended, pins; generations; energy with what the window and the first candidate's wait have shown, the first candidate that has waited, by its place in decode order; each sensor's time in `HOT`; the point driven and not acknowledged, the point that COLLECTED gait holds; launching stopped by a dip or a trip; clusters that failed BIST and have no event yet; clusters that a failed BIST or CLUSTER_TEST keeps out of service until the next attach (R466, R482). -/
structure PowerX where
  attach   : AttachStep
  onLeft   : List Nat
  moves    : List (Nat × Nat)
  moving   : Option (Nat × Nat)
  sleepMov : Bool
  recover  : List Nat
  suspended : List Nat
  asleep   : Bool
  pdReq    : List Bool
  pdRet    : List Bool
  pdAck    : List Bool
  gen      : Nat
  tags     : List Nat
  wordsBad : List Nat
  headroom : Int
  budget   : Nat
  window   : Nat
  winUs    : Nat
  missed   : Bool
  winGood  : Bool
  waitUs   : Nat
  waitFor  : Option Nat
  hotUs    : List Nat
  hotDue   : Bool
  target   : Option Nat
  late     : Bool
  ptHeld   : Option Nat
  stopped  : Bool
  tripped  : Bool
  vsel     : Nat
  sleepAck : Bool
  sleepDeny : Bool
  attachFail : Bool
  bistBad  : List Nat
  heldOut  : List Nat
deriving DecidableEq, Repr, Inhabited

/-! Events and Farrier (chapters 15 and 18). -/

/-- An event record before its number is given (R476). -/
structure EvRec where
  cls     : Nat
  code    : Nat
  sev     : Nat
  exc     : Bool
  gc      : Nat
  stepId  : Nat
  queue   : Nat
  cluster : Nat
  row     : Nat
  addr    : Nat
  count   : Nat
  detail  : List (Nat × List Byte)
deriving DecidableEq, Repr, Inhabited

/-- The exceptions of R483 with what Farrier's disposition needs: the failing words of a recovery, the digests that differed. -/
inductive Exc where
  | padRepair (cl word psid : Nat)
  | ceStorm (part : SramPart)
  | scrubFix (psid : Nat) (rec : RecRef)
  | staleFail (n : Nat) (words : List Nat)
  | sorrelCheck (cl : Nat)
  | linkLog (port : Port)
  | lockstepLog (digests : List Nat)
deriving DecidableEq, Repr, Inhabited

/-- An entry of Farrier's fault log (R482, R483): the event of its exception with the event's number, the flag of its disposition, and what Farrier has logged. -/
structure LogEntry where
  event : EvRec
  num  : Nat
  flag : Nat
  data : List Nat
deriving DecidableEq, Repr, Inhabited

/-- A cluster test in hand: the cluster, its result, whether its leaving has stopped a plane set or a REPACK, and the words that its recovery found uncorrectable (R482, R483). -/
structure TestRun where
  cl     : Nat
  result : Nat
  stops  : Bool
  words  : List Nat
deriving DecidableEq, Repr, Inhabited

/-- Farrier: exception queue with each raise's event and its number; fault log; the mailbox command in hand, and the cluster test that it runs; telemetry: address and period, records written, periods skipped, what the period has counted, running totals; and the time for which each cluster may post no `SORREL_HEALTH` (R226, R481 to R485). -/
structure FarX where
  exq     : List (Exc × EvRec × Nat)
  log     : List LogEntry
  mailbox : Option (Nat × Nat)
  ready   : Option TestRun
  telem   : Option (Nat × Nat)
  num     : Nat
  skipped : Nat
  shed    : Bool
  steps   : Nat
  rows    : Nat
  ceSram  : Nat
  ceSeal  : Nat
  ueSram  : Nat
  uePois  : Nat
  drops   : Nat
  dropRec : Nat
  sorrelOff : List Nat
deriving DecidableEq, Repr, Inhabited

/-- The event ring beside its registers (R414, R478). -/
structure EventX where
  issued : Nat
  acked  : List Nat
  noted  : Nat
  noteUp : Bool
  seq    : Nat
  coal   : List (CoalKey × EvRec)
deriving DecidableEq, Repr, Inhabited

/-! Test access (chapter 19). -/

/-- Test access (R489, R501, R502): the wrapper's instruction and boundary cells, the `pm_pd_req` and `pm_pd_ret` that the pins hold since `WS_SAFE` was loaded, what the last access captured, the instruments whose segment is open, `tst_rma_en`, each domain's BIST result with the repair that the last memory BIST found for each slice and for Halter, the bypass register, Bridle's trace buffer and breakpoints, and the bits that the last access shifted out of `tst_tdo`, `tst_wso` and `tst_wpo`. -/
structure TestX where
  wir   : Nat
  cells : List Bool
  heldPd : List Bool × List Bool
  seen  : List Bool
  open1687 : List Instrument
  rmaEn : Bool
  bist  : List Nat
  repair : List Word64
  bypass : Bool
  trace : List Word64
  breaks : List Word64
  tdo   : List Bool
  wso   : List Bool
  wpo   : List Bool
deriving DecidableEq, Repr, Inhabited

/-- A part of a GET that has its data: the number of the GET, where the bytes lay, and the bytes as the read found them (R354). -/
structure GetPart where
  id    : Nat
  addr  : Nat
  bytes : List Byte
deriving DecidableEq, Repr, Inhabited

/-- The response to the last access that DXQ4 served (R367): status and words. -/
structure Resp where
  status : Nat
  words  : List Word64
deriving DecidableEq, Repr, Inhabited

/-- One Sorrel lane (R221, R226): its state, the chunks since its last reseed, its last jitter word and how many reseeds in a row failed. -/
structure Lane where
  x     : BitVec 32
  count : Nat
  last  : BitVec 32
  fails : Nat
deriving DecidableEq, Repr, Inhabited

/-- The state of DXQ4. `nextOp` is the model's own number of the next remote operation (log entry 142). `fuseCopy` is word 0 of the fuse array as the ON step of attach read it, `trims` its words 1 to 8 as their check bits left them (R504, R505). `padDirty` lists the ranges of slice bytes whose contents are not known, since working sets and unfinished builds have lain there (R417). `respHdr` is the header slot of the response to the last access served (R365, R366); `scrub` is the place that the patrol scrubber has come to, a set, a plane and a record (R475); `padFresh` names the words that the debug window has written since the last working set was placed in their slice (R417). -/
structure State where
  pending  : List Instr
  freeCtr  : Nat
  resp     : Option Resp
  respHdr  : BitVec 128
  regs     : Store Word64
  mem      : Store Byte
  memMark  : Store Mark
  fuses    : BitVec 1024
  fuseCopy : Word64
  trims    : List Word64
  pad      : Store Byte
  padFresh : List Nat
  padDirty : List (Nat × Nat)
  bad      : List SramPart
  banks    : Store Word64
  lanes    : Store Word64
  laneTags : List (Nat × Nat)
  tabQueue : Option Nat
  tabPassed : Bool
  queues   : List QueueX
  nextLn   : Nat
  nextDec  : Nat
  nextOp   : Nat
  flights  : List Flight
  placed   : List (List Nat)
  repackQ  : List RepackJob
  repack   : Option RepackRun
  maskJobs : List MaskJob
  masks    : List (Option MaskSet)
  reqs     : Store ReqX
  shadows  : List (Nat × List Word64)
  rets     : List Retention
  stops    : List (Nat × List Byte)
  yBlocks  : List YBlock
  yLooks   : List YBlock
  out      : List Outstanding
  gotten   : List GetPart
  link     : LinkX
  arb      : ArbX
  sync     : SyncX
  power    : PowerX
  ev       : EventX
  far      : FarX
  test     : TestX
  sorrel   : List (Nat × Lane)
  scrub    : Nat × Nat × Nat
  quiesced : Bool
deriving DecidableEq, Repr, Inhabited

/-- Faults: no command of DXQ4 stops the block. -/
inductive Fault where
  /-- Nothing raises it; safe. -/
  | none
deriving DecidableEq, Repr

/-- Refusals. -/
inductive Refusal where
  /-- Raised by the dispatch of a command that has no meaning yet; safe: the block stops where the hardware goes on. -/
  | notModelled (mnemonic : String)
deriving DecidableEq, Repr

/-! State after reset. -/

def noReq : ReqX := ⟨[], 0, [], 0, 0, none⟩
def queueReset : QueueX := ⟨[], none, none, false, 0, 0, none, 0, false⟩
def linkReset : LinkX :=
  { epochs := [], capSeen := false, capMc := [], ackSent := none, ackGot := none, inits := [], hdr := [0, 0, 0]
    dat := [0, 0, 0], drained := false, isolated := false, sent := [], mcSent := [], flits := []
    mcReq := List.replicate 16 [], mcData := List.replicate 16 [], mcRet := List.replicate 16 [], capture := [], goQuiet := false }
def syncReset : SyncX :=
  { up := false, dn := false, cdn := false, cup := List.replicate 8 false, delivered := false, cmpLn := none, peer := (0, 0)
    bisect := none, log := [], relWait := false, cur := none, load := false }
/-- Domains at the start of attach: nothing is on (R466), and `pm_pd_ack[19]` is high (R496). -/
def powerReset : PowerX :=
  { attach := .on, onLeft := [], moves := [], moving := none, sleepMov := false, recover := [], suspended := []
    asleep := false, pdReq := List.replicate 20 false, pdRet := List.replicate 20 false, pdAck := List.replicate 19 false ++ [true], gen := 1
    tags := List.replicate 20 0, wordsBad := [], headroom := 36000, budget := 36000, window := 100, winUs := 0
    missed := false, winGood := false, waitUs := 0, waitFor := none, hotUs := List.replicate 16 0, hotDue := false, target := none, late := false, ptHeld := none, stopped := false
    tripped := false, vsel := 0, sleepAck := false, sleepDeny := false, attachFail := false, bistBad := [], heldOut := [] }
def eventReset : EventX := ⟨0, [], 0, false, 0, []⟩
def farReset : FarX := ⟨[], [], none, none, none, 0, 0, false, 0, 0, 0, 0, 0, 0, 0, 0, List.replicate 16 0⟩
def testReset : TestX := ⟨0, [], ([], []), [], [], false, List.replicate 20 0, List.replicate 17 0, false, [], [], [], [], []⟩
/-- The arbiter words at reset: priorities, bursts, 64 slots (R396). -/
def arbWords : List Word64 :=
  regDefault 0x4000 :: regDefault 0x4008 :: (List.range 64).map fun n => regDefault (0x4100 + 8 * n)
def arbReset : ArbX := ⟨List.replicate 4 none, List.replicate 4 arbWords⟩

/-- The fuses of the model's part at reset: PROD, DXQ4-16, nothing disabled (log entry 4; DESIGN CHOICE). -/
def fusesReset : BitVec 1024 := 0b111000000

/-- DXQ4 right after reset: every register at its reset value (R402), every memory wiped, the link down. -/
def State.reset : State :=
  { pending := [], freeCtr := 0, resp := none, respHdr := 0, regs := [], mem := [], memMark := [], fuses := fusesReset, fuseCopy := fusesReset.setWidth 64, trims := List.replicate 8 0
    pad := [], padFresh := [], padDirty := []
    bad := [], banks := [], lanes := [], laneTags := List.replicate 16 (0, 0), tabQueue := none, tabPassed := false
    queues := List.replicate 32 queueReset, nextLn := 0, nextDec := 0, nextOp := 0, flights := [], placed := List.replicate 16 []
    repackQ := [], repack := none, maskJobs := [], masks := List.replicate 64 none, reqs := [], shadows := []
    rets := [], stops := [], yBlocks := [], yLooks := [], out := [], gotten := [], link := linkReset, arb := arbReset
    sync := syncReset, power := powerReset, ev := eventReset, far := farReset, test := testReset, sorrel := []
    scrub := (0, 0, 0), quiesced := false }

end Sys2Proof.Machine
end

