-- ==== Sys2Proof/Machine/Ops.lean ====
section
/-! DEFINITION. The named operations over DXQ4's state that several commands share: registers, host memory, requests and acknowledgements, events, exceptions, queues, flights. -/

namespace Sys2Proof.Machine

/-! Registers. -/

/-- The stored word of a register (R402: an unlisted one holds its reset value). -/
def State.reg (s : State) (off : Nat) : Word64 := Store.read regDefault s.regs off
def State.setReg (s : State) (off : Nat) (v : Word64) : State := { s with regs := Store.write regDefault s.regs off v }
def State.getF (s : State) (f : Fld) : Nat := getBits (s.reg f.off) f.lsb f.width
def State.setF (s : State) (f : Fld) (v : Nat) : State := s.setReg f.off (setBits (s.reg f.off) f.lsb f.width v)
def State.flag (s : State) (f : Fld) : Bool := s.getF f == 1
def State.setFlag (s : State) (f : Fld) (b : Bool) : State := s.setF f (if b then 1 else 0)
/-- Adds to a saturating counter. -/
def State.addSat (s : State) (f : Fld) (n : Nat) : State := s.setF f (Nat.min (2 ^ f.width - 1) (s.getF f + n))
/-- Adds modulo the width. -/
def State.addMod (s : State) (f : Fld) (n : Nat) : State := s.setF f ((s.getF f + n) % 2 ^ f.width)

/-- The next free value's number; the counter advances. -/
def State.bump (s : State) : State := { s with freeCtr := s.freeCtr + 1 }

/-! Fuses (R504). -/

def fuseBits (f : BitVec 1024) (lsb width : Nat) : Nat := f.toNat / 2 ^ lsb % 2 ^ width
/-- A life-cycle flag: at least two of its three copies are set. -/
def lcFlag (f : BitVec 1024) (k : Nat) : Bool :=
  decide (2 ≤ fuseBits f (3 * k) 1 + fuseBits f (3 * k + 1) 1 + fuseBits f (3 * k + 2) 1)
/-- `LC_STATE` (R504). -/
def lcOf (f : BitVec 1024) : Nat :=
  if lcFlag f 4 then 5 else if lcFlag f 3 then 4 else if lcFlag f 2 then 3 else if lcFlag f 1 then 2
  else if lcFlag f 0 then 1 else 0
def State.lc (s : State) : Nat := lcOf s.fuses
/-- The domain is disabled by fuse (R410), as the ON step has read the array (R504). -/
def State.fusedOff (s : State) (n : Nat) : Bool := n < 16 && getBits s.fuseCopy (18 + n) 1 == 1
/-- `GRADE` and `CLDIS` as the ON step has read them. -/
def State.grade (s : State) : Nat := getBits s.fuseCopy 16 2
def State.clDis (s : State) : Nat := getBits s.fuseCopy 18 16
/-- Trims and repairs (R504), as the words of the array that pass their check give them: 0, untrimmed and unrepaired, where one does not (R505). -/
def State.trimBits (s : State) (lsb width : Nat) : Nat := getBits (s.trims.getD (lsb / 64 - 1) 0) (lsb % 64) width
def State.sensorTrim (s : State) (n : Nat) : Nat := s.trimBits (64 + 8 * n) 8
def State.pllTrim (s : State) : Nat := s.trimBits 192 16
def State.monitorTrim (s : State) (k : Nat) : Nat := s.trimBits (208 + 6 * k) 6
def State.padRepairFuses (s : State) (n : Nat) : Nat := s.trimBits (256 + 16 * n) 16
def State.halRepairFuses (s : State) : Nat := s.trimBits 512 64
/-- `BRIDLE_LOCK` (R404). -/
def State.bridleLock (s : State) : Bool := s.lc == 3 || s.lc == 5

/-- Clusters enabled by fuse, and clusters in service, ascending. -/
def State.enabled (s : State) : List Nat := (List.range 16).filter fun n => !s.fusedOff n
def State.inService (s : State) : List Nat := (List.range 16).filter fun n => s.getF fCL_SVC / 2 ^ n % 2 == 1
def State.serving (s : State) (n : Nat) : Bool := s.getF fCL_SVC / 2 ^ n % 2 == 1
def State.setBit (s : State) (f : Fld) (n : Nat) (b : Bool) : State :=
  let v := s.getF f
  s.setF f (if b then v ||| 2 ^ n else v - (v &&& 2 ^ n))
def State.online (s : State) : Bool := s.getF fLSTATE == 3
/-- The control space is served: ONLINE, and after QUIESCE until ISOLATE (R380, R467). -/
def State.served (s : State) : Bool := s.getF fLSTATE == 3 || s.getF fLSTATE == 4

/-! Domains (R445): the logic of one that is not `ON` does nothing. -/

def State.pstate (s : State) (n : Nat) : Nat := s.getF (fPSTATE n)
def State.domainOn (s : State) (n : Nat) : Bool := s.pstate n == 0
/-- PD_SEL and PD_HAL are `ON`. -/
def State.selOn (s : State) : Bool := s.domainOn 16
def State.halOn (s : State) : Bool := s.domainOn 17

/-- The domain that holds an SRAM part. -/
def partDomain : SramPart → Nat
  | .planeRegion c _ | .rowCopy c _ _ _ | .scoreStore c _ _ _ _ _ | .streamBuffer c _ _ _ | .sidePartBias c _ _ _
  | .sidePartMask c _ _ | .candidateStore c _ _ _ | .laneCopy c _ | .clusterFixed c _ => c
  | .selMaster _ _ | .selFixed _ _ _ | .digestLog _ | .emitBuffer _ _ _ => 16
  | _ => 17

/-! Responses (R367). -/

def rOK : Nat := 0
def rADDR : Nat := 1
def rALIGN : Nat := 2
def rACCESS : Nat := 3
def rSTALE : Nat := 4
def rDATA : Nat := 5
def rUNSUP : Nat := 6
def State.answer (s : State) (status : Nat) (words : List Word64) : State := { s with resp := some ⟨status, words⟩ }

/-! Host memory. -/

/-- An address lies inside the host-memory window (R382). -/
def State.inWindow (s : State) (a : Nat) : Bool :=
  decide (2 ^ 30 * s.getF fBASE_G ≤ a ∧ a < 2 ^ 30 * (s.getF fBASE_G + s.getF fSIZE_G))
/-- The channel of an address in the window (R382). -/
def State.channel (s : State) (a : Nat) : Nat := (a - 2 ^ 30 * s.getF fBASE_G) / 2 ^ (8 + s.getF fILV) % 16
/-- The port that carries a read or write (R383). -/
def State.portOf (s : State) (a : Nat) : Port := if s.inWindow a then .mc (s.channel a) else .hport
/-- Whether DXQ4 may still issue on a port (R384, R480). -/
def State.portUp (s : State) : Port → Bool
  | .hport => s.served
  | .mc n => s.flag (fMC_UP n)

/-- A byte of host memory that nothing has written reads 0 (log entry 3). -/
def memDefault (_ : Nat) : Byte := 0
def markDefault (_ : Nat) : Mark := .good
def State.memAt (s : State) (a n : Nat) : List Byte := Store.readRange memDefault s.mem a n
def State.putMem (s : State) (a : Nat) (bs : List Byte) : State := { s with mem := Store.writeRange memDefault s.mem a bs }
def State.markAt (s : State) (unit : Nat) : Mark := Store.read markDefault s.memMark unit

/-- Bytes of one granule (R387). -/
def State.granule (s : State) : Nat := if s.getF (fMC_GRAN 0) = 1 then 256 else 128

/-- The marks of the granules that a read of `n` bytes at `a` touches. -/
def State.granules (s : State) (a n : Nat) : List (Nat × Mark) :=
  if n = 0 then []
  else
    let g := s.granule
    (List.range ((a + n - 1) / g - a / g + 1)).map fun i =>
      let b := (a / g + i) * g
      let down := !s.portUp (s.portOf b)
      let ms := (List.range (g / 128)).map fun k => s.markAt (b / 128 + k)
      (b, if down then .errData else match ms.find? (fun m => m != .good) with | some m => m | none => .good)

/-! Events (R414, R476 to R478). -/

def State.gc (s : State) : Nat := s.getF fGC_NOW

/-- An event record with nothing named beyond its class. -/
def State.event (s : State) (cls code sev : Nat) (detail : List (Nat × List Byte)) : EvRec :=
  { cls := cls, code := code, sev := sev, exc := false, gc := s.gc, stepId := 0xFFFFFFFF, queue := 0xFF, cluster := 0xFF
    row := 0xFFFF, addr := 0, count := 1, detail := detail }

/-- The 64 bytes of a record (R476). -/
def evBytes (e : EvRec) (seq : Nat) : List Byte :=
  let b := leBytes 1 e.cls ++ leBytes 1 e.code ++ leBytes 1 e.sev ++
    leBytes 1 ((if 1 < e.count then 1 else 0) + (if e.exc then 2 else 0)) ++ leBytes 4 (seq % 2 ^ 32) ++ leBytes 8 e.gc ++
    leBytes 4 e.stepId ++ leBytes 1 e.queue ++ leBytes 1 e.cluster ++ leBytes 2 e.row ++ leBytes 8 e.addr ++ leBytes 4 e.count
  e.detail.foldl (fun l d => putBytes l d.1 d.2) (padTo 64 b)

/-! Requests of DXQ4 (R362 to R373, R383, R386). -/

/-- The lowest tag not in use (R373, R386). -/
def freeTag (used : List Nat) : Nat := ((List.range (used.length + 1)).find? fun t => !used.contains t).getD 0

/-- The place of a credited virtual channel in the lists of credits (R372). -/
def vcIndex (vc : Nat) : Nat := match vc with | 0 => 0 | 2 => 1 | _ => 2

/-- A header credit and `nds` data credits of a virtual channel are held (R364). -/
def LinkX.affords (l : LinkX) (vc nds : Nat) : Bool :=
  decide (1 ≤ l.hdr.getD (vcIndex vc) 0) && decide (nds ≤ l.dat.getD (vcIndex vc) 0)
/-- The credits of a message are taken. -/
def LinkX.pay (l : LinkX) (vc nds : Nat) : LinkX :=
  let k := vcIndex vc
  { l with hdr := l.hdr.set k (l.hdr.getD k 0 - 1), dat := l.dat.set k (l.dat.getD k 0 - nds) }

/-- Flits that leave the H-port (R363); the port keeps its last 64 (R483). -/
def LinkX.carry (l : LinkX) (fs : List Flit) : LinkX := { l with flits := lastOf 64 (l.flits ++ fs) }
/-- A header on the request path of a channel, with the write slots that follow it (R490). -/
def LinkX.carryMc (l : LinkX) (n : Nat) (h : BitVec 128) (d : List (BitVec 128)) : LinkX :=
  { l with mcReq := l.mcReq.set n (lastOf 64 (l.mcReq.getD n [] ++ [h]))
           mcData := l.mcData.set n (lastCycles 20 (64 * 17) (l.mcData.getD n [] ++ d.map some)) }
/-- A management message on the request path of a channel, its data slot in slot 0 of a cycle of its own (R490). -/
def LinkX.carryCap (l : LinkX) (n : Nat) (h d : BitVec 128) : LinkX :=
  let w := l.mcData.getD n []
  let w := w ++ List.replicate ((20 - w.length % 20) % 20) none ++ some d :: List.replicate 19 none
  { l with mcReq := l.mcReq.set n (lastOf 64 (l.mcReq.getD n [] ++ [h])), mcData := l.mcData.set n (lastCycles 20 (64 * 17) w) }
/-- What a channel's return path brings (R490). -/
def LinkX.takeMc (l : LinkX) (n : Nat) (segs : List (List Byte × Option (BitVec 128))) : LinkX :=
  { l with mcRet := l.mcRet.set n (lastCycles 5 128 (l.mcRet.getD n [] ++ segs)) }

/-- A management message on the return path: its data slot lies in segment 0 of a cycle, and the header slot beside it (R490). -/
def LinkX.takeCap (l : LinkX) (n : Nat) (h : BitVec 128) (d : List Byte) : LinkX :=
  let w := l.mcRet.getD n []
  { l with mcRet := l.mcRet.set n (lastCycles 5 128 (w ++ List.replicate ((5 - w.length % 5) % 5) ([], none) ++ (d, some h) :: List.replicate 4 ([], none))) }

/-- What decides whether a waiting request of a port may start: whether the port runs, how many it may keep outstanding (R362, R386), the version, and the sender fields of its header (R376). -/
structure PumpCtx where
  port   : Port
  up     : Bool
  limit  : Nat
  mode   : Nat
  agent  : Nat
  aepoch : Nat

/-- What sending changes on the way through the waiting requests: the link, the tags in use, the virtual channels on which an earlier request waits (R364: order within a channel). -/
structure PumpX where
  link    : LinkX
  used    : List Nat
  blocked : List Nat

/-- A request that has been sent stays outstanding under its tag; a `read` is answered at once, and gives its tag back (log entry 35). -/
def PumpX.took (x : PumpX) (o : Outstanding) : Option Outstanding × PumpX :=
  if o.why = .read then (none, x) else (some { o with wait := none }, { x with used := o.tag :: x.used })

/-- One request on that way: it is sent when its credits, a tag and the limit allow. -/
def pumpOne (c : PumpCtx) (x : PumpX) (o : Outstanding) : Option Outstanding × PumpX :=
  match o.wait with
  | none => (some o, x)
  | some d =>
    if o.port != c.port || x.blocked.contains o.hdr.vc then (some o, x)
    else if c.up && decide (x.used.length < c.limit) && (c.port != .hport || x.link.affords o.hdr.vc o.hdr.nds) then
      let t := freeTag x.used
      match c.port with
      | .hport =>
        let h := { o.hdr with tag := t, agent := c.agent, aepoch := c.aepoch }
        { x with link := (x.link.pay h.vc h.nds).carry (dataFlits c.mode (h.word :: d)) }.took { o with tag := t, hdr := h }
      | .mc n =>
        let h := { o.hdr with tag := t }
        { x with link := x.link.carryMc n h.word d }.took { o with tag := t, hdr := h }
    else (some o, { x with blocked := o.hdr.vc :: x.blocked })

def pumpAll (c : PumpCtx) : PumpX → List Outstanding → List Outstanding × PumpX
  | x, [] => ([], x)
  | x, o :: r =>
    let a := pumpOne c x o
    let b := pumpAll c a.2 r
    (a.1.toList ++ b.1, b.2)

/-- Requests that each version of the H-port keeps outstanding (R362). -/
def modeLimit (mode : Nat) : Nat := match mode with | 0 => 256 | 1 => 512 | _ => 1024

/-- Sends what may be sent of the requests that wait for a port, in order. -/
def State.pump (s : State) (p : Port) : State :=
  let c : PumpCtx :=
    { port := p, up := s.portUp p, limit := if p = .hport then modeLimit (s.getF fTK_MODE) else 1024, mode := s.getF fTK_MODE
      agent := s.getF fAGENT_ID, aepoch := s.getF fAEPOCH }
  let r := pumpAll c ⟨s.link, (s.out.filter fun o => o.port == p && o.wait.isNone).map (·.tag), []⟩ s.out
  { s with out := r.1, link := r.2.link }

/-- A request with its header and data slots joins those that wait, and is sent when it may be. -/
def State.send (s : State) (p : Port) (addr len : Nat) (why : Purpose2) (h : Header) (d : List (BitVec 128)) : State :=
  State.pump { s with out := s.out ++ [⟨p, 0, addr, len, why, { h with nds := d.length }, some d⟩] } p

/-- Bytes of a transfer that one message carries, from `a` on with `n` to go: on the H-port 32 words within 4 KiB (R368), on a channel one granule of a write, 8 granules of a read within an interleave unit (R383, R386); each message takes as much as it may (log entry 116; DESIGN CHOICE). -/
def State.cut (s : State) (p : Port) (wr : Bool) (a n : Nat) : Nat :=
  match p with
  | .hport => Nat.min n (Nat.min (256 - a % 8) (4096 - a % 4096))
  | .mc _ =>
    let g := s.granule
    if wr then Nat.min n (g - a % g)
    else Nat.min n (Nat.min (8 * g - a % g) (2 ^ (8 + s.getF fILV) - a % 2 ^ (8 + s.getF fILV)))

/-- The messages of a transfer in ascending order, by port, address and bytes; `p` forces a port. The number bounds the walk. -/
def State.pieces (s : State) (p : Option Port) (wr : Bool) : Nat → Nat → Nat → List (Port × Nat × Nat)
  | 0, _, _ => []
  | k + 1, a, n =>
    if n = 0 then []
    else
      let q := p.getD (s.portOf a)
      let m := s.cut q wr a n
      (q, a, m) :: s.pieces p wr k (a + m) (n - m)
def State.messages (s : State) (p : Option Port) (wr : Bool) (a n : Nat) : List (Port × Nat × Nat) := s.pieces p wr (n / 64 + 2) a n

/-- Header and data slots of a write of bytes at `a` (R368, R386): on the H-port whole words, filled from memory (log entry 116), on a channel one granule with its mask. -/
def State.wrMessage (s : State) (p : Port) (vc a : Nat) (bs : List Byte) : Header × List (BitVec 128) :=
  match p with
  | .hport =>
    let lo := a / 8 * 8
    let n := (a + bs.length + 7) / 8 - a / 8
    let d := s.memAt lo (a - lo) ++ bs ++ s.memAt (a + bs.length) (lo + 8 * n - (a + bs.length))
    ({ Header.nop with op := opWR, vc := vc, addr := lo, lenw := n - 1 }, byteSlots d)
  | .mc _ =>
    let g := s.granule
    let off := a % g
    ({ Header.nop with op := opWR, addr := a - off },
     maskSlot off bs.length :: byteSlots (List.replicate off 0 ++ bs ++ List.replicate (g - off - bs.length) 0))

/-- Header of a read of `n` bytes at `a` (R368, R386). -/
def State.rdHeader (s : State) (p : Port) (a n : Nat) : Header :=
  match p with
  | .hport => { Header.nop with op := opRD, addr := a / 8 * 8, lenw := (a + n + 7) / 8 - a / 8 - 1 }
  | .mc _ =>
    let g := s.granule
    { Header.nop with op := opRD, addr := a / g * g, lenw := (a + n + g - 1) / g - a / g - 1 }

/-- One `RD` of a read whose data the model takes at once (log entry 35), on a port that runs: it waits for its tag and credits like any other request. -/
def State.issueRd (s : State) (m : Port × Nat × Nat) : State :=
  if s.portUp m.1 then s.send m.1 m.2.1 m.2.2 .read (s.rdHeader m.1 m.2.1 m.2.2) [] else s

/-- The `RD` messages of such a read, cut as R368, R383 and R386 say, in ascending order. -/
def State.issueRead (s : State) (a n : Nat) : State := (s.messages none false a n).foldl State.issueRd s

/-- Writes bytes as the messages of one port or of the ports that R383 names. Their bytes are in place for DXQ4's later reads, and each message's acknowledgement is awaited (R371; log entry 115). On a channel in fault a message is answered at once and lost (R480); on an H-port in fault it is never issued (R384). -/
def State.writeBy (s : State) (p : Option Port) (vc a : Nat) (bs : List Byte) (why : Purpose2) : State :=
  (s.messages p true a bs.length).foldl (fun s x =>
    let d := (bs.drop (x.2.1 - a)).take x.2.2
    match x.1 with
    | .hport =>
      let m := s.wrMessage .hport vc x.2.1 d
      (if s.served then s.putMem x.2.1 d else s).send .hport x.2.1 x.2.2 why m.1 m.2
    | .mc n =>
      if s.flag (fMC_UP n) then
        let m := s.wrMessage (.mc n) vc x.2.1 d
        (s.putMem x.2.1 d).send (.mc n) x.2.1 x.2.2 why m.1 m.2
      else s) s
def State.writeHost (s : State) (a : Nat) (bs : List Byte) (why : Purpose2) : State := s.writeBy none 0 a bs why

/-- An atomic operation on a word of the host's side: one data slot (R369). -/
def State.sendAtom (s : State) (vc sub a : Nat) (x : Word64) (why : Purpose2) : State :=
  s.send .hport a 8 why { Header.nop with op := opATOM, vc := vc, addr := a, sub := sub } (wordSlots [x])

/-- Writes `TAIL` at `EV_NOTE` when it has moved and no such write is outstanding (R414). -/
def State.noteTail (s : State) : State :=
  if s.getF fEV_NOTE = 0 || s.ev.noteUp || s.ev.noted == s.getF fEV_TAIL then s
  else
    let t := s.getF fEV_TAIL
    let s := { s with ev := { s.ev with noted := t, noteUp := s.portUp (s.portOf (s.getF fEV_NOTE)) } }
    s.writeHost (s.getF fEV_NOTE) (leBytes 8 t) .note

/-- `TAIL` advances over acknowledged records in the order of issue (R414); `n` bounds the walk. -/
def State.advanceTail (s : State) : Nat → State
  | 0 => s
  | n + 1 =>
    let t := s.getF fEV_TAIL
    if s.ev.acked.contains t then
      State.advanceTail ({ s with ev := { s.ev with acked := s.ev.acked.filter fun i => i != t } }.setF fEV_TAIL ((t + 1) % 2 ^ 32)) n
    else s

/-- A record of the ring is acknowledged (R414). -/
def State.ackEvent (s : State) (i : Nat) : State :=
  (State.advanceTail { s with ev := { s.ev with acked := s.ev.acked ++ [i] } } (s.ev.acked.length + 1)).noteTail

/-- Steps 2 to 4 of R414: the record of an event; on a channel in fault it is answered at once (R480). -/
def State.issueEvent (s : State) (e : EvRec) : State :=
  let seq := s.ev.seq
  let s := { s with ev := { s.ev with seq := (seq + 1) % 2 ^ 32 } }
  if s.flag (fERR_MASK e.cls) then s
  else if s.flag fEV_EN && decide ((2 ^ 32 + s.ev.issued - s.getF fEV_HEAD) % 2 ^ 32 < 2 ^ s.getF fEV_ORDER) then
    let i := s.ev.issued
    let s := { s with ev := { s.ev with issued := (i + 1) % 2 ^ 32 } }
    let a := s.getF fEV_BASE + 64 * (i % 2 ^ s.getF fEV_ORDER)
    let t := s.writeHost a (evBytes e seq) (.event i)
    if s.portUp (s.portOf a) then t else t.ackEvent i
  else s.addSat fEV_DROP 1

/-- Posts an event that has a record of its own (R414). -/
def State.post (s : State) (e : EvRec) : State := (s.setF (fERR_CLASS e.cls) 1).issueEvent e

/-- Counts an occurrence of a coalesced event into its open window, or opens one (R478); `EXC` says that some occurrence of the record raised an exception (R476). -/
def State.coalesce (s : State) (k : CoalKey) (e : EvRec) : State :=
  let s := s.setF (fERR_CLASS e.cls) 1
  let l := s.ev.coal
  if l.any (fun p => p.1 == k) then
    { s with ev := { s.ev with coal := l.map fun p => if p.1 == k then (k, { p.2 with count := p.2.count + e.count, exc := p.2.exc || e.exc }) else p } }
  else { s with ev := { s.ev with coal := l ++ [(k, e)] } }

/-- Closes a window and posts its record. -/
def State.closeWindow (s : State) (k : CoalKey) : State :=
  match s.ev.coal.find? (fun p => p.1 == k) with
  | none => s
  | some p => { s with ev := { s.ev with coal := s.ev.coal.filter fun q => !(q.1 == k) } }.issueEvent p.2

/-- Whom an event concerns: `STEP_ID` and `QUEUE` (R476), all ones when none. -/
abbrev Who := Nat × Nat
def nobody : Who := (0xFFFFFFFF, 0xFF)

/-- No row, or all of them (R476). -/
def noRow : Nat := 0xFFFF

/-- The marks that deliver poisoned data (R367). -/
def poisons : Mark → Bool
  | .pois | .errData => true
  | _ => false

/-- Poisoned granules of a read by requester `req` (R390, R472), for row `row` of a step: one `GRANULE` occurrence each. An error response without data posts none (log entry 142). -/
def State.poisonEvents (s : State) (req sev : Nat) (gs : List (Nat × Mark)) (who : Who := nobody) (row : Nat := noRow) : State :=
  gs.foldl (fun s g =>
    if !poisons g.2 then s
    else
      let ch := match s.portOf g.1 with | .mc n => n | .hport => 0xFF
      s.coalesce (.granule req ch)
        { s.event 3 1 sev [(36, leBytes 1 req), (37, leBytes 1 ch), (38, leBytes 1 (if g.2 == .errData then 1 else 0))] with
          addr := g.1, stepId := who.1, queue := who.2, row := row }) s

/-- A read of host memory by a requester: its bytes, and whether a granule of it is poisoned; an odd granule posts its event. Its `RD` messages go out on the ports (log entry 35). -/
def State.readHost (s : State) (req sev a n : Nat) (who : Who := nobody) (row : Nat := noRow) : State × List Byte × Bool :=
  let gs := s.granules a n
  ((s.issueRead a n).poisonEvents req sev gs who row, s.memAt a n, gs.any fun g => g.2 != .good)

/-- The same read without its events, for values used inside a computation. -/
def State.peek (s : State) (a n : Nat) : List Byte × Bool :=
  (s.memAt a n, (s.granules a n).any fun g => g.2 != .good)

/-! Farrier's exception queue (R483). -/

def State.exqDepth (s : State) : Nat := s.far.exq.length

/-- Raises an exception: queued, or its default disposition when the queue is full. -/
def State.raise (s : State) (x : Exc) (e : EvRec) : State :=
  if 256 ≤ s.far.exq.length then
    let s := { s with far := { s.far with drops := s.far.drops + 1 } }
    let s := s.addSat fEXQ_DROPS 1
    (s.coalesce .exqOverflow (s.event 18 1 0 [(36, leBytes 4 (s.far.drops - s.far.dropRec))]))
  else
    let s := { s with far := { s.far with exq := s.far.exq ++ [(x, e, (2 ^ 32 - 1 + s.ev.seq) % 2 ^ 32)], shed := s.far.shed || decide (192 ≤ s.far.exq.length + 1) } }
    s.setF fEXQ_HIGH (Nat.max (s.getF fEXQ_HIGH) s.far.exq.length)

/-! Queues. -/

def State.qx (s : State) (q : Nat) : QueueX := s.queues.getD q queueReset
def State.setQx (s : State) (q : Nat) (x : QueueX) : State := { s with queues := s.queues.set q x }
def State.qEn (s : State) (q : Nat) : Bool := s.flag (fQ_EN q)
def State.halted (s : State) (q : Nat) : Bool := s.getF (fQ_STATE q) == 4
/-- Slots filled and not passed. -/
def State.qFill (s : State) (q : Nat) : Nat := (2 ^ 32 + s.getF (fQ_TAIL q) - s.getF (fQ_HEAD q)) % 2 ^ 32
def State.gait (s : State) : Bool := s.flag fGAIT
def State.strict (s : State) : Bool := s.flag fSTRICT

/-- Steps and NORMALs of a queue in flight. -/
def State.inflightOf (s : State) (q : Nat) : List Flight := s.flights.filter fun f => f.queue == q

/-- A mismatch holds every queue (R436). -/
def State.mismatch (s : State) : Bool := s.flag fMISMATCH

/-- The first slot run at HEAD is a step whose END has not been fetched. -/
def openStep (l : List Slot) : Bool :=
  match l with
  | [] => false
  | x :: r => slotOpc x == 0x10 && (takeToEnd 63 r).isNone && decide (r.length < 63)

/-- `STATE` of a queue that is not halted (R299, R436). -/
def State.qState (s : State) (q : Nat) : Nat :=
  if !s.qEn q then 0
  else if s.getF (fQ_HEAD q) = s.getF (fQ_TAIL q) then 1
  else if s.mismatch then 3
  else if (s.qx q).item.isSome then 3
  else if decide (s.qFill q ≤ (s.qx q).slots.length) && openStep (s.qx q).slots then 3
  else 2

/-- Sets `STATE` from what the queue holds, unless it is halted. -/
def State.refresh (s : State) (q : Nat) : State :=
  if s.halted q && s.qEn q then s else s.setF (fQ_STATE q) (s.qState q)

/-- The slots of a queue's ring from HEAD on, as far as TAIL and 64 at most: those fetched, and behind them what host memory holds. -/
def State.headSlots (s : State) (q : Nat) : List Slot :=
  let l := (s.qx q).slots
  let n := Nat.min 64 (s.qFill q)
  (l ++ (List.range (n - l.length)).map fun k =>
    let i := (s.getF (fQ_HEAD q) + l.length + k) % 2 ^ s.getF (fQ_ORDER q)
    BitVec.ofNat 128 (leNat (s.memAt (s.getF (fQ_BASE q) + 16 * i) 16))).take n

/-- The slots of the first item of a list: a step to its END, all of them where it has none. -/
def itemSpan : List Slot → Nat
  | [] => 0
  | y :: r => if slotOpc y = 0x10 then (match takeToEnd 63 r with | some b => b.length + 1 | none => r.length + 1) else 1

/-- The slots that a SKIP moves HEAD over after a halt: the item at HEAD, or none where HEAD is past what halted. Where the rest of a step has not been fetched (FETCH_POISON), its END is the one that its ring holds; without one, the step is taken to reach to TAIL, or to its 64th slot (log entry 130, DESIGN CHOICE). -/
def State.haltSpan (s : State) (q code order : Nat) : Nat :=
  if code = 1 || code = 4 || (code == 3 && order == 0) then 0
  else match (s.qx q).item with
    | some d => d.len
    | none => if s.getF (fQ_GEN q) != 2 then Nat.min 4 (s.qFill q) else itemSpan (s.headSlots q)

/-- What a halt leaves of a queue beside its registers: the decoded item and the fetched slots are dropped. -/
def haltedQueue (x : QueueX) (span : Nat) : QueueX :=
  { x with slots := [], item := none, ords := none, pois := false, haltLen := span }

/-- A queue stands `HALTED` with its code, HEAD where it is (R300); a REPACK of it that has not started is dropped. -/
def State.haltAt (s : State) (q code order : Nat) : State :=
  { (s.setF (fQ_STATE q) 4).setF (fQ_HALT q) code with
    queues := s.queues.set q (haltedQueue (s.qx q) (s.haltSpan q code order))
    repackQ := s.repackQ.filter fun j => j.queue != q }

/-- The event of a halt (R300, R331, R477). -/
def State.haltEvent (s : State) (q code order slot stepId : Nat) : EvRec :=
  { s.event 4 1 2 [(36, leBytes 1 code), (37, leBytes 1 order), (40, leBytes 4 ((s.getF (fQ_HEAD q) + slot) % 2 ^ 32))] with
    queue := q, stepId := stepId }

/-- Halts a queue; every halt but HALT_INSN posts its event (R300). -/
def State.halt (s : State) (q code order slot : Nat) (stepId : Nat) : State :=
  if code = 1 then s.haltAt q code order
  else (s.haltAt q code order).post ((s.haltAt q code order).haltEvent q code order slot stepId)

/-- Moves HEAD over the decoded item (R298) and frees its place. -/
def State.passItem (s : State) (q : Nat) (gated : Bool) : State :=
  match (s.qx q).item with
  | none => s
  | some d =>
    let x := s.qx q
    let s := s.setQx q { x with slots := x.slots.drop d.len, item := none, gated := gated, ords := none }
    (s.addMod (fQ_HEAD q) d.len).refresh q

/-- `WS_SAFE`, still loaded when the link comes back to `DOWN`, takes effect again, and holds the domain pins as they are then (R489, R501). -/
def State.holdPins (s : State) : State :=
  if s.test.wir = 1 then { s with test := { s.test with heldPd := (s.power.pdReq, s.power.pdRet) } } else s

/-! Flights. -/

def State.flight (s : State) (ln : Nat) : Option Flight := s.flights.find? fun f => f.ln == ln
def State.setFlight (s : State) (f : Flight) : State :=
  { s with flights := s.flights.map fun g => if g.ln == f.ln then f else g }

/-- Plane sets a step names: its main set and, when it is paired, the reference (R51). -/
def Flight.sets (f : Flight) : List Nat :=
  if f.normal.isSome then [] else f.view.psid :: (match f.rview with | some v => [v.psid] | none => [])

def Flight.who (f : Flight) : Who := (f.prog.stepId, f.queue)
def Flight.events (f : Flight) (e : EvRec) : EvRec := { e with stepId := f.prog.stepId, queue := f.queue }

/-- Records the first cause of a timing break (R312). -/
def Flight.breaks (f : Flight) (cause : Nat) : Flight := if f.tb == 0 then { f with tb := cause } else f

/-- The same for the re-reads and waits that break only a COLLECTED step (R418, R423). -/
def Flight.timing (f : Flight) (cause : Nat) : Flight := if f.collected then f.breaks cause else f

/-- A `ROW` event of a step, for `n` rows from `row` on: one record per step and code, posted at its completion (R477). `COUNT` gives the occurrences, and the rest describes the first of them (R478). -/
def State.rowEvent (s : State) (f : Flight) (code row n cause slot : Nat) : State :=
  s.coalesce (.rowCode f.ln code)
    { s.event 7 code 1 [(36, leBytes 2 n), (38, leBytes 1 cause), (40, leBytes 4 slot)] with
      stepId := f.prog.stepId, queue := f.queue, row := row }

/-- The request of a slot, beside its entry. -/
def reqDefault (_ : Nat) : ReqX := noReq
def State.req (s : State) (slot : Nat) : ReqX := Store.read reqDefault s.reqs slot
def State.setReq (s : State) (slot : Nat) (r : ReqX) : State := { s with reqs := Store.write reqDefault s.reqs slot r }
def State.eState (s : State) (slot : Nat) : Nat := s.getF (fE_STATE slot)

/-- No write of a flight is outstanding: its EMIT is complete once it has been issued (R310). -/
def State.flightQuiet (s : State) (ln : Nat) : Bool :=
  !s.out.any fun o => match o.why with
    | .emit l | .prod l _ | .ringRec l _ | .merge l _ | .mergeCnt l _ => l == ln
    | _ => false
def State.emitOver (s : State) (f : Flight) : Bool := f.emitted && s.flightQuiet f.ln

/-! Table banks: the masters in PD_SEL and the lane copies (R153 to R158). -/

def bankDefault (_ : Nat) : Word64 := 0
/-- Word of bank `b` at byte `off` of the Campion region. -/
def State.bankWord (s : State) (b off : Nat) : Word64 := Store.read bankDefault s.banks (2 ^ 16 * b + off)
def State.laneWord (s : State) (cl b off : Nat) : Word64 := Store.read bankDefault s.lanes (2 ^ 16 * (2 * cl + b) + off)

/-- The words of a region of 2^16 keys of a store, by offset; and a store with such a region replaced. -/
def Store.region {α : Type} (l : Store α) (r : Nat) : Store α := l.filterMap fun p => if p.1 / 2 ^ 16 = r then some (p.1 % 2 ^ 16, p.2) else none
def Store.setRegion {α : Type} (l : Store α) (r : Nat) (x : Store α) : Store α :=
  l.filter (fun p => decide (p.1 / 2 ^ 16 < r)) ++ x.map (fun p => (2 ^ 16 * r + p.1, p.2)) ++ l.filter (fun p => decide (r < p.1 / 2 ^ 16))

/-- Lane copies of both banks of a cluster, and their tags (R153, R158). -/
def State.copyLane (s : State) (b e : Nat) (cl : Nat) : State :=
  let t := s.laneTags.getD cl (0, 0)
  { s with lanes := Store.setRegion s.lanes (2 * cl + b) (Store.region s.banks b)
           laneTags := s.laneTags.set cl (if b = 0 then (e, t.2) else (t.1, e)) }

/-! Sorrel (R221). -/

/-- One step of a lane's generator. -/
def xorshift (x : BitVec 32) : BitVec 32 :=
  let x := x ^^^ (x <<< 13)
  let x := x ^^^ (x >>> 17)
  x ^^^ (x <<< 5)

/-- A state of zero is replaced. -/
def liveSeed (x : BitVec 32) : BitVec 32 := if x = 0 then 1 else x

/-- A lane: 0 to 31 beside the Campion lanes of its cluster, 32 to 159 the element lanes of its repack unit. One that has not stepped since its domain came up starts from a jitter word, a free value (log entry 113). -/
def laneKey (cl lane : Nat) : Nat := 2 ^ 16 * cl + lane
def sorrelLane (l : List (Nat × Lane)) (fr k : Nat) : Lane :=
  match l.find? fun p => p.1 == k with
  | some p => p.2
  | none => ⟨liveSeed (Config.freeWord fr k), 0, Config.freeWord fr k, 0⟩
def putLane (l : List (Nat × Lane)) (k : Nat) (a : Lane) : List (Nat × Lane) := l.filter (fun p => p.1 != k) ++ [(k, a)]

/-- One chunk of a lane. Every 2^16 chunks the lane reseeds; past a reseed whose jitter word SORREL_RESEED has still to bring, chunks are free values. -/
def takeChunk (l : List (Nat × Lane)) (fr k : Nat) : BitVec 4 × List (Nat × Lane) :=
  let a := sorrelLane l fr k
  if a.count < 65536 then
    let x := xorshift a.x
    (x.setWidth 4, putLane l k { a with x := x, count := a.count + 1 })
  else (Config.freeChunk fr k a.count, putLane l k { a with count := a.count + 1 })

/-- Steps and NORMALs take the arrays in launch order (R88, R231): a step in `TWICE` mode until its second screen has run too (R84). -/
def State.arraysFree (s : State) (ln : Nat) : Bool :=
  s.flights.all fun f => decide (ln ≤ f.ln) || (f.screened && (!f.twice || f.swept)) || (f.normal.isSome && f.emitted) || f.complete

/-! Which slice bytes are known (R417). -/

/-- The parts of ranges that lie outside `[a, b)`. -/
def cutRange (a b : Nat) (l : List (Nat × Nat)) : List (Nat × Nat) :=
  l.flatMap fun r =>
    (if r.1 < Nat.min r.2 a then [(r.1, Nat.min r.2 a)] else []) ++ (if Nat.max r.1 b < r.2 then [(Nat.max r.1 b, r.2)] else [])

/-! Paddock. -/

def padDefault (_ : Nat) : Byte := 0
def padKey (cl byte : Nat) : Nat := 2 ^ 25 * cl + byte
/-- Bytes of a slice, by key from `a` to `b`, whose contents are not known from here on. -/
def State.dirtyPad (s : State) (a b : Nat) : State :=
  { s with padDirty := cutRange a b s.padDirty ++ (if a < b then [(a, b)] else [])
           padFresh := s.padFresh.filter fun k => !decide (a ≤ k ∧ k < b) }
/-- What a byte of a slice holds is known: no working set and no unfinished build has lain there since it was written. -/
def State.padKnown (s : State) (k : Nat) : Bool := s.padFresh.contains k || !s.padDirty.any fun r => decide (r.1 ≤ k ∧ k < r.2)
def State.padAt (s : State) (cl byte n : Nat) : List Byte := Store.readRange padDefault s.pad (padKey cl byte) n
def State.putPad (s : State) (cl byte : Nat) (bs : List Byte) : State :=
  { s with pad := Store.writeRange padDefault s.pad (padKey cl byte) bs }
/-- A run of slice bytes holds an uncorrectable word. -/
def State.padBad (s : State) (cl byte n : Nat) : Bool :=
  s.bad.any fun p => match p with
    | .planeRegion c w => c == cl && decide (byte < 8 * w + 8 ∧ 8 * w < byte + n)
    | _ => false

/-- The step that an SRAM part belongs to. -/
def partStep : SramPart → Option Nat
  | .rowCopy _ _ ln _ | .scoreStore _ _ ln _ _ _ | .streamBuffer _ _ ln _ | .sidePartBias _ _ ln _ | .sidePartMask _ _ ln
  | .candidateStore _ _ ln _ | .selFixed _ ln _ | .emitBuffer _ ln _ | .paramStore ln _ _ => some ln
  | _ => none

/-- Words written anew are good again (R470). -/
def State.mend (s : State) (p : SramPart → Bool) : State := { s with bad := s.bad.filter fun x => !p x }

/-- Advances the master generation, passing over 0 (R450). -/
def State.advanceG (s : State) : State :=
  let g := (s.power.gen + 1) % 2 ^ 32
  { s with power := { s.power with gen := if g = 0 then 1 else g } }

end Sys2Proof.Machine
end

