-- ==== Sys2Proof/Machine/Halter.lean ====
section
/-! DEFINITION. Halter (chapter 11): entries and leases, admission, end states, histories and spills, stop sets, ageing and deadlines, Yarrow. -/

namespace Sys2Proof.Machine

/-! Entries. -/

def State.word (s : State) (slot w : Nat) : Word64 := s.reg (rENT slot w)
/-- The slots whose entry is not FREE, ascending. -/
def State.liveSlots (s : State) : List Nat :=
  s.regs.filterMap fun p =>
    if 0x100000 ≤ p.1 ∧ p.1 < 0x200000 ∧ p.1 % 0x80 = 0 ∧ getBits p.2 0 3 ≠ 0 then some (p.1 / 0x80 % 8192) else none

/-- Some of the slots by `EPRIO` descending and then ascending: the order of Halter's own reads (R276). -/
def State.byEprio (s : State) (l : List Nat) : List Nat :=
  [3, 2, 1, 0].flatMap fun p => s.liveSlots.filter fun n => l.contains n && s.getF (fE_EPRIO n) == p

/-- A word of Halter's that holds a request's entry or history is uncorrectable (R471). -/
def State.damaged (s : State) (slot : Nat) : Bool :=
  s.bad.any fun p => match p with | .requestTable n _ | .historyCache n _ => n == slot | _ => false

/-- Mask of a word's RWS fields, and of its fixed ones (R263). -/
def rwsMask (w : Nat) : Word64 :=
  (entryFields w).foldl (fun m f => if f.acc = .rws then m ||| setBits 0 f.lsb f.width (2 ^ f.width - 1) else m) 0
def fixedMask : Nat → Word64
  | 0 => setBits (setBits (setBits 0 4 2 3) 19 3 7) 24 8 255
  | 1 | 3 | 11 => 0xFFFFFFFFFFFFFFFF
  | 6 => setBits 0 0 53 (2 ^ 53 - 1)
  | 7 | 8 => setBits 0 0 48 (2 ^ 48 - 1)
  | 9 => setBits 0 0 56 (2 ^ 56 - 1)
  | _ => 0

/-- Takes the masked bits of a word from another. -/
def blend (m live new : Word64) : Word64 := (live &&& ~~~m) ||| (new &&& m)

/-- The `NOTE` word of a request (R286), written when its control block can take it (R270); a merge chip without `WRITE` writes none for its steps (`none`, R193, R291). -/
def State.writeNote (s : State) (slot : Nat) (why : Option Purpose2) : State :=
  let cb := s.getF (fE_CB slot)
  match why with
  | none => s
  | some w =>
    if cb = 0 || cb % 64 != 0 then s
    else s.writeHost (cb + 16)
      (leBytes 8 (s.eState slot + 2 ^ 8 * s.getF (fE_REASON slot) + 2 ^ 32 * s.getF (fE_GLEN slot))) w

/-- Frees the retentions of a request (R205). -/
def State.freeRets (s : State) (slot : Nat) : State := { s with rets := s.rets.filter fun r => r.slot != slot }

/-- A request enters DONE, EXPIRED or FAULT (R275). -/
def State.enter (s : State) (slot st reason : Nat) (why : Option Purpose2) : State :=
  (((s.setF (fE_STATE slot) st).setF (fE_REASON slot) reason).freeRets slot).writeNote slot why

/-- The stronger of two end states: FAULT before EXPIRED before DONE (R273). -/
def stronger (a b : Option (Nat × Nat)) : Option (Nat × Nat) :=
  match a, b with
  | none, x => x
  | x, none => x
  | some p, some q => if p.1 < q.1 then some q else some p

/-- A row or rule calls for an end state, which takes effect once INFL reaches 0 (R273, R274, R281). -/
def State.wantEnd (s : State) (slot st reason : Nat) : State :=
  s.setReq slot { s.req slot with ending := stronger (s.req slot).ending (some (st, reason)) }

/-- Moves a request whose INFL is 0 to its end state (R273, R275). -/
def State.settle (s : State) (slot : Nat) (why : Option Purpose2) : State :=
  if s.getF (fE_INFL slot) != 0 then s
  else
    match (s.req slot).ending with
    | some (st, reason) =>
      let s := s.setReq slot { s.req slot with ending := none }
      if s.eState slot = 0 then s else s.enter slot st reason why
    | none => if s.eState slot = 4 then s.enter slot 5 (s.getF (fE_REASON slot)) why else s

/-- A request becomes STOPPING with a reason, and so leaves ACTIVE and PAUSE (R205, R285). -/
def State.stopReq (s : State) (slot reason : Nat) : State :=
  ((s.setF (fE_STATE slot) 4).setF (fE_REASON slot) reason).freeRets slot

/-! Leases (R266 to R269). -/

def State.held (s : State) (slot : Nat) : Bool := s.flag (fE_HELD slot)
def State.holder (s : State) (slot : Nat) (snd : Sender) : Bool := s.held slot && s.getF (fE_OWNER slot) == snd.agent.toNat
def epochDefault (_ : Nat) : BitVec 16 := 0
/-- The current epoch of an agent (R376). -/
def State.epochOf (s : State) (agent : Nat) : BitVec 16 := Store.read epochDefault s.link.epochs agent
def State.shadow (s : State) (slot : Nat) : Option (List Word64) := (s.shadows.find? fun p => p.1 == slot).map (·.2)
def State.dropShadow (s : State) (slot : Nat) : State :=
  { (s.setReg (rENT slot 14) 0) with shadows := s.shadows.filter fun p => p.1 != slot }
def State.leaseEvent (s : State) (slot code cause : Nat) : State :=
  s.post (s.event 9 code 0 [(36, leBytes 2 slot), (38, leBytes 1 cause), (40, leBytes 8 (s.word slot 14).toNat)])

/-- Every CAS on a LEASE word is an attempt to acquire the lease; the word that it returns (R266). An expected value other than 0 is refused like the other causes (log entry 7). -/
def State.leaseCas (s : State) (slot : Nat) (expect new : Word64) (snd : Sender) : State × Word64 :=
  let ok := getBits new 63 1 == 1 && getBits new 48 15 == 0 && getBits new 0 16 == snd.agent.toNat &&
    getBits new 16 16 == (s.epochOf snd.agent.toNat).toNat && decide (s.shadows.length < 64) && expect == 0
  if s.held slot then (s, s.word slot 14)
  else if !ok then (s, 0x4000000000000000)
  else
    let live := (List.range 16).map fun w => s.word slot w
    ({ (s.setReg (rENT slot 14) new) with shadows := s.shadows ++ [(slot, live)] }, 0)

/-- A lease is broken and its shadow dropped (R269). -/
def State.breakLease (s : State) (slot cause : Nat) : State :=
  if s.held slot then (s.leaseEvent slot 2 cause).dropShadow slot else s

/-- Breaks every lease of an agent (R376). -/
def State.breakAgent (s : State) (agent : Nat) : State :=
  (s.shadows.map (·.1)).foldl (fun s slot => if s.getF (fE_OWNER slot) = agent then s.breakLease slot 0 else s) s

/-- A stop set leaves the store when no entry other than FREE names it (R283). -/
def State.pruneStops (s : State) : State :=
  { s with stops := s.stops.filter fun p => s.liveSlots.any fun n => s.getF (fE_STOP n) == p.1 }

/-- Halter's words of a slot are written anew (R470). -/
def State.mendSlot (s : State) (slot : Nat) : State :=
  s.mend fun p => match p with | .requestTable n _ | .historyCache n _ | .working n _ => n == slot | _ => false

/-- With `AGE_Q` 0, `EPRIO` equals `PRIO` at all times (R276). -/
def State.levelEntry (s : State) (slot : Nat) : State :=
  if s.getF fAGE_Q = 0 then s.setF (fE_EPRIO slot) (s.getF (fE_PRIO slot)) else s

/-- The same for every entry, FREE ones too. -/
def State.levelPrio (s : State) : State :=
  (s.regs.filterMap fun p => if 0x100000 ≤ p.1 ∧ p.1 < 0x200000 ∧ p.1 % 0x80 = 0 then some (p.1 / 0x80 % 8192) else none).foldl State.levelEntry s

/-- An entry becomes FREE (R271): RO fields, LEASE and Halter's own state of the request return to reset. -/
def State.freeEntry (s : State) (slot : Nat) : State :=
  let s := (List.range 16).foldl (fun s w =>
    s.setReg (rENT slot w) (blend (rwsMask w) (regDefault (rENT slot w)) (s.word slot w))) s
  let s := (s.levelEntry slot).mendSlot slot
  { ((s.setReq slot noReq).freeRets slot) with
    yBlocks := s.yBlocks.filter (fun b => b.slot != slot), shadows := s.shadows.filter fun p => p.1 != slot }.pruneStops

/-- The changes of STATE that a release may ask for (R268). -/
def releaseOk (live want : Nat) : Bool :=
  live == want || (live == 0 && want == 1) || (live == 2 && want == 3) || (live == 3 && want == 2) ||
  ((live == 2 || live == 3) && want == 4) || (decide (5 ≤ live ∧ live ≤ 7) && want == 0)

/-- Applies or refuses an edit at the release of its lease (R267, R268). -/
def State.applyEdit (s : State) (slot : Nat) : State :=
  match s.shadow slot with
  | none => s.dropShadow slot
  | some sh =>
    let live := s.eState slot
    let want := getBits (sh.getD 0 0) 0 3
    let fixedDiff := (List.range 14).any fun w => (sh.getD w 0 &&& fixedMask w) != (s.word slot w &&& fixedMask w)
    if fixedDiff && !(want == 0 || (live == 0 && want == 1)) then (s.leaseEvent slot 1 0).dropShadow slot
    else if !releaseOk live want then (s.leaseEvent slot 1 1).dropShadow slot
    else
      let s := (List.range 14).foldl (fun s w =>
        s.setReg (rENT slot w) (blend (rwsMask w) (s.word slot w) (sh.getD w 0))) s
      let s := s.dropShadow slot
      let s := if live = 0 then s.mendSlot slot else s.mend fun p => match p with | .requestTable n _ => n == slot | _ => false
      let s := if s.getF fAGE_Q = 0 || want = 1 then s.setF (fE_EPRIO slot) (s.getF (fE_PRIO slot)) else s
      if want = 0 then s.freeEntry slot
      else if want = 4 && live != 4 then (s.stopReq slot 5).settle slot (some .plain)
      else s

/-- A PUT on a LEASE word; none is an error response (R267, R486). -/
def State.leasePut (s : State) (slot : Nat) (v : Word64) (snd : Sender) : Option State :=
  if !s.holder slot snd then none
  else if v == 0 then some (s.applyEdit slot)
  else if v == 0x2000000000000000 then some (s.dropShadow slot)
  else none

/-- A read of an entry's word (R262): the holder of the lease reads its shadow, the LEASE word apart. -/
def State.readEntry (s : State) (slot w : Nat) (snd : Sender) : Word64 :=
  if w != 14 && s.holder slot snd then ((s.shadow slot).getD []).getD w 0 else s.word slot w

/-- A write to an entry's word other than LEASE goes to the holder's shadow (R262). -/
def State.writeEntry (s : State) (slot w : Nat) (v : Word64) (snd : Sender) : Option State :=
  if s.holder slot snd then
    some { s with shadows := s.shadows.map fun p => if p.1 == slot then (slot, p.2.set w (blend (rwsMask w) (p.2.getD w 0) v)) else p }
  else none

/-! Histories (R277 to R281). -/

/-- A page of a request's list (R277), taken from the list at each use (log entry 151, DESIGN CHOICE). -/
def State.pageAt (s : State) (slot i : Nat) : Nat := leNat (s.memAt (s.getF (fE_HISTPL slot) + 8 * i) 8)
def State.logAddr (s : State) (slot pos : Nat) : Nat := s.pageAt slot (pos / 16384) + 4 * (pos % 16384)
def State.spillAddr (s : State) (slot e : Nat) : Nat :=
  s.pageAt slot (s.getF (fE_HPAGES slot) - 1 - e / 8192) + 8 * (e % 8192)

/-- Pages that log and spill table need (R281). -/
def State.pagesOk (s : State) (slot : Nat) : Bool :=
  decide ((s.getF (fE_PLEN slot) + s.getF (fE_GLEN slot) + 9) / 16384 + 1 + ceilDiv (s.getF (fE_NSPILL slot) + 513) 8192
    ≤ s.getF (fE_HPAGES slot))

/-- The spill table of a request with its poison mark. -/
def State.spillTable (s : State) (slot : Nat) (who : Who := nobody) : State × List (Nat × Nat) × Bool :=
  let n := s.getF (fE_NSPILL slot)
  let addrs := (List.range (ceilDiv n 8192)).map fun k => (s.spillAddr slot (8192 * k), Nat.min 8192 (n - 8192 * k))
  let bad := addrs.any fun p => (s.peek p.1 (8 * p.2)).2
  let s' := addrs.foldl (fun s p => (s.readHost 2 1 p.1 (8 * p.2) who).1) s
  let entries := addrs.flatMap fun p =>
    let a := (s.memAt p.1 (8 * p.2)).toArray
    (List.range p.2).map fun e => (leAt a (8 * e) 3, leAt a (8 * e + 4) 2)
  (s', entries, bad)

/-- Adds to a count list kept in ascending id. -/
def addCount (cap id n : Nat) : List (Nat × Nat) → List (Nat × Nat)
  | [] => [(id, Nat.min cap n)]
  | (i, c) :: r =>
    if id < i then (id, Nat.min cap n) :: (i, c) :: r
    else if id = i then (i, Nat.min cap (c + n)) :: r
    else (i, c) :: addCount cap id n r

def countIn (l : List (Nat × Nat)) (id : Nat) : Nat :=
  match l.find? (fun p => p.1 == id) with | some p => p.2 | none => 0

/-- A spill (R278); none when the table's read is poisoned. -/
def State.spill (s : State) (slot : Nat) (why : Purpose2) (who : Who := nobody) : State × Bool :=
  let (s, old, bad) : State × List (Nat × Nat) × Bool := if s.getF (fE_NSPILL slot) = 0 then (s, [], false) else s.spillTable slot who
  if bad then (s, false)
  else
    let t := (s.req slot).hist.foldl (fun t p => addCount 65535 p.1 p.2 t) old
    let s := (List.range (ceilDiv t.length 8192)).foldl (fun s k =>
      s.writeHost (s.spillAddr slot (8192 * k))
        (((t.drop (8192 * k)).take 8192).flatMap fun p => leBytes 4 p.1 ++ leBytes 2 p.2 ++ [0, 0]) why) s
    let s := ((s.setF (fE_NSPILL slot) t.length).setFlag (fE_SPILLED slot) true).setF (fE_HCOUNT slot) 0
    (s.setReq slot { s.req slot with hist := [], spills := (s.req slot).spills + 1 }, true)

/-- Adds a token to a request's resident history, spilling first when it must (R278); false when the spill met poison. -/
def State.addHist (s : State) (slot tok : Nat) (why : Purpose2) (who : Who := nobody) : State × Bool :=
  let h := (s.req slot).hist
  let c := countIn h tok
  let (s, ok) : State × Bool :=
    if (c = 0 && decide (512 ≤ h.length)) || c == 255 then s.spill slot why who else (s, true)
  if !ok then (s, false)
  else
    let r := s.req slot
    let h := addCount 255 tok 1 r.hist
    ((s.setReq slot { r with hist := h }).setF (fE_HCOUNT slot) h.length, true)

/-- The spill tables of a step's requests, as LOADH reads them (R279). -/
def State.loadTables (s : State) (slots : List Nat) (who : Who) : State × List SpillTab :=
  slots.foldl (fun (x : State × List SpillTab) n =>
    if x.1.flag (fE_SPILLED n) then
      let r := x.1.spillTable n who
      (r.1, x.2 ++ [⟨n, (x.1.req n).spills, r.2.1, r.2.2⟩])
    else x) (s, [])

/-- The spilled counts of a request at its snapshot: as LOADH read them, or read again after a spill of an earlier step (R279). -/
def State.spilledCounts (s : State) (tabs : List SpillTab) (slot : Nat) (who : Who) : State × List (Nat × Nat) × Bool :=
  if !s.flag (fE_SPILLED slot) then (s, [], false)
  else match tabs.find? fun t => t.slot == slot && t.spills == (s.req slot).spills with
    | some t => (s, t.entries, t.bad)
    | none => s.spillTable slot who

/-- The count list of a request at its snapshot (R279): resident and spilled counts together. -/
def State.countList (s : State) (tabs : List SpillTab) (slot : Nat) (who : Who := nobody) : State × List (Nat × Nat) × Bool :=
  let (s, t, bad) := s.spilledCounts tabs slot who
  (s, (s.req slot).hist.foldl (fun t p => addCount 65535 p.1 p.2 t) t, bad)

/-! Parameter blocks. -/

def State.maskLoaded (s : State) (k : Nat) : Bool := (s.masks.getD k none).isSome

/-- Reads a parameter block (R117, R118): none when a granule of it is poisoned. -/
def State.readParam (s : State) (addr : Nat) (who : Who := nobody) : State × Option ParamBlock :=
  let (s, h, bad) := s.readHost 2 1 addr 256 who
  let n := pbLength (leAt h.toArray 30 2)
  let (s, b, bad2) : State × List Byte × Bool := if n ≤ 256 then (s, h, bad) else
    let r := s.readHost 2 1 (addr + 256) (n - 256) who
    (r.1, h ++ r.2.1, bad || r.2.2)
  (s, if bad2 then none else some (parseParam b.toArray))

/-! Stop sets (R282 to R285). -/

structure StopSet where
  ids  : List Nat
  seqs : List (List Nat)
deriving DecidableEq, Repr, Inhabited

def parseStop (a : Array Byte) : StopSet :=
  { ids := (List.range (leAt a 0 2)).map fun i => leAt a (64 + 4 * i) 3
    seqs := (List.range (byteAt a 2)).map fun q =>
      (List.range (byteAt a (320 + 80 * q))).map fun j => leAt a (336 + 80 * q + 4 * j) 3 }

/-- The form of a stop set (R284): ranges, and zero in every byte that R282 gives no meaning. -/
def stopOk (a : Array Byte) : Bool :=
  let nids := leAt a 0 2
  let nseq := byteAt a 2
  let len (q : Nat) : Nat := if q < nseq then byteAt a (320 + 80 * q) else 0
  let used (b : Nat) : Bool :=
    b < 3 || (64 ≤ b && b < 64 + 4 * nids && b % 4 != 3) ||
    (320 ≤ b && b < 960 &&
      (let q := (b - 320) / 80
       let o := (b - 320) % 80
       decide (q < nseq) && (o == 0 || (16 ≤ o && o < 16 + 4 * len q && o % 4 != 3))))
  decide (nids ≤ 64 ∧ nseq ≤ 8) && (List.range nseq).all (fun q => decide (1 ≤ len q ∧ len q ≤ 16)) &&
  (List.range 1024).all fun b => used b || byteAt a b == 0

/-- The stop test of a record that carries a token (R285): the reason, if one holds. -/
def State.stopTest (s : State) (slot tok : Nat) : Option Nat :=
  let gl := s.getF (fE_GLEN slot)
  let mx := s.getF (fE_MAXGEN slot)
  let st := match s.stops.find? (fun p => p.1 == s.getF (fE_STOP slot)) with
    | some p => if s.getF (fE_STOP slot) = 0 then (default : StopSet) else parseStop p.2.toArray
    | none => default
  let tail := (s.req slot).tail ++ [tok]
  if mx != 0 && gl == mx then some 3
  else if st.ids.contains tok then some 1
  else if st.seqs.any (fun q => decide (q.length ≤ tail.length) && tail.drop (tail.length - q.length) == q) then some 2
  else none

/-- Keeps the last 15 generated tokens. -/
def State.pushTail (s : State) (slot tok : Nat) : State :=
  let t := (s.req slot).tail ++ [tok]
  s.setReq slot { s.req slot with tail := t.drop (t.length - 15) }

/-! Yarrow's waiting blocks (R292, R294). -/

def yblkSize (code : Nat) : Nat := 16 * 2 ^ code

/-- Queues the blocks of a request that are complete below `upto` and not yet queued or hashed. -/
def State.queueBlocks (s : State) (slot upto : Nat) : State :=
  if !s.flag (fE_YEN slot) then s
  else
    let y := yblkSize (s.getF (fE_YBLK slot))
    let known := s.getF (fE_YBLOCKS slot) + s.yBlocks.countP fun b => b.slot == slot
    { s with yBlocks := s.yBlocks ++ (List.range (upto / y - known)).map fun i =>
        { slot := slot, key := s.getF (fE_KEY slot), handle := false, block := known + i + 1, first := (known + i) * y
          yblk := s.getF (fE_YBLK slot), hash := 0, skip := false } }

/-! Admission (R270). -/

/-- The entry that admission takes next: largest EPRIO, then lowest slot. -/
def State.nextAdmit (s : State) : Option Nat :=
  (s.liveSlots.filter fun n => s.eState n == 1).foldl (fun b n =>
    match b with
    | none => some n
    | some m => if s.getF (fE_EPRIO m) < s.getF (fE_EPRIO n) then some n else some m) none

def State.fieldsAdmit (s : State) (n : Nat) : Bool :=
  decide (1 ≤ s.getF (fE_PLEN n)) && decide (4 ≤ s.getF (fE_RORDER n) ∧ s.getF (fE_RORDER n) ≤ 20) &&
  s.getF (fE_PB n) % 256 == 0 && s.getF (fE_RING n) % 256 == 0 && s.getF (fE_CB n) % 64 == 0 &&
  s.getF (fE_STOP n) % 256 == 0 && s.getF (fE_HISTPL n) % 64 == 0 &&
  decide (s.getF (fE_PLEN n) + s.getF (fE_MAXGEN n) < 2 ^ 32)

/-- Check 3: the stop set comes from the store or from host memory (R283, R284). -/
def State.admitStop (s : State) (n : Nat) : State × Bool :=
  let a := s.getF (fE_STOP n)
  if a = 0 || s.stops.any (fun p => p.1 == a) then (s, true)
  else
    let (s, b, bad) := s.readHost 2 1 a 1024
    if bad || !stopOk b.toArray || decide (1024 ≤ s.stops.length) then (s, false)
    else (State.mend { s with stops := s.stops ++ [(a, b)] } fun p => match p with | .stopSet c _ => c == a | _ => false, true)

/-- Check 4: `CONS` must be 0; `PROD` and `NOTE` are then written 0. -/
def State.admitRing (s : State) (n : Nat) : State × Bool :=
  let cb := s.getF (fE_CB n)
  let (s, b, bad) := s.readHost 2 1 (cb + 8) 8
  if bad || leNat b != 0 then (s, false)
  else ((s.writeHost cb (leBytes 8 0) .plain).writeHost (cb + 16) (leBytes 8 0) .plain, true)

/-- The prompt's tokens with the poison mark of their reads. -/
def State.readPrompt (s : State) (n : Nat) : State × List Nat × Bool :=
  let p := s.getF (fE_PLEN n)
  (List.range (ceilDiv p 16384)).foldl (fun (x : State × List Nat × Bool) k =>
    let m := Nat.min 16384 (p - 16384 * k)
    let r := x.1.readHost 2 1 (x.1.pageAt n k) (4 * m)
    let a := r.2.1.toArray
    (r.1, x.2.1 ++ (List.range m).map (fun i => leAt a (4 * i) 4), x.2.2 || r.2.2)) (s, [], false)

/-- Counts a prompt into the history; false when a spill met poison (R277, R278). -/
def State.countPrompt (s : State) (n : Nat) (toks : List Nat) : State × Bool :=
  toks.foldl (fun (x : State × Bool) t => if x.2 then x.1.addHist n t .plain else x) (s, true)

/-- A count of the prompt whose spill met poison has changed nothing of the entry (R270). -/
def State.uncount (s t : State) (n : Nat) : State :=
  ((({ t with reqs := s.reqs }.setF (fE_HCOUNT n) (s.getF (fE_HCOUNT n))).setF (fE_NSPILL n) (s.getF (fE_NSPILL n))).setFlag
    (fE_SPILLED n) (s.flag (fE_SPILLED n)))

/-- Check 5 (R277, R278, R281), with the prompt's tokens; the prompt is counted when every check has passed, and only a poisoned spill leaves a trace before. -/
def State.admitHist (s : State) (n : Nat) (hprompt : Bool) : State × Bool × List Nat :=
  let hp := s.getF (fE_HPAGES n)
  let (s, _, bad) := s.readHost 2 1 (s.getF (fE_HISTPL n)) (8 * hp)
  if bad || !(s.pagesOk n) || (List.range hp).any (fun i => decide (2 ^ 48 ≤ s.pageAt n i) || s.pageAt n i % 65536 != 0) then (s, false, [])
  else
    let (s, toks, bad) := s.readPrompt n
    if bad || toks.any (fun t => decide (2 ^ 24 ≤ t)) then (s, false, toks)
    else if !hprompt then (s, true, toks)
    else
      let (t, ok) := s.countPrompt n toks
      if ok then (s, true, toks) else (s.uncount t n, false, toks)

def State.keySet (s : State) (tenant : Nat) : Bool := !(s.reg (kYKEY tenant 0) == 0 && s.reg (kYKEY tenant 1) == 0)

/-- A failed admission. -/
def State.admitFail (s : State) (n reason : Nat) : State :=
  ((s.setF (fE_STATE n) 7).setF (fE_REASON n) reason).writeNote n (some .plain)

/-- Admission of slot `n` (R270). -/
def State.admitReq (s : State) (n : Nat) : State :=
  if !s.fieldsAdmit n then s.admitFail n 0x10
  else
    let (s, pb) := s.readParam (s.getF (fE_PB n))
    match pb with
    | none => s.admitFail n 0x11
    | some b =>
      if !paramOk b (s.flag (fE_CLASS n)) s.maskLoaded then s.admitFail n 0x11
      else
        let (s, ok) := s.admitStop n
        if !ok then s.admitFail n 0x12
        else
          let (s, ok) := s.admitRing n
          if !ok then s.admitFail n 0x13
          else
            let (s, ok, toks) := s.admitHist n b.histPrompt
            if !ok then s.admitFail n 0x14
            else if s.flag (fE_YEN n) && !s.keySet (s.getF (fE_TENANT n)) then s.admitFail n 0x15
            else
              let s := if b.histPrompt then (s.countPrompt n toks).1 else s
              let s := (((s.setFlag (fE_HPROMPT n) b.histPrompt).setF (fE_LASTGC n) (s.gc % 2 ^ 32)).setF (fE_STATE n) 2).setF (fE_REASON n) 0
              if s.flag (fE_YEN n) then s.queueBlocks n (s.getF (fE_PLEN n))
              else if s.word n 11 == 0 then s
              else { s with yBlocks := s.yBlocks ++ [{ slot := n, key := s.getF (fE_KEY n), handle := true, block := 0, first := 0
                                                       yblk := s.getF (fE_YBLK n), hash := (s.word n 11).toNat, skip := false }] }

/-- ADMISSION (R270): the next entry in ADMIT; none waits, nothing happens. Halter does nothing of its own while PD_HAL is not `ON` (R445). -/
def execAdmission (s : State) : Host.Outcome State Fault Refusal :=
  match s.nextAdmit with
  | none => .next s
  | some n => if s.halOn then .next (s.admitReq n) else .next s

/-- LEASE_TIMEOUT (R269). -/
def execLeaseTimeout (slot : Nat) (s : State) : Host.Outcome State Fault Refusal :=
  if s.halOn then .next (s.breakLease slot 1) else .next s

/-- DEADLINE_SCAN (R273): idle requests whose deadline has passed. -/
def execDeadlineScan (s : State) : Host.Outcome State Fault Refusal :=
  if !s.halOn then .next s else .next (s.liveSlots.foldl (fun s n =>
    if (s.eState n == 2 || s.eState n == 3) && s.getF (fE_INFL n) == 0 && decide (s.getF (fE_DEADLINE n) < s.gc)
    then s.enter n 6 6 (some .plain) else s) s)

/-- AGEING (R276). -/
def execAgeing (s : State) : Host.Outcome State Fault Refusal :=
  let q := s.getF fAGE_Q
  if q = 0 || !s.halOn then .next s
  else .next (s.liveSlots.foldl (fun s n =>
    if s.eState n == 2 || s.eState n == 3 then
      let wait := (2 ^ 32 + s.gc % 2 ^ 32 - s.getF (fE_LASTGC n)) % 2 ^ 32
      s.setF (fE_EPRIO n) (Nat.min 3 (s.getF (fE_PRIO n) + wait / q))
    else s) s)

/-! Yarrow. -/

/-- Writes a report into Yarrow's ring, or counts a drop (R295). -/
def State.yReport (s : State) (b : YBlock) (kind value : Nat) : State :=
  let o := s.getF fYR_ORDER
  if s.getF fYR_PROD - s.getF fYR_CONS = 2 ^ o then s.addSat fYR_DROP 1
  else
    let a := s.getF fYR_BASE + 32 * (s.getF fYR_PROD % 2 ^ o)
    let s := s.writeHost a (leBytes 4 b.key ++ leBytes 2 b.slot ++ leBytes 1 kind ++ leBytes 1 b.yblk ++ leBytes 4 b.block ++
      leBytes 4 b.first ++ leBytes 8 b.hash ++ leBytes 8 value) .plain
    s.addMod fYR_PROD 1

/-- The waiting block that Yarrow takes next: largest EPRIO first, each request's in order (R276, R292). -/
def State.nextBlock (s : State) : Option YBlock :=
  s.yBlocks.foldl (fun b x =>
    match b with
    | none => some x
    | some y => if s.getF (fE_EPRIO y.slot) < s.getF (fE_EPRIO x.slot) then some x else some y) none

/-- The tokens of a block, as the log holds them: host memory's bytes, without a read of their own (log entry 150, DESIGN CHOICE). -/
def State.blockBytes (s : State) (b : YBlock) : List Byte :=
  (List.range (yblkSize b.yblk)).flatMap fun i => s.memAt (s.logAddr b.slot (b.first + i)) 4

/-- The directory group that holds a hash (R293). -/
def State.yGroup (s : State) (hash : Nat) : Nat := s.getF fYDIR_BASE + 64 * (hash % 2 ^ s.getF fYDIR_ORDER / 4)

/-- The report of a lookup from the group's bytes (R293, R295); a poisoned group is a `SKIP` (R472). -/
def State.yLookup (s : State) (b : YBlock) (bs : List Byte) (bad : Bool) : State :=
  if bad then s.yReport b 2 0
  else
    let a := bs.toArray
    let hit := (List.range 4).find? fun i => b.hash != 0 && leAt a (16 * i) 8 == b.hash
    match hit with
    | some i => s.yReport b (if b.handle then 3 else 1) (leAt a (16 * i + 8) 8)
    | none => if s.flag fYMISS then s.yReport b (if b.handle then 4 else 0) 0 else s

/-- Sends the GET of a lookup (R293); a channel in fault answers it at once as poisoned (R480). -/
def State.ySend (s : State) (b : YBlock) : State :=
  let a := s.yGroup b.hash
  let go (s : State) : State :=
    State.send { s with yLooks := s.yLooks ++ [b] } (s.portOf a) a 64 (.yarrow b.slot b.block) (s.rdHeader (s.portOf a) a 64) []
  match s.portOf a with
  | .mc n => if s.flag (fMC_UP n) then go s else (s.poisonEvents 2 0 [(a, .errData)]).yReport b 2 0
  | .hport => go s

/-- The response to the GET of a lookup arrives: its bytes, and whether they are poisoned. -/
def State.yAnswer (s : State) (slot block : Nat) (bs : List Byte) (bad : Bool) : State :=
  match s.yLooks.find? fun b => b.slot == slot && b.block == block with
  | none => s
  | some b => ({ s with yLooks := s.yLooks.erase b }).yLookup b bs bad

/-- YARROW_BLOCK (R292, R293): the next block is chained and looked up; with 256 lookups outstanding it waits, or is skipped when 4,096 wait. `YR_SKIP` counts the lookups that are never sent (log entry 149, DESIGN CHOICE). -/
def execYarrowBlock (s : State) : Host.Outcome State Fault Refusal :=
  match s.nextBlock with
  | none => .next s
  | some b =>
    let full := decide (256 ≤ s.yLooks.length)
    if !s.halOn || (full && decide (s.yBlocks.length < 4096)) then .next s
    else
      let s := { s with yBlocks := s.yBlocks.erase b }
      if b.handle then
        if full then .next ((s.addSat fYR_SKIP 1).yReport b 2 0)
        else .next (s.ySend b)
      else
        let t := s.getF (fE_TENANT b.slot)
        if !s.keySet t then .next ((s.addSat fYR_SKIP 1).yReport b 2 0)
        else
          let h := (siphash (s.reg (kYKEY t 0)) (s.reg (kYKEY t 1)) (leBytes 8 (s.getF (fE_YHASH b.slot)) ++ s.blockBytes b)).toNat
          let s := (s.setF (fE_YHASH b.slot) h).setF (fE_YBLOCKS b.slot) b.block
          let b := { b with hash := h }
          if full then .next ((s.addSat fYR_SKIP 1).yReport b 2 0)
          else .next (s.ySend b)

/-- YARROW_REPORT (R293, R295): the response to the oldest lookup arrives, with the 64-byte group as host memory holds it. -/
def execYarrowReport (s : State) : Host.Outcome State Fault Refusal :=
  match s.yLooks with
  | [] => .next s
  | b :: _ =>
    match s.out.find? fun o => o.why == .yarrow b.slot b.block && o.wait.isNone with
    | none => .next s
    | some o =>
      let t := State.pump { s with out := s.out.erase o } o.port
      let gs := t.granules o.addr 64
      .next ((t.poisonEvents 2 0 gs).yAnswer b.slot b.block (t.memAt o.addr 64) (gs.any fun g => g.2 != .good))

end Sys2Proof.Machine
end

