-- ==== Sys2Proof/Machine/PlaneSets.lean ====
section
/-! DEFINITION. Plane sets as registers and regions (R45 to R48, R57 to R62), and a cluster leaving service (R62, R90, R112). -/

namespace Sys2Proof.Machine

/-- A plane set as a step or reader sees it now. -/
def State.planeView (s : State) (n : Nat) : PlaneView :=
  { psid := n, epoch := s.getF (fPS_EPOCH n), vLo := s.getF (fPS_VLO n), vHi := s.getF (fPS_VHI n)
    hd := s.getF (fPS_HDIM n), lean := s.flag (fPS_P0FMT n), res0 := s.flag (fPS_RES n 0), res1 := s.flag (fPS_RES n 1)
    res2 := s.flag (fPS_RES n 2), host0 := s.getF (fPS_HOST n 0), host1 := s.getF (fPS_HOST n 1)
    host2 := s.getF (fPS_HOST n 2), placed := s.placed.getD n [], pdBase := 65536 * s.getF (fPS_PDBASE n) }

/-- A READY set with its epoch (R59). -/
def State.psReady (s : State) (n : Nat) : Bool := s.getF (fPS_STATE n) == 2

/-- The reference set of a step's plane set. -/
def State.refOf (s : State) (n : Nat) : Nat := s.getF (fPS_REF n)

/-- The plane sets that a decoded item names (R57): the reference is the one that Lead copied (R332). -/
def Decoded.sets (d : Decoded) : List Nat :=
  match d.item with
  | .step p => p.psid :: d.ref.toList
  | _ => []

/-- `USERS`: steps in flight or decoded that name the set (R57). -/
def State.users (s : State) (n : Nat) : Nat :=
  (s.flights.countP fun f => f.sets.contains n) +
  (s.queues.countP fun x => match x.item with | some d => d.sets.contains n | none => false)

/-- A REPACK into the set is pending: launched, neither completed nor refused (R59). -/
def State.repackPending (s : State) (n : Nat) : Bool :=
  s.repackQ.any (fun j => j.psid == n) || (match s.repack with | some r => r.job.psid == n | none => false)

/-- A REPACK into one of the sets was decoded before a place in decode order and has neither completed nor been refused (R51). -/
def State.repackBefore (s : State) (order : Nat) (sets : List Nat) : Bool :=
  s.repackQ.any (fun j => decide (j.order < order) && sets.contains j.psid) ||
  (match s.repack with | some r => decide (r.job.order < order) && sets.contains r.job.psid | none => false)

/-- The window conditions of R45 with R24. -/
def windowBad (vLo vHi headV : Nat) : Bool :=
  decide (vHi ≤ vLo) || decide (headV < vHi) || decide (2097152 < vHi - vLo) || decide (2 ^ 24 < headV) ||
  vLo % 64 != 0 || !(vHi % 64 == 0 || vHi == headV)

/-- `PD_LEN`: the region of R47 in 64 KiB units, for `j` slab slots. -/
def regionUnits (lean : Bool) (hd j : Nat) (p0 p1 p2 : Bool) : Nat :=
  units ((if p0 then j * hd * tileSize lean else 0) + (if p1 then 64 * j * p1Size hd else 0) +
    (if p2 then 64 * j * p2Size hd else 0))

/-- A region of a plane set lies in a slice: base and length in units, for the states that R45 names. The region of a `LOST` set counts as free (R80; log entry 101, DESIGN CHOICE). -/
def State.regionIn (s : State) (n cl : Nat) : Option (Nat × Nat) :=
  if decide (1 ≤ s.getF (fPS_STATE n) ∧ s.getF (fPS_STATE n) ≤ 3) && (s.placed.getD n []).contains cl && s.getF (fPS_PDLEN n) != 0
  then some (s.getF (fPS_PDBASE n), s.getF (fPS_PDLEN n)) else none

/-- Free units of a slice, counting only plane-set regions as occupied (R80). -/
def State.freeUnits (s : State) (cl : Nat) : Nat :=
  512 - (List.range 16).foldl (fun a n => a + (match s.regionIn n cl with | some r => r.2 | none => 0)) 0

/-- The bytes of a slice, by key, that no plane-set region holds: working sets lie there (R79). -/
def State.freeRanges (s : State) (cl : Nat) : List (Nat × Nat) :=
  (List.range 16).foldl (fun l n => match s.regionIn n cl with
    | some r => cutRange (padKey cl (65536 * r.1)) (padKey cl (65536 * (r.1 + r.2))) l
    | none => l) [(padKey cl 0, padKey cl (2 ^ 25))]

/-- F of R80 over the participating slices. -/
def State.freeMin (s : State) (cls : List Nat) : Nat := cls.foldl (fun m c => Nat.min m (s.freeUnits c)) 512

/-! The descriptor (R44, R45). -/

def mfmtOf (c : Nat) : MFmt := match c with | 1 => .bf16 | 2 => .f32 | _ => .m40
def RepackDesc.fmt (d : RepackDesc) : MFmt := mfmtOf d.mfmt
/-- Bytes of one master element and of one row of H elements; M40 keeps its extension apart. -/
def RepackDesc.elemSize (d : RepackDesc) : Nat := if d.mfmt = 1 then 2 else 4
def RepackDesc.rowSize (d : RepackDesc) : Nat := 64 * d.hd * d.elemSize
def RepackDesc.placedIn (d : RepackDesc) (p : Nat) : Bool := d.place / 2 ^ p % 2 == 1
def RepackDesc.mirror (d : RepackDesc) : Bool := d.placedIn 3
/-- Plane `p` is written to host memory. -/
def RepackDesc.hostPlane (d : RepackDesc) (p : Nat) : Bool := !d.placedIn p || d.mirror
def RepackDesc.base (d : RepackDesc) (p : Nat) : Nat := match p with | 0 => d.p0 | 1 => d.p1 | _ => d.p2
def RepackDesc.anyPlaced (d : RepackDesc) : Bool := d.placedIn 0 || d.placedIn 1 || d.placedIn 2
def RepackDesc.slabs (d : RepackDesc) : Nat := ceilDiv (d.vHi - d.vLo) 64

/-- A repack descriptor from its bytes. -/
def parseRepack (a : Array Byte) : RepackDesc :=
  { mfmt := byteAt a 0, lean := byteAt a 1 == 1, place := byteAt a 2, hd := leAt a 4 2, pdBase := leAt a 6 2, vLo := leAt a 8 4
    vHi := leAt a 12 4, headV := leAt a 16 4, id0 := leAt a 20 4, wBase := leAt a 24 8, wStride := leAt a 32 8, eBase := leAt a 40 8
    eStride := leAt a 48 8, p0 := leAt a 56 8, p1 := leAt a 64 8, p2 := leAt a 72 8, report := leAt a 80 8 }

/-- The conditions of `DESCRIPTOR` (R45). Bits 63:48 of an address are reserved bits (R44); a stride is no address. -/
def descriptorBad (a : Array Byte) (d : RepackDesc) : Bool :=
  let addrs := [d.wBase, d.eBase, d.p0, d.p1, d.p2, d.report]
  decide (d.mfmt = 0 ∨ 3 < d.mfmt ∨ 1 < byteAt a 1) || decide (d.hd = 0 ∨ 512 < d.hd) ||
  decide (31 < d.place) || byteAt a 3 != 0 || leAt a 88 40 != 0 ||
  addrs.any (fun x => decide (2 ^ 48 ≤ x)) ||
  [d.wBase, d.wStride, d.eBase, d.eStride].any (fun x => x % 64 != 0) ||
  (d.mfmt != 3 && !(d.eBase == 0 && d.eStride == 0)) ||
  decide (d.wStride < d.rowSize) || (d.mfmt == 3 && decide (d.eStride < 128 * d.hd)) ||
  decide (d.vLo < d.id0) || decide (d.report = 0 ∨ d.report % 64 ≠ 0) ||
  [0, 1, 2].any (fun p => if d.hostPlane p then decide (d.base p = 0 ∨ d.base p % 256 ≠ 0) else d.base p != 0)

/-- Units of the region in each slice of a placement over `n` clusters (R47). -/
def RepackDesc.units (d : RepackDesc) (n : Nat) : Nat :=
  if d.anyPlaced then regionUnits d.lean d.hd (ceilDiv d.slabs (Nat.max 1 n)) (d.placedIn 0) (d.placedIn 1) (d.placedIn 2) else 0

/-- The condition of `PLACEMENT` (R45). -/
def State.placementBad (s : State) (ps : Nat) (d : RepackDesc) : Bool :=
  let u := d.units s.inService.length
  decide (512 < d.pdBase + u) && d.anyPlaced ||
  s.inService.any fun cl => (List.range 16).any fun p =>
    p != ps && (match s.regionIn p cl with
      | some (b, l) => d.anyPlaced && decide (d.pdBase < b + l ∧ b < d.pdBase + u)
      | none => false)

/-- The status with which a REPACK is refused at its start (R45, R56). -/
def State.repackRefusal (s : State) (ps : Nat) (a : Array Byte) (d : RepackDesc) : Option Nat :=
  if windowBad d.vLo d.vHi d.headV then some 1
  else if descriptorBad a d then some 2
  else if s.placementBad ps d then some 3
  else if s.flag (fPS_FROZEN ps) then some 4
  else none

/-- How much of a region lies in another: bases and lengths. -/
def overlapUnits (a n b m : Nat) : Nat := Nat.min (a + n) (b + m) - Nat.max a b

/-- Units of a slice that the REPACKs at their wait keep free of a step's working set (R79): each one's region, but for what lies in its target's own region already. A REPACK that waits for the step itself (R51) does not hold it up (log entry 99, DESIGN CHOICE). -/
def State.reservedUnits (s : State) (sets : List Nat) (cl : Nat) : Nat :=
  s.repackQ.foldl (fun a j =>
    let r := s.peek j.rd 128
    let d := parseRepack r.1.toArray
    if r.2 || sets.contains j.psid || !s.serving cl || (s.repackRefusal j.psid r.1.toArray d).isSome then a
    else
      let u := d.units s.inService.length
      a + (u - match s.regionIn j.psid cl with | some x => overlapUnits x.1 x.2 d.pdBase u | none => 0)) 0

/-- Frees a plane set (R58): the registers return to reset but for `FROZEN` and `EPOCH`; a release advances G (R450). `PS_DEV` is cleared to its reset value, `DEV_TOK` 0xFF_FFFF (log entry 100, DESIGN CHOICE). -/
def State.psFree (s : State) (n : Nat) : State :=
  let fz := s.flag (fPS_FROZEN n)
  let s := (s.setReg (rPS n) 0).setFlag (fPS_FROZEN n) fz
  let s := [0x10, 0x18, 0x20, 0x28, 0x30].foldl (fun s o => s.setReg (rPS n + o) 0) s
  let s := s.setReg (rPS n + 0x38) (regDefault (rPS n + 0x38))
  { s with placed := s.placed.set n [] }.advanceG

/-- The checks of an adoption: the status of R56 that fails it (R58). -/
def State.adoptFail (s : State) (n : Nat) : Option Nat :=
  if windowBad (s.getF (fPS_VLO n)) (s.getF (fPS_VHI n)) (s.getF (fPS_HEADV n)) then some 1
  else if decide (s.getF (fPS_HDIM n) = 0 ∨ 512 < s.getF (fPS_HDIM n)) || s.getF (fPS_EPOCH n) == 0 ||
      [0, 1, 2].any (fun p => s.getF (fPS_HOST n p) == 0 || s.getF (fPS_HOST n p) % 256 != 0) then some 2
  else none

/-- Adopts host-written records into an EMPTY set, or posts `ADOPT_FAIL` (R58). -/
def State.psAdopt (s : State) (n : Nat) : State :=
  match s.adoptFail n with
  | some st => s.post (s.event 5 2 2 [(36, leBytes 1 st), (37, leBytes 1 n)])
  | none =>
    let s := s.setF (fPS_STATE n) 2
    ({ s with placed := s.placed.set n [] }).advanceG

/-- The effect of a write to `PS_STAT` (R57, R58); reserved state codes have been refused before. -/
def State.writePsStat (s : State) (n : Nat) (v : Word64) : State :=
  let st := s.getF (fPS_STATE n)
  let want := getBits v 0 3
  let others (s : State) : State :=
    ((s.setF (fPS_FROZEN n) (getBits v 8 1)).setF (fPS_PAIRED n) (getBits v 9 1)).setF (fPS_REF n) (getBits v 12 4)
  if want = 0 && decide (2 ≤ st) && s.users n == 0 && !s.repackPending n then
    ((s.setF (fPS_FROZEN n) (getBits v 8 1))).psFree n
  else if want = 2 && st == 0 then (others s).psAdopt n
  else others s

/-! A cluster leaves service. -/

/-- A row takes the POISON disposition before anything is decided of it. -/
def RowState.lost (r : RowState) : RowState := { r with poison := true, phase := .poisoned }

/-- A step whose plane set is lost screens no more, and its rows that have not completed selection take the POISON disposition (R90, R112). LOADH still binds the rows of a step that has not loaded. -/
def Flight.lose (f : Flight) : Flight :=
  if f.selected || f.scored then f
  else { f with
    cstat := 2, allocd := true, wsUnits := 0, restart := false, screened := true, m0done := true, swept := true
    rows := f.rows.map (·.lost) }

/-- A row whose screen is abandoned (R90): scores, leaf contents and sums are cleared; refinements already complete are kept (R112). -/
def RowState.unscreened (r : RowState) : RowState :=
  { r with toks := [], rtoks := [], scr := none, sum0 := 0, mom0 := 0, mr0 := 0, sr0 := 0, x0 := 0, phase := .todo, lane := none }

/-- The step's screen is abandoned, and starts again over the clusters that remain once its working set is there (R90). -/
def Flight.rescreen (f : Flight) : Flight :=
  { f with
    allocd := false, restart := f.restart || f.loaded, screened := false, m0done := false, rows := f.rows.map (·.unscreened) }

/-- The lane of row `i` over the clusters `cls` in service: that of the (i mod N)-th (R103). -/
def laneOf (cls : List Nat) (i : Nat) : Option Nat := cls[i % Nat.max 1 cls.length]?

/-- A step certifies: m0 is broadcast and a row is open, or in COLLECTED gait its fixed phase runs (R103, R105). -/
def Flight.certifies (f : Flight) : Bool :=
  f.m0done && f.prog.prec == 1 && !f.selected && !f.scored && (f.collected || f.rows.any fun r => r.phase == .todo)

/-- The rows of a lost lane go to the clusters `cls` that remain (R112). -/
def Flight.relane (f : Flight) (n : Nat) (cls : List Nat) : Flight :=
  { f with rows := f.rows.zipIdx.map fun q => if q.1.lane == some n then { q.1 with lane := laneOf cls q.2 } else q.1 }

/-- A step when cluster `n` leaves service and `cls` remain (R62, R90, R112): a lost set ends it; a screen that the cluster takes part in starts again; certification goes on over the lanes that remain, from the copies. Either break is marked whatever the gait. -/
def Flight.without (f : Flight) (n : Nat) (cls lost mirrored : List Nat) : Flight :=
  if f.normal.isSome then { f with clusters := f.clusters.filter fun c => c != n }
  else
    let cut (v : PlaneView) : PlaneView :=
      if mirrored.contains v.psid then { v with res0 := false, res1 := false, res2 := false } else v
    let g := { f with view := cut f.view, rview := f.rview.map cut }
    if f.sets.any (fun p => lost.contains p) then g.lose
    else
      let g := (g.relane n cls).breaks (if f.certifies then 2 else 0)
      if !f.clusters.contains n then g
      else if !f.swept then
        ({ g with clusters := f.clusters.filter fun c => c != n }.rescreen).breaks (if f.released then 2 else 0)
      else if f.prog.grad.isSome && !f.gradDone then { g with clusters := f.clusters.filter fun c => c != n }
      else g

/-- The clusters of a placement that hold records of it (R47): slab `s` lies in the (s mod N)-th, so with fewer slabs than clusters the last ones hold none. -/
def holders (placed : List Nat) (slabs : Nat) : List Nat := placed.take slabs

/-- The `READY` sets that hold Paddock records in a cluster, and of them those that its leaving loses (R62). -/
def State.setsIn (s : State) (n : Nat) : List Nat :=
  (List.range 16).filter fun p => (holders (s.placed.getD p []) (s.planeView p).slabs).contains n && s.getF (fPS_STATE p) == 2
def State.lostWith (s : State) (n : Nat) : List Nat := if s.serving n then (s.setsIn n).filter fun p => !s.flag (fPS_MIRROR p) else []

/-- The REPACK that builds loses a cluster that holds part of its placement (R55). -/
def State.buildLost (s : State) (n : Nat) : Bool := match s.repack with | some r => (holders r.placed r.desc.slabs).contains n | none => false

/-- The leaving of a cluster stops a plane set, or the REPACK that builds one: the `SEV` of `CL_OUT` (R477). -/
def State.leaveSev (s : State) (n : Nat) : Nat := if s.serving n && (!(s.lostWith n).isEmpty || s.buildLost n) then 2 else 0

/-- A cluster leaves service (R62, R90, R112): `cause` is that of `CL_OUT` (R477), none while a test decides whether it stays out (R482); `exc` says that an exception is raised with it. -/
def State.leaveWith (s : State) (n : Nat) (cause : Option Nat) (exc : Bool := false) : State :=
  if !s.serving n then s
  else
    let lost := s.lostWith n
    let sev := s.leaveSev n
    let mirrored := (s.setsIn n).filter fun p => s.flag (fPS_MIRROR p)
    let s := (s.setBit fCL_SVC n false).advanceG
    let s := mirrored.foldl (fun s p => ((s.setF (fPS_RES p 0) 0).setF (fPS_RES p 1) 0).setF (fPS_RES p 2) 0) s
    let s := lost.foldl (fun s p => s.setF (fPS_STATE p) 4) s
    let cls := s.inService
    let s : State := { s with
      flights := s.flights.map fun f => f.without n cls lost mirrored
      repack := s.repack.map fun r => if s.buildLost n then { r with lost := true } else r }
    let s := match cause with
      | some c => s.post { s.event 17 1 sev [(36, leBytes 1 c)] with cluster := n, exc := exc }
      | none => s
    lost.foldl (fun s p => s.post { s.event 17 2 2 [(37, leBytes 1 p)] with cluster := n }) s

def State.leaveService (s : State) (n cause : Nat) : State := s.leaveWith n (some cause)

/-- A cluster joins service: its bit, and the generation (R450, R451). One that a failed BIST or test keeps out stays out (R466, R482). -/
def State.joinService (s : State) (n : Nat) : State := if s.power.heldOut.contains n then s else (s.setBit fCL_SVC n true).advanceG

/-! Records as a reader of a plane set meets them. -/

/-- Reads `n` bytes of a record: a slice word that is uncorrectable, or a poisoned granule, poisons the read (R470, R471, R388), and with it the bytes 16 to 51 of a tile's header (R17) when they lie in one. -/
def State.readLoc (s : State) : Loc → Nat → RecRead
  | .pad cl b, n => ⟨(s.padAt cl b n).toArray, s.padBad cl b n, s.padBad cl (b + 16) 36⟩
  | .host a, n => let r := s.peek a n; ⟨r.1.toArray, r.2, (s.peek (a + 16) 36).2⟩

/-- Posts what the uses of records found (R22, R74, R477): counters, one cured window per set, one record per poisoned use. -/
def State.sealEvents (s : State) (stepId queue : Nat) (l : List SealEvent) (row : Nat := noRow) : State :=
  l.foldl (fun s e =>
    let det := [(36, leBytes 1 e.kind), (37, leBytes 1 e.psid), (38, leBytes 1 (if e.host then 1 else 0)),
      (40, leBytes 4 e.base), (44, leBytes 2 e.chunk)]
    let det := if e.code = 3 then det ++ [(39, leBytes 1 e.field), (48, leBytes 4 e.want), (52, leBytes 4 e.found)] else det
    let r := { s.event 2 e.code (if e.code = 1 then 0 else 1) det with
      stepId := stepId, queue := queue, cluster := e.cl, addr := e.addr, row := row }
    if e.code = 1 then
      let s := { s with far := { s.far with ceSeal := s.far.ceSeal + 1 } }
      (s.addSat fCE_SEAL 1).coalesce (.cured e.psid) r
    else
      let s := { s with far := { s.far with uePois := s.far.uePois + 1 } }
      (s.addSat fUE_POISON 1).post r) s

end Sys2Proof.Machine
end

