-- ==== Sys2Proof/Machine/Shape.lean ====
section
/-! DEFINITION. The shape of a step: who screens which slab (R66), its working set (R78, R80, R121, R245), its energy estimate (R462), and the counts that decide something (R86, R105, R344, R419, R421, R422). -/

namespace Sys2Proof.Machine

/-- The participating clusters (R66); `cls` are the clusters in service at decode. -/
def ownersOf (v : PlaneView) (cls : List Nat) : List Nat := if v.res0 then v.placed else cls

/-- The deal of a step (R64, R67). -/
def stepDeal (v : PlaneView) (owners : List Nat) (rows : Nat) : Deal :=
  { owners := owners, slabs := v.slabs, groups := 2 * v.hd, rg := ceilDiv rows 64 }

/-- A screen of the set reads host memory (R78): P0, and in FULL precision P1 and P2. -/
def readsHost (v : PlaneView) (prec : Nat) : Bool := !v.res0 || (prec == 2 && (!v.res1 || !v.res2))

/-- Bytes of the side part (R121). -/
def sideBytes (p : StepProg) (j : Nat) : Nat :=
  (if p.hbAddr = 0 then 0 else 256 * j) + (if p.noRow then 0 else 8 * j * p.rows)

/-- Units of one score store and of every other part, per slice (R78, R80, R121, R245). -/
structure WorkSet where
  store : Nat
  rest  : Nat
deriving DecidableEq, Repr, Inhabited

def workSet (p : StepProg) (v : PlaneView) (rv : Option PlaneView) (owners : List Nat) : WorkSet :=
  let d := stepDeal v owners p.rows
  let j := ceilDiv v.slabs (Nat.max 1 owners.length)
  let host := readsHost v p.prec || (match rv with | some r => readsHost r p.prec | none => false)
  let rowsHost := p.prec == 2 && (!v.res1 || !v.res2 || (match rv with | some r => !r.res1 || !r.res2 | none => false))
  let w := workParts p.rows v.hd j d.gangs host rowsHost (sideBytes p j)
  { store := w.store, rest := w.rowCopy + w.stream + w.side }

/-- Units a step needs in `SINGLE` mode. -/
def WorkSet.single (w : WorkSet) (paired : Bool) : Nat := w.rest + (if paired then 2 * w.store else w.store)

/-- The fit of R80 against F: none refuses, else whether the mode is `TWICE`. -/
def fitMode (w : WorkSet) (paired : Bool) (free : Nat) : Option Bool :=
  if w.single paired ≤ free then some false
  else if !paired && decide (w.rest ≤ free) then some true
  else none

/-! Energy (R462). -/

def passCycles (prec : Nat) (lean : Bool) : Nat :=
  match prec == 2, lean with | false, false => 16 | false, true => 8 | true, false => 64 | true, true => 56

/-- Picojoules of one screen of a set: array cycles, pipeline scores, streamed bytes. -/
def screenEnergy (p : StepProg) (v : PlaneView) (owners : List Nat) : Nat :=
  let d := stepDeal v owners p.rows
  d.passes * d.rg * passCycles p.prec v.lean * 384 + p.rows * (v.vHi - v.vLo) * (if p.admitsSoft then 192 else 96) +
  ceilDiv (streamedBytes v d (p.prec == 2)) 256 * 250

/-- Cycles per pass of the transposed pass (R258). -/
def transCycles (g : GradDesc) (lean : Bool) : Nat :=
  if g.dhSrc = 1 then (if lean then 8 else 16) else (if lean then 56 else 64)

/-- Bytes that GRAD writes. -/
def gradBytes (p : StepProg) (g : GradDesc) (v : PlaneView) : Nat :=
  p.rows * (66 * v.slabs) + (if g.dhSrc = 0 then 0 else p.rows * (256 * v.hd))

/-- `E_EST` of a step (R462). -/
def stepEnergy (p : StepProg) (v : PlaneView) (rv : Option PlaneView) (owners : List Nat) : Nat :=
  let main := screenEnergy p v owners
  let ref := match rv with | some r => screenEnergy p r owners | none => 0
  let d := stepDeal v owners p.rows
  let g := match p.grad with
    | none => 0
    | some g => main + (if 0 < (XR.of g.beta).sgn then ref else 0) +
        (if g.dhSrc = 0 then 0 else d.passes * d.rg * transCycles g v.lean * 384) + ceilDiv (gradBytes p g v) 256 * 250
  ceilDiv (8000000 + main + ref + g + p.rows * 3900000 + (if p.prec = 1 then p.rows * p.k * (64 * v.hd) * 64 else 0) +
    (if p.isScore then p.rows * 732000 else 0)) 1000000

/-- `E_EST` of a NORMAL whose program has `len` steps (R462). -/
def normalEnergy (d : NormalDesc) (len : Nat) : Nat :=
  ceilDiv (8000000 + d.count * ((if d.method = 0 then 40 else 24) + 8 * len)) 1000000

/-! Counts. -/

/-- T_sweep of R86. -/
def sweepCycles (p : StepProg) (v : PlaneView) (owners : List Nat) : Nat :=
  sweepTerm p.rows (ownedTokens v (stepDeal v owners p.rows))

/-- The slots of a static table as (REQ, LEN), up to the first of LEN 0 (R394). -/
def tableSlots (ws : List Word64) : List (Nat × Nat) :=
  ((ws.drop 2).map fun w => (getBits w 0 4, getBits w 4 12)).takeWhile fun p => p.2 != 0

/-- MCLK from the head of a slot list until `need` MCLK of REFINE's slots have passed, after `t`. -/
def slotWalk : List (Nat × Nat) → Nat → Nat → Nat
  | [], _, t => t
  | (req, len) :: r, need, t =>
    if req = 1 then (if need ≤ len then t + need else slotWalk r (need - len) (t + len)) else slotWalk r need (t + len)

/-- `w_slot` of R422; none when the table has no slot of REFINE. The longest wait starts where a slot starts. -/
def slotWait (slots : List (Nat × Nat)) (m : Nat) : Option Nat :=
  let total := slots.foldl (fun a p => a + p.2) 0
  let mine := slots.foldl (fun a p => a + if p.1 = 1 then p.2 else 0) 0
  if mine = 0 then none
  else
    let full := (m - 1) / mine
    some ((List.range slots.length).foldl (fun w i =>
      Nat.max w (slotWalk (slots.rotate i ++ slots) (m - full * mine) (full * total))) 0)

/-- q of R422: the granules of one round that a channel may carry. -/
def State.roundShare (s : State) (p : StepProg) (v : PlaneView) : Nat :=
  let g := s.granule
  let rb := ceilDiv (66 * v.hd) g
  let tb := ceilDiv (p2Size v.hd) g + (if p.hbAddr = 0 then 0 else 1)
  ceilDiv (5 * (p.rows * (rb + Nat.min 4 p.k * tb))) 64

/-- The fetch allowance L_C (R105, R422); none when it is not finite. -/
def State.fetchAllowance (s : State) (p : StepProg) (v : PlaneView) : Option Nat :=
  if v.res1 && v.res2 then some 64
  else
    let g := s.granule
    let q := s.roundShare p v
    let ws := s.arb.eff.map fun t => slotWait (tableSlots t) (ceilDiv q 8)
    if ws.any (·.isNone) then none
    else
      let w := ws.foldl (fun m x => Nat.max m (x.getD 0)) 0 + ceilDiv (q * g) 640
      let fc := s.getF fCCLK * 1000
      let fm := Nat.max 1 Config.mclkKHz
      some (ceilDiv (fc * w * 10000 + fc * 14 * fm) (fm * 10000))

/-- T_ref of R105, over `n` clusters in service. -/
def refineCycles (p : StepProg) (v : PlaneView) (n lc : Nat) : Nat :=
  ceilDiv p.k 4 * (lc + 4 * ceilDiv p.rows (Nat.max 1 n) * ceilDiv v.hd 4 + 24)

/-- W_row and the selection window of R344. -/
def rowWindow (p : StepProg) : Nat :=
  let c := ceilDiv (Nat.min 1024 (p.kcap + 64)) 16
  40 + (if p.admitsServe then (2 * c + 32) + (if p.toppOk then 2 * c + 32 else 0) + (if p.minpOk then c + 8 else 0) +
    ceilDiv p.kcap 16 + 8 else 0)
def selectWindow (p : StepProg) : Nat := ceilDiv p.rows 4 * rowWindow p

/-- T_pipe of a COLLECTED step (R421): the soft-cap rate whenever the step admits it. -/
def pipeCycles (p : StepProg) (v : PlaneView) (owners : List Nat) : Nat :=
  pipeTerm p.rows (ownedTokens v (stepDeal v owners p.rows)) p.admitsSoft

/-- T_mid of R421. -/
def midCycles (p : StepProg) (v : PlaneView) (owners : List Nat) (n lc : Nat) : Nat :=
  if p.prec = 1 then refineCycles p v n lc else (if p.paired then 2 else 1) * sweepCycles p v owners + 32

/-- T_screen of R86 with every plane in Paddock; of a paired step, phase 1 of R258. -/
def collectedScreen (p : StepProg) (v : PlaneView) (rv : Option PlaneView) (owners : List Nat) (emu : Bool) : Nat :=
  let arr (x : PlaneView) := arrTerm (stepDeal x owners p.rows) (p.prec == 2) x.lean emu
  screenTime (arr v + (match rv with | some r => arr r | none => 0))
    (pipeCycles p v owners + (match rv with | some r => pipeCycles p r owners | none => 0)) 0

/-- T_C and T_Q: the count of a COLLECTED step from its release (R421). -/
def collectedCount (p : StepProg) (v : PlaneView) (rv : Option PlaneView) (owners : List Nat) (emu : Bool) (n lc : Nat) : Nat :=
  let base := collectedScreen p v rv owners emu + 48 + midCycles p v owners n lc + selectWindow p + 40
  if !p.isScore then base
  else
    let nx := if p.prec = 1 then 1 + (if p.paired then p.k + 1 else 0) else 1 + (if p.paired then 1 else 0)
    let tx := if p.prec = 0 then 0 else lc + nx * ceilDiv p.rows (Nat.max 1 n) * ceilDiv v.hd 4 + 24
    let d := stepDeal v owners p.rows
    let t56 := match p.grad with
      | none => 0
      | some g =>
        let dl := ceilDiv (p.rows * 66 * v.slabs) 6000
        let arr (x : PlaneView) := arrTerm (stepDeal x owners p.rows) (p.prec == 2) x.lean emu
        let useRef := decide (0 < (XR.of g.beta).sgn)
        let a := arr v + (match rv with | some r => if useRef then arr r else 0 | none => 0)
        let pi := pipeCycles p v owners + (match rv with | some r => pipeCycles p r owners | none => 0)
        screenTime a (Nat.max pi dl) 0 + (if g.dhSrc = 0 then 0 else 40 + transCycles g v.lean * d.block + 120)
    base + tx + t56

/-! Descriptors that Lead reads at decode (R183, R229, R250). -/

/-- Slot sizes of the merge rounds (R184, R248). -/
def mergeSlot (p : StepProg) (ext : Bool) (rounds kmax round : Nat) : Nat :=
  let x := if p.paired then 32 else 0
  if rounds = 1 then (if ext then 192 else 64) + x
  else if round = 0 then 256 * ceilDiv (Nat.max 192 (32 + 16 * kmax) + x) 256
  else 256 * ceilDiv (32 + 8 * p.k + x) 256

/-- The group descriptor of a byte string; none when R183 refuses it whatever the plane set. -/
def groupOf (p : StepProg) (ext : Bool) (rounds kmax : Nat) (a : Array Byte) : Option GroupDesc :=
  let c := byteAt a 0
  let peers := (List.range c).map fun i => (leAt a (64 + 32 * i) 8, leAt a (72 + 32 * i) 8, leAt a (80 + 32 * i) 4, leAt a (84 + 32 * i) 4)
  let g : GroupDesc := { c := c, self := byteAt a 1, mgId := leAt a 4 4, rxBase := leAt a 8 8, rxBytes := leAt a 16 8, peers := peers }
  let zero := leAt a 2 2 == 0 && leAt a 24 40 == 0 && (List.range c).all fun i => leAt a (88 + 32 * i) 8 == 0
  let size := Nat.max (mergeSlot p ext rounds kmax 0) (if rounds = 2 then mergeSlot p ext rounds kmax 1 else 0)
  if decide (2 ≤ c ∧ c ≤ 64 ∧ g.self < c) && zero && g.rxBase % 256 == 0 && decide (g.rxBase < 2 ^ 48) && g.rxBytes % 512 == 0 &&
    peers.all (fun q => decide (q.1 < 2 ^ 48 ∧ q.2.1 < 2 ^ 48)) && decide (c * p.rows * size ≤ g.rxBytes / 2)
  then some g else none

/-- The windows of a group against R182 and the step's plane set. -/
def groupFits (g : GroupDesc) (vLo vHi headV : Nat) : Bool :=
  let lo (i : Nat) := (g.peers.getD i (0, 0, 0, 0)).2.2.1
  let hi (i : Nat) := (g.peers.getD i (0, 0, 0, 0)).2.2.2
  lo 0 == 0 && (List.range (g.c - 1)).all (fun i => hi i == lo (i + 1)) && (List.range g.c).all (fun i => decide (lo i < hi i)) &&
  hi (g.c - 1) == headV && lo g.self == vLo && hi g.self == vHi

/-- The gradient descriptor of a byte string; none when R251 refuses it whatever the plane set. -/
def gradOf (paired : Bool) (a : Array Byte) : Option GradDesc :=
  let f (o : Nat) : F32 := BitVec.ofNat 32 (leAt a o 4)
  let g : GradDesc := { coef := byteAt a 0 == 1, dfmt := byteAt a 1, dhSrc := byteAt a 2, epsLo := f 4, epsHi := f 8, beta := f 12
                        eta := f 16, dlAddr := leAt a 24 8, dlStride := leAt a 32 8, dhAddr := leAt a 40 8, dhStride := leAt a 48 8 }
  let unit01 (x : F32) := F32.le 0 x && F32.lt x 0x3F800000
  let ok := decide (byteAt a 0 < 2 ∧ g.dfmt < 2 ∧ g.dhSrc < 3) && byteAt a 3 == 0 && leAt a 20 4 == 0 && leAt a 56 8 == 0 &&
    decide (g.dlAddr < 2 ^ 48 ∧ g.dhAddr < 2 ^ 48) && g.dlAddr % 256 == 0 && g.dlStride % 256 == 0 &&
    (if g.dhSrc = 0 then g.dhAddr == 0 && g.dhStride == 0 else g.dhAddr % 256 == 0 && g.dhStride % 256 == 0) &&
    (if g.coef then g.epsLo == 0 && g.epsHi == 0 && g.beta == 0 && g.eta == 0
     else unit01 g.epsLo && unit01 g.epsHi && F32.le 0 g.beta && F32.isFinite g.beta && F32.le 0 g.eta && F32.isFinite g.eta &&
       (decide ((XR.of g.beta).sgn ≤ 0) || paired))
  if ok then some g else none

/-- The strides of R251 against the window and the hidden size. -/
def gradFits (g : GradDesc) (v : PlaneView) : Bool :=
  decide (66 * v.slabs ≤ g.dlStride) && (g.dhSrc == 0 || decide (256 * v.hd ≤ g.dhStride))

/-- The normal descriptor of a byte string; none when R228 or R229 refuses it, the program slot apart. -/
def normalOf (lc cpl : Nat) (a : Array Byte) : Option NormalDesc :=
  let d : NormalDesc := { ctx := byteAt a 0, method := byteAt a 1, ofmt := byteAt a 2, post := byteAt a 3, stream := leAt a 4 4
                          npos := leAt a 8 4, seed := BitVec.ofNat 64 (leAt a 16 8), out := leAt a 24 8, count := leAt a 32 4
                          block0 := leAt a 36 4, cpl := cpl }
  let ctxOk := (d.ctx == 1 && (lc == 1 || lc == 2 || lc == 4)) || ((d.ctx == 2 || d.ctx == 3) && decide (1 ≤ lc ∧ lc ≤ 4))
  let ok := ctxOk && decide (d.method < 2 ∧ d.ofmt < 2) && d.post / 64 % 2 == 0 && leAt a 12 4 == 0 && leAt a 40 24 == 0 &&
    d.out % 256 == 0 && decide (d.out < 2 ^ 48) && d.count % 4 == 0 && decide (4 ≤ d.count ∧ d.count ≤ 2 ^ 30) &&
    decide (d.block0 + d.count / 4 ≤ 2 ^ 32)
  if ok then some d else none

end Sys2Proof.Machine
end

