-- ==== Sys2Proof/Machine/Load.lean ====
section
/-! DEFINITION. A launched step before its screen: ALLOCATE_WORKING_SET (R79, R80), LOADH (R335, R272, R197, R235), HISTORY_SNAPSHOT (R124, R272 to R281, R286) and FILL_RELEASE (R420). -/

namespace Sys2Proof.Machine

/-! The working set. -/

/-- A flight that has nothing more to screen: a NORMAL, or a step that has come to its completion. -/
def Flight.past (f : Flight) : Bool := f.normal.isSome || f.complete

/-- A unit serves a step in its turn (R314, R320): no step launched before it holds a token there, of those that `waits` names. The model's units never lack an output credit except for the emit buffer and the rings, which the steps take in launch order too, so that no later step overtakes in any gait (log entry 131, DESIGN CHOICE). -/
def State.unitTurn (s : State) (ln : Nat) (waits : Flight → Bool) : Bool :=
  s.flights.all fun g => decide (ln ≤ g.ln) || g.past || g.emitted || !waits g

/-- Units of a slice that working sets hold (R79, R83). -/
def State.heldUnits (s : State) (cl : Nat) : Nat :=
  s.flights.foldl (fun a g => if g.allocd && !g.swept && !g.past && g.clusters.contains cl then a + g.wsUnits else a) 0

/-- The refusal of a step at its allocation (R80, R419): nothing but its completion status and the halt of its queue. -/
def State.refuseStep (s : State) (f : Flight) : State :=
  let s := s.setFlight { f with
    cstat := 3, allocd := true, wsUnits := 0, loaded := true, snapped := true, released := true, screened := true, m0done := true
    swept := true, selected := true, verified := true, klDone := true, emitted := true, scored := true, gradDone := true, transDone := true, rows := [], gEmit := s.gc }
  if s.halted f.queue || !s.qEn f.queue then s
  else
    let s := s.halt f.queue 2 0 ((2 ^ 32 + f.head - s.getF (fQ_HEAD f.queue)) % 2 ^ 32) f.prog.stepId
    s.setQx f.queue { s.qx f.queue with haltLen := 0 }

/-- ALLOCATE_WORKING_SET (R79, R80): a step is next to screen once every earlier step has its own (log entry 146, DESIGN CHOICE); the mode is chosen by the F then measured; a step that fits nowhere, or in COLLECTED gait only in `TWICE`, is refused, but waits when its screen starts again (R90); one that does not fit beside the sets held, or would take the region of a waiting REPACK, waits. -/
def execAllocateWorkingSet (ln : Nat) (s : State) : Host.Outcome State Fault Refusal :=
  match s.flight ln with
  | none => .next s
  | some f =>
    if f.past || f.allocd || f.emitted || !(s.flights.all fun g => decide (ln ≤ g.ln) || g.past || g.allocd) then .next s
    else
      let w := workSet f.prog f.view f.rview f.clusters
      match fitMode w f.prog.paired (s.freeMin f.clusters) with
      | none => .next (if f.restart then s else s.refuseStep f)
      | some twice =>
        if twice && f.collected then .next (if f.restart then s else s.refuseStep f)
        else
          let u := if twice then w.rest else w.single f.prog.paired
          if f.clusters.any fun c => decide (s.freeUnits c < s.heldUnits c + s.reservedUnits f.sets c + u) then .next s
          else .next (((f.clusters.flatMap s.freeRanges).foldl (fun s r => s.dirtyPad r.1 r.2) s).setFlight
            { f with twice := twice, wsUnits := u, allocd := true, restart := false })

/-! Binding (R272) and the verify table (R196, R197). -/

/-- A row lies in a verify run. -/
def inRun (runs : List VRun) (r : Nat) : Bool := runs.any fun v => decide (v.row0 ≤ r ∧ r ≤ v.row0 + v.dlen)

/-- The slot to which row `r` of a step binds; none leaves it unbound (R272, R334). -/
def State.bindRow (s : State) (p : StepProg) (runs : List VRun) (r : Nat) : Option Nat :=
  let w := p.slots.getD r 0
  if decide (8192 ≤ w) || decide (s.eState w ≤ 1) then none
  else if (List.range r).any fun k => p.slots.getD k 0 == w && !inRun runs k then none
  else some w

/-- A verify-table entry as it lies in memory, before the checks that need the other entries. A poisoned entry names no rows (R472). -/
def parseRun (i : Nat) (a : Array Byte) (pois : Bool) : VRun × Bool :=
  let d := byteAt a 2
  let draft := (List.range 8).map fun j => leAt a (8 + 4 * j) 4
  let resv := decide (1 < byteAt a 3) || draft.any (fun t => decide (2 ^ 24 ≤ t)) || (draft.drop d).any (fun t => t != 0) ||
    leAt a 45 19 != 0
  let v : VRun := { index := i, row0 := leAt a 0 2, dlen := d, spec := byteAt a 3 == 1, key := leAt a 4 4, draft := draft.take d
                    failed := false, deff := 0, limited := false, noret := false
                    na := 0, rej := false, nemit := 0, stopped := false, rets := [] }
  if pois then ({ v with row0 := 2 ^ 16, dlen := 0 }, true) else (v, resv)

/-- The rows of a run that the step has. -/
def VRun.rowsIn (v : VRun) (n : Nat) : List Nat := (List.range n).filter fun r => decide (v.row0 ≤ r ∧ r ≤ v.row0 + v.dlen)

/-- The checks of R197 on one entry among all of them. -/
def State.runFails (s : State) (p : StepProg) (dmax : Nat) (all : List VRun) (v : VRun) : Bool :=
  let slot (r : Nat) := p.slots.getD r 0
  let mine := slot v.row0
  decide (dmax < v.dlen) || decide (p.rows ≤ v.row0 + v.dlen) ||
  all.any (fun u => u.index != v.index && decide (u.row0 ≤ v.row0 + v.dlen ∧ v.row0 ≤ u.row0 + u.dlen)) ||
  (v.rowsIn p.rows).any (fun r => slot r != mine) ||
  (decide (mine < 8192) && s.getF (fE_KEY mine) != v.key) ||
  (List.range p.rows).any (fun r => slot r == mine && decide (r < v.row0 ∨ v.row0 + v.dlen < r)) ||
  (v.spec && ((decide (mine < 8192) && !s.flag (fE_CLASS mine)) || p.xmerge.isSome))

/-- Reads and checks the verify table of a step (R197). -/
def State.readRuns (s : State) (p : StepProg) (who : Who) : State × List VRun :=
  match p.verify with
  | none => (s, [])
  | some (_, dmax, nent, vt) =>
    let (s, bytes, _) := s.readHost 2 1 vt (64 * nent) who
    let raw := (List.range nent).map fun i => parseRun i ((bytes.drop (64 * i)).take 64).toArray (s.peek (vt + 64 * i) 64).2
    let all := raw.map (·.1)
    (s, raw.map fun q => { q.1 with failed := q.2 || s.runFails p dmax all q.1, deff := q.1.dlen })

/-! Score-table entries (R234 to R236, R251). -/

/-- A score-table entry from its bytes, and whether its form fails; the alignments are those that R117 and R234 state (log entry 9). -/
def parseEntry (a : Array Byte) : ScoreEntry × Bool :=
  let f (o : Nat) : F32 := BitVec.ofNat 32 (leAt a o 4)
  let e : ScoreEntry := { token := leAt a 0 4, pos := leAt a 4 4, seed := BitVec.ofNat 64 (leAt a 8 8), key := leAt a 16 4
                          serve := byteAt a 20 == 1, pb := leAt a 24 8, seq := leAt a 32 8, plen := leAt a 40 4
                          lpOld := f 44, adv := f 48, wrow := f 52 }
  (e, decide (2 ^ 24 ≤ e.token) || decide (1 < byteAt a 20) || leAt a 21 3 != 0 || leAt a 56 8 != 0 ||
    decide (2 ^ 48 ≤ e.pb) || decide (2 ^ 48 ≤ e.seq) || e.pb % 256 != 0 || e.seq % 256 != 0)

/-- The GRAD fields of an entry (R251). -/
def gradEntryOk (g : GradDesc) (e : ScoreEntry) : Bool :=
  if g.coef then F32.isFinite e.adv
  else F32.isFinite e.lpOld && F32.isFinite e.adv && F32.isFinite e.wrow && decide (0 ≤ (XR.of e.wrow).sgn)

/-- The vocabulary that a scored token must lie in (R235). -/
def tokenRange (p : StepProg) (v : PlaneView) (t : Nat) : Bool :=
  match p.group with
  | some g => decide (t < (g.peers.getD (g.c - 1) (0, 0, 0, 0)).2.2.2)
  | none => decide (v.vLo ≤ t ∧ t < v.vHi)

/-- Where the counted words of a sequence start (R236). -/
def seqStart (e : ScoreEntry) (b : ParamBlock) : Nat := if b.histPrompt then 0 else e.plen

/-- The history counts of a SCOREQ row (R236); none when a word is poisoned. -/
def State.replay (s : State) (e : ScoreEntry) (b : ParamBlock) (who : Who) (row : Nat) : State × Option (List (Nat × Nat)) :=
  let st := seqStart e b
  let n := e.pos - st
  let (s, bytes, bad) := s.readHost 2 1 (e.seq + 4 * st) (4 * n) who row
  if bad then (s, none)
  else
    let a := bytes.toArray
    (s, some ((List.range n).foldl (fun l i =>
      let w := leAt a (4 * i) 4
      if w < 0xFFFFFFFE then addCount 65535 w 1 l else l) []))

/-! LOADH. -/

def hfmtOf (c : Nat) : HFmt := match c with | 0 => .e4m3 | 1 => .e5m2 | _ => .mxint8

/-- Reads hidden row `r`; a poisoned granule makes it non-finite (R26, R335, R472). -/
def State.readHidden (s : State) (req : Nat) (f : Flight) (r : Nat) : State × HRow :=
  let hd := f.view.hd
  let (s, b, bad) := s.readHost req 1 (f.prog.hidAddr + r * f.prog.stride * 256) (66 * hd) f.who r
  let h := hiddenRow (hfmtOf f.prog.hfmt) hd b.toArray
  (s, { h with nonFinite := h.nonFinite || bad })

/-- Head-bias words of a window from an address, and the ids whose word came poisoned (R121, R472). -/
def State.readBias (s : State) (hb : Nat) (v : PlaneView) (who : Who) : State × List F32 × List Nat :=
  if hb = 0 then (s, [], [])
  else
    let n := v.vHi - v.vLo
    let (s, b, bad) := s.readHost 0 1 (hb + 4 * v.vLo) (4 * n) who
    let a := b.toArray
    (s, (List.range n).map (fun i => BitVec.ofNat 32 (leAt a (4 * i) 4)),
      if bad then (List.range n).filterMap fun i => if (s.peek (hb + 4 * (v.vLo + i)) 4).2 then some (v.vLo + i) else none else [])

/-- The row-mask bytes of a window (R127); true when one is poisoned. -/
def State.readRowMask (s : State) (b : ParamBlock) (v : PlaneView) (who : Who) (row : Nat) : State × List Byte × Bool :=
  if !b.rowMaskEn then (s, [], false)
  else s.readHost 0 1 (b.rowMask + v.vLo / 8) ((v.vHi + 7) / 8 - v.vLo / 8) who row

/-- Each distinct parameter-block address once, with what it holds (R261). -/
def State.readBlocks (s : State) (addrs : List Nat) (who : Who) : State × List (Nat × Option ParamBlock) :=
  addrs.foldl (fun (x : State × List (Nat × Option ParamBlock)) a =>
    let r := x.1.readParam a who
    (r.1, x.2 ++ [(a, r.2)])) (s, [])

def blockAt (l : List (Nat × Option ParamBlock)) (a : Nat) : Option ParamBlock :=
  match l.find? (fun p => p.1 == a) with | some p => p.2 | none => none

/-- Bytes that a step's parameter blocks take in the store. -/
def State.blockBytesOf (s : State) (addrs : List Nat) : Nat :=
  addrs.foldl (fun n a => n + pbLength (leNat (s.memAt (a + 30) 2))) 0

/-- A parameter block as read for a row of a class: the block where its form is good, and the cause of its failure (R119, R339). A guard changes no value that a row computes. -/
def State.checkBlock (s : State) (p : StepProg) (serve : Bool) (b : Option ParamBlock) : Option ParamBlock × Option Nat :=
  match b with
  | none => (none, some 0)
  | some x => if paramOk x serve s.maskLoaded then (some x, guardFail p x serve) else (none, some 0)

/-- Loads row `r` of a generation step: a row bound to an entry with a damaged word is `POISON` (R471). -/
def State.loadRow (s : State) (f : Flight) (runs : List VRun) (blocks : List (Nat × Option ParamBlock)) (r : Nat) : State × RowState :=
  let (s, h) := s.readHidden 0 f r
  let w := f.prog.slots.getD r 0
  let row0 : RowState := { (default : RowState) with h := h }
  match s.bindRow f.prog runs r with
  | none => (s.rowEvent f 1 r 1 0 (w % 8192), { row0 with poison := true, blind := true })
  | some n =>
    let serve := s.flag (fE_CLASS n)
    let s := s.setF (fE_INFL n) (s.getF (fE_INFL n) + 1)
    let failed := runs.any fun v => v.failed && decide (v.row0 ≤ r ∧ r ≤ v.row0 + v.dlen)
    let row : RowState := { row0 with slot := some n, bound := true, serve := serve, seed := s.word n 3, key := s.getF (fE_KEY n), poison := s.damaged n }
    let raw := blockAt blocks (s.getF (fE_PB n))
    let cls := classFail f.prog serve raw
    let s := if cls then s.rowEvent f 1 r 1 0 (w % 8192) else s
    let (blk, cause) := s.checkBlock f.prog serve raw
    let s := match cause with | some c => s.rowEvent f 5 r 1 c (w % 8192) | none => s
    match blk with
    | none => (s, { row with poison := true, blind := true })
    | some b =>
      let (s, m, bad) := s.readRowMask b f.view f.who r
      (s, { row with pb := b, rowMask := m, poison := row.poison || cls || bad || failed || cause.isSome, blind := bad })

/-- Loads row `r` of a SCOREQ step from its entry (R235, R338). A row that fails with its block and its sequence at hand still has its pipeline scores (R113, R433). -/
def State.loadScoreRow (s : State) (f : Flight) (entries : List (ScoreEntry × Bool)) (blocks : List (Nat × Option ParamBlock)) (r : Nat) : State × RowState :=
  let (s, h) := s.readHidden 0 f r
  let (e, bad) := entries.getD r (default, true)
  let row : RowState := { (default : RowState) with
    h := h, serve := e.serve, seed := e.seed, key := e.key, pos := e.pos, entry := some e, snapped := true }
  let fail (s : State) (row : RowState) : State × RowState := (s.rowEvent f 2 r 1 0 r, { row with poison := true, blind := true })
  if bad then fail s row
  else
    let raw := blockAt blocks e.pb
    match s.checkBlock f.prog e.serve raw with
    | (none, _) => fail s row
    | (some b, cause) =>
      let row := { row with pb := b }
      let gOk := match f.prog.grad with | some g => gradEntryOk g e | none => true
      let soft := cause.isSome || classFail f.prog e.serve raw || !tokenRange f.prog f.view e.token || !gOk
      if e.plen == 0 || decide (e.pos < e.plen) || decide (1048576 < e.pos - seqStart e b) then fail s row
      else
        match s.replay e b f.who r with
        | (s, none) => fail s row
        | (s, some c) =>
          let s := if soft then s.rowEvent f 2 r 1 0 r else s
          let (s, m, badm) := s.readRowMask b f.view f.who r
          (s, { row with counts := c, rowMask := m, poison := badm || soft, blind := badm })

/-- Parameter-store bytes held by the steps in flight (R118, R261). -/
def State.storeHeld (s : State) : Nat :=
  s.flights.foldl (fun a g => if g.loaded && !s.emitOver g && !g.past then a + g.psBytes else a) 0

/-- The parameter store has no room for a step's blocks, or an earlier step waits for it (R261, R320). -/
def State.storeFull (s : State) (f : Flight) (bytes : Nat) : Bool :=
  decide (8388608 < s.storeHeld + bytes) ||
  s.flights.any fun g => decide (g.ln < f.ln) && g.psWait && !g.loaded && !g.past && !g.emitted

/-- The step waits at LOADH for the parameter store (R261): counted once. -/
def State.waitStore (s : State) (f : Flight) : State :=
  if f.psWait then s else (s.addSat fPS_WAITS 1).setFlight ({ f with psWait := true }.timing 5)

/-- The largest `EPRIO` of a step's bound rows (R276). -/
def State.rowsPrio (s : State) (rows : List RowState) : Nat :=
  rows.foldl (fun m r => match r.slot with | some n => Nat.max m (s.getF (fE_EPRIO n)) | none => m) 0

/-- What LOADH reads for every row, once its rows are loaded: head biases, and the spill tables of the requests bound (R279). The rows of a step whose set is lost are POISON (R90). -/
def State.finishLoad (s : State) (f : Flight) (runs : List VRun) (bytes : Nat) (rows : List RowState) : State :=
  let s := runs.foldl (fun s v =>
    if v.failed then
      let l := v.rowsIn f.prog.rows
      s.rowEvent f 3 (l.headD 0xFFFF) l.length 0 v.index
    else s) s
  let (s, tabs) := s.loadTables ((rows.filterMap fun r => if r.bound then r.slot else none).eraseDups) f.who
  let (s, hb, hp) := s.readBias f.prog.hbAddr f.view f.who
  let (s, rb, rp) := match f.prog.klref, f.rview with
    | some (_, a), some v => s.readBias a v f.who
    | _, _ => (s, [], [])
  s.setFlight { f with
    loaded := true, rows := if f.cstat = 2 then rows.map (·.lost) else rows, runs := runs, spillTabs := tabs, psBytes := bytes, headBias := hb, headPois := hp, refBias := rb, refPois := rp
    prio := if f.prog.isScore then f.prio else s.rowsPrio rows }

/-- LOADH takes steps, and grants them room in the parameter store, in launch order (R314, R320). -/
def State.loadTurn (s : State) (ln : Nat) : Bool := s.unitTurn ln fun g => !g.loaded && !g.psWait

/-- LOADH (R335): hidden rows, parameter blocks or the score table, head bias, row masks and the verify table; every row is bound and checked. -/
def execLoadh (ln : Nat) (s : State) : Host.Outcome State Fault Refusal :=
  match s.flight ln with
  | none => .next s
  | some f =>
    if f.past || !f.allocd || f.loaded || f.emitted || !s.loadTurn ln then .next s
    else
      match f.prog.scoreq with
      | some (tbl, _) =>
        let raw := s.memAt tbl (64 * f.prog.rows)
        let entries := (List.range f.prog.rows).map fun r =>
          let q := parseEntry ((raw.drop (64 * r)).take 64).toArray
          (q.1, q.2 || (s.peek (tbl + 64 * r) 64).2)
        let addrs := ((entries.filter fun q => !q.2).map fun q => q.1.pb).eraseDups
        let bytes := s.blockBytesOf addrs
        if s.storeFull f bytes then .next (s.waitStore f)
        else
          let (s, _, _) := s.readHost 2 1 tbl (64 * f.prog.rows) f.who
          let (s, blocks) := s.readBlocks addrs f.who
          let (s, rows) := (List.range f.prog.rows).foldl (fun (x : State × List RowState) r =>
            let y := x.1.loadScoreRow f entries blocks r
            (y.1, x.2 ++ [y.2])) (s, [])
          .next (s.finishLoad f [] bytes rows)
      | none =>
        let peeked := (s.readRuns f.prog f.who).2
        let addrs := ((List.range f.prog.rows).filterMap fun r => (s.bindRow f.prog peeked r).map fun n => s.getF (fE_PB n)).eraseDups
        let bytes := s.blockBytesOf addrs
        if s.storeFull f bytes then .next (s.waitStore f)
        else
          let (s, runs) := s.readRuns f.prog f.who
          let (s, blocks) := s.readBlocks addrs f.who
          let (s, rows) := (List.range f.prog.rows).foldl (fun (x : State × List RowState) r =>
            let y := x.1.loadRow f runs blocks r
            (y.1, x.2 ++ [y.2])) (s, [])
          .next (s.finishLoad f runs bytes rows)

/-! HISTORY_SNAPSHOT. -/

/-- A flight has rows that may emit for a request. -/
def Flight.usesSlot (f : Flight) (n : Nat) : Bool :=
  if f.past || f.prog.isScore then false
  else if f.loaded then f.rows.any fun r => r.bound && r.slot == some n
  else f.prog.slots.contains n

/-- Every earlier step that emits for one of the step's requests has completed EMIT (R124). -/
def State.snapReady (s : State) (f : Flight) : Bool :=
  s.flights.all fun g => decide (f.ln ≤ g.ln) || s.emitOver g ||
    !(f.rows.any fun r => match r.slot with | some n => g.usesSlot n | none => false)

/-- Free ring slots of a request, by the kept `CONS` (R286). -/
def State.ringFree (s : State) (n : Nat) : Nat :=
  2 ^ s.getF (fE_RORDER n) - (s.getF (fE_PROD n) + (s.req n).reserved - (s.req n).cons)

/-- Reads `CONS` again; poison keeps the last value (R472). -/
def State.rereadCons (s : State) (n : Nat) (who : Who) : State :=
  let (s, b, bad) := s.readHost 2 0 (s.getF (fE_CB n) + 8) 8 who
  if bad then s else s.setReq n { s.req n with cons := leNat b }

/-- Takes `k` ring slots of a request for a row or run; false leaves it vacant (R286), which counts 1 for a run too (log entry 143, DESIGN CHOICE). In a merge group a full ring never does. -/
def State.takeSlots (s : State) (n k : Nat) (merge : Bool) : State × Bool :=
  if decide (k ≤ s.ringFree n) || merge then (s.setReq n { s.req n with reserved := (s.req n).reserved + k }, true)
  else (s.addSat fRING_VACANT 1, false)

/-- An end state called for at a snapshot or by a row; a request that has ended keeps its own. -/
def State.callEnd (s : State) (n st reason : Nat) : State :=
  if decide (5 ≤ s.eState n) || s.eState n == 0 then s else s.wantEnd n st reason

/-- A request's deadline has passed at a snapshot; in a merge group none does (R273). -/
def State.lateAt (s : State) (n : Nat) (merge : Bool) : Bool := !merge && decide (s.getF (fE_DEADLINE n) < s.gc)

/-- Whether a bound row, or the first row of a run, is vacant (R272, R273, R281); `k` are the ring slots it needs. -/
def State.vacancy (s : State) (n k : Nat) (merge : Bool) : State × Bool :=
  let late := s.lateAt n merge
  let s := if late then s.callEnd n 6 6 else s
  let full := !s.pagesOk n
  let s := if full then s.callEnd n 7 8 else s
  if s.eState n != 2 || late || full then (s, true)
  else
    let (s, ok) := s.takeSlots n k merge
    (s, !ok)

/-- The unit of a row: its run, when it lies in one, or itself: first row, offset, run. -/
def unitOf (runs : List VRun) (r : Nat) : Option VRun := runs.find? fun v => decide (v.row0 ≤ r ∧ r ≤ v.row0 + v.dlen)

/-- The retentions of a request, oldest first. -/
def State.retsOf (s : State) (n : Nat) : List Retention := s.rets.filter fun x => x.slot == n

/-- Row `r`, bound to slot `n`, is the one at which its unit's vacancy is decided: itself, or the first row of its run. -/
def Flight.leads (f : Flight) (r n : Nat) : Bool :=
  match unitOf f.runs r with
  | some v => r == v.row0 || (f.rows.getD v.row0 default).slot != some n
  | none => true

/-- The ring slots that the unit of row `r` needs (R286); one that retains needs none. -/
def Flight.ringNeed (f : Flight) (r : Nat) : Nat :=
  if f.prog.retain then 0 else match unitOf f.runs r with | some v => v.dlen + 1 | none => 1

/-- The requests whose kept `CONS` leaves too little space for a step at its snapshot, in the order in which Halter reads it again (R276, R286). -/
def State.shortRings (s : State) (f : Flight) : List Nat :=
  let asks := f.rows.zipIdx.filterMap fun q => q.1.slot.bind fun n => if f.leads q.2 n then some (n, f.ringNeed q.2) else none
  let need (n : Nat) : Nat := sumNat ((asks.filter fun a => a.1 == n).map (·.2))
  if f.prog.xmerge.isSome then []
  else s.byEprio ((asks.map (·.1)).filter fun n =>
    s.eState n == 2 && !s.lateAt n false && s.pagesOk n && decide (s.ringFree n < need n))

/-- Takes the snapshot of row `r` (R124, R198, R202, R272, R279). -/
def State.snapRow (s : State) (f : Flight) (done : List RowState) (r : Nat) (row : RowState) : State × RowState :=
  match row.slot with
  | none => (s, { row with snapped := true })
  | some n =>
    let merge := f.prog.xmerge.isSome
    let run := unitOf f.runs r
    let j := match run with | some v => r - v.row0 | none => 0
    let held := if f.prog.retain then s.retsOf n else []
    let first := f.leads r n
    let (s, vac) := if first then s.vacancy n (f.ringNeed r) merge
      else (s, match run with | some v => (done.getD v.row0 default).vacant | none => false)
    let (t, c, bad) := s.countList f.spillTabs n f.who
    let s := if first then t else s
    let s := if bad then s.callEnd n 7 7 else s
    let s := if s.flag (fE_SPILLED n) && f.collected then
      (match s.flight f.ln with | some g => s.setFlight (g.timing 6) | none => s) else s
    let extra := (match run with | some v => v.draft.take j | none => []) ++ held.map (·.tok)
    let c := extra.foldl (fun l t => addCount 65535 t 1 l) c
    (s, { row with
      snapped := true, vacant := vac, pos := (s.getF (fE_PLEN n) + s.getF (fE_GLEN n) + j + held.length) % 2 ^ 32, counts := c
      poison := row.poison || bad || decide (8 ≤ held.length), blind := row.blind || bad })

/-- The limits of a run at its snapshot (R199, R205, R212). -/
def State.snapRun (s : State) (f : Flight) (rows : List RowState) (v : VRun) : VRun :=
  match (rows.getD v.row0 default).slot with
  | none => v
  | some n =>
    let adapt := (match f.prog.verify with | some (a, _, _, _) => a | none => false) && !f.collected && !f.strict
    let lim := if adapt then Nat.min v.dlen (s.getF (fE_DLIM n)) else v.dlen
    let l := (rows.getD v.row0 default).pos
    let held := s.retsOf n
    let has (j : Nat) : Bool := held.any fun x => x.pos == (l + j) % 2 ^ 32 && x.tok == v.draft.getD j 0
    let cut := if v.spec then ((List.range lim).find? fun j => !has j).getD lim else lim
    { v with deff := cut, limited := decide (lim < v.dlen), noret := decide (cut < lim), rets := if v.spec then held else [] }

/-- HISTORY_SNAPSHOT (R124): positions, counts, vacancy, drafts and retentions of every bound row, when the earlier EMITs of its requests are complete. -/
def execHistorySnapshot (ln : Nat) (s : State) : Host.Outcome State Fault Refusal :=
  match s.flight ln with
  | none => .next s
  | some f =>
    if f.past || !f.loaded || f.snapped || f.emitted || !s.snapReady f then .next s
    else
      let s := (s.shortRings f).foldl (fun s n => s.rereadCons n f.who) s
      let (s, rows) := f.rows.zipIdx.foldl (fun (x : State × List RowState) q =>
        let y := x.1.snapRow f x.2 q.2 q.1
        (y.1, x.2 ++ [y.2])) (s, [])
      let runs := f.runs.map (s.snapRun f rows)
      match s.flight ln with
      | none => .next s
      | some g => .next (s.setFlight { g with rows := rows, runs := runs, snapped := true })

/-! FILL_RELEASE (R420). -/

/-- Candidate-store halves taken (R163). -/
def State.halvesTaken (s : State) : Nat := s.flights.countP fun g => g.released && !g.selected && !g.scored && !g.emitted && !g.past

/-- CCLK runs below the point that a COLLECTED step counts on (R456, R457, R465). -/
def State.slowClock (s : State) : Bool :=
  s.flag fHALVED || (match s.power.ptHeld with | some p => decide (s.getF fPT_CUR < p) | none => false)

/-- FILL_RELEASE (R420): the first moment at which the hold is met, LOADH and the snapshot are complete, the working set and a candidate-store half are there, and the fill may begin. -/
def execFillRelease (ln : Nat) (s : State) : Host.Outcome State Fault Refusal :=
  match s.flight ln with
  | none => .next s
  | some f =>
    let held := match f.hold with | some h => !h.met | none => false
    if f.past || !f.collected || f.released || !f.snapped || !f.allocd || held || !s.arraysFree ln then .next s
    else if 2 ≤ s.halvesTaken then .next (s.setFlight (f.timing 3))
    else .next (s.setFlight ({ f with released := true, gcLaunch := s.gc }.timing (if s.slowClock then 8 else 0)))

end Sys2Proof.Machine
end

