-- ==== Sys2Proof/Machine/Records.lean ====
section
/-! DEFINITION. The plane records of a set one by one, outside any step (R46, R47): where they lie, their sizes, their checks (R22), for recovery (R451), repair (R474), the scrubber (R475) and context images (R438). -/

namespace Sys2Proof.Machine

/-- A record of a plane set: its plane, its slab, and its chunk (plane 0) or token. -/
structure RecId where
  plane : Nat
  slab  : Nat
  sub   : Nat
deriving DecidableEq, Repr, Inhabited

def RecId.loc (x : RecId) (v : PlaneView) : Loc :=
  match x.plane with
  | 0 => v.tileLoc x.slab x.sub
  | 1 => v.p1Loc x.sub
  | _ => v.p2Loc x.sub

def planeRecSize (v : PlaneView) (plane : Nat) : Nat :=
  match plane with
  | 0 => tileSize v.lean
  | 1 => p1Size v.hd
  | _ => p2Size v.hd

def RecId.size (x : RecId) (v : PlaneView) : Nat := planeRecSize v x.plane

def RecId.expect (x : RecId) (v : PlaneView) : RecExpect :=
  match x.plane with
  | 0 => tileExpect v x.slab x.sub
  | _ => rowExpect v (x.plane + 2) x.sub none

/-- Records of one plane of a set, in the order of R46. -/
def planeRecords (v : PlaneView) (plane : Nat) : Nat :=
  match plane with
  | 0 => v.slabs * v.hd
  | _ => v.vHi - v.vLo

/-- Record `i` of a plane. -/
def nthRecord (v : PlaneView) (plane i : Nat) : RecId :=
  match plane with
  | 0 => ⟨0, i / Nat.max 1 v.hd, i % Nat.max 1 v.hd⟩
  | p => ⟨p, i / 64, v.vLo + i⟩

def recordsOf (v : PlaneView) (plane : Nat) : List RecId := (List.range (planeRecords v plane)).map (nthRecord v plane)

/-- The set as its host copies lie, and as its Paddock copies lie. -/
def PlaneView.atHost (v : PlaneView) : PlaneView := { v with res0 := false, res1 := false, res2 := false }

def PlaneView.resident (v : PlaneView) (plane : Nat) : Bool := match plane with | 0 => v.res0 | 1 => v.res1 | _ => v.res2
def PlaneView.hostBase (v : PlaneView) (plane : Nat) : Nat := match plane with | 0 => v.host0 | 1 => v.host1 | _ => v.host2

/-- The stored TMS of a row record's token: that of its slab's first tile, where the set has it; none when that tile fails its own checks (log entry 122, DESIGN CHOICE). -/
def State.recordTms (s : State) (x : RecId) (v : PlaneView) : Option Int :=
  let y : RecId := ⟨0, x.slab, 0⟩
  let r := s.readLoc (y.loc v) (y.size v)
  if (useRecord (y.expect v) (y.loc v) false r).1 then some (tileTms r.bytes (x.sub - v.slabBase x.slab)) else none

/-- What a use of a record outside a step expects of its header (R22). -/
def State.expectOf (s : State) (v : PlaneView) (x : RecId) : RecExpect :=
  if x.plane = 0 then x.expect v else { x.expect v with tms := s.recordTms x (s.planeView v.psid) }

/-- One use of a record outside a step, with the events of R22. -/
def State.useOf (s : State) (v : PlaneView) (x : RecId) (cured : Bool) : Bool × List SealEvent :=
  useRecord (s.expectOf v x) (x.loc v) cured (s.readLoc (x.loc v) (x.size v))

/-- What a read of a record finds: fine by R22, with its bytes. -/
def State.checkRecord (s : State) (v : PlaneView) (x : RecId) : Bool × List Byte :=
  ((s.useOf v x false).1, (s.readLoc (x.loc v) (x.size v)).bytes.toList)

/-- The record that a slice word belongs to. -/
def wordRecord (v : PlaneView) (cl word : Nat) : Option RecId :=
  [0, 1, 2].findSome? fun p =>
    if v.resident p then (recordsOf v p).find? fun x =>
      match x.loc v with
      | .pad c b => c == cl && decide (b ≤ 8 * word ∧ 8 * word < b + x.size v)
      | .host _ => false
    else none

/-- Stores bytes in a slice: they are known, and a word written whole is good again. -/
def State.writeSlice (s : State) (cl byte : Nat) (bs : List Byte) : State :=
  let s := s.putPad cl byte bs
  { s with padDirty := cutRange (padKey cl byte) (padKey cl byte + bs.length) s.padDirty, bad := s.bad.filter fun p => match p with
      | .planeRegion c w => !(c == cl && decide (byte ≤ 8 * w ∧ 8 * w + 8 ≤ byte + bs.length))
      | _ => true }

end Sys2Proof.Machine
end

