-- ==== Sys2Proof/Machine/Screening.lean ====
section
/-! DEFINITION. The screen of a step (SCREEN, M0_BROADCAST, SUM_SWEEP; chapters 03 and 05) and the rounds of its certification (chapter 04). -/

namespace Sys2Proof.Machine

/-! The score path of a row. -/

/-- A mask set as the lanes see it. -/
structure MaskView where
  base : Nat
  len  : Nat
  bits : Array Byte

def State.maskViews (s : State) : Array (Option MaskView) :=
  (s.masks.map fun m => m.map fun x => (⟨x.base, x.len, x.bits.toArray⟩ : MaskView)).toArray

def bitAt (a : Array Byte) (k : Nat) : Bool := byteAt a (k / 8) / 2 ^ (k % 8) % 2 == 1

/-- The bit of a mask set for a token (R127). -/
def maskBit (m : Option MaskView) (id : Nat) : Bool :=
  match m with
  | some x => decide (x.base ≤ id ∧ id < x.base + x.len) && bitAt x.bits (id - x.base)
  | none => false

/-- Some enabled source masks the token (R127); `rm` are the row-mask bytes of the window. -/
def rowMasked (ms : Array (Option MaskView)) (b : ParamBlock) (rm : Array Byte) (vLo id : Nat) : Bool :=
  (List.range 4).any (fun j => b.maskOn j && maskBit (ms.getD (b.maskSel.getD j 0 % 64) none) id != b.maskNeg j) ||
  (b.rowMaskEn && bitAt rm (id - vLo / 8 * 8) != b.maskNeg 4)

/-- What a row brings to the score path for one token. -/
def pathOf (compat : Bool) (fuse : Option (F32 × F32)) (b : ParamBlock) (counts : List (Nat × Nat)) (masked : Bool) (id : Nat) : PathIn :=
  { fuse := fuse, softcap := b.softcap, bias := (b.lb.find? fun e => e.1 == id).map (·.2), rho := b.rho, alpha := b.alpha
    phi := b.phi, count := countIn counts id, masked := masked, invT := b.invT, compat := compat }

/-- A head of a step: its plane set, σ with head-bias address, the head-bias words of the window and the ids whose word is poisoned. -/
structure Head where
  view : PlaneView
  fuse : Option (F32 × Nat)
  bias : Array F32
  pois : List Nat

def Flight.mainHead (f : Flight) : Head := ⟨f.view, f.prog.fuse, f.headBias.toArray, f.headPois⟩
def Flight.refHead (f : Flight) : Option Head := f.rview.map fun v => ⟨v, f.prog.klref, f.refBias.toArray, f.refPois⟩

/-- σ and β of a token, as LOADH read them (R120, R472). -/
def Head.fuseAt (h : Head) (id : Nat) : Option (F32 × F32) :=
  h.fuse.map fun x => (x.1, if x.2 = 0 then 0 else if h.pois.contains id then fNan else h.bias.getD (id - h.view.vLo) 0)

/-- A row takes the `POISON` disposition whatever its scores (R131). -/
def RowState.spoiled (r : RowState) : Bool := r.poison || r.h.nonFinite

/-- The row draws Gumbel values (R166, R217). -/
def RowState.drawsGumbel (r : RowState) : Bool := !r.serve && !r.pb.greedy

/-- A score that a damaged word has made NaN with the poison mark (R471). -/
def Tok.spoil (t : Tok) : Tok := { t with z0 := fNan, lo := fNan, hi := fNan, pois := true, s := fNan }

/-- One token of a row as the leaf receives it (R72, R113, R116, R127, R160). `hurt` names the tokens whose score path reads a damaged word; a mask removes that mark with the value (R127). -/
def rowTok (f : Flight) (hd : Head) (ms : Array (Option MaskView)) (r : RowState) (rm : Array Byte) (hurt : Nat → Bool) (sl : SlabTiles) (t : Nat) : Tok :=
  let id := sl.base + t
  let p := screenPair hd.view f.emu r.h sl t
  let masked := rowMasked ms r.pb rm hd.view.vLo id
  let g := scorePath (pathOf f.compat (hd.fuseAt id) r.pb r.counts masked id)
    (if f.prog.prec == 2 then ⟨p.s0, p.s0, p.s0⟩ else startGroup p.s0 p.e)
  let k : Tok :=
    { id := id, z0 := g.v, lo := g.lo, hi := g.hi, c0 := p.c0, pois := (p.pois || hd.pois.contains id) && !masked
      a := if r.drawsGumbel then draw24 r.seed r.key r.pos id .gumbel else 0
      tms := tileTms (sl.tiles.headD #[]) t, s := p.s0 }
  if !masked && hurt id then k.spoil else k

/-- Every token of the window for a row; a row without its inputs has none. -/
def rowToks (f : Flight) (hd : Head) (ms : Array (Option MaskView)) (sls : List SlabTiles) (hurt : Nat → Bool) (r : RowState) : List Tok :=
  if r.blind then []
  else
    let rm := r.rowMask.toArray
    sls.flatMap fun sl => (List.range sl.ntok).map (rowTok f hd ms r rm hurt sl)

/-! Damaged words of the SRAMs that a screen reads (R471). -/

/-- A cluster owns the slab of a token (R66). -/
def Flight.owns (f : Flight) (cl id : Nat) : Bool :=
  f.clusters.getD ((id - f.view.vLo) / 64 % Nat.max 1 f.clusters.length) 16 == cl

/-- The clusters with a damaged word in a fixed table that they have not restored. -/
def State.fixedBad (s : State) : List Nat := s.bad.filterMap fun p => match p with | .clusterFixed c _ => some c | _ => none

/-- The score path of a token of row `row`, or of its reference, reads a damaged word in one of the clusters `cls`: a free choice, by draw `c` (log entry 124). -/
def Flight.hurts (f : Flight) (c : Nat) (cls : List Nat) (ref : Bool) (row id : Nat) : Bool :=
  cls.any (fun cl => f.owns cl id) && Config.freeBool c (2 ^ 24 * (2 * (2 ^ 10 * f.ln + row) + ref.toNat) + id)

/-- Scores of a screen in which lanes of the clusters `cls` have met a damaged word; a masked score stays as it is (R127). -/
def Flight.hurtBy (f : Flight) (ms : Array (Option MaskView)) (c : Nat) (cls : List Nat) : Flight :=
  { f with rows := f.rows.zipIdx.map fun q =>
    let rm := q.1.rowMask.toArray
    let hurt (ref : Bool) (t : Tok) : Tok :=
      if f.hurts c cls ref q.2 t.id && !rowMasked ms q.1.pb rm f.view.vLo t.id then t.spoil else t
    { q.1 with toks := q.1.toks.map (hurt false), rtoks := q.1.rtoks.map (hurt true) } }

/-- The clusters of a step with a damaged fixed-table word, and the draw that says which scores of its next screen meet one. -/
def State.hurtScreen (s : State) (f : Flight) : State × (Bool → Nat → Nat → Bool) :=
  let cls := s.fixedBad.filter f.clusters.contains
  (if cls.isEmpty then s else s.bump, f.hurts s.freeCtr cls)

/-- The uses of a step's screen whose first read a damaged stream-buffer word spoils: the second goes to host memory, the record's source. A record placed in Paddock passes through no stream buffer. -/
def State.streamHits (s : State) (f : Flight) : List RecRef :=
  s.bad.filterMap fun p => match p with
    | .streamBuffer _ _ ln r =>
      let v := if r.plane < 4 then some f.view else f.rview
      if ln = f.ln && (match v with | some v => !v.resident (r.plane % 4) | none => false) then some r else none
    | _ => none

/-! SCREEN. -/

/-- The reads of one use of a host-placed record, and their poisoned granules: a read whose seal fails is made once more (R22), and each read's granules count. -/
def State.recordPoison (s : State) (req n : Nat) (who : Who) (l : Loc) (cured : Bool) (row : Nat := noRow) : State :=
  match l with
  | .host a =>
    let gs := s.granules a n
    let again := (s.readLoc l n).again cured
    let s := s.issueRead a n
    (if again then s.issueRead a n else s).poisonEvents req 1 (if again then gs ++ gs else gs) who row
  | .pad _ _ => s

/-- Reads of the host-placed records of a screen, each use with its second read and its poisoned granules (R22, R74, R75). -/
def State.screenPoison (s : State) (who : Who) (v : PlaneView) (d : Deal) (full : Bool) (cured : List RecRef) : State :=
  (List.range d.slabs).foldl (fun s sl =>
    let s := (List.range v.hd).foldl (fun s c =>
      (List.range (d.tileReads sl c)).foldl (fun s k =>
        s.recordPoison 0 (tileSize v.lean) who (v.tileLoc sl c) (decide (k < countRef cured ⟨0, v.slabBase sl, c⟩))) s) s
    if full then
      (List.range (v.ntok sl)).foldl (fun s t =>
        let id := v.slabBase sl + t
        (List.range (d.walkers sl)).foldl (fun s k =>
          (s.recordPoison 0 (p1Size v.hd) who (v.p1Loc id) (decide (k < countRef cured ⟨1, id, 0⟩))).recordPoison 0
            (p2Size v.hd) who (v.p2Loc id) (decide (k < countRef cured ⟨2, id, 0⟩))) s) s
    else s) s

/-- The words of a step's stream buffers that are written anew by its next screen. -/
def State.mendStream (s : State) (ln : Nat) : State := s.mend fun p => match p with | .streamBuffer _ _ l _ => l == ln | _ => false

/-- The tile words of a step that has a digest are written anew by its screen (R433, R470), unless an earlier step still has its own in the log. -/
def State.mendLog (s : State) (f : Flight) : State :=
  if f.prog.digest.isSome && s.flights.all fun g => decide (f.ln ≤ g.ln) || g.prog.digest.isNone || g.digested then
    s.mend fun p => match p with | .digestLog k => decide (k < ceilDiv f.prog.rows 64 * f.view.slabs) | _ => false
  else s

/-- Screens one plane set: its tiles with their checks, the events posted, and whether a seal mismatch stalled a gang (R74). -/
def State.screenSet (s : State) (f : Flight) (v : PlaneView) (cured : List RecRef) : State × List SlabTiles × Bool :=
  let d := stepDeal v f.clusters f.prog.rows
  let full := f.prog.prec == 2
  let sls := (List.range d.slabs).map (readSlab s.readLoc v d full cured)
  let evs := sls.flatMap (·.events)
  ((s.sealEvents f.prog.stepId f.queue evs).screenPoison f.who v d full cured, sls, evs.any fun e => e.code == 1 || e.code == 2)

/-- The uses of the main set's records, and of the reference set's, among the cured ones. -/
def curedMain (l : List RecRef) : List RecRef := l.filter fun r => decide (r.plane < 4)
def curedRef (l : List RecRef) : List RecRef := (l.filter fun r => decide (4 ≤ r.plane)).map fun r => { r with plane := r.plane - 4 }

/-- A step may begin its fill (R88, R163, R420). -/
def State.fillReady (s : State) (f : Flight) : Bool :=
  !f.past && f.allocd && f.loaded && f.snapped && !f.screened && !f.emitted && s.arraysFree f.ln &&
  (if f.collected then f.released else f.released || decide (s.halvesTaken < 2))

/-- SCREEN (R64 to R88, R245): every token of the window for every row, the reference set of a paired step first. -/
def execScreen (ln : Nat) (cured : List RecRef) (s : State) : Host.Outcome State Fault Refusal :=
  match s.flight ln with
  | none => .next s
  | some f =>
    if !s.fillReady f then .next s
    else
      let ms := s.maskViews
      let cured := cured ++ s.streamHits f
      let (s, rsls, st1) := match f.rview with
        | some v => s.screenSet f v (curedRef cured)
        | none => (s, [], false)
      let (s, sls, st2) := s.screenSet f f.view (curedMain cured)
      let (s, hurt) := s.hurtScreen f
      let rows := f.rows.zipIdx.map fun q => { q.1 with
        toks := rowToks f f.mainHead ms sls (hurt false q.2) q.1
        rtoks := match f.refHead with | some h => rowToks f h ms rsls (hurt true q.2) q.1 | none => [] }
      .next (((s.mendStream ln).mendLog f).setFlight ({ f with rows := rows, screened := true, released := true }.timing (if st1 || st2 then 1 else 0)))

/-! The decision's inputs. -/

/-- What class, parameters and draws fix for a row's selection. -/
def rowCtx (f : Flight) (r : RowState) : SelCtx :=
  { serve := r.serve, greedy := r.pb.greedy, compat := f.compat, nanMask := r.pb.nanAsMask, kEff := r.pb.kEff
    topP := if r.pb.toppEn then some r.pb.topP else none
    lnRho := if r.pb.minpEn then some (cfLn f.compat (rne32 ⟨r.pb.minP, 2 ^ 32⟩)) else none
    cdf := draw24 r.seed r.key r.pos 0 .invcdf }

/-- How row `i` is decided (R199, R203, R206): within the effective length of a SPEC_EXACT run it tests its draft token. -/
def rowMode (f : Flight) (i : Nat) (r : RowState) : RowMode :=
  if f.prog.retain then .retain
  else if f.prog.xmerge.isSome then (if r.serve then .group else .ordinary)
  else
    match unitOf f.runs i with
    | some v =>
      let j := i - v.row0
      if v.spec && !v.failed && decide (j < v.deff) then
        match v.rets.find? fun x => x.pos == r.pos && x.tok == v.draft.getD j 0 with
        | some x => .spec { x := x.tok, entries := x.entries, sigma := x.sigma
                            aAcc := draw24 r.seed r.key r.pos j .specAccept, aRes := draw24 r.seed r.key r.pos j .specResid }
        | none => .ordinary
      else .ordinary
    | none => .ordinary

def RowState.work (c : SelCtx) (r : RowState) : List Tok := r.toks.map (workTok c r.ref)

/-- The disposition as it stands (R131). -/
def rowDisp (c : SelCtx) (r : RowState) : Disp := dispOf c r.poison r.h.nonFinite (r.work c)

/-- The row has used its budget of refinements (R92, R97, R101), in either gait: `UNCERT` and the token do not depend on it (R102, R243, R425). The ceil(K/4) rounds of R105 are read as the length of a COLLECTED step's phase, also where a SERVE row's stages name fewer than 4 tokens a round (log entry 133, DEDUCED). -/
def Flight.spent (f : Flight) (r : RowState) : Bool := decide (f.prog.k ≤ r.nref)

/-- Where a row's certification stands after a test (R97, R101, R105, R111). The flag says that the root cannot decide the row. -/
def nextPhase (f : Flight) (i : Nat) (r : RowState) (scr : RowScreen) : CertPhase × Bool :=
  let c := rowCtx f r
  match rowTest c (rowMode f i r) scr r.ref with
  | .refine _ => if f.spent r then (.uncert, false) else (.todo, false)
  | .done => (.certified, false)
  | .uncert => (.uncert, false)
  | .poison => (.poisoned, false)
  | .noPool => (.poisoned, true)

/-- The root gives up a row: `POISON`, with `TEASEL_CHECK` (R111, R164). -/
def State.teaselFail (s : State) (f : Flight) (i : Nat) (r : RowState) : State × RowState :=
  (s.rowEvent f 4 i 1 0 (match r.slot with | some n => n | none => i), { r with poison := true, phase := .poisoned })

/-- The root's forms of one row at the broadcast of m0 (R81, R111, R162, R164). The disposition is that of the screen: refinements that a screen repeated after a loss finds (R112) bear on the row as they did in its rounds. -/
def State.m0Row (s : State) (f : Flight) (i : Nat) (r : RowState) : State × RowState :=
  let c := rowCtx f r
  let scr := rootForm c r.toks
  let r := { r with scr := some scr }
  if r.spoiled then (s, { r with phase := .poisoned })
  else if !teaselOk c scr then s.teaselFail f i r
  else match rowDisp c { r with ref := [] } with
    | .poison => (s, { r with phase := .poisoned })
    | .empty => (s, { r with phase := .certified })
    | .tie => (s, { r with phase := if f.prog.prec = 1 then .uncert else .certified })
    | .normal =>
      if f.prog.prec != 1 then (s, { r with phase := .certified })
      else
        let p := nextPhase f i r scr
        if p.2 then s.teaselFail f i r else (s, { r with phase := p.1 })

/-- Runs an operation over the rows of a flight in order. -/
def State.overRows (s : State) (rows : List RowState) (g : State → Nat → RowState → State × RowState) : State × List RowState :=
  rows.zipIdx.foldl (fun (x : State × List RowState) q =>
    let y := g x.1 q.2 q.1
    (y.1, x.2 ++ [y.2])) (s, [])

/-- M0_BROADCAST (R81): row maxima, pools and floors reach the root; certification starts, and each row gets its refine lane (R103). A broadcast that waited for a Gumbel evaluator breaks a COLLECTED count (R168). -/
def execM0Broadcast (ln : Nat) (lag : Bool) (s : State) : Host.Outcome State Fault Refusal :=
  match s.flight ln with
  | none => .next s
  | some f =>
    if f.past || !f.screened || f.m0done || f.emitted || !s.unitTurn ln (fun g => g.screened && !g.m0done) then .next s
    else
      let cls := s.inService
      let (s, rows) := s.overRows f.rows fun s i r => s.m0Row f i { r with lane := laneOf cls i }
      .next (s.setFlight ({ f with rows := rows, m0done := true }.timing (if lag && f.rows.any (·.drawsGumbel) then 4 else 0)))

/-! SUM_SWEEP. -/

/-- The term of the cross partial (R246). -/
def crossTerm (compat : Bool) (x y m : F32) : Int :=
  let e := cfExpfx compat x m
  if e = 0 then 0
  else if F32.isFinite x && F32.isFinite y then
    let d := (((F32.val x).sub (F32.val y)).mul ⟨2 ^ 48, 1⟩).floor
    (((e : Int) * d).fdiv (2 ^ 48 : Nat))
  else 0

/-- The sums of one row over the scores `toks` of its main set (R82, R177, R246). -/
def sweepRow (f : Flight) (toks : List Tok) (r : RowState) : RowState :=
  match r.scr with
  | none => r
  | some scr =>
    let p := sumSweepOf f.compat toks scr.m0
    if f.rview.isNone then { r with sum0 := p.1, mom0 := p.2 }
    else
      let mr := maxF (r.rtoks.map (·.z0))
      { r with
        sum0 := p.1, mom0 := p.2, mr0 := mr, sr0 := (sumSweepOf f.compat r.rtoks mr).1
        x0 := sumInt (List.zipWith (fun a b => crossTerm f.compat a.z0 b.z0 scr.m0) toks r.rtoks) }

/-- The second screen of a step in `TWICE` mode (R84): the same deal reads every record again, each read a use of its own (R22), and recomputes every score for the sums; it sends nothing to the leaves. A record that this screen poisons poisons its scores for every row (R74), beside those that the first screen has poisoned. Second, the rows with the sums' scores of each. -/
def State.secondScreen (s : State) (f : Flight) (cured : List RecRef) : State × Flight × List (RowState × List Tok) :=
  let ms := s.maskViews
  let (s, sls, st) := s.screenSet f f.view (curedMain (cured ++ s.streamHits f))
  let (s, hurt) := s.hurtScreen f
  let rows := f.rows.zipIdx.map fun q =>
    let toks := rowToks f f.mainHead ms sls (hurt false q.2) q.1
    ({ q.1 with toks := List.zipWith (fun (t u : Tok) => if u.pois then u else t) q.1.toks toks }, toks)
  (s.mendStream f.ln, f.timing (if st then 1 else 0), rows)

/-- SUM_SWEEP (R82, R83, R84): Σ0 of every row reaches the root, from the score store or from a second screen, and the working set is released. -/
def execSumSweep (ln : Nat) (cured : List RecRef) (s : State) : Host.Outcome State Fault Refusal :=
  match s.flight ln with
  | none => .next s
  | some f =>
    if f.past || !f.m0done || f.swept || f.emitted || !s.unitTurn ln (fun g => g.m0done && !g.swept) then .next s
    else
      let (s, f, rows) := if f.twice && f.screened then s.secondScreen f cured else (s, f, f.rows.map fun r => (r, r.toks))
      .next (s.setFlight { f with rows := rows.map fun q => sweepRow f q.2 q.1, swept := true })

/-! REFINE_ROUND. -/

/-- Reads one row record for the refine lane with its checks (R22, R93). A lane may serve one read to several of its rows (R103); the model's lane reads the record for each row, and each read counts (log entry 97, DESIGN CHOICE). -/
def State.refineRead (s : State) (f : Flight) (row : Nat) (v : PlaneView) (kind id : Nat) (loc : Loc) (n : Nat) (tms : Int) (cured : List RecRef) : State × Array Byte × Bool :=
  let rd := s.readLoc loc n
  let hit := decide (0 < countRef cured ⟨kind - 2, id, 0⟩)
  let u := useRecord (rowExpect v kind id (some tms)) loc hit rd
  ((s.sealEvents f.prog.stepId f.queue u.2 row).recordPoison 1 n f.who loc hit row, rd.bytes, u.1)

/-- β of a refined token, read again from the head-bias address (R121); none when it comes poisoned. -/
def State.refineBias (s : State) (f : Flight) (row : Nat) (fuse : Option (F32 × Nat)) (id : Nat) : State × Option (Option (F32 × F32)) :=
  match fuse with
  | none => (s, some none)
  | some (sg, hb) =>
    if hb = 0 then (s, some (some (sg, 0)))
    else
      let (s, b, bad) := s.readHost 1 1 (hb + 4 * id) 4 f.who row
      (s, if bad then none else some (some (sg, BitVec.ofNat 32 (leNat b))))

/-- The channels of the granules that a read of `n` bytes at `a` takes, a granule each. -/
def State.channelsOf (s : State) (a n : Nat) : List Nat :=
  (s.granules a n).filterMap fun g => match s.portOf g.1 with | .mc k => some k | .hport => none

/-- The channels of one use of a record, a granule each, its second read included (R22). -/
def State.recordChannels (s : State) (l : Loc) (n : Nat) (cured : Bool) : List Nat :=
  match l with
  | .pad _ _ => []
  | .host a => s.channelsOf a n ++ (if (s.readLoc l n).again cured then s.channelsOf a n else [])

/-- The channels of what one round of a row reads: its hidden row, the records and head-bias words of the tokens refined (R93, R94, R422). -/
def State.roundChannels (s : State) (f : Flight) (i : Nat) (v : PlaneView) (hb : Nat) (cured : List RecRef) (ids : List Nat) : List Nat :=
  s.channelsOf (f.prog.hidAddr + i * f.prog.stride * 256) (66 * f.view.hd) ++
  ids.flatMap fun id =>
    s.recordChannels (v.p1Loc id) (p1Size v.hd) (decide (0 < countRef cured ⟨1, id, 0⟩)) ++
    s.recordChannels (v.p2Loc id) (p2Size v.hd) (decide (0 < countRef cured ⟨2, id, 0⟩)) ++
    (if hb = 0 then [] else s.channelsOf (hb + 4 * id) 4)

/-- Counts the reads of a row's round with those that the same round of the step's other rows has made (R422). -/
def Flight.countRound (f : Flight) (round : Nat) (chans : List Nat) : Flight :=
  { f with tally := (List.range 16).filterMap (fun k =>
      let n := chans.count k + (match f.tally.find? fun x => x.1 == round && x.2.1 == k with | some x => x.2.2 | none => 0)
      if n = 0 then none else some (round, k, n)) ++ f.tally.filter fun x => x.1 != round }

/-- One channel has carried more than its share of a round (R422). With both planes in Paddock no share is set. -/
def State.roundOver (s : State) (f : Flight) (round : Nat) : Bool :=
  !(f.view.res1 && f.view.res2) && f.tally.any fun x => x.1 == round && decide (s.roundShare f.prog f.view < x.2.2)

/-- The lane of a row meets a damaged fixed-table word: a free choice while its cluster has one (R471; log entry 124). -/
def State.hurtRefine (s : State) (r : RowState) (id : Nat) : State × Bool :=
  match r.lane with
  | some cl => if s.fixedBad.contains cl then (s.bump, Config.freeBool s.freeCtr id) else (s, false)
  | none => (s, false)

/-- Refines one token of row `i` on a plane set (R93): `h` is the row as read again (R94). -/
def State.refineTok (s : State) (f : Flight) (i : Nat) (v : PlaneView) (fuse : Option (F32 × Nat)) (r : RowState) (h : HRow) (cured : List RecRef) (t : Tok) : State × Refined :=
  let (s, b1, ok1) := s.refineRead f i v 3 t.id (v.p1Loc t.id) (p1Size v.hd) t.tms cured
  let (s, b2, ok2) := s.refineRead f i v 4 t.id (v.p2Loc t.id) (p2Size v.hd) t.tms cured
  let (s, beta) := s.refineBias f i fuse t.id
  let (s, hurt) := s.hurtRefine r t.id
  match beta with
  | none => (s, ⟨t.id, fNan, true, fNan⟩)
  | some fb =>
    if !(ok1 && ok2) || h.nonFinite || hurt then (s, ⟨t.id, fNan, true, fNan⟩)
    else
      let a := anchor h (recTms b1)
      let x := scoreOfSum (t.c0 + p1Sum v.hd h b1 a + p2Sum v.hd h b1 b2 a) a
      (s, ⟨t.id, scoreOne (pathOf f.compat fb r.pb r.counts false t.id) x, false, x⟩)

/-- Refines a list of tokens of row `i` in order; a poisoned record ends the round (R111). -/
def State.refineList (s : State) (f : Flight) (i : Nat) (r : RowState) (cured : List RecRef) (ids : List Nat) : State × List Refined :=
  let (s, h) := s.readHidden 1 f i
  ids.foldl (fun (x : State × List Refined) id =>
    if x.2.any (·.pois) then x
    else match r.toks.find? fun t => t.id == id with
      | none => x
      | some t =>
        let y := x.1.refineTok f i f.view f.prog.fuse r h cured t
        (y.1, x.2 ++ [y.2])) (s, [])

/-- One round of a row that is still open (R97, R101, R103). A lane of the model never issues the reads of a likely next round (R104), so none is abandoned (log entry 98, DESIGN CHOICE). -/
def State.refineRow (s : State) (f : Flight) (i : Nat) (r : RowState) (scr : RowScreen) (cured : List RecRef) : State × RowState :=
  match rowTest (rowCtx f r) (rowMode f i r) scr r.ref with
  | .refine ids =>
    let round := ids.take (Nat.min 4 (f.prog.k - r.nref))
    let (s, l) := s.refineList f i r cured round
    let r := { r with ref := r.ref ++ l, nref := r.nref + l.length, rounds := r.rounds + 1 }
    if l.any (·.pois) then (s, { r with phase := .poisoned })
    else
      let p := nextPhase f i r scr
      if p.2 then s.teaselFail f i r else (s, { r with phase := p.1 })
  | _ => (s, r)

end Sys2Proof.Machine
end

