-- ==== Sys2Proof/Machine/Choose.lean ====
section
/-! DEFINITION. SELECT (R96 to R110, R131 to R133, R165, R170, R174 to R181) and VERIFY (R199, R206 to R208). -/

namespace Sys2Proof.Machine

/-! Statistics of a row. -/

/-- F with the screen scores of its tokens: pairs (z0, z) (R108). -/
def refPairs (r : RowState) : List (F32 × F32) :=
  r.ref.filterMap fun x => (r.toks.find? fun t => t.id == x.id).map fun t => (t.z0, x.z)

def rowStats (f : Flight) (r : RowState) (scr : RowScreen) : CertStats :=
  certStats f.compat scr.m0 r.sum0 r.mom0 (refPairs r)

/-- The certificate byte (R110). -/
def certByte (f : Flight) (serve : Bool) (nref : Nat) : Nat :=
  f.prog.prec % 4 + (if serve then 4 else 0) + 8 * Nat.min 31 nref

def blankOut (f : Flight) (r : RowState) : RowOut :=
  { (default : RowOut) with
    cert := certByte f r.serve r.ref.length, trunc := r.serve, kl := fNan, lpRef := fNan, lp := fNan, lp2 := fNan, ent := fNan }

/-- The outputs of a `POISON` row and of an `EMPTY` row (R133). -/
def poisonOut (f : Flight) (r : RowState) : RowOut := { blankOut f r with disp := .poison }
def emptyOut (f : Flight) (r : RowState) : RowOut := { blankOut f r with disp := .empty, lp := fNinf, lp2 := fNinf }

/-- The 12 pairs of an extended record (R180, R289). -/
def topPairs (l : List (Nat × F32)) : List (Nat × F32) :=
  let l := l.take 12
  l ++ List.replicate (12 - l.length) (0xFFFFFFFF, fNinf)

/-- The working pool of a row: tokens that take part, with their working scores. -/
def workPool (c : SelCtx) (r : RowState) (scr : RowScreen) : List Tok := (scr.pool.map (workTok c r.ref)).filter takesPart

/-- The tokens among which working values decide a row (R106): its pool's, or, where no token of the pool takes part with its working score, each of them being at −inf, those of the window that do. R106 keeps the window out of the decision of a SERVE row and names a ROLLOUT key only among working keys, while R2 gives every `NORMAL` row a token (log entry 105, DESIGN CHOICE). -/
def offered (c : SelCtx) (r : RowState) (scr : RowScreen) : List Tok :=
  let wp := workPool c r scr
  if (pointToks wp).isEmpty then (r.work c).filter takesPart else wp

def byScore (l : List Tok) : List Tok := sortToks (fun t => orderKey t.z0) l

/-! The tie rule. -/

/-- Working tokens at +inf, in ascending id (R132). -/
def tieSet (c : SelCtx) (r : RowState) : List Tok := (r.work c).filter fun t => t.z0 == fPinf

/-- The tie tokens among which a row is decided (R165): those of the pool, or, where lower ids with hi = +inf have filled the pool and none lies in it, the whole tie set, since R2 gives a `TIE` row a token (log entry 105, DESIGN CHOICE). -/
def tiePool (ties : List Tok) (scr : RowScreen) : List Tok :=
  let inPool := ties.filter fun t => scr.pool.any fun p => p.id == t.id
  if inPool.isEmpty then ties else inPool

/-- The tie token of R132 and R165 among the tie tokens that decide the row, in ascending id. -/
def tieChoice (c : SelCtx) (n : Nat) (inPool : List Tok) : Option Nat :=
  if c.greedy then (inPool.head?).map (·.id)
  else if c.serve then
    let k := Nat.min (Nat.min n c.kEff) inPool.length
    (inPool[(2 * c.cdf + 1) * k / 2 ^ 25]?).map (·.id)
  else ((sortToks (fun t => orderKey (tokG c t)) inPool).head?).map (·.id)

/-- LN of a count (R132). -/
def lnCount (compat : Bool) (n : Nat) : F32 := cfLn compat (F32.ofInt n)

/-- A `TIE` row (R132, R133, R165). -/
def tieOut (f : Flight) (c : SelCtx) (r : RowState) (scr : RowScreen) : RowOut :=
  let ties := tieSet c r
  let n := ties.length
  let inPool := ties.filter fun t => scr.pool.any fun p => p.id == t.id
  let kept := ties.take (Nat.min n c.kEff)
  { blankOut f r with
    disp := .tie, token := tieChoice c n (tiePool ties scr), lp := negLn f.compat n, ent := lnCount f.compat n, tieN := n
    lp2 := if c.serve then negLn f.compat kept.length else negLn f.compat n
    uncert := (f.prog.prec == 1 && r.phase == .uncert) || decide (inPool.length < n)
    top := topPairs ((byScore (workPool c r scr)).map fun t => (t.id, if t.z0 == fPinf then negLn f.compat n else fNinf))
    kept := if c.serve then kept.map fun t => (t.id, t.z0) else [] }

/-! Choices of a `NORMAL` row. -/

/-- A choice: the token, the kept set of a SERVE row, and whether a draft token was accepted. -/
structure Choice where
  token : Option Nat
  kept  : List Tok
  acc   : Bool
deriving DecidableEq, Repr, Inhabited

/-- The ROLLOUT choice (R97, R106, R170); of an `UNCERT` row whose pool offers no token, the highest working key of the window (log entry 105, DESIGN CHOICE). -/
def rolloutChoice (f : Flight) (c : SelCtx) (r : RowState) (scr : RowScreen) : Choice :=
  let wp := workPool c r scr
  let l := if f.prog.prec = 1 then
      (if r.phase == .certified then wp.filter fun t => isRefined r.ref t.id else pointToks (offered c r scr))
    else pointToks (wp ++ overflowToks c scr r.toks)
  ⟨(bestKey c l).map (·.id), [], false⟩

/-- The SERVE choice (R100, R106); the stages run over the window where the pool offers no token (log entry 105, DESIGN CHOICE). -/
def serveChoice (f : Flight) (c : SelCtx) (r : RowState) (scr : RowScreen) : Choice :=
  let composite : Choice := match serveComposite c (offered c r scr) with
    | some (id, kept) => ⟨some id, kept, false⟩
    | none => ⟨none, [], false⟩
  if f.prog.prec = 1 && r.phase == .certified then
    match serveTest c scr r.ref with
    | .choice id kept => ⟨some id, kept, false⟩
    | _ => composite
  else composite

/-- The choice of a SPEC_EXACT row: the accepted draft token, or the residual draw (R206 to R208), over the window where the pool offers no token (log entry 105, DESIGN CHOICE). -/
def specChoice (f : Flight) (c : SelCtx) (d : SpecIn) (r : RowState) (scr : RowScreen) : Choice :=
  let wp := workPool c r scr
  let of (x : SpecRes × List Tok) : Choice := match x.1 with
    | .accept => ⟨some d.x, x.2, true⟩
    | .emit id => ⟨some id, x.2, false⟩
    | .need _ => ⟨none, x.2, false⟩
  let composite : Choice := match specComposite c d (offered c r scr) with
    | some x => of x
    | none => ⟨none, [], false⟩
  if f.prog.prec = 1 && r.phase == .certified then
    match (serveKept c true scr.floor (isRefined r.ref) wp).specSet with
    | some ks => of (specTest d (isRefined r.ref) ks, ks.map (·.tok))
    | none => composite
  else composite

/-- The local set of a SERVE row of a merge group: the in_k set of stage 2 in rank order (R188), over the window where the pool offers no token (log entry 105, DESIGN CHOICE). -/
def localSet (f : Flight) (c : SelCtx) (r : RowState) (scr : RowScreen) : List Tok :=
  let certified := f.prog.prec = 1 && r.phase == .certified
  let wp := if certified then workPool c r scr else offered c r scr
  let own := if certified then serveTop c true scr.floor (isRefined r.ref) wp
    else serveTop c false fNinf (fun _ => true) (pointToks wp)
  match own with
  | .kept _ ks => byScore (wp.filter fun t => ks.any fun k => k.tok.id == t.id)
  | .greedy t => wp.filter fun x => x.id == t.id
  | _ => []

def rowChoice (f : Flight) (i : Nat) (c : SelCtx) (r : RowState) (scr : RowScreen) : Choice :=
  match rowMode f i r with
  | .spec d => specChoice f c d r scr
  | .group => ⟨none, localSet f c r scr, false⟩
  | _ => if c.serve then serveChoice f c r scr else rolloutChoice f c r scr

/-- The largest working score of a kept set, and the sum of its terms (R176). -/
def keptSum (compat : Bool) (kept : List (Nat × F32)) : F32 × Nat :=
  let m := maxF (kept.map (·.2))
  (m, sumNat (kept.map fun p => cfExpfx compat p.2 m))

/-- The working score of a token of the window. -/
def workOf (c : SelCtx) (r : RowState) (id : Nat) : Option F32 := ((r.work c).find? fun t => t.id == id).map (·.z0)

/-- A `NORMAL` row for the token `e` (R175 to R180). -/
def normalOut (f : Flight) (c : SelCtx) (r : RowState) (scr : RowScreen) (e : Option Nat) (kept : List Tok) (acc : Bool) : RowOut :=
  let st := rowStats f r scr
  let w := (e.bind (workOf c r)).getD fNan
  let ks := kept.map fun t => (t.id, t.z0)
  let (mk, sk) := keptSum f.compat ks
  let lp := logprobOf w st.mStar st.sStar
  { blankOut f r with
    disp := .normal, token := e, lp := lp, lp2 := if c.serve then logprobOf w mk sk else lp, ent := entropyOf st
    uncert := f.prog.prec == 1 && r.phase == .uncert
    top := topPairs ((byScore (workPool c r scr)).map fun t => (t.id, logprobOf t.z0 st.mStar st.sStar))
    kept := if c.serve then ks else [], mK := mk, sigK := sk, acc := acc }

/-- What a row comes to (R131, R179). -/
def rowOut (f : Flight) (i : Nat) (r : RowState) : RowOut :=
  match r.scr with
  | none => poisonOut f r
  | some scr =>
    let c := rowCtx f r
    match rowDisp c r with
    | .poison => poisonOut f r
    | .empty => emptyOut f r
    | .tie => tieOut f c r scr
    | .normal =>
      let x := rowChoice f i c r scr
      normalOut f c r scr x.token x.kept x.acc

/-! Discarded rows of a verify run (R212), and REFINE_ROUND, which ends their certification. -/

/-- Row `j` of a run lets its draft token pass (R199). -/
def draftOk (v : VRun) (o : RowOut) (j : Nat) : Option Bool :=
  match o.disp with
  | .poison | .empty => none
  | .tie => some (o.token == v.draft[j]?)
  | .normal => some (if v.spec then o.acc else o.token == v.draft[j]?)

/-- The walk of a run, as far as its rows are decided, ends before `n` more rows from row `j` on have passed. -/
def walkEnds (f : Flight) (v : VRun) : Nat → Nat → Bool
  | 0, _ => false
  | n + 1, j =>
    let r := f.rows.getD (v.row0 + j) default
    if r.phase == .todo then false
    else draftOk v (rowOut f (v.row0 + j) r) j != some true || walkEnds f v n (j + 1)

/-- In FREE_REIN gait the certification of a row stops once the walk has decided that it is discarded (R212): it lies past the effective length, or a row before it has ended the walk. In a merge group the walk follows the rounds (R201). -/
def Flight.discards (f : Flight) (i : Nat) : Bool :=
  !f.collected && f.prog.xmerge.isNone &&
  match unitOf f.runs i with
  | some v => !v.failed && (decide (v.deff < i - v.row0) || walkEnds f v (i - v.row0) 0)
  | none => false

/-- A row whose certification is over, or over with. -/
def Flight.rowOver (f : Flight) (i : Nat) (r : RowState) : Bool := r.phase != .todo || f.discards i

/-- A refine lane serves the open rows of a step before those of a later one (R103, R314). -/
def State.laneTurn (s : State) (ln : Nat) (lane : Option Nat) : Bool :=
  s.unitTurn ln fun g => g.certifies && g.rows.zipIdx.any fun q => q.1.lane == lane && !g.rowOver q.2 q.1

/-- A step after a round of row `i` that has refined the tokens `ids` on a plane set: a round that is late, or in which one channel carries more than its share, breaks a COLLECTED count (R105, R422). -/
def State.roundTiming (s : State) (f : Flight) (i round : Nat) (v : PlaneView) (hb : Nat) (cured : List RecRef) (ids : List Nat) (late : Bool) : Flight :=
  let g := f.countRound round (s.roundChannels f i v hb cured ids)
  g.timing (if late || s.roundOver g round then 7 else 0)

/-- REFINE_ROUND (R97): the next round of a row of a CERTIFY step. -/
def execRefineRound (ln row : Nat) (cured : List RecRef) (late : Bool) (s : State) : Host.Outcome State Fault Refusal :=
  match s.flight ln with
  | none => .next s
  | some f =>
    if f.past || !f.m0done || f.selected || f.emitted then .next s
    else match f.rows[row]? with
      | none => .next s
      | some r =>
        match r.phase, r.scr with
        | .todo, some scr =>
          if !s.laneTurn ln r.lane then .next s
          else if f.discards row then .next (s.setFlight { f with rows := f.rows.set row { r with phase := .ended } })
          else
            let y := s.refineRow f row r scr (curedMain cured)
            let f := s.roundTiming f row r.rounds f.view f.prog.hbAddr (curedMain cured) ((y.2.ref.drop r.ref.length).map (·.id)) late
            .next (y.1.setFlight { f with rows := f.rows.set row y.2 })
        | _, _ => .next s

/-- The rows stand bound at their snapshots, certification of every row has ended and Σ0 is at the root. -/
def Flight.certified (f : Flight) : Bool := f.loaded && f.snapped && f.m0done && f.swept && f.rows.zipIdx.all fun q => f.rowOver q.2 q.1

/-! Emit buffer (R309, R313, R320): 512 rows of 4 KiB. -/

/-- A message of a step's writes is not acknowledged that carries bytes of a row's write. -/
def State.writeOpen (s : State) (ln addr n : Nat) : Bool :=
  s.out.any fun o => (match o.why with | .emit l | .ringRec l _ => l == ln | _ => false) && decide (o.addr < addr + n ∧ addr < o.addr + o.len)

/-- Rows of a step that hold their place in the emit buffer: those evaluated whose own writes are not all acknowledged. -/
def State.bufferRows (s : State) (f : Flight) : Nat :=
  if !(f.selected || f.scored) || f.prog.rows = 0 || f.complete then 0
  else if !f.emitted then Nat.min 512 f.prog.rows
  else Nat.min 512 ((List.range f.prog.rows).countP fun i => f.writesOf.any fun w => w.1 == i && s.writeOpen f.ln w.2.1 w.2.2)

/-- Places in the emit buffer that the steps launched before one have still to take. -/
def State.bufferDue (s : State) (ln : Nat) : Nat :=
  sumNat ((s.flights.filter fun g => decide (g.ln < ln) && !g.past && !g.emitted && !g.selected && !g.scored).map fun g => Nat.min 512 g.prog.rows)

/-- The emit buffer takes a step in its turn, once its rows have ended certification, and leaves room for every earlier step, so that no step waits on a later one (R320); a step of more than 512 rows needs it whole (log entry 107; DESIGN CHOICE). -/
def State.bufferFits (s : State) (f : Flight) : Bool :=
  decide (sumNat (s.flights.map s.bufferRows) + s.bufferDue f.ln + Nat.min 512 f.prog.rows ≤ 512) &&
  s.unitTurn f.ln fun g => g.certified && !g.selected && !g.scored

/-- SELECT (R181): the root's row engines evaluate every row, once the emit buffer takes them. -/
def execSelect (ln : Nat) (s : State) : Host.Outcome State Fault Refusal :=
  match s.flight ln with
  | none => .next s
  | some f =>
    if f.past || f.prog.isScore || !f.certified || f.selected || f.emitted || !s.bufferFits f then .next s
    else .next (s.setFlight { f with
      rows := f.rows.zipIdx.map fun q => { q.1 with
        out := some (rowOut f q.2 q.1), phase := if q.1.phase == .todo then .ended else q.1.phase }, selected := true })

/-- A row's outcome: the merged one when there is one. -/
def RowState.final (f : Flight) (r : RowState) : RowOut :=
  match r.merged with
  | some o => o
  | none => match r.out with | some o => o | none => poisonOut f r

/-- Every merge round of a step is over. -/
def Flight.merged (f : Flight) : Bool :=
  match f.prog.xmerge with
  | some (_, _, rounds, _, _, _) => decide (rounds ≤ f.mrDone)
  | none => true

/-! VERIFY. -/

/-- The walk from row `j` on, with `n` drafts left: accepted tokens, and whether a rejection ended it (R199). -/
def walkRun (v : VRun) (outs : Nat → RowOut) : Nat → Nat → Nat × Bool
  | 0, j => (j, false)
  | n + 1, j =>
    match draftOk v (outs j) j with
    | some true => walkRun v outs n (j + 1)
    | some false => (j, true)
    | none => (j, false)

/-- VERIFY (R199): the acceptance walk of every run, after the last merge round (R201). -/
def execVerify (ln : Nat) (s : State) : Host.Outcome State Fault Refusal :=
  match s.flight ln with
  | none => .next s
  | some f =>
    if f.past || f.prog.verify.isNone || !f.selected || !f.merged || f.verified || f.emitted then .next s
    else
      let runs := f.runs.map fun v =>
        if v.failed then { v with na := 0 }
        else
          let w := walkRun v (fun j => (f.rows.getD (v.row0 + j) default).final f) v.deff 0
          { v with na := w.1, rej := w.2 }
      .next (s.setFlight { f with runs := runs, verified := true })

end Sys2Proof.Machine
end

