-- ==== Sys2Proof/Machine/Learn.lean ====
section
/-! DEFINITION. The learning turn (chapter 10): SCOREQ and its result records, KLREF's reference part, GRAD and its transposed pass. -/

namespace Sys2Proof.Machine

/-! SCOREQ (R237). -/

/-- What the scored token's own refinement came to: it takes no part, it is odd, or it has its place (R237). -/
inductive TokPart where
  | absent | odd | present
deriving DecidableEq, Repr

/-- The token of the window that the row scores; none when it lies elsewhere in a merge group. -/
def RowState.scoredTok (r : RowState) : Option Tok := r.entry.bind fun e => r.toks.find? fun t => t.id == e.token

/-- Refines `TOKEN` outside the budget unless it is the choice, is refined already, or takes no part (R237), whatever the row's disposition. In SCREEN precision nothing is refined. -/
def State.refineScored (s : State) (f : Flight) (i : Nat) (r : RowState) (c : SelCtx) (cured : List RecRef) (choice : Option Nat) : State × RowState × TokPart :=
  match r.scoredTok with
  | none => (s, r, .present)
  | some t =>
    let w := workTok c r.ref t
    if !takesPart w || w.z0 == fNinf then (s, r, .absent)
    else if f.prog.prec = 0 || choice == some t.id || isRefined r.ref t.id then (s, r, .present)
    else
      let (s, l) := s.refineList f i r cured [t.id]
      match l with
      | [] => (s, r, .present)
      | x :: _ =>
        if !x.pois && (x.z == fNinf || (F32.isNan x.z && c.nanMask)) then (s, r, .absent)
        else if F32.isNan x.z || x.z == fPinf then (s, r, .odd)
        else (s, { r with ref := r.ref ++ [x] }, .present)

/-- What the part that `TOKEN` takes makes of a row's results (R237). -/
def withPart (serve : Bool) (o : RowOut) : TokPart → RowOut
  | .absent => { o with lp := fNinf, lp2 := fNinf, notKept := serve, tokOut := true }
  | .odd => { o with lp := fNan, lp2 := fNan, tokOdd := true }
  | .present => o

/-- A `NORMAL` row that scores `TOKEN`: `x` is the replay choice (R237). -/
def scoredNormal (f : Flight) (c : SelCtx) (r : RowState) (scr : RowScreen) (x : Choice) (part : TokPart) : RowOut :=
  let tok := (r.entry.map (·.token)).getD 0
  let kept := x.kept.map fun t => { t with z0 := (workOf c r t.id).getD t.z0 }
  let base := normalOut f c r scr (some tok) kept false
  let inKept := kept.any fun t => t.id == tok
  let o := { base with token := x.token, notKept := c.serve && !inKept }
  let o := if r.scoredTok.isSome && c.serve && !inKept then { o with lp2 := fNinf } else o
  withPart c.serve o part

/-- A `TIE` row that scores `TOKEN` (R132, R237). Tie set, n and n′ are those of the replayed decision, before `TOKEN`'s own refinement; `nref` counts F with it (log entry 75). -/
def scoredTie (f : Flight) (c : SelCtx) (r : RowState) (scr : RowScreen) (nref : Nat) (part : TokPart) : RowOut :=
  let o := { tieOut f c r scr with cert := certByte f r.serve nref }
  let tok := (r.entry.map (·.token)).getD 0
  let lp := if (tieSet c r).any fun t => t.id == tok then o.lp else fNinf
  let inKept := o.kept.any fun p => p.1 == tok
  withPart c.serve (if c.serve then { o with lp := lp, lp2 := if inKept then o.lp2 else fNinf, notKept := !inKept }
    else { o with lp := lp, lp2 := lp }) part

/-- Scores row `i` (R237). A SERVE row of a merge group has its choice, and refines `TOKEN`, only after the first round. In a ROLLOUT row of a merge group `TOKEN` is held against the chip's own choice, the one known before the round (log entry 70, DESIGN CHOICE). -/
def State.scoreRow (s : State) (f : Flight) (cured : List RecRef) (i : Nat) (r : RowState) : State × RowState :=
  match r.scr with
  | none => (s, { r with out := some (poisonOut f r) })
  | some scr =>
    let c := rowCtx f r
    match rowDisp c r with
    | .poison => (s, { r with out := some (poisonOut f r) })
    | .empty => (s, { r with out := some { emptyOut f r with notKept := c.serve } })
    | .tie =>
      if rowMode f i r == .group then (s, { r with out := some { scoredTie f c r scr r.ref.length .present with token := none } })
      else
        let (s, q, part) := s.refineScored f i r c cured (tieOut f c r scr).token
        (s, { q with out := some (scoredTie f c r scr q.ref.length part) })
    | .normal =>
      let x := rowChoice f i c r scr
      if rowMode f i r == .group then (s, { r with out := some { scoredNormal f c r scr x .present with token := none } })
      else
        let (s, r, part) := s.refineScored f i r c cured x.token
        (s, { r with out := some (scoredNormal f c r scr x part) })

/-- The flags of a result record (R239). -/
def resultFlags (f : Flight) (r : RowState) (o : RowOut) : Nat :=
  let b (k : Nat) (x : Bool) : Nat := if x then 2 ^ k else 0
  let chose := o.disp == .normal || o.disp == .tie
  b 0 o.uncert + b 1 (o.disp == .poison) + b 2 (o.disp == .empty) + b 3 r.serve + b 4 f.compat +
  b 5 (chose && o.token != r.entry.map (·.token)) + b 6 o.notKept + b 7 o.klOver + b 8 o.refDisp + b 9 o.gclip + b 10 o.tokOdd

/-- A result record (R238). -/
def resultRecord (f : Flight) (r : RowState) : List Byte :=
  let o := r.final f
  let made := o.disp == .normal || o.disp == .tie
  let lp2 := if !r.serve && f.prog.paired && made then o.lpRef else o.lp2
  leBytes 4 ((r.entry.map (·.token)).getD 0) ++ leBytes 4 o.lp.toNat ++ leBytes 4 lp2.toNat ++ leBytes 4 o.ent.toNat ++
  leBytes 4 o.kl.toNat ++ leBytes 4 (if made then o.token.getD 0xFFFFFFFF else 0xFFFFFFFF) ++ leBytes 2 (resultFlags f r o) ++
  leBytes 1 o.cert ++ leBytes 1 (f.tepoch % 256) ++ leBytes 4 o.lpRef.toNat

/-- The step writes output records: outside a merge group, or where XMERGE has `WRITE` set (R193). -/
def Flight.writes (f : Flight) : Bool := match f.prog.xmerge with | some (_, w, _, _, _, _) => w | none => true

/-- Every part of a SCOREQ step that comes before its records is done. -/
def Flight.scoreOver (f : Flight) : Bool :=
  f.scored && f.merged && (!f.prog.paired || f.klDone) &&
  (match f.prog.grad with | some g => f.gradDone && (g.dhSrc == 0 || f.transDone) | none => true)

/-- Writes the result records of a SCOREQ step once everything before them is done (R238). -/
def State.finishScore (s : State) (ln : Nat) : State :=
  match s.flight ln with
  | none => s
  | some f =>
    if !f.prog.isScore || f.emitted || !f.scoreOver then s
    else
      let recs := f.rows.map (resultRecord f)
      let out := match f.prog.scoreq with | some x => x.2 | none => 0
      let s := if f.writes then s.writeHost out recs.flatten (.emit ln) else s
      let extra (r : Nat) : List Byte := if f.strict && f.prog.grad.isSome then f.rowBytes.getD r [] else []
      s.setFlight { f with
        emitted := true, gEmit := s.gc, gcDone := s.gc
        writesOf := f.writesOf ++ (if f.writes then recs.zipIdx.map fun q => (q.2, out + 32 * q.2, 32) else [])
        rowBytes := recs.zipIdx.map fun q => (if f.writes then q.1 else []) ++ extra q.2 }

/-- SCOREQ (R237): once certification has ended, every row's replay choice and the scored token's statistics. Refinements that read late break a COLLECTED count (R422, R423). -/
def execScoreq (ln : Nat) (cured : List RecRef) (late : Bool) (s : State) : Host.Outcome State Fault Refusal :=
  match s.flight ln with
  | none => .next s
  | some f =>
    if f.past || !f.prog.isScore || !f.certified || f.scored || f.emitted || !s.bufferFits f then .next s
    else
      let (s, rows) := s.overRows f.rows fun s i r => s.scoreRow f (curedMain cured) i r
      .next ((s.setFlight ({ f with rows := rows, scored := true }.timing (if late then 7 else 0))).finishScore ln)

/-! KLREF (R244 to R247). -/

/-- Refines on the reference set every token of F that is not refined there yet (R246). -/
def State.refineRef (s : State) (f : Flight) (cured : List RecRef) (i : Nat) (r : RowState) : State × RowState :=
  let ids := (r.ref.map (·.id)).filter fun id => !isRefined r.rref id
  match f.rview with
  | none => (s, r)
  | some v =>
    if ids.isEmpty then (s, r)
    else
      let (s, h) := s.readHidden 1 f i
      let (s, l) := ids.foldl (fun (x : State × List Refined) id =>
        match r.rtoks.find? fun t => t.id == id with
        | none => x
        | some t =>
          let y := x.1.refineTok f i v f.prog.klref r h cured t
          (y.1, x.2 ++ [y.2])) (s, [])
      (s, { r with rref := r.rref ++ l })

/-- Reference working tokens, and the reference disposition (R246). -/
def RowState.refWork (c : SelCtx) (r : RowState) : List Tok := r.rtoks.map (workTok c r.rref)
def refDispOf (c : SelCtx) (r : RowState) : Disp := dispOf c false r.h.nonFinite (r.refWork c)

/-- A score with a NaN that masks read as −inf (R131). -/
def asScore (z : F32) : F32 := if F32.isNan z then fNinf else z

/-- The reference working score of a token. -/
def refScore (c : SelCtx) (r : RowState) (id : Nat) : Option F32 := ((r.refWork c).find? fun t => t.id == id).map fun t => asScore t.z0

/-- F with its reference scores: pairs (zr0, zr). -/
def refPairsR (r : RowState) : List (F32 × F32) :=
  r.rref.filterMap fun x => (r.rtoks.find? fun t => t.id == x.id).map fun t => (t.z0, x.z)

/-- mr* and Σr* (R246). -/
def refStats (f : Flight) (r : RowState) : CertStats := certStats f.compat r.mr0 r.sr0 0 (refPairsR r)

/-- X* (R247). -/
def crossStar (f : Flight) (r : RowState) (scr : RowScreen) (st : CertStats) : Int :=
  let quads := r.ref.filterMap fun x =>
    match r.toks.find? (fun t => t.id == x.id), r.rtoks.find? (fun t => t.id == x.id), r.rref.find? (fun y => y.id == x.id) with
    | some t, some u, some y => some (t.z0, u.z0, x.z, y.z)
    | _, _, _ => none
  let rest := r.x0 - sumInt (quads.map fun q => crossTerm f.compat q.1 q.2.1 scr.m0)
  (rest * (cfExpfx f.compat scr.m0 st.mStar : Int)).fdiv (2 ^ 63 : Nat) +
    sumInt (quads.map fun q => crossTerm f.compat q.2.2.1 q.2.2.2 st.mStar)

/-- Two scores lie at least 2^64 apart, or one of them is infinite and the other is not it (R247). -/
def scoresFar (z zr : F32) : Bool :=
  match XR.of z, XR.of zr with
  | .nan, _ | _, .nan => false
  | .fin a, .fin b => !((a.sub b).abs.lt (Frac.ofInt (2 ^ 64)))
  | .pinf, .pinf | .ninf, .ninf => false
  | _, _ => true

/-- The overflow case of R247: a token that counts has a reference score of −inf or one at least 2^64 away. Every tie token counts (R140). -/
def klOverflow (f : Flight) (c : SelCtx) (r : RowState) (m : F32) : Bool :=
  (List.zip (r.work c) (r.refWork c)).any fun p =>
    let z := asScore p.1.z0
    let zr := asScore p.2.z0
    cfExpfx f.compat z m != 0 && (zr == fNinf || scoresFar z zr)

/-- A divergence that is negative reports as +0.0 (R247, R249). -/
def nonNeg (x : F32) : F32 := if F32.isNeg x && !F32.isNan x then 0 else x

/-- The reference part of a chip (R246, R247). -/
structure RefPart where
  disp : Disp
  st   : CertStats
  xd   : Frac
  wide : Bool

def refPart (f : Flight) (c : SelCtx) (r : RowState) (scr : RowScreen) : RefPart :=
  let st := rowStats f r scr
  { disp := refDispOf c r, st := refStats f r, xd := ⟨crossStar f r scr st, Nat.max 1 st.sStar⟩
    wide := klOverflow f c r st.mStar }

/-- The token whose logprob the row reports: `TOKEN` in SCOREQ, the emitted token in generation. -/
def reportTok (r : RowState) (o : RowOut) : Option Nat := match r.entry with | some e => some e.token | none => o.token

/-- KL and LP_REF of a row on one chip (R247). A `TIE` row has a token at +inf with a reference score that is not, and so the overflow case. -/
def klRow (f : Flight) (r : RowState) (o : RowOut) : RowOut :=
  match r.scr with
  | none => o
  | some scr =>
    if o.disp == .poison || o.disp == .empty then o
    else
      let c := rowCtx f r
      let p := refPart f c r scr
      if p.disp != .normal then { o with kl := fNan, lpRef := fNan, refDisp := true }
      else
        let st := rowStats f r scr
        let lr := match (reportTok r o).bind (refScore c r) with
          | some w => logprobOf w p.st.mStar p.st.sStar
          | none => fNan
        let x := (((XR.fin p.xd).sub (XR.of st.mStar)).sub (.fin (fixedLog st.sStar))).add (XR.of p.st.mStar)
        let kl := nonNeg ((x.add (.fin (fixedLog p.st.sStar))).toF32 .even)
        let infl := p.wide
        { o with kl := if o.tokOdd then fNan else if infl then fPinf else kl, lpRef := if o.tokOdd then fNan else lr, klOver := infl && !o.tokOdd }

/-- In a generation step the second logprob field of a ROLLOUT row is its `LP_REF` (R240). -/
def genRef (r : RowState) (o : RowOut) : RowOut :=
  if r.entry.isNone && !r.serve && (o.disp == .normal || o.disp == .tie) then { o with lp2 := o.lpRef } else o

/-- KLREF (R244, R246): once F is complete, its tokens are refined on the reference set and the reference values formed. -/
def execKlref (ln : Nat) (cured : List RecRef) (late : Bool) (s : State) : Host.Outcome State Fault Refusal :=
  match s.flight ln with
  | none => .next s
  | some f =>
    if f.past || !f.prog.paired || !(f.selected || f.scored) || f.klDone || f.emitted ||
        !s.unitTurn ln (fun g => g.prog.paired && (g.selected || g.scored) && !g.klDone) then .next s
    else
      let (s, rows) := s.overRows f.rows fun s i r => if r.spoiled then (s, r) else s.refineRef f (curedRef cured) i r
      let rows := rows.map fun r => { r with out := r.out.map fun o => genRef r (klRow f r o) }
      .next ((s.setFlight ({ f with rows := rows, klDone := true }.timing (if late then 7 else 0))).finishScore ln)

/-! GRAD (R250 to R257). -/

/-- The coefficient c of a row, and whether the surrogate is clipped (R252): a comparison with a NaN fails. -/
def gradCoef (compat : Bool) (g : GradDesc) (e : ScoreEntry) (lp : F32) : F32 × Bool :=
  if g.coef then (e.adv, false)
  else
    let dlr := F32.sub .even lp e.lpOld
    let rr := cfExp2 compat (F32.mul .even dlr 0x3FB8AA3B)
    let one : F32 := 0x3F800000
    let up := 0 ≤ (XR.of e.adv).sgn
    let active := if up then F32.le rr (F32.add .even one g.epsHi) else F32.le (F32.sub .even one g.epsLo) rr
    if active then ((((XR.of e.wrow).mul (XR.of e.adv)).mul (XR.of rr)).neg.toF32 .even, false) else (0, true)

/-- What every g_i of a row is formed from (R253): chip factor and log term of the group, for the policy and the reference. -/
structure GradRow where
  coef  : Frac
  tok   : Nat
  mS    : F32
  sS    : Nat
  lgS   : Frac
  wgt   : Frac
  lterm : Frac
  mr    : F32
  lgR   : Frac
  rterm : Frac
  kl    : Frac
  ent   : Frac
  wb    : Frac
  we    : Frac

/-- a_c of a partition (R187). -/
def partA (m : F32) (sg : Nat) : F32 := ((XR.of m).add (.fin (fixedLog sg))).toF32 .even

/-- The log term a_c − A − Lg(Σ_G) of a chip in its group. -/
def groupTerm (a A : F32) (sg : Nat) : Frac := ((F32.val a).sub (F32.val A)).sub (fixedLog sg)

def gradRow (f : Flight) (g : GradDesc) (r : RowState) (e : ScoreEntry) (scr : RowScreen) (o : RowOut) (coef : F32) : GradRow :=
  let st := rowStats f r scr
  let rs := refStats f r
  let a := partA st.mStar st.sStar
  let ar := partA rs.mStar rs.sStar
  let fin (x : F32) : Frac := if F32.isFinite x then F32.val x else ⟨0, 1⟩
  { coef := fin coef, tok := e.token, mS := st.mStar, sS := st.sStar, lgS := fixedLog st.sStar
    wgt := match o.mg with | some m => ⟨cfExpfx f.compat a m.a, m.s⟩ | none => ⟨1, 1⟩
    lterm := match o.mg with | some m => groupTerm a m.a m.s | none => ⟨0, 1⟩
    mr := rs.mStar, lgR := fixedLog rs.sStar
    rterm := match o.mg with | some m => groupTerm ar m.ar m.sr | none => ⟨0, 1⟩
    kl := fin o.kl, ent := fin o.ent
    wb := if g.coef then ⟨0, 1⟩ else (fin e.wrow).mul (fin g.beta)
    we := if g.coef then ⟨0, 1⟩ else (fin e.wrow).mul (fin g.eta) }

/-- g_i of a token with working score `w` and reference score `wr` (R253). -/
def gradOfTok (compat : Bool) (q : GradRow) (t : Tok) (wr : F32) : Frac :=
  let w := t.z0
  if !takesPart t then ⟨0, 1⟩
  else
    let ew := cfExpfx compat w q.mS
    let p := (⟨ew, q.sS⟩ : Frac).mul q.wgt
    let d : Frac := if t.id = q.tok then ⟨1, 1⟩ else ⟨0, 1⟩
    let base := q.coef.mul (d.sub p)
    if ew = 0 || !F32.isFinite w then base
    else
      let lp := (((F32.val w).sub (F32.val q.mS)).sub q.lgS).add q.lterm
      let kterm : Frac := if q.wb.num = 0 || !F32.isFinite wr then ⟨0, 1⟩
        else
          let lr := (((F32.val wr).sub (F32.val q.mr)).sub q.lgR).add q.rterm
          (q.wb.mul p).mul ((lp.sub lr).sub q.kl)
      let hterm : Frac := if q.we.num = 0 then ⟨0, 1⟩ else (q.we.mul p).mul (lp.add q.ent)
      (base.add kterm).add hterm

/-- J_i of a token's own path from its score of step 2 (R254). -/
def chainFactor (p : PathIn) (s : F32) : Frac :=
  if p.masked then ⟨0, 1⟩
  else
    let x3 := step3 p s
    let x5 := step5 p (step4 p x3)
    let sg : Frac := match p.fuse with | some x => F32.val x.1 | none => ⟨1, 1⟩
    let soft : Frac := if p.softcap == 0 then ⟨1, 1⟩
      else
        let t := F32.val (cfTanh p.compat (((XR.of x3).divPos p.softcap).toF32 .even))
        (Frac.ofInt 1).sub (t.mul t)
    let rep : Frac := if p.rho == 0x3F800000 || p.count == 0 || F32.isNan x5 then ⟨1, 1⟩
      else if 0 < (XR.of x5).sgn then (⟨1, 1⟩ : Frac).div (F32.val p.rho)
      else if (XR.of x5).sgn < 0 then F32.val p.rho else ⟨1, 1⟩
    let temp : Frac := if p.invT == fPinf then ⟨1, 1⟩ else F32.val p.invT
    ((sg.mul soft).mul rep).mul temp

/-- Fraction bits, least exponent and largest exponent of an MXFP8 format (R255). -/
def fp8Bits (dfmt : Nat) : Nat := if dfmt = 0 then 3 else 2
def fp8Emin (dfmt : Nat) : Int := if dfmt = 0 then -6 else -14
def fp8Emax (dfmt : Nat) : Nat := if dfmt = 0 then 8 else 15
def fp8Top (dfmt : Nat) : Frac := if dfmt = 0 then ⟨448, 1⟩ else ⟨57344, 1⟩
def fp8TopCode (dfmt : Nat) : Nat := if dfmt = 0 then 0x7E else 0x7B

/-- The scale XD of a group of dlogits (R255). -/
def gradScale (dfmt : Nat) (l : List Frac) : Nat :=
  let mx := maxAbs l
  if mx.num = 0 then 0 else (min 254 (max 0 (mx.floorLog2 - (fp8Emax dfmt : Int) + 127))).toNat

/-- A dlogit under its group's scale lies between two values of the format (R222). -/
def gradInexact (dfmt : Nat) (xd : Nat) (d : Frac) : Bool :=
  let y := d.mul (Frac.pow2 (127 - (xd : Int)))
  y.num != 0 && !(fp8Top dfmt).le y.abs &&
    (y.mul (Frac.pow2 ((fp8Bits dfmt : Int) - max y.abs.floorLog2 (fp8Emin dfmt)))).inexact

/-- The element code of a dlogit under its group's scale; `chunk` rounds it stochastically, none to nearest even (R255, R222). -/
def gradCode (dfmt : Nat) (xd : Nat) (d : Frac) (chunk : Option Nat) : Nat :=
  let y := d.mul (Frac.pow2 (127 - (xd : Int)))
  if y.num = 0 then 0
  else
    let sg := if y.num < 0 then 128 else 0
    if (fp8Top dfmt).le y.abs then sg + fp8TopCode dfmt
    else
      let e := max y.abs.floorLog2 (fp8Emin dfmt)
      let q := y.mul (Frac.pow2 ((fp8Bits dfmt : Int) - e))
      let n := match chunk with | some r => stochInt 4 r q | none => q.roundHalfEven
      if n = 0 then 0
      else (if n < 0 then 128 else 0) + (e - fp8Emin dfmt).toNat * 2 ^ fp8Bits dfmt + n.natAbs

/-- The integer operand of an element code (R25, R256). -/
def gradInt (dfmt : Nat) (c : Nat) : Int := (hiddenInt (if dfmt = 0 then .e4m3 else .e5m2) c).getD 0
def gradUnit (dfmt : Nat) : Int := if dfmt = 0 then -9 else -16

/-- The codes of a group rounded by the Campion lanes of cluster `cl` (R221, R222); `i` numbers the first element. Which lane of the cluster serves an element is not specified, a free value. -/
def ditherCodes (dfmt xd fr cl row : Nat) : Nat → List Frac → List (Nat × Lane) → List Nat × List (Nat × Lane)
  | _, [], l => ([], l)
  | i, d :: r, l =>
    let c := if gradInexact dfmt xd d then takeChunk l fr (laneKey cl (Config.freeLane fr row i % 32)) else (0, l)
    let x := ditherCodes dfmt xd fr cl row (i + 1) r c.2
    (gradCode dfmt xd d (some c.1.toNat) :: x.1, x.2)

/-- The groups of a row one after another: the clusters share them as they share the slabs (R66). -/
def ditherRow (dfmt fr row : Nat) (cls : List Nat) : List (List Frac × Nat) → List (Nat × Lane) → List Nat × List (Nat × Lane)
  | [], l => ([], l)
  | (m, g) :: r, l =>
    let c := ditherCodes dfmt (gradScale dfmt m) fr (cls.getD (g / 2 % Nat.max 1 cls.length) 0) row (32 * g) m l
    let x := ditherRow dfmt fr row cls r c.2
    (c.1 ++ x.1, x.2)

/-- The dlogits of a row as bytes: elements, then scales (R255); under STRICT they round to nearest even and no lane steps (R227). -/
def dlogitBytes (dfmt : Nat) (strict : Bool) (slabs fr row : Nat) (cls : List Nat) (d : List Frac) (l : List (Nat × Lane)) : List Byte × List (Nat × Lane) :=
  let vp := 64 * slabs
  let d := d ++ List.replicate (vp - d.length) ⟨0, 1⟩
  let groups := (List.range (vp / 32)).map fun q => (d.drop (32 * q)).take 32
  let elems := if strict then (groups.flatMap fun m => m.map fun x => gradCode dfmt (gradScale dfmt m) x none, l)
    else ditherRow dfmt fr row cls groups.zipIdx l
  (elems.1.map (BitVec.ofNat 8) ++ (groups.map (gradScale dfmt)).map (BitVec.ofNat 8), elems.2)

/-- A row whose every g_i is 0 (R253). -/
def gradZero (g : GradDesc) (o : RowOut) : Bool :=
  o.disp != .normal || o.tokOdd || (!g.coef && decide (0 < (XR.of g.beta).sgn) && !F32.isFinite o.kl)

/-- The part of a row on this chip, as SELECT or SCOREQ left it. -/
def RowState.part (f : Flight) (r : RowState) : RowOut := r.out.getD (poisonOut f r)

/-- The exact dlogits of a row; a `TOKEN` that takes no part has none (R237, R253); `odd` are the tokens whose recomputed score is poisoned, whose dlogit the spec does not give: a free value of the step (log entry 126). -/
def rowDlogits (f : Flight) (g : GradDesc) (ms : Array (Option MaskView)) (odd : Nat → Bool) (i : Nat) (r : RowState) : List Frac :=
  let o := r.final f
  match r.entry, r.scr with
  | some e, some scr =>
    if gradZero g o then r.toks.map fun _ => ⟨0, 1⟩
    else
      let c := rowCtx f r
      let q := gradRow f g r e scr o (gradCoef f.compat g e o.lp).1
      let rm := r.rowMask.toArray
      (List.range r.toks.length).map fun j =>
        let t := r.toks.getD j default
        let masked := rowMasked ms r.pb rm f.view.vLo t.id
        let s := match r.ref.find? (fun x => x.id == t.id) with | some x => x.s | none => t.s
        let wr := match r.rtoks[j]? with | some u => asScore (workTok c r.rref u).z0 | none => fNinf
        let gi := if t.id = e.token && (r.part f).tokOut then ⟨0, 1⟩ else gradOfTok f.compat q (workTok c r.ref t) wr
        if gi.num = 0 || masked then ⟨0, 1⟩
        else if odd t.id then
          (let x := Config.stepWord f.prog.stepId 1 (2 ^ 24 * i + j); if F32.isFinite x then F32.val x else ⟨0, 1⟩)
        else gi.mul (chainFactor (pathOf f.compat (f.mainHead.fuseAt t.id) r.pb r.counts masked t.id) s)
  | _, _ => []

/-- The bytes that GRAD writes for row `i`, and the Sorrel lanes after it. A coefficient that is not finite leaves them open: free values of the step (log entry 126). -/
def gradRowBytes (f : Flight) (g : GradDesc) (ms : Array (Option MaskView)) (odd : Nat → Bool) (fr : Nat) (i : Nat) (r : RowState)
    (l : List (Nat × Lane)) : List Byte × List (Nat × Lane) :=
  let o := r.final f
  let c := match r.entry with | some e => (gradCoef f.compat g e o.lp).1 | none => 0
  let vp := 64 * f.view.slabs
  if !gradZero g o && !F32.isFinite c then ((List.range (vp + vp / 32)).map fun j => Config.stepByte f.prog.stepId 3 (2 ^ 32 * i + j), l)
  else dlogitBytes g.dfmt f.strict f.view.slabs fr i f.clusters (rowDlogits f g ms odd i r) l

/-- The bytes of every row in order, and the Sorrel lanes after them. -/
def gradRows (f : Flight) (g : GradDesc) (ms : Array (Option MaskView)) (odd : Nat → Nat → Bool) (fr : Nat) (l : List (Nat × Lane)) :
    List (List Byte) × List (Nat × Lane) :=
  f.rows.zipIdx.foldl (fun (x : List (List Byte) × List (Nat × Lane)) q =>
    let y := gradRowBytes f g ms (odd q.2) fr q.2 q.1 x.2
    (x.1 ++ [y.1], y.2)) ([], l)

/-- Tokens whose scores a repeated screen could not form. -/
def badTokens (sls : List SlabTiles) : List Nat :=
  sls.flatMap fun sl => (List.range sl.ntok).filterMap fun t =>
    let rowBad := match sl.rows[t]? with | some x => !x.2.2.2 | none => false
    if sl.bad || sl.tmsBad.contains t || rowBad then some (sl.base + t) else none

/-- The gradient screen of a step waits for it. -/
def Flight.gradReady (f : Flight) : Bool :=
  !f.past && f.prog.grad.isSome && f.scored && f.merged && (!f.prog.paired || f.klDone) && !f.gradDone && !f.emitted

/-- Where a step's gradient screen reads again, and what it finds: the reference set first where β uses it, the tokens whose scores it could not form, by row, and whether a gang stalled (R74, R258). -/
def State.gradScreen (s : State) (f : Flight) (g : GradDesc) (cured : List RecRef) : State × (Nat → Nat → Bool) × Bool :=
  let cured := cured ++ s.streamHits f
  let kl := decide (0 < (XR.of g.beta).sgn)
  let (s, rsls, st1) := match f.rview with
    | some v => if kl then s.screenSet f v (curedRef cured) else (s, [], false)
    | none => (s, [], false)
  let (s, sls, st2) := s.screenSet f f.view (curedMain cured)
  let (s, hurt) := s.hurtScreen f
  let bad := badTokens rsls ++ badTokens sls
  (s.mendStream f.ln, (fun i id => bad.contains id || hurt false i id || (kl && f.rview.isSome && hurt true i id)), st1 || st2)

/-- The writes of an array of rows, one after another at their places (R255, R256), and what they are. -/
def State.writeRows (s : State) (ln base stride : Nat) (rows : List (List Byte)) : State :=
  rows.zipIdx.foldl (fun s q => s.writeHost (base + q.2 * stride) q.1 (.emit ln)) s
def rowWrites (base stride : Nat) (rows : List (List Byte)) : List (Nat × Nat × Nat) :=
  rows.zipIdx.map fun q => (q.2, base + q.2 * stride, q.1.length)

/-- GRAD (R252 to R255, R258): the gradient screen reads the planes again and writes every row's dlogits. The gradient passes of the steps follow one another in launch order; a later step's screen may have gone before (log entry 137, DEDUCED). -/
def execGrad (ln : Nat) (cured : List RecRef) (s : State) : Host.Outcome State Fault Refusal :=
  match s.flight ln with
  | none => .next s
  | some f =>
    match f.prog.grad with
    | none => .next s
    | some g =>
      if !f.gradReady || !s.unitTurn ln Flight.gradReady then .next s
      else
        let (s, odd, stall) := s.gradScreen f g cured
        let (rows, lanes) := gradRows f g s.maskViews odd s.freeCtr s.sorrel
        let s := State.writeRows { s with sorrel := lanes } ln g.dlAddr g.dlStride rows
        let clip (r : RowState) : RowState :=
          let o := r.final f
          let b := match r.entry with | some e => (gradCoef f.compat g e o.lp).2 | none => false
          { r with out := r.out.map fun x => { x with gclip := b }, merged := r.merged.map fun x => { x with gclip := b } }
        .next ((s.bump.setFlight ({ f with
          rows := f.rows.map clip, rowBytes := rows, gradDone := true, writesOf := rowWrites g.dlAddr g.dlStride rows }.timing (if stall then 1 else 0))).finishScore ln)

/-! The transposed pass (R256). -/

/-- One product placed on the row's grid. -/
def transTerm (A : Int) (b fd a fw : Int) : Int := placeOnGrid (a * b) (fw + fd) A

/-- dh_k of a row from its written dlogits (R256). -/
def dhOf (v : PlaneView) (g : GradDesc) (sls : List SlabTiles) (row : Array Byte) (k : Nat) : F32 :=
  let vp := 64 * v.slabs
  let xd (j : Nat) : Int := byteAt row (vp + j / 32)
  let xmax : Int := ((List.range (vp / 32)).foldl (fun m q => Nat.max m (byteAt row (vp + q))) 0 : Nat)
  let tmx : Int := (sls.foldl (fun m sl => sl.tiles.foldl (fun m t => Nat.max m (recTms t)) m) 0 : Nat)
  let A := (xmax - 127) + (tmx - 127) + 21
  let c := k / 64
  let gi := k / 32
  let sum := sumInt (sls.zipIdx.flatMap fun q => (List.range q.1.ntok).map fun t =>
    let j := 64 * q.2 + t
    let b := gradInt g.dfmt (byteAt row j)
    if b = 0 then 0
    else
      let fd := xd j - 127 + gradUnit g.dfmt
      let tile := q.1.tiles.getD c #[]
      let p0 := transTerm A b fd (p0Int v.lean (tileCode v.lean tile t (k % 64))) ((tileX0 v.lean tile t (k / 32 % 2) : Int) - 128)
      if g.dhSrc = 1 then p0
      else
        let rr := q.1.rows.getD t (0, #[], #[], false)
        let r1 := rr.2.1
        let r2 := rr.2.2.1
        let f1 : Int := (p1X0 v.hd r1 gi : Int) - 127 - p1D1 v.hd r1 gi
        p0 + transTerm A b fd (p1Elem r1 k) f1 + transTerm A b fd (p2Elem r2 k) (f1 - p2D2 v.hd r2 gi))
  scoreOfSum sum A

/-- The transposed pass of a step waits for it. -/
def Flight.transReady (f : Flight) : Bool :=
  !f.past && f.gradDone && !f.transDone && !f.emitted && (match f.prog.grad with | some g => g.dhSrc != 0 | none => false)

/-- The bytes of dh of row `i` from its written dlogits. A poisoned record leaves dh open: free values of the step (log entry 126). -/
def dhBytes (f : Flight) (g : GradDesc) (sls : List SlabTiles) (i : Nat) (row : List Byte) : List Byte :=
  let a := row.toArray
  let bad := !(badTokens sls).isEmpty
  (List.range (64 * f.view.hd)).flatMap fun k =>
    leBytes 4 (if bad then Config.stepWord f.prog.stepId 2 (2 ^ 16 * i + k) else dhOf f.view g sls a k).toNat

/-- The slabs that the transposed pass reads again. -/
def State.transSlabs (s : State) (f : Flight) (g : GradDesc) (cured : List RecRef) : List SlabTiles :=
  let d := stepDeal f.view f.clusters f.prog.rows
  (List.range d.slabs).map (readSlab s.readLoc f.view d (g.dhSrc == 2) (curedMain (cured ++ s.streamHits f)))

/-- GRAD_TRANSPOSED_PASS (R256): dh of every row from the written dlogits. -/
def execGradTransposedPass (ln : Nat) (cured : List RecRef) (s : State) : Host.Outcome State Fault Refusal :=
  match s.flight ln with
  | none => .next s
  | some f =>
    match f.prog.grad with
    | none => .next s
    | some g =>
      if !f.transReady || !s.unitTurn ln Flight.transReady then .next s
      else
        let sls := s.transSlabs f g cured
        let evs := sls.flatMap (·.events)
        let s := (s.sealEvents f.prog.stepId f.queue evs).screenPoison f.who f.view (stepDeal f.view f.clusters f.prog.rows) (g.dhSrc == 2) (curedMain (cured ++ s.streamHits f))
        let dh := f.rowBytes.zipIdx.map fun q => dhBytes f g sls q.2 q.1
        let s := (s.mendStream ln).writeRows ln g.dhAddr g.dhStride dh
        .next ((s.setFlight ({ f with
          rowBytes := List.zipWith (· ++ ·) f.rowBytes dh, transDone := true
          writesOf := f.writesOf ++ rowWrites g.dhAddr g.dhStride dh }.timing (if evs.any fun e => e.code == 1 || e.code == 2 then 1 else 0))).finishScore ln)

end Sys2Proof.Machine
end

