-- ==== Sys2Proof/Machine/Emit.lean ====
section
/-! DEFINITION. EMIT (R202 to R205, R209 to R212, R272 to R291), its wait for ring space in a merge group (R286), and COMPLETION_STATUS (R310 to R312). -/

namespace Sys2Proof.Machine

/-! Records (R287 to R289). -/

def noToken : Nat := 0xFFFFFFFF
def discarded : Nat := 0xFFFFFFFE

/-- `FLAGS` of a record (R288). -/
def recordFlags (compat : Bool) (o : RowOut) (late stop acc : Bool) : Nat :=
  let b (k : Nat) (x : Bool) : Nat := if x then 2 ^ k else 0
  b 0 late + b 1 o.uncert + b 2 (o.disp == .poison) + b 3 (o.disp == .empty) + b 4 stop + b 5 acc + b 6 compat + b 7 o.trunc

/-- A ring record (R287, R289); the digest takes `GC_LO` and `LATE` as zero (R433). -/
def ringRecord (f : Flight) (o : RowOut) (pos flags gc : Nat) (ext : Bool) : List Byte :=
  leBytes 4 (o.token.getD noToken) ++ leBytes 4 o.lp.toNat ++ leBytes 4 pos ++ leBytes 2 flags ++ leBytes 1 o.cert ++
  leBytes 1 (f.tepoch % 256) ++ leBytes 4 o.lp2.toNat ++ leBytes 4 o.ent.toNat ++ leBytes 4 (gc % 2 ^ 32) ++ leBytes 4 0 ++
  (if ext then (topPairs o.top).flatMap fun p => leBytes 4 p.1 ++ leBytes 4 p.2.toNat else [])

/-- Records of a step to a request are extended: `EXTREC`, which G2 ignores and G3 must ask for (R286, R305, R306). -/
def State.extends (s : State) (f : Flight) (n : Nat) : Bool :=
  s.flag (fE_EXTREC n) && (f.prog.gen == 2 || f.prog.extReq)

/-! What EMIT forms, row by row. -/

/-- The writes that EMIT has formed: token-vector words and digest bytes by row, records with their slots and addresses, log words, write-backs with their entries, how many rows' records carry `LATE`, the rows that a poisoned spill has made `POISON` (R278, R472), and where the records and log words of each row lie (R313). -/
structure Emission where
  tv   : List Nat
  dig  : List (List Byte)
  recs : List (Nat × Nat × List Byte)
  logs : List (Nat × Nat)
  wbs  : List (Nat × Nat × List Byte)
  late : Nat
  spoiled : List Nat
  spans : List (Nat × Nat × Nat)
deriving DecidableEq, Repr, Inhabited

def Emission.put (e : Emission) (row v : Nat) : Emission := { e with tv := e.tv.set row v }

/-- A request's deadline has passed at the emit count (R273); no deadline is evaluated in a merge group. -/
def State.isLate (s : State) (f : Flight) (n : Nat) : Bool :=
  f.prog.xmerge.isNone && decide (s.getF (fE_DEADLINE n) < f.gEmit)

/-- A token joins its request (R274, R278, R285): `GLEN`, the history, the tail and the stop test. False: its spill met poison. -/
def State.joinToken (s : State) (f : Flight) (n tok : Nat) : State × Bool × Option Nat :=
  let (s, ok) := s.addHist n tok (.emit f.ln) f.who
  if !ok then (s, false, none)
  else
    let s := s.setF (fE_GLEN n) (s.getF (fE_GLEN n) + 1)
    let t := s.stopTest n tok
    (s.pushTail n tok, true, t)

/-- A request that runs stops with a reason; one that is `STOPPING` already is not moved again. True: it moved (R274, R285). -/
def State.stopHere (s : State) (n : Nat) (reason : Option Nat) : State × Bool :=
  match reason with
  | some r => if s.eState n == 2 || s.eState n == 3 then (s.stopReq n r, true) else (s, false)
  | none => (s, false)

/-- Forms the record of a row for its request with every effect on the entry (R273, R274, R278, R285). A poisoned spill makes it the record of a `POISON` row (R278). The flag says that a stop test held, so that no further record of a run follows (R210). -/
def State.formRecord (s : State) (e : Emission) (f : Flight) (row n : Nat) (o : RowOut) (acc : Bool) : State × Emission × Bool :=
  let late := s.isLate f n
  let s := if late then s.callEnd n 6 6 else s
  let e := if late then { e with late := e.late + 1 } else e
  let dropped := late && s.flag (fE_LATEDROP n)
  let pos := (s.getF (fE_PLEN n) + s.getF (fE_GLEN n)) % 2 ^ 32
  let fault (s : State) : State := if s.flag (fE_PRETRY n) then s else s.callEnd n 7 7
  if dropped then ((if o.disp == .poison then fault s else s), e.put row discarded, false)
  else
    let (s, o, ended, stop, spoilt) : State × RowOut × Bool × Bool × Bool :=
      match o.disp, o.token with
      | .poison, _ => (fault s, o, false, false, false)
      | .empty, _ => let r := s.stopHere n (some 4); (r.1, o, false, r.2, false)
      | _, none => (s, o, false, false, false)
      | _, some t =>
        match s.joinToken f n t with
        | (s, false, _) => (s.callEnd n 7 7, { poisonOut f (f.rows.getD row default) with cert := o.cert, trunc := o.trunc }, false, false, true)
        | (s, true, r) => let q := s.stopHere n r; (q.1, o, r.isSome, q.2, false)
    let k := s.getF (fE_PROD n)
    let ext := s.extends f n
    let a := s.getF (fE_RING n) + (if s.flag (fE_EXTREC n) then 128 else 32) * (k % 2 ^ s.getF (fE_RORDER n))
    let s := (s.addMod (fE_PROD n) 1).setF (fE_LASTGC n) (s.gc % 2 ^ 32)
    let v := o.token.getD noToken
    let logs := match o.token with | some t => e.logs ++ [(s.logAddr n pos, t)] | none => e.logs
    let flags (l : Bool) : Nat := recordFlags f.compat o l stop (acc && !spoilt)
    (s, { e with
      tv := e.tv.set row v, logs := logs, spoiled := if spoilt then e.spoiled ++ [row] else e.spoiled
      spans := e.spans ++ (row, a, if ext then 128 else 32) :: (match o.token with | some _ => [(row, s.logAddr n pos, 4)] | none => [])
      recs := e.recs ++ [(n, a, ringRecord f o pos (flags late) f.gEmit ext)]
      dig := e.dig.set row (leBytes 4 v ++ ringRecord f o pos (flags false) 0 ext) }, ended)

/-- The token-vector word of a vacant row (R290). -/
def vacantWord (o : RowOut) : Nat := match o.token with | some t => 0x80000000 + t | none => noToken

/-! Retain rows (R202 to R205). -/

def Retention.blocks (r : Retention) : Nat := ceilDiv (64 + 12 * r.entries.length) 256

/-- Writes the retention of a retain row when the store has the blocks (R204). -/
def State.retain (s : State) (f : Flight) (n : Nat) (r : RowState) (o : RowOut) : State :=
  match o.token with
  | none => s
  | some t =>
    let ids := o.kept.foldl (fun l p => insertId p l) []
    let x : Retention := { slot := n, key := r.key, pos := r.pos, tok := t, working := o.uncert, sigma := o.sigK
                           entries := ids.map fun p => (p.1, cfExpfx f.compat p.2 o.mK) }
    if decide (sumNat (s.rets.map Retention.blocks) + x.blocks ≤ 16384) then State.mend { s with rets := s.rets ++ [x] } fun p => match p with | .retention k _ q => k == x.key && q == x.pos | _ => false
    else s
where
  insertId (p : Nat × F32) : List (Nat × F32) → List (Nat × F32)
    | [] => [p]
    | q :: l => if p.1 < q.1 then p :: q :: l else q :: insertId p l

/-- A retain row at EMIT: its token-vector word, its retention, and the fault of a `POISON` row. -/
def State.emitRetain (s : State) (e : Emission) (f : Flight) (row n : Nat) (r : RowState) (o : RowOut) : State × Emission :=
  if r.vacant then (s, e.put row (vacantWord o))
  else
    let s := if o.disp == .normal then s.retain f n r o else s
    let s := if o.disp == .poison && !s.flag (fE_PRETRY n) then s.callEnd n 7 7 else s
    (s, e.put row (o.token.getD noToken))

/-! Verify runs (R209 to R212). -/

/-- The records of a run from row `j` on, with `n` after it: how many were formed, and whether a stop ended the run. A record that a poisoned spill has made `POISON` is the last too. -/
def State.runRecords (s : State) (e : Emission) (f : Flight) (v : VRun) (slot : Nat) : Nat → Nat → State × Emission × Nat × Bool
  | 0, j =>
    let o := (f.rows.getD (v.row0 + j) default).final f
    let x := s.formRecord e f (v.row0 + j) slot o false
    (x.1, x.2.1, j + 1, x.2.2)
  | n + 1, j =>
    let o := (f.rows.getD (v.row0 + j) default).final f
    let x := s.formRecord e f (v.row0 + j) slot o true
    if x.2.2 then (x.1, x.2.1, j + 1, true)
    else if x.2.1.spoiled.contains (v.row0 + j) then (x.1, x.2.1, j + 1, false)
    else x.1.runRecords x.2.1 f v slot n (j + 1)

/-- `ADAPT` on a request after its run (R212); `cut` says that a stop ended the run before row `NACC`. -/
def State.adapt (s : State) (n : Nat) (v : VRun) (cut : Bool) : State :=
  if v.failed || cut then s
  else if v.rej then
    if v.na = 0 then
      if s.getF (fE_REJRUN n) = 3 then (s.setF (fE_DLIM n) 1).setF (fE_REJRUN n) 0
      else s.setF (fE_REJRUN n) (s.getF (fE_REJRUN n) + 1)
    else s.setF (fE_REJRUN n) 0
  else if v.na < v.deff || v.noret then s
  else if 1 ≤ v.deff then (s.setF (fE_DLIM n) (Nat.min 8 (2 * s.getF (fE_DLIM n)))).setF (fE_REJRUN n) 0
  else s.setF (fE_REJRUN n) 0

/-- `ADAPT` applies to a step (R212). -/
def Flight.adapts (f : Flight) : Bool :=
  (match f.prog.verify with | some (a, _, _, _) => a | none => false) && !f.collected && !f.strict

/-- The write-back of a run (R196). -/
def State.writeBack (s : State) (f : Flight) (v : VRun) : List Byte :=
  let w := f.prog.slots.getD v.row0 8192
  let d := if w < 8192 then s.getF (fE_DLIM w) else 0
  let b (k : Nat) (x : Bool) : Nat := if x then 2 ^ k else 0
  leBytes 1 v.na ++ leBytes 1 v.nemit ++ leBytes 1 d ++
  leBytes 1 (b 0 v.limited + b 1 v.noret + b 2 v.stopped + b 3 v.failed) ++ leBytes 1 v.deff ++ [0, 0, 0]

/-- A run whose spill has met poison (R199, R278, R472; log entry 78, DEDUCED): every row of it is `POISON`, so that its walk ends at the first one, whose record is its only one. -/
def State.emitPoisonRun (s : State) (e : Emission) (f : Flight) (v : VRun) (n : Nat) : State × Emission × VRun :=
  let r := f.rows.getD v.row0 default
  let o := r.final f
  let x := ((s.spillTable n f.who).1.callEnd n 7 7).formRecord e f v.row0 n { poisonOut f r with cert := o.cert, trunc := o.trunc } false
  (x.1, { x.2.1 with spoiled := x.2.1.spoiled ++ (List.range (v.dlen + 1)).map (v.row0 + ·) },
   { v with na := 0, rej := false, nemit := x.2.1.recs.length - e.recs.length, stopped := false })

/-- A run that has bound rows and is not vacant forms its records. -/
def State.emitRecords (s : State) (e : Emission) (f : Flight) (v : VRun) (n : Nat) : State × Emission × VRun × Bool :=
  let x := s.runRecords e f v n v.na 0
  let k := x.2.2.1
  let cut := x.2.2.2 && decide (k ≤ v.na)
  if x.2.1.spoiled.contains (v.row0 + (k - 1)) then
    let y := s.emitPoisonRun e f v n
    (y.1, y.2.1, y.2.2, false)
  else (x.1, x.2.1, { v with
    na := if cut then k else v.na, deff := if cut then Nat.min v.deff k else v.deff
    nemit := x.2.1.recs.length - e.recs.length, stopped := x.2.2.2 }, cut)

/-- A run at EMIT: its records, the entry's draft length, its retentions freed. Rows after row `NACC` stay discarded. -/
def State.emitRun (s : State) (e : Emission) (f : Flight) (v : VRun) : State × Emission × VRun :=
  let r := f.rows.getD v.row0 default
  let out (j : Nat) : RowOut := (f.rows.getD (v.row0 + j) default).final f
  match r.slot with
  | none => (s, e.put v.row0 noToken, { v with na := 0 })
  | some n =>
    if r.vacant then
      ((s.freeRets n), (List.range (v.na + 1)).foldl (fun e j => e.put (v.row0 + j) (vacantWord (out j))) e, v)
    else
      let (s, e', w, cut) := s.emitRecords e f v n
      let s := s.freeRets n
      (if f.adapts then s.adapt n { v with na := w.na, rej := w.rej } cut else s, e', w)

/-- One row, or the run that starts at it. Where failing entries overlap (R197), a row that several name belongs to the first of them in the table, so that a run whose `ROW0` is a later row of another one writes no record (log entry 78, DEDUCED). -/
def State.emitRow (x : State × Emission × List VRun) (f : Flight) (i : Nat) (r : RowState) : State × Emission × List VRun :=
  let (s, e, runs) := x
  let o := r.final f
  match unitOf f.runs i with
  | some v =>
    if v.row0 = i then
      let y := s.emitRun e f v
      (y.1, y.2.1, runs.map fun u => if u.index = v.index then y.2.2 else u)
    else x
  | none =>
    match r.slot with
    | none => (s, e.put i noToken, runs)
    | some n =>
      if f.prog.retain then let y := s.emitRetain e f i n r o; (y.1, y.2, runs)
      else if r.vacant then (s, e.put i (vacantWord o), runs)
      else let y := s.formRecord e f i n o false; (y.1, y.2.1, runs)

/-! Ring space. -/

/-- Ring slots that a step reserved at its snapshot: slot and count (R286). -/
def Flight.reservations (f : Flight) : List (Nat × Nat) :=
  if f.prog.retain then []
  else f.rows.zipIdx.filterMap fun q =>
    match q.1.slot with
    | none => none
    | some n =>
      if !q.1.snapped || q.1.vacant then none
      else match unitOf f.runs q.2 with
        | none => some (n, 1)
        | some v => if q.2 = v.row0 || (f.rows.getD v.row0 default).slot != some n then some (n, v.dlen + 1) else none

/-- Returns the reserved ring slots of a step. -/
def State.releaseRings (s : State) (f : Flight) : State :=
  f.reservations.foldl (fun s p => s.setReq p.1 { s.req p.1 with reserved := (s.req p.1).reserved - p.2 }) s

/-- The most records that a step may write to each of its requests: 1, or `NACC` + 1. -/
def Flight.recordsFor (f : Flight) : List (Nat × Nat) :=
  if f.prog.retain then []
  else f.rows.zipIdx.filterMap fun q =>
    match q.1.slot with
    | none => none
    | some n =>
      if q.1.vacant then none
      else match unitOf f.runs q.2 with
        | none => some (n, 1)
        | some v => if q.2 = v.row0 then some (n, v.na + 1) else none

/-- The records of a writing chip fit their rings by the kept `CONS` (R286). Outside a merge group the snapshot has seen to it. -/
def State.ringsFit (s : State) (f : Flight) : Bool :=
  f.prog.xmerge.isNone || !f.writes ||
  f.recordsFor.all fun p => decide (s.getF (fE_PROD p.1) + p.2 ≤ 2 ^ s.getF (fE_RORDER p.1) + (s.req p.1).cons)

/-! EMIT. -/

/-- Writes `PROD` of a request of a step, once its records are acknowledged (R291). -/
def State.writeProd (s : State) (ln n : Nat) : State :=
  s.writeHost (s.getF (fE_CB n)) (leBytes 8 (s.getF (fE_PROD n))) (.prod ln n)

/-- Some ring record of a step to a request is not acknowledged. -/
def State.recsOpen (s : State) (ln n : Nat) : Bool := s.out.any fun o => o.why == .ringRec ln n

/-- Where EMIT writes for each row: its token-vector word, records, log words and write-back (R291, R313). -/
def Emission.writesOf (e : Emission) (f : Flight) : List (Nat × Nat × Nat) :=
  let vt := match f.prog.verify with | some (_, _, _, t) => t | none => 0
  ((List.range f.prog.rows).map fun i => (i, f.prog.tv + 4 * i, 4)) ++ e.spans ++ e.wbs.map fun b => (b.2.1, vt + 64 * b.1 + 40, 8)

/-- A token-log word is the chip's own; the other writes of a step are those of chips with `WRITE` (R193, R277). -/
def State.issueEmission (s : State) (f : Flight) (e : Emission) : State :=
  let w := f.writes
  let s := if w then s.writeHost f.prog.tv (e.tv.flatMap (leBytes 4)) (.emit f.ln) else s
  let s := if w then e.recs.foldl (fun s r => s.writeHost r.2.1 r.2.2 (.ringRec f.ln r.1)) s else s
  let s := e.logs.foldl (fun s l => s.writeHost l.1 (leBytes 4 l.2) (.emit f.ln)) s
  let vt := match f.prog.verify with | some (_, _, _, t) => t | none => 0
  let s := if w then e.wbs.foldl (fun s b => s.writeHost (vt + 64 * b.1 + 40) b.2.2 (.emit f.ln)) s else s
  if w then ((e.recs.map (·.1)).eraseDups).foldl (fun s n => if s.recsOpen f.ln n then s else s.writeProd f.ln n) s else s

/-- EMIT of a step whose records fit: every row in order, then the writes of R291. -/
def State.emitNow (s : State) (f : Flight) : State :=
  let n := f.prog.rows
  let e0 : Emission := ⟨List.replicate n discarded, List.replicate n [], [], [], [], 0, [], []⟩
  let s := s.releaseRings f
  let (s, e, runs) := f.rows.zipIdx.foldl (fun x q => State.emitRow x f q.2 q.1) (s, e0, f.runs)
  let e := { e with wbs := runs.map fun v => (v.index, v.row0, s.writeBack f v) }
  let digOf (i : Nat) : List Byte :=
    let d := e.dig.getD i []
    (if d.isEmpty then leBytes 4 (e.tv.getD i 0) else d) ++ (e.wbs.filter fun b => b.2.1 == i).flatMap (·.2.2)
  let s := s.issueEmission f e
  match s.flight f.ln with
  | none => s
  | some g => s.setFlight { g with
      rows := g.rows.zipIdx.map fun q => if e.spoiled.contains q.2 then { q.1 with out := some (poisonOut f q.1), merged := none } else q.1
      emitted := true, emitting := true, runs := runs, gEmit := f.gEmit, gcDone := s.gc, nLate := e.late
      writesOf := e.writesOf f
      rowBytes := if f.writes then (List.range n).map digOf else [] }

/-- A step may begin EMIT: selected, merged, verified, with its reference values (R291). -/
def Flight.emitReady (f : Flight) : Bool :=
  !f.past && !f.prog.isScore && f.selected && f.merged && (f.prog.verify.isNone || f.verified) && (!f.prog.paired || f.klDone) && !f.emitted

/-- EMIT (R291). On a writing chip of a merge group it waits while a ring is full (R286). -/
def execEmit (ln : Nat) (s : State) : Host.Outcome State Fault Refusal :=
  match s.flight ln with
  | none => .next s
  | some f =>
    if !f.emitReady || !s.unitTurn ln Flight.emitReady then .next s
    else
      let f := if f.emitting then f else { f with emitting := true, gEmit := s.gc }
      if s.ringsFit f then .next (s.emitNow f) else .next (s.setFlight f)

/-- EMIT_CONS_RETRY (R286): the waiting EMIT reads `CONS` of its requests again in their order (R276), and goes on when the records fit. -/
def execEmitConsRetry (ln : Nat) (s : State) : Host.Outcome State Fault Refusal :=
  match s.flight ln with
  | none => .next s
  | some f =>
    if !f.emitReady || !f.emitting || s.ringsFit f then .next s
    else
      let s := (s.byEprio (f.recordsFor.map (·.1))).foldl (fun s n => s.rereadCons n f.who) s
      if s.ringsFit f then .next (s.emitNow f) else .next s

/-! COMPLETION_STATUS. -/

/-- A count of rows in a 16-bit field. -/
def rowCount (f : Flight) (p : RowState → Bool) : List Byte := leBytes 2 (f.rows.countP p)

/-- The completion status (R311); `CYCLES` is elapsed time, a free value. -/
def statusBytes (f : Flight) (fr : Nat) : List Byte :=
  let b (k : Nat) (x : Bool) : Nat := if x then 2 ^ k else 0
  let score := f.prog.isScore
  let early := f.cstat == 1
  let norm := f.normal.isSome
  let refused := f.cstat == 3
  let out (p : RowOut → Bool) (r : RowState) : Bool := p (r.final f)
  let mode := b 0 f.twice + b 1 f.compat + b 2 f.strict + b 3 f.collected + b 4 (f.tb != 0) + b 5 score + b 6 f.prog.paired + b 7 norm
  leBytes 4 f.prog.stepId ++ leBytes 1 f.queue ++ leBytes 1 f.cstat ++ leBytes 1 mode ++ leBytes 1 (if norm then 0 else f.prog.prec) ++
  leBytes 4 f.tepoch ++ leBytes 4 (if norm then 0 else f.view.epoch) ++ leBytes 8 f.gcLaunch ++ leBytes 8 f.gcDone ++
  leBytes 4 (Config.free32 fr).toNat ++ leBytes 2 (if norm || refused then 0 else f.prog.rows) ++
  rowCount f (out (·.uncert)) ++ rowCount f (fun r => !(early && r.vacant) && out (·.disp == .poison) r) ++ rowCount f (out fun o => o.disp == .empty) ++
  rowCount f (·.vacant) ++ leBytes 2 f.nLate ++ leBytes 4 (sumNat (f.rows.map fun r => r.ref.length)) ++
  leBytes 4 f.eEst ++ leBytes 1 (if norm then 0 else f.clusters.length) ++ leBytes 1 f.tb ++ List.replicate 6 0

/-- The step completes for its requests (R272 to R275, R292, R478): `INFL` falls, end states take effect, complete blocks wait for Yarrow, the `ROW` records are posted. -/
def State.finishStep (s : State) (f : Flight) : State :=
  let slots := f.rows.filterMap fun r => if r.bound then r.slot else none
  let s := slots.foldl (fun s n => s.setF (fE_INFL n) (s.getF (fE_INFL n) - 1)) s
  let s := slots.eraseDups.foldl (fun s n =>
    (s.queueBlocks n (s.getF (fE_PLEN n) + s.getF (fE_GLEN n))).settle n (if f.writes then some (.emit f.ln) else none)) s
  let s := [1, 2, 3, 4, 5].foldl (fun s c => s.closeWindow (.rowCode f.ln c)) s
  match s.flight f.ln with
  | none => s
  | some g => s.setFlight { g with complete := true }

/-- Every earlier step and NORMAL of the queue has written its status (R310). -/
def State.statusTurn (s : State) (f : Flight) : Bool :=
  s.flights.all fun g => decide (f.ln ≤ g.ln) || g.queue != f.queue

/-- The digest of a step that has one is done (R310, R433). -/
def Flight.digestOver (f : Flight) : Bool := f.prog.digest.isNone || f.digested || f.cstat == 1 || f.cstat == 3

/-- Writes the completion status (R310, R311): `DONE` rises, the place is free. -/
def State.writeStatus (s : State) (f : Flight) : State :=
  let st := statusBytes f s.freeCtr
  let s := (s.bump.writeHost f.prog.cpl st .plain).addMod (fQ_DONE f.queue) 1
  let s := s.mend fun p => partStep p == some f.ln
  { s with
    flights := s.flights.filter fun g => g.ln != f.ln
    far := { s.far with steps := s.far.steps + 1, rows := s.far.rows + f.rows.length } }

/-- The step completes for its requests once the writes of steps 1 to 4 of R291 are acknowledged: its `NOTE` words, step 5, go out. -/
def State.closeEmit (s : State) (f : Flight) : State := if f.complete then s else s.finishStep f

/-- COMPLETION_STATUS (R310): once EMIT is complete the step completes for its requests; its status follows when their `NOTE` words are acknowledged, its digest is done and every earlier step of its queue has written its own. -/
def execCompletionStatus (ln : Nat) (s : State) : Host.Outcome State Fault Refusal :=
  match s.flight ln with
  | none => .next s
  | some f =>
    if !s.emitOver f then .next s
    else
      let s := s.closeEmit f
      match s.flight ln with
      | none => .next s
      | some g => if s.flightQuiet ln && g.digestOver && s.statusTurn g then .next (s.writeStatus g) else .next s

end Sys2Proof.Machine
end

