-- ==== Sys2Proof/Machine/Merge.lean ====
section
/-! DEFINITION. Chip groups (R182 to R194, R248, R249, R259): the records of a merge round, their delivery, and the merged decision. -/

namespace Sys2Proof.Machine

/-! Records. -/

/-- Disposition codes of the merge records (R185). -/
def Disp.code : Disp → Nat
  | .normal => 0 | .tie => 1 | .empty => 2 | .poison => 3
def dispOfCode : Nat → Disp
  | 0 => .normal | 1 => .tie | 2 => .empty | _ => .poison

def f32Bytes (x : F32) : List Byte := leBytes 4 x.toNat
def f32At (a : Array Byte) (o : Nat) : F32 := BitVec.ofNat 32 (leAt a o 4)

/-- What one chip sends of a step in one round: its group, its round number and its place. -/
structure MergeCtx where
  g     : GroupDesc
  ext   : Bool
  two   : Bool
  kmax  : Nat
  rnd   : Nat
  round : Nat
deriving Repr

/-- The merge context of round `k` of a step. -/
def mergeCtx (f : Flight) (k : Nat) : Option MergeCtx :=
  match f.prog.xmerge, f.prog.group with
  | some (ext, _, rounds, kmax, rnd, _), some g => some ⟨g, ext, rounds == 2, kmax, rnd + k, k⟩
  | _, _ => none

/-- Slot size of the round (R184, R248). -/
def MergeCtx.slot (m : MergeCtx) (p : StepProg) : Nat := mergeSlot p m.ext (if m.two then 2 else 1) m.kmax m.round

/-- This chip's window as the descriptor gives it. -/
def GroupDesc.win (g : GroupDesc) (c : Nat) : Nat × Nat := (g.peers.getD c (0, 0, 0, 0)).2.2

/-- a_c and μ_c of a part (R187). -/
def partStats (f : Flight) (r : RowState) : Option (F32 × F32) :=
  match r.scr with
  | none => none
  | some scr =>
    let st := rowStats f r scr
    some (partA st.mStar st.sStar, ((XR.of st.mStar).sub (.fin ⟨st.mom, Nat.max 1 st.sStar⟩)).toF32 .even)

/-- The working token of an id. -/
def workTokOf (c : SelCtx) (r : RowState) (id : Nat) : Option Tok := (r.work c).find? fun t => t.id == id

/-- The main working score of the scored token in this window, as the extension sends it (R248), whatever the part's disposition; a token that takes no part sends −inf, an odd one a NaN. -/
def sentZ (c : SelCtx) (r : RowState) (o : RowOut) : F32 :=
  match reportTok r o with
  | none => fNan
  | some id =>
    match workTokOf c r id with
    | none => fNan
    | some t => if o.tokOdd || (F32.isNan t.z0 && (t.pois || !c.nanMask)) then fNan else if o.tokOut then fNinf else asScore t.z0

/-- Its reference working score, likewise: a NaN that masks is sent as −inf, one that counts as a NaN. -/
def sentZr (c : SelCtx) (r : RowState) (o : RowOut) : F32 :=
  match (reportTok r o).bind fun id => (r.refWork c).find? fun t => t.id == id with
  | some t => if F32.isNan t.z0 then (if t.pois || !c.nanMask then fNan else fNinf) else t.z0
  | none => fNan

/-- A word of this chip's record of row `i` for which the spec states no value: a free value of the step and the chip (log entry 126). -/
def openWord (f : Flight) (m : MergeCtx) (k i : Nat) : BitVec 32 := Config.stepWord f.prog.stepId (16 + k) (2 ^ 16 * m.g.self + i)

/-- The reference extension of a record (R248); `free` numbers the value that the spec leaves open. -/
def refExtension (f : Flight) (c : SelCtx) (r : RowState) (o : RowOut) (free : BitVec 32) : List Byte :=
  match r.scr with
  | none => padTo 32 (f32Bytes fNinf ++ f32Bytes free ++ f32Bytes fNan ++ f32Bytes fNan ++ leBytes 1 3)
  | some scr =>
    let p := refPart f c r scr
    let shown := r.entry.isSome || !r.serve
    padTo 32 (f32Bytes (if p.disp == .normal then partA p.st.mStar p.st.sStar else fNinf) ++
      f32Bytes (if o.disp == .normal then rne32 p.xd else free) ++
      f32Bytes (if shown then sentZ c r o else fNan) ++ f32Bytes (if shown then sentZr c r o else fNan) ++
      leBytes 1 p.disp.code ++ leBytes 1 (if p.wide then 1 else 0))

def maybeRef (f : Flight) (c : SelCtx) (r : RowState) (o : RowOut) (free : BitVec 32) : List Byte :=
  if f.prog.paired then refExtension f c r o free else []

/-- The first 12 bytes of every record. -/
def recHead (m : MergeCtx) (b9 b10 b11 : Nat) : List Byte :=
  leBytes 4 (m.rnd % 2 ^ 32) ++ leBytes 4 m.g.mgId ++ leBytes 1 m.g.self ++ leBytes 1 b9 ++ leBytes 1 b10 ++ leBytes 1 b11

/-- The ROLLOUT record of a row (R185). Words for which the spec states no value are free. A `POISON` part names no token and lists no pairs (log entry 148, DESIGN CHOICE). -/
def rolloutRecord (f : Flight) (m : MergeCtx) (i : Nat) (r : RowState) : List Byte :=
  let c := rowCtx f r
  let o := r.part f
  let fw (k : Nat) : BitVec 32 := openWord f m k i
  let win := o.token.bind (workTokOf c r)
  let w := m.g.win m.g.self
  let normal := o.disp == .normal
  let st := partStats f r
  let pairs := match r.scr with
    | some scr => if o.disp == .poison then [] else (byScore (workPool c r scr)).map fun t => (t.id, t.z0)
    | none => []
  recHead m o.disp.code (if o.uncert then 1 else 0) (Nat.min 255 r.ref.length) ++
  leBytes 4 (o.token.getD 0xFFFFFFFF) ++
  f32Bytes (match win with | some t => F32.add .even t.z0 (tokG c t) | none => fw 0) ++
  f32Bytes (match win with | some t => t.z0 | none => fw 1) ++
  f32Bytes (if normal then (match st with | some x => x.1 | none => fNinf) else fNinf) ++
  f32Bytes (if normal then (match st with | some x => x.2 | none => fw 2) else fw 2) ++
  leBytes 4 o.tieN ++ leBytes 4 (if o.tieN = 0 then 0xFFFFFFFF else o.token.getD 0xFFFFFFFF) ++
  f32Bytes (if o.tieN = 0 then fw 3 else match win with | some t => tokG c t | none => fw 3) ++
  leBytes 4 w.1 ++ leBytes 4 w.2 ++ List.replicate 12 0 ++
  (if m.ext then padTo 128 ((topPairs pairs).flatMap fun p => leBytes 4 p.1 ++ f32Bytes p.2) else []) ++
  maybeRef f c r o (fw 4)

/-- The entries of a SERVE row's first record (R188): the local set in rank order, or the lowest tie tokens, with whether KMAX cut the set. -/
def localEntries (f : Flight) (kmax : Nat) (r : RowState) : List UEnt × Bool :=
  let c := rowCtx f r
  let o := r.part f
  match r.scr with
  | none => ([], false)
  | some scr =>
    if o.disp == .tie then
      let ties := (tieSet c r).filter fun t => scr.pool.any fun p => p.id == t.id
      ((ties.take (Nat.min (Nat.min o.tieN c.kEff) kmax)).map fun t => ⟨t.id, isRefined r.ref t.id, true, fPinf, fPinf, fPinf⟩, false)
    else if o.disp == .normal then
      let l := byScore ((o.kept.map (·.1)).filterMap (workTokOf c r))
      ((l.take kmax).map fun t => ⟨t.id, isRefined r.ref t.id, false, t.lo, t.hi, t.z0⟩, decide (kmax < l.length))
    else ([], false)

def entBytes (e : UEnt) : List Byte :=
  leBytes 3 e.id ++ leBytes 1 ((if e.ref then 1 else 0) + (if e.tie then 2 else 0)) ++ f32Bytes e.lo ++ f32Bytes e.hi ++ f32Bytes e.z

def entOf (a : Array Byte) (o : Nat) : UEnt :=
  { id := leAt a o 3, ref := byteAt a (o + 3) % 2 == 1, tie := byteAt a (o + 3) / 2 % 2 == 1, lo := f32At a (o + 4), hi := f32At a (o + 8)
    z := f32At a (o + 12) }

/-- The first-round record of a SERVE row (R188). -/
def serveRecord (f : Flight) (m : MergeCtx) (r : RowState) : List Byte :=
  let c := rowCtx f r
  let o := r.part f
  let e := localEntries f m.kmax r
  let w := m.g.win m.g.self
  let mc := match r.scr with | some scr => maxF ((workPool c r scr).map (·.z0)) | none => fNinf
  recHead m o.disp.code ((if o.uncert then 1 else 0) + (if e.2 then 2 else 0)) (Nat.min 255 r.ref.length) ++
  leBytes 2 e.1.length ++ [0, 0] ++ f32Bytes mc ++ leBytes 4 o.tieN ++ leBytes 4 w.1 ++ leBytes 4 w.2 ++ e.1.flatMap entBytes

/-- The second-round record of a SERVE row (R189). A refined score that is a masking NaN is sent as −inf, so that every chip sees what the refining one does (R193; log entry 76). -/
def secondRecord (f : Flight) (m : MergeCtx) (i : Nat) (r : RowState) : List Byte :=
  let c := rowCtx f r
  let o := r.part f
  let l := r.plan2.filterMap fun id => r.ref.find? fun x => x.id == id
  let st := partStats f r
  let normal := o.disp == .normal
  recHead m l.length r.nref2 0 ++
  f32Bytes (if normal then (match st with | some x => x.1 | none => fNinf) else fNinf) ++
  f32Bytes (if normal then (match st with | some x => x.2 | none => fNinf) else openWord f m 5 i) ++
  List.replicate 12 0 ++ (l.flatMap fun x => leBytes 4 x.id ++ f32Bytes (if F32.isNan x.z && c.nanMask && !x.pois then fNinf else x.z)) ++ maybeRef f c r o (openWord f m 6 i)

/-- The record of row `i` in a round; a ROLLOUT row sends none in a second round. -/
def mergeRecord (f : Flight) (m : MergeCtx) (i : Nat) (r : RowState) : List Byte :=
  if !r.serve then (if m.round = 0 then rolloutRecord f m i r else [])
  else if m.round = 0 && m.two then serveRecord f m r
  else if m.round = 0 then rolloutRecord f m i r
  else secondRecord f m i r

/-! Delivery (R191). -/

/-- Where chip `c`'s record of row `r` lies in a receive area (R184). -/
def MergeCtx.place (m : MergeCtx) (p : StepProg) (base c r : Nat) : Nat :=
  base + m.rnd % 2 * (m.g.rxBytes / 2) + (c * p.rows + r) * m.slot p

/-- Writes this chip's records of a round into one receive area, on VC2 of the H-port (R372, R383). -/
def State.sendTo (s : State) (m : MergeCtx) (f : Flight) (recs : List (List Byte)) (base : Nat) : State :=
  recs.zipIdx.foldl (fun s q => s.writeBy (some .hport) 2 (m.place f.prog base m.g.self q.2) q.1 (.merge f.ln m.round)) s

/-- Every write of a round is acknowledged: 1 is added to each chip's `XM_CNT` (R191). -/
def State.mergeCounts (s : State) (ln round : Nat) : State :=
  match s.flight ln with
  | none => s
  | some f =>
    match mergeCtx f round with
    | none => s
    | some m => m.g.peers.foldl (fun s q => s.sendAtom 2 1 q.2.1 1 (.mergeCnt ln round)) s

/-- XMERGE (R191): the next round's records go to every chip of the group, once this chip's round before it is complete. A round in which no row has a record has no write to wait for, and counts at once. -/
def execXmerge (ln : Nat) (s : State) : Host.Outcome State Fault Refusal :=
  match s.flight ln with
  | none => .next s
  | some f =>
    match mergeCtx f f.mrSent with
    | none => .next s
    | some m =>
      if f.past || f.emitted || !(f.selected || f.scored) || (f.prog.paired && !f.klDone) || f.mrSent != f.mrDone || f.merged ||
          decide (s.getF fXM_CNT < (m.rnd - 1) * m.g.c) then .next s
      else
        let recs := f.rows.zipIdx.map fun q => mergeRecord f m q.2 q.1
        let s := (m.g.peers.foldl (fun s q => s.sendTo m f recs q.1) s).setFlight { f with mrSent := f.mrSent + 1 }
        .next (if recs.all (·.isEmpty) then s.mergeCounts ln f.mrSent else s)

/-! Merging (R186, R187, R190, R249). -/

/-- A record as this chip reads it: its bytes, and whether a granule came poisoned. -/
def State.mergeRead (s : State) (m : MergeCtx) (f : Flight) (c r : Nat) : State × Array Byte × Bool :=
  let x := s.readHost 5 1 (m.place f.prog m.g.rxBase c r) (m.slot f.prog) f.who r
  (x.1, x.2.1.toArray, x.2.2)

/-- The first field of a record that breaks R192, by its number of R477; `wo` is where its window stands. -/
def mergeBad (m : MergeCtx) (c : Nat) (wo : Option Nat) (a : Array Byte) (pois : Bool) : Option Nat :=
  let w := m.g.win c
  if pois || leAt a 0 4 != m.rnd % 2 ^ 32 then some 0
  else if leAt a 4 4 != m.g.mgId then some 1
  else if byteAt a 8 != c then some 2
  else match wo with
    | some o => if leAt a o 4 != w.1 || leAt a (o + 4) 4 != w.2 then some 3 else none
    | none => none

/-- Reads the records of a row from every chip; none when one fails its checks, each of which posts `MERGE_MISMATCH`. -/
def State.mergeRow (s : State) (m : MergeCtx) (f : Flight) (i : Nat) (wo : Option Nat) : State × Option (List (Array Byte)) :=
  (List.range m.g.c).foldl (fun (x : State × Option (List (Array Byte))) c =>
    let (s, a, pois) := x.1.mergeRead m f c i
    match mergeBad m c wo a pois with
    | some k =>
      (s.post { s.event 8 1 1 [(36, leBytes 1 c), (37, leBytes 1 k), (40, leBytes 4 (m.rnd % 2 ^ 32))] with
        stepId := f.prog.stepId, queue := f.queue, row := i }, none)
    | none => (s, x.2.map fun l => l ++ [a])) (s, some [])

/-- The disposition of the group (R135). -/
def groupDisp (l : List Disp) : Disp :=
  if l.contains .poison then .poison else if l.contains .tie then .tie else if l.contains .normal then .normal else .empty

/-- What the group's partitions come to (R187, R249): (a_c, μ_c) and (ar_c, XD_c) of the chips whose part is `NORMAL`. -/
def groupSums (compat : Bool) (l : List (F32 × F32)) (rl : List (F32 × F32)) : MergeSum :=
  let a := maxF (l.map (·.1))
  let ar := maxF (rl.map (·.1))
  { a := a, s := sumNat (l.map fun x => cfExpfx compat x.1 a), ar := ar, sr := sumNat (rl.map fun x => cfExpfx compat x.1 ar) }

/-- H of the group (R187). -/
def groupEnt (compat : Bool) (g : MergeSum) (l : List (F32 × F32)) : F32 :=
  let x : XR := (l.map fun p => (XR.of p.2).mul (.fin ⟨cfExpfx compat p.1 g.a, g.s⟩)).foldl XR.add (.fin ⟨0, 1⟩)
  (((XR.of g.a).add (.fin (fixedLog g.s))).sub x).toF32 .even

/-- KL of the group (R249). -/
def groupKl (compat : Bool) (g : MergeSum) (l : List (F32 × F32)) (rl : List (F32 × F32)) : F32 :=
  let x : XR := (List.zipWith (fun p q => (XR.of q.2).mul (.fin ⟨cfExpfx compat p.1 g.a, g.s⟩)) l rl).foldl XR.add (.fin ⟨0, 1⟩)
  nonNeg (((((x.sub (XR.of g.a)).sub (.fin (fixedLog g.s))).add (XR.of g.ar)).add (.fin (fixedLog g.sr))).toF32 .even)

/-- The reference extensions of a row's records: AR_C, XD_C, TOK_Z, TOK_ZR, RDISP, KL_OVER. -/
structure RefExt where
  ar   : F32
  xd   : F32
  tokZ : F32
  tokR : F32
  disp : Disp
  wide : Bool
deriving DecidableEq, Repr, Inhabited

def refExtAt (a : Array Byte) (o : Nat) : RefExt :=
  { ar := f32At a o, xd := f32At a (o + 4), tokZ := f32At a (o + 8), tokR := f32At a (o + 12), disp := dispOfCode (byteAt a (o + 16))
    wide := byteAt a (o + 17) % 2 == 1 }

/-- What every chip has sent of a row by its last round. -/
structure Parts where
  disps : List Disp
  sums  : List (F32 × F32)
  exts  : List RefExt
deriving Repr

/-- Values of the chips whose part is `NORMAL`. -/
def Parts.normal {α : Type} (p : Parts) (l : List α) : List α := (List.zip p.disps l).filterMap fun x => if x.1 == .normal then some x.2 else none

/-- The chip whose window holds an id. -/
def GroupDesc.owner (g : GroupDesc) (id : Nat) : Nat := ((List.range g.c).find? fun c => decide ((g.win c).1 ≤ id ∧ id < (g.win c).2)).getD 0

/-- The merged decision: the token and its working score where it is known, the pairs exchanged, the kept set. -/
structure Merged where
  token  : Option Nat
  z      : Option F32
  chip   : Nat
  tieN   : Nat
  uncert : Bool
  nref   : Nat
  pairs  : List (Nat × F32)
  kept   : List (Nat × F32)
  known  : Nat → Option F32

/-- The working score of the reported token in a merge: of the emitted token, its own; of `TOKEN`, from its chip's extension, or where the exchange names it. A score that nothing exchanged is a free value of the step, the same on every chip, `TOKEN`'s own one too (R193; log entry 126). -/
def reportZ (f : Flight) (m : MergeCtx) (r : RowState) (x : Merged) (exts : List RefExt) (i : Nat) : F32 :=
  match r.entry with
  | none => x.z.getD fNan
  | some e =>
    if f.prog.paired then (exts.getD (m.g.owner e.token) default).tokZ
    else (x.known e.token).getD (Config.stepWord f.prog.stepId 8 i)

/-- LP and LP2 of a SERVE row against its kept set (R176, R237). -/
def keptLp (compat : Bool) (kept : List (Nat × F32)) (tok : Option Nat) (z : F32) : F32 :=
  let (mk, sk) := keptSum compat kept
  if kept.any (fun p => some p.1 == tok) then logprobOf z mk sk else fNinf

/-- A merged row (R186, R187, R190, R249, R259). The LP_REF of a `TIE` row in which no chip's main part is `NORMAL`, which R249 does not give, is a free value of what every chip knows of it, so that a replay has the same one (R241; log entry 127). -/
def mergedOut (f : Flight) (m : MergeCtx) (i : Nat) (r : RowState) (p : Parts) (x : Merged) (d : Disp) : RowOut :=
  let base := { blankOut f r with cert := certByte f r.serve x.nref }
  let fw (k : Nat) : F32 := Config.stepWord f.prog.stepId k i
  let score := r.entry.isSome
  let tok := match r.entry with | some e => some e.token | none => x.token
  match d with
  | .poison => { base with disp := .poison, uncert := x.uncert }
  | .empty => { base with disp := .empty, lp := fNinf, lp2 := fNinf, notKept := score && r.serve, uncert := x.uncert }
  | .tie =>
    let n := x.tieN
    let z := reportZ f m r x p.exts i
    let lpn := negLn f.compat n
    let unknown := score && !f.prog.paired && (x.known (tok.getD 0)).isNone
    let odd := score && F32.isNan z
    let lp := if !score then lpn else if odd then fNan else if unknown then fw 9 else if z == fPinf then lpn else fNinf
    let inKept := (x.kept.any fun q => some q.1 == tok) && z != fNinf
    let lp2 := if !r.serve then lp else if odd then fNan
      else if !score || inKept then negLn f.compat (Nat.min n (rowCtx f r).kEff) else fNinf
    let rd := groupDisp (p.exts.map (·.disp))
    let o := { base with
      disp := .tie, token := x.token, lp := lp, lp2 := lp2, ent := lnCount f.compat n, tieN := n, uncert := x.uncert, tokOdd := odd
      notKept := score && r.serve && !inKept, kept := x.kept
      top := topPairs (x.pairs.map fun q => (q.1, if q.2 == fPinf then lpn else fNinf)) }
    if !f.prog.paired then o
    else if rd != .normal then genRef r { o with refDisp := true }
    else
      let rl := (p.normal p.exts).map fun e => (e.ar, e.xd)
      let g := groupSums f.compat (p.normal p.sums) rl
      let zr := (p.exts.getD (if score then m.g.owner (tok.getD 0) else x.chip) default).tokR
      let wide := p.exts.any (·.wide)
      genRef r { o with
        kl := if odd then fNan else if wide then fPinf else if rl.isEmpty then fw 10 else groupKl f.compat g (p.normal p.sums) rl
        lpRef := if odd then fNan else if rl.isEmpty then Config.lpOfRef zr (p.exts.map (·.ar)) else logprobOf zr g.ar g.sr, klOver := wide && !odd }
  | .normal =>
    let l := p.normal p.sums
    let rl := (p.normal p.exts).map fun e => (e.ar, e.xd)
    let g := groupSums f.compat l rl
    let z := reportZ f m r x p.exts i
    let lp := logprobOf z g.a g.s
    let inKept := x.kept.any fun q => some q.1 == tok
    let odd := score && F32.isNan z
    let (mk, sk) := keptSum f.compat x.kept
    let lp2 := if !r.serve then lp else if odd then fNan else if z == fNinf then fNinf else keptLp f.compat x.kept tok z
    let o := { base with
      disp := .normal, token := x.token, lp := lp, lp2 := lp2, ent := groupEnt f.compat g l, uncert := x.uncert, tokOdd := odd
      notKept := score && r.serve && (!inKept || z == fNinf), kept := x.kept, mK := mk, sigK := sk, mg := some g
      top := topPairs (x.pairs.map fun q => (q.1, logprobOf q.2 g.a g.s)) }
    if !f.prog.paired then o
    else if groupDisp (p.exts.map (·.disp)) != .normal then genRef r { o with refDisp := true }
    else
      let infl := p.exts.any (·.wide)
      let chip := if score then m.g.owner (tok.getD 0) else x.chip
      let zr := (p.exts.getD chip default).tokR
      genRef r { o with
        kl := if odd then fNan else if infl then fPinf else groupKl f.compat g l rl
        lpRef := if odd then fNan else logprobOf zr g.ar g.sr, klOver := infl && !odd }

/-! ROLLOUT rows. -/

/-- The best of a list by a rank key, then by lowest id. -/
def bestOf (l : List (Nat × F32 × Nat)) : Option (Nat × F32 × Nat) :=
  (insSort (fun p q => decide (orderKey q.2.1 < orderKey p.2.1) || (orderKey p.2.1 == orderKey q.2.1 && decide (p.1 ≤ q.1))) l).head?

/-- Pairs ranked by working score (R134). -/
def rankPairs (l : List (Nat × F32)) : List (Nat × F32) :=
  insSort (fun p q => decide (orderKey q.2 < orderKey p.2) || (orderKey p.2 == orderKey q.2 && decide (p.1 ≤ q.1))) l

/-- Merges a ROLLOUT row from the records of its chips (R186). The tokens exchanged are the listed pairs, `WIN_ID` and `TIE_ID` (R180). -/
def mergeRollout (f : Flight) (m : MergeCtx) (i : Nat) (r : RowState) (recs : List (Array Byte)) : RowOut :=
  let disps := recs.map fun a => dispOfCode (byteAt a 9)
  let d := groupDisp disps
  let exts := if f.prog.paired then recs.map fun a => refExtAt a (if m.ext then 192 else 64) else []
  let wins := recs.zipIdx.filterMap fun q =>
    if dispOfCode (byteAt q.1 9) == .normal && leAt q.1 12 4 != 0xFFFFFFFF then some (leAt q.1 12 4, f32At q.1 16, q.2) else none
  let ties := recs.zipIdx.filterMap fun q =>
    if leAt q.1 32 4 != 0 then some (leAt q.1 36 4, if r.pb.greedy then 0 else f32At q.1 40, q.2) else none
  let best := if d == .tie then bestOf ties else bestOf wins
  let chip := match best with | some b => b.2.2 | none => 0
  let z := match best with | some b => if d == .tie then some fPinf else some (f32At (recs.getD b.2.2 #[]) 20) | none => none
  let listed := if m.ext then (recs.flatMap fun a => (List.range 12).map fun k => (leAt a (64 + 8 * k) 4, f32At a (68 + 8 * k))).filter
      fun p => p.1 != 0xFFFFFFFF
    else []
  let named := recs.flatMap fun a => [(leAt a 12 4, f32At a 20), (leAt a 36 4, fPinf)].filter fun p => p.1 != 0xFFFFFFFF
  let pairs := named.foldl (fun l p => if l.any fun q => q.1 == p.1 then l else l ++ [p]) listed
  let known (id : Nat) : Option F32 := (pairs.find? fun p => p.1 == id).map (·.2)
  mergedOut f m i r ⟨disps, recs.map fun a => (f32At a 24, f32At a 28), exts⟩
    { token := best.map (·.1), z := z, chip := chip, tieN := sumNat (recs.map fun a => leAt a 32 4)
      uncert := recs.any fun a => byteAt a 10 % 2 == 1
      nref := sumNat (recs.map fun a => byteAt a 11), pairs := rankPairs pairs, kept := [], known := known } d

/-! SERVE rows (R188 to R190). -/

/-- U as tokens for the tests of R99 and R100. -/
def entTok (e : UEnt) : Tok := { (default : Tok) with id := e.id, z0 := e.z, lo := e.lo, hi := e.hi }

/-- The group refinement list (R189): unrefined tokens of U, widest first, cut to K; only CERTIFY refines. -/
def groupPlan (f : Flight) (d : Disp) (ents : List UEnt) : List Nat :=
  if d != .normal || f.prog.prec != 1 then []
  else (byWidth ((ents.filter fun e => !e.ref && !e.tie).map entTok)).take f.prog.k

/-- The first `n` tie tokens of the group are not all among the entries; the chips' tie counts with the entries that they sent, in chip order (R190). -/
def tieMissing : Nat → List (Nat × Nat) → Bool
  | _, [] => false
  | n, (t, k) :: r => decide (k < Nat.min n t) || tieMissing (n - Nat.min n t) r

/-- What the first round tells of a SERVE row. -/
def firstRound (f : Flight) (c : SelCtx) (recs : List (Array Byte)) : MergeMid :=
  let d := groupDisp (recs.map fun a => dispOfCode (byteAt a 9))
  let ents := recs.flatMap fun a => (List.range (leAt a 12 2)).map fun k => entOf a (32 + 16 * k)
  let tieN := sumNat (recs.map fun a => leAt a 20 4)
  let sent := recs.zipIdx.map fun q => (leAt q.1 20 4, (List.range (leAt q.1 12 2)).countP fun k => (entOf q.1 (32 + 16 * k)).tie)
  { disp := d, uncert := recs.any fun a => byteAt a 10 % 4 != 0, nref := sumNat (recs.map fun a => byteAt a 11)
    m := maxF (recs.map fun a => f32At a 16), tieN := tieN, tieCut := tieMissing (Nat.min tieN c.kEff) sent, ents := ents, plan := groupPlan f d ents }

/-- A `TIE` row over the entries at +inf, which are listed in chip order (R132, R190); `ents` are all the tokens exchanged (R180). -/
def serveTie (c : SelCtx) (n : Nat) (ties ents : List UEnt) (uncert : Bool) : Merged :=
  let first := ties.take (Nat.min n c.kEff)
  let tok := if c.greedy then (first.head?).map (·.id)
    else (first[(2 * c.cdf + 1) * first.length / 2 ^ 25]?).map (·.id)
  { token := tok, z := some fPinf, chip := 0, tieN := n, uncert := uncert, nref := 0
    pairs := rankPairs (ents.map fun e => (e.id, e.z)), kept := first.map fun e => (e.id, fPinf)
    known := fun id => (ents.find? fun e => e.id == id).map (·.z) }

/-- The stages of R190 over U: the choice with its kept set; none where a stage does not resolve. -/
def serveOver (c : SelCtx) (wide : Bool) (m : F32) (u : List Tok) : Option (Nat × List Tok) :=
  if c.greedy then (byScore u).head?.map fun t => (t.id, [t])
  else
    let (restOut, tSet, strad) : Bool × List KTok × List KTok := stageTopK c.kEff fNinf (u.map (kTok c wide m))
    if !strad.isEmpty || !restOut then none
    else match serveRest c (fun _ => true) m tSet with
      | .kept _ ks => (stageWalk c.cdf 0 0 ks).map fun id => (id, ks.map (·.tok))
      | _ => none

/-- U with the values of a second round, and whether a NaN is among them; what takes no part any longer is left out. -/
def secondEnts (mid : MergeMid) (z2 : List (Nat × F32)) : List UEnt × Bool :=
  let ents := mid.ents.map fun e => match z2.find? fun p => p.1 == e.id with
    | some p => { e with ref := true, lo := p.2, hi := p.2, z := p.2 }
    | none => e
  (ents.filter fun e => !F32.isNan e.z && e.hi != fNinf, ents.any fun e => !e.tie && F32.isNan e.z)

/-- Decides a SERVE row over U after the second round (R190). A NaN among the entries makes it `POISON` on every chip (log entry 76); tokens that the round has refined to +inf form the tie set in ascending id (R132). Where no entry takes part any longer, the first round's best entry is the token (log entry 105, DESIGN CHOICE). -/
def decideServe (f : Flight) (c : SelCtx) (mid : MergeMid) (z2 : List (Nat × F32)) : Disp × Merged :=
  let (ents, bad) := secondEnts mid z2
  let infs := insSort (fun (p q : UEnt) => decide (p.id ≤ q.id)) (ents.filter fun e => e.z == fPinf)
  let nref := mid.nref
  if mid.disp == .tie then
    (.tie, { serveTie c mid.tieN (mid.ents.filter (·.tie)) ents (mid.uncert || mid.tieCut) with nref := nref })
  else if bad then (.poison, { serveTie c 0 [] [] mid.uncert with nref := nref })
  else if mid.disp == .normal && !infs.isEmpty then (.tie, { serveTie c infs.length infs ents true with nref := nref })
  else
    let u := ents.map entTok
    let certify := f.prog.prec == 1
    let point := pointToks u
    let whole : Option (Nat × List Tok) := if certify then serveOver c true mid.m u else none
    let x : Option (Nat × List Tok) := match whole with | some y => some y | none => serveOver c false (maxF (u.map (·.z0))) point
    let tok := match x with | some y => some y.1 | none => ((rankPairs (mid.ents.map fun e => (e.id, e.z))).head?).map (·.1)
    let zOf (id : Nat) : Option F32 :=
      if mid.ents.any fun e => e.id == id then some (((u.find? fun t => t.id == id).map (·.z0)).getD fNinf) else none
    (mid.disp, { token := tok, z := tok.bind zOf, chip := 0, tieN := mid.tieN, uncert := mid.uncert || (certify && whole.isNone), nref := nref
                 pairs := rankPairs (u.map fun t => (t.id, t.z0)), kept := match x with | some y => y.2.map fun t => (t.id, t.z0) | none => []
                 known := zOf })

/-- What `TOKEN` is held against in the second pass, whose own values are `z2`: the choice of R190, where the other chips' values cannot change it, and no token where it is not `TOKEN`, which lies outside U. Where they may still make it `TOKEN`, `TOKEN` counts as the choice, so that a replay refines what its generation did (R241; log entry 70, DESIGN CHOICE). -/
def heldAgainst (f : Flight) (c : SelCtx) (mid : MergeMid) (z2 : List (Nat × F32)) (tok : Nat) : Option Nat :=
  let x := decideServe f c mid z2
  if mid.disp == .tie || f.prog.prec != 1 || mid.plan.all fun id => decide (f.view.vLo ≤ id ∧ id < f.view.vHi) then x.2.token
  else if !mid.ents.any fun e => e.id == tok then none
  else if x.1 == .normal then
    match serveOver c true mid.m ((secondEnts mid z2).1.map entTok) with
    | some y => some y.1
    | none => some tok
  else some tok

/-- Refines on this chip what the group list, and in SCOREQ `TOKEN`, ask of its window (R189, R237). -/
def State.secondPass (s : State) (f : Flight) (cured : List RecRef) (i : Nat) (r : RowState) (mid : MergeMid) : State × RowState :=
  let mine := mid.plan.filter fun id => decide (f.view.vLo ≤ id ∧ id < f.view.vHi) && !isRefined r.ref id
  let (s, l) : State × List Refined := s.refineList f i r cured mine
  let r : RowState := { r with ref := r.ref ++ l, plan2 := l.map (·.id), nref2 := l.length }
  match r.entry with
  | none => (s, r)
  | some e =>
    let o : RowOut := r.part f
    if !(o.disp == .normal || o.disp == .tie) then (s, r)
    else
      let n := r.ref.length
      let (s, q, part) := s.refineScored f i r (rowCtx f r) cured (heldAgainst f (rowCtx f r) mid (l.map fun x => (x.id, x.z)) e.token)
      (s, { q with out := some (withPart true o part), nref2 := r.nref2 + (q.ref.length - n) })

/-- Row `i` at the end of the first round. A `TIE` row is decided then (R190); one that scores a token takes its results from the second round too (R237, R248). -/
def State.mergeFirst (s : State) (m : MergeCtx) (f : Flight) (cured : List RecRef) (i : Nat) (r : RowState) : State × RowState :=
  let serve2 := r.serve && m.two
  let (s, recs) := s.mergeRow m f i (some (if serve2 then 24 else 44))
  match recs with
  | none => (s, { r with merged := some (poisonOut f r) })
  | some l =>
    if !serve2 then (s, { r with merged := some (mergeRollout f m i r l) })
    else
      let c := rowCtx f r
      let mid := firstRound f c l
      let p : Parts := ⟨l.map fun a => dispOfCode (byteAt a 9), [], []⟩
      let done (x : Merged) : RowState := { r with merged := some (mergedOut f m i r p { x with nref := mid.nref } mid.disp) }
      let second := s.secondPass f cured i { r with mid := some mid } mid
      match mid.disp with
      | .tie => if r.entry.isSome then second else (s, done (decideServe f c mid []).2)
      | .normal => second
      | _ => (s, done (serveTie c 0 [] [] mid.uncert))

/-- Where the reference extension of a second-round record starts. -/
def secondExt (a : Array Byte) : Nat := 32 + 8 * byteAt a 9

/-- Row `i` at the end of the second round (R190). -/
def State.mergeSecond (s : State) (m : MergeCtx) (f : Flight) (i : Nat) (r : RowState) : State × RowState :=
  match r.mid, r.merged with
  | some mid, none =>
    let (s, recs) := s.mergeRow m f i none
    match recs with
    | none => (s, { r with merged := some (poisonOut f r) })
    | some l =>
      let z2 := l.flatMap fun a => (List.range (byteAt a 9)).map fun k => (leAt a (32 + 8 * k) 4, f32At a (36 + 8 * k))
      let exts := if f.prog.paired then l.map fun a => refExtAt a (secondExt a) else []
      let sums := l.map fun a => (f32At a 12, f32At a 16)
      let disps : List Disp := sums.map fun x => if x.1 == fNinf then Disp.empty else Disp.normal
      let (d, x) : Disp × Merged := decideServe f (rowCtx f r) mid z2
      let nref := x.nref + sumNat (l.map fun a => byteAt a 10)
      (s, { r with merged := some (mergedOut f m i r ⟨disps, sums, exts⟩ { x with nref := nref } d) })
  | _, _ => (s, r)

/-- Every earlier step's merges are complete (R191). -/
def State.mergeTurn (s : State) (f : Flight) : Bool :=
  s.flights.all fun g => decide (f.ln ≤ g.ln) || g.merged || g.past || g.emitted

/-- MERGE_ROUND_COMPLETE (R184): once `COUNT` shows the round complete, the chip reads its records and merges its rows. Late reads of the second pass break a COLLECTED count (R422). -/
def execMergeRoundComplete (ln : Nat) (cured : List RecRef) (late : Bool) (s : State) : Host.Outcome State Fault Refusal :=
  match s.flight ln with
  | none => .next s
  | some f =>
    match mergeCtx f f.mrDone with
    | none => .next s
    | some m =>
      if f.past || f.emitted || f.mrSent ≤ f.mrDone || decide (s.getF fXM_CNT < m.rnd * m.g.c) || !s.mergeTurn f then .next s
      else
        let (s, rows) := s.overRows f.rows fun s i r => if m.round = 0 then s.mergeFirst m f (curedMain cured) i r else s.mergeSecond m f i r
        let again := f.prog.paired && m.two && m.round == 0
        let f := f.timing (if late && m.two && m.round == 0 then 7 else 0)
        .next ((s.setFlight { f with rows := rows, mrDone := f.mrDone + 1, klDone := f.klDone && !again }).finishScore ln)

end Sys2Proof.Machine
end

