-- ==== Sys2Proof/Machine/Lead.lean ====
section
/-! DEFINITION. Lead (chapters 12 and 13): slot fetches, DECODE with its checks 1 to 4, G2 and G3 descriptors, and the commands by which the frame and guard instructions enter a step's program. -/

namespace Sys2Proof.Machine

/-- Lead works on a queue: it exists, is enabled and not halted, and DXQ4 is not quiesced (R299, R467). -/
def State.leadOn (s : State) (q : Nat) : Bool := decide (q < 32) && s.qEn q && !s.halted q && !s.quiesced

/-! Checks against the state (check 4 of R331). -/

/-- A decode read of Lead; none when a granule of it is poisoned (R472). -/
def State.readDesc (s : State) (a n : Nat) (who : Who) : State × Option (Array Byte) :=
  let r := s.readHost 5 2 a n who
  (r.1, if r.2.2 then none else some r.2.1.toArray)

/-- The pairing of R61 and R244. -/
def State.pairOk (s : State) (n : Nat) : Bool :=
  let r := s.refOf n
  s.flag (fPS_PAIRED n) && r != n && s.psReady r && s.getF (fPS_VLO r) == s.getF (fPS_VLO n) &&
  s.getF (fPS_VHI r) == s.getF (fPS_VHI n) && s.getF (fPS_HDIM r) == s.getF (fPS_HDIM n) &&
  s.getF (fPS_HEADV r) == s.getF (fPS_HEADV n) &&
  (!(s.flag (fPS_RES n 0) && s.flag (fPS_RES r 0)) || s.getF (fPS_NPLACE n) == s.getF (fPS_NPLACE r))

/-- The reference view of a paired step. -/
def State.refView (s : State) (p : StepProg) : Option PlaneView :=
  if p.paired then some (s.planeView (s.refOf p.psid)) else none

/-- The planes that a COLLECTED step needs in Paddock (R419). -/
def paddockOk (prec : Nat) (v : PlaneView) : Bool := v.res0 && (prec == 0 || v.res1) && (prec != 2 || v.res2)

/-- The conditions of R419 and the fit of R80 for a step whose sets stand as they will be used. -/
def State.screenFits (s : State) (gated : Bool) (cls : List Nat) (p : StepProg) : Bool :=
  let v := s.planeView p.psid
  let rv := s.refView p
  let owners := ownersOf v cls
  let mode := fitMode (workSet p v rv owners) p.paired (s.freeMin owners)
  if !s.gait then mode.isSome
  else
    let lc := s.fetchAllowance p v
    gated && paddockOk p.prec v && (match rv with | some r => paddockOk p.prec r | none => true) &&
    (p.prec != 1 || lc.isSome) && mode == some false &&
    (p.prec != 1 || decide ((if p.paired then 2 else 1) * sweepCycles p v owners + 32 ≤ refineCycles p v cls.length (lc.getD 0)))

/-- The checks of one instruction that depend on the step's plane sets; `now` and `refNow` say that no REPACK into the set is pending (R59). -/
def State.setOk (s : State) (gated now refNow : Bool) (cls : List Nat) (p : StepProg) : GInstr → Bool
  | .loadh _ h st _ => !now ||
    (if p.gen = 2 then h == s.getF (fPS_HDIM p.psid) else decide (66 * s.getF (fPS_HDIM p.psid) ≤ 256 * st))
  | .klref _ _ => !(now && refNow) || s.pairOk p.psid
  | .screen _ _ => (!now || (s.psReady p.psid && !(s.flag fEMU3 && s.flag (fPS_P0FMT p.psid)))) && (!(now && refNow) || s.screenFits gated cls p)
  | .grad _ => !now || (match p.grad with | some g => gradFits g (s.planeView p.psid) | none => true)
  | .xmerge _ _ _ _ _ _ => !now ||
    (match p.group with
     | some g => groupFits g (s.getF (fPS_VLO p.psid)) (s.getF (fPS_VHI p.psid)) (s.getF (fPS_HEADV p.psid))
     | none => true)
  | _ => true

def sigmaOk (x : F32) : Bool := F32.positive x && F32.isFinite x

/-- The checks of one instruction that do not depend on the plane sets, with the reads they need (R332); none refuses. -/
def State.stateOk (s : State) (who : Who) (p : StepProg) : GInstr → State × Option StepProg
  | .rows n a =>
    if p.isScore then (s, some p)
    else
      let r := s.readDesc a (2 * n) who
      (r.1, r.2.map fun b => { p with slots := (List.range n).map fun i => leAt b (2 * i) 2 })
  | .fuse sg _ => (s, if sigmaOk sg then some p else none)
  | .klref sg _ => (s, if sigmaOk sg && !s.flag fEMU3 then some p else none)
  | .screen _ prec => (s, if s.flag fEMU3 && prec != 0 then none else some p)
  | .select retain =>
    (s, if retain && (p.verify.isSome || p.xmerge.isSome || p.paired || p.digest.isSome || !p.admitsServe || s.flag fEMU3)
        then none else some p)
  | .verify _ _ n _ => (s, if n ≤ p.rows && !s.flag fEMU3 then some p else none)
  | .grad a =>
    let r := s.readDesc a 64 who
    (r.1, if s.flag fEMU3 then none else (r.2.bind (gradOf p.paired)).map fun g => { p with grad := some g })
  | .xmerge ext _ rounds kmax _ a =>
    if s.getF fTK_MODE = 0 || (rounds = 1 && p.draw.isSome) || s.flag fEMU3 then (s, none)
    else
      let r := s.readDesc a 64 who
      match r.2 with
      | none => (r.1, none)
      | some b =>
        let r := r.1.readDesc a (64 + 32 * Nat.min 64 (byteAt b 0)) who
        (r.1, (r.2.bind (groupOf p ext rounds kmax)).map fun g => { p with group := some g })
  | _ => (s, some p)

/-- Whether no REPACK into a step's main set, and into its reference set, is pending; a set with `PAIRED` clear names no reference (R57). -/
def State.setsNow (s : State) (p : StepProg) : Bool × Bool :=
  (!s.repackPending p.psid, !p.paired || !s.flag (fPS_PAIRED p.psid) || !s.repackPending (s.refOf p.psid))

/-- Check 4 in slot order: the program with Lead's copies, or the slot of the first failure. -/
def checkFour (who : Who) (gated : Bool) (cls : List Nat) : Nat → List GInstr → State → StepProg → State × Except Nat StepProg
  | _, [], s, p => (s, .ok p)
  | i, g :: r, s, p =>
    let t := s.stateOk who p g
    match t.2 with
    | none => (t.1, .error i)
    | some p' =>
      let n := t.1.setsNow p'
      if t.1.setOk gated n.1 n.2 cls p' g then checkFour who gated cls (i + 1) r t.1 p' else (t.1, .error i)

/-- The reference set that Lead copies for a step (R332). -/
def State.copyRef (s : State) (p : StepProg) : Option Nat := if p.paired then some (s.refOf p.psid) else none

/-- The deferred checks of a step (R59): the slot of the first failure. -/
def State.recheck (s : State) (d : Decoded) (p : StepProg) (gated : Bool) : Option Nat :=
  d.code.findIdx? fun g => !s.setOk gated true true d.cls p g

/-! Decode. -/

/-- What the frame and guard instructions bring is left out until their commands run. -/
def stripFrame (p : StepProg) : StepProg :=
  { p with stepId := 0, rows := 0, slotAddr := 0, psid := 0, prec := 0, k := 16, fuse := none, bias := none, penal := none
           maskUse := none, temp := none, gumbel := false, draw := none, cpl := 0 }

/-- The launch priority of R323. -/
def State.launchPrio (s : State) (q : Nat) (p : StepProg) : Nat :=
  let qp := s.getF (fQ_PRIO q)
  if p.isScore then qp else p.slots.foldl (fun m w => Nat.max m (s.getF (fE_EPRIO (w % 8192)))) qp

/-- `E_EST` of a step as its plane sets stand. -/
def State.estimate (s : State) (p : StepProg) (cls : List Nat) : Nat :=
  let v := s.planeView p.psid
  stepEnergy p v (s.refView p) (ownersOf v cls)

/-- Puts a decoded item at HEAD. -/
def State.place (s : State) (q : Nat) (d : Decoded) : State :=
  let x := s.qx q
  let s := s.setQx q { x with item := some d }
  { s with nextDec := s.nextDec + 1 }.refresh q

/-- Check 4 and the placing of a step of `len` slots (R331, R59, R323, R462). -/
def State.decodeStep (s : State) (q len : Nat) (code : List GInstr) (p : StepProg) : State :=
  let cls := s.inService
  let gated := (s.qx q).gated
  match checkFour (p.stepId, q) gated cls 0 code s p with
  | (s, .error i) => s.halt q 2 4 i p.stepId
  | (s, .ok p) =>
    let n := s.setsNow p
    s.place q
      { item := .step p, code := code, prog := stripFrame p, cls := cls, len := len, prio := s.launchPrio q p
        eEst := s.estimate p cls, order := s.nextDec, ref := s.copyRef p, body := code.filter isFrame, defer := !(n.1 && n.2), waited := false }

/-- A decoded queue instruction. -/
def State.insnItem (s : State) (q len : Nat) (it : Item) (eEst : Nat) : Decoded :=
  { item := it, code := [], prog := emptyProg, cls := s.inService, len := len, prio := s.getF (fQ_PRIO q), eEst := eEst
    order := s.nextDec, ref := none, body := [], defer := false, waited := false }

/-- The bank that the next launch binds as the commands so far leave it: the shadow once a commit has passed its checks, which swaps before the launch (R155, R157). -/
def State.nextBank (s : State) : Nat := if s.getF fSHADOW_ST = 2 then 1 - s.getF fBANK_ACT else s.getF fBANK_ACT

/-- The length of a program slot that a NORMAL's `POST` names; none when R229 refuses it. Decode reads the slot in the bank that the NORMAL would bind if it launched now; a slot that another commit changes between decode and launch runs as the bound bank holds it (log entry 134, DEDUCED). -/
def State.postLen (s : State) (d : NormalDesc) : Option Nat :=
  if d.post < 128 then some 0
  else
    let w := (s.bankWord s.nextBank (0x4000 + 0x100 * (d.post % 64) + 160)).toNat
    if w % 64 = 0 || w / 64 % 2 = 1 then none else some (w % 64)

/-- Check 4 of a queue instruction, and its place at HEAD. A REPACK takes its launch number here (R304). -/
def State.decodeInsn (s : State) (q : Nat) (g : GInstr) : State :=
  match g with
  | .normal nd cpl =>
    let r := s.readDesc nd 64 (0xFFFFFFFF, q)
    match r.2.bind (normalOf s.lc cpl) with
    | none => r.1.halt q 2 4 0 0xFFFFFFFF
    | some d =>
      match r.1.postLen d with
      | none => r.1.halt q 2 4 0 0xFFFFFFFF
      | some l => r.1.place q (r.1.insnItem q 1 (.norm d) (normalEnergy d l))
  | .repack ps rd =>
    let job : RepackJob := { order := s.nextDec, given := false, queue := q, psid := ps, rd := rd, ln := s.nextLn, strict := s.strict }
    let s : State := { s with repackQ := s.repackQ ++ [job], nextLn := s.nextLn + 1 }
    s.place q (s.insnItem q 1 (.insn g) 0)
  | _ => s.place q (s.insnItem q 1 (.insn g) 0)

/-- Checks 1 to 3 of a queue instruction whose next slot, where one is fetched, is `next`: none waits for it (R333). -/
def insnChecks (x : Slot) (next : Option Slot) : Option (Except DecFail GInstr) :=
  if !opcKnown (slotOpc x) then some (.error ⟨0x09, 0, 1⟩)
  else if !placeQueue x then some (.error ⟨0x03, 0, 2⟩)
  else
    let rest : Except DecFail GInstr := if slotFieldsOk false x then .ok (slotInstr x) else .error ⟨0x02, 0, 3⟩
    if slotOpc x = 0x40 then
      match next with
      | none => none
      | some y => some (if slotOpc y = 0x10 || slotOpc y = 0x59 then rest else .error ⟨0x03, 1, 2⟩)
    else some rest

/-- Checks 1 to 3 of a step: its slots from STEP to END, or the failure; none waits for the rest (R302). -/
def stepChecks (l : List Slot) : Option (Except DecFail (List Slot)) :=
  match l with
  | [] => none
  | x :: r =>
    match takeToEnd 63 r with
    | some body =>
      let score := body.any fun y => slotOpc y == 0x30
      some (if !slotFieldsOk score x then .error ⟨0x02, 0, 3⟩
        else match passOne score 1 body with
          | some f => .error f
          | none => match passTwo (body.map slotOpc) 1 [] body with
            | some f => .error f
            | none => .ok (x :: body))
    | none =>
      if r.length < 63 then none
      else
        let score := r.any fun y => slotOpc y == 0x30
        let first : Option DecFail := if slotFieldsOk score x then passOne score 1 (r.take 63) else some ⟨0x02, 0, 3⟩
        let form : DecFail := (passTwo ((r.take 63).map slotOpc) 1 [] (r.take 63)).getD ⟨0x03, 63, 2⟩
        some (.error (first.getD form))

/-- Nothing stands decoded, and the fetched slots hold no whole item. -/
def State.wantsSlots (s : State) (q : Nat) : Bool :=
  let x := s.qx q
  x.item.isNone &&
  (if s.getF (fQ_GEN q) != 2 then decide (x.slots.length < 4)
   else match x.slots with
     | [] => true
     | y :: r => if slotOpc y = 0x10 then (stepChecks x.slots).isNone else (insnChecks y r.head?).isNone)

/-- A poisoned fetch halts the queue once the items before it have left (R300; log entry 22). -/
def State.fetchPoison (s : State) (q : Nat) : State := s.halt q 5 0 (s.qx q).slots.length 0xFFFFFFFF

/-- Where a queue's next fetch stands in its ring (R298): the index of the next slot to fetch, within the ring. -/
def State.fetchIndex (s : State) (q : Nat) : Nat := (s.getF (fQ_HEAD q) + (s.qx q).slots.length) % 2 ^ s.getF (fQ_ORDER q)

/-- The slots that the next fetch brings: the rest of its 256 bytes, as far as TAIL. -/
def State.fetchRoom (s : State) (q : Nat) : Nat :=
  if (s.qx q).pois then 0 else Nat.min (16 - s.fetchIndex q % 16) (s.qFill q - (s.qx q).slots.length)

/-- SLOT_FETCH_ARRIVAL (R298, R360): the next fetch arrives: an aligned read of 256 bytes of the ring (log entry 106; DEDUCED); poison halts the queue. -/
def execSlotFetchArrival (q : Nat) (s : State) : Host.Outcome State Fault Refusal :=
  let x := s.qx q
  let i := s.fetchIndex q
  let room := s.fetchRoom q
  if !s.leadOn q || room = 0 then .next s
  else
    let (s, bs, bad) := s.readHost 5 2 (s.getF (fQ_BASE q) + 256 * (i / 16)) 256 (0xFFFFFFFF, q)
    if bad then
      let s := s.setQx q { x with pois := true }
      .next (if s.wantsSlots q then s.fetchPoison q else s)
    else
      let a := bs.toArray
      let slots := (List.range room).map fun k => BitVec.ofNat 128 (leAt a (16 * (i % 16 + k)) 16)
      .next ((s.setQx q { x with slots := x.slots ++ slots }).refresh q)

/-- Lead may decode the queue's next item: none stands decoded, and its slots have arrived. -/
def State.canDecode (s : State) (q : Nat) : Bool := s.leadOn q && (s.qx q).item.isNone && !(s.qx q).slots.isEmpty

/-- DECODE (R331) of a G4 queue's next item. -/
def execDecode (q : Nat) (s : State) : Host.Outcome State Fault Refusal :=
  let l := (s.qx q).slots
  if s.leadOn q && (s.qx q).pois && s.wantsSlots q then .next (s.fetchPoison q)
  else if !s.canDecode q || s.getF (fQ_GEN q) != 2 then .next s
  else if slotOpc (l.headD 0) = 0x10 then
    match stepChecks l with
    | none => .next (s.refresh q)
    | some (.error f) => .next (s.halt q f.code f.order f.slot (slotBits (l.headD 0) 63 32))
    | some (.ok body) =>
      let code := body.map slotInstr
      .next (s.decodeStep q body.length code (progOf code))
  else
    match insnChecks (l.headD 0) (l.drop 1).head? with
    | none => .next (s.refresh q)
    | some (.error f) => .next (s.halt q f.code f.order f.slot 0xFFFFFFFF)
    | some (.ok g) => .next (s.decodeInsn q g)

/-- The instructions of a step descriptor (R306). -/
def descCode (p : StepProg) : List GInstr :=
  let f := p.fuse.getD (0x3F800000, 0)
  [.stepOpen p.stepId, .rows p.rows p.slotAddr, .loadh p.hfmt p.hdim p.stride p.hidAddr, .fuse f.1 f.2, .screen p.psid p.prec,
   .refine p.k, .select false, .emit p.tv, .stepEnd p.cpl]

/-- G2_G3_DESCRIPTOR (R305, R306, R308): the next descriptor of a G2 or G3 queue. In COLLECTED gait nothing decodes, and a step halts its queue. H is that of the plane set it names. -/
def execG2g3Descriptor (q : Nat) (s : State) : Host.Outcome State Fault Refusal :=
  let l := (s.qx q).slots
  let gen := s.getF (fQ_GEN q)
  if s.leadOn q && gen != 2 && (s.qx q).pois && s.wantsSlots q then .next (s.fetchPoison q)
  else if !s.canDecode q || gen == 2 || decide (l.length < 4) then .next s
  else
    let d := ((l.take 4).flatMap fun x => leBytes 16 x.toNat).toArray
    let kind := byteAt d 0
    if kind = 1 && s.gait then .next (s.halt q 6 0 0 0xFFFFFFFF)
    else if s.gait then .next s
    else if kind = 1 then
      if descLacks gen d then .next (s.halt q 6 0 0 0xFFFFFFFF)
      else
        match descStep gen (s.getF (fQ_HEAD q) / 4) d with
        | none => .next (s.halt q 2 3 0 (s.getF (fQ_HEAD q) / 4))
        | some p =>
          let p := { p with hfmt := Config.descHFmt % 3 }
          .next (s.decodeStep q 4 (descCode p) p)
    else if kind = 2 || kind = 3 then .next (s.place q (s.insnItem q 4 (.insn (if kind = 2 then .nop else .halt)) 0))
    else .next (s.halt q 9 1 0 0xFFFFFFFF)

/-! The frame and the guards enter the program. -/

/-- Hands over the first instruction of a decoded step that `want` picks: its operands enter the step's program. -/
def State.handOver (s : State) (q : Nat) (want : GInstr → Bool) : State :=
  match (s.qx q).item with
  | none => s
  | some d =>
    match d.body.find? want with
    | none => s
    | some g =>
      s.setQx q { s.qx q with item := some { d with prog := addInstr d.prog g, body := d.body.filter fun x => !(x == g) } }

/-- STEP (R302). -/
def execStepOpen (q : Nat) (s : State) : Host.Outcome State Fault Refusal :=
  .next (s.handOver q fun g => match g with | .stepOpen _ => true | _ => false)
/-- END (R311). -/
def execStepEnd (q : Nat) (s : State) : Host.Outcome State Fault Refusal :=
  .next (s.handOver q fun g => match g with | .stepEnd _ => true | _ => false)
/-- ROWS (R334). -/
def execRows (q : Nat) (s : State) : Host.Outcome State Fault Refusal :=
  .next (s.handOver q fun g => match g with | .rows _ _ => true | _ => false)
/-- SCREEN_INSTR (R91, R336). -/
def execScreenInstr (q : Nat) (s : State) : Host.Outcome State Fault Refusal :=
  .next (s.handOver q fun g => match g with | .screen _ _ => true | _ => false)
/-- REFINE (R92). -/
def execRefine (q : Nat) (s : State) : Host.Outcome State Fault Refusal :=
  .next (s.handOver q fun g => match g with | .refine _ => true | _ => false)
/-- FUSE (R120). -/
def execFuse (q : Nat) (s : State) : Host.Outcome State Fault Refusal :=
  .next (s.handOver q fun g => match g with | .fuse _ _ => true | _ => false)
/-- BIAS (R339). -/
def execBias (q : Nat) (s : State) : Host.Outcome State Fault Refusal :=
  .next (s.handOver q fun g => match g with | .bias _ _ => true | _ => false)
/-- PENAL (R339). -/
def execPenal (q : Nat) (s : State) : Host.Outcome State Fault Refusal :=
  .next (s.handOver q fun g => match g with | .penal _ _ _ => true | _ => false)
/-- TEMP (R339, R340). -/
def execTemp (q : Nat) (s : State) : Host.Outcome State Fault Refusal :=
  .next (s.handOver q fun g => match g with | .temp _ _ _ => true | _ => false)
/-- MASK_USE (R341). -/
def execMaskUse (q : Nat) (s : State) : Host.Outcome State Fault Refusal :=
  .next (s.handOver q fun g => match g with | .maskUse _ _ => true | _ => false)
/-- GUMBEL (R342). -/
def execGumbel (q : Nat) (s : State) : Host.Outcome State Fault Refusal :=
  .next (s.handOver q fun g => match g with | .gumbel => true | _ => false)
/-- DRAW (R342). -/
def execDraw (q : Nat) (s : State) : Host.Outcome State Fault Refusal :=
  .next (s.handOver q fun g => match g with | .draw _ _ _ => true | _ => false)

/-! Deferred checks (R59). -/

/-- Makes the deferred checks of every decoded step that no REPACK decoded before it holds any longer (R51), copies the reference they were made against (R332), and takes its energy estimate again; a failure halts its queue. -/
def State.recheckAll (s : State) : State :=
  (List.range 32).foldl (fun s q =>
    match (s.qx q).item with
    | some d =>
      match d.item with
      | .step p =>
        if d.defer && !s.repackBefore d.order (p.psid :: (s.copyRef p).toList) then
          match s.recheck d p (s.qx q).gated with
          | some i => s.halt q 2 4 i p.stepId
          | none => s.setQx q { s.qx q with item := some { d with defer := false, ref := s.copyRef p, eEst := s.estimate p d.cls } }
        else s
      | _ => s
    | none => s) s

end Sys2Proof.Machine
end

