-- ==== Sys2Proof/Machine/Queue.lean ====
section
/-! DEFINITION. Queue registers (R297 to R300) and the queue instructions (R315, R316, R352 to R358, R428, R430, R431). -/

namespace Sys2Proof.Machine

/-! The registers. -/

/-- A served write of `Q_TAIL` (R298, R305): a doorbell. -/
def State.writeTail (s : State) (q t : Nat) : State :=
  if !s.qEn q then s.setF (fQ_TAIL q) t
  else if decide (2 ^ s.getF (fQ_ORDER q) < (2 ^ 32 + t - s.getF (fQ_HEAD q)) % 2 ^ 32) then
    if s.halted q then s else s.halt q 4 0 0 0xFFFFFFFF
  else
    let s := s.setF (fQ_TAIL q) t
    if s.getF (fQ_GEN q) != 2 && t % 4 != 0 && !s.halted q then s.halt q 3 0 0 0xFFFFFFFF else s.refresh q

/-- Empties what Lead holds of a queue; remote operations and MASK loads under way go on. -/
def State.dropQueue (s : State) (q : Nat) : State :=
  let x := s.qx q
  { (s.setQx q { queueReset with remote := x.remote, loads := x.loads }) with repackQ := s.repackQ.filter fun j => j.queue != q }

/-- A change of `EN` from 0 to 1 (R297). -/
def State.startQueue (s : State) (q : Nat) : State :=
  let s := (((s.setF (fQ_HEAD q) 0).setF (fQ_DONE q) 0).setF (fQ_TAIL q) 0).setF (fQ_HALT q) 0
  (((s.setF (fQ_SKIPS q) 0).setF (fQ_EN q) 1).setF (fQ_STATE q) 0).dropQueue q |>.refresh q

/-- A clearing of `EN` (R299). -/
def State.stopQueue (s : State) (q : Nat) : State := ((s.setF (fQ_EN q) 0).setF (fQ_STATE q) 0).dropQueue q

/-- A G2 or G3 queue has a `TAIL` that is not a multiple of 4 (R305). -/
def State.tailBad (s : State) (q : Nat) : Bool := s.getF (fQ_GEN q) != 2 && s.getF (fQ_TAIL q) % 4 != 0

/-- `RESUME` and `SKIP` in `HALTED` (R297); a queue whose `TAIL` is still bad halts again (R305). -/
def State.restartQueue (s : State) (q : Nat) (skip : Bool) : State :=
  let x := s.qx q
  let n := if skip then x.haltLen else 0
  let s := if n = 0 then s else s.setQx q { x with hold := none, gated := false }
  let s := (s.addMod (fQ_HEAD q) n).setF (fQ_STATE q) 0
  if s.tailBad q then s.halt q 3 0 0 0xFFFFFFFF else s.refresh q

/-- Whether a queue may be enabled: not in `RAW` or `END`, not while the chip sleeps (R449, R468). -/
def State.mayEnable (s : State) : Bool := !(s.lc == 0 || s.lc == 5) && !s.power.asleep

/-- A served write of `Q_ATTR`; none is an error response (R297, R299). -/
def State.writeAttr (s : State) (q : Nat) (v : Word64) : Option State :=
  let en := getBits v 0 1 == 1
  let prio (s : State) : State := s.setF (fQ_PRIO q) (getBits v 3 2)
  let gen (s : State) : State := s.setF (fQ_GEN q) (getBits v 1 2)
  if !s.qEn q then
    if !en then some (gen (prio s))
    else if s.mayEnable then some ((gen (prio s)).startQueue q)
    else none
  else if en then
    let s := prio s
    if s.halted q && (getBits v 16 1 == 1 || getBits v 17 1 == 1) then some (s.restartQueue q (getBits v 17 1 == 1)) else some s
  else if (s.halted q || s.getF (fQ_STATE q) == 1) && (s.inflightOf q).isEmpty then some ((prio s).stopQueue q)
  else none

/-! Issue. -/

/-- The queue instruction decoded at HEAD, when Lead may issue it: the queue runs, no mismatch holds it (R299, R436, R467). -/
def State.issuable (s : State) (q : Nat) : Option GInstr :=
  match (s.qx q).item with
  | some d => match d.item with
    | .insn g => if s.leadOn q && !s.mismatch then some g else none
    | _ => none
  | none => none

/-- Puts a hold on the queue's next item (R420, R428). -/
def State.putHold (s : State) (q : Nat) (h : Hold) : State := s.setQx q { s.qx q with hold := some h }

/-- The place in decode order of the item at a queue's HEAD. -/
def State.itemOrder (s : State) (q : Nat) : Nat := match (s.qx q).item with | some d => d.order | none => 0

/-- NOP (R315). -/
def execNop (q : Nat) (s : State) : Host.Outcome State Fault Refusal :=
  match s.issuable q with
  | some .nop => .next (s.passItem q false)
  | _ => .next s

/-- HALT (R358): the queue halts with HEAD past the instruction. -/
def execHalt (q : Nat) (s : State) : Host.Outcome State Fault Refusal :=
  match s.issuable q with
  | some .halt => .next ((s.passItem q false).halt q 1 0 0 0xFFFFFFFF)
  | _ => .next s

/-- WAITQ (R315). -/
def execWaitq (q : Nat) (s : State) : Host.Outcome State Fault Refusal :=
  match s.issuable q with
  | some (.waitq w n) =>
    if decide ((2 ^ 32 + s.getF (fQ_DONE w) - n) % 2 ^ 32 < 2 ^ 31) then .next (s.passItem q false) else .next s
  | _ => .next s

/-! Remote operations (R354, R355). -/

/-- Posts `REMOTE_ERR` (R355): status, operation (0 PUT, 1 GET, 2 SIGNAL), slot, address. -/
def State.remoteErr (s : State) (q slot op addr status : Nat) : State :=
  s.post { s.event 10 1 0 [(36, leBytes 1 status), (37, leBytes 1 op), (40, leBytes 4 slot)] with queue := q, addr := addr }

/-- One remote operation more of a queue is not complete; the next one has a number of its own (log entry 142). -/
def State.addRemote (s : State) (q : Nat) : State :=
  { s.setQx q { s.qx q with remote := (s.qx q).remote + 1 } with nextOp := s.nextOp + 1 }

/-- A write of one word by a queue (R354); a channel in fault answers it as poisoned (R480). -/
def State.putRemote (s : State) (q op a : Nat) (v : Word64) : State :=
  let slot := s.getF (fQ_HEAD q)
  if s.portOf a != .hport && !s.portUp (s.portOf a) then s.remoteErr q slot op a rDATA
  else (s.writeHost a (leBytes 8 v.toNat) (.remote s.nextOp q slot op a none)).addRemote q

/-- One remote operation of a queue is complete; an error or a poisoned response posts `REMOTE_ERR` with the status the response carried (R354, R355, R367). -/
def State.remoteDone (s : State) (q slot op addr : Nat) (st : Option Nat) : State :=
  let s := s.setQx q { s.qx q with remote := (s.qx q).remote - 1 }
  match st with
  | some x => s.remoteErr q slot op addr x
  | none => s

/-- Keeps bytes of a GET as a response brought them. -/
def State.keepPart (s : State) (id addr : Nat) (bs : List Byte) : State := { s with gotten := s.gotten ++ [⟨id, addr, bs⟩] }
def GetPart.holds (p : GetPart) (id a : Nat) : Bool := p.id == id && decide (p.addr ≤ a ∧ a < p.addr + p.bytes.length)
/-- The bytes that a GET has brought. -/
def State.gotBytes (s : State) (id src n : Nat) : List Byte :=
  (List.range n).map fun i => match s.gotten.find? fun p => p.holds id (src + i) with
    | some p => p.bytes.getD (src + i - p.addr) 0
    | none => 0

/-- Every word of a GET is there: in one request they are written at `DST` as the read found them, and the operation is complete with that write (R354); an error or a poisoned word ends it with nothing written (R355). -/
def State.getDone (s : State) (id q slot src dst n : Nat) (st : Option Nat) : State :=
  let bs := s.gotBytes id src (8 * n)
  let s : State := { s with gotten := s.gotten.filter fun p => p.id != id }
  match st with
  | some _ => s.remoteDone q slot 1 src st
  | none =>
    let why := Purpose2.remote id q slot 1 dst (if (s.messages none true dst (8 * n)).any (fun m => m.1 != .hport && !s.portUp m.1) then some rDATA else none)
    let t := s.writeHost dst bs why
    if t.out.any fun o => o.why == why then t
    else t.remoteDone q slot 1 dst (match why with | .remote _ _ _ _ _ st => st | _ => none)

/-- The reads of a GET go out, cut as R368, R383 and R386 say; a channel in fault answers its part as poisoned (R472, R480). -/
def State.getRemote (s : State) (q n src dst : Nat) : State :=
  let slot := s.getF (fQ_HEAD q)
  let id := s.nextOp
  let ms := s.messages none false src (8 * n)
  let lost := ms.filter fun m => m.1 != .hport && !s.portUp m.1
  let st := if lost.isEmpty then none else some rDATA
  let s := s.addRemote q
  let s := lost.foldl (fun s m => s.poisonEvents 5 1 (s.granules m.2.1 m.2.2)) s
  let sent := ms.filter fun m => !(m.1 != .hport && !s.portUp m.1)
  if sent.isEmpty then s.getDone id q slot src dst n st
  else sent.foldl (fun s m => s.send m.1 m.2.1 m.2.2 (.get id q slot src dst n st) (s.rdHeader m.1 m.2.1 m.2.2) []) s

/-- PUT (R354). -/
def execPut (q : Nat) (s : State) : Host.Outcome State Fault Refusal :=
  match s.issuable q with
  | some (.put a v) =>
    .next ((s.putRemote q 0 a (BitVec.ofNat 64 v)).passItem q false)
  | _ => .next s

/-- GET (R354): the read goes out; its response carries on. -/
def execGet (q : Nat) (s : State) : Host.Outcome State Fault Refusal :=
  match s.issuable q with
  | some (.get n src dst) =>
    .next ((s.getRemote q n src dst).passItem q false)
  | _ => .next s

/-- What the host memory system does with a FADD (R354, R355): it adds, unless it holds the word as poisoned. -/
def State.hostFadd (s : State) (a v : Nat) : State :=
  if (s.granules a 8).any (fun g => g.2 != .good) then s
  else s.putMem a (leBytes 8 ((leNat (s.memAt a 8) + v) % 2 ^ 64))

/-- SIGNAL (R315, R354): after every earlier step has written its status and every earlier remote operation is complete. -/
def execSignal (q : Nat) (s : State) : Host.Outcome State Fault Refusal :=
  match s.issuable q with
  | some (.signal fadd a v) =>
    if (s.inflightOf q).any (fun f => f.normal.isNone) || (s.qx q).remote != 0 then .next s
    else
      let v := BitVec.ofNat 64 v
      let t := if fadd then
          (State.sendAtom (if s.served then s.hostFadd a v.toNat else s) 0 1 a v (.remote s.nextOp q (s.getF (fQ_HEAD q)) 2 a none)).addRemote q
        else s.putRemote q 2 a v
      .next (t.passItem q false)
  | _ => .next s

/-! FENCE (R316). -/

/-- `DRAIN` of R316. -/
def State.drainedQueue (s : State) (q : Nat) : Bool :=
  (s.inflightOf q).isEmpty && (s.qx q).remote == 0 && (s.qx q).loads == 0

/-- Sends an ordering request on each of the 16 memory channels that runs. -/
def State.sendOrds (s : State) (q : Nat) : State :=
  let up := (List.range 16).filter fun n => s.flag (fMC_UP n)
  let s := up.foldl (fun s n => s.send (.mc n) 0 0 (.ord q) { Header.nop with op := opORD } []) s
  s.setQx q { s.qx q with ords := some up }

/-- FENCE (R316): drained first, then ordered on every channel. -/
def execFence (q : Nat) (s : State) : Host.Outcome State Fault Refusal :=
  match s.issuable q with
  | some (.fence drain hv) =>
    if drain && !s.drainedQueue q then .next s
    else if !hv then .next (s.passItem q false)
    else match (s.qx q).ords with
      | some [] => .next (s.passItem q false)
      | some _ => .next s
      | none => .next (s.sendOrds q)
  | _ => .next s

/-- Retires the oldest ordering request of a channel. -/
def State.ackOrd (s : State) (ch : Nat) : State :=
  match s.out.find? (fun o => o.port == .mc ch && o.wait.isNone && (match o.why with | .ord _ => true | _ => false)) with
  | none => s
  | some o =>
    let s := State.pump { s with out := s.out.erase o } o.port
    match o.why with
    | .ord q => s.setQx q { s.qx q with ords := (s.qx q).ords.map fun l => l.filter fun c => c != ch }
    | _ => s

/-! LAUNCHAT (R428). -/

/-- The count of a LAUNCHAT has been reached (R428). -/
def State.gcReached (s : State) (gc : Nat) : Bool := decide ((2 ^ 64 + s.gc - gc) % 2 ^ 64 < 2 ^ 63)

/-- LAUNCHAT (R352): it issues, and holds the item that follows it until the count. -/
def execLaunchat (q : Nat) (s : State) : Host.Outcome State Fault Refusal :=
  match s.issuable q with
  | some (.launchat gc) => .next ((s.passItem q true).putHold q ⟨.launchat gc, s.gcReached gc, s.itemOrder q⟩)
  | _ => .next s

/-- A hold after a look at the gate counter. -/
def State.holdNow (s : State) (h : Hold) : Hold :=
  match h.gate with
  | .launchat gc => if s.gcReached gc then { h with met := true } else h
  | .barrier _ => h

/-- LAUNCHAT_SATISFIED (R428): the queue's hold, or that of its step in flight, is met if the count stands there. -/
def execLaunchatSatisfied (q : Nat) (s : State) : Host.Outcome State Fault Refusal :=
  let s := if decide (q < 32) then s.setQx q { s.qx q with hold := (s.qx q).hold.map s.holdNow } else s
  .next { s with flights := s.flights.map fun f => if f.queue == q then { f with hold := f.hold.map s.holdNow } else f }

/-! Barriers (R430, R431). -/

def State.barRole (s : State) : Nat := s.getF fBAR_ROLE

/-- The barriers that wait, each with its place in decode order: BARRIERs at a HEAD that have not been released, and holds not met (R420, R431). -/
def State.waitingBarriers (s : State) : List (Nat × Nat) :=
  let holds := s.queues.filterMap (·.hold) ++ s.flights.filterMap (·.hold)
  (holds.filterMap fun h => match h.gate with | .barrier b => if h.met then none else some (h.order, b) | _ => none) ++
  (s.queues.filterMap (·.item)).filterMap fun d => match d.item, d.waited with
    | .insn (.barrier b), false => some (d.order, b)
    | _, _ => none

/-- The barrier that waits longest. -/
def State.nextBarrier (s : State) : Option Nat :=
  (s.waitingBarriers.foldl (fun (m : Option (Nat × Nat)) x =>
    match m with | some p => if x.1 < p.1 then some x else m | none => some x) none).map (·.2)

/-- A BARRIER of a number waits. -/
def State.barrierHeld (s : State) (b : Nat) : Bool := s.waitingBarriers.any fun x => x.2 == b

/-- The chip waits at a barrier: it raises arrival, or as root drives release, as its role and its children's lines say (R430). -/
def State.arrive (s : State) : State :=
  match s.sync.cur with
  | none => s
  | some b =>
    if !s.flag fBAR_EN || s.link.isolated || !s.barrierHeld b then s
    else if s.barRole = 0 || (s.barRole == 1 && s.sync.cup.all id) then
      if s.sync.up then s else { (s.setF fARRIVED b) with sync := { s.sync with up := true } }
    else if s.barRole == 2 && s.sync.cup.all id then { s with sync := { s.sync with cdn := true, relWait := true } }
    else s

/-- The barrier in work whose BARRIER a halt, QUEUE_ABANDON or the watchdog has dropped before the chip arrived is in work no longer; one at which it has arrived stays so until its release (log entry 145, DESIGN CHOICE). -/
def State.barrierGone (s : State) : Bool :=
  match s.sync.cur with
  | none => true
  | some b => !s.barrierHeld b && !s.sync.up && !s.sync.relWait

/-- Takes up a barrier when none is in work (R431). -/
def State.takeBarrier (s : State) (b : Nat) : State :=
  if s.barrierGone then ({ s with sync := { s.sync with cur := some b } }).arrive else s

/-- The next slot that Lead has fetched after the item at HEAD opens a step. -/
def State.stepFollows (s : State) (q : Nat) : Bool :=
  match ((s.qx q).slots.drop 1).head? with | some y => slotOpc y == 0x10 | none => false

/-- BARRIER (R352, R430): with `EN` clear it issues at once; else the chip arrives, and it issues at its release. In COLLECTED gait before a step it holds the step's fill instead, while another barrier is in work too (R420, R431). -/
def execBarrier (q : Nat) (s : State) : Host.Outcome State Fault Refusal :=
  match s.issuable q with
  | some (.barrier b) =>
    let released := match (s.qx q).item with | some d => d.waited | none => false
    if !s.flag fBAR_EN || released then .next (s.passItem q true)
    else
      let s := s.takeBarrier b
      if s.gait && s.stepFollows q then .next ((s.passItem q true).putHold q ⟨.barrier b, false, s.itemOrder q⟩)
      else .next s
  | _ => .next s

def Hold.release (b : Nat) (h : Hold) : Hold := if h.gate == .barrier b then { h with met := true } else h

/-- A decoded item is the BARRIER of a number. -/
def isBarrier (b : Nat) (d : Decoded) : Bool := d.item == .insn (.barrier b)

/-- The release of the chip's barrier reaches every queue that waits at it. -/
def State.releaseBarrier (s : State) (b : Nat) : State :=
  let s := (List.range 32).foldl (fun s q =>
    let x := s.qx q
    match x.item with
    | some d =>
      if isBarrier b d then
        if s.leadOn q && !s.mismatch then s.passItem q true else s.setQx q { x with item := some { d with waited := true } }
      else s
    | none => s) s
  let s : State := { s with
    queues := s.queues.map fun x => { x with hold := x.hold.map (Hold.release b) }
    flights := s.flights.map fun f => { f with hold := f.hold.map (Hold.release b) } }
  (s.setF fRELEASED b)

/-- BARRIER_RELEASE (R430): `REL_DLY` after release was received or driven, the barrier is released and arrival drops; the next one is taken up (R431). -/
def execBarrierRelease (s : State) : Host.Outcome State Fault Refusal :=
  match s.sync.relWait, s.sync.cur with
  | true, some b =>
    let s : State := { s with sync := { s.sync with up := false, relWait := false, cur := none
                                                    cdn := s.sync.cdn && s.barRole != 2 } }
    let s := s.releaseBarrier b
    .next (match s.nextBarrier with | some c => s.takeBarrier c | none => s)
  | _, _ => .next s

/-- SYNC_BAR_DN (R430): the level of barrier-in. A relay forwards it to its children; a rise releases the barrier at which this chip has arrived. -/
def execSyncBarDn (level : Bool) (s : State) : Host.Outcome State Fault Refusal :=
  let rise := level && !s.sync.dn
  let s : State := { s with sync := { s.sync with dn := level } }
  if !s.flag fBAR_EN || s.barRole == 2 then .next s
  else .next { s with sync := { s.sync with
    cdn := if s.barRole = 1 && !s.link.isolated then level else s.sync.cdn
    relWait := s.sync.relWait || (rise && s.sync.up) } }

/-- SYNC_BAR_CUP (R430): the level of a child's arrival line. -/
def execSyncBarCup (child : Nat) (level : Bool) (s : State) : Host.Outcome State Fault Refusal :=
  let s : State := { s with sync := { s.sync with cup := s.sync.cup.set child level } }
  if level then .next s.arrive else .next s

/-! REPACK and MASK at issue. -/

/-- REPACK (R315, R357): handed to the repack units; it issues only when it completes, or once a mismatch that met its completion is cleared. -/
def execRepack (q : Nat) (s : State) : Host.Outcome State Fault Refusal :=
  match s.issuable q with
  | some (.repack _ _) =>
    if (match (s.qx q).item with | some d => d.waited | none => false) then .next (s.passItem q false)
    else
    .next { s with repackQ := s.repackQ.map fun j => if j.queue == q then { j with given := true } else j }
  | _ => .next s

/-- MASK_LOAD (R128, R304, R357): it issues and takes its place in launch order; a supply dip holds it (R457). -/
def execMaskLoad (q : Nat) (s : State) : Host.Outcome State Fault Refusal :=
  match s.issuable q, (s.qx q).item with
  | some (.maskLoad set b n src), some d =>
    if s.power.stopped then .next s
    else
      let s : State := { s with
        maskJobs := s.maskJobs ++ [{ order := d.order, queue := q, set := set, base := 64 * b, len := 64 * n, src := src, ln := s.nextLn }]
        nextLn := s.nextLn + 1 }
      .next ((s.setQx q { s.qx q with loads := (s.qx q).loads + 1 }).passItem q false)
  | _, _ => .next s

end Sys2Proof.Machine
end

