-- ==== Sys2Proof/Machine/Link.lean ====
section
/-! DEFINITION. The ports (chapter 14): agent epochs, capability and credit exchange, responses and acknowledgements, link faults and timeouts, detach, and the channel arbiters' commits and modes. -/

namespace Sys2Proof.Machine

/-! Agents and epochs (R376, R377). -/

/-- Compares a request's epoch with the table; none answers `STALE_EPOCH`. A newer epoch is taken, and breaks the leases of its agent. -/
def State.epochCheck (s : State) (snd : Sender) : Option State :=
  let e := snd.aepoch.toNat
  if !s.flag fTK_EPOCHS || e == 0 then some s
  else
    let a := snd.agent.toNat
    let d := (2 ^ 16 + e - (s.epochOf a).toNat) % 2 ^ 16
    if d = 0 then some s
    else if d < 2 ^ 15 then
      some (State.breakAgent { s with link := { s.link with epochs := Store.write epochDefault s.link.epochs a snd.aepoch } } a)
    else none

def State.lstate (s : State) : Nat := s.getF fLSTATE
/-- Management messages travel on VC3: in TACK-4 once the link is ONLINE (R379). -/
def State.onVc3 (s : State) : Bool := s.served && s.getF fTK_MODE == 2
/-- DXQ4 takes a management message without data from its buffer: on VC3 a header credit goes back (R364). -/
def State.tookMgmt (s : State) : State := if s.onVc3 then { s with link := s.link.carry (creditFlits 3 1 0) } else s

/-- EPOCH_NOTE (R377): as a request of that agent, without a response. -/
def execEpochNote (agent aepoch : BitVec 16) (s : State) : Host.Outcome State Fault Refusal :=
  if s.served then .next (((s.epochCheck ⟨agent, aepoch, 0, 0⟩).getD s).tookMgmt) else .next s

/-! Attach (R378 to R380, R387). -/

/-- The flits of a management message (R379, R380): a `CTRL` flit, in NEGOTIATE of the TACK-2 format, or `DATA` flits on VC3. Its argument is the capability word in a data slot for `CAP`, else it lies in `ADDR`. Once the mode is TACK-4 its header carries DXQ4's agent epoch (R362, R365). -/
def State.mgmtFlits (s : State) (sub arg : Nat) : List Flit :=
  let d := if sub = 1 then [BitVec.ofNat 128 arg] else []
  let h : Header := { Header.nop with op := opMGMT, vc := 3, nds := d.length, addr := if sub = 1 then 0 else arg, sub := sub,
                                      aepoch := if decide (s.lstate < 2) then 0 else s.getF fAEPOCH }
  if s.onVc3 then dataFlits 2 (h.word :: d) else [flitOf (if s.lstate = 1 then 0 else s.getF fTK_MODE) 2 (h.word :: d)]

/-- DXQ4 sends a management message on the H-port. -/
def State.tell (s : State) (sub arg : Nat) : State :=
  { s with link := { (s.link.carry (s.mgmtFlits sub arg)) with sent := s.link.sent ++ [(sub, arg)] } }

/-- The capability word of a channel: what it offers (R387). -/
def State.mcCap (s : State) (n : Nat) : Nat := s.getF (fGRAN_CAP n) + 2 * s.getF (fPOIS_CAP n)

/-- The header of a channel's `CAP` (R387). -/
def Header.cap : Header := { Header.nop with op := opMGMT, nds := 1, sub := 1 }

/-- DXQ4 sends `CAP` on a channel: the message on the request path, its data slot in write slot 0 (R387, R490). -/
def State.tellMc (s : State) (n : Nat) : State :=
  { s with link := { (s.link.carryCap n Header.cap.word (BitVec.ofNat 128 (s.mcCap n))) with mcSent := s.link.mcSent ++ [(n, s.mcCap n)] } }

/-- The attach stops with the cause of R381. -/
def State.linkFail (s : State) (cause : Nat) : State :=
  let s := (s.setF fLSTATE 5).setF fTK_FAIL cause
  { s with power := { s.power with attach := .failed } }

/-- NEGOTIATE begins: nothing of an earlier attach remains, and the first `CAP` is sent on every port. -/
def State.startNegotiate (s : State) : State :=
  let s : State := { s with link := linkReset, power := { s.power with attach := .negotiate } }
  let s := (((s.setF fLSTATE 1).setF fTK_FAIL 0).setF fCAP_PEER 0).setF fTK_EPOCHS 0
  (List.range 16).foldl State.tellMc (s.tell 1 (s.reg 0x20000).toNat)

/-- The channels whose peer has sent no `CAP`. -/
def State.mcMissing (s : State) : List Nat := (List.range 16).filter fun n => !s.link.capMc.any fun p => p.1 == n

/-- CAP_RESEND (R380, R387): every 64 fc until the peer's `CAP` has arrived, on each port. -/
def execCapResend (s : State) : Host.Outcome State Fault Refusal :=
  let t := if s.lstate = 1 && !s.link.capSeen then s.tell 1 (s.reg 0x20000).toNat else s
  if s.lstate = 1 || s.lstate = 2 then .next (t.mcMissing.foldl State.tellMc t) else .next t

/-- The highest version of both ends under `VER_CAP`; none is common. -/
def commonMode (vers cap : Nat) : Option Nat := [2, 1, 0].find? fun m => decide (m ≤ cap) && vers / 2 ^ m % 2 == 1

/-- The credited virtual channels of a mode (R372). -/
def modeVcs (mode : Nat) : List Nat := match mode with | 0 => [0] | 1 => [0, 2] | _ => [0, 2, 3]
/-- What DXQ4 grants on a virtual channel (R372). -/
def ownGrant (mode vc : Nat) : Nat × Nat :=
  match vc, mode with
  | 0, 0 => (32, 128)
  | 0, 1 => (64, 256)
  | 0, _ => (128, 512)
  | 2, 1 => (32, 64)
  | 2, _ => (64, 128)
  | _, _ => (8, 16)
/-- The least grant that DXQ4 accepts (R372). -/
def leastGrant (vc : Nat) : Nat × Nat := match vc with | 0 => (16, 64) | 2 => (16, 128) | _ => (4, 8)

/-- Both ends have sent `MODE_ACK`: CREDIT, or a mismatch (R380). -/
def State.tryCredit (s : State) : State :=
  match s.link.ackSent, s.link.ackGot with
  | some a, some b =>
    if s.lstate != 1 then s
    else if a != b then s.linkFail 2
    else
      let s := (s.setF fLSTATE 2).setF fTK_MODE a
      (modeVcs a).foldl (fun s vc => let g := ownGrant a vc; s.tell 3 (vc + 2 ^ 4 * g.1 + 2 ^ 16 * g.2)) s
  | _, _ => s

/-- Every memory channel has exchanged its capability word. -/
def State.channelsUp (s : State) : Bool := (List.range 16).all fun n => s.flag (fMC_UP n)

/-- ONLINE, when every credit of the mode is there and the channels are up: every cluster that passed its tests is in service (R380, R466). -/
def State.tryOnline (s : State) : State :=
  if s.lstate = 2 && (modeVcs (s.getF fTK_MODE)).all (fun v => s.link.inits.any fun x => x.1 == v) && s.channelsUp then
    let s := (s.setF fLSTATE 3).setFlag fFARRIER_UP true
    let passed := s.enabled.filter fun n => !s.power.bistBad.contains n
    let s := (passed.filter fun n => s.getF (fPSTATE n) == 0).foldl (fun s n => s.joinService n) s
    { s with power := { s.power with attach := .online } }
  else s

/-- The peer's capability on the H-port (R376, R380). -/
def State.hostCap (s : State) (cap : Word64) (agent aepoch : BitVec 16) : State :=
  if s.lstate != 1 || s.link.capSeen then s
  else
    let s := (s.setReg 0x20008 cap).setF fAGENT_ID agent.toNat
    let s : State := { s with link := { s.link with capSeen := true } }
    match commonMode (getBits cap 0 3) (s.getF fVER_CAP) with
    | none => s.linkFail 1
    | some m =>
      let ep := m == 2 && getBits cap 3 1 == 1
      let s := (s.setFlag fTK_EPOCHS ep).setF fAEPOCH (if ep then aepoch.toNat else 0)
      let s := s.tell 2 m
      State.tryCredit { s with link := { s.link with ackSent := some m } }

/-- A channel's capability: with the last of the 16 the granule is chosen and every channel comes up (R387). -/
def State.channelCap (s : State) (n : Nat) (cap : Word64) : State :=
  if decide (16 ≤ n) || !(s.lstate == 1 || s.lstate == 2) || s.link.capMc.any (fun p => p.1 == n) then s
  else
    let caps := s.link.capMc ++ [(n, cap.toNat)]
    let s : State := { s with link := { (s.link.takeCap n Header.cap.word (leBytes 8 cap.toNat)) with capMc := caps } }
    if caps.length < 16 then s
    else
      let big := caps.all fun p => p.2 % 2 == 1 && s.flag (fGRAN_CAP p.1)
      (caps.foldl (fun s p =>
        (((s.setF (fMC_UP p.1) 1).setFlag (fMC_GRAN p.1) big).setFlag (fMC_POIS p.1) (p.2 / 2 % 2 == 1 && s.flag (fPOIS_CAP p.1))).setFlag
          (fMC_INORD p.1) (p.2 / 4 % 2 == 1)) s).tryOnline

/-- CAP_RECEIVE (R380, R387). -/
def execCapReceive (port : Port) (cap : Word64) (agent aepoch : BitVec 16) (s : State) : Host.Outcome State Fault Refusal :=
  match port with
  | .hport => .next (s.hostCap cap agent aepoch)
  | .mc n => .next (s.channelCap n cap)

/-- MODE_ACK_RECEIVE (R380). -/
def execModeAckReceive (mode : Nat) (s : State) : Host.Outcome State Fault Refusal :=
  if s.lstate = 1 && s.link.ackGot.isNone then .next (State.tryCredit { s with link := { s.link with ackGot := some (mode % 4) } }) else .next s

/-- CREDIT_INIT_RECEIVE (R380): a grant below R372 fails the attach. -/
def execCreditInitReceive (vc hdr dat : Nat) (s : State) : Host.Outcome State Fault Refusal :=
  if s.lstate != 2 || !(modeVcs (s.getF fTK_MODE)).contains vc || s.link.inits.any (fun x => x.1 == vc) then .next s
  else
    let k := vcIndex vc
    let s : State := { s with link := { s.link with
      inits := s.link.inits ++ [(vc, hdr, dat)], hdr := s.link.hdr.set k hdr, dat := s.link.dat.set k dat } }
    if decide (hdr < (leastGrant vc).1 ∨ dat < (leastGrant vc).2) then .next (s.linkFail 4) else .next s.tryOnline

/-- NEGOTIATE_TIMEOUT (R380): 1 ms in NEGOTIATE or CREDIT; a channel that has not come up is named as the cause. -/
def execNegotiateTimeout (s : State) : Host.Outcome State Fault Refusal :=
  if s.lstate = 1 || s.lstate = 2 then .next (s.linkFail (if s.lstate = 2 && !s.channelsUp then 5 else 3)) else .next s

/-- CREDIT_RETURN (R364): credits come back, never above the peer's grant, and what waited for them is sent. -/
def execCreditReturn (vc hdr dat : Nat) (s : State) : Host.Outcome State Fault Refusal :=
  match s.link.inits.find? fun x => x.1 == vc with
  | none => .next s
  | some (_, gh, gd) =>
    let k := vcIndex vc
    .next (State.pump { s with link := { s.link with
      hdr := s.link.hdr.set k (Nat.min gh (s.link.hdr.getD k 0 + hdr))
      dat := s.link.dat.set k (Nat.min gd (s.link.dat.getD k 0 + dat)) } } .hport)

/-! Responses. -/

/-- A write of a step's EMIT is acknowledged: `PROD` follows a request's last record (R291), `GC_DONE` the last write of all (R311). -/
def State.emitAcked (s : State) (ln : Nat) (rec : Option Nat) : State :=
  let s := match rec with
    | some n => if s.recsOpen ln n then s else s.writeProd ln n
    | none => s
  match s.flight ln with
  | some f => if f.emitted && s.flightQuiet ln then s.setFlight { f with gcDone := s.gc } else s
  | none => s

/-- The remote operation that a message is a part of, by its number. -/
def Purpose2.opKey : Purpose2 → Option Nat
  | .get id _ _ _ _ _ _ | .remote id _ _ _ _ _ => some id
  | _ => none

/-- A message of a remote operation has failed with a status; the first one counts. -/
def Purpose2.fail (st : Nat) : Purpose2 → Purpose2
  | .get id q slot src dst n none => .get id q slot src dst n (some st)
  | .remote id q slot op addr none => .remote id q slot op addr (some st)
  | w => w

/-- The last message of a remote operation has its response. -/
def State.remoteOver (s : State) : Purpose2 → State
  | .remote _ q slot op addr st => s.remoteDone q slot op addr st
  | .get id q slot src dst n st => s.getDone id q slot src dst n st
  | _ => s

/-- The messages of a remote operation that are still outstanding learn that it has failed. -/
def State.failOp (s : State) (w : Purpose2) (status : Nat) : State :=
  { s with out := s.out.map fun o => if o.why.opKey == w.opKey then { o with why := o.why.fail status } else o }

/-- A message of a remote operation has its response: the operation is over when none of its messages is left. -/
def State.remotePart (s : State) (w : Purpose2) (status : Nat) (bad : Bool) : State :=
  let rest := s.out.any fun o => o.why.opKey == w.opKey
  if !rest then s.remoteOver (if bad then w.fail status else w)
  else if bad then s.failOp w status
  else s

/-- Bytes of a GET from `a` on are kept until its last message has come: those that one of its messages asks for. -/
def State.keepGet (s : State) (o : Outstanding) (a : Nat) (bs : List Byte) : State :=
  match o.why with
  | .get id _ _ _ _ _ _ => s.keepPart id (Nat.max a o.addr) ((bs.take (o.addr + o.len - a)).drop (o.addr - a))
  | _ => s

/-- Retires a request with its response: its status, the mark of its data, and the bytes of a read. What waited for its tag is sent. -/
def State.retire (s : State) (o : Outstanding) (status : Nat) (mark : Mark) (bs : List Byte) : State :=
  let s := State.pump { s with out := s.out.erase o } o.port
  let bad := status != rOK || mark != .good
  match o.why with
  | .event i => s.ackEvent i
  | .note => State.noteTail { s with ev := { s.ev with noteUp := false } }
  | .remote _ _ _ _ _ _ => s.remotePart o.why status bad
  | .get _ _ _ _ _ _ _ =>
    let s := if mark = .good then (if status = rOK && o.port == .hport then (s.putMem o.addr (bs.take o.len)).keepGet o o.addr (bs.take o.len) else s)
      else s.poisonEvents 5 1 (if o.port = .hport then [(o.addr, mark)] else (s.granules o.addr o.len).map fun g => if g.2 = .good then (g.1, mark) else g)
    s.remotePart o.why status bad
  | .ord q =>
    let ch := match o.port with | .mc n => n | .hport => 16
    s.setQx q { s.qx q with ords := (s.qx q).ords.map fun l => l.filter fun c => c != ch }
  | .emit ln => s.emitAcked ln none
  | .prod ln _ => s.emitAcked ln none
  | .ringRec ln n => s.emitAcked ln (some n)
  | .merge ln round =>
    let s := if s.out.any (fun x => x.why == .merge ln round) then s else s.mergeCounts ln round
    s.emitAcked ln none
  | .mergeCnt ln _ => s.emitAcked ln none
  | .yarrow slot block => (if mark = .good then s else s.poisonEvents 2 0 [(o.addr, mark)]).yAnswer slot block bs bad
  | .plain | .read => s

/-- The request that a response names by its tag (R366): one that has been sent. -/
def State.findOut (s : State) (p : Port) (tag : Nat) : Option Outstanding :=
  s.out.find? fun o => o.port == p && o.tag == tag && o.wait.isNone

/-- The data of a read at an address outside the window, as the H-port delivers them: DXQ4 judges the place by its latest response (R388). -/
def State.putAnswer (s : State) (addr : Nat) (bs : List Byte) (mark : Mark) : State :=
  let s := if mark = .good then s.putMem addr bs else s
  { s with memMark := Store.writeRange markDefault s.memMark (addr / 128) (List.replicate ((addr + Nat.max 8 bs.length + 127) / 128 - addr / 128) mark) }

/-- The status that a mark stands for, and the mark that a response of the H-port stands for (R367). -/
def markStatus : Mark → Nat
  | .good | .pois => rOK
  | .errData => rDATA
  | .err st => st
def answerMark (status : Nat) (pois : Bool) : Mark :=
  if pois then .pois else if status = rOK then .good else if status = rDATA then .errData else .err status

/-- H_RESPONSE (R367): poison and `ERR_DATA` deliver poisoned data. A response to a read whose data the model takes at once, which holds no request, installs what it brings at its address: data, or the mark of an error response, which a later read there meets (log entries 35 and 142, DESIGN CHOICE). -/
def execHResponse (tag status : Nat) (pois : Bool) (addr : Nat) (words : List Word64) (s : State) : Host.Outcome State Fault Refusal :=
  let mark : Mark := if pois then .pois else if status = rDATA then .errData else .good
  let bs := words.flatMap fun w => leBytes 8 w.toNat
  match s.findOut .hport tag with
  | none => if s.served && !s.inWindow addr && (!words.isEmpty || answerMark status pois != .good) then .next (s.putAnswer addr bs (answerMark status pois)) else .next s
  | some o => .next (s.retire o status mark bs)

/-- `LENW` of the request that a granule answers (R366): of the request that its tag names, or of the latest `RD` that went out on the channel under the tag; past the headers that the port keeps it is a free value (log entry 142). -/
def State.askedLenw (s : State) (ch tag : Nat) : Nat :=
  match s.findOut (.mc ch) tag with
  | some o => o.hdr.lenw
  | none =>
    match ((s.link.mcReq.getD ch []).map Header.parse).reverse.find? fun h => h.op == opRD && h.tag == tag with
    | some h => h.lenw
    | none => Config.freeNat s.freeCtr % 8

/-- The header beside the first segment of a granule (R365, R366, R386, R388). -/
def returnHeader (tag lenw : Nat) (mark : Mark) : Header :=
  { Header.nop with op := opRSP, pois := mark == .pois, tag := tag % 2 ^ 10, sub := markStatus mark, lenw := lenw }

/-- A granule as its channel delivers it: DXQ4 judges a location by its latest response (R388). -/
def State.putGranule (s : State) (addr : Nat) (data : List Byte) (mark : Mark) : State :=
  let n := s.granule / 128
  let s := if mark = .good then s.putMem addr (data.take s.granule) else s
  { s with memMark := Store.writeRange markDefault s.memMark (addr / 128) (List.replicate n mark) }

/-- A granule of a GET as it arrives (R354, R355): its bytes are kept; a mark fails the operation, and poison posts its event. The message is answered with its last granule (R386: granules come in ascending order). -/
def State.getGranule (s : State) (o : Outstanding) (addr : Nat) (data : List Byte) (mark : Mark) : State :=
  let bad := mark != .good
  let s := if bad then s.poisonEvents 5 1 [(addr, mark)] else s.keepGet o addr (data.take s.granule)
  if o.addr + o.len ≤ addr + s.granule then (State.pump { s with out := s.out.erase o } o.port).remotePart o.why (markStatus mark) bad
  else if bad then s.failOp o.why (markStatus mark)
  else s

/-- The return path of a channel brings a granule with its header (R490); one whose request the port no longer keeps draws a free `LENW`. -/
def State.tookGranule (s : State) (ch tag : Nat) (data : List Byte) (mark : Mark) : State :=
  { s.bump with link := s.link.takeMc ch (returnSegments (returnHeader tag (s.askedLenw ch tag) mark).word (data.take s.granule)) }

/-- MC_READ_RESPONSE (R386, R388): granule data of a channel. -/
def execMcReadResponse (ch tag addr : Nat) (data : List Byte) (mark : Mark) (s : State) : Host.Outcome State Fault Refusal :=
  if !s.flag (fMC_UP ch) || decide (16 ≤ ch) || addr % s.granule != 0 || !s.inWindow addr || s.channel addr != ch then .next s
  else
    let s := (s.tookGranule ch tag data mark).putGranule addr data mark
    match s.findOut (.mc ch) tag with
    | none => .next s
    | some o =>
      match o.why with
      | .get _ _ _ _ _ _ _ => if decide (o.addr < addr + s.granule ∧ addr < o.addr + o.len) then .next (s.getGranule o addr data mark) else .next s
      | _ => .next s

/-- MC_WRITE_ACK (R371), with its status (R367). -/
def execMcWriteAck (ch tag status : Nat) (s : State) : Host.Outcome State Fault Refusal :=
  match s.findOut (.mc ch) tag with
  | none => .next s
  | some o =>
    match o.why with
    | .get _ _ _ _ _ _ _ | .ord _ | .yarrow _ _ => .next s
    | _ => .next (s.retire o status .good [])

/-- MC_ORD_ACK (R389): the oldest ordering request of the channel. -/
def execMcOrdAck (ch : Nat) (s : State) : Host.Outcome State Fault Refusal := .next (s.ackOrd ch)

/-! Faults (R384, R480). -/

/-- What a port keeps of its traffic: the H-port's last 64 flits, a channel's last 64 request headers (log entry 114). -/
def LinkX.traffic (l : LinkX) : Port → List (List (BitVec 128))
  | .hport => l.flits.map (·.slots)
  | .mc n => (l.mcReq.getD n []).map fun h => [h]

/-- A port's fault: its traffic is captured, over what an earlier fault of it captured (R483), and the event is posted with Farrier's exception. -/
def State.portFault (s : State) (p : Port) (e : EvRec) : State :=
  let e := { e with exc := true }
  let s : State := { s with link := { s.link with capture := (s.link.capture.filter fun c => c.1 != p) ++ [(p, s.link.traffic p)] } }
  (s.post e).raise (.linkLog p) e

/-- The H-port stops (R384). -/
def State.hportDown (s : State) : State := (s.setF fLSTATE 5).setF fTK_FAIL 6

/-- LINK_FAULT (R384): a flit whose parity or a header of which is wrong stops the H-port; before ONLINE the attach fails with it. -/
def execLinkFault (flit : Flit) (carry vc : Nat) (s : State) : Host.Outcome State Fault Refusal :=
  match flitFault flit carry vc with
  | none => .next s
  | some (cause, v) =>
    if s.lstate = 0 || s.lstate = 5 then .next s
    else
      let t := if decide (s.lstate < 3) then s.linkFail 6 else s.hportDown
      let t : State := { t with link := t.link.carry [flit] }
      .next (t.portFault .hport (s.event 11 1 3 [(36, leBytes 1 cause), (37, leBytes 1 v)]))

/-- RSP_TIMEOUT (R480): a request outstanding for 100 ms puts its port in fault; a channel answers what is outstanding on it as poisoned. The events of those answers precede `RSP_TIMEOUT` in the order of R478. -/
def execRspTimeout (port : Port) (tag : Nat) (s : State) : Host.Outcome State Fault Refusal :=
  match s.findOut port tag with
  | none => .next s
  | some _ =>
    let k := match port with | .hport => 0 | .mc n => n + 1
    let e := s.event 11 2 3 [(36, leBytes 1 k), (38, leBytes 2 tag)]
    match port with
    | .hport => .next (s.hportDown.portFault .hport e)
    | .mc n =>
      let s := s.setF (fMC_UP n) 0
      let s := (s.out.filter fun o => o.port == port).foldl (fun s o => s.retire ((s.out.find? fun x => { x with why := o.why } == o).getD o) rDATA .errData []) s
      .next (s.portFault (.mc n) e)

/-! Detach (R467). -/

/-- The QUIESCED state: nothing further decodes, launches or issues. -/
def State.enterQuiesce (s : State) : State :=
  let s := s.setF fLSTATE 4
  { s with quiesced := true, link := { s.link with goQuiet := false } }

/-- QUIESCE (R467): during a commit it takes effect when the commit ends. -/
def execQuiesce (s : State) : Host.Outcome State Fault Refusal :=
  let s := s.tookMgmt
  if s.lstate != 3 then .next s
  else if s.flag fPD_BUSY then .next { s with link := { s.link with goQuiet := true } }
  else .next s.enterQuiesce

/-- Nothing of DXQ4 is in flight or outstanding, and the event ring is current (R467). -/
def State.idleForDetach (s : State) : Bool :=
  s.flights.isEmpty && s.repack.isNone && s.maskJobs.isEmpty && s.out.isEmpty && s.ev.issued == s.getF fEV_TAIL

/-- DRAINED (R467): DXQ4 sends it once the drain is over; on VC3 it takes a header credit, and waits for one (R364, R379). -/
def execDrained (s : State) : Host.Outcome State Fault Refusal :=
  if s.lstate = 4 && s.idleForDetach && !s.link.drained && (!s.onVc3 || s.link.affords 3 0) then
    let t := s.tell 6 0
    .next { t with link := { (if s.onVc3 then t.link.pay 3 0 else t.link) with drained := true } }
  else .next s

/-- ISOLATE (R467): every memory-channel request is dropped, the link goes `DOWN`, every output takes its idle value (R489); the domains wait for the host die to move them `OFF`. -/
def execIsolate (s : State) : Host.Outcome State Fault Refusal :=
  if !(s.lstate == 3 || s.lstate == 4) then .next s
  else
    let s := (List.range 16).foldl (fun s n => s.setF (fMC_UP n) 0) (s.setF fLSTATE 0)
    let s := s.holdPins
    let off := ((List.range 16) ++ [17, 16, 18]).filter fun n => s.getF (fPSTATE n) != 2
    .next { s with
      out := [], gotten := [], quiesced := true
      link := { s.link with isolated := true, flits := [], mcReq := List.replicate 16 [], mcData := List.replicate 16 [], mcRet := List.replicate 16 [] }
      sync := { s.sync with up := false, cdn := false }
      power := { s.power with moves := off.map fun n => (n, 2), vsel := 0, sleepAck := false, sleepDeny := false, attachFail := false } }

/-! Responses to the requests that DXQ4 serves (R364 to R370). -/

/-- Sends the response to a request: `op` RD of `n` words, WR of `n` words or ATOM. It copies tag, agent and, for a read, `LENW`; data of an `ERR_DATA` response are zero. The credits of what DXQ4 has removed from its buffer go back. -/
def State.replied (s : State) (snd : Sender) (op n : Nat) : State :=
  let r := s.resp.getD ⟨0, []⟩
  let k := if op = opRD then n else if op = opATOM then 1 else 0
  let d := wordSlots ((List.range k).map fun i => if r.status = rDATA then 0 else r.words.getD i 0)
  let h : Header := { Header.nop with
    op := if op = opRD then opRSP else opACK, vc := 1, tag := snd.tag.toNat, nds := d.length, agent := snd.agent.toNat
    aepoch := s.getF fAEPOCH, sub := r.status, lenw := if op = opRD then n - 1 else 0 }
  let back := creditFlits snd.vc.toNat 1 (if op = opWR then (n + 1) / 2 else if op = opATOM then 1 else 0)
  { s with respHdr := h.word, link := s.link.carry (back ++ dataFlits (s.getF fTK_MODE) (h.word :: d)) }

/-! Output pins (R489). Nothing has been sent from power-up to the ON step, in reset and under isolation, so each is idle there. -/

/-- `tack_tx_*`: the flit that the H-port sent last. -/
def State.txFlit (s : State) : Flit := (s.link.flits.getLast?).getD idleFlit
/-- `tack_online`. -/
def State.tackOnline (s : State) : Bool := s.online && !s.link.isolated
/-- `mc<n>_req` with `mc<n>_req_vld`: the header that channel `n` presented last. -/
def State.mcReqPin (s : State) (n : Nat) : Option (BitVec 128) := (s.link.mcReq.getD n []).getLast?
/-- `mc<n>_wdat` with `mc<n>_wslot_vld`: the slots of its last cycle. -/
def State.mcDataPin (s : State) (n : Nat) : List (Option (BitVec 128)) := ((streamCycles 20 (s.link.mcData.getD n [])).getLast?).getD []

/-! Channel arbiters (R393, R395). -/

/-- The 66 shadow words of the arbiter. -/
def State.arbShadows (s : State) : List Word64 :=
  s.reg 0x4000 :: s.reg 0x4008 :: (List.range 64).map fun n => s.reg (rARB_SLOT n)

/-- A write of `GO` in `ARB_COMMIT`; none is an error response (R393). -/
def State.arbGo (s : State) : Option State :=
  if s.getF (fSLOT_LEN 0) = 0 then none
  else if !((List.range 64).takeWhile fun n => s.getF (fSLOT_LEN n) != 0).all (fun n => decide (s.getF (fSLOT_REQ n) ≤ 8)) then none
  else
    let c := (s.getF fARB_CNUM + 1) % 2 ^ 16
    let s' := (s.setF fARB_CNUM c).setF fARB_PEND 15
    some { s' with arb := { s'.arb with pend := List.replicate 4 (some (c, s.arbShadows)) } }

/-- ARB_SNAPSHOT_APPLY (R393): group `g` applies its pending snapshot whole. -/
def execArbSnapshotApply (g : Nat) (s : State) : Host.Outcome State Fault Refusal :=
  match s.arb.pend.getD g none with
  | none => .next s
  | some (c, w) =>
    let s := (s.setBit fARB_PEND g false).setF (fARB_CEPOCH g) c
    .next { s with arb := { pend := s.arb.pend.set g none, eff := s.arb.eff.set g w } }

/-- ARB_MODE_CHANGE (R395): the arbiter of group `g` follows the gait; table mode starts at slot 0. -/
def execArbModeChange (g : Nat) (s : State) : Host.Outcome State Fault Refusal :=
  if decide (4 ≤ g) || s.getF (fARB_MODE g) == s.getF fGAIT then .next s
  else .next ((s.setF (fARB_MODE g) (s.getF fGAIT)).setF (fARB_CUR g) 0)

end Sys2Proof.Machine
end

