-- ==== Sys2Proof/Machine/Lockstep.lean ====
section
/-! DEFINITION. Digests and the lock-step comparison (R433 to R436). -/

namespace Sys2Proof.Machine

/-! The digest (R433). -/

/-- The pipeline score that a row and token put into a tile word; a row whose score path lacks an input has free values, the same in runs that share their inputs (R425). -/
def digestScore (step row j : Nat) (r : RowState) : F32 :=
  if r.blind then Config.blindScore step row j else (r.toks.getD j default).z0

/-- The word of score tile k·S + s. -/
def tileWord (rows : Array RowState) (n step k sl : Nat) : Nat :=
  (crc32c ((List.range 64).flatMap fun i => (List.range 64).flatMap fun t =>
    let row := 64 * k + i
    let j := 64 * sl + t
    leBytes 4 (match rows[row]? with
      | some r => if j < n then (digestScore step row j r).toNat else 0
      | none => 0))).toNat

/-- The tile words of a step, in tile order. -/
def tileWords (f : Flight) : List Nat :=
  let rows := f.rows.toArray
  (List.range (ceilDiv f.prog.rows 64)).flatMap fun k => (List.range f.view.slabs).map fun sl =>
    tileWord rows (f.view.vHi - f.view.vLo) f.prog.stepId k sl

/-- The words as the digest log gives them back: a damaged one reads 0xFFFF_FFFF (R471). -/
def State.loggedWords (s : State) (l : List Nat) : List Nat :=
  l.zipIdx.map fun q => if s.bad.contains (.digestLog q.2) then 0xFFFFFFFF else q.1

/-- Σ w_x·(2x + 1) modulo 2^64 over the words from index `x` on. -/
def weighSum (l : List Nat) (x : Nat) : Nat := sumNat (l.zipIdx.map fun q => q.1 * (2 * (x + q.2) + 1)) % 2 ^ 64

/-- D_hi from the bytes that the step wrote for each row. -/
def rowSum (f : Flight) : Nat := weighSum (f.rowBytes.map fun b => (crc32c b).toNat) 0

/-! The comparison (R435, R436). -/

/-- Sends a pair to the peer as one 16-byte PUT (R435). -/
def State.sendPair (s : State) (lo hi : Nat) : State :=
  let a := s.getF fDIGEST_PEER
  s.writeBy (some .hport) 0 a (leBytes 8 lo ++ leBytes 8 hi) .plain

/-- The comparison of a step ends: it may write its status. -/
def State.endCompare (s : State) (f : Flight) : State :=
  let s := s.setFlight { f with digested := true }
  { s with sync := { s.sync with cmpLn := none, bisect := none } }

/-- Every queue's `STATE` from what it holds. -/
def State.refreshAll (s : State) : State := (List.range 32).foldl (fun s q => s.refresh q) s

/-- A difference (R436): `LOCKSTEP_STAT`, the event with its exception, and every queue waits. -/
def State.mismatchAt (s : State) (f : Flight) (first : Nat) : State :=
  let digests := [f.digLo, f.digHi, s.sync.peer.1, s.sync.peer.2]
  let s := ((s.setF fMISMATCH 1).setF fFIRST_TILE first).setF fLS_STEP_ID f.prog.stepId
  let e := { s.event 16 1 2 [(36, leBytes 1 (s.getF fLS_SIDE)), (40, leBytes 4 first)] with
    exc := true, stepId := f.prog.stepId, queue := f.queue }
  (((s.post e).raise (.lockstepLog digests) e).endCompare f).refreshAll

/-- The sum that a bisection round compares, over tiles [lo, mid). -/
def State.roundSum (s : State) (lo mid : Nat) : Nat := weighSum ((s.sync.log.take mid).drop lo) lo

/-- Starts round `j` over [lo, hi), or ends the bisection. -/
def State.bisectFrom (s : State) (f : Flight) (lo hi j : Nat) : State :=
  if hi - lo ≤ 1 then s.mismatchAt f lo
  else
    let s : State := { s with sync := { s.sync with bisect := some (lo, hi, j) } }
    s.sendPair (s.roundSum lo ((lo + hi) / 2)) (2 ^ 32 * f.prog.stepId + j)

/-- Compares the step's digest with a delivery of the peer, when both are there. -/
def State.tryCompare (s : State) : State :=
  match s.sync.cmpLn with
  | none => s
  | some ln =>
    match s.flight ln with
    | none => s
    | some f =>
      if !s.sync.delivered || s.sync.bisect.isSome then s
      else
        let s : State := { s with sync := { s.sync with delivered := false, peer := (s.getF fDG_LO, s.getF fDG_HI) } }
        let lo := s.getF fDG_LO
        if lo = f.digLo && s.getF fDG_HI == f.digHi then s.endCompare f
        else if lo = f.digLo then s.mismatchAt f 0xFFFFFF
        else s.bisectFrom f 0 s.sync.log.length 1

/-- A write of `DG_HI`: a delivery (R435). -/
def State.deliver (s : State) : State := State.tryCompare { s with sync := { s.sync with delivered := true } }

/-- The comparison is in use (R351). -/
def State.compares (s : State) (cmp : Bool) : Bool := cmp && s.flag fLS_EN

/-- Every earlier step's digest is done. -/
def State.digestTurn (s : State) (f : Flight) : Bool := s.flights.all fun g => decide (f.ln ≤ g.ln) || g.digestOver

/-- The digest of a step is formed, written and compared (R351, R433 to R435). -/
def State.takeDigest (s : State) (f : Flight) (wr cmp : Bool) (addr : Nat) : State :=
  let words := s.loggedWords (tileWords f)
  let lo := weighSum words 0
  let hi := rowSum f
  let s := State.mend { s with sync := { s.sync with log := words } } fun p => match p with | .digestLog _ => true | _ => false
  let s := if wr then s.writeHost addr (leBytes 8 lo ++ leBytes 8 hi) (.emit f.ln) else s
  let g := { f with digLo := lo, digHi := hi }
  if s.compares cmp then
    let s := (s.setFlight g).sendPair lo hi
    State.tryCompare { s with sync := { s.sync with cmpLn := some f.ln } }
  else s.setFlight { g with digested := true }

/-- DIGEST (R351, R433 to R435): once the writes of steps 1 to 5 of R291 are acknowledged; where the step has not yet completed for its requests, its `NOTE` words go out first. -/
def execDigest (ln : Nat) (s : State) : Host.Outcome State Fault Refusal :=
  match s.flight ln with
  | none => .next s
  | some f =>
    match f.prog.digest with
    | none => .next s
    | some (wr, cmp, addr) =>
      if f.normal.isSome || f.digestOver || !s.emitOver f || s.sync.cmpLn.isSome || !s.digestTurn f then .next s
      else
        let s := s.closeEmit f
        match s.flight ln with
        | none => .next s
        | some g => if s.flightQuiet ln then .next (s.takeDigest g wr cmp addr) else .next s

/-- DIGEST_BISECT_ROUND (R436): the peer's sum of the round is there; the halves are narrowed. -/
def execDigestBisectRound (s : State) : Host.Outcome State Fault Refusal :=
  match s.sync.cmpLn, s.sync.bisect with
  | some ln, some (lo, hi, j) =>
    match s.flight ln with
    | none => .next s
    | some f =>
      if !s.sync.delivered then .next s
      else
        let s : State := { s with sync := { s.sync with delivered := false } }
        let mid := (lo + hi) / 2
        let same := s.getF fDG_LO == s.roundSum lo mid && s.getF fDG_HI == 2 ^ 32 * f.prog.stepId + j
        .next (if same then s.bisectFrom f mid hi (j + 1) else s.bisectFrom f lo mid (j + 1))
  | _, _ => .next s

end Sys2Proof.Machine
end

