-- ==== Sys2Proof/Machine/Tables.lean ====
section
/-! DEFINITION. Table banks (R153 to R159): commits from their request to the copy, the table window; and NORMAL (R229, R230). -/

namespace Sys2Proof.Machine

/-! Commits (R155). -/

def State.activeBank (s : State) : Nat := s.getF fBANK_ACT
def State.shadowBank (s : State) : Nat := 1 - s.getF fBANK_ACT
/-- The shadow accepts window writes and commits. -/
def State.shadowOpen (s : State) : Bool := s.getF fSHADOW_ST == 0 || s.getF fSHADOW_ST == 3

/-- A commit is accepted; `q` is the queue of a TABCOMMIT. -/
def State.startCommit (s : State) (q : Option Nat) : State :=
  { (s.setF fSHADOW_ST 1) with tabQueue := q, tabPassed := false }

/-- TABCOMMIT (R155, R358): requests a commit; in any other state of the shadow it waits. One that has waited is accepted when the shadow becomes `REFUSED` too: the rule's first sentence, where its second speaks of a return to `IDLE` alone (log entry 136, DESIGN CHOICE). -/
def execTabcommit (q : Nat) (s : State) : Host.Outcome State Fault Refusal :=
  match s.issuable q with
  | some .tabcommit => if s.shadowOpen then .next (s.startCommit (some q)) else .next s
  | _ => .next s

/-- A `GO` write (R155): ignored with an error response when the shadow is not open. -/
def State.commitGo (s : State) : Option State := if s.shadowOpen then some (s.startCommit none) else none

/-- A commit ends `REFUSED` (R155, R156); the queue of its TABCOMMIT halts at the instruction. -/
def State.refuseCommit (s : State) (f : CommitFail) : State :=
  let q := s.tabQueue
  let s := (((s.setF fSHADOW_ST 3).setF fCFAIL f.code).setF fCF_ITEM f.item).setF fCF_SUB f.sub
  let s : State := { s with tabQueue := none, tabPassed := false }
  let s := s.post (s.event 6 1 2 [(36, leBytes 1 f.code), (37, leBytes 1 f.item), (38, leBytes 2 f.sub)])
  match q with
  | some q => if s.halted q then s else s.halt q 8 0 0 0xFFFFFFFF
  | none => s

/-- COMMIT_CHECK_DONE (R155): Farrier's check of the shadow ends. A commit goes on only while PD_SEL, which holds the banks, is `ON` (R445). -/
def execCommitCheckDone (s : State) : Host.Outcome State Fault Refusal :=
  if !s.selOn || s.getF fSHADOW_ST != 1 || s.tabPassed || !s.flag fFARRIER_UP then .next s
  else match commitCheck (s.bankWord s.shadowBank) with
    | some f => .next (s.refuseCommit f)
    | none => .next { s with tabPassed := true }

/-- The epoch after one (R155). -/
def nextEpoch (e : Nat) : Nat := if e = 0xFFFFFFFF then 1 else e + 1

/-- A TABCOMMIT at HEAD is complete: HEAD passes it. -/
def State.passCommit (s : State) (q : Nat) : State :=
  match (s.qx q).item with
  | some d => if d.item == .insn .tabcommit && !s.halted q then s.passItem q false else s
  | none => s

/-- LANE_COPY_DONE (R155): the shadow is in every lane copy, and the commit is `PASSED`. -/
def execLaneCopyDone (s : State) : Host.Outcome State Fault Refusal :=
  if !s.selOn || s.getF fSHADOW_ST != 1 || !s.tabPassed then .next s
  else
    let e := nextEpoch (s.getF fCF_EPOCH)
    let q := s.tabQueue
    let s := s.inService.foldl (fun s cl => s.copyLane s.shadowBank e cl) s
    let s := { ((s.setF fSHADOW_ST 2).setF fPEND_EPOCH e) with tabQueue := none, tabPassed := false }
    .next (match q with | some q => s.passCommit q | none => s)

/-- BANK_DRAIN_DONE (R155): no step bound to the previous epoch is in flight. -/
def execBankDrainDone (s : State) : Host.Outcome State Fault Refusal :=
  if s.selOn && s.getF fSHADOW_ST = 4 && s.flights.all (fun f => f.bank == s.activeBank) then .next (s.setF fSHADOW_ST 5) else .next s

/-- BANK_COPY_DONE (R155): the shadow holds the contents of the active bank. -/
def execBankCopyDone (s : State) : Host.Outcome State Fault Refusal :=
  if !s.selOn || s.getF fSHADOW_ST != 5 then .next s
  else
    let s : State := { s with banks := Store.setRegion s.banks s.shadowBank (Store.region s.banks s.activeBank) }
    let s := s.inService.foldl (fun s cl => s.copyLane s.shadowBank (s.getF fCF_EPOCH) cl) s
    .next (s.setF fSHADOW_ST 0).advanceG

/-! The table window (R154, R159). -/

/-- The bits that a word of a bank stores; none where the window holds no word. Reserved bits of descriptors and slots read as written (log entry 8). -/
def windowWord (off : Nat) : Bool :=
  (decide (0x100 ≤ off ∧ off < 0x200)) || (decide (0x4000 ≤ off ∧ off < 0x8000) && decide (off % 0x100 < 168)) ||
  decide (0x8000 ≤ off ∧ off < 0x10000)
/-- Offsets of the Campion region that belong to the window. -/
def inWindowRegion (off : Nat) : Bool := decide (0x100 ≤ off ∧ off < 0x200) || decide (0x4000 ≤ off ∧ off < 0x10000)

/-- A served window write; none is an error response, with its count and event (R154), whose offset counts from the start of the Campion region (log entry 147, DEDUCED). -/
def State.writeWindow (s : State) (off : Nat) (v : Word64) : State × Bool :=
  if s.shadowOpen then
    (if windowWord off then { s with banks := Store.write bankDefault s.banks (2 ^ 16 * s.shadowBank + off) v } else s, true)
  else
    let s := s.addSat fWREJ 1
    (if s.flag fWREJ_EV then s.post (s.event 6 2 0 [(40, leBytes 4 off)]) else s, false)

/-! NORMAL. -/

/-- The four values of a block (R230). -/
def normalBlock (compat : Bool) (method : Nat) (b : PhiloxBlock) : List F32 :=
  let a (x : BitVec 32) : Nat := x.toNat / 256
  let pair (a0 a1 : Nat) : List F32 :=
    let u := rd32 (Frac.scaled (2 * a0 + 1 : Nat) (-25))
    let l := ((XR.of (cfLn compat u)).mul (.fin (Frac.ofInt 2))).neg.toF32 .even
    let rr := cfSqrt l
    let v := Frac.scaled a1 (-24)
    [F32.mul .even rr (cfCos2piExact v), F32.mul .even rr (cfCos2piExact (v.sub ⟨1, 4⟩))]
  if method = 0 then pair (a b.x0) (a b.x1) ++ pair (a b.x2) (a b.x3)
  else [b.x0, b.x1, b.x2, b.x3].map fun x => cfNicdf (a x / 4096)

/-- Value `n` of a NORMAL (R229, R230). -/
def normalValue (rd : Nat → Word64) (compat : Bool) (d : NormalDesc) (n : Nat) : F32 :=
  let b := drawBlock d.seed d.stream d.npos (d.block0 + n / 4) .normal
  let x := (normalBlock compat d.method b).getD (n % 4) 0
  if d.post < 128 then x else progRun rd (d.post % 64) x

/-- A value of a NORMAL as its lane forms it: a damaged word of a lane copy gives NaN to the values whose lane reads it, which the spec does not name (R471): a free choice for each (log entry 125). -/
def State.laneValue (s : State) (f : Flight) (d : NormalDesc) (n : Nat) : F32 :=
  let hurt := s.bad.any fun p => match p with | .laneCopy c _ => s.serving c | _ => false
  if d.post ≥ 128 && hurt && Config.freeBool s.freeCtr n then fNan
  else normalValue (s.bankWord f.bank) f.compat d n

/-- The bytes of a value in its output format (R229). -/
def normalBytes (d : NormalDesc) (x : F32) : List Byte :=
  if d.ofmt = 0 then leBytes 4 x.toNat else leBytes 2 ((XR.of x).toBf16.toNat / 2 ^ 16)

/-- NORMAL (R229): once the arrays' turn comes, the values are written. -/
def execNormal (ln : Nat) (s : State) : Host.Outcome State Fault Refusal :=
  match s.flight ln with
  | none => .next s
  | some f =>
    match f.normal with
    | none => .next s
    | some d =>
      if f.emitted || f.complete || !s.arraysFree ln then .next s
      else
        let out := (List.range d.count).flatMap fun n =>
          normalBytes d (s.laneValue f d n)
        let s := if d.post < 128 then s else s.bump
        .next ((s.writeHost d.out out (.emit ln)).setFlight { f with emitted := true, gEmit := s.gc, gcDone := s.gc })

end Sys2Proof.Machine
end

