-- ==== Sys2Proof/Machine/Context.lean ====
section
/-! DEFINITION. Context images (R437 to R442): what a save writes, what a restore accepts and does. -/

namespace Sys2Proof.Machine

/-! The image (R437, R438). -/

/-- A section: kind, index, payload. -/
structure Section where
  kind : Nat
  idx  : Nat
  body : List Byte
deriving DecidableEq, Repr, Inhabited

/-- Fills a payload to whole units of 256 bytes. -/
def padUnits (l : List Byte) : List Byte := padTo (256 * ceilDiv l.length 256) l
def Section.units (x : Section) : Nat := ceilDiv x.body.length 256

/-- The seal of a section: a CRC-32C over header and payload with the seal taken as zero. -/
def sectionBytes (x : Section) : List Byte :=
  let body := padUnits x.body
  let head := padTo 256 ([BitVec.ofNat 8 x.kind, BitVec.ofNat 8 x.idx, 0, 0] ++ leBytes 4 x.units)
  putBytes head 252 (leBytes 4 (crc32c (head ++ body)).toNat) ++ body

/-- The registers of a plane set as an image holds them: nothing of the placement's clusters (R439; log entry 16). -/
def State.setWords (s : State) (p : Nat) : List Byte :=
  let w0 := setBits (setBits (setBits (s.reg (rPS p)) 16 5 0) 30 10 0) 40 8 0
  leBytes 8 w0.toNat ++ (List.range 7).flatMap fun k => leBytes 8 (s.reg (rPS p + 8 * (k + 1))).toNat

/-- The records of a plane in the layout of R46. -/
def State.planeBytes (s : State) (v : PlaneView) (plane : Nat) : List Byte :=
  (recordsOf v plane).flatMap fun x => (s.readLoc (x.loc v) (x.size v)).bytes.toList

/-- Offsets of a bank's words in the order of a `TABLES` section. -/
def bankOffsets : List Nat :=
  ((List.range 32).map fun k => 0x100 + 8 * k) ++
  ((List.range 64).flatMap fun p => (List.range 21).map fun k => 0x4000 + 0x100 * p + 8 * k) ++
  ((List.range 4096).map fun k => 0x8000 + 8 * k)

/-- A request as an image holds it (R438). -/
def State.requestBytes (s : State) (n : Nat) : List Byte :=
  let entry := (List.range 16).flatMap fun w =>
    leBytes 8 (if w = 14 then 0 else if w = 0 then (setBits (s.word n 0) 40 8 0).toNat else (s.word n w).toNat)
  let hist := padTo 2048 ((s.req n).hist.flatMap fun p => leBytes 4 (p.1 + 2 ^ 24 * p.2))
  padTo 2304 (leBytes 8 n ++ entry ++ hist ++ padTo 60 ((s.req n).tail.flatMap (leBytes 4)))

/-- Stop sets in ascending address. -/
def insertStop (p : Nat × List Byte) : List (Nat × List Byte) → List (Nat × List Byte)
  | [] => [p]
  | q :: l => if p.1 ≤ q.1 then p :: q :: l else q :: insertStop p l

/-- The sections of an image, in their order (R438, R440). -/
def State.imageSections (s : State) (refOnly : Bool) : List Section :=
  let used := (List.range 16).filter fun p => s.getF (fPS_STATE p) != 0
  let planes (k : Nat) : List Section := ((List.range 16).filter s.psReady).filterMap fun p =>
    let v := s.planeView p
    if refOnly && !v.resident k then none else some ⟨k + 2, p, s.planeBytes v k⟩
  let masks := (List.range 64).filterMap fun k => match s.masks.getD k none with
    | some m => some ⟨5, k, padTo 256 (leBytes 8 m.base ++ leBytes 8 m.len) ++ m.bits⟩
    | none => none
  let bank (i b : Nat) : Section := ⟨6, i, bankOffsets.flatMap fun o => leBytes 8 (s.bankWord b o).toNat⟩
  let reqs := s.liveSlots.flatMap s.requestBytes
  let stops := (s.stops.foldl (fun l p => insertStop p l) []).flatMap fun p => padTo 1280 (leBytes 8 p.1 ++ p.2)
  (used.map fun p => ⟨1, p, s.setWords p⟩) ++ planes 0 ++ planes 1 ++ planes 2 ++ masks ++
  [bank 0 s.activeBank, bank 1 s.shadowBank] ++ (if reqs.isEmpty then [] else [⟨7, 0, reqs⟩]) ++
  (if stops.isEmpty then [] else [⟨8, 0, stops⟩])

/-- The table of contents and the sections behind it. -/
def layout : Nat → List Section → List (List Byte)
  | _, [] => []
  | o, x :: r =>
    ([BitVec.ofNat 8 x.kind, BitVec.ofNat 8 x.idx, 0, 0] ++ leBytes 4 x.units ++ leBytes 8 o) :: layout (o + 256 + 256 * x.units) r

/-- An image whole (R437). -/
def State.image (s : State) (refOnly : Bool) : List Byte :=
  let l := s.imageSections refOnly
  let body := l.flatMap sectionBytes
  let head := leBytes 4 0x49513444 ++ [4, if s.flag fCOMPAT then 1 else 0] ++ leBytes 2 l.length ++ leBytes 8 (4096 + body.length) ++
    leBytes 4 (s.getF fCF_EPOCH)
  padTo 4096 (padTo 64 head ++ (layout 4096 l).flatten) ++ body

/-- A save is refused (R440). -/
def State.saveDenied (s : State) : Bool :=
  (List.range 32).any s.qEn || !s.flights.isEmpty || s.repack.isSome || !s.repackQ.isEmpty || !s.maskJobs.isEmpty ||
  (List.range 16).any (fun p => s.getF (fPS_STATE p) == 1) || !s.shadows.isEmpty || !s.shadowOpen

/-! Restore (R441, R442). -/

/-- DXQ4 is not as a wipe left it, or a queue runs (R441). -/
def State.restoreDenied (s : State) : Bool :=
  (List.range 32).any s.qEn || (List.range 16).any (fun p => s.getF (fPS_STATE p) != 0) || s.masks.any Option.isSome ||
  !s.liveSlots.isEmpty || !s.banks.isEmpty

/-- A section of an image with the host address of its payload. -/
structure Found where
  sec  : Section
  addr : Nat
deriving DecidableEq, Repr, Inhabited

/-- Reads section `i` by its entry; none where its header, seal or a granule is bad. -/
def State.readSection (s : State) (img : Nat) (head : Array Byte) (i : Nat) : Option Found :=
  let e := 64 + 16 * i
  let (kind, idx, units, off) := (byteAt head e, byteAt head (e + 1), leAt head (e + 4) 4, leAt head (e + 8) 8)
  let (h, b1) := s.peek (img + off) 256
  let (b, b2) := s.peek (img + off + 256) (256 * units)
  let a := h.toArray
  let crc := (crc32c (putBytes h 252 [0, 0, 0, 0] ++ b)).toNat
  if b1 || b2 || byteAt a 0 != kind || byteAt a 1 != idx || leAt a 4 4 != units || leAt a 252 4 != crc then none
  else some ⟨⟨kind, idx, b⟩, img + off + 256⟩

/-- Sections in ascending kind and index. -/
def ordered : List Found → Bool
  | x :: y :: r => decide (256 * x.sec.kind + x.sec.idx < 256 * y.sec.kind + y.sec.idx) && ordered (y :: r)
  | _ => true

/-- The kinds that an image of a version may hold (R438, R442). -/
def kindOk (ver kind : Nat) : Bool := if ver = 3 then kind == 5 || kind == 7 || kind == 8 else decide (1 ≤ kind ∧ kind ≤ 8)

/-- An image read and checked: its version, its active epoch, its sections (R441). -/
def State.readImage (s : State) (img : Nat) : Option (Nat × Nat × List Found) :=
  let (h, bad) := s.peek img 4096
  let a := h.toArray
  let n := leAt a 6 2
  let ver := byteAt a 4
  if bad || leAt a 0 4 != 0x49513444 || !(ver == 3 || ver == 4) || decide (252 < n) then none
  else
    let l := (List.range n).map (s.readSection img a)
    if l.any Option.isNone then none
    else
      let f := l.filterMap id
      if ordered f && f.all (fun x => kindOk ver x.sec.kind) then some (ver, leAt a 16 4, f) else none

/-- What a restore reads of an image, by address and bytes: its head, then the sections that the head names (R441). -/
def State.imageReads (s : State) (img : Nat) : List (Nat × Nat) :=
  let (h, bad) := s.peek img 4096
  let a := h.toArray
  let n := leAt a 6 2
  let sections := if bad || leAt a 0 4 != 0x49513444 || !(byteAt a 4 == 3 || byteAt a 4 == 4) || decide (252 < n) then []
    else (List.range n).map fun i => (img + leAt a (64 + 16 * i + 8) 8, 256 + 256 * leAt a (64 + 16 * i + 4) 4)
  (img, 4096) :: sections

/-- The poisoned granules that a restore meets (R472), each with its event: Farrier reads as the remote-operation requester (R474), and the restore stops (log entry 123, DEDUCED). -/
def State.imagePoison (s : State) (img : Nat) : State :=
  s.poisonEvents 5 2 ((s.imageReads img).flatMap fun r => s.granules r.1 r.2)

def findSec (l : List Found) (kind idx : Nat) : Option Found := l.find? fun x => x.sec.kind == kind && x.sec.idx == idx

/-- Copies the planes of a set into its restored region (R441, R47). -/
def State.copyPlanes (s : State) (l : List Found) (v : PlaneView) : State :=
  [0, 1, 2].foldl (fun s k =>
    if !v.resident k then s
    else match findSec l (k + 2) v.psid with
      | none => s
      | some x => (recordsOf v k).zipIdx.foldl (fun s q =>
          match q.1.loc v with
          | .pad c b => s.writeSlice c b ((x.sec.body.drop (q.1.size v * q.2)).take (q.1.size v))
          | .host _ => s) s) s

/-- Restores one plane set: true where it loses the residency it had (R441). -/
def State.restoreSet (s : State) (l : List Found) (x : Found) : State × Bool :=
  let n := x.sec.idx
  let a := x.sec.body.toArray
  let s := (List.range 8).foldl (fun s k => s.setReg (rPS n + 8 * k) (BitVec.ofNat 64 (leAt a (8 * k) 8))) s
  let s := [0, 1, 2].foldl (fun s k => match findSec l (k + 2) n with | some y => s.setF (fPS_HOST n k) y.addr | none => s) s
  let v := s.planeView n
  let placed := v.res0 || v.res1 || v.res2
  let cls := s.inService
  let u := regionUnits v.lean v.hd (ceilDiv v.slabs (Nat.max 1 cls.length)) v.res0 v.res1 v.res2
  let b := s.getF (fPS_PDBASE n)
  let clash := cls.any fun c => (List.range 16).any fun p =>
    p != n && (match s.regionIn p c with | some (c0, l0) => decide (b < c0 + l0 ∧ c0 < b + u) | none => false)
  let s := { s with scrub := (0, 0, 0) }.advanceG
  if !placed then (s, false)
  else if decide (512 < b + u) || clash || cls.isEmpty then
    ([fPS_RES n 0, fPS_RES n 1, fPS_RES n 2, fPS_MIRROR n, fPS_NPLACE n, fPS_PDLEN n, fPS_PDBASE n].foldl (fun s f => s.setF f 0) s, true)
  else
    let s := ((s.setF (fPS_MIRROR n) 1).setF (fPS_NPLACE n) cls.length).setF (fPS_PDLEN n) u
    let s : State := { s with placed := s.placed.set n cls }
    (s.copyPlanes l (s.planeView n), false)

/-- Restores a mask set (R441); its words are written anew (R470). -/
def State.restoreMask (s : State) (x : Found) : State :=
  let a := x.sec.body.toArray
  let len := leAt a 8 8
  (State.mend { s with masks := s.masks.set x.sec.idx (some { base := leAt a 0 8, len := len, bits := (x.sec.body.drop 256).take (len / 8) }) }
    fun p => match p with | .maskStore k _ => k == x.sec.idx | _ => false).advanceG

/-- Restores a table bank into bank `b`. -/
def State.restoreBank (s : State) (b : Nat) (x : Found) : State :=
  let a := x.sec.body.toArray
  { s with banks := bankOffsets.zipIdx.foldl (fun m q =>
      Store.write bankDefault m (2 ^ 16 * b + q.1) (BitVec.ofNat 64 (leAt a (8 * q.2) 8))) s.banks }

/-- Restores a request from its record (R438, R441, R442); a waiting admission, and every entry while `AGE_Q` is 0, has `EPRIO` equal to `PRIO` (R276). -/
def State.restoreReq (s : State) (ver : Nat) (r : List Byte) : State :=
  let a := r.toArray
  let n := leAt a 0 8 % 8192
  let s := (List.range 16).foldl (fun s w => s.setReg (rENT n w) (BitVec.ofNat 64 (leAt a (8 + 8 * w) 8))) s
  let s := if ver = 3 then s.setF (fE_DLIM n) 8 else s
  let s := ((if s.eState n = 1 then s.setF (fE_EPRIO n) (s.getF (fE_PRIO n)) else s).levelEntry n).mendSlot n
  let hist := ((List.range 512).map fun k => (leAt a (136 + 4 * k) 3, byteAt a (139 + 4 * k))).filter fun p => p.2 != 0
  let tail := ((List.range 15).map fun k => leAt a (2184 + 4 * k) 4)
  let s := s.setReq n { noReq with hist := hist, tail := tail.take (Nat.min 15 (s.getF (fE_GLEN n))) }
  if s.flag (fE_YEN n) && !s.keySet (s.getF (fE_TENANT n)) then s.enter n 7 0x15 (some .plain) else s

def chunks (n : Nat) : Nat → List Byte → List (List Byte)
  | 0, _ => []
  | k + 1, l => l.take n :: chunks n k (l.drop n)

/-- Restores stop sets; their words are written anew (R470). -/
def State.restoreStops (s : State) (x : Found) : State :=
  let l := (chunks 1280 (x.sec.body.length / 1280) x.sec.body).map fun b => (leNat (b.take 8), (b.drop 8).take 1024)
  State.mend { s with stops := s.stops ++ l } fun p => match p with | .stopSet a _ => l.any (fun y => y.1 == a) | _ => false

/-- Restores an image that has passed its checks; the result has bit n for a set without its residency. -/
def State.restore (s : State) (ver epoch : Nat) (l : List Found) : State × Nat :=
  let of (k : Nat) : List Found := l.filter fun x => x.sec.kind == k
  let (s, lost) := (of 1).foldl (fun (y : State × Nat) x =>
    let z := y.1.restoreSet l x
    (z.1, if z.2 then y.2 + 2 ^ x.sec.idx else y.2)) (s, 0)
  let s := (of 5).foldl State.restoreMask s
  let s := (of 6).foldl (fun s x => s.restoreBank (if x.sec.idx = 0 then s.activeBank else s.shadowBank) x) s
  let s := if (of 6).isEmpty then s
    else State.mend (s.inService.foldl (fun s c => (s.copyLane 0 epoch c).copyLane 1 epoch c) ((s.setF fCF_EPOCH epoch).setF fPEND_EPOCH epoch))
      fun p => match p with | .laneCopy c _ => s.serving c | _ => false
  let s := (of 8).foldl State.restoreStops s
  let s := (of 7).foldl (fun s x => (chunks 2304 (x.sec.body.length / 2304) x.sec.body).foldl (fun s r => s.restoreReq ver r) s) s
  (if ver = 3 then s.setF fCOMPAT 1 else s, lost)

end Sys2Proof.Machine
end

