-- ==== Sys2Proof/Machine/Launch.lean ====
section
/-! DEFINITION. LAUNCH (R324 to R326): eligibility, the energy fit (R463), the swap of the table banks (R155) and what a step binds (R157, R227). -/

namespace Sys2Proof.Machine

/-! Energy. -/

/-- φ of the current point, in 64ths (R453). -/
def phi64 (pt : Nat) : Nat := match pt with | 0 => 41 | 1 => 56 | _ => 64

/-- The charge of a candidate (R463). -/
def State.charge (s : State) (e : Nat) : Nat := ceilDiv (e * phi64 (s.getF fPT_CUR)) 64

/-- A candidate fits (R463). -/
def State.fits (s : State) (e : Nat) : Bool :=
  let b := s.power.budget
  b == 0 || decide ((s.charge e : Int) ≤ s.power.headroom) || (decide (b < s.charge e) && s.power.headroom == (b : Int))

/-- The launch's charge (R463). -/
def State.payCharge (s : State) (e : Nat) : State :=
  if s.power.budget = 0 then s else { s with power := { s.power with headroom := s.power.headroom - (s.charge e : Int) } }

/-! Eligibility (R309). -/

/-- A MASK load decoded before the item has not completed (R129). -/
def State.maskBefore (s : State) (order : Nat) : Bool :=
  s.maskJobs.any (fun j => decide (j.order < order)) ||
  s.queues.any fun x => match x.item with
    | some d => decide (d.order < order) && (match d.item with | .insn (.maskLoad _ _ _ _) => true | _ => false)
    | none => false

/-- The hold of a queue lets its item launch: in COLLECTED gait a step carries it along (R420). -/
def State.holdOpen (s : State) (x : QueueX) (isStep : Bool) : Bool :=
  match x.hold with
  | none => true
  | some h => h.met || (s.gait && isStep)

/-- The step or NORMAL decoded at a queue's HEAD is eligible (R309). -/
def State.eligible (s : State) (q : Nat) : Bool :=
  let x := s.qx q
  match x.item with
  | none => false
  | some d =>
    s.leadOn q &&
    (match d.item with
     | .insn _ => false
     | .norm _ => s.holdOpen x false
     | .step _ =>
       let sets := d.sets
       d.body.isEmpty && !d.defer && s.holdOpen x true && !s.repackBefore d.order sets && !s.maskBefore d.order &&
       sets.all fun n => s.getF (fPS_STATE n) != 1)

/-- The candidates in the order of R324. -/
def State.candidates (s : State) : List (Nat × Decoded) :=
  let l := (List.range 32).filterMap fun q => if s.eligible q then (s.qx q).item.map fun d => (q, d) else none
  l.foldl (fun acc x => insertBy x acc) []
where
  insertBy (x : Nat × Decoded) : List (Nat × Decoded) → List (Nat × Decoded)
    | [] => [x]
    | y :: r =>
      if y.2.prio < x.2.prio || (x.2.prio == y.2.prio && decide (x.2.order < y.2.order)) then x :: y :: r
      else y :: insertBy x r

/-- PD_SEL and PD_HAL take work: they are `ON` and not `STALE` (R451). -/
def State.coreOn (s : State) : Bool := [16, 17].all fun n => s.getF (fPSTATE n) == 0 && !s.flag (fPD_STALE n)

/-- Martingale may launch at all: a place is free, nothing holds every queue, and in COLLECTED gait no REPACK runs (R52, R307, R436, R451, R457, R465). -/
def State.mayLaunch (s : State) : Bool :=
  decide (s.flights.length < 4) && !s.mismatch && !s.quiesced && !s.power.stopped && !s.power.tripped && s.coreOn &&
  !(s.gait && s.repack.isSome)

/-- The first candidate that fits, with the queues passed over for it (R325, R326). -/
def pick (fit : Decoded → Bool) (reorder : Bool) (skips : Nat → Nat) : List (Nat × Decoded) → Option (List Nat × Nat × Decoded)
  | [] => none
  | (q, d) :: r =>
    if fit d then some ([], q, d)
    else if !reorder || decide (16 ≤ skips q) then none
    else (pick fit reorder skips r).map fun x => (q :: x.1, x.2)

/-- The queues whose candidates are considered and do not fit (R324 to R326). -/
def passedOver (fit : Decoded → Bool) (reorder : Bool) (skips : Nat → Nat) : List (Nat × Decoded) → List Nat
  | [] => []
  | (q, d) :: r =>
    if fit d then []
    else if !reorder || decide (16 ≤ skips q) then [q]
    else q :: passedOver fit reorder skips r

/-! Binding. -/

/-- The swap of the table banks before a launch binds (R155). -/
def State.swapBanks (s : State) : State :=
  if s.getF fSHADOW_ST != 2 then s
  else
    let e := s.getF fPEND_EPOCH
    ((((s.setF fBANK_ACT (1 - s.getF fBANK_ACT)).setF fCF_EPOCH e).setF fPEND_EPOCH e).setF fSHADOW_ST 4).advanceG

def flight0 (s : State) (q : Nat) (d : Decoded) (hold : Option Hold) : Flight :=
  { (default : Flight) with
    ln := s.nextLn, queue := q, head := s.getF (fQ_HEAD q), bank := s.getF fBANK_ACT, tepoch := s.getF fCF_EPOCH
    compat := s.flag fCOMPAT, emu := s.flag fEMU3, strict := s.strict, collected := s.gait, gcLaunch := s.gc
    eEst := d.eEst, limitMs := s.getF fSTEP_MS, prio := d.prio
    hold := match hold with | some h => if h.met then none else some h | none => none }

/-- What a decoded item binds at its launch (R157, R227, R309, R66, R67). -/
def State.bindItem (s : State) (q : Nat) (d : Decoded) (hold : Option Hold) : Flight :=
  let f := flight0 s q d hold
  match d.item with
  | .norm n => { f with normal := some n, prog := { emptyProg with cpl := n.cpl }, hold := none }
  | _ =>
    let v := s.planeView d.prog.psid
    let p := if d.prog.gen = 2 then d.prog else { d.prog with hdim := v.hd }
    { f with
      prog := p, view := v, rview := d.ref.map s.planeView
      clusters := (ownersOf v d.cls).filter s.serving }

/-- A cluster restores damaged words of its lane copies and fixed tables before its next step binds (R471). -/
def State.mendLanes (s : State) : State :=
  { s with bad := s.bad.filter fun p => match p with | .laneCopy _ _ | .clusterFixed _ _ => false | _ => true }

/-- Launches the item at a queue's HEAD. -/
def State.launchItem (s : State) (q : Nat) (d : Decoded) : State :=
  let s := s.swapBanks.mendLanes.payCharge d.eEst
  let hold := (s.qx q).hold
  let f := s.bindItem q d hold
  let s : State := { s with
    flights := s.flights ++ [f], nextLn := s.nextLn + 1
    power := { s.power with missed := s.power.missed || d.waited } }
  let s := s.setQx q { s.qx q with hold := none }
  (s.setF (fQ_SKIPS q) 0).passItem q false

/-- A decoded step whose plane set is no longer usable, or which its deferred checks refuse, halts its queue (R59). -/
def State.stale (s : State) (d : Decoded) : Bool :=
  match d.item with
  | .step _ => d.sets.any fun n => s.getF (fPS_STATE n) != 2
  | _ => false

/-- Marks a candidate that did not fit when Martingale considered it (R464). -/
def State.markWaiting (s : State) (q : Nat) : State :=
  match (s.qx q).item with
  | some d => s.setQx q { s.qx q with item := some { d with waited := true } }
  | none => s

/-- LAUNCH (R324): the first candidate that fits launches; under STRICT and in COLLECTED gait only the first may (R325). Checks that waited for a REPACK which its queue's halt has dropped are made first (R59; log entry 135, DESIGN CHOICE). -/
def execLaunch (s : State) : Host.Outcome State Fault Refusal :=
  if !s.mayLaunch then .next s
  else
    let s := s.recheckAll
    let cands := s.candidates
    match cands.find? (fun c => s.stale c.2) with
    | some c => .next (s.halt c.1 2 4 ((s.recheck c.2 c.2.prog (s.qx c.1).gated).getD 0) c.2.prog.stepId)
    | none =>
      let fit (d : Decoded) : Bool := s.fits d.eEst
      let skips (q : Nat) : Nat := s.getF (fQ_SKIPS q)
      let t := (passedOver fit (!s.gait && !s.strict) skips cands).foldl State.markWaiting s
      match pick fit (!s.gait && !s.strict) skips cands with
      | none => .next t
      | some (passed, q, d) => .next ((passed.foldl (fun s w => s.addSat (fQ_SKIPS w) 1) t).launchItem q d)

end Sys2Proof.Machine
end

