-- ==== Sys2Proof/Machine/Power.lean ====
section
/-! DEFINITION. Martingale and the life of the block (chapter 17): resets and the wipe, attach, moves of domains, state generations and recovery, chip sleep, supplies, operating points, energy, temperature, life-cycle changes; the gate counter (R427). -/

namespace Sys2Proof.Machine

/-! Domains and their tags (R445, R450). -/

/-- A domain's state-generation tag: the tag of a domain that is `ON` and not `STALE` follows G (R449, R450; log entry 10). -/
def State.tagOf (s : State) (n : Nat) : Nat :=
  if s.domainOn n && !s.flag (fPD_STALE n) then s.power.gen else s.power.tags.getD n 0

def State.setTag (s : State) (n v : Nat) : State := { s with power := { s.power with tags := s.power.tags.set n v } }

/-- Sets `STALE` of a domain, and its bit of `CL_STALE`. -/
def State.setStale (s : State) (n : Nat) (b : Bool) : State :=
  let s := s.setFlag (fPD_STALE n) b
  if n < 16 then s.setBit fCL_STALE n b else s

/-- Empties the slice and lane copies of a cluster. -/
def State.clearCluster (s : State) (n : Nat) : State :=
  { s with
    pad := s.pad.filter fun p => p.1 / 2 ^ 25 != n
    padFresh := s.padFresh.filter fun k => k / 2 ^ 25 != n
    padDirty := cutRange (padKey n 0) (padKey (n + 1) 0) s.padDirty
    lanes := s.lanes.filter fun p => p.1 / 2 ^ 17 != n }

/-- The Sorrel lanes of a cluster start again from a jitter word at its next power-up (R221, R445). -/
def State.dropSorrel (s : State) (n : Nat) : State := { s with sorrel := s.sorrel.filter fun p => p.1 / 2 ^ 16 != n }

/-- A domain in `OFF` keeps nothing: contents, damage and tag are gone (R445, R448; log entry 11). -/
def State.losePower (s : State) (n : Nat) : State :=
  let s : State := { s with bad := s.bad.filter fun p => partDomain p != n }
  let s := if n < 16 then s.clearCluster n else s
  let s : State := if n = 16 then { s with sync := { s.sync with log := [] } } else s
  s.setTag n 0

/-! The wipe and the resets (R459, R460). -/

/-- The wipe starts: `CAUSE` is 1 reset, 2 life-cycle change, 3 attach; it runs at point 0. -/
def State.startWipe (s : State) (cause : Nat) : State :=
  let s := ((((s.setF fPAD_DONE 0).setF fHAL_DONE 0).setF fTAB_DONE 0).setF fWIPE_ACTIVE 1).setF fWIPE_CAUSE cause
  let s := (s.setF fPT_CUR 0).setF fCCLK 1200
  { s with power := { s.power with attach := .wipe } }

/-- `TARGET` and `PSTATE` of a domain disabled by fuse (R410). -/
def State.fuseDomains (s : State) : State :=
  (List.range 16).foldl (fun s n => if s.fusedOff n then (s.setF (fPD_TARGET n) 2).setF (fPSTATE n) 2 else s) s

/-- The life-cycle state opens an instrument's segment (R502). -/
def segmentOpen (lc : Nat) : Instrument → Bool
  | .tsense | .vsense | .fuseread => true
  | .biststat => lc != 5
  | .pllobs | .bridle => lc != 3 && lc != 5

/-- Segments that the life-cycle state does not permit are closed (R502); the wrapper's instruction is `WS_BYPASS` again, and the test port's outputs are idle (R489; log entry 141, DESIGN CHOICE for the instruction). -/
def TestX.shut (t : TestX) (lc : Nat) : TestX :=
  { t with open1687 := t.open1687.filter (segmentOpen lc), wir := 0, tdo := [], wso := [], wpo := [] }

/-- What every reset leaves (R402, R459): registers at reset, work lost; host memory, fuses, waiting commands, the gate counter and the kept fields stay. Memories keep their contents until the wipe. Domains stay as they were, one in `RET` or moving is taken as `OFF`; the domain pins are held (R489). -/
def State.resetTo (s : State) (rst : Nat) : State :=
  let g := s.advanceG.power.gen
  let r : State := { State.reset with
    pending := s.pending, freeCtr := s.freeCtr, mem := s.mem, memMark := s.memMark, fuses := s.fuses, fuseCopy := s.fuseCopy, trims := s.trims
    pad := s.pad, padFresh := s.padFresh, padDirty := s.padDirty, bad := s.bad
    test := s.test.shut s.lc
    sync := { syncReset with dn := s.sync.dn, cup := s.sync.cup, log := s.sync.log, load := s.sync.load }
    power := { powerReset with
      gen := g, tags := s.power.tags, winUs := s.power.winUs % 100, pdReq := s.power.pdReq, pdRet := s.power.pdRet, pdAck := s.power.pdAck } }
  let r := (r.setF fGC_NOW s.gc).setF fWIPES (s.getF fWIPES)
  let r := r.setF fRST_CAUSE rst
  let r := (List.range 16).foldl (fun r n => r.setF (fTMAX n) (s.getF (fTMAX n))) r
  let r := (List.range 20).foldl (fun r n =>
    if s.pstate n = 0 then r else (r.setF (fPSTATE n) 2).losePower n) r
  r.fuseDomains

def fLC_REQ : Fld := ⟨rLIFECYCLE, 4, 3⟩

/-- A life-cycle flag whose programming a reset cuts short has none to three of its copies set (R469, R504); how many is a free value. -/
def State.cutFuses (s : State) : State :=
  if s.flag fLC_BUSY && !s.flag fWIPE_ACTIVE then
    let lc := s.getF fLC_REQ
    let k := Config.freeNat s.freeCtr % 4
    { s.bump with fuses := if lc = 0 ∨ 5 < lc then s.fuses else s.fuses ||| BitVec.ofNat 1024 ((2 ^ k - 1) * 8 ^ (lc - 1)) }
  else s

/-- RESET (R459): `pm_rst_n`. The H-port goes `DOWN`; attach runs from WIPE. -/
def execReset (s : State) : Host.Outcome State Fault Refusal := .next ((s.cutFuses.resetTo 0).startWipe 1)

/-- SUPPLY_RESET (R458): a supply below its reset level. -/
def execSupplyReset (supply : Nat) (s : State) : Host.Outcome State Fault Refusal :=
  .next ((s.cutFuses.resetTo (if supply < 3 then supply + 1 else 0)).startWipe 1)

/-- The fuses of a life-cycle state: its three copies are programmed (R504). -/
def burnState (f : BitVec 1024) (lc : Nat) : BitVec 1024 :=
  if lc = 0 ∨ 5 < lc then f else f ||| BitVec.ofNat 1024 (7 * 8 ^ (lc - 1))

/-- LC_FUSE_DONE (R469): the fuses hold the new state, and DXQ4 resets into it. -/
def execLcFuseDone (s : State) : Host.Outcome State Fault Refusal :=
  if !s.flag fLC_BUSY then .next s
  else
    let t := State.resetTo { s with fuses := burnState s.fuses (s.getF fLC_REQ) } 0
    .next ((t.setF fLC_BUSY 1).startWipe 2)

/-- WIPE_DONE (R460): every wiped structure reads zero, the tables are loaded, and BIST follows. -/
def execWipeDone (s : State) : Host.Outcome State Fault Refusal :=
  if !s.flag fWIPE_ACTIVE then .next s
  else
    let on := (s.enabled.filter s.domainOn)
    let s : State := { s with
      pad := [], padFresh := [], padDirty := [], bad := [], banks := [], lanes := [], rets := [], stops := []
      sync := { s.sync with log := [] }, power := { s.power with attach := .bist } }
    let s := on.foldl (fun s n => s.setBit fPAD_DONE n true) s
    .next (((((s.setF fHAL_DONE 1).setF fTAB_DONE 1).setF fWIPE_ACTIVE 0).addMod fWIPES 1).setF fLC_BUSY 0)

/-! Attach (R466). -/

/-- Fuses with which the attach fails at ON (R505). -/
def fusesBad (f : BitVec 1024) : Bool :=
  let g := fuseBits f 16 2
  let off := (List.range 16).countP fun n => fuseBits f (18 + n) 1 == 1
  g != fuseBits f 34 2 || fuseBits f 18 16 != fuseBits f 36 16 || g == 3 ||
  16 - off != (match g with | 0 => 16 | 1 => 14 | _ => 12)

/-- Words 1 to 8 of the fuse array as their check bits leave them: one that holds an uncorrectable error is all zero (R505; log entry 138). -/
def trimWords (f : BitVec 1024) : List Word64 :=
  (List.range 8).map fun k =>
    (Config.fuseWord (BitVec.ofNat 64 (fuseBits f (64 * (k + 1)) 64)) (BitVec.ofNat 8 (fuseBits f (960 + 8 * k) 8))).getD 0

/-- PD_AO_POWER_UP (R466, R504): everything at reset, the master generation at 1; the fuses are read; the domains to bring up in order. The gate counter takes 0 when PD_PORT comes up (R402). -/
def execPdAoPowerUp (s : State) : Host.Outcome State Fault Refusal :=
  let r : State := { State.reset with
    pending := s.pending, freeCtr := s.freeCtr, mem := s.mem, memMark := s.memMark, fuses := s.fuses
    fuseCopy := s.fuses.setWidth 64, trims := trimWords s.fuses
    sync := { syncReset with dn := s.sync.dn, cup := s.sync.cup, load := s.sync.load }
    power := { powerReset with pdAck := s.power.pdAck } }
  let r := (r.fuseDomains).setF fGC_NOW s.gc
  let r := (r.setF fPT_CUR 0).setF fCCLK 1200
  .next { r with power := { r.power with onLeft := [18, 16, 17] ++ r.enabled, attachFail := fusesBad s.fuses } }

/-- Records the result of a domain's BIST for `BISTSTAT` (R502): the model keeps 1 for passed, 2 for failed (log entry 17). -/
def State.setBist (s : State) (n : Nat) (ok : Bool) : State :=
  { s with test := { s.test with bist := s.test.bist.set n (if ok then 1 else 2) } }

/-- BIST_DONE (R466): a failing cluster stays out and its domain goes `OFF`; a failure of PD_SEL, PD_HAL or PD_PORT (bits 0, 1 and 2 of `others`), or of every cluster, stops the attach. No BIST covers PD_PORT itself, so it has no result (R503). -/
def execBistDone (failed : BitVec 16) (others : BitVec 3) (s : State) : Host.Outcome State Fault Refusal :=
  if s.power.attach != .bist then .next s
  else
    let tested := s.enabled.filter s.domainOn
    let bad := tested.filter fun n => failed.toNat / 2 ^ n % 2 == 1
    let s := tested.foldl (fun s n => s.setBist n (!bad.contains n)) s
    let s := (s.setBist 16 (!others.getLsbD 0)).setBist 17 (!others.getLsbD 1)
    if others != 0 || bad.length == tested.length then
      .next { s with power := { s.power with attach := .failed, attachFail := true } }
    else .next (State.startNegotiate { s with power := { s.power with bistBad := bad, heldOut := bad, moves := bad.map fun n => (n, 2) } })

/-! Moves (R446, R447). -/

def State.trans (s : State) (n : Nat) : State := s.addSat (fTRANS n) 1
def State.pins (s : State) (n : Nat) (req ret : Bool) : State :=
  { s with power := { s.power with pdReq := s.power.pdReq.set n req, pdRet := s.power.pdRet.set n ret } }

/-- The tag that a domain takes with it when it leaves `ON`: that of a cluster out of service was stamped before its leaving advanced G (R411, R450). -/
def State.leavingTag (s : State) (n : Nat) : Nat :=
  if n < 16 && !s.serving n then s.power.tags.getD n 0 else s.tagOf n

/-- A cluster that a commit takes out of `ON` leaves service, its tag stamped first: it will be `STALE` on its return (R411). -/
def State.takeOut (s : State) (n : Nat) : State := (s.setTag n (s.tagOf n)).leaveService n 0

/-- The handshake of one move starts (R446): 0 enters `ON`, 1 and 2 leave it. -/
def State.startMove (s : State) (n t : Nat) : State :=
  let tag := s.leavingTag n
  let s := if t = 0 then s.pins n true (s.power.pdRet.getD n false) else (s.pins n false (t == 1)).setTag n tag
  let s := if n < 16 && t != 0 then s.setF (fT_VALID n) 0 else s
  { ((s.setF (fPSTATE n) 3).trans n) with power := { ((s.setF (fPSTATE n) 3).trans n).power with moving := some (n, t) } }

/-- A step still uses a cluster that is to leave `ON` (R447). -/
def State.clusterUsed (s : State) (n : Nat) : Bool := s.flights.any fun f => f.clusters.contains n

/-- The last move of a commit has ended: `BUSY` clears, and a QUIESCE that waited takes effect (R447, R467). -/
def State.endMoves (s : State) : State :=
  if s.power.moves.isEmpty && s.power.moving.isNone && s.flag fPD_BUSY then
    let s := s.setF fPD_BUSY 0
    if s.link.goQuiet then s.enterQuiesce else s
  else s

/-- Chip sleep is over when every domain is back and has recovered (R449). -/
def State.endSleep (s : State) : State :=
  if s.power.asleep && !s.power.sleepMov && s.power.moves.isEmpty && s.power.moving.isNone && s.power.recover.isEmpty then
    { s with power := { s.power with asleep := false, sleepAck := false, suspended := [] } }
  else s

/-- A domain has entered `ON`: with a tag other than G it is `STALE` until it has recovered (R450). During attach the wipe takes recovery's place. With PD_PORT the gate counter comes up at 0 (R402). -/
def State.entered (s : State) (n : Nat) : State :=
  let stale := s.power.tags.getD n 0 != s.power.gen && s.power.attach != .on
  let s := s.pins n true false
  let s := if n = 18 then s.setF fGC_NOW 0 else s
  let s := ((s.setF (fPSTATE n) 0).trans n).setStale n stale
  if stale then { s with power := { s.power with recover := s.power.recover ++ [n] } } else s

/-- A domain has left `ON`. -/
def State.left (s : State) (n t : Nat) : State :=
  let s := ((s.setF (fPSTATE n) t).trans n).setStale n false
  let s := { s with power := { s.power with recover := s.power.recover.filter fun k => k != n } }
  let s := if n < 16 then s.dropSorrel n else s
  if t = 2 then s.losePower n else s

/-- A domain out of `ON` changes between `RET` and `OFF` without a handshake (log entry 12). -/
def State.changeOff (s : State) (n t : Nat) : State :=
  let p := s.pstate n
  if (p == 1 && t == 2) || (p == 2 && t == 1 && !s.fusedOff n) then (s.pins n false (t == 1)).left n t else s

/-- DOMAIN_MOVE (R447): the next move starts, one domain at a time. A cluster that a commit turns off leaves service first, and its isolation waits for the steps that used it. After ISOLATE the moves are those to `OFF` (R467); a domain in `RET` takes it without a handshake (log entry 12). The first move of ON waits until `pm_pd_ack[19]` is high (R496). -/
def execDomainMove (s : State) : Host.Outcome State Fault Refusal :=
  if s.power.moving.isSome || s.power.attachFail then .next s
  else match s.power.attach, s.power.onLeft with
    | .on, n :: r => if n = 18 && !s.power.pdAck.getD 19 false then .next s else .next (State.startMove { s with power := { s.power with onLeft := r } } n 0)
    | _, _ =>
      match s.power.moves with
      | [] => .next s
      | (n, t) :: r =>
        let s := if t != 0 && decide (n < 16) && !s.power.asleep && s.serving n then s.takeOut n else s
        if t = 2 && s.pstate n = 1 then .next (State.endMoves (State.changeOff { s with power := { s.power with moves := r } } n 2))
        else if t != 0 && decide (n < 16) && s.clusterUsed n && !s.link.isolated then .next s
        else .next (State.startMove { s with power := { s.power with moves := r } } n t)

/-- PD_ACK (R446): the acknowledge takes a level, and ends the move. -/
def execPdAck (n : Nat) (level : Bool) (s : State) : Host.Outcome State Fault Refusal :=
  let s : State := { s with power := { s.power with pdAck := s.power.pdAck.set n level } }
  match s.power.moving with
  | some (m, t) =>
    if m != n || level != (t == 0) || s.power.attachFail then .next s
    else
      let s : State := { s with power := { s.power with moving := none } }
      let s := if t = 0 then s.entered n else s.left n t
      if s.power.attach == .on && s.power.onLeft.isEmpty then .next (s.startWipe 3) else .next s.endMoves.endSleep
  | none => .next s

/-- PD_ACK_BUDGET_EXCEEDED (R466, R496): the attach stays in ON. An acknowledge overdue later in the attach, of a cluster that goes `OFF` after its BIST, stops it with the link `DOWN` (log entry 139). Once attached DXQ4 waits without limit. -/
def execPdAckBudgetExceeded (n : Nat) (s : State) : Host.Outcome State Fault Refusal :=
  let fail (t : State) (a : AttachStep) : State := { t with power := { t.power with attach := a, attachFail := true } }
  match s.power.moving with
  | none => .next s
  | some (m, _) =>
    if m != n then .next s
    else match s.power.attach with
      | .on => .next (fail s .on)
      | .online | .failed => .next s
      | .wipe | .bist | .negotiate => .next (fail ({ s with link := linkReset }.setF fLSTATE 0).holdPins .failed)

/-- The targets as a write of `GO` finds them (R411). -/
def State.targets (s : State) : List Nat := (List.range 20).map fun n => s.getF (fPD_TARGET n)

/-- The conditions that refuse a commit (R411). -/
def State.commitBad (s : State) (t : List Nat) : Bool :=
  s.flag fPD_BUSY || t.getD 18 0 != 0 || t.getD 19 0 != 0 ||
  (List.range 20).any (fun n => s.fusedOff n && t.getD n 0 != 2) ||
  ((t.getD 16 0 != 0 || t.getD 17 0 != 0) && ((List.range 32).any s.qEn || !s.flights.isEmpty)) ||
  !s.enabled.any fun n => t.getD n 0 == 0

/-- A write of `GO` (R411): the moves of the commit, domains that leave `ON` first; none is an error response. -/
def State.pdGo (s : State) : Option State :=
  let t := s.targets
  if s.commitBad t then none
  else
    let off := (List.range 20).filter fun n => s.domainOn n && t.getD n 0 != 0
    let on := (List.range 20).filter fun n => !s.domainOn n && t.getD n 0 == 0
    let moves := off.map (fun n => (n, t.getD n 0)) ++ on.map (fun n => (n, 0))
    let s := (List.range 20).foldl (fun s n => s.changeOff n (t.getD n 0)) s
    some { (s.setFlag fPD_BUSY (!moves.isEmpty)) with
      power := { (s.setFlag fPD_BUSY (!moves.isEmpty)).power with moves := s.power.moves ++ moves } }

/-! Recovery (R451). -/

/-- The epoch of what the shadow bank holds: the next one's while `PASSED`, the one before `EPOCH` until the copy of R155 has overwritten it, else `EPOCH` (R158; log entry 87). -/
def State.shadowEpoch (s : State) : Nat :=
  let e := s.getF fCF_EPOCH
  match s.getF fSHADOW_ST with
  | 2 => s.getF fPEND_EPOCH
  | 4 | 5 => (e + (2 ^ 32 - 1)) % 2 ^ 32
  | _ => e

/-- Copies both banks into a cluster's lane copies, each with its epoch; damaged words of the copies are gone (R158). -/
def State.restoreLanes (s : State) (n : Nat) : State :=
  let act := s.getF fBANK_ACT
  let e (b : Nat) : Nat := if b = act then s.getF fCF_EPOCH else s.shadowEpoch
  let s := (s.copyLane 0 (e 0) n).copyLane 1 (e 1) n
  { s with bad := s.bad.filter fun p => match p with
      | .laneCopy c _ | .clusterFixed c _ => c != n
      | _ => true }

/-- Checks one record of a kept region: a damaged one is rewritten from a good host copy. False: no such copy. -/
def State.recoverRecord (s : State) (v : PlaneView) (x : RecId) : State × Bool :=
  if (s.checkRecord v x).1 then (s, true)
  else if v.hostBase x.plane = 0 then (s, false)
  else
    let (ok, bs) := s.checkRecord v.atHost x
    match x.loc v with
    | .pad c b => if ok then (s.writeSlice c b bs, true) else (s, false)
    | .host _ => (s, false)

/-- Checks what a plane set keeps in a slice (R451 step 3): without a host copy of a damaged record the set is `LOST`. -/
def State.recoverSet (s : State) (cl ps : Nat) : State :=
  let v := s.planeView ps
  let recs := ([0, 1, 2].filter v.resident).flatMap fun p => (recordsOf v p).filter fun x => (x.loc v).cluster == cl
  let (s, ok) := recs.foldl (fun (y : State × Bool) x => let z := y.1.recoverRecord v x; (z.1, y.2 && z.2)) (s, true)
  if ok then s
  else ((s.setF (fPS_STATE ps) 4).post { s.event 17 2 2 [(37, leBytes 1 ps)] with cluster := cl })

/-- `TAG_LOSS` of PD_SEL or PD_HAL (R451, R477). -/
def State.tagLoss (s : State) (n : Nat) : State := s.post (s.event 13 3 1 [(36, leBytes 1 n)])

/-- Halter as a wipe leaves it (R451). -/
def State.wipeHalter (s : State) : State :=
  { s with
    regs := s.regs.filter fun p => !(decide (0x100000 ≤ p.1 ∧ p.1 < 0x200000) || decide (0x8000000 ≤ p.1))
    reqs := [], shadows := [], rets := [], stops := [], masks := List.replicate 64 none, yBlocks := [], yLooks := []
    bad := s.bad.filter fun p => partDomain p != 17 }

/-- A domain's recovery ends: it takes G and leaves `STALE`. -/
def State.recovered (s : State) (n : Nat) : State :=
  let s := (s.setTag n s.power.gen).setStale n false
  State.endSleep { s with power := { s.power with recover := s.power.recover.filter fun k => k != n } }

/-- A recovery that met an uncorrectable word (R450, R451): the tag is 0, the cluster stays out of service. -/
def State.recoveryFails (s : State) (n : Nat) (words : List Nat) : State :=
  let s := s.setTag n 0
  let s : State := { s with power := { s.power with recover := s.power.recover.filter fun k => k != n } }
  let e := { s.event 17 1 (s.leaveSev n) [(36, leBytes 1 2)] with cluster := n, exc := true }
  let s := if s.serving n then s.leaveWith n (some 2) true else s.post e
  (s.raise (.staleFail n words) e).endSleep

/-- CLUSTER_RECOVERY (R451): a `STALE` domain finishes its recovery; PD_SEL recovers before any cluster, so that a cluster waits while it is not `ON` or is `STALE`. -/
def execClusterRecovery (n : Nat) (words : List Nat) (s : State) : Host.Outcome State Fault Refusal :=
  let badWord := !words.isEmpty
  if !s.power.recover.contains n || (decide (n < 16) && (!s.domainOn 16 || s.flag (fPD_STALE 16))) then .next s
  else if n = 16 then
    let lost := badWord || s.power.tags.getD 16 0 == 0
    let s : State := { s with bad := s.bad.filter fun p => match p with | .selFixed _ _ _ => false | _ => true }
    let s := if lost then State.tagLoss { s with
      banks := [], bad := s.bad.filter fun p => match p with | .selMaster _ _ => false | _ => true } 16 else s
    .next (s.recovered 16)
  else if n = 17 then
    .next ((if badWord || s.power.tags.getD 17 0 == 0 then s.wipeHalter.tagLoss 17 else s).recovered 17)
  else if badWord then .next (s.recoveryFails n words)
  else
    let s := s.restoreLanes n
    let kept := (List.range 16).filter fun p => s.getF (fPS_STATE p) == 2 && (s.placed.getD p []).contains n
    let s := kept.foldl (fun s p => s.recoverSet n p) s
    .next ((if s.serving n then s else s.joinService n).recovered n)

/-! Chip sleep (R449). -/

/-- The conditions of an acknowledge (R449). -/
def State.maySleep (s : State) : Bool :=
  s.served && !(List.range 32).any s.qEn && s.flights.isEmpty && s.repack.isNone && s.repackQ.isEmpty && s.maskJobs.isEmpty &&
  (List.range 16).all (fun p => s.getF (fPS_STATE p) != 1) && s.shadows.isEmpty && s.shadowOpen && !s.flag fPD_BUSY

/-- CHIP_SLEEP_REQ (R449): `pm_sleep_req` rises; DXQ4 denies (under isolation its pin stays idle, R489), or acknowledges and moves clusters, PD_HAL and PD_SEL to `RET`. -/
def execChipSleepReq (s : State) : Host.Outcome State Fault Refusal :=
  if s.power.asleep then .next s
  else if !s.maySleep then .next { s with power := { s.power with sleepDeny := !s.link.isolated } }
  else
    let cls := (List.range 16).filter s.domainOn
    let down := (cls ++ [17, 16]).filter s.domainOn
    .next { s with power := { s.power with
      asleep := true, sleepAck := true, sleepMov := true, suspended := cls, moves := s.power.moves ++ down.map fun n => (n, 1) } }

/-- CHIP_WAKE (R449): `pm_sleep_req` falls; PD_SEL, PD_HAL and the suspended clusters come back `ON`, in that order. -/
def execChipWake (s : State) : Host.Outcome State Fault Refusal :=
  let s : State := { s with power := { s.power with sleepDeny := false } }
  if !s.power.asleep || !s.power.sleepMov then .next s
  else
    let back := ([16, 17] ++ s.power.suspended).filter fun n => !s.domainOn n
    .next (State.endSleep { s with power := { s.power with sleepMov := false, moves := back.map fun n => (n, 0) } })

/-! Supplies (R457). -/

/-- COLLECTED steps whose count runs break it (R312, R423). -/
def State.breakCounts (s : State) : State :=
  { s with flights := s.flights.map fun f => if f.released && !f.emitted then f.timing 8 else f }

/-- CCLK of a point in MHz (R453). -/
def pointMHz (pt : Nat) : Nat := match pt with | 0 => 1200 | 1 => 1700 | _ => 2000
def State.showClock (s : State) : State :=
  s.setF fCCLK (if s.flag fHALVED then pointMHz (s.getF fPT_CUR) / 2 else pointMHz (s.getF fPT_CUR))

/-- SUPPLY_WARNING (R457). -/
def execSupplyWarning (supply : Nat) (s : State) : Host.Outcome State Fault Refusal :=
  if 3 ≤ supply then .next s
  else
    let s := ((s.setF (fV_LOW supply) 1).setF (fV_DIP supply) 1).addSat fDIPS 1
    let s := s.post (s.event 13 1 0 [(36, leBytes 1 supply)])
    if supply = 2 then
      .next ((List.range 20).foldl (fun s n => if s.pstate n = 1 then s.setTag n 0 else s) s)
    else
      .next (State.breakCounts { ((s.setF fHALVED 1).showClock) with power := { s.power with stopped := true } })

/-- SUPPLY_RECOVERY_CROSSING (R457). -/
def execSupplyRecoveryCrossing (supply : Nat) (s : State) : Host.Outcome State Fault Refusal :=
  if supply < 3 then .next (s.setF (fV_LOW supply) 0) else .next s

/-- SUPPLY_RECOVERED (R457): 2 µs after every supply has recovered, full rate and launching return. -/
def execSupplyRecovered (us : BitVec 32) (s : State) : Host.Outcome State Fault Refusal :=
  if !s.power.stopped || (List.range 3).any (fun k => s.flag (fV_LOW k)) then .next s
  else
    let s : State := { ((s.setF fHALVED 0).showClock) with power := { s.power with stopped := false } }
    .next (s.post (s.event 13 2 0 [(40, leBytes 4 us.toNat)]))

/-! Operating points (R454 to R456, R464). -/

/-- Drives a point on `pm_vsel_core`. A lower one has its clock slewed first; a higher one only after the acknowledge (R454). -/
def State.drivePoint (s : State) (pt : Nat) : State :=
  let s := if pt < s.getF fPT_CUR then (s.setF fPT_CUR pt).showClock else s
  { s with power := { s.power with vsel := if s.link.isolated then 0 else pt, target := some pt, late := false } }

/-- After a trip: the point goes to 0 level by level; with an acknowledge overdue, CCLK slews at once and point 0 follows it (R455, R465). -/
def State.tripDown (s : State) : State :=
  let s := match s.power.target with
    | some _ => if s.power.late then (s.setF fPT_CUR 0).showClock else s
    | none => if s.getF fPT_CUR = 0 then s else s.drivePoint (s.getF fPT_CUR - 1)
  if s.slowClock then s.breakCounts else s

/-- VSEL_ACK (R454, R455). -/
def execVselAck (s : State) : Host.Outcome State Fault Refusal :=
  match s.power.target with
  | none => .next s
  | some p =>
    let late := s.power.late
    let s : State := { s with power := { s.power with target := none, late := false } }
    if s.power.tripped then
      (if p = 0 then .next s
       else
        let s := s.drivePoint (if late then 0 else p - 1)
        .next (if s.slowClock then s.breakCounts else s))
    else .next (s.setF fPT_CUR p).showClock

/-- VSEL_TIMEOUT (R455): once per move. -/
def execVselTimeout (s : State) : Host.Outcome State Fault Refusal :=
  if s.power.target.isNone || s.power.late then .next s
  else
    let s : State := { s with power := { s.power with late := true } }
    let s := s.post (s.event 13 4 0 [(36, leBytes 1 s.power.vsel), (37, leBytes 1 (s.getF fPT_CUR))])
    .next (if s.power.tripped then s.tripDown else s)

/-- DVFS_DECISION (R464): one level down or up, in FREE_REIN gait. -/
def execDvfsDecision (s : State) : Host.Outcome State Fault Refusal :=
  if s.gait || s.power.target.isSome || s.power.tripped || !s.served then .next s
  else
    let pt := s.getF fPT_CUR
    let lower := decide (s.power.window ≤ s.power.waitUs) || s.power.hotDue || decide (s.getF fPT_REQ < pt)
    if lower then
      let s : State := { s with power := { s.power with waitUs := 0, hotDue := false, winGood := false } }
      .next (if pt = 0 then s else s.drivePoint (pt - 1))
    else if s.power.winGood && decide (pt < s.getF fPT_REQ) then
      .next (State.drivePoint { s with power := { s.power with winGood := false } } (pt + 1))
    else .next s

/-! Energy (R463). -/

def State.anyHot (s : State) : Bool := (List.range 16).any fun n => s.flag (fT_HOT n)

/-- A candidate has been considered and does not fit. -/
def State.waitsRoom (s : State) (d : Decoded) : Bool := d.waited && !s.fits d.eEst

/-- The first candidate, when it waits, by its place in decode order. -/
def State.firstWaits (s : State) : Option Nat :=
  match s.candidates with
  | c :: _ => if s.waitsRoom c.2 then some c.2.order else none
  | [] => none

/-- A window ends: new register values take effect (R412, R463). -/
def State.endWindow (s : State) : State :=
  { s with power := { s.power with
    winUs := 0, budget := s.getF fBUDGET, window := s.getF fWINDOW, winGood := !s.power.missed, missed := s.anyHot } }

/-- ENERGY_REFILL (R463): every 1 µs. -/
def execEnergyRefill (s : State) : Host.Outcome State Fault Refusal :=
  let p := s.power
  let add := ceilDiv p.budget (Nat.max 1 p.window)
  let add := if s.anyHot then add / 2 else add
  let s : State := { s with power := { p with
    headroom := if p.budget = 0 then p.headroom else min (p.budget : Int) (p.headroom + (add : Int))
    winUs := p.winUs + 1, waitFor := s.firstWaits
    waitUs := match s.firstWaits with | some k => if p.waitFor = some k then p.waitUs + 1 else 1 | none => 0 },
                                far := { s.far with sorrelOff := s.far.sorrelOff.map (· - 1) } }
  .next (if s.power.window ≤ s.power.winUs then s.endWindow else s)

/-- `HOLD` (R464): some candidate waits for headroom, the point is below the one allowed, or an acknowledge is overdue (R455). -/
def State.onHold (s : State) : Bool :=
  s.candidates.any (fun c => s.waitsRoom c.2) || decide (s.getF fPT_CUR < s.getF fPT_REQ) || s.power.late

/-! Temperature (R465). -/

/-- A temperature field as a number of 0.125 °C. -/
def tempInt (x : Nat) : Int := signedOf 12 x

/-- A temperature in a 16-bit field: sign-extended (log entry 13). -/
def temp16 (x : Nat) : List Byte := leBytes 2 (if 2048 ≤ x then x + 0xF000 else x)

/-- One sensor's sample: the state, and the events that it raises. Time in `HOT` lowers the point in FREE_REIN gait alone (R464). -/
def State.sampleSensor (s : State) (n : Nat) (t : BitVec 12) : State × List EvRec :=
  let on := s.domainOn n
  let old := tempInt (s.getF (fTEMP n))
  let s := if on then
      let s := (s.setF (fTEMP n) t.toNat).setF (fT_VALID n) 1
      if tempInt (s.getF (fTMAX n)) < t.toInt then s.setF (fTMAX n) t.toNat else s
    else s.setF (fT_VALID n) 0
  let v := tempInt (s.getF (fTEMP n))
  let thr : Int := 8 * (s.getF fTHR_C : Int)
  let was := s.flag (fT_HOT n)
  let hot := if was then decide (thr - 40 < v) else decide (thr ≤ v)
  let det := [(36, leBytes 1 n), (38, temp16 (s.getF (fTEMP n)))]
  let s := s.setFlag (fT_HOT n) hot
  let us := if hot && was then s.power.hotUs.getD n 0 + 10 else 0
  let s : State := { s with power := { s.power with
    hotUs := s.power.hotUs.set n us, hotDue := s.power.hotDue || (!s.gait && decide (0 < us) && us % 100 == 0)
    missed := s.power.missed || hot } }
  let evs := if hot && !was then [s.event 14 1 0 det] else if was && !hot then [s.event 14 2 0 det] else []
  let trip : Int := 8 * (s.getF fTRIP_C : Int)
  if decide (trip ≤ v) && decide (old < trip) then
    (if s.power.tripped then s else State.tripDown { s with power := { s.power with tripped := true } }, evs ++ [s.event 14 3 3 det])
  else (s, evs)

/-- THERMAL_SAMPLE (R465): every 10 µs. Its events are posted by code, then by sensor (R478). -/
def execThermalSample (temps : List (BitVec 12)) (s : State) : Host.Outcome State Fault Refusal :=
  let (s, evs) := (List.range 16).foldl (fun (x : State × List EvRec) n =>
    let y := x.1.sampleSensor n (temps.getD n 0)
    (y.1, x.2 ++ y.2)) (s, [])
  .next ([1, 2, 3].foldl (fun s k => (evs.filter fun e => e.code == k).foldl State.post s) s)

/-- `pm_therm_hot` and `pm_therm_trip`, 0 under isolation (R465, R489). -/
def State.thermPins (s : State) : Bool × Bool := (s.anyHot && !s.link.isolated, s.power.tripped && !s.link.isolated)

/-! The gate counter (R427). -/

/-- The gate counter, in PD_PORT, has power. -/
def State.counts (s : State) : Bool := s.domainOn 18

/-- SYNC_TICK (R427): a tick while `sync_load` is high is not counted. -/
def execSyncTick (s : State) : Host.Outcome State Fault Refusal :=
  .next (if s.counts && !s.sync.load then s.addMod fGC_NOW 1 else s)

/-- SYNC_LOAD (R427): the rise of `sync_load` loads the count; its fall lets ticks count again. -/
def execSyncLoad (v : Word64) (level : Bool) (s : State) : Host.Outcome State Fault Refusal :=
  let t := if s.counts && level && !s.sync.load then s.setF fGC_NOW v.toNat else s
  .next { t with sync := { t.sync with load := level } }

end Sys2Proof.Machine
end

