-- ==== Sys2Proof/Machine/Farrier.lean ====
section
/-! DEFINITION. SRAM damage (R470, R471), the patrol scrubber (R475), Sorrel's health test (R221, R226), Farrier's exceptions with their dispositions (R474, R483), its reset (R481) and its telemetry (R485). -/

namespace Sys2Proof.Machine

/-! What an uncorrectable word does (R471). -/

/-- A row that takes the `POISON` disposition, whatever it had come to. -/
def RowState.spoil (f : Flight) (r : RowState) : RowState :=
  { r with poison := true, phase := .poisoned, out := r.out.map fun _ => poisonOut f r, merged := none }

/-- A flight whose rows can still change. -/
def Flight.alive (f : Flight) : Bool := !f.past && !f.emitted

/-- Changes rows of the flights that are alive; the flag says that some row was met. -/
def State.onRows (s : State) (p : Flight → Nat → RowState → Bool) (g : Flight → RowState → RowState) : State × Bool :=
  ({ s with flights := s.flights.map fun f =>
      if f.alive then { f with rows := f.rows.zipIdx.map fun q => if p f q.2 q.1 then g f q.1 else q.1 } else f },
   s.flights.any fun f => f.alive && f.rows.zipIdx.any fun q => p f q.2 q.1)

/-- A request whose entry is damaged: rows bound to it are `POISON`, and it ends `FAULT` (R471). -/
def State.faultReq (s : State) (slot : Nat) (rows : Bool) : State × Bool :=
  let s := if rows then (s.onRows (fun _ _ r => r.bound && r.slot == some slot) fun f r => r.spoil f).1 else s
  if s.eState slot = 0 then (s, false) else ((s.wantEnd slot 7 7).settle slot (some .plain), true)

/-- The address of a row's parameter block. -/
def State.rowPb (s : State) (r : RowState) : Nat :=
  match r.entry with
  | some e => e.pb
  | none => match r.slot with | some n => s.getF (fE_PB n) | none => 0

/-- The plane set whose region holds a slice word, with the record. -/
def State.wordOwner (s : State) (cl word : Nat) : Option (Nat × RecId) :=
  (List.range 16).findSome? fun p =>
    if s.getF (fPS_STATE p) = 2 then (wordRecord (s.planeView p) cl word).map fun x => (p, x) else none

/-- The record that a reference names. -/
def recIdOf (v : PlaneView) (r : RecRef) : RecId :=
  ⟨r.plane, (r.base - v.vLo) / 64, if r.plane = 0 then r.chunk else r.base⟩

/-- A record of a `READY` set has lost its data: it has no host copy to be repaired from. -/
def State.recordLost (s : State) (cl word : Nat) : Bool :=
  match s.wordOwner cl word with
  | some o => (s.planeView o.1).hostBase o.2.plane == 0
  | none => false

/-- The record whose bytes lay in a stream buffer is lost to a step: host memory, its source, holds no good copy for the second read. -/
def State.streamLost (s : State) (ln : Nat) (r : RecRef) : Bool :=
  match s.flight ln with
  | none => false
  | some f =>
    match if r.plane < 4 then some f.view else f.rview with
    | some v => f.alive && !(s.checkRecord v.atHost (recIdOf v { r with plane := r.plane % 4 })).1
    | none => false

/-- A NORMAL in flight has values to read from the lane copies of a cluster. -/
def State.laneRead (s : State) (cl : Nat) : Bool :=
  s.serving cl && s.flights.any fun f => match f.normal with | some d => !f.emitted && decide (128 ≤ d.post) | none => false

/-- The effect of an uncorrectable word on the part that holds it; the flag says that rows, records or requests are lost. Words of Paddock, lane copies, fixed tables and stream buffers act where they are read. -/
def State.hitPart (s : State) (p : SramPart) : State × Bool :=
  match p with
  | .planeRegion cl w => (s, s.recordLost cl w)
  | .streamBuffer _ _ ln r => (s, s.streamLost ln r)
  | .laneCopy cl _ => (s, s.laneRead cl)
  | .selMaster _ _ => (s, false)
  | .rowCopy _ _ ln row =>
    s.onRows (fun f i _ => f.ln == ln && i == row) fun _ r => { r with h := { r.h with nonFinite := true } }
  | .scoreStore _ _ ln row tok ref =>
    let hit (l : List Tok) : List Tok := l.map fun t => if t.id / 2 = tok / 2 then t.spoil else t
    s.onRows (fun f i _ => f.ln == ln && i == row && !f.swept) fun _ r =>
      if ref then { r with rtoks := hit r.rtoks } else { r with toks := hit r.toks }
  | .sidePartBias _ _ ln tok =>
    ({ s with flights := s.flights.map fun f => if f.ln == ln && f.alive then { f with headPois := f.headPois ++ [tok / 2 * 2, tok / 2 * 2 + 1] } else f },
     s.flights.any fun f => f.ln == ln && f.alive)
  | .sidePartMask _ _ ln => s.onRows (fun f _ r => f.ln == ln && r.pb.rowMaskEn) fun f r => r.spoil f
  | .candidateStore _ _ ln rows => s.onRows (fun f i _ => f.ln == ln && rows.contains i) fun f r => r.spoil f
  | .clusterFixed cl _ =>
    let meets (f : Flight) : Bool := f.alive && f.clusters.contains cl && f.screened && !f.swept
    ({ s.bump with flights := s.flights.map fun f => if meets f then f.hurtBy s.maskViews s.freeCtr [cl] else f },
     s.flights.any fun f => meets f && f.rows.any fun r => !r.toks.isEmpty)
  | .selFixed _ ln row => s.onRows (fun f i _ => f.ln == ln && i == row) fun f r => r.spoil f
  | .digestLog tile => ({ s with sync := { s.sync with log := s.sync.log.set tile 0xFFFFFFFF } }, false)
  | .emitBuffer _ ln row => s.onRows (fun f i _ => f.ln == ln && i == row) fun f r => r.spoil f
  | .requestTable slot _ => s.faultReq slot true
  | .historyCache slot _ => s.faultReq slot true
  | .maskStore set _ =>
    ({ s with masks := s.masks.set set none }).onRows
      (fun _ _ r => (List.range 4).any fun j => r.pb.maskOn j && r.pb.maskSel.getD j 0 % 64 == set) fun f r => r.spoil f
  | .retention key _ pos => ({ s with rets := s.rets.filter fun x => !(x.key == key && x.pos == pos) }, false)
  | .paramStore ln row _ =>
    let a := match s.flight ln with | some f => s.rowPb (f.rows.getD row default) | none => 0
    s.onRows (fun f _ r => f.ln == ln && s.rowPb r == a) fun f r => r.spoil f
  | .stopSet addr _ =>
    let named := s.liveSlots.filter fun n => s.getF (fE_STOP n) == addr
    let s : State := { s with stops := s.stops.filter fun x => x.1 != addr }
    (named.foldl (fun s n => (s.faultReq n false).1) s, !named.isEmpty)
  | .working slot _ => s.faultReq slot false
  | .tenantKey t _ => ((s.setReg (kYKEY t 0) 0).setReg (kYKEY t 1) 0, false)

/-! Events of SRAM words (R477). -/

/-- The word index in Halter, its parts laid out in the order of R260 (log entry 14). -/
def halterWord : SramPart → Nat
  | .requestTable slot w => 16 * slot + w
  | .historyCache slot w => 2 ^ 17 + 256 * slot + w
  | .maskStore set w => 17 * 2 ^ 17 + 2 ^ 15 * set + w
  | .retention _ w _ => 33 * 2 ^ 17 + w
  | .paramStore _ _ w => 37 * 2 ^ 17 + w
  | .stopSet _ w => 45 * 2 ^ 17 + w
  | .working _ w => 46 * 2 ^ 17 + w
  | .tenantKey t w => 46 * 2 ^ 17 + 2 * t + w
  | _ => 0

/-- Class code and part number of an uncorrectable word, its word index, and its cluster. -/
def ueCode : SramPart → Nat × Nat × Nat × Nat
  | .planeRegion c w => (1, 0, w, c)
  | .rowCopy c w _ _ => (1, 1, w, c)
  | .scoreStore c w _ _ _ _ => (1, 2, w, c)
  | .streamBuffer c w _ _ => (1, 3, w, c)
  | .sidePartBias c w _ _ => (1, 4, w, c)
  | .sidePartMask c w _ => (1, 4, w, c)
  | .laneCopy c w => (3, 0, w, c)
  | .clusterFixed c w => (3, 1, w, c)
  | .candidateStore c w _ _ => (3, 2, w, c)
  | .selMaster _ w => (4, 0, w, 0xFF)
  | .selFixed w _ _ => (4, 1, w, 0xFF)
  | .digestLog t => (4, 2, t, 0xFF)
  | .emitBuffer w _ _ => (4, 3, w, 0xFF)
  | p@(.requestTable _ _) => (2, 0, halterWord p, 0xFF)
  | p@(.historyCache _ _) => (2, 1, halterWord p, 0xFF)
  | p@(.maskStore _ _) => (2, 2, halterWord p, 0xFF)
  | p@(.retention _ _ _) => (2, 3, halterWord p, 0xFF)
  | p@(.paramStore _ _ _) => (2, 4, halterWord p, 0xFF)
  | p@(.stopSet _ _) => (2, 5, halterWord p, 0xFF)
  | p@(.working _ _) => (2, 6, halterWord p, 0xFF)
  | p@(.tenantKey _ _) => (2, 6, halterWord p, 0xFF)

/-- The Halter slot that a part concerns; 0xFFFF for none. -/
def State.partSlot (s : State) : SramPart → Nat
  | .requestTable slot _ | .historyCache slot _ | .working slot _ => slot
  | .retention key _ pos => match s.rets.find? fun x => x.key == key && x.pos == pos with | some x => x.slot | none => 0xFFFF
  | .paramStore ln row _ => match (s.flight ln).bind fun f => (f.rows.getD row default).slot with | some n => n | none => 0xFFFF
  | _ => 0xFFFF

/-- The first row that a part concerns (R476). -/
def partRow : SramPart → Nat
  | .rowCopy _ _ _ r | .scoreStore _ _ _ r _ _ | .selFixed _ _ r | .emitBuffer _ _ r | .paramStore _ r _ => r
  | .candidateStore _ _ _ l => l.headD noRow
  | _ => noRow

/-- A word that the hardware restores at once from its source (R471). -/
def partRestored : SramPart → Bool
  | .selMaster _ _ | .selFixed _ _ _ => true
  | _ => false

/-- The step that a part names. -/
def State.partWho (s : State) (p : SramPart) : Who :=
  match (partStep p).bind s.flight with
  | some f => f.who
  | none => nobody

/-- A word found uncorrectable (R470, R471): counted once until it is written anew, with its event; a plane record with a host copy is to be repaired. -/
def State.uncorrectable (s : State) (p : SramPart) : State :=
  if s.bad.contains p then s
  else
    let who := s.partWho p
    let owner := match p with | .planeRegion c w => s.wordOwner c w | _ => none
    let slot := s.partSlot p
    let (s, lost) := s.hitPart p
    let s : State := if partRestored p then s else { s with bad := s.bad ++ [p] }
    let s : State := { (s.addSat fUE_SRAM 1) with far := { s.far with ueSram := s.far.ueSram + 1 } }
    let (code, part, word, cl) := ueCode p
    let det := [(36, leBytes 4 word), (40, leBytes 1 part)] ++
      (if code = 2 then [(42, leBytes 2 slot)] else []) ++
      (match owner with | some o => [(41, leBytes 1 o.1)] | none => [])
    let fix := match owner with | some o => (s.planeView o.1).hostBase o.2.plane != 0 | none => false
    let e := { s.event 1 code (if lost then 1 else 0) det with
      cluster := cl, exc := fix, stepId := who.1, queue := who.2, row := partRow p }
    let s := s.post e
    match owner with
    | some o => if fix then s.raise (.padRepair cl word o.1) e else s
    | none => s

/-- A word corrected (R470): counted at its first detection; 16 corrections of one word within 1 s raise `CE_STORM` (R483). -/
def State.corrected (s : State) (p : SramPart) (storm : Bool) (syn : BitVec 8) : State :=
  let s : State := { (s.addSat fCE_SRAM 1) with far := { s.far with ceSram := s.far.ceSram + 1 } }
  let (code, _, word, cl) := ueCode p
  let det := [(36, leBytes 4 word), (40, leBytes 1 syn.toNat)]
  let e := { s.event 0 code 0 det with cluster := cl, exc := storm }
  let s := if code = 1 then s.coalesce (.padCe cl) e else if code = 2 then s.coalesce .halCe e else s
  if storm then s.raise (.ceStorm p) e else s

/-- SRAM_PATROL (R470, R471): a word is read where its domain is `ON` (R445). -/
def execSramPatrol (part : SramPart) (double storm : Bool) (syndrome : BitVec 8) (s : State) : Host.Outcome State Fault Refusal :=
  .next (if !s.domainOn (partDomain part) then s else if double then s.uncorrectable part else s.corrected part storm syndrome)

/-! The patrol scrubber (R475). -/

/-- Planes that the scrubber reads, in its order: set and plane of every host-placed plane of a `READY` set. -/
def State.scrubPlanes (s : State) : List (PlaneView × Nat) :=
  ((List.range 16).filter s.psReady).flatMap fun p =>
    let v := s.planeView p
    ([0, 1, 2].filter fun k => v.hostBase k != 0).map fun k => (v, k)

/-- The place of a record in the scrubber's order: set, plane, index. -/
abbrev ScrubPos := Nat × Nat × Nat

/-- The first record at a place or behind it, with its own place. -/
def scrubFrom : List (PlaneView × Nat) → ScrubPos → Option (ScrubPos × PlaneView × RecId)
  | [], _ => none
  | (v, k) :: r, p =>
    let i := if (v.psid, k) = (p.1, p.2.1) then p.2.2 else 0
    if (decide (p.1 < v.psid) || (p.1 == v.psid && decide (p.2.1 ≤ k))) && decide (i < planeRecords v k) then
      some ((v.psid, k, i), v, nthRecord v k i)
    else scrubFrom r p

def recRefOf (v : PlaneView) (x : RecId) : RecRef :=
  if x.plane = 0 then ⟨0, v.slabBase x.slab, x.sub⟩ else ⟨x.plane, x.sub, 0⟩

/-- An event of the scrubber for a host record (R477). -/
def State.scrubEvent (s : State) (code : Nat) (v : PlaneView) (x : RecId) : EvRec :=
  let e := x.expect v
  { s.event 2 code 0 [(36, leBytes 1 e.kind), (37, leBytes 1 v.psid), (38, leBytes 1 1), (40, leBytes 4 e.base), (44, leBytes 2 e.chunk)] with
    addr := (x.loc v.atHost).hostAddr }

/-- One record checked by the scrubber, and read once more when its check fails: no use, and nothing is poisoned (R475). -/
def State.scrubRecord (s : State) (v : PlaneView) (x : RecId) (glitch : Bool) : State :=
  let read (s : State) : State := (s.readHost 6 0 (x.loc v.atHost).hostAddr (x.size v)).1
  let s := if glitch || !(s.checkRecord v.atHost x).1 then read (read s) else read s
  if (s.checkRecord v.atHost x).1 then (if glitch then s.coalesce (.scrubCured v.psid) (s.scrubEvent 4 v x) else s)
  else
    let fix := v.resident x.plane && s.flag (fPS_MIRROR v.psid)
    let e := { s.scrubEvent 5 v x with exc := fix }
    if fix then (s.post e).raise (.scrubFix v.psid (recRefOf v x)) e else s.post e

/-- The scrubber moves to the record behind a place; with none left a pass is complete (R475). -/
def State.scrubNext (s : State) (planes : List (PlaneView × Nat)) (p : ScrubPos) : State :=
  match scrubFrom planes (p.1, p.2.1, p.2.2 + 1) with
  | some q => { s with scrub := q.1 }
  | none => ({ s with scrub := (0, 0, 0) }).addMod fPASSES 1

/-- SCRUB_READ (R475): the next record of the pass is read. Where releases have left no record behind the place reached, the pass is complete and the next one begins. -/
def execScrubRead (glitch : Bool) (s : State) : Host.Outcome State Fault Refusal :=
  let planes := s.scrubPlanes
  if !s.flag fSCRUB_EN then .next s
  else match scrubFrom planes s.scrub with
    | some (p, v, x) => .next ((s.scrubRecord v x glitch).scrubNext planes p)
    | none =>
      match scrubFrom planes (0, 0, 0) with
      | some (p, v, x) => .next (((s.addMod fPASSES 1).scrubRecord v x glitch).scrubNext planes p)
      | none => .next s

/-! Sorrel's health (R221, R226). -/

/-- SORREL_RESEED (R221, R226, R227): a lane that has drawn its 2^16 chunks takes its jitter word into its state, and the word is compared with its own previous one and with its neighbour's. Chunks drawn past the reseed leave the state free. Under STRICT no lane reseeds. -/
def execSorrelReseed (cl lane : Nat) (j nb : BitVec 32) (s : State) : Host.Outcome State Fault Refusal :=
  match s.sorrel.find? fun p => p.1 == laneKey cl lane with
  | none => .next s
  | some (k, a) =>
  if s.strict || decide (a.count < 65536) then .next s
  else
  let same := j == a.last
  let fails := if same || j == nb then a.fails + 1 else 0
  let past := a.count - 65536
  let x := if past = 0 then liveSeed (a.x ^^^ j) else liveSeed (Config.freeWord s.freeCtr k)
  let s : State := { s.bump with sorrel := putLane s.sorrel k ⟨x, past, j, fails⟩ }
  if decide (fails < 4) || decide (16 ≤ cl) || s.far.sorrelOff.getD cl 0 != 0 then .next s
  else
    let e := { s.event 15 1 0 [(36, leBytes 1 lane), (37, leBytes 1 (if same then 0 else 1))] with cluster := cl, exc := true }
    let s : State := { s with far := { s.far with sorrelOff := s.far.sorrelOff.set cl 1000 } }
    .next ((s.post e).raise (.sorrelCheck cl) e)

/-! Farrier's dispositions (R474, R483). -/

/-- The exception at the front leaves the queue into the fault log (R482): `flag` 8 is a completed disposition, 16 a default one; `data` is what the disposition logs. -/
def State.popExc (s : State) (flag : Nat) (data : List Nat := []) : State :=
  match s.far.exq with
  | [] => s
  | (_, e, n) :: r =>
    let log := s.far.log ++ [⟨e, n, flag, data⟩]
    let s := s.setF fEXQ_HIGH (Nat.max (s.getF fEXQ_HIGH) s.exqDepth)
    { s with far := { s.far with
        exq := r, log := log.drop (log.length - 64), shed := s.far.shed && decide (64 ≤ r.length) } }

/-- The exception that Farrier may handle now. -/
def State.frontExc (s : State) : Option Exc :=
  if s.flag fFARRIER_UP then (s.far.exq.head?).map (·.1) else none

/-- `SLICE_HARD` (R474, R483). -/
def State.sliceHard (s : State) (cl word : Nat) : State := s.post { s.event 17 3 1 [(36, leBytes 4 word)] with cluster := cl }

/-- Repairs the record of a slice word from a good host copy; words in `hard` stay uncorrectable (R474). The check of the copy is a use of it under R22, with its second read (log entry 121). -/
def State.repairWord (s : State) (cl word ps : Nat) (hard : List Nat) (glitch : Bool) : State :=
  let v := s.planeView ps
  match if s.psReady ps then wordRecord v cl word else none with
  | none => s
  | some x =>
    let a := (x.loc v.atHost).hostAddr
    let bs := (s.checkRecord v.atHost x).2
    let u := s.useOf v.atHost x glitch
    let again := (s.readLoc (.host a) (x.size v)).again glitch
    let s := (s.readHost 5 0 a (x.size v)).1
    let s := (if again then (s.readHost 5 0 a (x.size v)).1 else s).sealEvents 0xFFFFFFFF 0xFF u.2
    match x.loc v with
    | .host _ => s
    | .pad c b =>
      if !u.1 then s
      else
        let words := s.bad.filterMap fun p => match p with
          | .planeRegion d w => if d == c && decide (b ≤ 8 * w ∧ 8 * w < b + x.size v) then some w else none
          | _ => none
        words.foldl (fun s w =>
          if hard.contains w then s.sliceHard c w else s.writeSlice c (8 * w) ((bs.drop (8 * w - b)).take 8)) s

/-- PAD_REPAIR (R474). -/
def execPadRepair (hard : List Nat) (glitch : Bool) (s : State) : Host.Outcome State Fault Refusal :=
  match s.frontExc with
  | some (.padRepair cl word ps) => .next ((s.repairWord cl word ps hard glitch).popExc 8)
  | _ => .next s

/-- CE_STORM (R483): the word is rewritten and read again. -/
def execCeStorm (persists : Bool) (s : State) : Host.Outcome State Fault Refusal :=
  match s.frontExc with
  | some (.ceStorm p) =>
    let (_, _, word, cl) := ueCode p
    .next ((if persists then s.sliceHard cl word else s).popExc 8)
  | _ => .next s

/-- SCRUB_FIX (R475, R483): the host record is rewritten from the Paddock copy. -/
def execScrubFix (s : State) : Host.Outcome State Fault Refusal :=
  match s.frontExc with
  | some (.scrubFix ps ref) =>
    let v := s.planeView ps
    let x := recIdOf v ref
    let r := s.readLoc (x.loc v) (x.size v)
    let s := if s.psReady ps && v.resident x.plane && v.hostBase x.plane != 0 && !r.pois then
      s.writeHost (x.loc v.atHost).hostAddr r.bytes.toList .plain else s
    .next (s.popExc 8)
  | _ => .next s

/-- STALE_FAIL (R483): the failing words are logged. -/
def execStaleFail (s : State) : Host.Outcome State Fault Refusal :=
  match s.frontExc with
  | some (.staleFail _ words) => .next (s.popExc 8 words)
  | _ => .next s

/-- SORREL_CHECK (R483): the comparison is rerun and its result logged. -/
def execSorrelCheck (passed : Bool) (s : State) : Host.Outcome State Fault Refusal :=
  match s.frontExc with
  | some (.sorrelCheck _) => .next (s.popExc 8 [passed.toNat])
  | _ => .next s

/-- LINK_LOG (R483): the port's capture is copied into the log. -/
def execLinkLog (s : State) : Host.Outcome State Fault Refusal :=
  match s.frontExc with
  | some (.linkLog p) =>
    let kept := (s.link.capture.find? fun c => c.1 == p).elim [] (·.2)
    .next (s.popExc 8 (kept.flatMap fun l => l.map BitVec.toNat))
  | _ => .next s

/-- LOCKSTEP_LOG (R483): both digests and `FIRST_TILE`. -/
def execLockstepLog (s : State) : Host.Outcome State Fault Refusal :=
  match s.frontExc with
  | some (.lockstepLog l) => .next (s.popExc 8 (l ++ [s.getF fFIRST_TILE]))
  | _ => .next s

/-! Farrier's restart (R481). -/

/-- The remaining restart time in µs, elapsed time: a free value of at least 1. -/
def restartUs (fr : Nat) : Nat := Config.freeNat fr % 65535 + 1

/-- What Farrier was doing, as `FARRIER_RESET` codes it (R477). -/
def State.farrierWork (s : State) : Nat :=
  if s.getF fMSTAT = 1 then 1
  else if s.getF fSHADOW_ST = 1 && !s.tabPassed then 2
  else if s.far.exq.isEmpty then 0 else 3

/-- A `PENDING` command ends `BUSY` (R407, R481). -/
def State.abortMailbox (s : State) : State :=
  match s.far.mailbox with
  | none => s
  | some (cmd, seq) =>
    let us := restartUs s.freeCtr
    let s : State := { s.bump with far := { s.far with mailbox := none, ready := none } }
    ((s.setF fMSTAT 3).setF fRETRY_US us).post (s.event 18 2 0 [(36, leBytes 1 cmd), (37, leBytes 1 seq)])

/-- FARRIER_RESTART_DONE (R481). -/
def execFarrierRestartDone (s : State) : Host.Outcome State Fault Refusal :=
  if s.served then .next (s.setF fFARRIER_UP 1) else .next s

/-! Telemetry (R485). -/

/-- A telemetry record; `GC` and the rest as they stand. -/
def State.telemetry (s : State) : List Byte :=
  let b (k : Nat) (x : Bool) : Nat := if x then 2 ^ k else 0
  padTo 256 (leBytes 8 s.gc ++ leBytes 4 ((s.far.num + 1) % 2 ^ 32) ++ leBytes 4 (s.far.skipped % 2 ^ 32) ++ leBytes 2 s.exqDepth ++
    leBytes 1 (s.getF fPT_CUR) ++ leBytes 1 (b 0 (s.flag fHALVED) + b 1 s.onHold + b 2 s.anyHot) ++
    leBytes 4 s.power.headroom.toNat ++ leBytes 4 (s.far.steps % 2 ^ 32) ++ leBytes 4 (s.far.rows % 2 ^ 32) ++
    ((List.range 16).flatMap fun n => if s.flag (fT_VALID n) then temp16 (s.getF (fTEMP n)) else leBytes 2 0x8000) ++
    leBytes 4 (s.far.ceSram % 2 ^ 32) ++ leBytes 4 (s.far.ceSeal % 2 ^ 32) ++ leBytes 4 (s.far.ueSram % 2 ^ 32) ++
    leBytes 4 (s.far.uePois % 2 ^ 32) ++ leBytes 4 (s.far.drops % 2 ^ 32))

/-- TELEMETRY_PERIOD (R484, R485): a record is written, or the period is skipped while Farrier sheds work or is down. -/
def execTelemetryPeriod (s : State) : Host.Outcome State Fault Refusal :=
  match s.far.telem with
  | none => .next s
  | some (a, _) =>
    if s.far.shed || !s.flag fFARRIER_UP then
      .next { s with far := { s.far with skipped := s.far.skipped + 1, steps := 0, rows := 0 } }
    else
      let t := s.writeHost a s.telemetry .plain
      .next { t with far := { t.far with num := t.far.num + 1, skipped := 0, steps := 0, rows := 0 } }

end Sys2Proof.Machine
end

