-- ==== Sys2Proof/Machine/Mailbox.lean ====
section
/-! DEFINITION. The Farrier mailbox (R407, R482, R484): how a command is taken, and what each does when Farrier finishes it; Farrier's reset (R481). -/

namespace Sys2Proof.Machine

/-! Taking a command (R407, R484). -/

/-- `MSTAT` with the command's `SEQ`; `RETRY_US` and `RESULT` with it. -/
def State.mboxStatus (s : State) (st seq retry result : Nat) : State :=
  (((s.setF fMSTAT st).setF fRSP_SEQ seq).setF fRETRY_US retry).setF fRESULT result

/-- The life-cycle state permits a mailbox command (R468). -/
def State.mboxAllowed (s : State) (cmd : Nat) : Bool :=
  !(s.lc == 0 || s.lc == 5) && !(s.lc == 3 && (cmd == 0x20 || cmd == 0x21))

/-- A cluster may be tested: it is not disabled by fuse nor the only one in service, and its domain is on (R482). One that an earlier test keeps out until the next attach is not tested again (log entry 120, DESIGN CHOICE). -/
def State.testable (s : State) (cl : Nat) : Bool :=
  !s.fusedOff cl && s.inService != [cl] && s.domainOn cl && !s.power.heldOut.contains cl

/-- Outcomes of a cluster test: memory BIST, logic BIST, and the words that its recovery found uncorrectable. -/
abbrev TestOut := Bool × Bool × List Nat

/-- `RESULT` of a cluster test with its outcomes. -/
def testResult (o : TestOut) : Nat := if !o.1 then 1 else if !o.2.1 then 2 else if !o.2.2.isEmpty then 3 else 0

/-- Farrier takes a command; CLUSTER_TEST takes its cluster out of service at once. -/
def State.takeCommand (s : State) (cmd seq : Nat) (out : TestOut) : State :=
  let cl := s.getF fMB_ARG % 16
  let s := s.mboxStatus 1 seq 0 0
  let run := cmd == 6 && s.mboxAllowed cmd && s.testable cl
  let stops := s.leaveSev cl != 0
  let s := if run then s.leaveWith cl none else s
  { s with far := { s.far with
    mailbox := some (cmd, seq), ready := if run then some ⟨cl, testResult out, stops, out.2.2⟩ else none } }

/-- A served write of `FR_MBOX_CMD` (R407); none is an error response. -/
def State.writeMailbox (s : State) (v : Word64) (out : TestOut) : Option State :=
  if s.getF fMSTAT = 1 then none
  else
    let cmd := getBits v 0 8
    let seq := getBits v 8 8
    let s := (s.setF fMB_CMD cmd).setF fMB_SEQ seq
    if !s.flag fFARRIER_UP then some (s.bump.mboxStatus 3 seq (restartUs s.freeCtr) 0)
    else if 224 ≤ s.exqDepth then some (s.mboxStatus 3 seq (4 * (s.exqDepth - 128)) 0)
    else some (s.takeCommand cmd seq out)

/-- A served write of `FR_MBOX_ARG` (R407). -/
def State.writeMboxArg (s : State) (v : Word64) : Option State := if s.getF fMSTAT = 1 then none else some (s.setF fMB_ARG v.toNat)

/-! What the commands do (R482). Each gives its state, `MSTAT` and `RESULT`. -/

abbrev Done := State × Nat × Nat
def State.okay (s : State) (result : Nat) : Done := (s, 2, result)
def State.badArg (s : State) : Done := (s, 4, 0)
def State.denied (s : State) : Done := (s, 5, 0)

def State.doPing (s : State) : Done := s.okay (Config.fwVer.toNat + 2 ^ 16 * s.exqDepth)

def State.doSave (s : State) (arg : Word64) : Done :=
  let a := getBits arg 0 48
  if a % 4096 != 0 then s.badArg
  else if s.saveDenied then s.denied
  else
    let img := s.image (getBits arg 48 1 == 1)
    (s.writeHost a img .plain).okay (ceilDiv img.length 4096)

def State.doRestore (s : State) (arg : Word64) : Done :=
  let a := getBits arg 0 48
  if s.restoreDenied then s.denied
  else if a % 4096 != 0 then s.badArg
  else match s.readImage a with
    | none => (s.imagePoison a).badArg
    | some (ver, epoch, l) => let y := s.restore ver epoch l; y.1.okay y.2

def State.doTelem (s : State) (arg : Word64) : Done :=
  let a := getBits arg 0 48
  let per := getBits arg 48 16
  let put (t : Option (Nat × Nat)) : State :=
    { s with far := { s.far with telem := t, num := 0, skipped := 0, steps := 0, rows := 0 } }
  if a = 0 then (put none).okay 0
  else if a % 256 != 0 || per == 0 then s.badArg
  else (put (some (a, per))).okay 0

/-- The fault log's entries: event records whose `EFLAGS` mark how the disposition ended; what else Farrier has logged has no place in them (R482, log entry 15). -/
def State.faultLogBytes (s : State) : List Byte :=
  s.far.log.flatMap fun x =>
    let b := evBytes x.event x.num
    putBytes b 3 (leBytes 1 (byteAt b.toArray 3 + x.flag))

def State.doFaultLog (s : State) (arg : Word64) : Done :=
  let a := getBits arg 0 48
  if a % 4096 != 0 then s.badArg
  else (if s.far.log.isEmpty then s else s.writeHost a s.faultLogBytes .plain).okay s.far.log.length

/-- CLUSTER_TEST ends: the cluster recovers and rejoins, or stays out with `CL_OUT`. -/
def State.doTest (s : State) : Done :=
  match s.far.ready with
  | none => s.okay 4
  | some ⟨cl, r, stops, words⟩ =>
    let s := (s.clearCluster cl).setBist cl (r != 1 && r != 2)
    let s : State := { s with bad := s.bad.filter fun p => partDomain p != cl }
    if r = 0 then ((s.restoreLanes cl).joinService cl).okay 0
    else
      let s : State := { s with power := { s.power with heldOut := s.power.heldOut ++ [cl] } }
      let e := { s.event 17 1 (if stops then 2 else 0) [(36, leBytes 1 3)] with cluster := cl, exc := r == 3 }
      let s := s.post e
      (if r = 3 then s.raise (.staleFail cl words) e else s).okay r

def State.doLeaseBreak (s : State) (arg : Word64) : Done :=
  let n := getBits arg 0 13
  if s.held n then (s.breakLease n 2).okay 0 else s.okay 1

def State.doAbandon (s : State) (arg : Word64) : Done :=
  let q := getBits arg 0 5
  if !(s.inflightOf q).isEmpty then s.okay 1
  else if s.getF (fQ_STATE q) != 3 then s.okay 2
  else (s.stopQueue q).okay 0

/-- Debug copies: what they hold, and how much, the spec does not give: free values. -/
def State.doDebug (s : State) (arg : Word64) : Done :=
  let a := getBits arg 0 48
  if a % 4096 != 0 then s.badArg
  else
    let c := s.freeCtr
    let n := Config.freeNat c % 2 ^ 32
    (s.bump.writeHost a ((List.range (4096 * n)).map (Config.freeByte c)) .plain).okay n

def State.runCommand (s : State) (cmd : Nat) (arg : Word64) : Done :=
  if s.lc == 0 || s.lc == 5 then s.denied
  else match cmd with
    | 0x01 => s.doPing
    | 0x02 => s.doSave arg
    | 0x03 => s.doRestore arg
    | 0x04 => s.doTelem arg
    | 0x05 => s.doFaultLog arg
    | 0x06 => s.doTest
    | 0x07 => s.doLeaseBreak arg
    | 0x08 => s.doAbandon arg
    | 0x20 => if s.lc = 3 then s.denied else s.doDebug arg
    | 0x21 => if s.lc = 3 then s.denied else s.doDebug arg
    | _ => s.badArg

/-- MAILBOX_COMMAND_DONE (R407): Farrier finishes the command in hand. -/
def execMailboxCommandDone (s : State) : Host.Outcome State Fault Refusal :=
  match s.far.mailbox with
  | none => .next s
  | some (cmd, seq) =>
    if !s.flag fFARRIER_UP then .next s
    else
      let (s, st, result) := s.runCommand cmd (s.reg rMBOX_ARG)
      let s : State := { s with far := { s.far with mailbox := none, ready := none } }
      .next (s.mboxStatus st seq 0 result)

/-! Farrier's reset (R481). -/

/-- A save cut short leaves an incomplete image: a free part of it has been written. -/
def State.cutSave (s : State) : State :=
  match s.far.mailbox with
  | some (2, _) =>
    let arg := s.reg rMBOX_ARG
    let a := getBits arg 0 48
    if a % 4096 != 0 || s.saveDenied || !s.mboxAllowed 2 then s
    else
      let img := s.image (getBits arg 48 1 == 1)
      let n := Config.freeNat s.freeCtr % img.length
      if n = 0 then s.bump else s.bump.writeHost a (img.take n) .plain
  | _ => s

/-- FARRIER_RESET (R481): commit check, exception and mailbox command in hand end, their events in the order of R478; everything else goes on. -/
def execFarrierReset (s : State) : Host.Outcome State Fault Refusal :=
  if !s.flag fFARRIER_UP then .next s
  else
    let work := s.farrierWork
    let s := (s.setF fFARRIER_UP 0).cutSave
    let s := if s.getF fSHADOW_ST = 1 && !s.tabPassed then s.refuseCommit ⟨4, 0, 0⟩ else s
    let s := (s.popExc 16).addSat fFR_RST 1
    .next (s.post (s.event 12 2 0 [(36, leBytes 1 work)])).abortMailbox

end Sys2Proof.Machine
end

