-- ==== Sys2Proof/Machine/Access.lean ====
section
/-! DEFINITION. Accesses to the control space (chapter 15): which word an access reaches, what a read shows and clears, which writes are refused, and every command that is such an access. -/

namespace Sys2Proof.Machine

/-! Where an access goes (R397 to R399, R449). -/

/-- The tenant whose key an offset holds, with the half (R296, R399). -/
def State.keyAt (s : State) (off : Nat) : Option (Nat × Nat) :=
  if decide (0x3100 ≤ off ∧ off < 0x4000) || (decide (0x4000 ≤ off ∧ off < 0x4100) && s.flag fKEYWIN) then
    some ((240 + off / 16) % 256, off % 16 / 8)
  else none

def inHalter (off : Nat) : Bool := decide (0x100000 ≤ off ∧ off < 0x200000)
def inPaddock (off : Nat) : Bool := decide (0x1000000 ≤ off ∧ off < 0x2000000)
def inCampion (off : Nat) : Bool := decide (0x10000 ≤ off ∧ off < 0x20000)
/-- Slot and word of an offset in the Halter window. -/
def entrySlot (off : Nat) : Nat := off / 0x80 % 8192
def entryWord (off : Nat) : Nat := off % 0x80 / 8

/-- The checks that precede every word access (R10, R398, R449): the status that refuses it. What R449 says of chip sleep holds of the Halter window and the Campion region whenever their domain is not `ON` (R445; log entry 144, DEDUCED). -/
def State.refusal (s : State) (off : Nat) : Option Nat :=
  if off % 8 != 0 then some rALIGN
  else if !inRegion off then some rADDR
  else if s.power.asleep && (inHalter off || inPaddock off || inCampion off) then some rACCESS
  else if (inHalter off && !s.halOn) || (inCampion off && !s.selOn) then some rACCESS
  else none

/-! The Paddock debug window (R417). -/

/-- Cluster and slice byte of a window offset. -/
def State.padCluster (s : State) : Nat := s.getF fPDW_CLUSTER
def State.padByte (s : State) (off : Nat) : Nat := 2 ^ 24 * s.getF fPDW_HALF + off % 0x1000000

/-- The window is closed: by life-cycle state, fuse, service or `STALE`. -/
def State.padShut (s : State) : Bool :=
  s.lc == 0 || s.lc == 3 || s.lc == 5 || s.fusedOff s.padCluster || !s.serving s.padCluster || s.flag (fPD_STALE s.padCluster)

/-- The plane set whose region holds a byte of a slice. -/
def State.regionAt (s : State) (cl byte : Nat) : Option Nat :=
  (List.range 16).find? fun n => match s.regionIn n cl with
    | some (b, l) => decide (65536 * b ≤ byte ∧ byte < 65536 * (b + l))
    | none => false

/-- A read of the window. A word in which a working set may have lain since it was last written, and a word of a region that is being built, are free values (R79 leaves the place of working sets open, R54 the progress of a build; log entry 19). -/
def State.padRead (s : State) (off : Nat) : State × Nat × Word64 :=
  let cl := s.padCluster
  let b := s.padByte off
  if s.padShut then (s, rACCESS, 0)
  else if s.padBad cl b 8 then (s, rDATA, 0)
  else
    let still := match s.regionAt cl b with
      | some n => s.getF (fPS_STATE n) != 1
      | none => true
    if still && s.padKnown (padKey cl (b / 8 * 8)) then (s, rOK, BitVec.ofNat 64 (leNat (s.padAt cl b 8))) else (s.bump, rOK, Config.free64 s.freeCtr)

/-- A word written through the window. -/
def State.padStore (s : State) (cl b : Nat) (v : Word64) : State :=
  State.writeSlice { s with padFresh := if s.padFresh.contains (padKey cl b) then s.padFresh else s.padFresh ++ [padKey cl b] } cl b (leBytes 8 v.toNat)

/-- A working set is held in a slice. -/
def State.worksIn (s : State) (cl : Nat) : Bool :=
  s.flights.any fun g => g.allocd && !g.swept && !g.past && g.clusters.contains cl

/-- A write of the window. Whether a word outside every plane-set region lies in a working set is a free choice while one is held (log entry 19). -/
def State.padWrite (s : State) (off : Nat) (v : Word64) : Option State :=
  let cl := s.padCluster
  let b := s.padByte off
  if s.padShut || !s.flag fPDW_WEN then none
  else match s.regionAt cl b with
    | some n => if s.getF (fPS_STATE n) = 1 then none else some (s.padStore cl b v)
    | none =>
      if s.worksIn cl && Config.freeBool s.freeCtr b then none
      else some ((if s.worksIn cl then s.bump else s).padStore cl b v)

/-! Reads (R9, R398). -/

/-- `NEXT` of `GC_LAUNCH`: the smallest operand among LAUNCHATs that hold their step (R408). -/
def State.nextGate (s : State) : Nat :=
  let holds := s.queues.filterMap (·.hold) ++ s.flights.filterMap (·.hold)
  holds.foldl (fun m h => match h.gate with
    | .launchat g => if h.met then m else Nat.min m g
    | .barrier _ => m) (2 ^ 64 - 1)

/-- Slots of the static table in effect in a group (R394). -/
def State.tableSlots (s : State) (g : Nat) : Nat :=
  Nat.max 1 ((((s.arb.eff.getD g []).drop 2).takeWhile fun w => getBits w 4 12 != 0).length)

/-- A register's word as it stands: stored fields, and those that other state decides. -/
def State.shown (s : State) (off : Nat) : Word64 :=
  let w := s.reg off
  if off = 0x08 then setBits w 16 16 (if s.flag fFARRIER_UP then Config.fwVer.toNat else 0)
  else if off = 0x10 then
    let c := 65535 - s.clDis
    BitVec.ofNat 64 (s.grade + 4 * s.enabled.length + 256 * c)
  else if off = rGSTAT then
    let w := setBits w 32 3 s.flights.length
    let w := setBits w 35 1 (if (List.range 16).any fun p => s.getF (fPS_STATE p) == 1 then 1 else 0)
    let w := setBits w 36 1 (if (List.range 32).any s.halted then 1 else 0)
    setBits w 39 1 (if s.onHold then 1 else 0)
  else if off = rLIFECYCLE then setBits (setBits w 0 3 s.lc) 9 1 (if s.bridleLock then 1 else 0)
  else if off = 0x3008 then setBits (setBits (setBits w 0 14 s.liveSlots.length) 14 7 s.shadows.length) 21 11 s.stops.length
  else if 0x4020 ≤ off ∧ off < 0x4040 then
    let g := off / 8 % 4
    if s.flag (fARB_MODE g) then setBits w 1 6 (Config.freeNat s.freeCtr % s.tableSlots g) else w
  else if off = 0x5008 then BitVec.ofNat 64 s.nextGate
  else if 0x6008 ≤ off ∧ off < 0x60A8 then
    let n := off / 8 % 32 - 1
    setBits (setBits w 4 1 (if s.fusedOff n then 1 else 0)) 16 16 (s.tagOf n)
  else if off = 0x6100 then setBits w 32 32 s.power.headroom.toNat
  else if off = 0x7040 then setBits (setBits w 32 9 s.exqDepth) 48 9 (Nat.max (getBits w 48 9) s.exqDepth)
  else if 0x8000 ≤ off ∧ off < 0x8400 ∧ off % 0x40 = 0 then setBits w 40 8 (Nat.min 255 (s.users (off / 0x40 % 16)))
  else w

/-- The fields of a word that a read returns; reserved bits and WO fields read 0. -/
def readMask (off : Nat) : Word64 :=
  (regFields off).foldl (fun m f => if f.acc = .wo then m else setBits m f.lsb f.width (2 ^ f.width - 1)) 0

/-- Clears the RC fields of a word (R9). -/
def State.clearRc (s : State) (off : Nat) : State :=
  if (regFields off).any fun f => f.acc == .rc then
    s.setReg off ((regFields off).foldl (fun w f => if f.acc = .rc then setBits w f.lsb f.width 0 else w) (s.reg off))
  else s

/-- A register is read: what it shows, with its RC fields cleared. -/
def State.readReg (s : State) (off : Nat) : State × Word64 :=
  let s' := if decide (0x4020 ≤ off ∧ off < 0x4040) then s.bump else s
  (s'.clearRc off, s.shown off &&& readMask off)

/-- One word access that reads: the state, the status and the word (R370). -/
def State.readWord (s : State) (off : Nat) (snd : Sender) : State × Nat × Word64 :=
  match s.refusal off with
  | some st => (s, st, 0)
  | none =>
    if (s.keyAt off).isSome then (s, rOK, 0)
    else if inHalter off then (s, rOK, s.readEntry (entrySlot off) (entryWord off) snd)
    else if inPaddock off then s.padRead off
    else if inCampion off && inWindowRegion (off % 0x10000) then
      (s, rOK, if windowWord (off % 0x10000) then s.bankWord s.shadowBank (off % 0x10000) else 0)
    else
      let r := s.readReg off
      (r.1, rOK, r.2)

/-- Reads `n` words: the status of the first that fails, and the words, 0 for one that fails (R370). -/
def State.readWords (s : State) (off : Nat) (snd : Sender) : Nat → State × Nat × List Word64
  | 0 => (s, rOK, [])
  | n + 1 =>
    let r := s.readWord off snd
    let t := r.1.readWords (off + 8) snd n
    (t.1, if r.2.1 = rOK then t.2.1 else r.2.1, (if r.2.1 = rOK then r.2.2 else 0) :: t.2.2)

/-! Writes (R9, R400, R401). -/

/-- A field takes the bits of a write now: RW and RWS always, RW while off and RW in EMPTY as R400 and R57 say. -/
def State.takes (s : State) (off : Nat) : Acc → Bool
  | .rw | .rws => true
  | .rwOff => if off < 0x7000 then !s.qEn (off / 0x40 % 32) else !s.flag fEV_EN
  | .rwEmpty => s.getF (fPS_STATE (off / 0x40 % 16)) == 0
  | _ => false

/-- Every field that the write would set stays in its range (R401). -/
def State.rangeOk (s : State) (off : Nat) (v : Word64) : Bool :=
  (regFields off).all fun f => !(s.takes off f.acc || f.acc == .wo) || f.rng.ok (getBits v f.lsb f.width)

/-- The word that a write leaves: taken fields from the write, W1C bits cleared where it has a 1, the rest as before. -/
def State.merged (s : State) (off : Nat) (v : Word64) : Word64 :=
  (regFields off).foldl (fun w f =>
    if s.takes off f.acc then setBits w f.lsb f.width (getBits v f.lsb f.width)
    else if f.acc = .w1c then
      let o := getBits w f.lsb f.width
      setBits w f.lsb f.width (o - (o &&& getBits v f.lsb f.width))
    else w) (s.reg off)

def State.storeWord (s : State) (off : Nat) (v : Word64) : State := s.setReg off (s.merged off v)

/-- A write of `GCTL` (R405); entering COLLECTED gait, Martingale keeps the point in use, and no time in `HOT` of it counts later (R422, R464). -/
def State.writeGctl (s : State) (v : Word64) : Option State :=
  if getBits v 3 1 = 1 ∧ getBits v 2 1 = 0 then none
  else
    let t := s.storeWord rGCTL v
    let held := if getBits v 0 1 = 0 then none else if s.gait then s.power.ptHeld else some (s.getF fPT_CUR)
    some { t with power := { t.power with ptHeld := held, hotDue := s.power.hotDue && getBits v 0 1 == 0 } }

/-- A permitted change of life-cycle state (R469). -/
def State.lcPermits (s : State) (want : Nat) : Bool :=
  match s.lc, want with
  | 1, 2 | 1, 3 | 2, 3 => true
  | 3, 4 => s.test.rmaEn
  | 1, 5 | 2, 5 | 3, 5 | 4, 5 => true
  | _, _ => false

/-- A write of `LC_REQ` (R406, R469): the change begins, and the fuses are programmed until LC_FUSE_DONE. -/
def State.writeLcReq (s : State) (v : Word64) : Option State :=
  let want := getBits v 4 3
  if s.flag fLC_BUSY || (List.range 32).any s.qEn || s.power.asleep || !s.lcPermits want then none
  else some ((s.setF fLC_BUSY 1).setF fLC_REQ want)

/-- An event ring lies inside a host-memory window (R414). -/
def ringInside (base order baseG sizeG : Nat) : Bool :=
  decide (2 ^ 30 * baseG ≤ base ∧ base + 64 * 2 ^ order ≤ 2 ^ 30 * (baseG + sizeG))

/-- The event ring starts empty; records on their way to the old ring no longer count. Clusters that failed BIST at attach have their event now (R414, R466). -/
def State.startRing (s : State) : State :=
  let s := ((s.setF fEV_EN 1).setF fEV_HEAD 0).setF fEV_TAIL 0
  let bad := s.power.bistBad
  let s : State := { s with
    ev := { s.ev with issued := 0, acked := [], noted := 0 }
    out := s.out.map fun o => match o.why with | .event _ => { o with why := .plain } | _ => o
    power := { s.power with bistBad := [] } }
  bad.foldl (fun s n => s.post { s.event 17 1 0 [(36, leBytes 1 1)] with cluster := n }) s

/-- A write of `EV_RING_SIZE` (R400, R414). -/
def State.writeEvSize (s : State) (v : Word64) : Option State :=
  if s.flag fEV_EN then some (if getBits v 8 1 = 1 then s else s.setF fEV_EN 0)
  else
    let s := s.setF fEV_ORDER (getBits v 0 5)
    if getBits v 8 1 = 0 then some s
    else if ringInside (s.getF fEV_BASE) (getBits v 0 5) (s.getF fBASE_G) (s.getF fSIZE_G) then some s.startRing
    else none

/-- A write of `TK_HMWIN` (R382, R414). -/
def State.writeHmwin (s : State) (v : Word64) : Option State :=
  let b := getBits v 0 18
  let z := getBits v 18 12
  if !s.flights.isEmpty || s.repack.isSome || !s.repackQ.isEmpty || !s.maskJobs.isEmpty ||
      (List.range 32).any (fun q => s.getF (fQ_STATE q) == 2 || s.getF (fQ_STATE q) == 3) then none
  else if 2 ^ 18 < b + z then none
  else if s.flag fEV_EN && !ringInside (s.getF fEV_BASE) (s.getF fEV_ORDER) b z then none
  else some (s.storeWord rTK_HMWIN v)

/-- A BARRIER of some queue waits (R409). -/
def State.barrierWaits (s : State) : Bool := s.nextBarrier.isSome

/-- A write in the sync region (R409, R435, R436). -/
def State.writeSync (s : State) (off : Nat) (v : Word64) : Option State :=
  if off = 0x5010 then (if s.barrierWaits then none else some (s.storeWord off v))
  else if off = 0x5020 ∨ off = 0x5030 then (if s.flights.isEmpty then some (s.storeWord off v) else none)
  else if off = 0x5028 then some (s.storeWord off v).refreshAll
  else if off = 0x5048 then some (s.storeWord off v).deliver
  else some (s.storeWord off v)

/-- A write in the power region (R411, R412, R449). -/
def State.writePower (s : State) (off : Nat) (v : Word64) : Option State :=
  if off = 0x6000 then (if getBits v 0 1 = 0 then some s else if s.power.asleep then none else s.pdGo)
  else if off = 0x6110 then
    (if (List.range 3).all fun k => decide (s.getF (fV_RESET k) < getBits v (8 * k) 7) then some (s.storeWord off v) else none)
  else if off = 0x6118 then
    (if (List.range 3).all fun k => decide (getBits v (8 * k) 7 < s.getF (fV_WARN k)) then some (s.storeWord off v) else none)
  else some (s.storeWord off v)

/-- A write of a plane-set register (R57, R58); a pass of the scrubber starts again when an `EPOCH` changes (R475). -/
def State.writePs (s : State) (off : Nat) (v : Word64) : State :=
  let n := off / 0x40 % 16
  if off % 0x40 = 0 then s.writePsStat n v
  else
    let t := s.storeWord off v
    if t.getF (fPS_EPOCH n) = s.getF (fPS_EPOCH n) then t else { t with scrub := (0, 0, 0) }

/-- A write of the mailbox command register; the outcome of a self test that no command names is free (R482). -/
def State.writeMbox (s : State) (v : Word64) (out : Option TestOut) : Option State :=
  match out with
  | some o => s.writeMailbox v o
  | none =>
    let c := s.freeCtr
    s.bump.writeMailbox v (Config.freeBool c 0, Config.freeBool c 1,
      (List.range (Config.freeNat c)).map fun k => (Config.freeWord c k).toNat)

/-- A write of a register; none is an error response. -/
def State.writeReg (s : State) (off : Nat) (v : Word64) (out : Option TestOut) : Option State :=
  if !s.rangeOk off v then none
  else if off = rGCTL then s.writeGctl v
  else if off = rLIFECYCLE then s.writeLcReq v
  else if off = rMBOX_ARG then s.writeMboxArg v
  else if off = rMBOX_CMD then s.writeMbox v out
  else if 0x2000 ≤ off ∧ off < 0x2800 then
    (match off % 0x40 with
     | 0x18 => some (s.writeTail (off / 0x40 % 32) (getBits v 0 32))
     | 0x20 => s.writeAttr (off / 0x40 % 32) v
     | _ => some (s.storeWord off v))
  else if off = rARB_COMMIT then (if getBits v 0 1 = 0 then some s else if s.power.asleep then none else s.arbGo)
  else if 0x5000 ≤ off ∧ off < 0x5050 then s.writeSync off v
  else if 0x6000 ≤ off ∧ off < 0x6280 then s.writePower off v
  else if off = rEV_SIZE then s.writeEvSize v
  else if off = 0x3000 then some (s.storeWord off v).levelPrio
  else if 0x8000 ≤ off ∧ off < 0x8400 then some (s.writePs off v)
  else if off = 0x10010 then (if getBits v 0 1 = 0 then some s else s.commitGo)
  else if off = rTK_HMWIN then s.writeHmwin v
  else some (s.storeWord off v)

/-- A write of a tenant key word (R296). -/
def State.writeKey (s : State) (tenant hi : Nat) (v : Word64) : Option State :=
  if s.liveSlots.any fun n => s.getF (fE_TENANT n) == tenant then none
  else some ((s.setReg (kYKEY tenant hi) v).mend fun p => match p with | .tenantKey t w => t == tenant && w == hi | _ => false)

/-- The outcome of a write that may be refused: the state and the status. -/
def State.settled (s : State) : Option State → State × Nat
  | some t => (t, rOK)
  | none => (s, rACCESS)

/-- One word access that writes (R370). -/
def State.writeWord (s : State) (off : Nat) (v : Word64) (snd : Sender) (out : Option TestOut) : State × Nat :=
  match s.refusal off with
  | some st => (s, st)
  | none =>
    match s.keyAt off with
    | some (t, hi) => s.settled (s.writeKey t hi v)
    | none =>
      if inHalter off then
        s.settled (if entryWord off = 14 then s.leasePut (entrySlot off) v snd else s.writeEntry (entrySlot off) (entryWord off) v snd)
      else if inPaddock off then s.settled (s.padWrite off v)
      else if inCampion off && inWindowRegion (off % 0x10000) then
        let r := s.writeWindow (off % 0x10000) v
        (r.1, if r.2 then rOK else rACCESS)
      else s.settled (s.writeReg off v out)

/-! Atomic operations (R370). -/

/-- The bits of a word that take an atomic result: RW and RWS fields; whole words in the windows. -/
def State.atomMask (s : State) (off : Nat) : Word64 :=
  if (s.keyAt off).isSome then 0
  else if inHalter off || inPaddock off || (inCampion off && inWindowRegion (off % 0x10000)) then 0xFFFFFFFFFFFFFFFF
  else (regFields off).foldl (fun m f => match f.acc with
    | .rw | .rws | .rwOff | .rwEmpty => setBits m f.lsb f.width (2 ^ f.width - 1)
    | _ => m) 0

/-- The fields of a word to which an atomic operation adds; whole words in the windows that have none. -/
def State.atomFields (s : State) (off : Nat) : List (Nat × Nat) :=
  if (s.keyAt off).isSome then []
  else if inHalter off then (entryFields (entryWord off)).map fun f => (f.lsb, f.width)
  else if inPaddock off || (inCampion off && inWindowRegion (off % 0x10000)) then [(0, 64)]
  else (regFields off).map fun f => (f.lsb, f.width)

/-- A sum in which a carry out of a field is lost (R370; log entry 118). -/
def addFields (fs : List (Nat × Nat)) (w x : Word64) : Word64 :=
  fs.foldl (fun r f => setBits r f.1 f.2 ((getBits w f.1 f.2 + getBits x f.1 f.2) % 2 ^ f.2)) w

/-- The result of FADD, CAS or SWAP; none where nothing is to be written. -/
def atomResult (fs : List (Nat × Nat)) (sub : Nat) (w x y : Word64) : Option Word64 :=
  match sub with
  | 1 => some (addFields fs w x)
  | 2 => if w = x then some y else none
  | _ => some x

/-- ATOM: the state, the status, and the word returned. TACK-2 has no SWAP (R369). -/
def State.atomWord (s : State) (off sub : Nat) (x y : Word64) (snd : Sender) : State × Nat × List Word64 :=
  match s.refusal off with
  | some st => (s, st, [])
  | none =>
    if !(sub == 1 || sub == 2 || (sub == 3 && s.getF fTK_MODE != 0)) then (s, rUNSUP, [])
    else if inHalter off && entryWord off == 14 then
      (if sub = 2 then
        let r := s.leaseCas (entrySlot off) x y snd
        (r.1, rOK, [r.2])
       else (s, rACCESS, []))
    else
      let r := s.readWord off snd
      if r.2.1 != rOK then (r.1, r.2.1, [])
      else
        match atomResult (s.atomFields off) sub r.2.2 x y with
        | none => (r.1, rOK, [r.2.2])
        | some z =>
          let m := s.atomMask off
          if m = 0 then (r.1, rOK, [r.2.2])
          else
            let t := r.1.writeWord off (z &&& m) snd none
            if t.2 = rOK then (t.1, rOK, [r.2.2]) else ((s.writeWord off (z &&& m) snd none).1, t.2, [])

/-! Requests (R370, R376). -/

/-- A request of an agent (`op` with its count of words): served while the link is up, after its epoch has been compared, and answered. -/
def State.request (s : State) (snd : Sender) (op n : Nat) (f : State → State) : Host.Outcome State Fault Refusal :=
  if !s.served then .next s
  else match s.epochCheck snd with
    | none => .next ((s.answer rSTALE []).replied snd op n)
    | some t => .next ((f t).replied snd op n)

/-- A write of one word, with its response. -/
def State.putTo (s : State) (off : Nat) (v : Word64) (snd : Sender) (out : Option TestOut) : State :=
  let r := s.writeWord off v snd out
  r.1.answer r.2 []

/-- Writes words in ascending order: the status of the first that fails; the others are served (R370). -/
def State.writeWords (s : State) (off : Nat) (snd : Sender) : List Word64 → State × Nat
  | [] => (s, rOK)
  | v :: r =>
    let a := s.writeWord off v snd none
    let b := a.1.writeWords (off + 8) snd r
    (b.1, if a.2 = rOK then b.2 else a.2)

/-- The message of an access: its `OP` and its words (R366). -/
def accessOp : Access → Nat × Nat
  | .put _ => (opWR, 1)
  | .block vs => (opWR, vs.length)
  | .atom _ _ _ => (opATOM, 1)

/-- A write or an atomic operation, with its response. A write that crosses a 4 KiB boundary is refused whole (R368). -/
def State.accessTo (s : State) (off : Nat) (op : Access) (snd : Sender) : State :=
  match op with
  | .put v => s.putTo off v snd none
  | .block vs =>
    if off % 8 != 0 || decide (4096 < off % 4096 + 8 * vs.length) then s.answer rALIGN []
    else
      let r := s.writeWords off snd vs
      r.1.answer r.2 []
  | .atom sub x y =>
    let r := s.atomWord off sub x y snd
    r.1.answer r.2.1 r.2.2

/-- A command that is a write of one word at `off`; one that names no such register does nothing (log entry 20). -/
def State.putCommand (s : State) (named : Bool) (off : Nat) (v : Word64) (snd : Sender) : Host.Outcome State Fault Refusal :=
  if named then s.request snd opWR 1 fun t => t.putTo off v snd none else .next s

/-! The commands. -/

/-- REGISTER_WRITE (R401). -/
def execRegisterWrite (off : Nat) (op : Access) (snd : Sender) (s : State) : Host.Outcome State Fault Refusal :=
  s.request snd (accessOp op).1 (accessOp op).2 fun t => t.accessTo off op snd

/-- RC_FIELD_READ (R9): a read of 1 to 32 words that crosses no 4 KiB boundary. -/
def execRcFieldRead (off n : Nat) (snd : Sender) (s : State) : Host.Outcome State Fault Refusal :=
  if n = 0 ∨ 32 < n then .next s
  else s.request snd opRD n fun t =>
    if off % 8 != 0 || decide (4096 < off % 4096 + 8 * n) then t.answer rALIGN (List.replicate n 0)
    else
      let r := t.readWords off snd n
      r.1.answer r.2.1 r.2.2

/-- DOORBELL (R298). -/
def execDoorbell (q : Nat) (op : Access) (snd : Sender) (s : State) : Host.Outcome State Fault Refusal :=
  if q < 32 then s.request snd (accessOp op).1 (accessOp op).2 fun t => t.accessTo (rQ q + 0x18) op snd else .next s

/-- QUEUE_ENABLE (R297). -/
def execQueueEnable (q : Nat) (v : Word64) (snd : Sender) (s : State) : Host.Outcome State Fault Refusal :=
  s.putCommand (decide (q < 32)) (rQ q + 0x20) v snd

/-- QUEUE_DISABLE (R299). -/
def execQueueDisable (q : Nat) (v : Word64) (snd : Sender) (s : State) : Host.Outcome State Fault Refusal :=
  s.putCommand (decide (q < 32)) (rQ q + 0x20) v snd

/-- RESUME (R297). -/
def execResume (q : Nat) (v : Word64) (snd : Sender) (s : State) : Host.Outcome State Fault Refusal :=
  s.putCommand (decide (q < 32)) (rQ q + 0x20) v snd

/-- SKIP (R297). -/
def execSkip (q : Nat) (v : Word64) (snd : Sender) (s : State) : Host.Outcome State Fault Refusal :=
  s.putCommand (decide (q < 32)) (rQ q + 0x20) v snd

/-- DIGEST_DELIVERY (R435): both words in ascending order. -/
def execDigestDelivery (lo hi : Word64) (snd : Sender) (s : State) : Host.Outcome State Fault Refusal :=
  s.request snd opWR 2 fun t => t.accessTo 0x5040 (.block [lo, hi]) snd

/-- MISMATCH_CLEAR (R436). -/
def execMismatchClear (v : Word64) (snd : Sender) (s : State) : Host.Outcome State Fault Refusal :=
  s.putCommand true rLOCKSTEP_STAT v snd

/-- COMMIT_GO (R155). -/
def execCommitGo (v : Word64) (snd : Sender) (s : State) : Host.Outcome State Fault Refusal := s.putCommand true 0x10010 v snd

/-- TABLE_WINDOW_WRITE (R154). -/
def execTableWindowWrite (off : Nat) (v : Word64) (snd : Sender) (s : State) : Host.Outcome State Fault Refusal :=
  s.putCommand (decide (off < 0x10000)) (0x10000 + off) v snd

/-- PS_RELEASE (R58). -/
def execPsRelease (ps : Nat) (v : Word64) (snd : Sender) (s : State) : Host.Outcome State Fault Refusal :=
  s.putCommand (decide (ps < 16)) (rPS ps) v snd

/-- PS_ADOPT (R58). -/
def execPsAdopt (ps : Nat) (v : Word64) (snd : Sender) (s : State) : Host.Outcome State Fault Refusal :=
  s.putCommand (decide (ps < 16)) (rPS ps) v snd

/-- LEASE_ACQUIRE (R266). -/
def execLeaseAcquire (slot : Nat) (expect new : Word64) (snd : Sender) (s : State) : Host.Outcome State Fault Refusal :=
  if slot < 8192 then s.request snd opATOM 1 fun t => t.accessTo (rENT slot 14) (.atom 2 expect new) snd else .next s

/-- LEASE_RELEASE (R267). -/
def execLeaseRelease (slot : Nat) (snd : Sender) (s : State) : Host.Outcome State Fault Refusal :=
  s.putCommand (decide (slot < 8192)) (rENT slot 14) 0 snd

/-- LEASE_DISCARD (R267). -/
def execLeaseDiscard (slot : Nat) (snd : Sender) (s : State) : Host.Outcome State Fault Refusal :=
  s.putCommand (decide (slot < 8192)) (rENT slot 14) 0x2000000000000000 snd

/-- HALTER_ENTRY_WRITE (R262). -/
def execHalterEntryWrite (slot word : Nat) (op : Access) (snd : Sender) (s : State) : Host.Outcome State Fault Refusal :=
  if slot < 8192 ∧ word < 16 then s.request snd (accessOp op).1 (accessOp op).2 fun t => t.accessTo (rENT slot word) op snd else .next s

/-- TENANT_KEY_WRITE (R296): keys 240 to 255 are reached with `KEYWIN` set (R399). -/
def execTenantKeyWrite (tenant : Nat) (hi : Bool) (v : Word64) (snd : Sender) (s : State) : Host.Outcome State Fault Refusal :=
  s.putCommand (decide (tenant < 256)) (0x3100 + 16 * tenant + (if hi then 8 else 0)) v snd

/-- ARB_COMMIT (R393). -/
def execArbCommit (v : Word64) (snd : Sender) (s : State) : Host.Outcome State Fault Refusal := s.putCommand true rARB_COMMIT v snd

/-- GCTL_WRITE (R405). -/
def execGctlWrite (v : Word64) (snd : Sender) (s : State) : Host.Outcome State Fault Refusal := s.putCommand true rGCTL v snd

/-- TK_HMWIN_WRITE (R382). -/
def execTkHmwinWrite (v : Word64) (snd : Sender) (s : State) : Host.Outcome State Fault Refusal := s.putCommand true rTK_HMWIN v snd

/-- EVENT_RING_ENABLE (R414). -/
def execEventRingEnable (v : Word64) (snd : Sender) (s : State) : Host.Outcome State Fault Refusal := s.putCommand true rEV_SIZE v snd

/-- SYNC_REGISTER_WRITE (R409). -/
def execSyncRegisterWrite (off : Nat) (v : Word64) (snd : Sender) (s : State) : Host.Outcome State Fault Refusal :=
  s.putCommand (decide (off < 0x50)) (0x5000 + off) v snd

/-- PADDOCK_WINDOW_ACCESS (R417). -/
def execPaddockWindowAccess (off : Nat) (v : Option Word64) (snd : Sender) (s : State) : Host.Outcome State Fault Refusal :=
  match v with
  | some w => s.putCommand (decide (off < 2 ^ 24)) (0x1000000 + off) w snd
  | none =>
    if off < 2 ^ 24 then s.request snd opRD 1 fun t =>
      let r := t.readWord (0x1000000 + off) snd
      r.1.answer r.2.1 [if r.2.1 = rOK then r.2.2 else 0]
    else .next s

/-- POWER_REGISTER_WRITE (R412). -/
def execPowerRegisterWrite (off : Nat) (v : Word64) (snd : Sender) (s : State) : Host.Outcome State Fault Refusal :=
  s.putCommand (decide (off < 0x280)) (0x6000 + off) v snd

/-- PD_COMMIT (R411). -/
def execPdCommit (v : Word64) (snd : Sender) (s : State) : Host.Outcome State Fault Refusal := s.putCommand true rPD_CTL v snd

/-- LC_REQ_WRITE (R406), with the level of `tst_rma_en` (R469). -/
def execLcReqWrite (v : Word64) (rmaEn : Bool) (snd : Sender) (s : State) : Host.Outcome State Fault Refusal :=
  State.putCommand { s with test := { s.test with rmaEn := rmaEn } } true rLIFECYCLE v snd

/-! Mailbox commands (R407, R482): `FR_MBOX_ARG`, then `FR_MBOX_CMD`. -/

/-- The two writes of a mailbox command, each with its response. -/
def State.mailbox (s : State) (cmd : Nat) (arg : Word64) (seq : BitVec 8) (snd : Sender) (out : Option TestOut) :
    Host.Outcome State Fault Refusal :=
  s.request snd opWR 1 fun t =>
    ((t.putTo rMBOX_ARG arg snd none).replied snd opWR 1).putTo rMBOX_CMD (BitVec.ofNat 64 (cmd + 256 * seq.toNat)) snd out

/-- PING (R482). -/
def execPing (arg : Word64) (seq : BitVec 8) (snd : Sender) (s : State) : Host.Outcome State Fault Refusal :=
  s.mailbox 0x01 arg seq snd none

/-- CTX_SAVE (R440). -/
def execCtxSave (arg : Word64) (seq : BitVec 8) (snd : Sender) (s : State) : Host.Outcome State Fault Refusal :=
  s.mailbox 0x02 arg seq snd none

/-- CTX_RESTORE (R441). -/
def execCtxRestore (arg : Word64) (seq : BitVec 8) (snd : Sender) (s : State) : Host.Outcome State Fault Refusal :=
  s.mailbox 0x03 arg seq snd none

/-- TELEM_CFG (R485). -/
def execTelemCfg (arg : Word64) (seq : BitVec 8) (snd : Sender) (s : State) : Host.Outcome State Fault Refusal :=
  s.mailbox 0x04 arg seq snd none

/-- FAULT_LOG (R482). -/
def execFaultLog (arg : Word64) (seq : BitVec 8) (snd : Sender) (s : State) : Host.Outcome State Fault Refusal :=
  s.mailbox 0x05 arg seq snd none

/-- CLUSTER_TEST (R482), with the outcomes of its self tests and the words that its recovery finds uncorrectable. -/
def execClusterTest (arg : Word64) (seq : BitVec 8) (mbistOk lbistOk : Bool) (words : List Nat) (snd : Sender) (s : State) :
    Host.Outcome State Fault Refusal :=
  s.mailbox 0x06 arg seq snd (some (mbistOk, lbistOk, words))

/-- LEASE_BREAK (R482). -/
def execLeaseBreak (arg : Word64) (seq : BitVec 8) (snd : Sender) (s : State) : Host.Outcome State Fault Refusal :=
  s.mailbox 0x07 arg seq snd none

/-- QUEUE_ABANDON (R482). -/
def execQueueAbandon (arg : Word64) (seq : BitVec 8) (snd : Sender) (s : State) : Host.Outcome State Fault Refusal :=
  s.mailbox 0x08 arg seq snd none

/-- DBG_SNAPSHOT (R482). -/
def execDbgSnapshot (arg : Word64) (seq : BitVec 8) (snd : Sender) (s : State) : Host.Outcome State Fault Refusal :=
  s.mailbox 0x20 arg seq snd none

/-- DBG_TRACE (R482). -/
def execDbgTrace (arg : Word64) (seq : BitVec 8) (snd : Sender) (s : State) : Host.Outcome State Fault Refusal :=
  s.mailbox 0x21 arg seq snd none

end Sys2Proof.Machine
end

