-- ==== Sys2Proof/Machine/Repacking.lean ====
section
/-! DEFINITION. REPACK in the repack units (chapter 02): its start with the checks of R45, its completion (R54) and its stop (R55); mask sets in Halter's store (R128, R129). -/

namespace Sys2Proof.Machine

/-! Reports (R56). -/

structure RepackEnd where
  status  : Nat
  failTok : Nat
  failIdx : Nat
  devx    : Nat
  devTok  : Nat
  devCnt  : Nat
  cycles  : Nat
deriving DecidableEq, Repr, Inhabited

/-- The report of a REPACK that does not complete; its `DEV_CNT`, for which R56 gives no value, is 0 (log entry 102, DESIGN CHOICE). -/
def RepackEnd.refused (status : Nat) : RepackEnd := ⟨status, 0xFFFFFFFF, 0xFFFF, 0, 0xFFFFFFFF, 0, 0⟩

def reportBytes (d : RepackDesc) (lean dithered : Nat) (epoch : Nat) (e : RepackEnd) : List Byte :=
  leBytes 1 e.status ++ leBytes 1 lean ++ leBytes 1 dithered ++ leBytes 1 e.devx ++ leBytes 4 epoch ++ leBytes 4 e.devTok ++
  leBytes 4 e.devCnt ++ leBytes 4 e.failTok ++ leBytes 2 e.failIdx ++ [0, 0] ++ leBytes 8 e.cycles ++ leBytes 4 d.vLo ++
  leBytes 4 d.vHi ++ List.replicate 24 0

/-- The event and the halt of a REPACK that was refused or stopped (R45, R55). -/
def State.repackFailed (s : State) (j : RepackJob) (e : RepackEnd) : State :=
  let s := s.post { s.event 5 1 2 [(36, leBytes 1 e.status), (37, leBytes 1 j.psid), (40, leBytes 4 e.failTok), (44, leBytes 2 e.failIdx)] with
    queue := j.queue }
  let s := match (s.qx j.queue).item with
    | some d => if d.order == j.order && !s.halted j.queue then s.halt j.queue 7 0 0 0xFFFFFFFF else s
    | none => s
  s.recheckAll

/-! Start. -/

/-- A step that names a set was decoded before a place in decode order and has not launched. -/
def State.stepWaits (s : State) (order ps : Nat) : Bool :=
  s.queues.any fun x => match x.item with | some d => decide (d.order < order) && d.sets.contains ps | none => false

/-- The REPACK may start: its turn has come, no step that was decoded before it and names the target is before the end of its EMIT, and nothing holds it (R51, R52, R112, R332, R457). A step decoded after it cannot have launched. -/
def State.repackReady (s : State) (j : RepackJob) : Bool :=
  j.given && s.repack.isNone && !s.mismatch && !s.quiesced && !s.power.stopped &&
  s.flights.all (fun f => !f.sets.contains j.psid || s.emitOver f) && !s.stepWaits j.order j.psid &&
  (!s.gait || s.flights.isEmpty)

/-- A placement waits for the working sets of earlier steps, and for room beside those of later ones (R79). -/
def State.regionWaits (s : State) (ps ln : Nat) (d : RepackDesc) : Bool :=
  d.anyPlaced && s.flights.any (fun f => decide (f.ln < ln) && f.allocd && !f.swept && !f.past) ||
  s.inService.any fun cl =>
    let own := match s.regionIn ps cl with | some r => r.2 | none => 0
    decide (s.freeUnits cl + own < s.heldUnits cl + d.units s.inService.length)

/-- The target enters `BUILDING` with the window, head, bases and region of its descriptor (R51, R57). `RES_P0` to `RES_P2`, `MIRROR` and `DITHERED` are clear from then on, and stay so after `REFUSED` (log entry 25, DESIGN CHOICE). -/
def State.beginBuild (s : State) (j : RepackJob) (d : RepackDesc) : State :=
  let n := j.psid
  let cls := if d.anyPlaced then s.inService else []
  let sets : List (Fld × Nat) :=
    [(fPS_STATE n, 1), (fPS_RES n 0, 0), (fPS_RES n 1, 0), (fPS_RES n 2, 0), (fPS_MIRROR n, 0), (fPS_DITHERED n, 0),
     (fPS_NPLACE n, cls.length), (fPS_PDBASE n, if d.anyPlaced then d.pdBase else 0), (fPS_PDLEN n, d.units s.inService.length),
     (fPS_VLO n, d.vLo), (fPS_VHI n, d.vHi), (fPS_HEADV n, d.headV), (fPS_HDIM n, d.hd), (fPS_P0FMT n, if d.lean then 1 else 0),
     (fPS_HOST n 0, d.p0), (fPS_HOST n 1, d.p1), (fPS_HOST n 2, d.p2)]
  let s := sets.foldl (fun s x => s.setF x.1 x.2) s
  { s with
    placed := s.placed.set n cls
    repack := some { job := j, desc := d, placed := cls, dither := d.placedIn 4 && !j.strict, lost := false, builders := s.inService } }

/-- REPACK_START (R45, R51): the next REPACK reads its descriptor and is refused or begins to build. A report goes to the low 48 bits of a usable `REPORT` (R365). -/
def execRepackStart (s : State) : Host.Outcome State Fault Refusal :=
  match s.repackQ with
  | [] => .next s
  | j :: rest =>
    if !s.repackReady j then .next s
    else
      let (t, b, bad) := s.readHost 4 2 j.rd 128 (0xFFFFFFFF, j.queue)
      if bad then .next (State.repackFailed { t with repackQ := rest } j (.refused 2))
      else
        let a := b.toArray
        let d := parseRepack a
        match s.repackRefusal j.psid a d with
        | some st =>
          let e := RepackEnd.refused st
          let t : State := { t with repackQ := rest }
          let t := if d.report = 0 || d.report % 64 != 0 then t
            else t.writeHost (d.report % 2 ^ 48) (reportBytes d (byteAt a 1) 0 (s.getF (fPS_EPOCH j.psid)) e) .plain
          .next (t.repackFailed j e)
        | none => if s.regionWaits j.psid j.ln d then .next s else .next (State.beginBuild { t with repackQ := rest } j d)

/-! Master rows (R28, R29, R55). -/

/-- Addresses of a master row; host addresses have 48 bits (R44). -/
def RepackDesc.wAddr (d : RepackDesc) (id : Nat) : Nat := (d.wBase + (id - d.id0) * d.wStride) % 2 ^ 48
def RepackDesc.eAddr (d : RepackDesc) (id : Nat) : Nat := (d.eBase + (id - d.id0) * d.eStride) % 2 ^ 48

/-- The first failing element of a master row with its status (R55, R56). -/
def State.rowFail (s : State) (d : RepackDesc) (id : Nat) : Option (Nat × Nat) :=
  let w := (s.memAt (d.wAddr id) d.rowSize).toArray
  let e := if d.mfmt = 3 then (s.memAt (d.eAddr id) (128 * d.hd)).toArray else #[]
  let anyBad := (s.peek (d.wAddr id) d.rowSize).2 || (d.mfmt == 3 && (s.peek (d.eAddr id) (128 * d.hd)).2)
  ((List.range (64 * d.hd)).findSome? fun i =>
    if anyBad && ((s.peek (d.wAddr id + d.elemSize * i) d.elemSize).2 || (d.mfmt == 3 && (s.peek (d.eAddr id + 2 * i) 2).2)) then
      some (i, 6)
    else match masterValue d.fmt (leAt w (d.elemSize * i) d.elemSize) (leAt e (2 * i) 2) with
      | none => some (i, 5)
      | some _ => none)

/-- The first failing element of the window: global id, hidden index, status. -/
def State.windowFail (s : State) (d : RepackDesc) : Option (Nat × Nat × Nat) :=
  (List.range (d.vHi - d.vLo)).findSome? fun k => (s.rowFail d (d.vLo + k)).map fun x => (d.vLo + k, x.1, x.2)

/-- Reads the window's master rows: the events of their poisoned granules. -/
def State.readMasters (s : State) (j : RepackJob) (d : RepackDesc) : State :=
  (List.range (d.vHi - d.vLo)).foldl (fun s k =>
    let id := d.vLo + k
    let s := (s.readHost 4 2 (d.wAddr id) d.rowSize (0xFFFFFFFF, j.queue)).1
    if d.mfmt = 3 then (s.readHost 4 2 (d.eAddr id) (128 * d.hd) (0xFFFFFFFF, j.queue)).1 else s) s

/-! Building (R30, R54). -/

/-- The chunks of one group of a dithered build, drawn for its inexact elements in order (R222, R223); which element lane of the cluster `cl` serves an element is not specified, a free value. -/
def drawGroup (fr cl id : Nat) : List (Bool × Nat) → List (Nat × Lane) → List Nat × List (Nat × Lane)
  | [], l => ([], l)
  | (false, _) :: r, l => let x := drawGroup fr cl id r l; (0 :: x.1, x.2)
  | (true, i) :: r, l =>
    let c := takeChunk l fr (laneKey cl (32 + Config.freeLane fr id i % 128))
    let x := drawGroup fr cl id r c.2
    (c.1.toNat :: x.1, x.2)

/-- The groups of a token built one after another with the lanes' chunks (R60, R222). -/
def ditherGroups (lean : Bool) (fr cl id : Nat) : List (List Frac × Nat) → List (Nat × Lane) → List GroupRec × List (Nat × Lane)
  | [], l => ([], l)
  | (m, g) :: r, l =>
    let c := drawGroup fr cl id ((groupInexact lean m).zipIdx.map fun q => (q.1, 32 * g + q.2)) l
    let x := ditherGroups lean fr cl id r c.2
    (buildGroup lean m (fun k x => stochInt 4 (c.1.getD k 0) x) :: x.1, x.2)

/-- The groups of one token, and the Sorrel lanes after it: a dithered build in the cluster to which its slab falls, of those in service when the build began, wherever its records lie (R47, R60, R221). -/
def State.buildToken (s : State) (r : RepackRun) (fr id : Nat) (l : List (Nat × Lane)) : List GroupRec × List (Nat × Lane) :=
  let d := r.desc
  let w := (s.memAt (d.wAddr id) d.rowSize).toArray
  let e := if d.mfmt = 3 then (s.memAt (d.eAddr id) (128 * d.hd)).toArray else #[]
  let ms := (List.range (2 * d.hd)).map fun g => (List.range 32).map fun k =>
      let i := 32 * g + k
      (masterValue d.fmt (leAt w (d.elemSize * i) d.elemSize) (leAt e (2 * i) 2)).getD ⟨0, 1⟩
  if r.dither then
    ditherGroups d.lean fr (r.builders.getD ((id - d.vLo) / 64 % Nat.max 1 r.builders.length) 0) id ms.zipIdx l
  else (ms.map fun m => buildGroup d.lean m fun _ x => x.roundHalfEven, l)

/-- The plane set as its records will be placed: in Paddock, or in host memory. -/
def RepackRun.view (r : RepackRun) (epoch : Nat) (pad : Bool) : PlaneView :=
  let d := r.desc
  { psid := r.job.psid, epoch := epoch, vLo := d.vLo, vHi := d.vHi, hd := d.hd, lean := d.lean, res0 := pad && d.placedIn 0
    res1 := pad && d.placedIn 1, res2 := pad && d.placedIn 2, host0 := d.p0, host1 := d.p1, host2 := d.p2, placed := r.placed
    pdBase := 65536 * d.pdBase }

/-- A record is written where it lies (R46, R47). Its host acknowledgement is awaited before the build ends (R54). -/
def State.writeLoc (s : State) (l : Loc) (bs : List Byte) : State :=
  match l with
  | .pad cl b => s.writeSlice cl b bs
  | .host a => if s.portUp (s.portOf a) then s.putMem a bs else s

/-- A record of a plane in each place it has. -/
def State.writeRecord (s : State) (r : RepackRun) (p : Nat) (loc : PlaneView → Loc) (epoch : Nat) (bs : List Byte) : State :=
  let s := if r.desc.placedIn p then s.writeLoc (loc (r.view epoch true)) bs else s
  if r.desc.hostPlane p then s.writeLoc (loc (r.view epoch false)) bs else s

/-- One record of a build: its plane, its place and its bytes. -/
structure BuiltRec where
  plane : Nat
  slab  : Nat
  sub   : Nat
  bytes : List Byte

def BuiltRec.loc (x : BuiltRec) (v : PlaneView) : Loc :=
  match x.plane with
  | 0 => v.tileLoc x.slab x.sub
  | 1 => v.p1Loc x.sub
  | _ => v.p2Loc x.sub

/-- What one slab of a build comes to: its records and the DEVX of its tokens. -/
structure BuiltSlab where
  recs : List BuiltRec
  devs : List (Nat × Nat)

/-- The records of a slab and the DEVX of its tokens (R17 to R20, R30, R31), with the Sorrel lanes after it. -/
def State.buildSlab (s : State) (r : RepackRun) (fr epoch sl : Nat) (l : List (Nat × Lane)) : BuiltSlab × List (Nat × Lane) :=
  let d := r.desc
  let base := d.vLo + 64 * sl
  let ids := (List.range (Nat.min 64 (d.vHi - base))).map (base + ·)
  let (toks, l) := ids.foldl (fun (x : List (List GroupRec) × List (Nat × Lane)) id =>
    let y := s.buildToken r fr id x.2
    (x.1 ++ [y.1], y.2)) ([], l)
  let info : BuildInfo := { lean := d.lean, epoch := epoch, psid := r.job.psid, hd := d.hd, dithered := r.dither }
  let b := slabBase toks
  let tiles := (List.range d.hd).map fun c => BuiltRec.mk 0 sl c (buildTile info toks base c)
  let rows := (List.zip ids toks).flatMap fun q =>
    let tms := storedTms b q.2
    [BuiltRec.mk 1 sl q.1 (buildP1 info q.2 q.1 tms), BuiltRec.mk 2 sl q.1 (buildP2 info q.2 q.1 tms)]
  (⟨tiles ++ rows, (List.zip ids toks).map fun q => (q.1, tokenDevx q.2)⟩, l)

/-- The slabs of a build in order. -/
def State.buildSlabs (s : State) (r : RepackRun) (fr epoch : Nat) : List Nat → List (Nat × Lane) → List BuiltSlab × List (Nat × Lane)
  | [], l => ([], l)
  | sl :: rest, l =>
    let x := s.buildSlab r fr epoch sl l
    let y := s.buildSlabs r fr epoch rest x.2
    (x.1 :: y.1, y.2)

/-- The epoch after a completed REPACK (R49). -/
def epochAfter (e : Nat) : Nat := if e = 0xFFFFFFFF then 1 else e + 1

/-- The instruction of a completed REPACK issues; held by a mismatch it issues later (R315, R436). -/
def State.passRepack (s : State) (j : RepackJob) : State :=
  match (s.qx j.queue).item with
  | some d =>
    if d.order == j.order && !s.halted j.queue then
      (if s.mismatch then s.setQx j.queue { s.qx j.queue with item := some { d with waited := true } } else s.passItem j.queue false)
    else s
  | none => s

/-- The registers of a completed set (R54, R57). `MIRROR` of a set that places no plane in Paddock shows 0 (log entry 103, DESIGN CHOICE). -/
def State.setReady (s : State) (r : RepackRun) (epoch : Nat) (devs : List (Nat × Nat)) : State :=
  let n := r.job.psid
  let d := r.desc
  let mx := devs.foldl (fun m x => Nat.max m x.2) 0
  let b (x : Bool) : Nat := if x then 1 else 0
  let sets : List (Fld × Nat) :=
    [(fPS_DEVX n, mx), (fPS_DEVCNT n, devs.countP fun x => x.2 != 0),
     (fPS_DEVTOK n, if mx = 0 then 0xFFFFFF else ((devs.find? fun x => x.2 == mx).map (·.1)).getD 0xFFFFFF),
     (fPS_EPOCH n, epoch), (fPS_STATE n, 2), (fPS_RES n 0, b (d.placedIn 0)), (fPS_RES n 1, b (d.placedIn 1)),
     (fPS_RES n 2, b (d.placedIn 2)), (fPS_MIRROR n, b (d.mirror && d.anyPlaced)), (fPS_DITHERED n, b r.dither)]
  (sets.foldl (fun s x => s.setF x.1 x.2) s).advanceG

/-- REPACK_COMPLETE (R54): every record is written, and the set is `READY` at its new epoch. A build that a fault stops does not complete. -/
def execRepackComplete (s : State) : Host.Outcome State Fault Refusal :=
  match s.repack with
  | none => .next s
  | some r =>
    if r.lost || (s.windowFail r.desc).isSome then .next s
    else
      let d := r.desc
      let fr := s.freeCtr
      let epoch := epochAfter (s.getF (fPS_EPOCH r.job.psid))
      let (built, lanes) := s.buildSlabs r fr epoch (List.range d.slabs) s.sorrel
      let devs := built.flatMap (·.devs)
      let s := State.readMasters { s.bump with sorrel := lanes } r.job d
      let s := built.foldl (fun s q => q.recs.foldl (fun s x => s.writeRecord r x.plane x.loc epoch x.bytes) s) s
      let s := s.setReady r epoch devs
      let mx := s.getF (fPS_DEVX r.job.psid)
      let e : RepackEnd := { status := 0, failTok := 0xFFFFFFFF, failIdx := 0xFFFF, devx := mx
                             devTok := if mx = 0 then 0xFFFFFFFF else s.getF (fPS_DEVTOK r.job.psid)
                             devCnt := s.getF (fPS_DEVCNT r.job.psid), cycles := (Config.free64 fr).toNat }
      let s := s.writeHost d.report (reportBytes d (if d.lean then 1 else 0) (if r.dither then 1 else 0) epoch e) .plain
      let s : State := { s with repack := none, scrub := (0, 0, 0) }
      .next (s.passRepack r.job).recheckAll

/-- REPACK_STOP (R55): a fault of the master data or a lost cluster stops the build. Which of the records that could be built are written is not specified: a free choice for each; the Sorrel lanes have stepped as for all of them (log entry 110; DESIGN CHOICE). `DITHERED` of its report says that dithering applied, though no P2 was completed (log entry 102; DESIGN CHOICE). -/
def execRepackStop (s : State) : Host.Outcome State Fault Refusal :=
  match s.repack with
  | none => .next s
  | some r =>
    let d := r.desc
    let fail := s.windowFail d
    if !r.lost && fail.isNone then .next s
    else
      let fr := s.freeCtr
      let epoch := epochAfter (s.getF (fPS_EPOCH r.job.psid))
      let whole (sl : Nat) : Bool :=
        (List.range (Nat.min 64 (d.vHi - (d.vLo + 64 * sl)))).all fun t => (s.rowFail d (d.vLo + 64 * sl + t)).isNone
      let (slabs, lanes) := s.buildSlabs r fr epoch ((List.range d.slabs).filter whole) s.sorrel
      let built := (slabs.flatMap (·.recs)).zipIdx
      let t := State.readMasters { s.bump with sorrel := lanes } r.job d
      let t := built.foldl (fun t q =>
        if Config.freeBool fr q.2 then t.writeRecord r q.1.plane q.1.loc epoch q.1.bytes else t) t
      let e : RepackEnd := match fail with
        | some (tok, i, st) => { RepackEnd.refused st with failTok := tok, failIdx := i, cycles := (Config.free64 fr).toNat }
        | none => { RepackEnd.refused 7 with cycles := (Config.free64 fr).toNat }
      let t := t.setF (fPS_STATE r.job.psid) 3
      let t := t.writeHost d.report (reportBytes d (if d.lean then 1 else 0) (if r.dither then 1 else 0) (t.getF (fPS_EPOCH r.job.psid)) e) .plain
      let t : State := { t with repack := none }
      .next (t.repackFailed r.job e)

/-! Mask sets (R128, R129). -/

/-- A step launched before the load has not completed EMIT (R129): the load waits for it. -/
def State.maskBusy (s : State) (j : MaskJob) : Bool :=
  s.flights.any fun f => decide (f.ln < j.ln) && f.normal.isNone && !s.emitOver f

/-- A load of a queue is over. -/
def State.endLoad (s : State) (q : Nat) : State := s.setQx q { s.qx q with loads := (s.qx q).loads - 1 }

/-- MASK_LOAD_COMPLETE (R128, R129): the oldest load ends: the set is loaded, or a poisoned read leaves it unloaded. A set that was loaded before counts as loaded until then (log entry 104, DESIGN CHOICE). -/
def execMaskLoadComplete (s : State) : Host.Outcome State Fault Refusal :=
  match s.maskJobs with
  | [] => .next s
  | j :: rest =>
    if s.maskBusy j then .next s
    else
      let (s, b, bad) := s.readHost 2 1 j.src (j.len / 8) (0xFFFFFFFF, j.queue)
      let m : Option MaskSet := if bad then none else some { base := j.base, len := j.len, bits := b }
      let s := State.mend { s with maskJobs := rest, masks := s.masks.set j.set m } fun p => match p with | .maskStore k _ => k == j.set | _ => false
      .next (s.endLoad j.queue).advanceG

end Sys2Proof.Machine
end

