-- ==== Sys2Proof/Machine/TestAccess.lean ====
section
/-! DEFINITION. Test access (R501 to R504): the IEEE 1500 wrapper's instructions and the IEEE 1687 instruments, Bridle among them. -/

namespace Sys2Proof.Machine

/-! The wrapper (R501). -/

def boolsOf (n v : Nat) : List Bool := (List.range n).map fun i => v / 2 ^ i % 2 == 1

/-- The codes that the table names. -/
def wirCodes : List Nat := [0, 1, 2, 3, 4, 5, 8, 9, 10]

/-- The life-cycle states that permit an instruction: all for `WS_SAFE`, RAW and TEST for the codes from 8 on, RAW, TEST, DEV and RMA for the rest. -/
def wirPermits (lc code : Nat) : Bool :=
  if code ≤ 1 then true else if code < 8 then lc == 0 || lc == 1 || lc == 2 || lc == 4 else lc == 0 || lc == 1

/-- The instruction may take effect: the link is `DOWN` and the life-cycle state permits it. -/
def State.wirMay (s : State) (code : Nat) : Bool := s.getF fLSTATE == 0 && wirCodes.contains code && wirPermits s.lc code

/-- The instruction in effect: one that is loaded has none while the link is not `DOWN`. -/
def State.wirNow (s : State) : Nat := if s.wirMay s.test.wir then s.test.wir else 0

/-- An instruction whose path is the bypass register: the bit that it holds leaves at `tst_wso`, and one from `tst_wsi` enters, which no command carries and which is a free value (log entry 141). -/
def State.throughBypass (s : State) (code : Nat) : State :=
  { s.bump with test := { s.test with wir := code, bypass := Config.freeBool s.freeCtr 0, wso := [s.test.bypass] } }

/-- Loads a wrapper instruction with its effect; one that is not permitted, or whose code is not defined, is loaded as `WS_BYPASS`. -/
def State.loadWir (s : State) (code : Nat) (effect : TestX → TestX) : State :=
  if s.wirMay code then { s with test := { effect s.test with wir := code } } else s.throughBypass 0

/-- WS_BYPASS, and every code that is loaded as it. -/
def execWsBypass (_ : BitVec 4) (s : State) : Host.Outcome State Fault Refusal := .next (s.throughBypass 0)

/-- WS_SAFE: outputs at their idle values; the domain pins are held. -/
def execWsSafe (s : State) : Host.Outcome State Fault Refusal :=
  .next (s.loadWir 1 fun t => if s.wirNow = 1 then t else { t with heldPd := (s.power.pdReq, s.power.pdRet) })

/-- WS_PRELOAD: the boundary cells are loaded. -/
def execWsPreload (cells : List Bool) (s : State) : Host.Outcome State Fault Refusal :=
  .next (s.loadWir 2 fun t => { t with cells := cells })

/-- WS_CLAMP: outputs come from the boundary cells, the bypass register is in the path. -/
def execWsClamp (s : State) : Host.Outcome State Fault Refusal := .next (s.throughBypass (if s.wirMay 3 then 3 else 0))

/-- WS_EXTEST: outputs come from the boundary cells; what the host-die connections show is captured, and shifted out. -/
def execWsExtest (captured : List Bool) (s : State) : Host.Outcome State Fault Refusal :=
  .next (s.loadWir 4 fun t => { t with seen := captured, wso := captured })

/-- WS_INTEST: DXQ4 is driven through its boundary cells; what its outputs show is captured, and shifted out. -/
def execWsIntest (captured : List Bool) (s : State) : Host.Outcome State Fault Refusal :=
  .next (s.loadWir 5 fun t => { t with seen := captured, wso := captured })

/-- Results of a BIST over the clusters, PD_SEL and PD_HAL: the model keeps 1 for passed, 2 for failed (log entry 17). No BIST covers PD_PORT and PD_AO (R503). -/
def bistOf (failed : BitVec 18) (old : List Nat) : List Nat :=
  (List.range 20).map fun n => if n < 18 then (if failed.getLsbD n then 2 else 1) else old.getD n 0

/-- A BIST over the parallel port: its results are kept, and read out there. -/
def TestX.ran (t : TestX) (failed : BitVec 18) : TestX :=
  { t with bist := bistOf failed t.bist, wpo := ((bistOf failed t.bist).take 18).flatMap Config.bistCode }

/-- The repair analysis of a memory BIST: for each slice, then for Halter, the bits that its repair fuses would take (R504). A domain that passed needs none; the analysis of one that failed is not stated, and free (log entry 17). -/
def repairOf (failed : BitVec 18) (c : Nat) : List Word64 :=
  ((List.range 16) ++ [17]).map fun n =>
    if !failed.getLsbD n then 0 else if n < 16 then ((Config.free64 (17 * c + n)).setWidth 16).setWidth 64 else Config.free64 (17 * c + 16)

/-- The repair analysis is kept, and read out behind the results: 16 bits for each slice, 64 for Halter. -/
def TestX.analysed (t : TestX) (l : List Word64) : TestX :=
  { t with repair := l, wpo := t.wpo ++ l.zipIdx.flatMap fun q => boolsOf (if q.2 < 16 then 16 else 64) q.1.toNat }

/-- MS_MBIST: memory BIST of every domain that has it, with its results (R503) and the repair analysis. -/
def execMsMbist (failed : BitVec 18) (s : State) : Host.Outcome State Fault Refusal :=
  .next (if s.wirMay 8 then s.bump.loadWir 8 fun t => (t.ran failed).analysed (repairOf failed s.freeCtr) else s.loadWir 8 id)

/-- MS_LBIST: logic BIST, likewise. -/
def execMsLbist (failed : BitVec 18) (s : State) : Host.Outcome State Fault Refusal := .next (s.loadWir 9 fun t => t.ran failed)

/-- The bits of the fuse array outside `LC` (R504, R505). -/
def makerFuses : BitVec 1024 := ~~~(0x7FFF : BitVec 1024)

/-- MS_FUSE (R504): bits are programmed from 0 to 1 in every field but `LC`, and the array is read out. What DXQ4 read at its last ON step stays until the next one. -/
def execMsFuse (bits : BitVec 1024) (s : State) : Host.Outcome State Fault Refusal :=
  let f := s.fuses ||| (bits &&& makerFuses)
  let t := s.loadWir 10 fun t => { t with seen := boolsOf 1024 f.toNat, wso := boolsOf 1024 f.toNat }
  .next (if s.wirMay 10 then { t with fuses := f } else t)

/-! The instruments (R502). -/

/-- What an instrument shows of item `index`: a sensor, a supply, a domain, a fuse word, or the first word of the trace buffer. The formats of `VSENSE`, `PLLOBS` and of Bridle's trace are not stated: their bits are free values (log entry 18), and `BISTSTAT` shows an opaque code of the result (log entry 17). -/
def State.instrument (s : State) (inst : Instrument) (index : Nat) : List Bool :=
  match inst with
  | .tsense => boolsOf 12 (s.getF (fTEMP (index % 16)))
  | .biststat => Config.bistCode (s.test.bist.getD index 0)
  | .fuseread => boolsOf 64 (s.fuses.toNat / 2 ^ (64 * index))
  | .vsense | .pllobs | .bridle => boolsOf 64 (Config.free64 s.freeCtr).toNat

/-- An access opens or closes its segment and shifts bits out. -/
def State.scanned (s : State) (inst : Instrument) (opens : Bool) (bits : List Bool) : State :=
  let rest := s.test.open1687.filter (· != inst)
  { s with test := { s.test with open1687 := if opens then rest ++ [inst] else rest, seen := bits, tdo := bits } }

/-- Bridle's request on a channel may preempt the owner of its group's grant: whether one holds it then, and in table mode whether the slot is open, is a free choice (R392; log entry 140). -/
def State.preempt (s : State) (ch : Nat) : State :=
  if Config.freeBool s.freeCtr ch then s.bump.addSat (fPREEMPTS (ch / 4)) 1 else s.bump

/-- Bridle reads one granule of a memory channel as requester 7 (R390); its poisoned granule posts its event (R472). -/
def State.bridleRead (s : State) (addr : Nat) : State :=
  let a := addr / s.granule * s.granule
  if !s.inWindow a || !s.portUp (s.portOf a) then s.scanned .bridle true []
  else
    let r := (s.preempt (s.channel a)).readHost 7 0 a s.granule
    r.1.scanned .bridle true (r.2.1.flatMap fun b => boolsOf 8 b.toNat)

/-- Bridle writes bytes inside one granule of a memory channel (R386, R390). -/
def State.bridleWrite (s : State) (addr : Nat) (data : List Byte) : State :=
  let a := addr / s.granule * s.granule
  let bs := data.take (a + s.granule - addr)
  if !s.inWindow a || !s.portUp (s.portOf a) || bs.isEmpty then s.scanned .bridle true []
  else ((s.preempt (s.channel a)).writeHost addr bs .plain).scanned .bridle true []

/-- What an access to Bridle does. The spec names trace buffer, breakpoints and channel access, and says neither what a breakpoint stops nor what the trace holds: the breakpoints are kept, the trace is a free value (log entry 140). -/
def State.bridle (s : State) (index : Nat) : BridleOp → State
  | .trace =>
    let t := s.bump.scanned .bridle true (s.instrument .bridle index)
    { t with test := { t.test with trace := [Config.free64 s.freeCtr] } }
  | .breakpoints ws => let t := s.scanned .bridle true []; { t with test := { t.test with breaks := ws } }
  | .readGranule a => s.bridleRead a
  | .writeBytes a bs => s.bridleWrite a bs

/-- IEEE1687_ACCESS (R502): the segment opens where the life-cycle state permits, and the instrument's content is scanned out. -/
def execIeee1687Access (inst : Instrument) (index : Nat) (op : BridleOp) (s : State) : Host.Outcome State Fault Refusal :=
  if !segmentOpen s.lc inst then .next (s.scanned inst false [])
  else if inst = .bridle then .next (s.bridle index op)
  else .next (s.bump.scanned inst true (s.instrument inst index))

end Sys2Proof.Machine
end

