-- ==== Sys2Proof/Machine/Watchdog.lean ====
section
/-! DEFINITION. The step watchdog (R479) and the windows of coalesced events (R478). -/

namespace Sys2Proof.Machine

/-- The stage that a step has reached, as `STEP_TIMEOUT` codes it (R477); a step enters the screen once its working set is there, the arrays are free and nothing holds its fill (R309, R420). -/
def State.stage (s : State) (f : Flight) : Nat :=
  if f.emitted || f.emitting then 4
  else if !(f.loaded && f.snapped && f.released && f.allocd && s.arraysFree f.ln) then 0
  else if !f.screened then 1
  else if f.selected || f.scored || f.certified then 3
  else 2

/-- The step's merge is still waiting (R192): it is at its XMERGE, to send a round or for a round to complete. -/
def Flight.mergeWaits (f : Flight) : Bool :=
  !f.emitted && (f.selected || f.scored) && (!f.prog.paired || f.klDone || decide (f.mrDone < f.mrSent)) && !f.merged

/-- What a step waits for, as `STEP_TIMEOUT` codes it (R477). -/
def State.waitCode (s : State) (f : Flight) : Nat :=
  if f.mergeWaits then 1
  else if s.sync.cmpLn = some f.ln then 2
  else if !s.flightQuiet f.ln then 3
  else if f.emitting && !f.emitted then 4
  else if !f.released && (match f.hold with | some h => !h.met | none => false) then 5
  else 0

/-- A row without a decision of its own. -/
def RowState.abandon (f : Flight) (r : RowState) : RowState :=
  { r with poison := true, phase := .poisoned, out := some (poisonOut f r), merged := none }

/-- A `POISON` record needs a free ring slot; only in a merge group can there be none (R286). -/
def State.ringTakes (s : State) (f : Flight) (n : Nat) : Bool :=
  f.prog.xmerge.isNone || !f.writes || decide (s.getF (fE_PROD n) < 2 ^ s.getF (fE_RORDER n) + (s.req n).cons)

/-- The vacancy test of a bound row that has no snapshot, at the expiry (R479); a later row of a run stands as its first row does, which has written a record (`k`) or not. -/
def State.lateVacancy (s : State) (f : Flight) (n i : Nat) (k : List Nat) (r : RowState) : State × Bool :=
  if r.snapped then (s, r.vacant)
  else
    let test (need : Nat) : State × Bool :=
      let (t, v) := s.vacancy n need f.prog.xmerge.isSome
      (if v then t else t.setReq n { t.req n with reserved := (t.req n).reserved - need }, v)
    match unitOf f.runs i with
    | some v => if i = v.row0 then test (v.dlen + 1) else (s, !k.contains v.row0)
    | none => test (if f.prog.retain then 0 else 1)

/-- One row of an expired generation step (R479): a bound row that is not vacant writes the record of a `POISON` row. `k` are the rows that have written one, `vac` those found vacant. -/
def State.abandonRow (x : State × Emission × List Nat × List Nat) (f : Flight) (i : Nat) (r : RowState) : State × Emission × List Nat × List Nat :=
  let (s, e, k, vac) := x
  match r.slot, r.bound with
  | some n, true =>
    let (s, v) := s.lateVacancy f n i k r
    if v then (s, e.put i noToken, k, vac ++ [i])
    else if f.prog.retain then
      let y := s.emitRetain e f i n { r with vacant := false } (poisonOut f r)
      (y.1, y.2, k, vac)
    else if s.ringTakes f n then
      let y := s.formRecord e f i n (poisonOut f r) false
      (y.1, y.2.1, k ++ [i], vac)
    else ((if s.flag (fE_PRETRY n) then s else s.callEnd n 7 7), e.put i noToken, k, vac)
  | _, _ => (s, e.put i noToken, k, vac)

/-- A verify run without write-back (R479); `k` are the rows that wrote a record. -/
def VRun.abandon (v : VRun) (k : List Nat) : VRun :=
  { v with failed := true, na := 0, rej := false, stopped := false
           nemit := k.countP fun i => decide (v.row0 ≤ i ∧ i ≤ v.row0 + v.dlen) }

/-- Rows of an expired generation step whose records have not been issued (R479). -/
def State.abandonEmit (s : State) (f : Flight) : State × Flight :=
  let n := f.prog.rows
  let g := if f.emitting then f else { f with gEmit := s.gc }
  let e0 : Emission := ⟨List.replicate n noToken, List.replicate n [], [], [], [], 0, [], []⟩
  let s := s.releaseRings f
  let s := if f.snapped then s else (s.shortRings f).foldl (fun s n => s.rereadCons n f.who) s
  let (s, e, k, vac) := f.rows.zipIdx.foldl (fun x q => State.abandonRow x g q.2 q.1) (s, e0, [], [])
  let runs := f.runs.map fun v => v.abandon k
  let s := (runs.filterMap fun v => (f.rows.getD v.row0 default).slot).foldl (fun s n => s.freeRets n) s
  let e := { e with wbs := runs.map fun v => (v.index, v.row0, s.writeBack f v) }
  (s.issueEmission f e, { g with runs := runs, nLate := e.late, rows := f.rows.zipIdx.map fun q => { q.1.abandon f with vacant := vac.contains q.2 } })

/-- Rows of an expired SCOREQ step whose result records have not been written (R479). -/
def State.abandonScores (s : State) (f : Flight) : State × Flight :=
  let g := { f with gEmit := s.gc, rows := f.rows.map (·.abandon f) }
  let out := match f.prog.scoreq with | some x => x.2 | none => 0
  (if f.writes then s.writeHost out (g.rows.map (resultRecord g)).flatten (.emit f.ln) else s, g)

/-- A step that has bound no row: its token vector holds `NO_TOKEN`, and every row counts as `POISON` (R479). -/
def State.abandonEarly (s : State) (f : Flight) : State × Flight :=
  let row : RowState := (default : RowState).abandon f
  let g := { f with gEmit := s.gc, rows := List.replicate f.prog.rows row, runs := [] }
  if f.prog.isScore || !f.writes then (s, g)
  else (s.writeHost f.prog.tv ((List.replicate f.prog.rows noToken).flatMap (leBytes 4)) (.emit f.ln), g)

/-- Every unit has dropped the step: nothing of it goes on but its completion. -/
def Flight.dropAll (f : Flight) (gc : Nat) : Flight :=
  { f with
    allocd := true, wsUnits := 0, loaded := true, snapped := true, released := true, screened := true, m0done := true, swept := true
    selected := true, verified := true, klDone := true, scored := true, gradDone := true, transDone := true, emitted := true
    emitting := true, cstat := 1, gcDone := gc, mrDone := f.mrSent }

/-- The waits of a step end: of its merge rounds and of its digest (R192, R435, R479). -/
def State.dropWaits (s : State) (f : Flight) : State :=
  { s with
    sync := if s.sync.cmpLn = some f.ln then { s.sync with cmpLn := none, bisect := none } else s.sync
    out := s.out.map fun o => match o.why with
      | .merge l _ | .mergeCnt l _ => if l = f.ln then { o with why := .plain } else o
      | _ => o }

/-- STEP_TIMEOUT (R479): the step or NORMAL is abandoned and ends `ABORTED`; what has been issued stands. The limit runs to the completion status (R413): a step that waits to write it is ended too, and has completed for its requests already. -/
def execStepTimeout (ln : Nat) (s : State) : Host.Outcome State Fault Refusal :=
  match s.flight ln with
  | none => .next s
  | some f =>
    if f.cstat == 1 then .next s
    else
      let stage := (s.stage f)
      let wait := s.waitCode f
      let round := match mergeCtx f f.mrDone with | some m => m.rnd | none => 0
      let (s, g) :=
        if f.emitted || f.normal.isSome then (s, f)
        else if !f.loaded then s.abandonEarly f
        else if f.prog.isScore then s.abandonScores f
        else s.abandonEmit f
      let s := ((s.dropWaits f).setFlight (g.dropAll s.gc)).addSat fSTEP_TO 1
      let s := if f.mergeWaits then
          s.post (f.events (s.event 8 2 1 [(40, leBytes 4 round), (48, leBytes 8 (s.getF fXM_CNT))])) else s
      .next (s.post (f.events (s.event 12 1 1 [(36, leBytes 1 stage), (37, leBytes 1 wait)])))

/-- COALESCE_WINDOW_CLOSE (R478): 1 ms after it opened, a window is posted. `ROW` records are posted when their step completes. -/
def execCoalesceWindowClose (key : CoalKey) (s : State) : Host.Outcome State Fault Refusal :=
  match key with
  | .rowCode _ _ => .next s
  | .exqOverflow => .next { (s.closeWindow key) with far := { (s.closeWindow key).far with dropRec := s.far.drops } }
  | _ => .next (s.closeWindow key)

end Sys2Proof.Machine
end

