-- ==== Sys2Proof/Machine/Dispatch.lean ====
section
/-! DEFINITION. The meaning of each command: one arm for each row of spec/opcode_table.json. -/

namespace Sys2Proof.Machine

def exec (i : Instr) (s : State) : Host.Outcome State Fault Refusal :=
  match i with
  | .doorbell q op snd => Sys2Proof.Machine.execDoorbell q op snd s
  | .queueEnable q v snd => Sys2Proof.Machine.execQueueEnable q v snd s
  | .queueDisable q v snd => Sys2Proof.Machine.execQueueDisable q v snd s
  | .resume q v snd => Sys2Proof.Machine.execResume q v snd s
  | .skip q v snd => Sys2Proof.Machine.execSkip q v snd s
  | .slotFetchArrival q => Sys2Proof.Machine.execSlotFetchArrival q s
  | .decode q => Sys2Proof.Machine.execDecode q s
  | .g2g3Descriptor q => Sys2Proof.Machine.execG2g3Descriptor q s
  | .launch => Sys2Proof.Machine.execLaunch s
  | .nop q => Sys2Proof.Machine.execNop q s
  | .halt q => Sys2Proof.Machine.execHalt q s
  | .stepOpen q => Sys2Proof.Machine.execStepOpen q s
  | .stepEnd q => Sys2Proof.Machine.execStepEnd q s
  | .rows q => Sys2Proof.Machine.execRows q s
  | .loadh ln => Sys2Proof.Machine.execLoadh ln s
  | .allocateWorkingSet ln => Sys2Proof.Machine.execAllocateWorkingSet ln s
  | .historySnapshot ln => Sys2Proof.Machine.execHistorySnapshot ln s
  | .fillRelease ln => Sys2Proof.Machine.execFillRelease ln s
  | .screen ln cured => Sys2Proof.Machine.execScreen ln cured s
  | .m0Broadcast ln lag => Sys2Proof.Machine.execM0Broadcast ln lag s
  | .sumSweep ln cured => Sys2Proof.Machine.execSumSweep ln cured s
  | .refineRound ln row cured late => Sys2Proof.Machine.execRefineRound ln row cured late s
  | .screenInstr q => Sys2Proof.Machine.execScreenInstr q s
  | .refine q => Sys2Proof.Machine.execRefine q s
  | .fuse q => Sys2Proof.Machine.execFuse q s
  | .bias q => Sys2Proof.Machine.execBias q s
  | .penal q => Sys2Proof.Machine.execPenal q s
  | .temp q => Sys2Proof.Machine.execTemp q s
  | .maskUse q => Sys2Proof.Machine.execMaskUse q s
  | .gumbel q => Sys2Proof.Machine.execGumbel q s
  | .draw q => Sys2Proof.Machine.execDraw q s
  | .select ln => Sys2Proof.Machine.execSelect ln s
  | .verify ln => Sys2Proof.Machine.execVerify ln s
  | .emit ln => Sys2Proof.Machine.execEmit ln s
  | .emitConsRetry ln => Sys2Proof.Machine.execEmitConsRetry ln s
  | .completionStatus ln => Sys2Proof.Machine.execCompletionStatus ln s
  | .scoreq ln cured late => Sys2Proof.Machine.execScoreq ln cured late s
  | .klref ln cured late => Sys2Proof.Machine.execKlref ln cured late s
  | .grad ln cured => Sys2Proof.Machine.execGrad ln cured s
  | .gradTransposedPass ln cured => Sys2Proof.Machine.execGradTransposedPass ln cured s
  | .xmerge ln => Sys2Proof.Machine.execXmerge ln s
  | .mergeRoundComplete ln cured late => Sys2Proof.Machine.execMergeRoundComplete ln cured late s
  | .digest ln => Sys2Proof.Machine.execDigest ln s
  | .digestDelivery lo hi snd => Sys2Proof.Machine.execDigestDelivery lo hi snd s
  | .digestBisectRound => Sys2Proof.Machine.execDigestBisectRound s
  | .mismatchClear v snd => Sys2Proof.Machine.execMismatchClear v snd s
  | .launchat q => Sys2Proof.Machine.execLaunchat q s
  | .launchatSatisfied q => Sys2Proof.Machine.execLaunchatSatisfied q s
  | .barrier q => Sys2Proof.Machine.execBarrier q s
  | .barrierRelease => Sys2Proof.Machine.execBarrierRelease s
  | .syncBarDn level => Sys2Proof.Machine.execSyncBarDn level s
  | .syncBarCup child level => Sys2Proof.Machine.execSyncBarCup child level s
  | .waitq q => Sys2Proof.Machine.execWaitq q s
  | .signal q => Sys2Proof.Machine.execSignal q s
  | .fence q => Sys2Proof.Machine.execFence q s
  | .put q => Sys2Proof.Machine.execPut q s
  | .get q => Sys2Proof.Machine.execGet q s
  | .repack q => Sys2Proof.Machine.execRepack q s
  | .repackStart => Sys2Proof.Machine.execRepackStart s
  | .repackComplete => Sys2Proof.Machine.execRepackComplete s
  | .repackStop => Sys2Proof.Machine.execRepackStop s
  | .maskLoad q => Sys2Proof.Machine.execMaskLoad q s
  | .maskLoadComplete => Sys2Proof.Machine.execMaskLoadComplete s
  | .tabcommit q => Sys2Proof.Machine.execTabcommit q s
  | .commitGo v snd => Sys2Proof.Machine.execCommitGo v snd s
  | .commitCheckDone => Sys2Proof.Machine.execCommitCheckDone s
  | .laneCopyDone => Sys2Proof.Machine.execLaneCopyDone s
  | .bankDrainDone => Sys2Proof.Machine.execBankDrainDone s
  | .bankCopyDone => Sys2Proof.Machine.execBankCopyDone s
  | .tableWindowWrite off v snd => Sys2Proof.Machine.execTableWindowWrite off v snd s
  | .normal ln => Sys2Proof.Machine.execNormal ln s
  | .psRelease ps v snd => Sys2Proof.Machine.execPsRelease ps v snd s
  | .psAdopt ps v snd => Sys2Proof.Machine.execPsAdopt ps v snd s
  | .leaseAcquire slot expect new snd => Sys2Proof.Machine.execLeaseAcquire slot expect new snd s
  | .leaseRelease slot snd => Sys2Proof.Machine.execLeaseRelease slot snd s
  | .leaseDiscard slot snd => Sys2Proof.Machine.execLeaseDiscard slot snd s
  | .halterEntryWrite slot word op snd => Sys2Proof.Machine.execHalterEntryWrite slot word op snd s
  | .leaseTimeout slot => Sys2Proof.Machine.execLeaseTimeout slot s
  | .admission => Sys2Proof.Machine.execAdmission s
  | .deadlineScan => Sys2Proof.Machine.execDeadlineScan s
  | .ageing => Sys2Proof.Machine.execAgeing s
  | .yarrowBlock => Sys2Proof.Machine.execYarrowBlock s
  | .yarrowReport => Sys2Proof.Machine.execYarrowReport s
  | .tenantKeyWrite tenant hi v snd => Sys2Proof.Machine.execTenantKeyWrite tenant hi v snd s
  | .arbCommit v snd => Sys2Proof.Machine.execArbCommit v snd s
  | .arbSnapshotApply g => Sys2Proof.Machine.execArbSnapshotApply g s
  | .arbModeChange g => Sys2Proof.Machine.execArbModeChange g s
  | .gctlWrite v snd => Sys2Proof.Machine.execGctlWrite v snd s
  | .tkHmwinWrite v snd => Sys2Proof.Machine.execTkHmwinWrite v snd s
  | .eventRingEnable v snd => Sys2Proof.Machine.execEventRingEnable v snd s
  | .syncRegisterWrite off v snd => Sys2Proof.Machine.execSyncRegisterWrite off v snd s
  | .paddockWindowAccess off v snd => Sys2Proof.Machine.execPaddockWindowAccess off v snd s
  | .powerRegisterWrite off v snd => Sys2Proof.Machine.execPowerRegisterWrite off v snd s
  | .rcFieldRead off n snd => Sys2Proof.Machine.execRcFieldRead off n snd s
  | .registerWrite off op snd => Sys2Proof.Machine.execRegisterWrite off op snd s
  | .lcReqWrite v rmaEn snd => Sys2Proof.Machine.execLcReqWrite v rmaEn snd s
  | .lcFuseDone => Sys2Proof.Machine.execLcFuseDone s
  | .ping arg seq snd => Sys2Proof.Machine.execPing arg seq snd s
  | .ctxSave arg seq snd => Sys2Proof.Machine.execCtxSave arg seq snd s
  | .ctxRestore arg seq snd => Sys2Proof.Machine.execCtxRestore arg seq snd s
  | .telemCfg arg seq snd => Sys2Proof.Machine.execTelemCfg arg seq snd s
  | .faultLog arg seq snd => Sys2Proof.Machine.execFaultLog arg seq snd s
  | .clusterTest arg seq mbistOk lbistOk words snd => Sys2Proof.Machine.execClusterTest arg seq mbistOk lbistOk words snd s
  | .leaseBreak arg seq snd => Sys2Proof.Machine.execLeaseBreak arg seq snd s
  | .queueAbandon arg seq snd => Sys2Proof.Machine.execQueueAbandon arg seq snd s
  | .dbgSnapshot arg seq snd => Sys2Proof.Machine.execDbgSnapshot arg seq snd s
  | .dbgTrace arg seq snd => Sys2Proof.Machine.execDbgTrace arg seq snd s
  | .padRepair hard glitch => Sys2Proof.Machine.execPadRepair hard glitch s
  | .ceStorm persists => Sys2Proof.Machine.execCeStorm persists s
  | .scrubFix => Sys2Proof.Machine.execScrubFix s
  | .staleFail => Sys2Proof.Machine.execStaleFail s
  | .sorrelCheck passed => Sys2Proof.Machine.execSorrelCheck passed s
  | .linkLog => Sys2Proof.Machine.execLinkLog s
  | .lockstepLog => Sys2Proof.Machine.execLockstepLog s
  | .farrierReset => Sys2Proof.Machine.execFarrierReset s
  | .farrierRestartDone => Sys2Proof.Machine.execFarrierRestartDone s
  | .telemetryPeriod => Sys2Proof.Machine.execTelemetryPeriod s
  | .stepTimeout ln => Sys2Proof.Machine.execStepTimeout ln s
  | .rspTimeout port tag => Sys2Proof.Machine.execRspTimeout port tag s
  | .coalesceWindowClose key => Sys2Proof.Machine.execCoalesceWindowClose key s
  | .sramPatrol part double storm syndrome => Sys2Proof.Machine.execSramPatrol part double storm syndrome s
  | .scrubRead glitch => Sys2Proof.Machine.execScrubRead glitch s
  | .sorrelReseed cl lane j nb => Sys2Proof.Machine.execSorrelReseed cl lane j nb s
  | .hResponse tag status pois addr words => Sys2Proof.Machine.execHResponse tag status pois addr words s
  | .mcReadResponse ch tag addr data mark => Sys2Proof.Machine.execMcReadResponse ch tag addr data mark s
  | .mcWriteAck ch tag status => Sys2Proof.Machine.execMcWriteAck ch tag status s
  | .mcOrdAck ch => Sys2Proof.Machine.execMcOrdAck ch s
  | .capReceive port cap agent aepoch => Sys2Proof.Machine.execCapReceive port cap agent aepoch s
  | .capResend => Sys2Proof.Machine.execCapResend s
  | .modeAckReceive mode => Sys2Proof.Machine.execModeAckReceive mode s
  | .creditInitReceive vc hdr dat => Sys2Proof.Machine.execCreditInitReceive vc hdr dat s
  | .negotiateTimeout => Sys2Proof.Machine.execNegotiateTimeout s
  | .epochNote agent aepoch => Sys2Proof.Machine.execEpochNote agent aepoch s
  | .linkFault flit carry vc => Sys2Proof.Machine.execLinkFault flit carry vc s
  | .quiesce => Sys2Proof.Machine.execQuiesce s
  | .drained => Sys2Proof.Machine.execDrained s
  | .isolate => Sys2Proof.Machine.execIsolate s
  | .pdAoPowerUp => Sys2Proof.Machine.execPdAoPowerUp s
  | .reset => Sys2Proof.Machine.execReset s
  | .wipeDone => Sys2Proof.Machine.execWipeDone s
  | .bistDone failed others => Sys2Proof.Machine.execBistDone failed others s
  | .pdCommit v snd => Sys2Proof.Machine.execPdCommit v snd s
  | .domainMove => Sys2Proof.Machine.execDomainMove s
  | .pdAck n level => Sys2Proof.Machine.execPdAck n level s
  | .clusterRecovery n words => Sys2Proof.Machine.execClusterRecovery n words s
  | .chipSleepReq => Sys2Proof.Machine.execChipSleepReq s
  | .chipWake => Sys2Proof.Machine.execChipWake s
  | .supplyWarning supply => Sys2Proof.Machine.execSupplyWarning supply s
  | .supplyRecovered us => Sys2Proof.Machine.execSupplyRecovered us s
  | .supplyReset supply => Sys2Proof.Machine.execSupplyReset supply s
  | .dvfsDecision => Sys2Proof.Machine.execDvfsDecision s
  | .vselAck => Sys2Proof.Machine.execVselAck s
  | .vselTimeout => Sys2Proof.Machine.execVselTimeout s
  | .energyRefill => Sys2Proof.Machine.execEnergyRefill s
  | .thermalSample temps => Sys2Proof.Machine.execThermalSample temps s
  | .syncTick => Sys2Proof.Machine.execSyncTick s
  | .syncLoad v level => Sys2Proof.Machine.execSyncLoad v level s
  | .wsBypass code => Sys2Proof.Machine.execWsBypass code s
  | .wsSafe => Sys2Proof.Machine.execWsSafe s
  | .wsPreload cells => Sys2Proof.Machine.execWsPreload cells s
  | .wsClamp => Sys2Proof.Machine.execWsClamp s
  | .wsExtest captured => Sys2Proof.Machine.execWsExtest captured s
  | .wsIntest captured => Sys2Proof.Machine.execWsIntest captured s
  | .msMbist failed => Sys2Proof.Machine.execMsMbist failed s
  | .msLbist failed => Sys2Proof.Machine.execMsLbist failed s
  | .msFuse bits => Sys2Proof.Machine.execMsFuse bits s
  | .ieee1687Access inst index op => Sys2Proof.Machine.execIeee1687Access inst index op s
  | .creditReturn vc hdr dat => Sys2Proof.Machine.execCreditReturn vc hdr dat s
  | .mailboxCommandDone => Sys2Proof.Machine.execMailboxCommandDone s
  | .supplyRecoveryCrossing supply => Sys2Proof.Machine.execSupplyRecoveryCrossing supply s
  | .pdAckBudgetExceeded n => Sys2Proof.Machine.execPdAckBudgetExceeded n s

end Sys2Proof.Machine
end

