-- ==== Sys2Proof/Machine/Pins.lean ====
section
/-! DEFINITION. The output pins (R489) as the state gives them: what DXQ4 drives, the idle values under isolation and `WS_SAFE`, the boundary cells under the wrapper instructions that drive from them (R501). No command reads them. -/

namespace Sys2Proof.Machine

/-- The outputs of one memory channel: its header while one is presented, and the write slots, an invalid one none. -/
structure McPins where
  req  : Option (BitVec 128)
  wdat : List (Option (BitVec 128))
deriving DecidableEq, Repr, Inhabited

/-- The outputs of every port but the test port. -/
structure OutPins where
  tx      : Flit
  online  : Bool
  mc      : List McPins
  barUp   : Bool
  barCdn  : Bool
  pdReq   : List Bool
  pdRet   : List Bool
  slpAck  : Bool
  slpDeny : Bool
  vsel    : Nat
  hot     : Bool
  trip    : Bool
  fail    : Bool
deriving DecidableEq, Repr, Inhabited

/-- What DXQ4 drives while nothing holds its outputs. -/
def State.drivenPins (s : State) : OutPins :=
  { tx := s.txFlit, online := s.tackOnline, mc := (List.range 16).map fun n => ⟨s.mcReqPin n, s.mcDataPin n⟩
    barUp := s.sync.up, barCdn := s.sync.cdn, pdReq := s.power.pdReq, pdRet := s.power.pdRet, slpAck := s.power.sleepAck
    slpDeny := s.power.sleepDeny, vsel := s.power.vsel, hot := s.thermPins.1, trip := s.thermPins.2, fail := s.power.attachFail }

/-- The idle values, with the domain pins held at `req` and `ret`. -/
def idlePins (req ret : List Bool) : OutPins :=
  { tx := idleFlit, online := false, mc := List.replicate 16 ⟨none, []⟩, barUp := false, barCdn := false, pdReq := req, pdRet := ret
    slpAck := false, slpDeny := false, vsel := 0, hot := false, trip := false, fail := false }

/-- Bit `i` of signal `sig` as its boundary cell drives it; the order of the cells is not stated (log entry 141). -/
def State.cellBit (s : State) (sig i : Nat) : Bool := s.test.cells.getD (Config.cellOf sig i) false
def State.cellNat (s : State) (sig base w : Nat) : Nat := (List.range w).foldl (fun n i => n + if s.cellBit sig (base + i) then 2 ^ i else 0) 0

/-- The outputs of channel `n` from the boundary cells. -/
def State.mcCells (s : State) (n : Nat) : McPins :=
  let k := 20 + 4 * n
  ⟨if s.cellBit (k + 1) 0 then some (BitVec.ofNat 128 (s.cellNat k 0 128)) else none,
   (List.range 20).map fun i => if s.cellBit (k + 3) i then some (BitVec.ofNat 128 (s.cellNat (k + 2) (128 * i) 128)) else none⟩

/-- Every output from the boundary cells. -/
def State.cellPins (s : State) : OutPins :=
  { tx := ⟨(List.range 8).map fun i => BitVec.ofNat 128 (s.cellNat 0 (128 * i) 128), s.cellNat 1 0 2, BitVec.ofNat 8 (s.cellNat 2 0 8),
           s.cellNat 3 0 2, s.cellNat 4 0 2, s.cellNat 5 0 4⟩
    online := s.cellBit 6 0, mc := (List.range 16).map s.mcCells, barUp := s.cellBit 7 0, barCdn := s.cellBit 8 0
    pdReq := (List.range 20).map (s.cellBit 9), pdRet := (List.range 20).map (s.cellBit 10), slpAck := s.cellBit 11 0
    slpDeny := s.cellBit 12 0, vsel := s.cellNat 13 0 2, hot := s.cellBit 14 0, trip := s.cellBit 15 0, fail := s.cellBit 16 0 }

/-- The output pins: idle under isolation, whatever the wrapper does; else the wrapper's instruction in effect decides (R489, R501). Under `WS_INTEST`, whose outputs R501 does not name, they come from the cells too (log entry 141). -/
def State.outPins (s : State) : OutPins :=
  if s.link.isolated then idlePins s.power.pdReq s.power.pdRet
  else match s.wirNow with
    | 1 => idlePins s.test.heldPd.1 s.test.heldPd.2
    | 3 | 4 | 5 => s.cellPins
    | _ => s.drivenPins

/-- The test port's outputs: what the last access shifted out of `tst_tdo`, `tst_wso` and `tst_wpo`; under isolation they idle at 0. -/
def State.testPins (s : State) : List Bool × List Bool × List Bool :=
  if s.link.isolated then ([false], [false], List.replicate 64 false) else (s.test.tdo, s.test.wso, s.test.wpo)

end Sys2Proof.Machine
end

