-- ==== Sys2Proof/Safety.lean ====
section
/-! DEFINITION. What statements about DXQ4 speak of: a step that answers, states in canonical form, states of the right shape, and a sender whose request is served. -/

namespace Sys2Proof.Machine

/-- The step answers a next state. -/
def Safe (s : State) : Prop := ∃ t, step s = .next t

/-- Every sparse store of the state is in its one canonical form. -/
structure Canonical (s : State) : Prop where
  regs   : Store.wf regDefault s.regs
  mem    : Store.wf memDefault s.mem
  marks  : Store.wf markDefault s.memMark
  pad    : Store.wf padDefault s.pad
  banks  : Store.wf bankDefault s.banks
  lanes  : Store.wf bankDefault s.lanes
  reqs   : Store.wf reqDefault s.reqs
  epochs : Store.wf epochDefault s.link.epochs

/-- Every list that stands for a fixed number of like things has that number: 32 queues (R297), 64 mask sets (R128), 16 plane sets (R57), 16 clusters' tags (R158), 4 arbiter groups (R393), 8 child lines (R430), 3 credited channels (R372), 16 memory channels (R386), 20 domains (R446), 16 sensors (R465), 8 trim words (R504). -/
structure Shaped (s : State) : Prop where
  queues : s.queues.length = 32
  masks  : s.masks.length = 64
  placed : s.placed.length = 16
  tags   : s.laneTags.length = 16
  pend   : s.arb.pend.length = 4
  eff    : s.arb.eff.length = 4
  cup    : s.sync.cup.length = 8
  hdr    : s.link.hdr.length = 3
  dat    : s.link.dat.length = 3
  dtags  : s.power.tags.length = 20
  pdReq  : s.power.pdReq.length = 20
  pdRet  : s.power.pdRet.length = 20
  pdAck  : s.power.pdAck.length = 20
  hotUs  : s.power.hotUs.length = 16
  mcReq  : s.link.mcReq.length = 16
  mcData : s.link.mcData.length = 16
  mcRet  : s.link.mcRet.length = 16
  bist   : s.test.bist.length = 20
  trims  : s.trims.length = 8
  lanesOff : s.far.sorrelOff.length = 16

/-- The request of a sender is served: the link is up, and its epoch is not an old one; `t` is the state in which it is served, with a newer epoch recorded (R376, R380, R467). -/
def Heard (s : State) (snd : Sender) (t : State) : Prop := s.served = true ∧ s.epochCheck snd = some t

/-- The message of a command that accesses the control space: its sender, its `OP` and its words (chapter 15; R370). -/
def controlMessage : Instr → Option (Sender × Nat × Nat)
  | .doorbell _ op snd | .halterEntryWrite _ _ op snd | .registerWrite _ op snd => some (snd, accessOp op)
  | .queueEnable _ _ snd | .queueDisable _ _ snd | .resume _ _ snd | .skip _ _ snd | .mismatchClear _ snd | .commitGo _ snd => some (snd, opWR, 1)
  | .tableWindowWrite _ _ snd | .psRelease _ _ snd | .psAdopt _ _ snd | .leaseRelease _ snd | .leaseDiscard _ snd => some (snd, opWR, 1)
  | .tenantKeyWrite _ _ _ snd | .arbCommit _ snd | .gctlWrite _ snd | .tkHmwinWrite _ snd | .eventRingEnable _ snd => some (snd, opWR, 1)
  | .syncRegisterWrite _ _ snd | .paddockWindowAccess _ (some _) snd | .powerRegisterWrite _ _ snd | .pdCommit _ snd => some (snd, opWR, 1)
  | .ping _ _ snd | .ctxSave _ _ snd | .ctxRestore _ _ snd | .telemCfg _ _ snd | .faultLog _ _ snd | .clusterTest _ _ _ _ _ snd => some (snd, opWR, 1)
  | .leaseBreak _ _ snd | .queueAbandon _ _ snd | .dbgSnapshot _ _ snd | .dbgTrace _ _ snd => some (snd, opWR, 1)
  | .digestDelivery _ _ snd => some (snd, opWR, 2)
  | .leaseAcquire _ _ _ snd => some (snd, opATOM, 1)
  | .paddockWindowAccess _ none snd => some (snd, opRD, 1)
  | .rcFieldRead _ n snd => some (snd, opRD, n)
  | _ => none

/-- Flight `ln` of `u` is `g`, and every other flight is as in `s`. -/
def Becomes (s u : State) (ln : Nat) (g : Flight) : Prop := u.flight ln = some g ∧ ∀ m, m ≠ ln → u.flight m = s.flight m

/-- No byte of host memory differs outside the `n` bytes at `a`. -/
def SameMemBut (s t : State) (a n : Nat) : Prop :=
  ∀ k, k < a ∨ a + n ≤ k → Store.read memDefault t.mem k = Store.read memDefault s.mem k

/-- The bytes that a command writes at `a` stand there in `u`, where the ports of their messages run (R371). -/
def Written (s u : State) (a : Nat) (bs : List Byte) : Prop :=
  (∀ m ∈ s.messages none true a bs.length, s.portUp m.1 = true) → ∀ i, i < bs.length → Store.read memDefault u.mem (a + i) = bs.getD i 0

/-- Two ranges of bytes share none. -/
def Apart (a n b m : Nat) : Prop := a + n ≤ b ∨ b + m ≤ a

/-- The offset of a register word that is only stored (R401): in a region of R397, outside the windows, the tenant keys, the queues, the plane sets, the sync and power regions, and none of the words whose write does more. -/
def PlainRegister (off : Nat) : Prop :=
  off % 8 = 0 ∧ inRegion off = true ∧ inHalter off = false ∧ inPaddock off = false ∧ inCampion off = false ∧
  (off < 0x3100 ∨ 0x4100 ≤ off) ∧ (off < 0x2000 ∨ 0x2800 ≤ off) ∧ (off < 0x8000 ∨ 0x8400 ≤ off) ∧ (off < 0x5000 ∨ 0x7000 ≤ off) ∧
  off ∉ [rGCTL, rLIFECYCLE, rMBOX_ARG, rMBOX_CMD, rARB_COMMIT, rEV_SIZE, 0x3000, rTK_HMWIN]

/-- The command that hands an instruction of the frame or a guard over to the program of the step decoded at queue `q` (R302, R309, R331). -/
def frameCommand (q : Nat) : GInstr → Option Instr
  | .stepOpen _ => some (.stepOpen q)
  | .stepEnd _ => some (.stepEnd q)
  | .rows _ _ => some (.rows q)
  | .screen _ _ => some (.screenInstr q)
  | .refine _ => some (.refine q)
  | .fuse _ _ => some (.fuse q)
  | .bias _ _ => some (.bias q)
  | .penal _ _ _ => some (.penal q)
  | .temp _ _ _ => some (.temp q)
  | .maskUse _ _ => some (.maskUse q)
  | .gumbel => some (.gumbel q)
  | .draw _ _ _ => some (.draw q)
  | _ => none

end Sys2Proof.Machine
end

