-- ==== Sys2Proof/WellFormed.lean ====
section
/-! DEFINITION. Well-formed commands: every operand names something that DXQ4 has. -/

namespace Sys2Proof

/-- A port of DXQ4 (chapter 14). -/
def Port.wf : Port → Bool
  | .hport => true
  | .mc n => decide (n < 16)

/-- A record: plane 0 to 2, or 4 to 6 for the reference set (R245). -/
def RecRef.wf (r : RecRef) : Bool := decide (r.plane < 3) || decide (4 ≤ r.plane ∧ r.plane < 7)

/-- A queue instruction or register write names a queue (R297). -/
def queueOk (q : Nat) : Bool := decide (q < 32)

/-- A request arrives on VC0, or as a reduction on VC2; a read on VC0 only (R366, R372). -/
def Sender.wf (s : Sender) (read : Bool) : Bool := s.vc == 0 || (!read && s.vc == 2)

/-- A write carries 1 to 32 words (R368). -/
def Access.wf : Access → Bool
  | .put _ => true
  | .block l => decide (1 ≤ l.length ∧ l.length ≤ 32)
  | .atom sub _ _ => decide (sub < 256)

/-- An SRAM part names what it says it names (R260, R470). -/
def SramPart.wf : SramPart → Bool
  | .planeRegion c w => decide (c < 16 ∧ w < 2 ^ 22)
  | .rowCopy c w _ r => decide (c < 16 ∧ w < 2 ^ 22 ∧ r < 1024)
  | .scoreStore c w _ r _ _ => decide (c < 16 ∧ w < 2 ^ 22 ∧ r < 1024)
  | .streamBuffer c w _ r => decide (c < 16 ∧ w < 2 ^ 22) && r.wf
  | .sidePartBias c w _ _ => decide (c < 16 ∧ w < 2 ^ 22)
  | .sidePartMask c w _ => decide (c < 16 ∧ w < 2 ^ 22)
  | .candidateStore c _ _ l => decide (c < 16) && l.all fun r => decide (r < 1024)
  | .laneCopy c _ => decide (c < 16)
  | .clusterFixed c _ => decide (c < 16)
  | .selMaster b w => decide (b < 2 ∧ w < 5472)
  | .selFixed _ _ r => decide (r < 1024)
  | .digestLog t => decide (t < 2 ^ 24)
  | .emitBuffer _ _ r => decide (r < 1024)
  | .requestTable n w => decide (n < 8192 ∧ w < 16)
  | .historyCache n w => decide (n < 8192 ∧ w < 256)
  | .maskStore m w => decide (m < 64 ∧ w < 2 ^ 15)
  | .retention _ _ _ => true
  | .paramStore _ r _ => decide (r < 1024)
  | .stopSet _ _ => true
  | .working n _ => decide (n < 8192)
  | .tenantKey t w => decide (t < 256 ∧ w < 2)

/-- An access to Bridle's channels names whole 4-byte words of one granule (R386). -/
def BridleOp.wf : BridleOp → Bool
  | .trace | .breakpoints _ => true
  | .readGranule a => decide (a < 2 ^ 48)
  | .writeBytes a l => decide (a < 2 ^ 48 ∧ 0 < l.length ∧ (a + l.length - 1) / 256 = a / 256) && a % 4 == 0 && l.length % 4 == 0

/-- The operands of a command name what DXQ4 has: queues, slots, sets, offsets, ports, sizes (R260, R297, R367, R397). -/
def Instr.wf : Instr → Bool
  | .doorbell q op snd => queueOk q && op.wf && snd.wf false
  | .queueEnable q v snd => queueOk q && v.getLsbD 0 && snd.wf false
  | .queueDisable q v snd => queueOk q && !v.getLsbD 0 && snd.wf false
  | .resume q v snd => queueOk q && v.getLsbD 16 && snd.wf false
  | .skip q v snd => queueOk q && v.getLsbD 17 && snd.wf false
  | .slotFetchArrival q | .decode q | .g2g3Descriptor q | .nop q | .halt q | .stepOpen q | .stepEnd q | .rows q => queueOk q
  | .screenInstr q | .refine q | .fuse q | .bias q | .penal q | .temp q | .maskUse q | .gumbel q | .draw q => queueOk q
  | .launchat q | .launchatSatisfied q | .barrier q | .waitq q | .signal q | .fence q | .put q | .get q => queueOk q
  | .repack q | .maskLoad q | .tabcommit q => queueOk q
  | .launch => true
  | .loadh _ | .allocateWorkingSet _ | .historySnapshot _ | .fillRelease _ | .m0Broadcast _ _ => true
  | .screen _ l | .sumSweep _ l => l.all RecRef.wf
  | .refineRound _ row l _ => decide (row < 1024) && l.all RecRef.wf
  | .select _ | .verify _ | .emit _ | .emitConsRetry _ | .completionStatus _ => true
  | .scoreq _ l _ | .klref _ l _ | .grad _ l | .gradTransposedPass _ l | .mergeRoundComplete _ l _ => l.all RecRef.wf
  | .xmerge _ | .digest _ | .normal _ => true
  | .digestDelivery _ _ snd => snd.wf false
  | .digestBisectRound => true
  | .mismatchClear v snd => v.getLsbD 0 && snd.wf false
  | .barrierRelease | .syncBarDn _ => true
  | .syncBarCup c _ => decide (c < 8)
  | .repackStart | .repackComplete | .repackStop | .maskLoadComplete => true
  | .commitGo v snd => v.getLsbD 0 && snd.wf false
  | .commitCheckDone | .laneCopyDone | .bankDrainDone | .bankCopyDone => true
  | .tableWindowWrite off _ snd => snd.wf false && off % 8 == 0 && decide ((0x100 ≤ off ∧ off < 0x200) ∨ (0x4000 ≤ off ∧ off < 0x10000))
  | .psRelease n v snd => snd.wf false && decide (n < 16) && v.extractLsb' 0 3 == 0
  | .psAdopt n v snd => snd.wf false && decide (n < 16) && v.extractLsb' 0 3 == 2
  | .leaseAcquire n _ _ snd | .leaseRelease n snd | .leaseDiscard n snd => decide (n < 8192) && snd.wf false
  | .leaseTimeout n => decide (n < 8192)
  | .halterEntryWrite n w op snd => decide (n < 8192 ∧ w < 16 ∧ w ≠ 14) && op.wf && snd.wf false
  | .admission | .deadlineScan | .ageing | .yarrowBlock | .yarrowReport => true
  | .tenantKeyWrite t _ _ snd => decide (t < 256) && snd.wf false
  | .arbCommit v snd => v.getLsbD 0 && snd.wf false
  | .arbSnapshotApply g | .arbModeChange g => decide (g < 4)
  | .gctlWrite _ snd | .tkHmwinWrite _ snd => snd.wf false
  | .eventRingEnable v snd => v.getLsbD 8 && snd.wf false
  | .syncRegisterWrite off _ snd => decide (off < 0x50) && snd.wf false
  | .paddockWindowAccess off v snd => snd.wf v.isNone && off % 8 == 0 && decide (off < 2 ^ 24)
  | .powerRegisterWrite off _ snd => decide (off < 0x280) && snd.wf false
  | .rcFieldRead _ n snd => decide (1 ≤ n ∧ n ≤ 32) && snd.wf true
  | .registerWrite _ op snd => op.wf && snd.wf false
  | .lcReqWrite _ _ snd => snd.wf false
  | .lcFuseDone => true
  | .ping _ _ snd | .ctxSave _ _ snd | .ctxRestore _ _ snd | .telemCfg _ _ snd | .faultLog _ _ snd => snd.wf false
  | .clusterTest _ _ _ _ l snd => snd.wf false && l.all fun w => decide (w < 2 ^ 22)
  | .leaseBreak _ _ snd | .queueAbandon _ _ snd | .dbgSnapshot _ _ snd | .dbgTrace _ _ snd => snd.wf false
  | .padRepair l _ => l.all fun w => decide (w < 2 ^ 22)
  | .ceStorm _ | .scrubFix | .staleFail | .sorrelCheck _ | .linkLog | .lockstepLog => true
  | .farrierReset | .farrierRestartDone | .telemetryPeriod | .stepTimeout _ => true
  | .rspTimeout p t => p.wf && decide (t < 4096)
  | .coalesceWindowClose _ => true
  | .sramPatrol p _ _ _ => p.wf
  | .scrubRead _ => true
  | .sorrelReseed cl lane _ _ => decide (cl < 16 ∧ lane < 160)
  | .hResponse tag st _ a words => decide (tag < 4096 ∧ st < 7 ∧ words.length ≤ 32 ∧ a < 2 ^ 48) && a % 8 == 0
  | .mcReadResponse ch tag a data m =>
    m.wf && decide (ch < 16 ∧ tag < 1024) && (data.length == 128 || data.length == 256) && a % Nat.max 1 data.length == 0
  | .mcWriteAck ch tag st => decide (ch < 16 ∧ tag < 1024 ∧ st < 7)
  | .mcOrdAck ch => decide (ch < 16)
  | .capReceive p _ _ _ => p.wf
  | .capResend | .negotiateTimeout => true
  | .modeAckReceive m => decide (m < 3)
  | .creditInitReceive vc h d => (vc == 0 || vc == 2 || vc == 3) && decide (h < 2 ^ 12 ∧ d < 2 ^ 16)
  | .creditReturn vc h d => (vc == 0 || vc == 2 || vc == 3) && decide (h ≤ 3 ∧ d ≤ 15)
  | .epochNote _ _ => true
  | .linkFault f c vc => decide (f.kind < 4 ∧ f.slots.length ≤ 8 ∧ f.crVc < 4 ∧ f.crHdr ≤ 3 ∧ f.crDat ≤ 15 ∧ c ≤ 17 ∧ vc < 4)
  | .quiesce | .drained | .isolate | .pdAoPowerUp | .reset | .wipeDone | .bistDone _ _ => true
  | .pdCommit v _ => v.getLsbD 0
  | .domainMove => true
  | .pdAck n _ | .pdAckBudgetExceeded n => decide (n < 20)
  | .clusterRecovery n _ => decide (n < 20)
  | .chipSleepReq | .chipWake => true
  | .supplyWarning n | .supplyReset n | .supplyRecoveryCrossing n => decide (n < 3)
  | .supplyRecovered _ | .dvfsDecision | .vselAck | .vselTimeout | .energyRefill => true
  | .thermalSample l => l.length == 16
  | .syncTick | .syncLoad _ _ => true
  | .wsBypass c => !(decide (1 ≤ c.toNat ∧ c.toNat ≤ 5) || decide (8 ≤ c.toNat ∧ c.toNat ≤ 10))
  | .wsSafe | .wsPreload _ | .wsClamp | .wsExtest _ | .wsIntest _ | .msMbist _ | .msLbist _ | .msFuse _ => true
  | .ieee1687Access i n op => op.wf && match i with
    | .tsense => decide (n < 16)
    | .vsense => decide (n < 3)
    | .biststat => decide (n < 20)
    | .fuseread => decide (n < 16)
    | .pllobs | .bridle => true
  | .mailboxCommandDone => true

end Sys2Proof
end

