-- ==== Sys2Proof/Certificates/Slice0/Obligations.lean ====
section
/-! DEFINITION. The statements about DXQ4. -/

open Sys2Proof Sys2Proof.Machine

/-! The block and its queue of commands. -/

/-- A step takes the command at the front of the queue and is its effect on the state with the queue's rest. -/
def Obligations.StepRunsFrontCommand : Prop :=
  ∀ (c : Instr) (rest : List Instr) (s : State), step { s with pending := c :: rest } = exec c { s with pending := rest }

/-- No command stops the block, and none touches the commands that wait behind it; with no command waiting the block idles (log entry 1; DESIGN CHOICE). -/
def Obligations.CommandsAnswerAndLeaveTheQueue : Prop :=
  (∀ (c : Instr) (s : State), ∃ t, exec c s = .next t) ∧
  (∀ (c : Instr) (s t : State), exec c s = .next t → t.pending = s.pending) ∧
  (∀ s : State, s.pending = [] → step s = .next s)

/-- What reset leaves where the register tables give a value (R296, R297, R380, R396, R402, R404, R408, R410, R412, R413, R57, R263): queues off with rings of 16 slots and generation G4, entries `FREE` with `DLIM` 8 and no deadline, plane sets `EMPTY`, the table banks idle, the link `DOWN`, the energy and watchdog settings. -/
def Obligations.ResetHoldsTheTableValues : Prop :=
  (∀ q, q < 32 → State.reset.qEn q = false ∧ State.reset.getF (fQ_ORDER q) = 4 ∧ State.reset.getF (fQ_GEN q) = 2 ∧
    State.reset.getF (fQ_HEAD q) = 0 ∧ State.reset.getF (fQ_TAIL q) = 0 ∧ State.reset.getF (fQ_DONE q) = 0 ∧
    State.reset.getF (fQ_STATE q) = 0 ∧ State.reset.getF (fQ_HALT q) = 0) ∧
  (∀ n, n < 8192 → State.reset.eState n = 0 ∧ State.reset.getF (fE_DLIM n) = 8 ∧
    State.reset.getF (fE_DEADLINE n) = 2 ^ 64 - 1 ∧ State.reset.getF (fE_LEASE n) = 0) ∧
  (∀ n, n < 16 → State.reset.getF (fPS_STATE n) = 0 ∧ State.reset.getF (fPS_EPOCH n) = 0) ∧
  State.reset.reg rGCTL = 0 ∧ State.reset.getF fLEASE_TMO = 1000 ∧ State.reset.getF fBUDGET = 36000 ∧
  State.reset.getF fHEADROOM = 36000 ∧ State.reset.getF fWINDOW = 100 ∧ State.reset.getF fSTEP_MS = 50 ∧
  State.reset.getF fFHB_MS = 10 ∧ State.reset.getF fSCRUB_EN = 1 ∧ State.reset.getF fSCRUB_RATE = 4 ∧
  State.reset.getF fSHADOW_ST = 0 ∧ State.reset.getF fCF_EPOCH = 0 ∧ State.reset.getF fGC_NOW = 0 ∧
  State.reset.getF fLSTATE = 0 ∧ State.reset.flag fEV_EN = false ∧ State.reset.getF fEV_ORDER = 8

/-- The state after reset is in canonical form and of the right shape, with nothing in flight. -/
def Obligations.ResetStateIsCanonical : Prop :=
  Canonical State.reset ∧ Shaped State.reset ∧ State.reset.flights = []

/-- Every step keeps every store of the state in its one canonical form. -/
def Obligations.StepsKeepStoresCanonical : Prop :=
  ∀ s t : State, Canonical s → step s = .next t → Canonical t

/-- Every step keeps the number of queues, mask sets, clusters, groups, lines, channels, domains and sensors. -/
def Obligations.StepsKeepTheShape : Prop :=
  ∀ s t : State, Shaped s → step s = .next t → Shaped t

/-- R307: at most 4 steps and NORMALs are in flight at once, over all queues. -/
def Obligations.AtMostFourStepsInFlight : Prop :=
  ∀ s t : State, s.flights.length ≤ 4 → step s = .next t → t.flights.length ≤ 4

/-- R504: a fuse that is programmed stays programmed, whatever the command. R505: outside RAW and TEST no command changes a fuse other than those of the life-cycle flags (bits 14 to 0): neither grade nor disabled clusters change. -/
def Obligations.FusesOnlyGainBits : Prop :=
  (∀ s t : State, step s = .next t → s.fuses ||| t.fuses = t.fuses) ∧
  (∀ s t : State, s.lc ≠ 0 → s.lc ≠ 1 → step s = .next t → t.fuses >>> 15 = s.fuses >>> 15)

/-- R21: CRC-32C in reflected form over the record with its `SEAL` bytes taken as zero, its check value, and the seal stored little-endian at bytes 60 to 63: a sealed record passes its check. -/
def Obligations.SealIsCrc32cOfTheRecord : Prop :=
  (∀ c : BitVec 32, crcBit c = if c.getLsbD 0 then (c >>> 1) ^^^ 0x82F63B78 else c >>> 1) ∧
  (∀ (c : BitVec 32) (b : Byte),
    crcByte c b = crcBit (crcBit (crcBit (crcBit (crcBit (crcBit (crcBit (crcBit (c ^^^ b.setWidth 32))))))))) ∧
  (∀ l : List Byte, crc32c l = l.foldl crcByte 0xFFFFFFFF ^^^ 0xFFFFFFFF) ∧
  crc32c [0x31, 0x32, 0x33, 0x34, 0x35, 0x36, 0x37, 0x38, 0x39] = 0xE3069283 ∧
  (∀ rec : List Byte, 64 ≤ rec.length → sealOf rec = crc32c (rec.take 60 ++ [0, 0, 0, 0] ++ rec.drop 64) ∧
    sealRecord rec = rec.take 60 ++ leBytes 4 (sealOf rec).toNat ++ rec.drop 64 ∧ sealOk (sealRecord rec) = true)

/-- R34: a group contribution is placed as the floor of `G·2^f / 2^(A − 150)`, for every G, f and A; the two examples of the rule. -/
def Obligations.ContributionsAreFlooredOnTheGrid : Prop :=
  (∀ g f a : Int, placeOnGrid g f a = ⌊(g : ℚ) * 2 ^ f / 2 ^ (a - 150)⌋) ∧
  placeOnGrid 3 (-127) 25 = 0 ∧ placeOnGrid (-3) (-127) 25 = -1

/-- R39: the L1 norm of a group of a hidden row, rounded upward to at most eight significant bits. -/
def Obligations.GroupNormsRoundUpToEightBits : Prop :=
  (∀ n, n < 256 → normUp n = n) ∧
  (∀ n, 256 ≤ n →
    let k := bitLength n - 8
    let m := (n + 2 ^ k - 1) / 2 ^ k
    (2 ^ (bitLength n - 1) ≤ n ∧ n < 2 ^ bitLength n) ∧
    (m ≠ 256 → m < 256 ∧ normUp n = m * 2 ^ k) ∧ (m = 256 → normUp n = 128 * 2 ^ (k + 1))) ∧
  ∀ (f : HFmt) (hd : Nat) (bytes : Array Byte) (g : Nat), g < 2 * hd →
    (hiddenRow f hd bytes).norms.getD g 0 =
      normUp ((List.range 32).foldl (fun s i => s + ((hiddenRow f hd bytes).b.getD (32 * g + i) 0).natAbs) 0)

/-- R206: over a kept set whose weights are exact, the draft token is accepted exactly when it is kept and `(2a + 1)·E_q·Σ_K ≤ 2^25·E_p·Σ_q`; a token outside the kept set is always rejected. -/
def Obligations.DraftTokenAcceptedByExactTest : Prop :=
  ∀ (d : SpecIn) (ref : Nat → Bool) (ks : List KTok), (∀ k ∈ ks, k.dn = k.up) →
    (specTest d ref ks = .accept ↔ ∃ k, ks.find? (fun k => k.tok.id == d.x) = some k ∧
      (2 * d.aAcc + 1) * entryOf d.entries d.x * sumNat (ks.map (·.up)) ≤ 2 ^ 25 * k.up * d.sigma)

/-- R289: an extended record is the base record of 32 bytes and 12 pairs of an id and a logprob, pair i at 32 + 8i; a `POISON` or `EMPTY` record holds 0xFFFF_FFFF and −inf in each. -/
def Obligations.ExtendedRecordAddsTwelvePairs : Prop :=
  ∀ (f : Flight) (o : RowOut) (pos flags gc : Nat),
    (ringRecord f o pos flags gc false).length = 32 ∧ (ringRecord f o pos flags gc true).length = 128 ∧
    (ringRecord f o pos flags gc true).take 32 = ringRecord f o pos flags gc false ∧
    (∀ i, i < 12 →
      ((ringRecord f o pos flags gc true).drop (32 + 8 * i)).take 8 =
        leBytes 4 ((topPairs o.top).getD i (0, 0)).1 ++ leBytes 4 ((topPairs o.top).getD i (0, 0)).2.toNat) ∧
    (∀ (r : RowState) i, i < 12 → (topPairs (poisonOut f r).top).getD i (0, 0) = (0xFFFFFFFF, fNinf) ∧
      (topPairs (emptyOut f r).top).getD i (0, 0) = (0xFFFFFFFF, fNinf))

/-! Register commands (chapters 12, 14 to 18). A request is served while the link is up and its sender's epoch is not an old one (`Heard s snd t`); the effect is on `t`. -/

/-- R376, R380, R467: every command that accesses the control space (`controlMessage`: register writes and reads, doorbells, leases, mailbox commands and the rest of the family) has no effect when it comes from a sender with an old epoch, and is answered `STALE_EPOCH`; while the link is down it has none and no response (log entry 29; DESIGN CHOICE). LC_REQ_WRITE behaves the same, and only brings the level of `tst_rma_en`. -/
def Obligations.UnheardRequestsHaveNoEffect : Prop :=
  (∀ (s : State) (c : Instr) (snd : Sender) (op n : Nat), c.wf = true → controlMessage c = some (snd, op, n) →
    (s.served = false → exec c s = .next s) ∧
    (s.served = true → s.flag fTK_EPOCHS = true → snd.aepoch ≠ 0 →
      2 ^ 15 ≤ (2 ^ 16 + snd.aepoch.toNat - (s.epochOf snd.agent.toNat).toNat) % 2 ^ 16 →
      exec c s = .next ((s.answer rSTALE []).replied snd op n))) ∧
  (∀ (s : State) (snd : Sender) (v : Word64) (rma : Bool),
    let t : State := { s with test := { s.test with rmaEn := rma } }
    (s.served = false → exec (.lcReqWrite v rma snd) s = .next t) ∧
    (s.served = true → s.flag fTK_EPOCHS = true → snd.aepoch ≠ 0 →
      2 ^ 15 ≤ (2 ^ 16 + snd.aepoch.toNat - (s.epochOf snd.agent.toNat).toNat) % 2 ^ 16 →
      exec (.lcReqWrite v rma snd) s = .next ((t.answer rSTALE []).replied snd opWR 1)))

/-- R405: a write of `GCTL` that sets `EMU3` with `COMPAT` clear is answered with an error and changes nothing; every other write is taken at once. What is in flight keeps what it bound, and what launches later binds the new values. Frame: no other register, no memory and no other state changes, but for the point that COLLECTED gait holds, and for what it forgets of a `HOT` spell (R464). -/
def Obligations.GctlWriteTakesAllButEmu3Alone : Prop :=
  ∀ (s t : State) (v : Word64) (snd : Sender), Heard s snd t →
    (v.getLsbD 3 = true → v.getLsbD 2 = false → exec (.gctlWrite v snd) s = .next ((t.answer rACCESS []).replied snd opWR 1)) ∧
    (¬(v.getLsbD 3 = true ∧ v.getLsbD 2 = false) → ∃ u, exec (.gctlWrite v snd) s = .next u ∧
      u.resp = some ⟨rOK, []⟩ ∧
      u.flag fGAIT = v.getLsbD 0 ∧ u.flag fSTRICT = v.getLsbD 1 ∧ u.flag fCOMPAT = v.getLsbD 2 ∧
      u.flag fEMU3 = v.getLsbD 3 ∧ u.flag fKEYWIN = v.getLsbD 4 ∧
      (∀ q d h, (u.bindItem q d h).collected = v.getLsbD 0 ∧ (u.bindItem q d h).strict = v.getLsbD 1 ∧
        (u.bindItem q d h).compat = v.getLsbD 2 ∧ (u.bindItem q d h).emu = v.getLsbD 3) ∧
      (∀ off, off ≠ rGCTL → u.reg off = t.reg off) ∧
      u = { t with regs := u.regs, resp := u.resp, respHdr := u.respHdr, link := u.link
                   power := { t.power with ptHeld := u.power.ptHeld, hotDue := t.power.hotDue && !v.getLsbD 0 } })

/-- R298, R300: a doorbell that fits the ring of an enabled G4 queue moves `TAIL` to the value written; one that does not fit halts a queue that runs with `OVERRUN` and leaves `TAIL`; while the queue is off, `TAIL` is stored. A PUT and an atomic act the same way; TACK-2 has no SWAP (R369). -/
def Obligations.DoorbellMovesTailOrOverruns : Prop :=
  ∀ (s t : State) (q : Nat) (op : Access) (snd : Sender) (v : Nat) (words : List Word64), Heard s snd t → q < 32 →
    (((op = .put (BitVec.ofNat 64 v) ∨ op = .block [BitVec.ofNat 64 v]) ∧ words = []) ∨
     ((∃ x y, op = .atom 1 x y ∧ v = t.getF (fQ_TAIL q) + x.toNat) ∧ words = [BitVec.ofNat 64 (t.getF (fQ_TAIL q))]) ∨
     ((∃ x, op = .atom 2 x (BitVec.ofNat 64 v) ∧ x.toNat = t.getF (fQ_TAIL q)) ∧ words = [BitVec.ofNat 64 (t.getF (fQ_TAIL q))]) ∨
     ((t.getF fTK_MODE ≠ 0 ∧ ∃ y, op = .atom 3 (BitVec.ofNat 64 v) y) ∧ words = [BitVec.ofNat 64 (t.getF (fQ_TAIL q))])) →
    (t.qEn q = false → ∃ u, exec (.doorbell q op snd) s = .next u ∧ u.resp = some ⟨rOK, words⟩ ∧
      u.getF (fQ_TAIL q) = v % 2 ^ 32 ∧ (∀ off, off ≠ rQ q + 0x18 → u.reg off = t.reg off) ∧
      u = { t with regs := u.regs, resp := u.resp, respHdr := u.respHdr, link := u.link }) ∧
    (t.qEn q = true → t.getF (fQ_GEN q) = 2 → (2 ^ 32 + v % 2 ^ 32 - t.getF (fQ_HEAD q)) % 2 ^ 32 ≤ 2 ^ t.getF (fQ_ORDER q) →
      ∃ u, exec (.doorbell q op snd) s = .next u ∧ u.resp = some ⟨rOK, words⟩ ∧
      u.getF (fQ_TAIL q) = v % 2 ^ 32 ∧
      (∀ off, off ≠ rQ q + 0x18 → off ≠ rQ q + 0x20 → u.reg off = t.reg off) ∧
      u = { t with regs := u.regs, resp := u.resp, respHdr := u.respHdr, link := u.link }) ∧
    (t.qEn q = true → t.halted q = false → 2 ^ t.getF (fQ_ORDER q) < (2 ^ 32 + v % 2 ^ 32 - t.getF (fQ_HEAD q)) % 2 ^ 32 →
      ∃ u, exec (.doorbell q op snd) s = .next u ∧ u.resp = some ⟨rOK, words⟩ ∧
      u.getF (fQ_TAIL q) = t.getF (fQ_TAIL q) ∧ u.getF (fQ_HEAD q) = t.getF (fQ_HEAD q) ∧
      u.getF (fQ_STATE q) = 4 ∧ u.getF (fQ_HALT q) = 4 ∧ u.fuses = t.fuses ∧ u.flights = t.flights ∧ u.power = t.power)

/-- R297, R299: enabling a queue clears `HEAD`, `DONE`, `TAIL` and the halt code; disabling one takes effect in `IDLE` or `HALTED` with nothing in flight, and is an error otherwise; `RESUME` and `SKIP` restart a halted queue, with `HEAD` where it is or past what halted. R305: a G2 or G3 queue whose `TAIL` is no multiple of 4 halts again with `FORM` as it is restarted. No other queue's registers change. -/
def Obligations.QueueAttributeWritesStartStopRestart : Prop :=
  ∀ (s t : State) (q : Nat) (v : Word64) (snd : Sender), Heard s snd t → q < 32 →
    (v.getLsbD 0 = true → t.qEn q = false → t.mayEnable = true → getBits v 1 2 ≤ 2 →
      ∃ u, exec (.queueEnable q v snd) s = .next u ∧ u.resp = some ⟨rOK, []⟩ ∧ u.qEn q = true ∧ u.getF (fQ_HEAD q) = 0 ∧
      u.getF (fQ_TAIL q) = 0 ∧ u.getF (fQ_DONE q) = 0 ∧ u.getF (fQ_HALT q) = 0 ∧ u.getF (fQ_STATE q) = 1 ∧
      u.getF (fQ_GEN q) = getBits v 1 2 ∧ u.getF (fQ_PRIO q) = getBits v 3 2 ∧
      (∀ off, off < rQ q ∨ rQ q + 0x40 ≤ off → u.reg off = t.reg off) ∧ u.mem = t.mem ∧ u.flights = t.flights) ∧
    (v.getLsbD 0 = false → t.qEn q = true → (t.halted q = true ∨ t.getF (fQ_STATE q) = 1) → t.inflightOf q = [] →
      ∃ u, exec (.queueDisable q v snd) s = .next u ∧ u.resp = some ⟨rOK, []⟩ ∧ u.qEn q = false ∧ u.getF (fQ_STATE q) = 0 ∧
      u.getF (fQ_HEAD q) = t.getF (fQ_HEAD q) ∧ u.getF (fQ_TAIL q) = t.getF (fQ_TAIL q) ∧
      (∀ off, off ≠ rQ q + 0x20 → u.reg off = t.reg off) ∧ u.mem = t.mem ∧ u.flights = t.flights) ∧
    (v.getLsbD 0 = false → t.qEn q = true → (t.halted q = false ∧ t.getF (fQ_STATE q) ≠ 1) ∨ t.inflightOf q ≠ [] →
      exec (.queueDisable q v snd) s = .next ((t.answer rACCESS []).replied snd opWR 1)) ∧
    (v.getLsbD 0 = true → v.getLsbD 16 = true → v.getLsbD 17 = false → t.qEn q = true → t.halted q = true → t.tailBad q = false →
      ∃ u, exec (.resume q v snd) s = .next u ∧ u.resp = some ⟨rOK, []⟩ ∧ u.qEn q = true ∧ u.halted q = false ∧
      u.getF (fQ_HEAD q) = t.getF (fQ_HEAD q) ∧ u.getF (fQ_TAIL q) = t.getF (fQ_TAIL q) ∧
      (∀ off, off < rQ q ∨ rQ q + 0x40 ≤ off → u.reg off = t.reg off) ∧ u.mem = t.mem ∧ u.flights = t.flights) ∧
    (v.getLsbD 0 = true → v.getLsbD 17 = true → t.qEn q = true → t.halted q = true → t.tailBad q = false →
      ∃ u, exec (.skip q v snd) s = .next u ∧ u.resp = some ⟨rOK, []⟩ ∧ u.qEn q = true ∧ u.halted q = false ∧
      u.getF (fQ_HEAD q) = (t.getF (fQ_HEAD q) + (t.qx q).haltLen) % 2 ^ 32 ∧ u.getF (fQ_TAIL q) = t.getF (fQ_TAIL q) ∧
      (∀ off, off < rQ q ∨ rQ q + 0x40 ≤ off → u.reg off = t.reg off) ∧ u.mem = t.mem ∧ u.flights = t.flights) ∧
    (v.getLsbD 0 = true → v.getLsbD 16 = true → t.qEn q = true → t.halted q = true → t.getF (fQ_GEN q) ≠ 2 → t.getF (fQ_TAIL q) % 4 ≠ 0 →
      ∃ u, exec (if v.getLsbD 17 then .skip q v snd else .resume q v snd) s = .next u ∧ u.resp = some ⟨rOK, []⟩ ∧ u.qEn q = true ∧
      u.halted q = true ∧ u.getF (fQ_HALT q) = 3 ∧ u.getF (fQ_TAIL q) = t.getF (fQ_TAIL q) ∧ u.mem = t.mem ∧ u.flights = t.flights)

/-- R262: a read of an entry's word gives its live contents, and the holder of the lease reads its shadow, but for word 14, `LEASE`, which it reads live (log entry 71; DEDUCED); a write of a word other than `LEASE` is taken into the holder's shadow, and every other one is an error that changes nothing. While PD_HAL is not `ON` both are errors (log entry 144; DEDUCED). -/
def Obligations.EntryAccessesGoThroughTheLease : Prop :=
  ∀ (s t : State) (slot w : Nat) (v : Word64) (snd : Sender), Heard s snd t → t.power.asleep = false → slot < 8192 → w < 16 →
    (t.halOn = false → exec (.rcFieldRead (rENT slot w) 1 snd) s = .next ((t.answer rACCESS [0]).replied snd opRD 1) ∧
      exec (.halterEntryWrite slot w (.put v) snd) s = .next ((t.answer rACCESS []).replied snd opWR 1)) ∧
    (t.halOn = true → exec (.rcFieldRead (rENT slot w) 1 snd) s = .next ((t.answer rOK [
      if w ≠ 14 ∧ t.holder slot snd = true then ((t.shadow slot).getD []).getD w 0 else t.word slot w]).replied snd opRD 1)) ∧
    (t.halOn = true → w ≠ 14 → t.holder slot snd = true → ∃ u, exec (.halterEntryWrite slot w (.put v) snd) s = .next u ∧
      u.resp = some ⟨rOK, []⟩ ∧ u = { t with shadows := u.shadows, resp := u.resp, respHdr := u.respHdr, link := u.link } ∧
      (∀ sh, t.shadow slot = some sh → u.shadow slot = some (sh.set w (blend (rwsMask w) (sh.getD w 0) v))) ∧
      (∀ n, n ≠ slot → u.shadow n = t.shadow n)) ∧
    (t.halOn = true → w ≠ 14 → t.holder slot snd = false → exec (.halterEntryWrite slot w (.put v) snd) s = .next ((t.answer rACCESS []).replied snd opWR 1))

/-- R266 to R269, R271: a CAS of a fit value on a free `LEASE` word acquires the lease, with the live words as its shadow, and returns 0; the holder's PUT of 0 ends the lease and applies or refuses the edit, its `DISCARD` drops it; a lease that has timed out is broken. An applied edit leaves the RWS fields of the shadow and the RO fields as they were live (`EPRIO` follows `PRIO` where R276 says so); in an entry that it leaves `FREE` the RO fields return to reset; a move to `STOPPING` has `REASON` `CANCEL`. An edit that changes a fixed field outside a release to `FREE` or from `FREE` to `ADMIT`, or asks for a change of `STATE` that R268 does not permit, changes no word and posts `LEASE_REJECT`. While PD_HAL is not `ON` the accesses are errors, and no lease times out (log entry 144; DEDUCED). -/
def Obligations.LeasesAreTakenReleasedAndBroken : Prop :=
  ∀ (s t : State) (slot : Nat) (new : Word64) (snd : Sender), Heard s snd t → t.power.asleep = false → slot < 8192 →
    (t.halOn = true → t.held slot = false → getBits new 63 1 = 1 → getBits new 48 15 = 0 → getBits new 0 16 = snd.agent.toNat →
      getBits new 16 16 = (t.epochOf snd.agent.toNat).toNat → t.shadows.length < 64 →
      ∃ u, exec (.leaseAcquire slot 0 new snd) s = .next u ∧ u.resp = some ⟨rOK, [0]⟩ ∧ u.word slot 14 = new ∧
      u.held slot = true ∧ u.shadows = t.shadows ++ [(slot, (List.range 16).map fun w => t.word slot w)] ∧
      u = { t with regs := u.regs, shadows := u.shadows, resp := u.resp, respHdr := u.respHdr, link := u.link }) ∧
    (t.halOn = true → t.held slot = true →
      exec (.leaseAcquire slot 0 new snd) s = .next ((t.answer rOK [t.word slot 14]).replied snd opATOM 1)) ∧
    (t.halOn = true → t.holder slot snd = true →
      exec (.leaseRelease slot snd) s = .next (((t.applyEdit slot).answer rOK []).replied snd opWR 1) ∧
      (t.applyEdit slot).held slot = false ∧ (t.applyEdit slot).shadow slot = none) ∧
    (∀ sh, t.shadow slot = some sh →
      let u := t.applyEdit slot
      let live := t.eState slot
      let want := getBits (sh.getD 0 0) 0 3
      let refused := (∃ w, w < 14 ∧ sh.getD w 0 &&& fixedMask w ≠ t.word slot w &&& fixedMask w) ∧ want ≠ 0 ∧ ¬(live = 0 ∧ want = 1) ∨
        want ≠ live ∧ (live, want) ∉ [(0, 1), (2, 3), (3, 2), (2, 4), (3, 4), (5, 0), (6, 0), (7, 0)]
      let edited (w : Nat) := blend (rwsMask w) (t.word slot w) (sh.getD w 0)
      let freed (w : Nat) := blend (rwsMask w) (State.reset.word slot w) (sh.getD w 0)
      let level (x : Word64) := setBits x 10 2 (getBits x 8 2)
      (refused → (∀ w, w < 16 → w ≠ 14 → u.word slot w = t.word slot w) ∧ u.flag (fERR_CLASS 9) = true ∧ u.reqs = t.reqs ∧
        u.rets = t.rets ∧ u.stops = t.stops ∧ u.flights = t.flights) ∧
      (¬refused → want ≠ 0 → (want = 4 → live = 4) → (∀ w, 0 < w → w < 16 → w ≠ 14 → u.word slot w = edited w) ∧
        u.word slot 0 = (if t.getF fAGE_Q = 0 ∨ want = 1 then level (edited 0) else edited 0) ∧
        u = { t with regs := u.regs, shadows := u.shadows, bad := u.bad }) ∧
      (¬refused → want = 0 → (∀ w, 0 < w → w < 16 → w ≠ 14 → u.word slot w = freed w) ∧
        u.word slot 0 = (if t.getF fAGE_Q = 0 then level (freed 0) else freed 0) ∧ u.req slot = noReq ∧
        (∀ r ∈ u.rets, r.slot ≠ slot) ∧ u.mem = t.mem ∧ u.flights = t.flights) ∧
      (¬refused → want = 4 → live ≠ 4 → (∀ r ∈ u.rets, r.slot ≠ slot) ∧ u.flights = t.flights ∧
        (∀ w, 0 < w → w < 14 → u.word slot w = edited w) ∧
        (t.getF (fE_INFL slot) ≠ 0 → u.eState slot = 4 ∧ u.getF (fE_REASON slot) = 5) ∧
        (t.getF (fE_INFL slot) = 0 → (t.req slot).ending = none → u.eState slot = 5 ∧ u.getF (fE_REASON slot) = 5))) ∧
    (t.halOn = true → t.holder slot snd = true → ∃ u, exec (.leaseDiscard slot snd) s = .next u ∧ u.resp = some ⟨rOK, []⟩ ∧
      u.held slot = false ∧ u.shadow slot = none ∧ (∀ w, w ≠ 14 → u.word slot w = t.word slot w) ∧
      u = { t with regs := u.regs, shadows := u.shadows, resp := u.resp, respHdr := u.respHdr, link := u.link }) ∧
    (t.holder slot snd = false ∨ t.halOn = false → exec (.leaseRelease slot snd) s = .next ((t.answer rACCESS []).replied snd opWR 1) ∧
      exec (.leaseDiscard slot snd) s = .next ((t.answer rACCESS []).replied snd opWR 1)) ∧
    (t.halOn = false → exec (.leaseAcquire slot 0 new snd) s = .next ((t.answer rACCESS []).replied snd opATOM 1) ∧
      (s.halOn = false → exec (.leaseTimeout slot) s = .next s)) ∧
    (s.halOn = true → s.held slot = true → ∃ u, exec (.leaseTimeout slot) s = .next u ∧ u.held slot = false ∧ u.shadow slot = none ∧
      (∀ w, w ≠ 14 → u.word slot w = s.word slot w) ∧ u.fuses = s.fuses ∧ u.flights = s.flights)

/-- R296, R399: a tenant's key word is written while no live entry names the tenant, and a read of it gives 0. Keys 240 to 255 are reached with `KEYWIN` set. R292 to R295: a block of a tenant with a key is chained by SipHash over the previous value and its tokens, and its directory group is asked for; without a key it is skipped and counted; with 256 lookups outstanding it waits, and is skipped once 4,096 wait; it waits while PD_HAL is not `ON` (log entry 144; DEDUCED). Its tokens are those that host memory holds (log entry 150; DESIGN CHOICE). When the group of the oldest lookup is there, the lookup reports a hit, with the directory's value, if the group holds its chain value; a full ring drops the report. -/
def Obligations.TenantKeysChainAndReportBlocks : Prop :=
  (∀ (s t : State) (n : Nat) (hi : Bool) (v : Word64) (snd : Sender), Heard s snd t → n < 256 → (n < 240 ∨ t.flag fKEYWIN = true) →
    ((t.liveSlots.all fun k => t.getF (fE_TENANT k) != n) = true →
      ∃ u, exec (.tenantKeyWrite n hi v snd) s = .next u ∧ u.resp = some ⟨rOK, []⟩ ∧
      u.reg (kYKEY n (if hi then 1 else 0)) = v ∧ (∀ k, k ≠ kYKEY n (if hi then 1 else 0) → u.reg k = t.reg k) ∧
      u = { t with regs := u.regs, bad := u.bad, resp := u.resp, respHdr := u.respHdr, link := u.link }) ∧
    ((t.liveSlots.any fun k => t.getF (fE_TENANT k) == n) = true →
      exec (.tenantKeyWrite n hi v snd) s = .next ((t.answer rACCESS []).replied snd opWR 1)) ∧
    exec (.rcFieldRead (0x3100 + 16 * n + (if hi then 8 else 0)) 1 snd) s = .next ((t.answer rOK [0]).replied snd opRD 1)) ∧
  (∀ (s : State) (b : YBlock), s.nextBlock = some b →
    let t := s.getF (fE_TENANT b.slot)
    let h := if b.handle then b.hash
      else (siphash (s.reg (kYKEY t 0)) (s.reg (kYKEY t 1)) (leBytes 8 (s.getF (fE_YHASH b.slot)) ++ s.blockBytes b)).toNat
    (s.halOn = false ∨ 256 ≤ s.yLooks.length ∧ s.yBlocks.length < 4096 → exec .yarrowBlock s = .next s) ∧
    (s.halOn = true → 256 ≤ s.yLooks.length → 4096 ≤ s.yBlocks.length → ∃ u, exec .yarrowBlock s = .next u ∧ u.yLooks = s.yLooks ∧
      u.yBlocks = s.yBlocks.erase b ∧ u.getF fYR_SKIP = Nat.min (2 ^ fYR_SKIP.width - 1) (s.getF fYR_SKIP + 1) ∧
      u.fuses = s.fuses ∧ u.flights = s.flights) ∧
    (s.halOn = true → s.yLooks.length < 256 → b.handle = true ∨ s.keySet t = true → s.portUp (s.portOf (s.yGroup h)) = true →
      ∃ u, exec .yarrowBlock s = .next u ∧ u.yLooks = s.yLooks ++ [{ b with hash := h }] ∧ u.yBlocks = s.yBlocks.erase b ∧
      (∃ o ∈ u.out, o.port = s.portOf (s.yGroup h) ∧ o.addr = s.yGroup h ∧ o.len = 64 ∧ o.why = .yarrow b.slot b.block) ∧
      (b.handle = false → u.getF (fE_YHASH b.slot) = h) ∧
      u = { s with regs := u.regs, yLooks := u.yLooks, yBlocks := u.yBlocks, out := u.out, link := u.link }) ∧
    (s.halOn = true → s.yLooks.length < 256 → b.handle = false → s.keySet t = false → ∃ u, exec .yarrowBlock s = .next u ∧ u.yLooks = s.yLooks ∧
      u.yBlocks = s.yBlocks.erase b ∧ u.getF fYR_SKIP = Nat.min (2 ^ fYR_SKIP.width - 1) (s.getF fYR_SKIP + 1) ∧
      u.fuses = s.fuses ∧ u.flights = s.flights)) ∧
  ∀ (s : State) (b : YBlock) (r : List YBlock) (o : Outstanding), s.yLooks = b :: r →
    s.out.find? (fun o => o.why == .yarrow b.slot b.block && o.wait.isNone) = some o →
    (s.granules o.addr 64).all (fun g => g.2 == .good) = true →
    let key (i : Nat) := leNat (s.memAt (o.addr + 16 * i) 8)
    let room := s.getF fYR_PROD - s.getF fYR_CONS ≠ 2 ^ s.getF fYR_ORDER
    let at' := s.getF fYR_BASE + 32 * (s.getF fYR_PROD % 2 ^ s.getF fYR_ORDER)
    (∀ i, i < 4 → b.hash ≠ 0 → key i = b.hash → (∀ k, k < i → key k ≠ b.hash) →
      (∀ m ∈ s.messages none true at' 32, s.portUp m.1 = true) → room → ∃ u, exec .yarrowReport s = .next u ∧ u.yLooks = r ∧
      u.getF fYR_PROD = (s.getF fYR_PROD + 1) % 2 ^ fYR_PROD.width ∧ SameMemBut s u at' 32 ∧
      (∀ k, k < 32 → Store.read memDefault u.mem (at' + k) =
        (leBytes 4 b.key ++ leBytes 2 b.slot ++ leBytes 1 (if b.handle then 3 else 1) ++ leBytes 1 b.yblk ++ leBytes 4 b.block ++
          leBytes 4 b.first ++ leBytes 8 b.hash ++ s.memAt (o.addr + 16 * i + 8) 8).getD k 0)) ∧
    ((b.hash = 0 ∨ ∀ i, i < 4 → key i ≠ b.hash) → s.flag fYMISS = false → ∃ u, exec .yarrowReport s = .next u ∧ u.yLooks = r ∧
      u = { s with yLooks := r, out := u.out, link := u.link }) ∧
    (¬room → (∃ i, i < 4 ∧ b.hash ≠ 0 ∧ key i = b.hash) →
      ∃ u, exec .yarrowReport s = .next u ∧ u.mem = s.mem ∧ u.getF fYR_PROD = s.getF fYR_PROD ∧
      u.getF fYR_DROP = Nat.min (2 ^ fYR_DROP.width - 1) (s.getF fYR_DROP + 1))

/-- R154, R155: a window write goes to the shadow bank while it is open, and is refused and counted otherwise; `GO` begins a commit then, and is an error otherwise. While PD_SEL is not `ON` all are errors, and the window counts none (log entry 144; DEDUCED). -/
def Obligations.TableWindowAndCommitGoReachTheShadow : Prop :=
  ∀ (s t : State) (off : Nat) (v : Word64) (snd : Sender), Heard s snd t → t.power.asleep = false →
    (t.selOn = true → off % 8 = 0 → windowWord off = true → t.shadowOpen = true →
      ∃ u, exec (.tableWindowWrite off v snd) s = .next u ∧ u.resp = some ⟨rOK, []⟩ ∧
      u.bankWord t.shadowBank off = v ∧ (∀ b o, b < 2 → o < 2 ^ 16 → (b, o) ≠ (t.shadowBank, off) → u.bankWord b o = t.bankWord b o) ∧
      u = { t with banks := u.banks, resp := u.resp, respHdr := u.respHdr, link := u.link }) ∧
    (t.selOn = true → off % 8 = 0 → windowWord off = true → t.shadowOpen = false →
      ∃ u, exec (.tableWindowWrite off v snd) s = .next u ∧ u.resp = some ⟨rACCESS, []⟩ ∧ u.banks = t.banks ∧
      u.getF fWREJ = Nat.min (2 ^ 16 - 1) (t.getF fWREJ + 1)) ∧
    (t.selOn = true → v.getLsbD 0 = true → t.shadowOpen = true →
      ∃ u, exec (.commitGo v snd) s = .next u ∧ u.resp = some ⟨rOK, []⟩ ∧ u.getF fSHADOW_ST = 1 ∧ u.tabQueue = none ∧
      u.tabPassed = false ∧ (∀ o, o ≠ rCF → u.reg o = t.reg o) ∧
      u = { t with regs := u.regs, resp := u.resp, respHdr := u.respHdr, link := u.link, tabQueue := u.tabQueue, tabPassed := u.tabPassed }) ∧
    (t.selOn = true → v.getLsbD 0 = true → t.shadowOpen = false → exec (.commitGo v snd) s = .next ((t.answer rACCESS []).replied snd opWR 1)) ∧
    (t.selOn = false → off % 8 = 0 → windowWord off = true → exec (.tableWindowWrite off v snd) s = .next ((t.answer rACCESS []).replied snd opWR 1) ∧
      exec (.commitGo v snd) s = .next ((t.answer rACCESS []).replied snd opWR 1))

/-- R57, R58: a write of 0 to the `STATE` of a set that is built, unused and not to be rebuilt releases it and keeps its `EPOCH`; a write of 2 to an `EMPTY` set adopts it when its registers pass the checks, and leaves it `EMPTY` otherwise. -/
def Obligations.PlaneSetReleaseAndAdopt : Prop :=
  ∀ (s t : State) (n : Nat) (v : Word64) (snd : Sender), Heard s snd t → n < 16 →
    (getBits v 0 3 = 0 → 2 ≤ t.getF (fPS_STATE n) → t.users n = 0 → t.repackPending n = false →
      ∃ u, exec (.psRelease n v snd) s = .next u ∧ u.resp = some ⟨rOK, []⟩ ∧ u.getF (fPS_STATE n) = 0 ∧
      u.getF (fPS_EPOCH n) = t.getF (fPS_EPOCH n) ∧ (∀ m, m < 16 → m ≠ n → u.getF (fPS_STATE m) = t.getF (fPS_STATE m)) ∧
      u.mem = t.mem ∧ u.flights = t.flights) ∧
    (getBits v 0 3 = 2 → t.getF (fPS_STATE n) = 0 →
      ∃ u, exec (.psAdopt n v snd) s = .next u ∧ u.resp = some ⟨rOK, []⟩ ∧
      u.getF (fPS_STATE n) = (if t.adoptFail n = none then 2 else 0) ∧
      u.getF (fPS_REF n) = getBits v 12 4 ∧ u.flag (fPS_PAIRED n) = v.getLsbD 9 ∧ u.flag (fPS_FROZEN n) = v.getLsbD 8 ∧
      (∀ m, m < 16 → m ≠ n → u.getF (fPS_STATE m) = t.getF (fPS_STATE m)) ∧ u.fuses = t.fuses ∧ u.flights = t.flights)

/-- R393, R395: a write of `GO` with slot 0 in use and every used slot naming a requester takes a snapshot for the four groups; a group applies its own whole, and follows the gait with the table at slot 0. -/
def Obligations.ArbiterCommitsAndModesByGroup : Prop :=
  ∀ (s t : State) (v : Word64) (snd : Sender) (g : Nat), Heard s snd t → Shaped s → g < 4 →
    (v.getLsbD 0 = true → t.power.asleep = false → t.getF (fSLOT_LEN 0) ≠ 0 →
      (((List.range 64).takeWhile fun n => t.getF (fSLOT_LEN n) != 0).all fun n => decide (t.getF (fSLOT_REQ n) ≤ 8)) = true →
      ∃ u, exec (.arbCommit v snd) s = .next u ∧ u.resp = some ⟨rOK, []⟩ ∧ u.getF fARB_PEND = 15 ∧
      u.getF fARB_CNUM = (t.getF fARB_CNUM + 1) % 2 ^ 16 ∧
      u.arb.pend = List.replicate 4 (some (u.getF fARB_CNUM, t.arbShadows)) ∧ u.arb.eff = t.arb.eff ∧
      (∀ o, o ≠ rARB_COMMIT → u.reg o = t.reg o) ∧ u = { t with regs := u.regs, resp := u.resp, respHdr := u.respHdr, link := u.link, arb := u.arb }) ∧
    (∀ c w, s.arb.pend.getD g none = some (c, w) → c < 2 ^ 16 →
      ∃ u, exec (.arbSnapshotApply g) s = .next u ∧ u.arb.eff.getD g [] = w ∧ u.arb.pend.getD g none = none ∧
      u.getF (fARB_CEPOCH g) = c ∧ (∀ k, k ≠ g → u.arb.eff.getD k [] = s.arb.eff.getD k [] ∧ u.arb.pend.getD k none = s.arb.pend.getD k none) ∧
      (∀ o, o ≠ rARB_COMMIT → o ≠ rARB_STAT g → u.reg o = s.reg o) ∧ u = { s with regs := u.regs, arb := u.arb }) ∧
    (s.getF (fARB_MODE g) ≠ s.getF fGAIT →
      ∃ u, exec (.arbModeChange g) s = .next u ∧ u.getF (fARB_MODE g) = s.getF fGAIT ∧ u.getF (fARB_CUR g) = 0 ∧
      (∀ o, o ≠ rARB_STAT g → u.reg o = s.reg o) ∧ u = { s with regs := u.regs })

/-- R382: a write of `TK_HMWIN` with the interleave in range, a window inside the address space and the event ring inside it takes effect while nothing is in flight, building or running; while a step is in flight it is an error. R400, R414: a write that sets `EN` of a ring inside the host window starts it empty, with its size; one outside the window is an error. -/
def Obligations.HostWindowAndEventRingSettings : Prop :=
  (∀ (s t : State) (v : Word64) (snd : Sender), Heard s snd t →
    (getBits v 30 4 ≤ 8 → getBits v 0 18 + getBits v 18 12 ≤ 2 ^ 18 → t.flights = [] → t.repack = none → t.repackQ = [] →
      t.maskJobs = [] → (∀ q, q < 32 → t.getF (fQ_STATE q) ≠ 2 ∧ t.getF (fQ_STATE q) ≠ 3) →
      (t.flag fEV_EN = true → ringInside (t.getF fEV_BASE) (t.getF fEV_ORDER) (getBits v 0 18) (getBits v 18 12) = true) →
      ∃ u, exec (.tkHmwinWrite v snd) s = .next u ∧ u.resp = some ⟨rOK, []⟩ ∧ u.getF fBASE_G = getBits v 0 18 ∧
      u.getF fSIZE_G = getBits v 18 12 ∧ u.getF fILV = getBits v 30 4 ∧ (∀ o, o ≠ rTK_HMWIN → u.reg o = t.reg o) ∧
      u = { t with regs := u.regs, resp := u.resp, respHdr := u.respHdr, link := u.link }) ∧
    (t.flights ≠ [] → exec (.tkHmwinWrite v snd) s = .next ((t.answer rACCESS []).replied snd opWR 1))) ∧
  (∀ (s t : State) (v : Word64) (snd : Sender), Heard s snd t → v.getLsbD 8 = true → 6 ≤ getBits v 0 5 → getBits v 0 5 ≤ 20 →
    t.flag fEV_EN = false →
    (ringInside (t.getF fEV_BASE) (getBits v 0 5) (t.getF fBASE_G) (t.getF fSIZE_G) = true →
      ∃ u, exec (.eventRingEnable v snd) s = .next u ∧ u.resp = some ⟨rOK, []⟩ ∧ u.flag fEV_EN = true ∧
      u.getF fEV_ORDER = getBits v 0 5 ∧ u.getF fEV_HEAD = 0 ∧ u.power.bistBad = [] ∧
      (t.power.bistBad = [] → u.getF fEV_TAIL = 0 ∧ u.ev.issued = 0 ∧ u.mem = t.mem) ∧ u.fuses = t.fuses ∧ u.flights = t.flights ∧ u.queues = t.queues) ∧
    (ringInside (t.getF fEV_BASE) (getBits v 0 5) (t.getF fBASE_G) (t.getF fSIZE_G) = false →
      exec (.eventRingEnable v snd) s = .next ((t.answer rACCESS []).replied snd opWR 1)))

/-- R409: a write of `BAR_CTL` while a BARRIER waits, and of `LOCKSTEP_CTL` or `DIGEST_PEER` while a step or NORMAL is in flight, is an error that changes nothing; otherwise it is taken. A write of `GC_NOW` changes no register. R184: a PUT of `XM_CNT` sets the count of merge deliveries, and a peer's FADD raises it modulo 2^64 and returns the old word; nothing else changes. R435, R436: the peer's digest words arrive in `DG_LO` and `DG_HI` and count as delivered; a comparison that waits for them ends when they are equal, is a mismatch at once when only the row words differ, and is bisected when the tile words do; a write of 1 to `MISMATCH` clears it. -/
def Obligations.SyncRegisterWritesAndDigestDelivery : Prop :=
  (∀ (s t : State) (v : Word64) (snd : Sender), Heard s snd t →
    (getBits v 1 2 ≤ 2 → t.barrierWaits = true → exec (.syncRegisterWrite 0x10 v snd) s = .next ((t.answer rACCESS []).replied snd opWR 1)) ∧
    (getBits v 1 2 ≤ 2 → t.barrierWaits = false → ∃ u, exec (.syncRegisterWrite 0x10 v snd) s = .next u ∧
      u.resp = some ⟨rOK, []⟩ ∧ u.flag fBAR_EN = v.getLsbD 0 ∧ u.getF fBAR_ROLE = getBits v 1 2 ∧ u.getF fREL_DLY = getBits v 4 12 ∧
      (∀ o, o ≠ 0x5010 → u.reg o = t.reg o) ∧ u = { t with regs := u.regs, resp := u.resp, respHdr := u.respHdr, link := u.link }) ∧
    (t.flights ≠ [] → exec (.syncRegisterWrite 0x20 v snd) s = .next ((t.answer rACCESS []).replied snd opWR 1) ∧
      exec (.syncRegisterWrite 0x30 v snd) s = .next ((t.answer rACCESS []).replied snd opWR 1)) ∧
    (t.flights = [] → ∃ u, exec (.syncRegisterWrite 0x20 v snd) s = .next u ∧ u.resp = some ⟨rOK, []⟩ ∧
      u.flag fLS_EN = v.getLsbD 0 ∧ u.flag fLS_SIDE = v.getLsbD 1 ∧ (∀ o, o ≠ 0x5020 → u.reg o = t.reg o) ∧
      u = { t with regs := u.regs, resp := u.resp, respHdr := u.respHdr, link := u.link }) ∧
    (t.flights = [] → ∃ u, exec (.syncRegisterWrite 0x30 v snd) s = .next u ∧ u.resp = some ⟨rOK, []⟩ ∧
      u.getF fDIGEST_PEER = getBits v 0 48 ∧ (∀ o, o ≠ 0x5030 → u.reg o = t.reg o) ∧
      u = { t with regs := u.regs, resp := u.resp, respHdr := u.respHdr, link := u.link }) ∧
    (∀ off, off ∈ [0, 0x08, 0x18] → ∃ u, exec (.syncRegisterWrite off v snd) s = .next u ∧ u.resp = some ⟨rOK, []⟩ ∧ ∀ o, u.reg o = t.reg o) ∧
    (v.getLsbD 0 = true → ∃ u, exec (.syncRegisterWrite 0x28 v snd) s = .next u ∧ u.resp = some ⟨rOK, []⟩ ∧ u.mismatch = false ∧
      u.mem = t.mem ∧ u.flights = t.flights) ∧
    (∃ u, exec (.syncRegisterWrite 0x40 v snd) s = .next u ∧ u.resp = some ⟨rOK, []⟩ ∧ u.reg 0x5040 = v ∧
      (∀ o, o ≠ 0x5040 → u.reg o = t.reg o)) ∧
    (t.sync.cmpLn = none → ∃ u, exec (.syncRegisterWrite 0x48 v snd) s = .next u ∧ u.resp = some ⟨rOK, []⟩ ∧ u.reg 0x5048 = v ∧
      u.sync.delivered = true ∧ ∀ o, o ≠ 0x5048 → u.reg o = t.reg o) ∧
    (∃ u, exec (.syncRegisterWrite 0x38 v snd) s = .next u ∧ u.resp = some ⟨rOK, []⟩ ∧ u.reg 0x5038 = v ∧
      (∀ o, o ≠ 0x5038 → u.reg o = t.reg o) ∧ u = { t with regs := u.regs, resp := u.resp, respHdr := u.respHdr, link := u.link }) ∧
    (∀ y, ∃ u, exec (.registerWrite 0x5038 (.atom 1 v y) snd) s = .next u ∧ u.resp = some ⟨rOK, [t.reg 0x5038]⟩ ∧
      u.getF fXM_CNT = (t.getF fXM_CNT + v.toNat) % 2 ^ 64 ∧ (∀ o, o ≠ 0x5038 → u.reg o = t.reg o) ∧
      u = { t with regs := u.regs, resp := u.resp, respHdr := u.respHdr, link := u.link })) ∧
  (∀ (s t : State) (lo hi v : Word64) (snd : Sender), Heard s snd t →
    (t.sync.cmpLn = none → ∃ u, exec (.digestDelivery lo hi snd) s = .next u ∧ u.resp = some ⟨rOK, []⟩ ∧
      u.reg 0x5040 = lo ∧ u.reg 0x5048 = hi ∧ u.sync.delivered = true ∧
      (∀ o, o ≠ 0x5040 → o ≠ 0x5048 → u.reg o = t.reg o) ∧
      u = { t with regs := u.regs, resp := u.resp, respHdr := u.respHdr, link := u.link, sync := { t.sync with delivered := true } }) ∧
    (∀ ln f, t.sync.cmpLn = some ln → t.flight ln = some f → t.sync.bisect = none → lo.toNat = f.digLo → hi.toNat = f.digHi →
      ∃ u, exec (.digestDelivery lo hi snd) s = .next u ∧ u.resp = some ⟨rOK, []⟩ ∧ u.reg 0x5040 = lo ∧ u.reg 0x5048 = hi ∧
      u.sync.cmpLn = none ∧ u.sync.delivered = false ∧ Becomes t u ln { f with digested := true } ∧
      ∀ o, o ≠ 0x5040 → o ≠ 0x5048 → u.reg o = t.reg o) ∧
    (∀ ln f, t.sync.cmpLn = some ln → t.flight ln = some f → t.sync.bisect = none → lo.toNat = f.digLo → hi.toNat ≠ f.digHi →
      ∃ u, exec (.digestDelivery lo hi snd) s = .next u ∧ u.resp = some ⟨rOK, []⟩ ∧ u.mismatch = true ∧
      u.getF fFIRST_TILE = 0xFFFFFF ∧ u.sync.cmpLn = none) ∧
    (∀ ln f, t.sync.cmpLn = some ln → t.flight ln = some f → t.sync.bisect = none → lo.toNat ≠ f.digLo → 1 < t.sync.log.length →
      ∃ u, exec (.digestDelivery lo hi snd) s = .next u ∧ u.resp = some ⟨rOK, []⟩ ∧ u.sync.bisect = some (0, t.sync.log.length, 1) ∧
      u.sync.cmpLn = some ln ∧ u.flights = t.flights) ∧
    (∀ ln f, t.sync.cmpLn = some ln → t.flight ln = some f → t.sync.bisect = none → lo.toNat ≠ f.digLo → t.sync.log.length ≤ 1 →
      ∃ u, exec (.digestDelivery lo hi snd) s = .next u ∧ u.resp = some ⟨rOK, []⟩ ∧ u.mismatch = true ∧ u.getF fFIRST_TILE = 0 ∧
      u.sync.cmpLn = none) ∧
    (t.sync.bisect ≠ none → ∃ u, exec (.digestDelivery lo hi snd) s = .next u ∧ u.resp = some ⟨rOK, []⟩ ∧ u.reg 0x5040 = lo ∧
      u.reg 0x5048 = hi ∧ u.sync.delivered = true ∧ u.sync.bisect = t.sync.bisect ∧ u.flights = t.flights) ∧
    (v.getLsbD 0 = true → ∃ u, exec (.mismatchClear v snd) s = .next u ∧ u.resp = some ⟨rOK, []⟩ ∧ u.mismatch = false ∧
      u.mem = t.mem ∧ u.fuses = t.fuses ∧ u.flights = t.flights))

/-- R417: the Paddock window, open with `WEN` set, writes a word of a slice that lies in no set being built and in no working set; it reads a word of no set being built that nothing but a build or a write of the window has left (`padKnown`); a damaged word answers `ERR_DATA`, and is not counted there (log entry 30; DEDUCED). Any other word reads as a free value (log entry 19; DESIGN CHOICE). With the window shut both are refused. -/
def Obligations.PaddockWindowWritesAndReads : Prop :=
  ∀ (s t : State) (off : Nat) (v : Word64) (snd : Sender), Heard s snd t → t.power.asleep = false → off % 8 = 0 → off < 2 ^ 24 →
    let b := t.padByte (0x1000000 + off)
    let key := padKey t.padCluster b
    let known := (∀ n, t.regionAt t.padCluster b = some n → t.getF (fPS_STATE n) ≠ 1) ∧ t.padKnown key = true
    (t.padShut = false → t.flag fPDW_WEN = true → (∀ n, t.regionAt t.padCluster b = some n → t.getF (fPS_STATE n) ≠ 1) →
      (t.regionAt t.padCluster b = none → t.worksIn t.padCluster = false) →
      ∃ u, exec (.paddockWindowAccess off (some v) snd) s = .next u ∧ u.resp = some ⟨rOK, []⟩ ∧
      (∀ k, k < key ∨ key + 8 ≤ k → Store.read padDefault u.pad k = Store.read padDefault t.pad k) ∧
      (∀ i, i < 8 → Store.read padDefault u.pad (key + i) = (leBytes 8 v.toNat).getD i 0) ∧
      u.padKnown key = true ∧
      u = { t with pad := u.pad, padFresh := u.padFresh, padDirty := u.padDirty, bad := u.bad, resp := u.resp, respHdr := u.respHdr, link := u.link }) ∧
    (t.padShut = false → (∀ n, t.regionAt t.padCluster b = some n → t.getF (fPS_STATE n) = 1 →
      exec (.paddockWindowAccess off (some v) snd) s = .next ((t.answer rACCESS []).replied snd opWR 1))) ∧
    (t.padShut = false → t.padBad t.padCluster b 8 = false → known →
      exec (.paddockWindowAccess off none snd) s =
        .next ((t.answer rOK [BitVec.ofNat 64 (leNat (t.padAt t.padCluster b 8))]).replied snd opRD 1)) ∧
    (t.padShut = false → t.padBad t.padCluster b 8 = true →
      exec (.paddockWindowAccess off none snd) s = .next ((t.answer rDATA [0]).replied snd opRD 1)) ∧
    (t.padShut = false → t.padBad t.padCluster b 8 = false → ¬known →
      ∃ w, exec (.paddockWindowAccess off none snd) s = .next ((t.bump.answer rOK [w]).replied snd opRD 1)) ∧
    (t.padShut = true → exec (.paddockWindowAccess off (some v) snd) s = .next ((t.answer rACCESS []).replied snd opWR 1) ∧
      exec (.paddockWindowAccess off none snd) s = .next ((t.answer rACCESS [0]).replied snd opRD 1))

/-- R411: a write of `GO` that the rule refuses is an error that applies nothing; otherwise the moves of the copied targets are queued, those out of `ON` first, and `BUSY` shows them. A change between `RET` and `OFF` takes effect at once (log entry 12; DESIGN CHOICE). -/
def Obligations.DomainCommitAppliesAllTargetsOrNone : Prop :=
  ∀ (s t : State) (v : Word64) (snd : Sender), Heard s snd t → t.power.asleep = false → v.getLsbD 0 = true →
    ((t.flag fPD_BUSY = true ∨ t.getF (fPD_TARGET 18) ≠ 0 ∨ t.getF (fPD_TARGET 19) ≠ 0 ∨
      (∃ n, n < 20 ∧ t.fusedOff n = true ∧ t.getF (fPD_TARGET n) ≠ 2) ∨
      ((t.getF (fPD_TARGET 16) ≠ 0 ∨ t.getF (fPD_TARGET 17) ≠ 0) ∧ ((∃ q, q < 32 ∧ t.qEn q = true) ∨ t.flights ≠ [])) ∨
      (∀ n, n < 16 → t.fusedOff n = false → t.getF (fPD_TARGET n) ≠ 0)) ↔
      exec (.pdCommit v snd) s = .next ((t.answer rACCESS []).replied snd opWR 1)) ∧
    (t.commitBad t.targets = false → ∃ u, exec (.pdCommit v snd) s = .next u ∧ u.resp = some ⟨rOK, []⟩ ∧
      (let off := (List.range 20).filter fun n => t.pstate n == 0 && t.getF (fPD_TARGET n) != 0
       let on := (List.range 20).filter fun n => t.pstate n != 0 && t.getF (fPD_TARGET n) == 0
       u.power.moves = t.power.moves ++ (off.map fun n => (n, t.getF (fPD_TARGET n))) ++ on.map (fun n => (n, 0)) ∧
       (u.flag fPD_BUSY = true ↔ off ≠ [] ∨ on ≠ [])) ∧
      (∀ n, n < 20 → u.pstate n = (if t.pstate n = 1 ∧ t.getF (fPD_TARGET n) = 2 then 2
        else if t.pstate n = 2 ∧ t.getF (fPD_TARGET n) = 1 ∧ t.fusedOff n = false then 1 else t.pstate n)) ∧
      ((∀ n, n < 20 → t.pstate n = 0) → ∀ o, o ≠ rPD_CTL → u.reg o = t.reg o) ∧ u.mem = t.mem ∧ u.flights = t.flights)

/-- R401: a write of a plain register takes its RW fields and leaves its RO fields; a value out of a field's range is an error; a misaligned offset is an error at every offset, before the region is looked at (log entry 31; DEDUCED), and so is a write or read of several words across 4 KiB (R368). Words are written, and read, in ascending order (R370); an atomic returns the old word. R9: a read of a word with RC fields returns them and clears them, and nothing else of the state changes. R412: settings of the power region are stored; a warning level at or below its reset level, and a reset level at or above its warning level, are errors; its word 0 is that of `PD_COMMIT`. -/
def Obligations.RegisterWritesAndReadsByField : Prop :=
  (∀ (s t : State) (off : Nat) (v : Word64) (snd : Sender), Heard s snd t → PlainRegister off →
    (t.rangeOk off v = true → ∃ u, exec (.registerWrite off (.put v) snd) s = .next u ∧ u.resp = some ⟨rOK, []⟩ ∧
      u.reg off = t.merged off v ∧ (∀ o, o ≠ off → u.reg o = t.reg o) ∧
      u = { t with regs := u.regs, resp := u.resp, respHdr := u.respHdr, link := u.link }) ∧
    (t.rangeOk off v = false → exec (.registerWrite off (.put v) snd) s = .next ((t.answer rACCESS []).replied snd opWR 1)) ∧
    (∃ u, exec (.rcFieldRead off 1 snd) s = .next u ∧ u.resp = some ⟨rOK, [t.shown off &&& readMask off]⟩ ∧
      (∀ f, f ∈ regFields off → f.acc = .rc → (regFields off).all (fun g => g == f || decide (g.lsb + g.width ≤ f.lsb) || decide (f.lsb + f.width ≤ g.lsb)) = true →
        getBits (u.reg off) f.lsb f.width = 0) ∧
      (∀ o, o ≠ off → u.reg o = t.reg o) ∧ u.mem = t.mem ∧ u.flights = t.flights)) ∧
  (∀ (s t : State) (off : Nat) (vs : List Word64) (snd : Sender), Heard s snd t →
    (off % 8 = 0 → off % 4096 + 8 * vs.length ≤ 4096 → exec (.registerWrite off (.block vs) snd) s =
      .next (((t.writeWords off snd vs).1.answer (t.writeWords off snd vs).2 []).replied snd opWR vs.length)) ∧
    (off % 8 ≠ 0 ∨ 4096 < off % 4096 + 8 * vs.length →
      exec (.registerWrite off (.block vs) snd) s = .next ((t.answer rALIGN []).replied snd opWR vs.length)) ∧
    (∀ v, t.writeWords off snd (v :: vs) = (((t.writeWord off v snd none).1.writeWords (off + 8) snd vs).1,
      if (t.writeWord off v snd none).2 = rOK then ((t.writeWord off v snd none).1.writeWords (off + 8) snd vs).2 else (t.writeWord off v snd none).2)) ∧
    (∀ n, 1 ≤ n → n ≤ 32 → off % 8 = 0 → off % 4096 + 8 * n ≤ 4096 → exec (.rcFieldRead off n snd) s =
      .next (((t.readWords off snd n).1.answer (t.readWords off snd n).2.1 (t.readWords off snd n).2.2).replied snd opRD n))) ∧
  (∀ (s t : State) (v : Word64) (snd : Sender), Heard s snd t →
    (∃ u, exec (.registerWrite 0x7010 (.put v) snd) s = .next u ∧ u.resp = some ⟨rOK, []⟩ ∧ u.getF fEV_HEAD = getBits v 0 32 ∧
      (∀ o, o ≠ 0x7010 → u.reg o = t.reg o) ∧ u = { t with regs := u.regs, resp := u.resp, respHdr := u.respHdr, link := u.link }) ∧
    (∀ y, ∃ u, exec (.registerWrite 0x7010 (.atom 1 v y) snd) s = .next u ∧
      u.resp = some ⟨rOK, [BitVec.ofNat 64 (t.getF fEV_HEAD)]⟩ ∧ u.getF fEV_HEAD = (t.getF fEV_HEAD + getBits v 0 32) % 2 ^ 32 ∧
      (∀ o, o ≠ 0x7010 → u.reg o = t.reg o)) ∧
    (1 ≤ getBits v 8 8 → ∃ u, exec (.registerWrite 0x7050 (.put v) snd) s = .next u ∧ u.resp = some ⟨rOK, []⟩ ∧
      u.flag fSCRUB_EN = v.getLsbD 0 ∧ u.getF fSCRUB_RATE = getBits v 8 8 ∧ u.getF fPASSES = t.getF fPASSES ∧
      u = { t with regs := u.regs, resp := u.resp, respHdr := u.respHdr, link := u.link }) ∧
    (getBits v 8 8 = 0 → exec (.registerWrite 0x7050 (.put v) snd) s = .next ((t.answer rACCESS []).replied snd opWR 1)) ∧
    (exec (.registerWrite 0x7014 (.put v) snd) s = .next ((t.answer rALIGN []).replied snd opWR 1))) ∧
  (∀ (s t : State) (snd : Sender), Heard s snd t →
    (exec (.rcFieldRead 0x7030 1 snd) s =
      .next (((t.setReg 0x7030 0).answer rOK [BitVec.ofNat 64 (t.getF fCE_SRAM + 2 ^ 32 * t.getF fCE_SEAL)]).replied snd opRD 1)) ∧
    (exec (.rcFieldRead 0x7010 1 snd) s = .next ((t.answer rOK [BitVec.ofNat 64 (t.getF fEV_HEAD)]).replied snd opRD 1)) ∧
    (exec (.rcFieldRead 0x7034 1 snd) s = .next ((t.answer rALIGN [0]).replied snd opRD 1))) ∧
  (∀ (s t : State) (v : Word64) (snd : Sender), Heard s snd t →
    (∀ off, off < 0x280 → off % 8 = 0 → inRegion (0x6000 + off) = true → off ∉ [0, 0x110, 0x118] → t.rangeOk (0x6000 + off) v = true →
      ∃ u, exec (.powerRegisterWrite off v snd) s = .next u ∧ u.resp = some ⟨rOK, []⟩ ∧ u.reg (0x6000 + off) = t.merged (0x6000 + off) v ∧
      (∀ o, o ≠ 0x6000 + off → u.reg o = t.reg o) ∧ u = { t with regs := u.regs, resp := u.resp, respHdr := u.respHdr, link := u.link }) ∧
    exec (.powerRegisterWrite 0 v snd) s = exec (.pdCommit v snd) s ∧
    (∃ u, exec (.powerRegisterWrite 0x100 v snd) s = .next u ∧ u.resp = some ⟨rOK, []⟩ ∧ u.getF fBUDGET = getBits v 0 32 ∧
      (∀ o, o ≠ 0x6100 → u.reg o = t.reg o) ∧ u = { t with regs := u.regs, resp := u.resp, respHdr := u.respHdr, link := u.link }) ∧
    ((∀ k, k < 3 → 85 ≤ getBits v (8 * k) 7 ∧ getBits v (8 * k) 7 ≤ 97) →
      ((∀ k, k < 3 → t.getF (fV_RESET k) < getBits v (8 * k) 7) →
        ∃ u, exec (.powerRegisterWrite 0x110 v snd) s = .next u ∧ u.resp = some ⟨rOK, []⟩ ∧
        (∀ k, k < 3 → u.getF (fV_WARN k) = getBits v (8 * k) 7) ∧ u = { t with regs := u.regs, resp := u.resp, respHdr := u.respHdr, link := u.link }) ∧
      ((∃ k, k < 3 ∧ getBits v (8 * k) 7 ≤ t.getF (fV_RESET k)) →
        exec (.powerRegisterWrite 0x110 v snd) s = .next ((t.answer rACCESS []).replied snd opWR 1))) ∧
    (t.rangeOk 0x6118 v = true → (∀ k, k < 3 → getBits v (8 * k) 7 < t.getF (fV_WARN k)) →
      ∃ u, exec (.powerRegisterWrite 0x118 v snd) s = .next u ∧ u.resp = some ⟨rOK, []⟩ ∧
      (∀ k, k < 3 → u.getF (fV_RESET k) = getBits v (8 * k) 7) ∧ u = { t with regs := u.regs, resp := u.resp, respHdr := u.respHdr, link := u.link }) ∧
    ((∃ k, k < 3 ∧ t.getF (fV_WARN k) ≤ getBits v (8 * k) 7) →
      exec (.powerRegisterWrite 0x118 v snd) s = .next ((t.answer rACCESS []).replied snd opWR 1)))

/-- R406, R469, R504: a permitted `LC_REQ` with no queue enabled sets `LC_BUSY`; otherwise it is an error that changes nothing; PROD goes to RMA only while `tst_rma_en` is high. When the fuses are programmed the part is in the new state, with the wipe under way, and host memory is as before (log entry 38; DESIGN CHOICE). -/
def Obligations.LifeCycleRequestProgramsItsFlag : Prop :=
  ∀ (s x : State) (v : Word64) (rma : Bool) (snd : Sender), Heard s snd x → getBits v 4 3 ≤ 5 → x.power.asleep = false →
    let t : State := { x with test := { x.test with rmaEn := rma } }
    (t.lcPermits (getBits v 4 3) = true ↔ (t.lc, getBits v 4 3) ∈ [(1, 2), (1, 3), (2, 3), (1, 5), (2, 5), (3, 5), (4, 5)] ∨
      t.lc = 3 ∧ getBits v 4 3 = 4 ∧ rma = true) ∧
    (t.flag fLC_BUSY = false → (∀ q, q < 32 → t.qEn q = false) → t.lcPermits (getBits v 4 3) = true →
      ∃ u, exec (.lcReqWrite v rma snd) s = .next u ∧ u.resp = some ⟨rOK, []⟩ ∧ u.flag fLC_BUSY = true ∧ u.fuses = t.fuses ∧
      (∀ o, o ≠ rLIFECYCLE → u.reg o = t.reg o) ∧ u = { t with regs := u.regs, resp := u.resp, respHdr := u.respHdr, link := u.link }) ∧
    (t.flag fLC_BUSY = true ∨ (∃ q, q < 32 ∧ t.qEn q = true) ∨ t.lcPermits (getBits v 4 3) = false →
      exec (.lcReqWrite v rma snd) s = .next ((t.answer rACCESS []).replied snd opWR 1)) ∧
    (s.flag fLC_BUSY = true → 1 ≤ s.getF fLC_REQ → s.getF fLC_REQ ≤ 5 → s.lc ≤ s.getF fLC_REQ →
      ∃ u, exec .lcFuseDone s = .next u ∧ u.lc = s.getF fLC_REQ ∧ u.flag fWIPE_ACTIVE = true ∧ u.getF fWIPE_CAUSE = 2 ∧
      u.flag fLC_BUSY = true ∧ u.getF fLSTATE = 0 ∧ u.flights = [] ∧ u.mem = s.mem ∧ u.getF fGC_NOW = s.getF fGC_NOW)

/-- R407, R482: each mailbox command writes `FR_MBOX_ARG` and `FR_MBOX_CMD`; while Farrier is up with room in its queue and no command in hand, the command is `PENDING` under its `SEQ`, and CLUSTER_TEST takes its cluster out of service at once; while one is pending, both writes are errors. Farrier finishes the command in hand, and its `SEQ` stands beside `MSTAT`: PING answers `DONE` with the firmware version and the depth of the exception queue; CTX_SAVE writes its image (R440), CTX_RESTORE restores one that passes its checks (R441); TELEM_CFG sets the telemetry; FAULT_LOG writes the log; CLUSTER_TEST with every outcome good brings its cluster back into service, and keeps it out otherwise; LEASE_BREAK ends a lease that is held; QUEUE_ABANDON turns off a queue that waits with nothing in flight. -/
def Obligations.MailboxCommandsArePendingThenDone : Prop :=
  (∀ (s t : State) (arg : Word64) (seq : BitVec 8) (snd : Sender), Heard s snd t → t.power.asleep = false →
    ∀ (c : Instr) (cmd : Nat), (c, cmd) ∈ [(Instr.ping arg seq snd, 1), (.ctxSave arg seq snd, 2), (.ctxRestore arg seq snd, 3),
        (.telemCfg arg seq snd, 4), (.faultLog arg seq snd, 5), (.leaseBreak arg seq snd, 7), (.queueAbandon arg seq snd, 8),
        (.dbgSnapshot arg seq snd, 0x20), (.dbgTrace arg seq snd, 0x21)] ∨ (cmd = 6 ∧ ∃ m l r, c = .clusterTest arg seq m l r snd) →
      (t.getF fMSTAT ≠ 1 → t.flag fFARRIER_UP = true → t.exqDepth < 224 →
        ∃ u, exec c s = .next u ∧ u.resp = some ⟨rOK, []⟩ ∧ u.getF fMSTAT = 1 ∧ u.getF fRSP_SEQ = seq.toNat ∧
        u.reg rMBOX_ARG = arg ∧ u.getF fMB_CMD = cmd ∧ u.far.mailbox = some (cmd, seq.toNat) ∧
        (cmd ≠ 6 → (∀ o, o ≠ rMBOX_ARG → o ≠ rMBOX_CMD → o ≠ rMBOX_RSP → u.reg o = t.reg o) ∧ u.mem = t.mem ∧ u.flights = t.flights) ∧
        (cmd = 6 → t.mboxAllowed 6 = true → t.testable (arg.toNat % 16) = true → u.serving (arg.toNat % 16) = false)) ∧
      (t.getF fMSTAT = 1 → exec c s =
        .next ((((t.answer rACCESS []).replied snd opWR 1).answer rACCESS []).replied snd opWR 1))) ∧
  (∀ (s : State) (cmd seq : Nat), seq < 256 → s.flag fFARRIER_UP = true → s.far.mailbox = some (cmd, seq) →
    ∃ u, exec .mailboxCommandDone s = .next u ∧ u.far.mailbox = none ∧ u.getF fRSP_SEQ = seq ∧ u.getF fRETRY_US = 0 ∧
    (s.lc = 0 ∨ s.lc = 5 → u.getF fMSTAT = 5 ∧ u.mem = s.mem ∧ u.flights = s.flights) ∧
    (s.lc ≠ 0 → s.lc ≠ 5 →
      let arg := s.reg rMBOX_ARG
      let a := getBits arg 0 48
      (cmd = 1 → u.getF fMSTAT = 2 ∧ u.getF fRESULT = (Config.fwVer.toNat + 2 ^ 16 * s.exqDepth) % 2 ^ 32 ∧
        (∀ o, o ≠ rMBOX_RSP → u.reg o = s.reg o) ∧ u.mem = s.mem ∧ u.flights = s.flights) ∧
      (cmd = 2 → s.saveDenied = true → a % 4096 = 0 → u.getF fMSTAT = 5 ∧ u.mem = s.mem) ∧
      (cmd = 2 → s.saveDenied = false → a % 4096 = 0 →
        let img := s.image (getBits arg 48 1 == 1)
        (∀ m ∈ s.messages none true a img.length, s.portUp m.1 = true) → u.getF fMSTAT = 2 ∧
        u.getF fRESULT = ceilDiv img.length 4096 % 2 ^ 32 ∧ SameMemBut s u a img.length ∧
        ∀ i, i < img.length → Store.read memDefault u.mem (a + i) = img.getD i 0) ∧
      (cmd = 3 → s.restoreDenied = true → u.getF fMSTAT = 5 ∧ u.mem = s.mem) ∧
      (cmd = 3 → s.restoreDenied = false → a % 4096 = 0 → s.readImage a = none → u.getF fMSTAT = 4 ∧ u.mem = s.mem) ∧
      (∀ ver ep l, cmd = 3 → s.restoreDenied = false → a % 4096 = 0 → s.readImage a = some (ver, ep, l) → u.getF fMSTAT = 2 ∧
        u.getF fRESULT = (s.restore ver ep l).2 % 2 ^ 32 ∧ u.pad = (s.restore ver ep l).1.pad ∧ u.masks = (s.restore ver ep l).1.masks ∧
        u.banks = (s.restore ver ep l).1.banks ∧ u.reqs = (s.restore ver ep l).1.reqs ∧ u.stops = (s.restore ver ep l).1.stops ∧
        ∀ o, o ≠ rMBOX_RSP → u.reg o = (s.restore ver ep l).1.reg o) ∧
      (cmd = 4 → a = 0 → u.getF fMSTAT = 2 ∧ u.far.telem = none ∧ u.mem = s.mem) ∧
      (cmd = 4 → a ≠ 0 → a % 256 = 0 → getBits arg 48 16 ≠ 0 → u.getF fMSTAT = 2 ∧ u.far.telem = some (a, getBits arg 48 16) ∧
        u.far.num = 0 ∧ u.mem = s.mem) ∧
      (cmd = 5 → a % 4096 = 0 → s.far.log ≠ [] → (∀ m ∈ s.messages none true a s.faultLogBytes.length, s.portUp m.1 = true) →
        u.getF fMSTAT = 2 ∧ u.getF fRESULT = s.far.log.length % 2 ^ 32 ∧ SameMemBut s u a s.faultLogBytes.length ∧
        ∀ i, i < s.faultLogBytes.length → Store.read memDefault u.mem (a + i) = s.faultLogBytes.getD i 0) ∧
      (∀ x : TestRun, cmd = 6 → s.far.ready = some x → x.cl < 16 → x.result < 4 → u.getF fMSTAT = 2 ∧ u.getF fRESULT = x.result ∧
        (x.result = 0 → x.cl ∉ s.power.heldOut → u.serving x.cl = true) ∧
        (x.result ≠ 0 → x.cl ∈ u.power.heldOut ∧ u.flag (fERR_CLASS 17) = true)) ∧
      (cmd = 7 → s.held (getBits arg 0 13) = true → u.getF fMSTAT = 2 ∧ u.getF fRESULT = 0 ∧ u.held (getBits arg 0 13) = false) ∧
      (cmd = 8 → s.inflightOf (getBits arg 0 5) = [] → s.getF (fQ_STATE (getBits arg 0 5)) = 3 →
        u.getF fMSTAT = 2 ∧ u.getF fRESULT = 0 ∧ u.qEn (getBits arg 0 5) = false ∧ u.mem = s.mem) ∧
      (cmd = 0x20 ∨ cmd = 0x21 → u.getF fMSTAT = (if s.lc = 3 then 5 else if a % 4096 = 0 then 2 else 4) ∧ u.fuses = s.fuses)))

/-! Decode and the queue instructions (chapters 12, 13, 16). -/

/-- R298, R360: a fetch of a running queue arrives with the slots that host memory holds at the next place of its ring, to the end of its 256 bytes and of the queue's fill; a poisoned one with nothing left to decode halts the queue with `FETCH_POISON` at HEAD. R305, R306, R308: a G2 or G3 descriptor stands decoded with its four slots; a step descriptor in COLLECTED gait, or one that asks for what its generation lacks, halts the queue with `GEN_FEATURE`. R331, R333: DECODE of a queue instruction whose form is right puts it at HEAD; an unknown opcode halts the queue with `UNKNOWN`, and HEAD stays. A step whose checks pass stands decoded whole, from its STEP to its END. The aligned 256 bytes of a fetch (log entry 106), the bytes of NOP and HALT descriptors and what G2 lacks (log entry 62) are DEDUCED; `HFMT` of a descriptor is log entry 51's (DESIGN CHOICE). -/
def Obligations.SlotsAreFetchedAndDecoded : Prop :=
  ((∀ (s : State) (q : Nat), Shaped s → s.leadOn q = true → (s.qx q).pois = false → (s.qx q).slots.length < s.qFill q →
    let i := (s.getF (fQ_HEAD q) + (s.qx q).slots.length) % 2 ^ s.getF (fQ_ORDER q)
    let room := Nat.min (16 - i % 16) (s.qFill q - (s.qx q).slots.length)
    let bad := (s.granules (s.getF (fQ_BASE q) + 256 * (i / 16)) 256).any fun g => g.2 != .good
    (bad = false → ∃ u, exec (.slotFetchArrival q) s = .next u ∧
      (u.qx q).slots = (s.qx q).slots ++ (List.range room).map (fun k => BitVec.ofNat 128 (leNat (s.memAt (s.getF (fQ_BASE q) + 16 * (i + k)) 16))) ∧
      (∀ o, o ≠ rQ q + 0x20 → u.reg o = s.reg o) ∧ u = { s with regs := u.regs, queues := u.queues, out := u.out, link := u.link }) ∧
    (bad = true → (s.qx q).slots = [] → (s.qx q).item = none → ∃ u, exec (.slotFetchArrival q) s = .next u ∧
      u.halted q = true ∧ u.getF (fQ_HALT q) = 5 ∧ u.getF (fQ_HEAD q) = s.getF (fQ_HEAD q) ∧ u.fuses = s.fuses ∧ u.flights = s.flights)) ∧
  (∀ (s : State) (q : Nat), Shaped s → s.leadOn q = true → s.getF (fQ_GEN q) ≠ 2 → (s.qx q).item = none → (s.qx q).pois = false →
    4 ≤ (s.qx q).slots.length →
    let d := (((s.qx q).slots.take 4).flatMap fun x => leBytes 16 x.toNat).toArray
    (byteAt d 0 = 2 ∨ byteAt d 0 = 3 → s.gait = false → ∃ u e, exec (.g2g3Descriptor q) s = .next u ∧ (u.qx q).item = some e ∧
      e.item = .insn (if byteAt d 0 = 2 then .nop else .halt) ∧ e.len = 4 ∧ u = { s with regs := u.regs, queues := u.queues, nextDec := s.nextDec + 1 }) ∧
    (∀ p s' p', byteAt d 0 = 1 → s.gait = false → descLacks (s.getF (fQ_GEN q)) d = false →
      descStep (s.getF (fQ_GEN q)) (s.getF (fQ_HEAD q) / 4) d = some p →
      checkFour (p.stepId, q) (s.qx q).gated s.inService 0 (descCode { p with hfmt := Config.descHFmt % 3 }) s { p with hfmt := Config.descHFmt % 3 } = (s', .ok p') →
      ∃ u e, exec (.g2g3Descriptor q) s = .next u ∧ (u.qx q).item = some e ∧ e.item = .step p' ∧ e.len = 4 ∧
      u.getF (fQ_HEAD q) = s.getF (fQ_HEAD q) ∧ u.flights = s.flights) ∧
    (byteAt d 0 = 1 → s.gait = true ∨ descLacks (s.getF (fQ_GEN q)) d = true → ∃ u, exec (.g2g3Descriptor q) s = .next u ∧
      u.halted q = true ∧ u.getF (fQ_HALT q) = 6 ∧ u.getF (fQ_HEAD q) = s.getF (fQ_HEAD q) ∧ u.flights = s.flights))) ∧
  (∀ (s : State) (q : Nat) (x : Slot) (r : List Slot), Shaped s → s.leadOn q = true → s.getF (fQ_GEN q) = 2 →
    (s.qx q).item = none → (s.qx q).pois = false → (s.qx q).slots = x :: r →
    (∀ g, insnChecks x r.head? = some (.ok g) → slotOpc x ≠ 0x10 → (∀ n c, g ≠ .normal n c) → (∀ p d, g ≠ .repack p d) →
      ∃ u d, exec (.decode q) s = .next u ∧ (u.qx q).item = some d ∧ d.item = .insn g ∧ d.len = 1 ∧
      u.getF (fQ_HEAD q) = s.getF (fQ_HEAD q) ∧ u = { s with regs := u.regs, queues := u.queues, nextDec := s.nextDec + 1 }) ∧
    (∀ ps rd, insnChecks x r.head? = some (.ok (.repack ps rd)) → slotOpc x ≠ 0x10 →
      ∃ u d, exec (.decode q) s = .next u ∧ (u.qx q).item = some d ∧ d.item = .insn (.repack ps rd) ∧ d.len = 1 ∧
      u.repackQ = s.repackQ ++ [⟨s.nextDec, false, q, ps, rd, s.nextLn, s.strict⟩] ∧ u.nextLn = s.nextLn + 1 ∧
      u.getF (fQ_HEAD q) = s.getF (fQ_HEAD q) ∧ u.flights = s.flights) ∧
    (∀ nd cpl n l, insnChecks x r.head? = some (.ok (.normal nd cpl)) → slotOpc x ≠ 0x10 →
      (s.granules nd 64).all (fun g => g.2 == .good) = true → normalOf s.lc cpl (s.memAt nd 64).toArray = some n → s.postLen n = some l →
      ∃ u d, exec (.decode q) s = .next u ∧ (u.qx q).item = some d ∧ d.item = .norm n ∧ d.len = 1 ∧
      u.getF (fQ_HEAD q) = s.getF (fQ_HEAD q) ∧ u.flights = s.flights) ∧
    (opcKnown (slotOpc x) = false → ∃ u, exec (.decode q) s = .next u ∧ u.halted q = true ∧ u.getF (fQ_HALT q) = 9 ∧
      u.getF (fQ_HEAD q) = s.getF (fQ_HEAD q) ∧ u.flights = s.flights) ∧
    (∀ body s' p, slotOpc x = 0x10 → stepChecks (x :: r) = some (.ok body) →
      checkFour ((progOf (body.map slotInstr)).stepId, q) (s.qx q).gated s.inService 0 (body.map slotInstr) s (progOf (body.map slotInstr)) = (s', .ok p) →
      ∃ u d, exec (.decode q) s = .next u ∧ (u.qx q).item = some d ∧ d.item = .step p ∧ d.len = body.length ∧ d.code = body.map slotInstr ∧
      d.body = (body.map slotInstr).filter isFrame ∧ u.getF (fQ_HEAD q) = s.getF (fQ_HEAD q) ∧ u.flights = s.flights))

/-- R302, R309, R331: each frame and guard command (STEP, END, ROWS, SCREEN, REFINE, FUSE, BIAS, PENAL, TEMP, MASK_USE, GUMBEL, DRAW) hands over the first instruction of its own that the decoded step awaits: its operands enter the program, and it is no longer awaited. Frame: nothing but the queue's decoded item changes. -/
def Obligations.FrameInstructionsEnterTheProgram : Prop :=
  ∀ (s : State) (q : Nat) (d : Decoded) (g : GInstr) (c : Instr), Shaped s → q < 32 → (s.qx q).item = some d →
    frameCommand q g = some c → d.body.find? (fun x => frameCommand q x == some c) = some g →
    ∃ u, exec c s = .next u ∧
      (u.qx q).item = some { d with prog := addInstr d.prog g, body := d.body.filter fun x => x != g } ∧
      (∀ k, k ≠ q → u.qx k = s.qx k) ∧ u = { s with queues := u.queues }

/-- R315, R352, R358: an issuable NOP passes; WAITQ passes once its count stands in `DONE`; HALT halts its queue with `HALT_INSN` and HEAD past it, without an event; LAUNCHAT passes and holds the item that follows until its count. Frame: registers of other queues, memory and all other state stay. -/
def Obligations.PlainQueueInstructionsPass : Prop :=
  ∀ (s : State) (q : Nat) (d : Decoded), Shaped s → (s.qx q).item = some d →
    (s.issuable q = some .nop → ∃ u, exec (.nop q) s = .next u ∧
      u.getF (fQ_HEAD q) = (s.getF (fQ_HEAD q) + d.len) % 2 ^ 32 ∧ (u.qx q).item = none ∧ (u.qx q).gated = false ∧
      (u.qx q).slots = (s.qx q).slots.drop d.len ∧
      (∀ o, o ≠ rQ q + 0x10 → o ≠ rQ q + 0x20 → u.reg o = s.reg o) ∧ u = { s with regs := u.regs, queues := u.queues }) ∧
    (∀ w n, s.issuable q = some (.waitq w n) → (2 ^ 32 + s.getF (fQ_DONE w) - n) % 2 ^ 32 < 2 ^ 31 →
      ∃ u, exec (.waitq q) s = .next u ∧
      u.getF (fQ_HEAD q) = (s.getF (fQ_HEAD q) + d.len) % 2 ^ 32 ∧ (u.qx q).item = none ∧
      (∀ o, o ≠ rQ q + 0x10 → o ≠ rQ q + 0x20 → u.reg o = s.reg o) ∧ u = { s with regs := u.regs, queues := u.queues }) ∧
    (∀ w n, s.issuable q = some (.waitq w n) → 2 ^ 31 ≤ (2 ^ 32 + s.getF (fQ_DONE w) - n) % 2 ^ 32 → exec (.waitq q) s = .next s) ∧
    (s.issuable q = some .halt → ∃ u, exec (.halt q) s = .next u ∧ u.halted q = true ∧ u.getF (fQ_HALT q) = 1 ∧
      u.getF (fQ_HEAD q) = (s.getF (fQ_HEAD q) + d.len) % 2 ^ 32 ∧
      (∀ o, o ≠ rQ q + 0x10 → o ≠ rQ q + 0x20 → u.reg o = s.reg o) ∧
      u = { s with regs := u.regs, queues := u.queues, repackQ := s.repackQ.filter fun j => j.queue != q }) ∧
    (∀ gc, s.issuable q = some (.launchat gc) → ∃ u, exec (.launchat q) s = .next u ∧
      u.getF (fQ_HEAD q) = (s.getF (fQ_HEAD q) + d.len) % 2 ^ 32 ∧ (u.qx q).item = none ∧ (u.qx q).gated = true ∧
      (u.qx q).hold = some ⟨.launchat gc, decide ((2 ^ 64 + s.gc - gc) % 2 ^ 64 < 2 ^ 63), d.order⟩ ∧
      (∀ o, o ≠ rQ q + 0x10 → o ≠ rQ q + 0x20 → u.reg o = s.reg o) ∧ u = { s with regs := u.regs, queues := u.queues })

/-- R428, R430, R431: a hold of LAUNCHAT, of a queue or of its step in flight, is met once the counter stands at its count; with `EN` of `BAR_CTL` clear, or once released, a BARRIER passes; otherwise the chip takes the barrier up when none is in work, or the one in work has lost its BARRIER before the chip arrived (log entry 145; DESIGN CHOICE), and arrives as its role and its children say; before a step in COLLECTED gait it holds the step's fill instead (R420). That the hold is taken only where the step's slots are already fetched, and that a release which meets a mismatch leaves its item waited, is log entry 65 (DEDUCED). The release reaches every hold of its number, and the next barrier is taken up; the levels of barrier-in and of the children's arrival lines reach their lines. -/
def Obligations.HoldsAndBarriersAreMetAndReleased : Prop :=
  ∀ (s : State) (q : Nat) (d : Decoded), Shaped s → q < 32 →
    (∀ gc o, (2 ^ 64 + s.gc - gc) % 2 ^ 64 < 2 ^ 63 → ∃ u, exec (.launchatSatisfied q) s = .next u ∧ u.regs = s.regs ∧ u.mem = s.mem ∧
      ((s.qx q).hold = some ⟨.launchat gc, false, o⟩ → (u.qx q).hold = some ⟨.launchat gc, true, o⟩) ∧
      (∀ f ∈ s.flights, f.queue = q → f.hold = some ⟨.launchat gc, false, o⟩ → { f with hold := some ⟨.launchat gc, true, o⟩ } ∈ u.flights) ∧
      (∀ k, k ≠ q → u.qx k = s.qx k) ∧ u.flights.length = s.flights.length) ∧
    (∀ b, (s.qx q).item = some d → s.issuable q = some (.barrier b) → s.flag fBAR_EN = false ∨ d.waited = true →
      ∃ u, exec (.barrier q) s = .next u ∧ u.getF (fQ_HEAD q) = (s.getF (fQ_HEAD q) + d.len) % 2 ^ 32 ∧ (u.qx q).item = none ∧
      (u.qx q).gated = true ∧ u = { s with regs := u.regs, queues := u.queues }) ∧
    (∀ b, (s.qx q).item = some d → s.issuable q = some (.barrier b) → s.flag fBAR_EN = true → d.waited = false →
      ∃ u, exec (.barrier q) s = .next u ∧
      (s.barrierGone = true → u.sync.cur = some b ∧
        (s.link.isolated = false → s.barRole = 0 ∨ (s.barRole = 1 ∧ s.sync.cup.all id = true) → u.sync.up = true ∧
          (s.sync.up = false → u.getF fARRIVED = b % 2 ^ 32)) ∧
        (s.link.isolated = false → s.barRole = 2 → s.sync.cup.all id = true → u.sync.cdn = true ∧ u.sync.relWait = true)) ∧
      (s.barrierGone = false → u.sync = s.sync) ∧
      (s.gait = false ∨ s.stepFollows q = false → u = { s with regs := u.regs, sync := u.sync } ∧ ∀ o, o ≠ 0x5018 → u.reg o = s.reg o) ∧
      (s.gait = true → s.stepFollows q = true → u.getF (fQ_HEAD q) = (s.getF (fQ_HEAD q) + d.len) % 2 ^ 32 ∧ (u.qx q).item = none ∧
        (u.qx q).hold = some ⟨.barrier b, false, d.order⟩ ∧ u = { s with regs := u.regs, sync := u.sync, queues := u.queues })) ∧
    (∀ b, s.sync.relWait = true → s.sync.cur = some b → ∃ u, exec .barrierRelease s = .next u ∧ u.getF fRELEASED = b % 2 ^ 32 ∧
      u.flights = s.flights.map (fun f => { f with hold := f.hold.map (Hold.release b) }) ∧
      (∀ k, k < 32 → (u.qx k).hold = (s.qx k).hold.map (Hold.release b)) ∧
      (∀ e, (s.qx q).item = some e → e.item = .insn (.barrier b) →
        (u.qx q).item = if s.leadOn q = true ∧ s.mismatch = false then none else some { e with waited := true }) ∧
      (u.waitingBarriers = [] → u.sync.up = false ∧ u.sync.relWait = false ∧ u.sync.cur = none) ∧ u.mem = s.mem) ∧
    (∀ l, ∃ u, exec (.syncBarDn l) s = .next u ∧ u.sync.dn = l ∧
      (s.flag fBAR_EN = true → s.barRole ≠ 2 →
        (u.sync.relWait = true ↔ s.sync.relWait = true ∨ (l = true ∧ s.sync.dn = false ∧ s.sync.up = true)) ∧
        (s.barRole = 1 → s.link.isolated = false → u.sync.cdn = l)) ∧
      (s.flag fBAR_EN = false ∨ s.barRole = 2 → u = { s with sync := { s.sync with dn := l } }) ∧ u = { s with sync := u.sync }) ∧
    (∀ k l, k < 8 → ∃ u, exec (.syncBarCup k l) s = .next u ∧ u.sync.cup.getD k false = l ∧
      (∀ j, j ≠ k → u.sync.cup.getD j false = s.sync.cup.getD j false) ∧
      (∀ b, l = true → s.sync.cur = some b → s.barrierHeld b = true → s.flag fBAR_EN = true → s.link.isolated = false →
        (∀ j, j < 8 → j ≠ k → s.sync.cup.getD j false = true) →
        (s.barRole = 1 → u.sync.up = true ∧ (s.sync.up = false → u.getF fARRIVED = b % 2 ^ 32)) ∧
        (s.barRole = 2 → u.sync.cdn = true ∧ u.sync.relWait = true)) ∧
      u = { s with regs := u.regs, sync := u.sync })

/-- R315, R316, R354, R355: PUT and SIGNAL write or add to their word and GET asks for its words, on the ports of their addresses, and the queue counts each as outstanding until it is acknowledged; one on a channel in fault is over at once, with `REMOTE_ERR` (R480). SIGNAL waits for the queue's earlier steps and remote operations; a FENCE waits for the queue to drain, and with `HOSTVIS` for an ordering answer of every channel that runs. A SIGNAL that does not wait for NORMALs, and `HOSTVIS` over the channels that are up, are log entry 66 (DEDUCED); an answer at once on a channel in fault is log entry 37 (DESIGN CHOICE), and FADD added when it issues log entry 39 (DESIGN CHOICE). Frame: no byte of memory but the word's changes. -/
def Obligations.RemoteOperationsAndFences : Prop :=
  ∀ (s : State) (q : Nat) (d : Decoded), Shaped s → (s.qx q).item = some d → s.served = true →
    (∀ a v, s.issuable q = some (.put a v) → ((∀ m ∈ s.messages none true a 8, s.portUp m.1 = true) → ∃ u, exec (.put q) s = .next u ∧
      (∀ i, i < 8 → Store.read memDefault u.mem (a + i) = (leBytes 8 v).getD i 0) ∧ SameMemBut s u a 8 ∧
      (u.qx q).remote = (s.qx q).remote + 1 ∧ (u.qx q).item = none ∧
      (∃ o ∈ u.out, o.port = s.portOf a ∧ o.addr = a ∧ o.why = .remote s.nextOp q (s.getF (fQ_HEAD q)) 0 a none) ∧ u.nextOp = s.nextOp + 1 ∧
      (∀ o, o ≠ rQ q + 0x10 → o ≠ rQ q + 0x20 → u.reg o = s.reg o)) ∧
      (s.portUp (s.portOf a) = false → ∃ u, exec (.put q) s = .next u ∧ (u.qx q).remote = (s.qx q).remote ∧ (u.qx q).item = none ∧
        u.flag (fERR_CLASS 10) = true ∧ u.flights = s.flights ∧ u.fuses = s.fuses)) ∧
    (∀ n src dst, s.issuable q = some (.get n src dst) → 1 ≤ n → (∀ m ∈ s.messages none false src (8 * n), s.portUp m.1 = true) →
      ∃ u, exec (.get q) s = .next u ∧ u.mem = s.mem ∧ (u.qx q).remote = (s.qx q).remote + 1 ∧ (u.qx q).item = none ∧
      (∀ m ∈ s.messages none false src (8 * n), ∃ o ∈ u.out, o.port = m.1 ∧ o.addr = m.2.1 ∧ o.len = m.2.2 ∧
        o.why = .get s.nextOp q (s.getF (fQ_HEAD q)) src dst n none) ∧ u.nextOp = s.nextOp + 1 ∧
      (∀ o, o ≠ rQ q + 0x10 → o ≠ rQ q + 0x20 → u.reg o = s.reg o)) ∧
    (∀ fadd a v, s.issuable q = some (.signal fadd a v) → (∀ f ∈ s.inflightOf q, f.normal ≠ none) → (s.qx q).remote = 0 →
      (∀ m ∈ s.messages none true a 8, s.portUp m.1 = true) → ∃ u, exec (.signal q) s = .next u ∧
      (fadd = false → ∀ i, i < 8 → Store.read memDefault u.mem (a + i) = (leBytes 8 v).getD i 0) ∧
      (fadd = true → (s.granules a 8).all (fun g => g.2 == .good) = true → ∀ i, i < 8 →
        Store.read memDefault u.mem (a + i) = (leBytes 8 (leNat (s.memAt a 8) + v)).getD i 0) ∧ SameMemBut s u a 8 ∧
      (u.qx q).remote = 1 ∧ (u.qx q).item = none ∧
      (∃ o ∈ u.out, o.port = (if fadd = true then .hport else s.portOf a) ∧ o.addr = a ∧ o.why = .remote s.nextOp q (s.getF (fQ_HEAD q)) 2 a none)) ∧
    (∀ fadd a v, s.issuable q = some (.signal fadd a v) → (s.qx q).remote ≠ 0 ∨ (∃ f ∈ s.inflightOf q, f.normal = none) →
      exec (.signal q) s = .next s) ∧
    (∀ drain, s.issuable q = some (.fence drain false) → (drain = true → s.drainedQueue q = true) → ∃ u, exec (.fence q) s = .next u ∧
      (u.qx q).item = none ∧ u.getF (fQ_HEAD q) = (s.getF (fQ_HEAD q) + d.len) % 2 ^ 32 ∧ u.mem = s.mem ∧ u.out = s.out) ∧
    (∀ hv, s.issuable q = some (.fence true hv) → s.drainedQueue q = false → exec (.fence q) s = .next s) ∧
    (∀ drain, s.issuable q = some (.fence drain true) → (drain = true → s.drainedQueue q = true) →
      ((s.qx q).ords = none → ∃ u, exec (.fence q) s = .next u ∧
        (u.qx q).ords = some ((List.range 16).filter fun n => s.flag (fMC_UP n)) ∧ (u.qx q).item = some d ∧ u.mem = s.mem ∧ u.regs = s.regs ∧
        (∀ n, n < 16 → s.flag (fMC_UP n) = true → ∃ o ∈ u.out, o.port = .mc n ∧ o.why = .ord q)) ∧
      ((s.qx q).ords = some [] → ∃ u, exec (.fence q) s = .next u ∧ (u.qx q).item = none ∧
        u.getF (fQ_HEAD q) = (s.getF (fQ_HEAD q) + d.len) % 2 ^ 32 ∧ u.mem = s.mem ∧ u.out = s.out) ∧
      (∀ c r, (s.qx q).ords = some (c :: r) → exec (.fence q) s = .next s))

/-- R45, R51, R128, R129, R155, R357, R457: REPACK hands its decoded work to the repack units, and passes once that is over; MASK_LOAD begins a load, which the queue counts; TABCOMMIT asks for a commit of an open shadow. -/
def Obligations.SetUpInstructionsHandOverTheirWork : Prop :=
  ∀ (s : State) (q : Nat) (d : Decoded), Shaped s → (s.qx q).item = some d →
    (∀ ps rd, s.issuable q = some (.repack ps rd) → d.waited = false → ∃ u, exec (.repack q) s = .next u ∧
      (∀ j ∈ u.repackQ, j.queue = q → j.given = true) ∧ u = { s with repackQ := u.repackQ }) ∧
    (∀ ps rd, s.issuable q = some (.repack ps rd) → d.waited = true → ∃ u, exec (.repack q) s = .next u ∧ (u.qx q).item = none ∧
      u.getF (fQ_HEAD q) = (s.getF (fQ_HEAD q) + d.len) % 2 ^ 32 ∧ u = { s with regs := u.regs, queues := u.queues }) ∧
    (∀ set b n src, s.issuable q = some (.maskLoad set b n src) → s.power.stopped = false → ∃ u, exec (.maskLoad q) s = .next u ∧
      u.maskJobs = s.maskJobs ++ [⟨d.order, q, set, 64 * b, 64 * n, src, s.nextLn⟩] ∧ u.nextLn = s.nextLn + 1 ∧
      (u.qx q).loads = (s.qx q).loads + 1 ∧ (u.qx q).item = none ∧
      u = { s with regs := u.regs, queues := u.queues, maskJobs := u.maskJobs, nextLn := u.nextLn }) ∧
    (s.issuable q = some .tabcommit → s.shadowOpen = true → ∃ u, exec (.tabcommit q) s = .next u ∧ u.getF fSHADOW_ST = 1 ∧
      u.tabQueue = some q ∧ u.tabPassed = false ∧ (u.qx q).item = some d ∧
      u = { s with regs := u.regs, tabQueue := u.tabQueue, tabPassed := u.tabPassed }) ∧
    (s.issuable q = some .tabcommit → s.shadowOpen = false → exec (.tabcommit q) s = .next s) ∧
    (∀ set b n src, s.issuable q = some (.maskLoad set b n src) → s.power.stopped = true → exec (.maskLoad q) s = .next s)

/-- R155, R307, R309, R324 to R326: of the candidates in order, the item that the rule picks launches: it is in flight under the next launch number, its queue moves on, its charge is paid, and each queue passed over for it counts a skip. Where none fits, nothing launches, and every candidate that was considered is marked as waiting (R464); a decoded step whose set is no longer usable halts its queue (R59); while Martingale may not launch, as with 4 in flight, LAUNCH changes nothing. A commit that has passed takes effect with the launch. All this is said of `t`, the state after the checks that were put off and can be made now (log entry 135; DESIGN CHOICE): with none put off it is the state itself. -/
def Obligations.LaunchPutsTheFirstFittingItemInFlight : Prop :=
  ∀ (s : State), Shaped s →
    let t := s.recheckAll
    let fit : Decoded → Bool := fun d => t.fits d.eEst
    let reorder := !t.gait && !t.strict
    let skips : Nat → Nat := fun q => t.getF (fQ_SKIPS q)
    ((∀ q d, q < 32 → (s.qx q).item = some d → d.defer = false) → t = s) ∧
    (∀ passed q d, s.mayLaunch = true → t.candidates.find? (fun c => t.stale c.2) = none →
      pick fit reorder skips t.candidates = some (passed, q, d) →
      ∃ u f, exec .launch s = .next u ∧ u.flights = t.flights ++ [f] ∧ f.ln = t.nextLn ∧ f.queue = q ∧ u.nextLn = t.nextLn + 1 ∧
      f.gcLaunch = t.gc ∧ f.collected = t.gait ∧ f.eEst = d.eEst ∧ f.bank = u.activeBank ∧ t.fits d.eEst = true ∧ (q, d) ∈ t.candidates ∧
      (t.getF fSHADOW_ST = 2 → u.getF fBANK_ACT = 1 - t.getF fBANK_ACT ∧ u.getF fCF_EPOCH = t.getF fPEND_EPOCH ∧ u.getF fSHADOW_ST = 4) ∧
      (t.getF fSHADOW_ST ≠ 2 → u.getF fBANK_ACT = t.getF fBANK_ACT ∧ u.getF fCF_EPOCH = t.getF fCF_EPOCH) ∧
      (∀ w ∈ passed, u.getF (fQ_SKIPS w) = Nat.min (2 ^ (fQ_SKIPS w).width - 1) (t.getF (fQ_SKIPS w) + 1)) ∧ u.getF (fQ_SKIPS q) = 0 ∧
      (t.power.budget ≠ 0 → u.power.headroom = t.power.headroom - (t.charge d.eEst : Int)) ∧ u.mem = t.mem ∧ u.fuses = t.fuses) ∧
    (∀ q d, s.mayLaunch = true → t.candidates.find? (fun c => t.stale c.2) = some (q, d) → ∃ u, exec .launch s = .next u ∧
      u.halted q = true ∧ u.getF (fQ_HALT q) = 2 ∧ u.getF (fQ_HEAD q) = t.getF (fQ_HEAD q) ∧ u.flights = t.flights ∧ u.fuses = t.fuses) ∧
    (s.mayLaunch = true → t.candidates.find? (fun c => t.stale c.2) = none → pick fit reorder skips t.candidates = none →
      ∃ u, exec .launch s = .next u ∧ u = { t with queues := u.queues } ∧
      ∀ q d, (q, d) ∈ t.candidates → q ∈ passedOver fit reorder skips t.candidates → (u.qx q).item = some { d with waited := true }) ∧
    (∀ (fit : Decoded → Bool) (skips : Nat → Nat) (c : Nat × Decoded) (l : List (Nat × Decoded)) (reorder : Bool),
      (fit c.2 = true → pick fit reorder skips (c :: l) = some ([], c.1, c.2)) ∧
      (fit c.2 = false → reorder = true → skips c.1 < 16 →
        pick fit reorder skips (c :: l) = (pick fit reorder skips l).map fun x => (c.1 :: x.1, x.2)) ∧
      (fit c.2 = false → reorder = false ∨ 16 ≤ skips c.1 → pick fit reorder skips (c :: l) = none)) ∧
    (s.mayLaunch = false → exec .launch s = .next s) ∧ (4 ≤ s.flights.length → s.mayLaunch = false)

/-! A step in flight (chapters 03 to 05, 07, 08, 11). `Becomes s u ln g` says that flight `ln` of `u` is `g` and that every other flight is as in `s`. -/

/-- R79, R80, R90: working sets are allocated in launch order. The fit chooses the screen mode; a set that fits beside those held and the regions that REPACKs wait for is allocated, and no other flight changes; a step that fits nowhere, or in `TWICE` alone in COLLECTED gait, is refused, with `CSTAT` 3, and halts its queue, and one whose screen starts again waits. R261, R272, R320, R335: LOADH of a step whose parameter blocks have room loads every row; each row of a generation step is bound to the slot that the binding rule gives, and a row of a score step whose entry is poisoned is `POISON`; without room the step waits, unloaded, counted once; a step waits while one launched before it has not come to its own room (R314, R320). -/
def Obligations.WorkingSetAndLoadOfAStep : Prop :=
  (∀ (s : State) (ln : Nat) (f : Flight), s.flight ln = some f → f.past = false → f.allocd = false → f.emitted = false →
    ((∃ g ∈ s.flights, g.ln < ln ∧ g.past = false ∧ g.allocd = false) → exec (.allocateWorkingSet ln) s = .next s) ∧
    ((∀ g ∈ s.flights, g.ln < ln → g.past = true ∨ g.allocd = true) →
      let w := workSet f.prog f.view f.rview f.clusters
      let mode := fitMode w f.prog.paired (s.freeMin f.clusters)
      (∀ twice, mode = some twice → (twice = true → f.collected = false) →
        let n := if twice then w.rest else w.single f.prog.paired
        ((∀ c ∈ f.clusters, s.heldUnits c + s.reservedUnits f.sets c + n ≤ s.freeUnits c) → ∃ u, exec (.allocateWorkingSet ln) s = .next u ∧
          Becomes s u ln { f with twice := twice, wsUnits := n, allocd := true, restart := false } ∧
          u = { s with padFresh := u.padFresh, padDirty := u.padDirty, flights := u.flights }) ∧
        ((∃ c ∈ f.clusters, s.freeUnits c < s.heldUnits c + s.reservedUnits f.sets c + n) → exec (.allocateWorkingSet ln) s = .next s)) ∧
      (mode = none ∨ mode = some true ∧ f.collected = true → f.restart = true → exec (.allocateWorkingSet ln) s = .next s) ∧
      (mode = none ∨ mode = some true ∧ f.collected = true → f.restart = false → ∃ u g, exec (.allocateWorkingSet ln) s = .next u ∧
        Becomes s u ln g ∧ g.cstat = 3 ∧ g.emitted = true ∧ g.rows = [] ∧ u.fuses = s.fuses ∧ u.pad = s.pad ∧
        (f.queue < 32 → s.qEn f.queue = true → s.halted f.queue = false → u.halted f.queue = true ∧ u.getF (fQ_HALT f.queue) = 2)))) ∧
  (∀ (s : State) (ln : Nat) (f : Flight), s.flight ln = some f → s.loadTurn ln = false → exec (.loadh ln) s = .next s) ∧
  (∀ (s : State) (ln : Nat) (f : Flight), s.flight ln = some f → f.past = false → f.allocd = true → f.loaded = false → f.emitted = false →
    s.loadTurn ln = true →
    (∀ bytes, (f.prog.scoreq = none → bytes = s.blockBytesOf (((List.range f.prog.rows).filterMap fun r =>
        (s.bindRow f.prog (s.readRuns f.prog f.who).2 r).map fun n => s.getF (fE_PB n)).eraseDups)) →
      (∀ tbl res, f.prog.scoreq = some (tbl, res) → bytes = s.blockBytesOf (((((List.range f.prog.rows).map fun r =>
        let e := parseEntry (((s.memAt tbl (64 * f.prog.rows)).drop (64 * r)).take 64).toArray
        (e.1, e.2 || (s.peek (tbl + 64 * r) 64).2)).filter fun e => !e.2).map fun e => e.1.pb).eraseDups)) →
      (s.storeFull f bytes = false → ∃ u g, exec (.loadh ln) s = .next u ∧ Becomes s u ln g ∧ g.loaded = true ∧
        g.psBytes = bytes ∧ g.rows.length = f.prog.rows ∧
        (f.prog.scoreq = none → ∀ r, r < f.prog.rows → (g.rows.getD r default).slot = s.bindRow f.prog (s.readRuns f.prog f.who).2 r) ∧
        (∀ tbl res r, f.prog.scoreq = some (tbl, res) → r < f.prog.rows → (s.peek (tbl + 64 * r) 64).2 = true →
          (g.rows.getD r default).poison = true ∧ (g.rows.getD r default).blind = true) ∧
        u.mem = s.mem ∧ u.pad = s.pad ∧ u.fuses = s.fuses) ∧
      (s.storeFull f bytes = true → f.psWait = true → exec (.loadh ln) s = .next s) ∧
      (s.storeFull f bytes = true → f.psWait = false → ∃ u, exec (.loadh ln) s = .next u ∧
        Becomes s u ln (({ f with psWait := true } : Flight).timing 5) ∧
        u.getF fPS_WAITS = Nat.min (2 ^ 32 - 1) (s.getF fPS_WAITS + 1) ∧ u = { s with regs := u.regs, flights := u.flights })))

/-- R88, R124, R163, R420: the snapshot waits for the earlier EMITs of its requests and then covers every row; a COLLECTED step is released, with the gate counter of that moment, once nothing holds its fill and a half of the candidate store is free. -/
def Obligations.SnapshotAndReleaseOfAStep : Prop :=
  ∀ (s : State) (ln : Nat) (f : Flight), s.flight ln = some f → f.past = false →
    (f.loaded = true → f.snapped = false → f.emitted = false → s.snapReady f = false → exec (.historySnapshot ln) s = .next s) ∧
    (f.loaded = true → f.snapped = false → f.emitted = false → s.snapReady f = true → ∃ u g, exec (.historySnapshot ln) s = .next u ∧
      Becomes s u ln g ∧ g.snapped = true ∧ g.rows.length = f.rows.length ∧ g.runs.length = f.runs.length ∧
      (∀ (r : Nat) (row : RowState), f.rows[r]? = some row → row.slot = none → g.rows[r]? = some { row with snapped := true }) ∧
      u.pad = s.pad ∧ u.fuses = s.fuses) ∧
    (f.collected = true → f.released = false → f.snapped = true → f.allocd = true → (∀ h, f.hold = some h → h.met = true) →
      s.arraysFree ln = true →
      (s.halvesTaken < 2 → ∃ u, exec (.fillRelease ln) s = .next u ∧
        Becomes s u ln (({ f with released := true, gcLaunch := s.gc } : Flight).timing (if s.slowClock then 8 else 0)) ∧
        u = { s with flights := u.flights }) ∧
      (2 ≤ s.halvesTaken → ∃ u, exec (.fillRelease ln) s = .next u ∧ Becomes s u ln (f.timing 3) ∧ u = { s with flights := u.flights })) ∧
    (∀ h, f.hold = some h → h.met = false → exec (.fillRelease ln) s = .next s)

/-- R64 to R88, R131: SCREEN forms the scores of every token of the window for every row that has its inputs; a row without them has none. R81 to R83, R131, R168: the broadcast gives each row the root's form of its tokens, and a spoiled row its `POISON`; a wait for a Gumbel evaluator breaks the count. R84: the sum sweep forms Σ0 of each row from its scores and m0; a step in `TWICE` screens again first, sums the scores of that screen, and keeps the tokens of its leaves but for those that the second screen has poisoned. The broadcast and the sweep take steps in launch order (R314, R320). While no fixed-table word of its clusters is damaged (R471; log entry 124 leaves the rest free), each score is what its records, its row and its path give. -/
def Obligations.ScreenBroadcastAndSweepFormEveryScore : Prop :=
  (∀ (s : State) (ln : Nat) (f : Flight) (cured : List RecRef), s.flight ln = some f → s.fillReady f = true →
    let d := stepDeal f.view f.clusters f.prog.rows
    let hits := cured ++ s.streamHits f
    let s0 := match f.rview with | some v => (s.screenSet f v (curedRef hits)).1 | none => s
    ∃ u g, exec (.screen ln cured) s = .next u ∧ Becomes s u ln g ∧ g.screened = true ∧ g.released = true ∧ g.rows.length = f.rows.length ∧
    (∀ (r : Nat) (row : RowState), f.rows[r]? = some row → row.blind = true → (g.rows.getD r default).toks = []) ∧
    ((s.fixedBad.any fun c => f.clusters.contains c) = false →
      u.freeCtr = s.freeCtr ∧ ∀ (r : Nat) (row : RowState), f.rows[r]? = some row → row.blind = false →
      (g.rows.getD r default).toks =
        (((List.range d.slabs).map (readSlab s0.readLoc f.view d (f.prog.prec == 2) (curedMain hits))).flatMap fun sl =>
          (List.range sl.ntok).map (rowTok f f.mainHead s.maskViews row row.rowMask.toArray (fun _ => false) sl))) ∧
    u.pad = s.pad ∧ u.fuses = s.fuses) ∧
  (∀ (s : State) (ln : Nat) (f : Flight), s.flight ln = some f → f.past = false → f.emitted = false →
    (s.unitTurn ln (fun g => g.screened && !g.m0done) = true →
      ∀ lag, f.screened = true → f.m0done = false → ∃ u g, exec (.m0Broadcast ln lag) s = .next u ∧ Becomes s u ln g ∧ g.m0done = true ∧
      g.rows.length = f.rows.length ∧
      (∀ (r : Nat) (row : RowState), f.rows[r]? = some row → (g.rows.getD r default).scr = some (rootForm (rowCtx f row) row.toks) ∧
        (g.rows.getD r default).toks = row.toks ∧ (g.rows.getD r default).lane = laneOf s.inService r ∧
        (row.spoiled = true → (g.rows.getD r default).phase = .poisoned)) ∧
      (lag = true → f.collected = true → f.tb = 0 → (∃ row ∈ f.rows, row.drawsGumbel = true) → g.tb = 4) ∧
      u.pad = s.pad ∧ u.fuses = s.fuses) ∧
    (s.unitTurn ln (fun g => g.screened && !g.m0done) = false → ∀ lag, exec (.m0Broadcast ln lag) s = .next s) ∧
    (s.unitTurn ln (fun g => g.m0done && !g.swept) = false → ∀ cured, exec (.sumSweep ln cured) s = .next s) ∧
    (∀ cured, s.unitTurn ln (fun g => g.m0done && !g.swept) = true → f.m0done = true → f.swept = false → f.screened = true →
      ∃ u g, exec (.sumSweep ln cured) s = .next u ∧ Becomes s u ln g ∧ g.swept = true ∧ g.rows.length = f.rows.length ∧
      (∀ (r : Nat) (row : RowState) scr, f.rows[r]? = some row → row.scr = some scr → f.twice = false →
        (g.rows.getD r default).sum0 = ((row.toks.map fun t => cfExpfx f.compat t.z0 scr.m0)).sum ∧ (g.rows.getD r default).toks = row.toks) ∧
      ((s.fixedBad.any fun c => f.clusters.contains c) = false → f.twice = true →
        ∀ (r : Nat) (row : RowState) scr, f.rows[r]? = some row → row.scr = some scr →
        let again := rowToks f f.mainHead s.maskViews (s.screenSet f f.view (curedMain (cured ++ s.streamHits f))).2.1 (fun _ => false) row
        (g.rows.getD r default).sum0 = (again.map fun t => cfExpfx f.compat t.z0 scr.m0).sum ∧
        (g.rows.getD r default).toks = List.zipWith (fun (t u : Tok) => if u.pois then u else t) row.toks again) ∧
      (f.twice = false → u = { s with flights := u.flights }) ∧ u.pad = s.pad ∧ u.fuses = s.fuses))

/-- R97, R103, R105: a round refines at most four tokens of its row, and never more than the budget; no other row changes; a round whose reads come late breaks the count. R422: so does one in which a channel carries more than its share of what the rows of the step read in that round. R212: the certification of a row that its run will discard ends. A row that has ended takes no round; a lane serves the rows of an earlier step first (R103, R314). -/
def Obligations.RefineRoundStaysInItsBudget : Prop :=
  ∀ (s : State) (ln i : Nat) (f : Flight) (r : RowState) (cured : List RecRef) (late : Bool), s.flight ln = some f → f.past = false →
    f.m0done = true → f.selected = false → f.emitted = false → f.rows[i]? = some r →
    (∀ scr, r.phase = .todo → r.scr = some scr → s.laneTurn ln r.lane = false → exec (.refineRound ln i cured late) s = .next s) ∧
    (∀ scr, r.phase = .todo → r.scr = some scr → s.laneTurn ln r.lane = true → f.discards i = false →
      ∃ u g r', exec (.refineRound ln i cured late) s = .next u ∧ Becomes s u ln g ∧
      g = { s.roundTiming f i r.rounds f.view f.prog.hbAddr (curedMain cured) ((r'.ref.drop r.ref.length).map (·.id)) late with rows := f.rows.set i r' } ∧
      (late = true → f.collected = true → f.tb = 0 → g.tb = 7) ∧
      r.ref <+: r'.ref ∧ r'.ref.length ≤ r.ref.length + 4 ∧ r'.nref + r.ref.length = r.nref + r'.ref.length ∧
      (r.nref ≤ f.prog.k → r'.nref ≤ f.prog.k) ∧ u.pad = s.pad ∧ u.fuses = s.fuses) ∧
    (∀ scr, r.phase = .todo → r.scr = some scr → s.laneTurn ln r.lane = true → f.discards i = true → ∃ u, exec (.refineRound ln i cured late) s = .next u ∧
      Becomes s u ln { f with rows := f.rows.set i { r with phase := .ended } } ∧ u = { s with flights := u.flights }) ∧
    (r.phase ≠ .todo → exec (.refineRound ln i cured late) s = .next s)

/-- R131, R181, R309: SELECT gives every row its outcome, that of its disposition, once the emit buffer has room for the rows, and waits until then. R199, R201: VERIFY walks every run in position order, over accepted drafts; a failed run accepts none. -/
def Obligations.SelectAndVerifyDecideEveryRow : Prop :=
  (∀ (s : State) (ln : Nat) (f : Flight), s.flight ln = some f → f.past = false → f.prog.isScore = false → f.certified = true →
    f.selected = false → f.emitted = false → s.bufferFits f = true →
    ∃ u g, exec (.select ln) s = .next u ∧ Becomes s u ln g ∧ g.selected = true ∧ g.rows.length = f.rows.length ∧
    (∀ (r : Nat) (row : RowState), f.rows[r]? = some row → ∃ o, (g.rows.getD r default).out = some o ∧ o = rowOut f r row ∧
      (∀ scr, row.scr = some scr → o.disp = dispOf (rowCtx f row) row.poison row.h.nonFinite (row.toks.map (workTok (rowCtx f row) row.ref))) ∧
      (o.disp = .poison ∨ o.disp = .empty → o.token = none)) ∧
    u = { s with flights := u.flights }) ∧
  (∀ (s : State) (ln : Nat) (f : Flight), s.flight ln = some f → s.bufferFits f = false →
    exec (.select ln) s = .next s ∧ ∀ cured late, exec (.scoreq ln cured late) s = .next s) ∧
  (∀ (s : State) (ln : Nat) (f : Flight), s.flight ln = some f → f.past = false → f.prog.verify ≠ none → f.selected = true →
    f.merged = true → f.verified = false → f.emitted = false →
    ∃ u g, exec (.verify ln) s = .next u ∧ Becomes s u ln g ∧ g.verified = true ∧ g.rows = f.rows ∧ g.runs.length = f.runs.length ∧
    (∀ (k : Nat) (v : VRun), f.runs[k]? = some v → ∃ w : VRun, g.runs[k]? = some w ∧ (v.failed = true → w.na = 0) ∧
      (v.failed = false →
        let out (j : Nat) := (f.rows.getD (v.row0 + j) default).final f
        w.na ≤ v.deff ∧ (∀ j, j < w.na → draftOk v (out j) j = some true) ∧
        (w.na < v.deff → draftOk v (out w.na) w.na ≠ some true ∧ (w.rej = true ↔ draftOk v (out w.na) w.na = some false)))) ∧
    u = { s with flights := u.flights })

/-- R286, R291: EMIT goes on when the records fit their rings, and takes the gate counter; a writing chip of a merge group whose ring is full waits, and reads `CONS` again, by `EPRIO` (R276), until they fit. It forms every row in order (`State.emitRow`) and then writes: the token vector at `TV`, 4 bytes a row; each record at its slot of its ring; the token-log words; and, once no record of a request is unacknowledged, `PROD` at the request's control block (R291). A row that ends with a token, `POISON` or `EMPTY` forms one record at the slot that `PROD` names, with its token-vector word, and `PROD` rises by 1 (R273, R274, R286, R287, R290). R310, R311: once EMIT is complete the step completes for its requests; the status of a complete step whose `NOTE` words are acknowledged, whose digest is done and whose earlier steps of the queue have written theirs is 64 bytes at its address; its place is free and `DONE` rises by 1; the status holds the fields of R311 at their bytes. A step whose EMIT is not complete writes none. EMIT takes steps in launch order, in every gait (R314, R320): that no output credit lets a later step pass is log entry 131 (DESIGN CHOICE). -/
def Obligations.EmitAndCompletionOfAStep : Prop :=
  (∀ (s : State) (ln : Nat) (f : Flight), s.flight ln = some f → f.emitReady = true →
    let e : Flight := if f.emitting then f else { f with emitting := true, gEmit := s.gc }
    let t := (s.byEprio (f.recordsFor.map (·.1))).foldl (fun s n => s.rereadCons n f.who) s
    let first : Emission := ⟨List.replicate f.prog.rows discarded, List.replicate f.prog.rows [], [], [], [], 0, [], []⟩
    let formed (a : State) (h : Flight) := h.rows.zipIdx.foldl (fun x q => State.emitRow x h q.2 q.1) (a.releaseRings h, first, h.runs)
    let done (a u : State) (h : Flight) : Prop :=
      let x := formed a h
      let m : Emission := { x.2.1 with wbs := x.2.2.map fun v => (v.index, v.row0, x.1.writeBack h v) }
      let w := x.1.issueEmission h m
      (∃ g, Becomes a u ln g ∧ g.emitted = true ∧ g.gEmit = h.gEmit ∧ g.gcDone = s.gc ∧ g.runs = x.2.2 ∧ g.nLate = m.late ∧
        g.rows.length = f.rows.length ∧ (∀ r, r ∉ m.spoiled → g.rows[r]? = f.rows[r]?)) ∧
      u = { w with flights := u.flights } ∧ u.pad = s.pad ∧ u.fuses = s.fuses
    (s.unitTurn ln Flight.emitReady = false → exec (.emit ln) s = .next s) ∧
    (s.unitTurn ln Flight.emitReady = true → s.ringsFit e = true → ∃ u, exec (.emit ln) s = .next u ∧ done s u e) ∧
    (s.unitTurn ln Flight.emitReady = true → s.ringsFit e = false → ∃ u, exec (.emit ln) s = .next u ∧ Becomes s u ln e ∧
      u = { s with flights := u.flights }) ∧
    (f.emitting = true → s.ringsFit f = false → t.ringsFit f = true → ∃ u, exec (.emitConsRetry ln) s = .next u ∧ done t u f) ∧
    (f.emitting = true → s.ringsFit f = false → t.ringsFit f = false → exec (.emitConsRetry ln) s = .next t)) ∧
  (∀ (s : State) (f : Flight) (e : Emission), f.writes = true →
    let vt := match f.prog.verify with | some (_, _, _, t) => t | none => 0
    let u := s.issueEmission f e
    let tv := e.tv.flatMap (leBytes 4)
    let free (a n : Nat) (recs : List (Nat × Nat × List Byte)) : Prop :=
      (∀ x ∈ recs, Apart a n x.2.1 x.2.2.length ∧ Apart a n (s.getF (fE_CB x.1)) 8) ∧ (∀ l ∈ e.logs, Apart a n l.1 4) ∧
      ∀ b ∈ e.wbs, Apart a n (vt + 64 * b.1 + 40) b.2.2.length
    (free f.prog.tv tv.length e.recs → Written s u f.prog.tv tv) ∧
    (∀ l x r, e.recs = l ++ x :: r → free x.2.1 x.2.2.length r → (∀ y ∈ l, Apart x.2.1 x.2.2.length (s.getF (fE_CB y.1)) 8) →
      Apart x.2.1 x.2.2.length (s.getF (fE_CB x.1)) 8 → Written s u x.2.1 x.2.2) ∧
    u.pad = s.pad ∧ u.fuses = s.fuses ∧ u.flights = s.flights) ∧
  (∀ (s : State) (ln n ch tag st : Nat) (o : Outstanding), s.findOut (.mc ch) tag = some o → o.why = .ringRec ln n →
    (s.out.erase o).any (fun x => x.why == .ringRec ln n) = false → ∃ u, exec (.mcWriteAck ch tag st) s = .next u ∧
      Written s u (s.getF (fE_CB n)) (leBytes 8 (s.getF (fE_PROD n)))) ∧
  (∀ (s : State) (e : Emission) (f : Flight) (row n : Nat) (o : RowOut) (acc : Bool), n < 8192 → s.isLate f n = false →
    let y := s.formRecord e f row n o acc
    ∃ o' fl, (o' = o ∨ (o.disp = .normal ∨ o.disp = .tie) ∧ o.token ≠ none ∧ o'.disp = .poison ∧ row ∈ y.2.1.spoiled) ∧
      y.2.1.recs = e.recs ++ [(n, s.getF (fE_RING n) + (if s.flag (fE_EXTREC n) then 128 else 32) * (s.getF (fE_PROD n) % 2 ^ s.getF (fE_RORDER n)),
        ringRecord f o' ((s.getF (fE_PLEN n) + s.getF (fE_GLEN n)) % 2 ^ 32) fl f.gEmit (s.extends f n))] ∧
      y.2.1.tv = e.tv.set row (o'.token.getD noToken) ∧ y.1.getF (fE_PROD n) = (s.getF (fE_PROD n) + 1) % 2 ^ (fE_PROD n).width ∧
      y.1.fuses = s.fuses ∧ y.1.flights = s.flights) ∧
  (∀ (s : State) (ln : Nat) (f : Flight), s.flight ln = some f →
    (f.emitted = true → s.flightQuiet ln = true → f.digestOver = true → f.complete = true → s.statusTurn f = true → f.queue < 32 →
      ∃ u, exec (.completionStatus ln) s = .next u ∧ u.flight ln = none ∧
      u.flights = s.flights.filter (fun g => g.ln != ln) ∧ u.getF (fQ_DONE f.queue) = (s.getF (fQ_DONE f.queue) + 1) % 2 ^ 32 ∧
      Written s u f.prog.cpl (statusBytes f s.freeCtr) ∧ SameMemBut s u f.prog.cpl 64 ∧
      (∀ o, o ≠ (fQ_DONE f.queue).off → u.reg o = s.reg o) ∧ u.reqs = s.reqs ∧ u.pad = s.pad) ∧
    (f.emitted = true → s.flightQuiet ln = true → f.complete = false →
      let t := s.closeEmit f
      ∃ u g, exec (.completionStatus ln) s = .next u ∧ t.flight ln = some g ∧ g = { f with complete := true } ∧
      ((t.flightQuiet ln && g.digestOver && t.statusTurn g) = true → u = t.writeStatus g ∧ u.flight ln = none) ∧
      ((t.flightQuiet ln && g.digestOver && t.statusTurn g) = false → u = t) ∧ u.fuses = s.fuses ∧ u.pad = s.pad) ∧
    (f.emitted = true → s.flightQuiet ln = true → f.complete = true → (f.digestOver && s.statusTurn f) = false →
      exec (.completionStatus ln) s = .next s) ∧
    (s.emitOver f = false → exec (.completionStatus ln) s = .next s)) ∧
  ∀ (f : Flight) (fr : Nat),
    let at' (i n : Nat) := ((statusBytes f fr).drop i).take n
    let norm := f.normal.isSome
    (statusBytes f fr).length = 64 ∧ at' 0 4 = leBytes 4 f.prog.stepId ∧ at' 4 1 = leBytes 1 f.queue ∧ at' 5 1 = leBytes 1 f.cstat ∧
    (∀ k, k < 8 → (leNat (at' 6 1)).testBit k =
      [f.twice, f.compat, f.strict, f.collected, f.tb != 0, f.prog.isScore, f.prog.paired, norm].getD k false) ∧
    at' 7 1 = leBytes 1 (if norm then 0 else f.prog.prec) ∧ at' 8 4 = leBytes 4 f.tepoch ∧
    at' 12 4 = leBytes 4 (if norm then 0 else f.view.epoch) ∧ at' 16 8 = leBytes 8 f.gcLaunch ∧ at' 24 8 = leBytes 8 f.gcDone ∧
    at' 36 2 = leBytes 2 (if norm ∨ f.cstat = 3 then 0 else f.prog.rows) ∧
    at' 38 2 = leBytes 2 (f.rows.countP fun r => (r.final f).uncert) ∧
    (f.cstat ≠ 1 → at' 40 2 = leBytes 2 (f.rows.countP fun r => (r.final f).disp == .poison)) ∧
    at' 42 2 = leBytes 2 (f.rows.countP fun r => (r.final f).disp == .empty) ∧ at' 44 2 = leBytes 2 (f.rows.countP (·.vacant)) ∧
    at' 46 2 = leBytes 2 f.nLate ∧ at' 52 4 = leBytes 4 f.eEst ∧ at' 56 1 = leBytes 1 (if norm then 0 else f.clusters.length) ∧
    at' 57 1 = leBytes 1 f.tb ∧ at' 58 6 = List.replicate 6 0

/-! Score steps, merge groups, digests (chapters 07, 10, 16). -/

/-- R131, R237, R238: SCOREQ gives every row its outcome: a spoiled or `POISON` row `POISON`, an `EMPTY` one −inf, and a `NORMAL` or `TIE` row its replay choice with the statistics of `TOKEN`, which is refined outside the budget where it is neither the choice nor refined already; in a merge group the choice of a SERVE row waits for the first round. Once everything before them is done, the result records are written. R244 to R247: KLREF refines on the reference set and forms the reference values, NaN where the reference disposition is not `NORMAL`, and leaves the outcome of a `POISON` or `EMPTY` row. R253, R255, R258: GRAD forms the dlogits of every row, 66 bytes a slab, all zero where R253 says so, and writes them at their place; a row whose step is STRICT takes nothing from the lanes. R256: the transposed pass forms dh of every row from its written dlogits, and writes it at its own place. KLREF, GRAD and the transposed pass take steps in launch order (R314): a later step waits for those before it that hold a token there, and for those alone (log entry 137, DEDUCED; log entry 131, DESIGN CHOICE). What a poisoned record leaves open is log entry 126's (DESIGN CHOICE). -/
def Obligations.ScoreStepsPassTheirPhases : Prop :=
  (∀ (s : State) (ln : Nat) (f : Flight), s.flight ln = some f → f.past = false → f.emitted = false →
    let results (u : State) (g : Flight) : Prop :=
      (g.emitted = true ↔ g.prog.isScore = true ∧ g.scoreOver = true) ∧
      ∀ x, g.emitted = true → g.prog.scoreq = some x → g.writes = true → Written s u x.2 (g.rows.map (resultRecord g)).flatten
    let clear (g : Flight) (a n : Nat) : Prop := g.emitted = true → g.writes = true → ∀ x, g.prog.scoreq = some x → Apart a n x.2 (32 * g.rows.length)
    (∀ cured late, f.prog.isScore = true → f.certified = true → f.scored = false → s.bufferFits f = true →
      ∃ u g, exec (.scoreq ln cured late) s = .next u ∧ Becomes s u ln g ∧ g.scored = true ∧ g.rows.length = f.rows.length ∧
      (∀ (r : Nat) (row : RowState), f.rows[r]? = some row →
        let c := rowCtx f row
        let a := (s.overRows (f.rows.take r) fun s i r => s.scoreRow f (curedMain cured) i r).1
        let got := g.rows.getD r default
        (row.spoiled = true → ∃ o, got.out = some o ∧ o.disp = .poison) ∧
        (∀ scr, row.scr = some scr →
          (rowDisp c row = .poison → got = { row with out := some (poisonOut f row) }) ∧
          (rowDisp c row = .empty → got = { row with out := some { emptyOut f row with notKept := c.serve } }) ∧
          (rowMode f r row ≠ .group → rowDisp c row = .normal →
            let x := rowChoice f r c row scr
            let q := a.refineScored f r row c (curedMain cured) x.token
            got = { q.2.1 with out := some (scoredNormal f c q.2.1 scr x q.2.2) } ∧ (scoredNormal f c q.2.1 scr x q.2.2).token = x.token ∧
            (q.2.1.ref = row.ref ∨ ∃ y, q.2.1.ref = row.ref ++ [y] ∧ row.entry.map (·.token) = some y.id) ∧ q.2.1.nref = row.nref ∧
            (q.2.2 = .present → ∀ e, row.entry = some e → (scoredNormal f c q.2.1 scr x q.2.2).lp =
              logprobOf ((workOf c q.2.1 e.token).getD fNan) (rowStats f q.2.1 scr).mStar (rowStats f q.2.1 scr).sStar) ∧
            (q.2.2 = .absent → (scoredNormal f c q.2.1 scr x q.2.2).lp = fNinf) ∧ (q.2.2 = .odd → (scoredNormal f c q.2.1 scr x q.2.2).lp = fNan)) ∧
          (rowMode f r row ≠ .group → rowDisp c row = .tie →
            let q := a.refineScored f r row c (curedMain cured) (tieOut f c row scr).token
            got = { q.2.1 with out := some (scoredTie f c row scr q.2.1.ref.length q.2.2) }) ∧
          (rowMode f r row = .group → rowDisp c row = .normal →
            got = { row with out := some { scoredNormal f c row scr (rowChoice f r c row scr) .present with token := none } }) ∧
          (rowMode f r row = .group → rowDisp c row = .tie →
            got = { row with out := some { scoredTie f c row scr row.ref.length .present with token := none } }))) ∧
      results u g ∧ u.pad = s.pad ∧ u.fuses = s.fuses) ∧
    (∀ cured late, f.prog.paired = true → (f.selected = true ∨ f.scored = true) → f.klDone = false →
      s.unitTurn ln (fun g => g.prog.paired && (g.selected || g.scored) && !g.klDone) = true →
      ∃ u g, exec (.klref ln cured late) s = .next u ∧ Becomes s u ln g ∧ g.klDone = true ∧ g.rows.length = f.rows.length ∧
      (∀ (r : Nat) (row : RowState), f.rows[r]? = some row →
        let a := (s.overRows (f.rows.take r) fun s i r => if r.spoiled then (s, r) else s.refineRef f (curedRef cured) i r).1
        let q := if row.spoiled then row else (a.refineRef f (curedRef cured) r row).2
        let got := g.rows.getD r default
        got = { q with out := q.out.map fun o => genRef q (klRow f q o) } ∧ q.ref = row.ref ∧ row.rref <+: q.rref ∧ q.out = row.out ∧
        (∀ o, row.out = some o → (o.disp = .poison ∨ o.disp = .empty) → got.out = some o) ∧
        (∀ o scr, row.out = some o → row.scr = some scr → o.disp ≠ .poison → o.disp ≠ .empty → refDispOf (rowCtx f q) q ≠ .normal →
          ∃ w, got.out = some w ∧ w.kl = fNan ∧ w.lpRef = fNan ∧ w.refDisp = true)) ∧
      results u g ∧ u.pad = s.pad ∧ u.fuses = s.fuses) ∧
    (∀ d cured, f.prog.grad = some d → f.gradReady = true → s.unitTurn ln Flight.gradReady = true →
      let x := s.gradScreen f d cured
      let bytes := (gradRows f d x.1.maskViews x.2.1 x.1.freeCtr x.1.sorrel).1
      ∃ u g, exec (.grad ln cured) s = .next u ∧ Becomes s u ln g ∧ g.gradDone = true ∧ g.rows.length = f.rows.length ∧
      bytes.length = f.rows.length ∧ (g.emitted = false → g.rowBytes = bytes) ∧
      (∀ (r : Nat) (row : RowState), f.rows[r]? = some row →
        (∃ l, bytes[r]? = some (gradRowBytes f d x.1.maskViews (x.2.1 r) x.1.freeCtr r row l).1) ∧
        (f.strict = true → ∀ l, bytes[r]? = some (gradRowBytes f d x.1.maskViews (x.2.1 r) x.1.freeCtr r row l).1) ∧
        (66 * f.view.slabs ≤ d.dlStride → clear g (d.dlAddr + r * d.dlStride) (66 * f.view.slabs) →
          Written s u (d.dlAddr + r * d.dlStride) (bytes.getD r []))) ∧
      (f.strict = true → u.sorrel = s.sorrel) ∧ results u g ∧ u.pad = s.pad ∧ u.fuses = s.fuses) ∧
    (∀ d cured, f.prog.grad = some d → f.transReady = true → s.unitTurn ln Flight.transReady = true →
      let dh (r : Nat) := dhBytes f d (s.transSlabs f d cured) r (f.rowBytes.getD r [])
      ∃ u g, exec (.gradTransposedPass ln cured) s = .next u ∧ Becomes s u ln g ∧ g.transDone = true ∧ g.rows = f.rows ∧
      (∀ r, r < f.rowBytes.length → (dh r).length = 256 * f.view.hd ∧ (g.emitted = false → g.rowBytes[r]? = some (f.rowBytes.getD r [] ++ dh r)) ∧
        (256 * f.view.hd ≤ d.dhStride → clear g (d.dhAddr + r * d.dhStride) (256 * f.view.hd) → Written s u (d.dhAddr + r * d.dhStride) (dh r))) ∧
      results u g ∧ u.pad = s.pad ∧ u.fuses = s.fuses) ∧
    (s.unitTurn ln Flight.gradReady = false → ∀ cured, exec (.grad ln cured) s = .next s) ∧
    (s.unitTurn ln Flight.transReady = false → ∀ cured, exec (.gradTransposedPass ln cured) s = .next s)) ∧
  ∀ (f : Flight) (g : GradDesc) (ms : Array (Option MaskView)) (odd : Nat → Bool) (fr i : Nat) (r : RowState) (l : List (Nat × Lane)),
    (gradRowBytes f g ms odd fr i r l).1.length = 66 * f.view.slabs ∧
    (gradZero g (r.final f) = true → (gradRowBytes f g ms odd fr i r l).1 = List.replicate (66 * f.view.slabs) 0)

/-- R184, R191: XMERGE sends a round's records to every chip of the group, each in its slot of that chip's area, and a round without a record counts at once; a round whose count has not come waits; a complete one is merged, and only then may the next be sent. R185, R187: a ROLLOUT record carries its row's disposition, its choice, a_c and μ_c. R186, R187, R190: a row whose records pass R192 is merged from them: its disposition is `POISON` if any part is, else `TIE`, else `NORMAL` if any part is, else `EMPTY`; A is the largest a_c and Σ_G the sum of EXPFX(a_c, A); the token of a `NORMAL` ROLLOUT row is the `WIN_ID` of the best key, the lowest id among equals, with its working score less A and Lg(Σ_G) as its logprob; a SERVE row of two rounds is decided from the first round's entries with the refined scores of the second (`decideServe`). A row with a record that fails is `POISON`. -/
def Obligations.MergeRoundsFollowTheCount : Prop :=
  (∀ (s : State) (ln : Nat) (f : Flight) (m : MergeCtx), s.flight ln = some f → f.past = false → f.emitted = false →
    (mergeCtx f f.mrSent = some m → (f.selected = true ∨ f.scored = true) → (f.prog.paired = true → f.klDone = true) →
      f.mrSent = f.mrDone → f.merged = false →
      ((m.rnd - 1) * m.g.c ≤ s.getF fXM_CNT → ∃ u, exec (.xmerge ln) s = .next u ∧ Becomes s u ln { f with mrSent := f.mrSent + 1 } ∧
        (∀ p ∈ m.g.peers, ∀ (r : Nat) (row : RowState), f.rows[r]? = some row → mergeRecord f m r row ≠ [] →
          ∃ o ∈ u.out, o.port = .hport ∧ o.addr = m.place f.prog p.1 m.g.self r ∧ o.why = .merge ln m.round) ∧
        ((∀ (r : Nat) (row : RowState), f.rows[r]? = some row → mergeRecord f m r row = []) →
          ∀ p ∈ m.g.peers, ∃ o ∈ u.out, o.port = .hport ∧ o.addr = p.2.1 ∧ o.why = .mergeCnt ln m.round) ∧
        u = { s with mem := u.mem, out := u.out, link := u.link, flights := u.flights }) ∧
      (s.getF fXM_CNT < (m.rnd - 1) * m.g.c → exec (.xmerge ln) s = .next s)) ∧
    (mergeCtx f f.mrDone = some m → f.mrDone < f.mrSent → ∀ cured late,
      (m.rnd * m.g.c ≤ s.getF fXM_CNT → s.mergeTurn f = true → ∃ u g, exec (.mergeRoundComplete ln cured late) s = .next u ∧ Becomes s u ln g ∧
        g.mrDone = f.mrDone + 1 ∧ g.mrSent = f.mrSent ∧ g.rows.length = f.rows.length ∧ u.getF fXM_CNT = s.getF fXM_CNT ∧
        (∀ (i : Nat) (row : RowState), f.rows[i]? = some row →
          let a := (s.overRows (f.rows.take i) fun s i r =>
            if m.round = 0 then s.mergeFirst m f (curedMain cured) i r else s.mergeSecond m f i r).1
          let at' (c : Nat) := m.place f.prog m.g.rxBase c i
          let recs := (List.range m.g.c).map fun c => (a.memAt (at' c) (m.slot f.prog)).toArray
          let good (wo : Option Nat) : Prop :=
            ∀ c, c < m.g.c → mergeBad m c wo (recs.getD c #[]) (a.peek (at' c) (m.slot f.prog)).2 = none
          let got := g.rows.getD i default
          let two := row.serve && m.two
          (m.round = 0 → two = false → good (some 44) → got = { row with merged := some (mergeRollout f m i row recs) }) ∧
          (m.round = 0 → ¬good (some (if two then 24 else 44)) → got = { row with merged := some (poisonOut f row) }) ∧
          (m.round = 0 → two = true → good (some 24) →
            (firstRound f (rowCtx f row) recs).disp = .normal ∨ (firstRound f (rowCtx f row) recs).disp = .tie ∧ row.entry ≠ none →
            got.mid = some (firstRound f (rowCtx f row) recs)) ∧
          (m.round = 0 → two = true → good (some 24) → row.entry = none → (firstRound f (rowCtx f row) recs).disp ≠ .normal →
            ∃ o, got.merged = some o ∧ o.disp = (firstRound f (rowCtx f row) recs).disp) ∧
          (∀ mid, m.round ≠ 0 → row.mid = some mid → row.merged = none → good none →
            let z2 := recs.flatMap fun b => (List.range (byteAt b 9)).map fun k => (leAt b (32 + 8 * k) 4, f32At b (36 + 8 * k))
            ∃ o, got = { row with merged := some o } ∧ o.disp = (decideServe f (rowCtx f row) mid z2).1 ∧
              (o.disp = .normal ∨ o.disp = .tie → o.token = (decideServe f (rowCtx f row) mid z2).2.token))) ∧
        u.pad = s.pad ∧ u.fuses = s.fuses) ∧
      (s.getF fXM_CNT < m.rnd * m.g.c → exec (.mergeRoundComplete ln cured late) s = .next s))) ∧
  (∀ l : List Disp, groupDisp l = if Disp.poison ∈ l then .poison else if Disp.tie ∈ l then .tie else if Disp.normal ∈ l then .normal else .empty) ∧
  (∀ (compat : Bool) (l rl : List (F32 × F32)), (groupSums compat l rl).a = maxF (l.map (·.1)) ∧
    (groupSums compat l rl).s = (l.map fun x => cfExpfx compat x.1 (maxF (l.map (·.1)))).sum) ∧
  (∀ (f : Flight) (m : MergeCtx) (i : Nat) (r : RowState) (o : RowOut) (scr : RowScreen), r.out = some o → r.scr = some scr → o.disp = .normal →
    let st := rowStats f r scr
    ((rolloutRecord f m i r).drop 9).take 1 = leBytes 1 0 ∧ ((rolloutRecord f m i r).drop 12).take 4 = leBytes 4 (o.token.getD 0xFFFFFFFF) ∧
    ((rolloutRecord f m i r).drop 24).take 4 = f32Bytes (partA st.mStar st.sStar) ∧
    ((rolloutRecord f m i r).drop 28).take 4 = f32Bytes (((XR.of st.mStar).sub (.fin ⟨st.mom, Nat.max 1 st.sStar⟩)).toF32 .even)) ∧
  (∀ (f : Flight) (m : MergeCtx) (i : Nat) (r : RowState) (recs : List (Array Byte)), r.entry = none → f.prog.paired = false →
    let d := groupDisp (recs.map fun a => dispOfCode (byteAt a 9))
    let o := mergeRollout f m i r recs
    let g := groupSums f.compat ((recs.filter fun a => dispOfCode (byteAt a 9) == .normal).map fun a => (f32At a 24, f32At a 28)) []
    o.disp = d ∧
    (d = .tie → o.tieN = (recs.map fun a => leAt a 32 4).sum ∧ o.lp = negLn f.compat o.tieN) ∧
    (d = .normal → (∀ k, k < recs.length → dispOfCode (byteAt (recs.getD k #[]) 9) = .normal → leAt (recs.getD k #[]) 12 4 ≠ 0xFFFFFFFF →
      (∀ j, j < recs.length → dispOfCode (byteAt (recs.getD j #[]) 9) = .normal → leAt (recs.getD j #[]) 12 4 ≠ 0xFFFFFFFF → j ≠ k →
        orderKey (f32At (recs.getD j #[]) 16) < orderKey (f32At (recs.getD k #[]) 16) ∨
        orderKey (f32At (recs.getD j #[]) 16) = orderKey (f32At (recs.getD k #[]) 16) ∧ leAt (recs.getD k #[]) 12 4 < leAt (recs.getD j #[]) 12 4) →
      o.token = some (leAt (recs.getD k #[]) 12 4) ∧ o.lp = logprobOf (f32At (recs.getD k #[]) 20) g.a g.s)))

/-- R351, R433 to R436: DIGEST, once the writes of its step are acknowledged, the `NOTE` words of step 5 included, weighs the tile words by 2x + 1 and the row words by 2r + 1, keeps the tile words in the digest log and with `WR` writes the pair as 16 bytes; a step that is compared sends the pair to the peer and waits, with its digest in hand, until the peer's pair is there, and one equal to its own ends the comparison. A bisection round keeps the half in which the sums differ, and the last one sets `MISMATCH` with its tile; that both words are compared, with the step number and the round in the high one, is log entry 80 (DEDUCED). -/
def Obligations.DigestsAreWeighedLoggedAndBisected : Prop :=
  (∀ (l : List Nat), weighSum l 0 = ((List.range l.length).map fun x => l.getD x 0 * (2 * x + 1)).sum % 2 ^ 64) ∧
  (∀ (s0 : State) (ln : Nat) (f0 : Flight) (wr cmp : Bool) (a : Nat), s0.flight ln = some f0 → f0.normal = none →
    f0.prog.digest = some (wr, cmp, a) → f0.digestOver = false → f0.emitted = true → s0.flightQuiet ln = true → s0.sync.cmpLn = none →
    s0.digestTurn f0 = true →
    let s := s0.closeEmit f0
    (f0.complete = true → s = s0) ∧ (s.flightQuiet ln = false → exec (.digest ln) s0 = .next s) ∧
    ∃ f, s.flight ln = some f ∧ f = { f0 with complete := true } ∧
    (s.flightQuiet ln = true →
    let words := s.loggedWords (tileWords f)
    let lo := weighSum words 0
    let hi := weighSum (f.rowBytes.map fun b => (crc32c b).toNat) 0
    (s.compares cmp = false → ∃ u, exec (.digest ln) s0 = .next u ∧ Becomes s u ln { f with digLo := lo, digHi := hi, digested := true } ∧
      u.sync = { s.sync with log := words } ∧ u.regs = s.regs ∧ (wr = false → u.mem = s.mem ∧ u.out = s.out) ∧
      (wr = true → SameMemBut s u a 16 ∧ Written s u a (leBytes 8 lo ++ leBytes 8 hi))) ∧
    (s.compares cmp = true → s.sync.delivered = false → ∃ u, exec (.digest ln) s0 = .next u ∧
      Becomes s u ln { f with digLo := lo, digHi := hi } ∧ u.sync = { s.sync with log := words, cmpLn := some ln } ∧ u.regs = s.regs ∧
      ∃ o ∈ u.out, o.port = .hport ∧ o.addr = s.getF fDIGEST_PEER) ∧
    (s.compares cmp = true → s.sync.delivered = true → s.sync.bisect = none → s.getF fDG_LO = lo → s.getF fDG_HI = hi →
      ∃ u, exec (.digest ln) s0 = .next u ∧ Becomes s u ln { f with digLo := lo, digHi := hi, digested := true } ∧
      u.sync.cmpLn = none ∧ u.sync.delivered = false ∧ u.regs = s.regs))) ∧
  (∀ (s : State) (ln : Nat) (f : Flight) (lo hi j : Nat), s.flight ln = some f → s.sync.cmpLn = some ln → s.sync.bisect = some (lo, hi, j) →
    let mid := (lo + hi) / 2
    let same := s.getF fDG_LO == s.roundSum lo mid && s.getF fDG_HI == 2 ^ 32 * f.prog.stepId + j
    let p := if same then (mid, hi) else (lo, mid)
    (s.sync.delivered = false → exec .digestBisectRound s = .next s) ∧
    (s.sync.delivered = true → 1 < p.2 - p.1 → ∃ u, exec .digestBisectRound s = .next u ∧ u.sync.bisect = some (p.1, p.2, j + 1) ∧
      u.sync.delivered = false ∧ u.sync.cmpLn = some ln ∧ u.regs = s.regs ∧ u.flights = s.flights) ∧
    (s.sync.delivered = true → p.2 - p.1 ≤ 1 → ∃ u g, exec .digestBisectRound s = .next u ∧ u.mismatch = true ∧
      u.getF fFIRST_TILE = p.1 % 2 ^ 24 ∧ u.getF fLS_STEP_ID = f.prog.stepId % 2 ^ 32 ∧ u.sync.cmpLn = none ∧ u.sync.bisect = none ∧
      u.flight ln = some g ∧ g.digested = true ∧ u.fuses = s.fuses))

/-! REPACK, mask sets, tables, NORMAL (chapters 02, 05, 06, 09). -/

/-- R45, R49, R51, R54, R55, R79: a REPACK that starts puts its target in `BUILDING`; one whose turn has not come, or whose region is taken, waits; one that is refused, or whose descriptor comes poisoned, leaves every set and halts its queue; a complete build makes the set `READY` at its next epoch: every record of the window, sealed and with that epoch, stands at its places in Paddock and in host memory (R21, R46, R47), `PS_DEV` sums up the `DEVX` of its tokens, and the 64-byte report is written (R56); where a step's checks were put off, what they post may lie behind it in host memory; a stopped one leaves it `REFUSED` at its old epoch. -/
def Obligations.RepackStartsCompletesOrStops : Prop :=
  (∀ (s : State) (j : RepackJob) (rest : List RepackJob), Shaped s → s.repackQ = j :: rest → j.psid < 16 →
    let read := s.readHost 4 2 j.rd 128 (0xFFFFFFFF, j.queue)
    let a := (s.memAt j.rd 128).toArray
    let halts := j.queue < 32 ∧ s.halted j.queue = false ∧ ∃ d, (s.qx j.queue).item = some d ∧ d.order = j.order
    (s.repackReady j = false → exec .repackStart s = .next s) ∧
    (s.repackReady j = true → read.2.2 = false → s.repackRefusal j.psid a (parseRepack a) = none →
      (s.regionWaits j.psid j.ln (parseRepack a) = true → exec .repackStart s = .next s) ∧
      (s.regionWaits j.psid j.ln (parseRepack a) = false → ∃ u r, exec .repackStart s = .next u ∧ u.repack = some r ∧ r.job = j ∧
        r.desc = parseRepack a ∧ r.lost = false ∧ u.repackQ = rest ∧
        u.getF (fPS_STATE j.psid) = 1 ∧ u.getF (fPS_EPOCH j.psid) = s.getF (fPS_EPOCH j.psid) ∧
        (∀ n, n < 16 → n ≠ j.psid → u.getF (fPS_STATE n) = s.getF (fPS_STATE n)) ∧ u.mem = s.mem ∧ u.pad = s.pad ∧ u.flights = s.flights)) ∧
    (s.repackReady j = true → read.2.2 = true ∨ (∃ st, s.repackRefusal j.psid a (parseRepack a) = some st) →
      ∃ u, exec .repackStart s = .next u ∧ u.repack = none ∧ (halts → u.halted j.queue = true ∧ u.getF (fQ_HALT j.queue) = 7) ∧
      (∀ n, n < 16 → u.getF (fPS_STATE n) = s.getF (fPS_STATE n) ∧ u.getF (fPS_EPOCH n) = s.getF (fPS_EPOCH n)) ∧
      u.pad = s.pad ∧ u.flights = s.flights)) ∧
  (∀ (s : State) (r : RepackRun), s.repack = some r → r.job.psid < 16 →
    (r.lost = false → s.windowFail r.desc = none →
      (∃ u, exec .repackComplete s = .next u ∧ u.repack = none ∧ u.getF (fPS_STATE r.job.psid) = 2 ∧
        u.getF (fPS_EPOCH r.job.psid) = epochAfter (s.getF (fPS_EPOCH r.job.psid)) ∧ u.scrub = (0, 0, 0) ∧ u.fuses = s.fuses ∧
        (∀ k, k < 3 → u.getF (fPS_RES r.job.psid k) = if r.desc.placedIn k then 1 else 0) ∧
        let d := r.desc
        let epoch := epochAfter (s.getF (fPS_EPOCH r.job.psid))
        let built := (s.buildSlabs r s.freeCtr epoch (List.range d.slabs) s.sorrel).1
        let recs := built.flatMap (·.recs)
        let devs := built.flatMap (·.devs)
        let mx := devs.foldl (fun m x => Nat.max m x.2) 0
        let tok := ((devs.find? fun x => x.2 == mx).map (·.1)).getD 0xFFFFFF
        let dx := u.getF (fPS_DEVX r.job.psid)
        let report := reportBytes d (if d.lean then 1 else 0) (if r.dither then 1 else 0) epoch
          { status := 0, failTok := 0xFFFFFFFF, failIdx := 0xFFFF, devx := dx, devCnt := u.getF (fPS_DEVCNT r.job.psid)
            devTok := if dx = 0 then 0xFFFFFFFF else u.getF (fPS_DEVTOK r.job.psid), cycles := (Config.free64 s.freeCtr).toNat }
        let inPad (x : BuiltRec) (c b : Nat) : Prop := d.placedIn x.plane = true ∧ x.loc (r.view epoch true) = .pad c b
        let inHost (x : BuiltRec) (a : Nat) : Prop := d.hostPlane x.plane = true ∧ x.loc (r.view epoch false) = .host a
        (∀ x ∈ recs, sealOk x.bytes = true ∧ recEpoch x.bytes.toArray = epoch ∧ recPsid x.bytes.toArray = r.job.psid) ∧
        (∀ sl c, sl < d.slabs → c < d.hd → ∃ x ∈ recs, x.plane = 0 ∧ x.slab = sl ∧ x.sub = c) ∧
        (∀ id p, d.vLo ≤ id → id < d.vHi → p = 1 ∨ p = 2 → ∃ x ∈ recs, x.plane = p ∧ x.slab = (id - d.vLo) / 64 ∧ x.sub = id) ∧
        (∀ l x rest c b, recs = l ++ x :: rest → inPad x c b →
          (∀ y ∈ rest, ∀ c' b', inPad y c' b' → Apart (padKey c b) x.bytes.length (padKey c' b') y.bytes.length) →
          u.padAt c b x.bytes.length = x.bytes) ∧
        dx = mx % 2 ^ 8 ∧ u.getF (fPS_DEVCNT r.job.psid) = devs.countP (fun x => x.2 != 0) % 2 ^ 24 ∧
        u.getF (fPS_DEVTOK r.job.psid) = (if mx = 0 then 0xFFFFFF else tok) % 2 ^ 24 ∧ report.length = 64 ∧
        ((∀ q e, q < 32 → (s.qx q).item = some e → e.defer = false) →
          Written s u d.report report ∧
          (∀ l x rest a, recs = l ++ x :: rest → inHost x a → (∀ m ∈ s.messages none true a x.bytes.length, s.portUp m.1 = true) →
            (∀ y ∈ rest, ∀ a', inHost y a' → Apart a x.bytes.length a' y.bytes.length) → Apart a x.bytes.length d.report 64 →
            u.memAt a x.bytes.length = x.bytes) ∧
          ∀ k, (∀ x ∈ recs, ∀ a, inHost x a → k < a ∨ a + x.bytes.length ≤ k) → k < d.report ∨ d.report + 64 ≤ k →
            Store.read memDefault u.mem k = Store.read memDefault s.mem k)) ∧
      exec .repackStop s = .next s) ∧
    (r.lost = true ∨ s.windowFail r.desc ≠ none →
      (∃ u, exec .repackStop s = .next u ∧ u.repack = none ∧ u.getF (fPS_STATE r.job.psid) = 3 ∧
        u.getF (fPS_EPOCH r.job.psid) = s.getF (fPS_EPOCH r.job.psid) ∧ u.fuses = s.fuses) ∧
      exec .repackComplete s = .next s))

/-- R128, R129: the oldest load ends once no earlier step holds it: the set has its base, length and bits, or is unloaded after a poisoned read. No other set changes. R229, R230: a NORMAL takes its turn in the arrays and writes its values in order, in its output format, be they samples or what a program makes of them; no other byte of memory changes. -/
def Obligations.MaskLoadsAndNormalsWriteTheirResults : Prop :=
  (∀ (s : State) (j : MaskJob) (rest : List MaskJob), Shaped s → s.maskJobs = j :: rest → j.set < 64 → j.queue < 32 →
    (s.maskBusy j = true → exec .maskLoadComplete s = .next s) ∧
    (s.maskBusy j = false → ∃ u, exec .maskLoadComplete s = .next u ∧ u.maskJobs = rest ∧ (u.qx j.queue).loads = (s.qx j.queue).loads - 1 ∧
      (∀ k, k ≠ j.set → u.masks.getD k none = s.masks.getD k none) ∧
      u.masks.getD j.set none = (if (s.peek j.src (j.len / 8)).2 = true then none
        else some { base := j.base, len := j.len, bits := s.memAt j.src (j.len / 8) }) ∧
      u.mem = s.mem ∧ u.flights = s.flights ∧ u.pad = s.pad)) ∧
  (∀ (s : State) (ln : Nat) (f : Flight) (d : NormalDesc), s.flight ln = some f → f.normal = some d → f.emitted = false → f.complete = false →
    (s.arraysFree ln = false → exec (.normal ln) s = .next s) ∧
    (s.arraysFree ln = true →
      let bytes := (List.range d.count).flatMap fun n => normalBytes d (s.laneValue f d n)
      (d.post < 128 ∨ (s.bad.any fun p => match p with | .laneCopy c _ => s.serving c | _ => false) = false →
        ∀ n, s.laneValue f d n = normalValue (s.bankWord f.bank) f.compat d n) ∧
      ∃ u, exec (.normal ln) s = .next u ∧ Becomes s u ln { f with emitted := true, gEmit := s.gc, gcDone := s.gc } ∧
      ((∀ m ∈ s.messages none true d.out bytes.length, s.portUp m.1 = true) →
        ∀ i, i < bytes.length → Store.read memDefault u.mem (d.out + i) = bytes.getD i 0) ∧ SameMemBut s u d.out bytes.length ∧
      bytes.length = d.count * (if d.ofmt = 0 then 4 else 2) ∧
      u = { s with mem := u.mem, out := u.out, link := u.link, flights := u.flights
                   freeCtr := s.freeCtr + (if d.post < 128 then 0 else 1) }))

/-- R155: a commit passes its check or is `REFUSED` with its first failure, the active bank and epoch unchanged; the shadow reaches the lane copies and is `PASSED`; a drained bank is copied from the active one and is `IDLE`. While PD_SEL is not `ON` a commit stands still (log entry 144; DEDUCED). -/
def Obligations.CommitsAreCheckedCopiedAndDrained : Prop :=
  ∀ s : State, Shaped s →
    (s.selOn = false → ∀ c ∈ [Instr.commitCheckDone, .laneCopyDone, .bankDrainDone, .bankCopyDone], exec c s = .next s) ∧
    (s.selOn = true → s.getF fSHADOW_ST = 1 → s.tabPassed = false → s.flag fFARRIER_UP = true →
      (commitCheck (s.bankWord s.shadowBank) = none → exec .commitCheckDone s = .next { s with tabPassed := true }) ∧
      (∀ f, commitCheck (s.bankWord s.shadowBank) = some f → ∃ u, exec .commitCheckDone s = .next u ∧ u.getF fSHADOW_ST = 3 ∧
        u.tabQueue = none ∧ u.getF fCF_EPOCH = s.getF fCF_EPOCH ∧ u.getF fBANK_ACT = s.getF fBANK_ACT ∧ u.banks = s.banks ∧
        (∀ q, s.tabQueue = some q → q < 32 → s.halted q = false → u.halted q = true ∧ u.getF (fQ_HALT q) = 8 ∧
          u.getF (fQ_HEAD q) = s.getF (fQ_HEAD q)) ∧ u.flights = s.flights ∧ u.fuses = s.fuses)) ∧
    (s.selOn = true → s.getF fSHADOW_ST = 1 → s.tabPassed = true → ∃ u, exec .laneCopyDone s = .next u ∧ u.getF fSHADOW_ST = 2 ∧
      u.getF fPEND_EPOCH = nextEpoch (s.getF fCF_EPOCH) ∧ u.getF fCF_EPOCH = s.getF fCF_EPOCH ∧ u.tabQueue = none ∧ u.banks = s.banks ∧
      (∀ cl o, cl < 16 → o < 2 ^ 16 → u.laneWord cl s.shadowBank o =
        if s.serving cl = true then s.bankWord s.shadowBank o else s.laneWord cl s.shadowBank o) ∧ u.mem = s.mem) ∧
    (s.selOn = true → s.getF fSHADOW_ST = 4 → (∀ f ∈ s.flights, f.bank = s.activeBank) → ∃ u, exec .bankDrainDone s = .next u ∧ u.getF fSHADOW_ST = 5 ∧
      (∀ o, o ≠ rCF → u.reg o = s.reg o) ∧ u = { s with regs := u.regs }) ∧
    (s.getF fSHADOW_ST = 4 → (∃ f ∈ s.flights, f.bank ≠ s.activeBank) → exec .bankDrainDone s = .next s) ∧
    (s.selOn = true → s.getF fSHADOW_ST = 5 → ∃ u, exec .bankCopyDone s = .next u ∧ u.getF fSHADOW_ST = 0 ∧
      (∀ o, o < 2 ^ 16 → u.bankWord s.shadowBank o = s.bankWord s.activeBank o ∧ u.bankWord s.activeBank o = s.bankWord s.activeBank o) ∧
      (∀ o, o ≠ rCF → u.reg o = s.reg o) ∧ u.mem = s.mem ∧ u.flights = s.flights)

/-! Requests (chapter 11). -/

/-- R270: the next entry in `ADMIT` is checked in order, and the first failing check makes it `FAULT` with its reason; one that passes every check is `ACTIVE`, with `HPROMPT` latched and `LAST_GC` the gate counter's low word. R273, R276: a deadline that has passed ends an idle request as `EXPIRED`, and touches no other entry; ageing sets `EPRIO` of the requests that run or pause from their wait, and nothing else. While PD_HAL is not `ON` none of it happens (log entry 144; DEDUCED). -/
def Obligations.RequestsAreAdmittedAgedAndExpired : Prop :=
  (∀ s : State, s.halOn = false → ∀ c ∈ [Instr.admission, .deadlineScan, .ageing, .yarrowBlock], exec c s = .next s) ∧
  (∀ (s : State) (n : Nat), s.nextAdmit = some n → s.halOn = true →
    (s.fieldsAdmit n = false → ∃ u, exec .admission s = .next u ∧ u.eState n = 7 ∧ u.getF (fE_REASON n) = 0x10 ∧
      (∀ o, o ≠ rENT n 0 → u.reg o = s.reg o) ∧ u.flights = s.flights ∧ u.stops = s.stops ∧ u.reqs = s.reqs) ∧
    (s.fieldsAdmit n = true →
      let p := s.readParam (s.getF (fE_PB n))
      let fails (reason : Nat) := ∃ u, exec .admission s = .next u ∧ u.eState n = 7 ∧ u.getF (fE_REASON n) = reason ∧
        u.flights = s.flights ∧ u.fuses = s.fuses
      (p.2 = none ∨ (∃ b, p.2 = some b ∧ paramOk b (s.flag (fE_CLASS n)) p.1.maskLoaded = false) → fails 0x11) ∧
      ∀ b, p.2 = some b → paramOk b (s.flag (fE_CLASS n)) p.1.maskLoaded = true →
        let t := p.1.admitStop n
        let r := t.1.admitRing n
        let h := r.1.admitHist n b.histPrompt
        (t.2 = false → fails 0x12) ∧
        (t.2 = true → r.2 = false → fails 0x13) ∧
        (t.2 = true → r.2 = true → h.2.1 = false → fails 0x14) ∧
        (t.2 = true → r.2 = true → h.2.1 = true → s.flag (fE_YEN n) = true → s.keySet (s.getF (fE_TENANT n)) = false → fails 0x15) ∧
        (t.2 = true → r.2 = true → h.2.1 = true → (s.flag (fE_YEN n) = true → s.keySet (s.getF (fE_TENANT n)) = true) →
          ∃ u, exec .admission s = .next u ∧ u.eState n = 2 ∧ u.getF (fE_REASON n) = 0 ∧ u.flag (fE_HPROMPT n) = b.histPrompt ∧
          u.getF (fE_LASTGC n) = s.gc % 2 ^ 32 ∧ u.flights = s.flights ∧ u.fuses = s.fuses))) ∧
  (∀ s : State, s.halOn = true →
    (∃ u, exec .deadlineScan s = .next u ∧ u.flights = s.flights ∧ u.fuses = s.fuses ∧ u.reqs = s.reqs ∧ ∀ n, n < 8192 →
      ((s.eState n = 2 ∨ s.eState n = 3) ∧ s.getF (fE_INFL n) = 0 ∧ s.getF (fE_DEADLINE n) < s.gc →
        u.eState n = 6 ∧ u.getF (fE_REASON n) = 6 ∧ (∀ r ∈ u.rets, r.slot ≠ n) ∧ ∀ w, w ≠ 0 → w < 16 → u.word n w = s.word n w) ∧
      (¬((s.eState n = 2 ∨ s.eState n = 3) ∧ s.getF (fE_INFL n) = 0 ∧ s.getF (fE_DEADLINE n) < s.gc) → ∀ w, w < 16 → u.word n w = s.word n w)) ∧
    (s.getF fAGE_Q = 0 → exec .ageing s = .next s) ∧
    (s.getF fAGE_Q ≠ 0 → ∃ u, exec .ageing s = .next u ∧ u = { s with regs := u.regs } ∧ ∀ n, n < 8192 →
      ((s.eState n = 2 ∨ s.eState n = 3) → u.getF (fE_EPRIO n) =
        Nat.min 3 (s.getF (fE_PRIO n) + (2 ^ 32 + s.gc % 2 ^ 32 - s.getF (fE_LASTGC n)) % 2 ^ 32 / s.getF fAGE_Q)) ∧
      (s.eState n ≠ 2 → s.eState n ≠ 3 → ∀ w, w < 16 → u.word n w = s.word n w)))

/-! Farrier, watchdogs, damage (chapters 11, 15, 18). -/

/-- R474, R475, R481 to R485: Farrier disposes of the exception at the front of its queue, which enters the fault log with what the disposition logs, and `EXQ_DROP.HIGH` keeps the depth that the queue had (R413); the command that disposes of another kind leaves the state, and with the queue empty or Farrier down every one does (log entry 27; DESIGN CHOICE). What is logged as data is log entry 15 (DEDUCED). A repair rewrites the damaged words of a record from a good host copy, and a word that stays bad is reported; a scrubbed record is rewritten from Paddock. Its reset ends the commit check and is counted, and the exception in hand is lost; it is up again at its restart; a telemetry period writes its record, or is skipped while Farrier sheds work or is down: the lost exception and the periods skipped while down are log entry 88 (DEDUCED). -/
def Obligations.FarrierDisposesResetsAndReports : Prop :=
  (∀ (s : State) (x : Exc) (e : EvRec) (n : Nat) (r : List (Exc × EvRec × Nat)), s.far.exq = (x, e, n) :: r → s.flag fFARRIER_UP = true →
    let logged (data : List Nat) := (s.far.log ++ [LogEntry.mk e n 8 data]).drop (s.far.log.length + 1 - 64)
    let shed := s.far.shed && decide (64 ≤ r.length)
    let popped (u : State) : Prop := u.getF fEXQ_HIGH = Nat.max (s.getF fEXQ_HIGH) (r.length + 1) % 2 ^ 9 ∧ ∀ o, o ≠ fEXQ_HIGH.off → u.reg o = s.reg o
    (∀ (c : Instr) (data : List Nat), ((∃ p, x = .linkLog p ∧ c = .linkLog ∧
          data = ((s.link.capture.find? fun k => k.1 == p).elim [] (·.2)).flatMap fun l => l.map BitVec.toNat) ∨
        (∃ l, x = .lockstepLog l ∧ c = .lockstepLog ∧ data = l ++ [s.getF fFIRST_TILE]) ∨ (∃ k, x = .staleFail k data ∧ c = .staleFail) ∨
        (∃ k b, x = .sorrelCheck k ∧ c = .sorrelCheck b ∧ data = [b.toNat]) ∨ ((∃ p, x = .ceStorm p) ∧ c = .ceStorm false ∧ data = []) ∨
        (∃ cl w ps hard g, x = .padRepair cl w ps ∧ (s.psReady ps = false ∨ wordRecord (s.planeView ps) cl w = none) ∧
          c = .padRepair hard g ∧ data = [])) →
      ∃ u, exec c s = .next u ∧ u.far.exq = r ∧ u.far.log = logged data ∧ u.far.shed = shed ∧ popped u ∧ u = { s with regs := u.regs, far := u.far }) ∧
    (((∀ p, x ≠ .linkLog p) → exec .linkLog s = .next s) ∧ ((∀ l, x ≠ .lockstepLog l) → exec .lockstepLog s = .next s) ∧
      ((∀ k l, x ≠ .staleFail k l) → exec .staleFail s = .next s) ∧ ((∀ k, x ≠ .sorrelCheck k) → ∀ b, exec (.sorrelCheck b) s = .next s) ∧
      ((∀ p, x ≠ .ceStorm p) → ∀ b, exec (.ceStorm b) s = .next s) ∧ ((∀ ps ref, x ≠ .scrubFix ps ref) → exec .scrubFix s = .next s) ∧
      ((∀ cl w ps, x ≠ .padRepair cl w ps) → ∀ hard g, exec (.padRepair hard g) s = .next s)) ∧
    (∀ p, x = .ceStorm p → ∃ u, exec (.ceStorm true) s = .next u ∧ u.far.exq = r ∧ u.far.log = logged [] ∧ u.far.shed = shed ∧
      u.flag (fERR_CLASS 17) = true ∧ u.flights = s.flights ∧ u.fuses = s.fuses ∧ u.queues = s.queues) ∧
    (∀ cl w ps hard g y c b, x = .padRepair cl w ps → s.psReady ps = true → wordRecord (s.planeView ps) cl w = some y →
      y.loc (s.planeView ps) = .pad c b → ∃ u, exec (.padRepair hard g) s = .next u ∧ u.far.exq = r ∧ u.far.log = logged [] ∧
      u.far.shed = shed ∧ u.flights = s.flights ∧ u.fuses = s.fuses ∧ u.queues = s.queues ∧
      ((s.useOf (s.planeView ps).atHost y g).1 = false → u.pad = s.pad ∧ u.bad = s.bad) ∧
      ((s.useOf (s.planeView ps).atHost y g).1 = true →
        let bs := (s.checkRecord (s.planeView ps).atHost y).2
        ∀ k, .planeRegion c k ∈ s.bad → b ≤ 8 * k → 8 * k + 8 ≤ b + y.size (s.planeView ps) → 8 * k + 8 ≤ b + bs.length →
          (k ∉ hard → .planeRegion c k ∉ u.bad) ∧ (k ∈ hard → .planeRegion c k ∈ u.bad ∧ u.flag (fERR_CLASS 17) = true))) ∧
    (∀ ps ref, x = .scrubFix ps ref →
      let v := s.planeView ps
      let y := recIdOf v ref
      let d := s.readLoc (y.loc v) (y.size v)
      let a := (y.loc v.atHost).hostAddr
      ∃ u, exec .scrubFix s = .next u ∧ u.far.exq = r ∧ u.far.log = logged [] ∧ u.far.shed = shed ∧ u.flights = s.flights ∧
      popped u ∧ SameMemBut s u a d.bytes.size ∧
      (s.psReady ps = true → v.resident y.plane = true → v.hostBase y.plane ≠ 0 → d.pois = false →
        (∀ m ∈ s.messages none true a d.bytes.size, s.portUp m.1 = true) →
        ∀ i, i < d.bytes.size → Store.read memDefault u.mem (a + i) = d.bytes.toList.getD i 0) ∧
      (s.psReady ps = false ∨ v.resident y.plane = false ∨ v.hostBase y.plane = 0 ∨ d.pois = true → u = { s with regs := u.regs, far := u.far }))) ∧
  (∀ s : State, s.far.exq = [] ∨ s.flag fFARRIER_UP = false →
    ∀ c : Instr, (c ∈ [Instr.linkLog, .lockstepLog, .staleFail, .scrubFix] ∨ (∃ b, c = .sorrelCheck b ∨ c = .ceStorm b) ∨
      (∃ l b, c = .padRepair l b)) → exec c s = .next s) ∧
  (∀ s : State,
    (s.flag fFARRIER_UP = true → s.far.mailbox = none → ∃ u, exec .farrierReset s = .next u ∧ u.flag fFARRIER_UP = false ∧
      u.getF fFR_RST = Nat.min (2 ^ 16 - 1) (s.getF fFR_RST + 1) ∧ u.far.exq = s.far.exq.drop 1 ∧
      u.getF fSHADOW_ST = (if s.getF fSHADOW_ST = 1 ∧ s.tabPassed = false then 3 else s.getF fSHADOW_ST) ∧
      u.flights = s.flights ∧ u.fuses = s.fuses ∧ u.getF fCF_EPOCH = s.getF fCF_EPOCH) ∧
    (s.flag fFARRIER_UP = true → ∀ cmd seq, s.far.mailbox = some (cmd, seq) → ∃ u, exec .farrierReset s = .next u ∧
      u.flag fFARRIER_UP = false ∧ u.getF fMSTAT = 3 ∧ u.far.mailbox = none ∧ u.flights = s.flights ∧ u.fuses = s.fuses) ∧
    (s.served = true → ∃ u, exec .farrierRestartDone s = .next u ∧ u.flag fFARRIER_UP = true ∧
      (∀ o, o ≠ fFARRIER_UP.off → u.reg o = s.reg o) ∧ u = { s with regs := u.regs }) ∧
    (s.far.telem = none → exec .telemetryPeriod s = .next s) ∧
    (∀ a per, s.far.telem = some (a, per) → s.far.shed = true ∨ s.flag fFARRIER_UP = false → ∃ u, exec .telemetryPeriod s = .next u ∧
      u.far.skipped = s.far.skipped + 1 ∧ u.far.num = s.far.num ∧ u = { s with far := u.far }) ∧
    (∀ a per, s.far.telem = some (a, per) → s.far.shed = false → s.flag fFARRIER_UP = true →
      ∃ u, exec .telemetryPeriod s = .next u ∧ u.far.num = s.far.num + 1 ∧ u.far.skipped = 0 ∧ s.telemetry.length = 256 ∧
      ((∀ m ∈ s.messages none true a 256, s.portUp m.1 = true) → ∀ i, i < 256 → Store.read memDefault u.mem (a + i) = s.telemetry.getD i 0) ∧
      SameMemBut s u a 256 ∧ u.regs = s.regs ∧ u.flights = s.flights))

/-- R479, R480: the step watchdog ends a step `ABORTED` with its records given up, and is counted, one that only waits for its status too; one aborted already stays. A request that times out puts its port in fault: a channel comes down, and nothing stays outstanding on it. RSP_TIMEOUT of a request that is not outstanding leaves the state (log entry 27; DESIGN CHOICE). -/
def Obligations.WatchdogsEndWhatIsLate : Prop :=
  ∀ s : State,
    (∀ ln f, s.flight ln = some f → f.cstat ≠ 1 → ∃ u g, exec (.stepTimeout ln) s = .next u ∧ Becomes s u ln g ∧
      g.cstat = 1 ∧ g.emitted = true ∧ g.mrDone = g.mrSent ∧ u.getF fSTEP_TO = Nat.min (2 ^ 16 - 1) (s.getF fSTEP_TO + 1) ∧
      u.sync.cmpLn ≠ some ln ∧ u.pad = s.pad ∧ u.fuses = s.fuses) ∧
    (∀ ln f, s.flight ln = some f → f.cstat = 1 → exec (.stepTimeout ln) s = .next s) ∧
    (∀ p tag, s.findOut p tag = none → exec (.rspTimeout p tag) s = .next s) ∧
    (∀ tag, s.findOut .hport tag ≠ none → ∃ u, exec (.rspTimeout .hport tag) s = .next u ∧ u.getF fLSTATE = 5 ∧ u.getF fTK_FAIL = 6 ∧
      u.flag (fERR_CLASS 11) = true ∧ u.flights = s.flights ∧ u.fuses = s.fuses) ∧
    (∀ n tag, n < 16 → s.findOut (.mc n) tag ≠ none → ∃ u, exec (.rspTimeout (.mc n) tag) s = .next u ∧ u.flag (fMC_UP n) = false ∧
      u.flag (fERR_CLASS 11) = true ∧ (∀ o ∈ u.out, o.port ≠ .mc n) ∧ u.getF fLSTATE = s.getF fLSTATE ∧ u.fuses = s.fuses)

/-- R470, R471, R475, R478, R221, R226, R227: a corrected word is counted and changes no data; an uncorrectable one is counted once, until it is written anew, and hits the part that holds it; the scrubber takes its records in order and counts its passes; a window posts its record when it closes; a lane that has drawn its 2^16 chunks takes its jitter word, which its health test compares, and four repeats in a row are reported; under `STRICT` none reseeds. A word of a domain that is not `ON` is not read (log entry 144; DEDUCED). That every SRAM part counts in `CE_SRAM` and `UE_SRAM` is log entry 87 (DEDUCED). -/
def Obligations.DamageIsCountedAndReported : Prop :=
  ∀ s : State,
    (∀ part double storm syn, s.domainOn (partDomain part) = false → exec (.sramPatrol part double storm syn) s = .next s) ∧
    (∀ part storm syn, s.domainOn (partDomain part) = true → ∃ u, exec (.sramPatrol part false storm syn) s = .next u ∧
      u.getF fCE_SRAM = Nat.min (2 ^ 32 - 1) (s.getF fCE_SRAM + 1) ∧ u.pad = s.pad ∧ u.bad = s.bad ∧ u.flights = s.flights ∧ u.mem = s.mem) ∧
    (∀ part storm syn, part ∈ s.bad → exec (.sramPatrol part true storm syn) s = .next s) ∧
    (∀ part storm syn, s.domainOn (partDomain part) = true → part ∉ s.bad → ∃ u, exec (.sramPatrol part true storm syn) s = .next u ∧
      u.getF fUE_SRAM = Nat.min (2 ^ 32 - 1) (s.getF fUE_SRAM + 1) ∧ u.flag (fERR_CLASS 1) = true ∧ u.fuses = s.fuses ∧
      (partRestored part = false → part ∈ u.bad) ∧ (∀ cl w, part = .laneCopy cl w → u.flights = s.flights) ∧
      (∀ t w, part = .tenantKey t w → u.keySet t = false)) ∧
    (s.flag fSCRUB_EN = false → ∀ g, exec (.scrubRead g) s = .next s) ∧
    (∀ g, s.flag fSCRUB_EN = true →
      let here := scrubFrom s.scrubPlanes s.scrub
      let first := scrubFrom s.scrubPlanes (0, 0, 0)
      (here = none → first = none → exec (.scrubRead g) s = .next s) ∧
      (∀ p v x, here = some (p, v, x) ∨ (here = none ∧ first = some (p, v, x)) →
        let after := scrubFrom s.scrubPlanes (p.1, p.2.1, p.2.2 + 1)
        ∃ u, exec (.scrubRead g) s = .next u ∧ u.scrub = (match after with | some q => q.1 | none => (0, 0, 0)) ∧
        u.getF fPASSES = (s.getF fPASSES + (if here = none then 1 else 0) + (if after = none then 1 else 0)) % 2 ^ 32 ∧
        u.pad = s.pad ∧ u.flights = s.flights)) ∧
    (∀ a b, exec (.coalesceWindowClose (.rowCode a b)) s = .next s) ∧
    (∀ k e, (∀ a b, k ≠ .rowCode a b) → s.ev.coal.find? (fun p => p.1 == k) = some (k, e) → ∃ u, exec (.coalesceWindowClose k) s = .next u ∧
      u.ev.coal = s.ev.coal.filter (fun p => !(p.1 == k)) ∧ u.ev.seq = (s.ev.seq + 1) % 2 ^ 32 ∧ u.flights = s.flights ∧ u.fuses = s.fuses) ∧
    (∀ cl lane j nb k a, s.sorrel.find? (fun p => p.1 == laneKey cl lane) = some (k, a) →
      (s.strict = true ∨ a.count < 65536 → exec (.sorrelReseed cl lane j nb) s = .next s) ∧
      (s.strict = false → 65536 ≤ a.count →
        let fails := if j = a.last ∨ j = nb then a.fails + 1 else 0
        ∃ u x, exec (.sorrelReseed cl lane j nb) s = .next u ∧ u.sorrel = putLane s.sorrel k ⟨x, a.count - 65536, j, fails⟩ ∧
        (a.count = 65536 → x = if a.x ^^^ j = 0 then 1 else a.x ^^^ j) ∧ x ≠ 0 ∧ u.flights = s.flights ∧ u.pad = s.pad ∧
        (fails < 4 → u = { s with sorrel := u.sorrel, freeCtr := s.freeCtr + 1 }) ∧
        (4 ≤ fails → cl < 16 → s.far.sorrelOff.getD cl 0 = 0 → u.flag (fERR_CLASS 15) = true ∧
          (cl < s.far.sorrelOff.length → u.far.sorrelOff.getD cl 0 = 1000))))

/-! The ports (chapter 14). -/

/-- R354, R364, R367, R371, R386, R388, R389: a response retires the request with its tag, and what waited for its tag or for credits is sent; the last response of a remote operation ends it, and a failure posts `REMOTE_ERR`; the words of a GET are kept as they arrive, granule by granule, and written at its destination when all are there, and a mark on any of them fails it; a granule arrives with its data and its mark, under a header that copies `LENW` of its request (R366); an ordering answer reaches the FENCE that asked; credits return no further than the peer's grant. A response that names no request changes nothing, but for the data that a read brings (log entries 27 and 119, DESIGN CHOICE): those of a read that the model answers at once are installed at their address (log entry 35, DESIGN CHOICE), an error response as its mark (log entry 142, DESIGN CHOICE). -/
def Obligations.ResponsesRetireWhatIsOutstanding : Prop :=
  ∀ s : State, Shaped s →
    (∀ tag st pois a l, s.findOut .hport tag = none →
      let mark : Mark := if pois = true then .pois else if st = rOK then .good else if st = rDATA then .errData else .err st
      let bs := l.flatMap fun w => leBytes 8 w.toNat
      let t := s.putAnswer a bs mark
      (s.served = true ∧ s.inWindow a = false ∧ (l ≠ [] ∨ mark ≠ .good) → exec (.hResponse tag st pois a l) s = .next t ∧
        (mark = .good → SameMemBut s t a bs.length ∧ ∀ i, i < bs.length → Store.read memDefault t.mem (a + i) = bs.getD i 0) ∧
        (mark ≠ .good → t.mem = s.mem) ∧ t.markAt (a / 128) = mark ∧ t = { s with mem := t.mem, memMark := t.memMark }) ∧
      (¬(s.served = true ∧ s.inWindow a = false ∧ (l ≠ [] ∨ mark ≠ .good)) → exec (.hResponse tag st pois a l) s = .next s)) ∧
    (∀ ch tag st, s.findOut (.mc ch) tag = none → exec (.mcWriteAck ch tag st) s = .next s) ∧
    (∀ (c : Instr) (o : Outstanding) (st : Nat), ((∃ tag a l, c = .hResponse tag st false a l ∧ s.findOut .hport tag = some o) ∨
        (∃ ch tag, c = .mcWriteAck ch tag st ∧ s.findOut (.mc ch) tag = some o)) →
      let t := State.pump { s with out := s.out.erase o } o.port
      (o.why = .plain → exec c s = .next t) ∧
      (∀ id q slot op a e, o.why = .remote id q slot op a e → q < 32 → (∀ x ∈ t.out, x.why.opKey ≠ o.why.opKey) →
        (st = rOK → e = none → ∃ u, exec c s = .next u ∧ (u.qx q).remote = (s.qx q).remote - 1 ∧ u = { t with queues := u.queues }) ∧
        (st ≠ rOK ∨ e ≠ none → ∃ u, exec c s = .next u ∧ (u.qx q).remote = (s.qx q).remote - 1 ∧ u.flag (fERR_CLASS 10) = true ∧
          u.flights = s.flights ∧ u.fuses = s.fuses)) ∧
      (∀ id q slot op a e, o.why = .remote id q slot op a e → (∃ x ∈ t.out, x.why.opKey = o.why.opKey) → st = rOK → exec c s = .next t) ∧
      (∀ ln f, o.why = .emit ln ∨ (∃ n, o.why = .prod ln n ∨ o.why = .mergeCnt ln n) → s.flight ln = some f →
        (f.emitted = true → t.flightQuiet ln = true → ∃ u, exec c s = .next u ∧ Becomes s u ln { f with gcDone := s.gc } ∧
          u = { t with flights := u.flights }) ∧
        (f.emitted = false ∨ t.flightQuiet ln = false → exec c s = .next t)) ∧
      (∀ ln n, o.why = .ringRec ln n → (∀ x ∈ t.out, x.why ≠ .ringRec ln n) → s.portUp (s.portOf (s.getF (fE_CB n))) = true →
        ∃ u, exec c s = .next u ∧ ∃ x ∈ u.out, x.addr = s.getF (fE_CB n) ∧ x.why = .prod ln n)) ∧
    (∀ tag st pois a l o, s.findOut .hport tag = some o → ∃ u, exec (.hResponse tag st pois a l) s = .next u ∧
      u.flights.length = s.flights.length ∧ u.pad = s.pad ∧ u.fuses = s.fuses) ∧
    (∀ tag a l o id q slot src dst n, s.findOut .hport tag = some o → o.why = .get id q slot src dst n none → 1 ≤ n → q < 32 →
      let t := State.pump { s with out := s.out.erase o } .hport
      let kept := t.gotten ++ [⟨id, o.addr, (l.flatMap fun w => leBytes 8 w.toNat).take o.len⟩]
      ((∃ x ∈ t.out, x.why.opKey = o.why.opKey) → ∃ u, exec (.hResponse tag rOK false a l) s = .next u ∧
        u = { t with mem := u.mem, gotten := kept } ∧
        SameMemBut s u o.addr o.len ∧ (o.len ≤ 8 * l.length → ∀ i, i < o.len →
          Store.read memDefault u.mem (o.addr + i) = (l.flatMap fun w => leBytes 8 w.toNat).getD i 0)) ∧
      ((∀ x ∈ t.out, x.why.opKey ≠ o.why.opKey) → (∀ m ∈ s.messages none true dst (8 * n), s.portUp m.1 = true) →
        ∃ u, exec (.hResponse tag rOK false a l) s = .next u ∧ (u.qx q).remote = (s.qx q).remote ∧ u.regs = s.regs ∧
        Written s u dst (({ t with gotten := kept } : State).gotBytes id src (8 * n)) ∧
        (∀ x ∈ u.gotten, x.id ≠ id) ∧ ∃ x ∈ u.out, x.addr = dst ∧ x.why = .remote id q slot 1 dst none)) ∧
    (∀ ch o q, s.out.find? (fun o => o.port == .mc ch && o.wait.isNone && (match o.why with | .ord _ => true | _ => false)) = some o →
      o.why = .ord q → q < 32 → ∃ u, exec (.mcOrdAck ch) s = .next u ∧
      (u.qx q).ords = (s.qx q).ords.map (fun l => l.filter fun c => c != ch) ∧
      u = { State.pump { s with out := s.out.erase o } o.port with queues := u.queues }) ∧
    (∀ ch tag a data mark, ch < 16 → s.flag (fMC_UP ch) = true → a % s.granule = 0 → s.inWindow a = true → s.channel a = ch →
      data.length = s.granule →
      let t := (s.tookGranule ch tag data mark).putGranule a data mark
      let bs (o : Outstanding) := ((data.take s.granule).take (o.addr + o.len - a)).drop (o.addr - a)
      t.link = s.link.takeMc ch (returnSegments (returnHeader tag (s.askedLenw ch tag) mark).word (data.take s.granule)) ∧
      (∀ o, s.findOut (.mc ch) tag = some o → s.askedLenw ch tag = o.hdr.lenw) ∧
      (mark = .good → SameMemBut s t a s.granule ∧ ∀ i, i < s.granule → Store.read memDefault t.mem (a + i) = data.getD i 0) ∧
      (mark ≠ .good → t.mem = s.mem) ∧ (∀ k, k < s.granule / 128 → t.markAt (a / 128 + k) = mark) ∧
      t = { s with freeCtr := s.freeCtr + 1, mem := t.mem, memMark := t.memMark, link := t.link } ∧
      (s.findOut (.mc ch) tag = none → exec (.mcReadResponse ch tag a data mark) s = .next t) ∧
      (∀ o id q slot src dst n, s.findOut (.mc ch) tag = some o → o.why = .get id q slot src dst n none → 1 ≤ n → q < 32 →
        let w : State := { t with gotten := t.gotten ++ [⟨id, Nat.max a o.addr, bs o⟩] }
        let x := t.poisonEvents 5 1 [(a, mark)]
        let v (y : State) : State := State.pump { y with out := y.out.erase o } o.port
        let left (y : State) : Prop := ∃ z ∈ (v y).out, z.why.opKey = o.why.opKey
        (a + s.granule ≤ o.addr ∨ o.addr + o.len ≤ a → exec (.mcReadResponse ch tag a data mark) s = .next t) ∧
        (o.addr < a + s.granule → a < o.addr + o.len →
          (mark = .good → a + s.granule < o.addr + o.len → exec (.mcReadResponse ch tag a data mark) s = .next w) ∧
          (mark = .good → o.addr + o.len ≤ a + s.granule → left w → exec (.mcReadResponse ch tag a data mark) s = .next (v w)) ∧
          (mark = .good → o.addr + o.len ≤ a + s.granule → ¬left w → (∀ m ∈ s.messages none true dst (8 * n), s.portUp m.1 = true) →
            ∃ u, exec (.mcReadResponse ch tag a data mark) s = .next u ∧ (u.qx q).remote = (s.qx q).remote ∧ u.regs = s.regs ∧
            Written s u dst ((v w).gotBytes id src (8 * n)) ∧ ∃ z ∈ u.out, z.addr = dst ∧ z.why = .remote id q slot 1 dst none) ∧
          (mark ≠ .good → a + s.granule < o.addr + o.len →
            exec (.mcReadResponse ch tag a data mark) s = .next (x.failOp o.why (markStatus mark))) ∧
          (mark ≠ .good → o.addr + o.len ≤ a + s.granule → ¬left x → ∃ u, exec (.mcReadResponse ch tag a data mark) s = .next u ∧
            (u.qx q).remote = (s.qx q).remote - 1 ∧ u.flag (fERR_CLASS 10) = true ∧ u.flights = s.flights ∧ u.fuses = s.fuses)))) ∧
    (∀ (y : State) (w : Purpose2) (st : Nat), y.failOp w st =
      { y with out := y.out.map fun o => if o.why.opKey = w.opKey then { o with why := o.why.fail st } else o }) ∧
    (∀ vc h d gh gd, s.link.inits.find? (fun x => x.1 == vc) = some (vc, gh, gd) →
      let k := vcIndex vc
      exec (.creditReturn vc h d) s = .next (State.pump { s with link := { s.link with
        hdr := s.link.hdr.set k (Nat.min gh (s.link.hdr.getD k 0 + h)), dat := s.link.dat.set k (Nat.min gd (s.link.dat.getD k 0 + d)) } } .hport)) ∧
    (∀ vc h d, s.link.inits.find? (fun x => x.1 == vc) = none → exec (.creditReturn vc h d) s = .next s)

/-- R376 to R381, R384, R387, R467, R489: the attach from its capability words over the mode and the credits to ONLINE, and its failures; the channels' capabilities choose the granule; a newer epoch is taken and breaks its agent's leases; a flit whose parity or header is wrong stops the link; quiesce, drain and isolation. `FARRIER_UP` at ONLINE is log entry 32 (DESIGN CHOICE); cause CHANNEL against TIMEOUT, a channel's `CAP` in NEGOTIATE and CREDIT, and ISOLATE from ONLINE are log entry 81 (DEDUCED); an EPOCH_NOTE while the link serves nothing is log entry 29 (DESIGN CHOICE). -/
def Obligations.LinkComesUpFailsAndDetaches : Prop :=
  ∀ s : State, Shaped s →
    (∀ cap ag ep, s.lstate = 1 → s.link.capSeen = false →
      (commonMode (getBits cap 0 3) (s.getF fVER_CAP) = none → ∃ u, exec (.capReceive .hport cap ag ep) s = .next u ∧
        u.getF fLSTATE = 5 ∧ u.getF fTK_FAIL = 1 ∧ u.reg 0x20008 = cap) ∧
      (∀ m, commonMode (getBits cap 0 3) (s.getF fVER_CAP) = some m → s.link.ackGot = none →
        ∃ u, exec (.capReceive .hport cap ag ep) s = .next u ∧ u.getF fLSTATE = 1 ∧ u.reg 0x20008 = cap ∧ u.getF fAGENT_ID = ag.toNat ∧
        u.link.ackSent = some m ∧ u.link.sent = s.link.sent ++ [(2, m)] ∧
        (u.flag fTK_EPOCHS = true ↔ m = 2 ∧ getBits cap 3 1 = 1) ∧ u.mem = s.mem)) ∧
    (∀ n (cap : Word64) ag ep, n < 16 → (s.lstate = 1 ∨ s.lstate = 2) → s.link.capMc.any (fun p => p.1 == n) = false →
      let caps := s.link.capMc ++ [(n, cap.toNat)]
      (caps.length < 16 → exec (.capReceive (.mc n) cap ag ep) s =
        .next { s with link := { (s.link.takeCap n Header.cap.word (leBytes 8 cap.toNat)) with capMc := caps } }) ∧
      (16 ≤ caps.length → (∀ p ∈ caps, p.1 < 16) → ∃ u, exec (.capReceive (.mc n) cap ag ep) s = .next u ∧ ∀ p ∈ caps,
        u.flag (fMC_UP p.1) = true ∧ u.flag (fMC_GRAN p.1) = caps.all (fun p => p.2 % 2 == 1 && s.flag (fGRAN_CAP p.1)))) ∧
    (s.lstate = 1 ∨ s.lstate = 2 → ∃ u, exec .capResend s = .next u ∧
      u.link.sent = s.link.sent ++ (if s.lstate = 1 ∧ s.link.capSeen = false then [(1, (s.reg 0x20000).toNat)] else []) ∧
      u.link.mcSent = s.link.mcSent ++ (s.mcMissing.map fun n => (n, s.mcCap n)) ∧ u = { s with link := u.link }) ∧
    (s.lstate ≠ 1 → s.lstate ≠ 2 → exec .capResend s = .next s) ∧
    (∀ a m, s.lstate = 1 → s.link.ackGot = none → s.link.ackSent = some a →
      (m % 4 = a → ∃ u, exec (.modeAckReceive m) s = .next u ∧ u.getF fLSTATE = 2 ∧ u.getF fTK_MODE = a ∧ u.mem = s.mem) ∧
      (m % 4 ≠ a → ∃ u, exec (.modeAckReceive m) s = .next u ∧ u.getF fLSTATE = 5 ∧ u.getF fTK_FAIL = 2)) ∧
    (∀ vc h d, s.lstate = 2 → vc ∈ modeVcs (s.getF fTK_MODE) → s.link.inits.any (fun x => x.1 == vc) = false →
      (h < (leastGrant vc).1 ∨ d < (leastGrant vc).2 → ∃ u, exec (.creditInitReceive vc h d) s = .next u ∧ u.getF fLSTATE = 5 ∧
        u.getF fTK_FAIL = 4) ∧
      ((leastGrant vc).1 ≤ h → (leastGrant vc).2 ≤ d → s.channelsUp = true →
        (∀ v ∈ modeVcs (s.getF fTK_MODE), v = vc ∨ s.link.inits.any (fun x => x.1 == v) = true) →
        ∃ u, exec (.creditInitReceive vc h d) s = .next u ∧ u.getF fLSTATE = 3 ∧ u.flag fFARRIER_UP = true ∧ u.power.attach = .online ∧
        (∀ n, n < 16 → s.fusedOff n = false → s.power.bistBad.contains n = false → s.power.heldOut.contains n = false →
          s.getF (fPSTATE n) = 0 → u.serving n = true))) ∧
    ((s.lstate = 1 ∨ s.lstate = 2) → ∃ u, exec .negotiateTimeout s = .next u ∧ u.getF fLSTATE = 5 ∧
      u.getF fTK_FAIL = (if s.lstate = 2 ∧ s.channelsUp = false then 5 else 3)) ∧
    (s.served = false → ∀ a e, exec (.epochNote a e) s = .next s) ∧
    (∀ ag ep : BitVec 16, s.served = true → s.flag fTK_EPOCHS = true → ep ≠ 0 →
      0 < (2 ^ 16 + ep.toNat - (s.epochOf ag.toNat).toNat) % 2 ^ 16 → (2 ^ 16 + ep.toNat - (s.epochOf ag.toNat).toNat) % 2 ^ 16 < 2 ^ 15 →
      ∃ u, exec (.epochNote ag ep) s = .next u ∧ u.epochOf ag.toNat = ep ∧ (∀ k, k ≠ ag.toNat → u.epochOf k = s.epochOf k) ∧ u.flights = s.flights) ∧
    (∀ flit carry vc cause v, flitFault flit carry vc = some (cause, v) → s.lstate ≠ 0 → s.lstate ≠ 5 →
      ∃ u, exec (.linkFault flit carry vc) s = .next u ∧ u.getF fLSTATE = 5 ∧ u.getF fTK_FAIL = 6 ∧
      u.flag (fERR_CLASS 11) = true ∧ u.flights = s.flights) ∧
    (∀ flit carry vc, flitFault flit carry vc = none ∨ s.lstate = 0 ∨ s.lstate = 5 → exec (.linkFault flit carry vc) s = .next s) ∧
    (s.lstate = 3 → s.flag fPD_BUSY = false → ∃ u, exec .quiesce s = .next u ∧ u.getF fLSTATE = 4 ∧ u.quiesced = true ∧
      (∀ o, o ≠ fLSTATE.off → u.reg o = s.reg o) ∧ u.flights = s.flights) ∧
    (s.lstate = 3 → s.flag fPD_BUSY = true → exec .quiesce s = .next { s.tookMgmt with link := { s.tookMgmt.link with goQuiet := true } }) ∧
    (s.lstate = 4 → s.idleForDetach = true → s.link.drained = false → (s.onVc3 = true → s.link.affords 3 0 = true) →
      ∃ u, exec .drained s = .next u ∧ u.link.drained = true ∧ u.link.sent = s.link.sent ++ [(6, 0)] ∧ u = { s with link := u.link }) ∧
    (s.lstate = 3 ∨ s.lstate = 4 → ∃ u, exec .isolate s = .next u ∧ u.getF fLSTATE = 0 ∧ u.out = [] ∧ u.quiesced = true ∧
      (∀ n, n < 16 → u.flag (fMC_UP n) = false) ∧ (∀ n, n < 19 → s.getF (fPSTATE n) ≠ 2 → (n, 2) ∈ u.power.moves) ∧
      u.sync.up = false ∧ u.sync.cdn = false ∧ u.mem = s.mem ∧ u.flights = s.flights)

/-! Power, clocks, life-cycle (chapter 17). -/

/-- R402, R458 to R460, R466: every reset keeps host memory, the gate counter, the count of wipes and the highest temperatures, loses the work in flight, drops the link, leaves the test port's outputs idle (R489) and starts the wipe; the wipe leaves every wiped store zero; BIST ends the attach, or goes on to NEGOTIATE without the clusters that failed; power-up starts from everything at reset, with the fuses read. That host memory stays whole through every reset is log entry 38 (DESIGN CHOICE), and WIPE_DONE and BIST_DONE without their cause are log entry 27 (DESIGN CHOICE). -/
def Obligations.ResetsWipeTestAndNegotiate : Prop :=
  ∀ s : State,
    (∀ c k, (c = .reset ∧ k = 0) ∨ (∃ n, c = .supplyReset n ∧ k = if n < 3 then n + 1 else 0) → ∃ u, exec c s = .next u ∧ u.getF fRST_CAUSE = k ∧
      u.flag fWIPE_ACTIVE = true ∧ u.getF fWIPE_CAUSE = 1 ∧ u.getF fLSTATE = 0 ∧ u.flights = [] ∧ u.out = [] ∧ u.gc = s.gc ∧
      u.test.wir = 0 ∧ u.test.tdo = [] ∧ u.test.wso = [] ∧ u.test.wpo = [] ∧
      u.getF fWIPES = s.getF fWIPES ∧ (∀ n, n < 16 → u.getF (fTMAX n) = s.getF (fTMAX n)) ∧ (∀ q, q < 32 → u.qEn q = false) ∧
      u.mem = s.mem ∧ (s.flag fLC_BUSY = false → u.fuses = s.fuses)) ∧
    (s.flag fWIPE_ACTIVE = true → ∃ u, exec .wipeDone s = .next u ∧ u.flag fWIPE_ACTIVE = false ∧
      u.getF fWIPES = (s.getF fWIPES + 1) % 2 ^ 32 ∧ u.flag fLC_BUSY = false ∧ u.flag fHAL_DONE = true ∧ u.flag fTAB_DONE = true ∧
      (∀ n, n < 16 → s.fusedOff n = false → s.domainOn n = true → u.getF fPAD_DONE / 2 ^ n % 2 = 1) ∧
      (∀ cl b n, u.padAt cl b n = List.replicate n 0) ∧ (∀ b o, u.bankWord b o = 0) ∧ u.rets = [] ∧ u.stops = [] ∧
      u.power.attach = .bist ∧ u.mem = s.mem) ∧
    (s.flag fWIPE_ACTIVE = false → exec .wipeDone s = .next s) ∧
    (s.power.attach = .bist → ∀ (failed : BitVec 16) (others : BitVec 3),
      let tested := s.enabled.filter s.domainOn
      let bad := tested.filter fun n => failed.toNat / 2 ^ n % 2 == 1
      (others ≠ 0 ∨ bad.length = tested.length → ∃ u, exec (.bistDone failed others) s = .next u ∧ u.power.attach = .failed ∧
        u.power.attachFail = true ∧ u.regs = s.regs ∧ u.mem = s.mem) ∧
      (others = 0 → bad.length ≠ tested.length → ∃ u, exec (.bistDone failed others) s = .next u ∧ u.power.attach = .negotiate ∧
        u.getF fLSTATE = 1 ∧ u.power.bistBad = bad ∧ u.power.heldOut = bad ∧ u.power.moves = bad.map (fun n => (n, 2)) ∧
        u.link.sent = [(1, (s.reg 0x20000).toNat)] ∧ u.link.mcSent = (List.range 16).map (fun n => (n, s.mcCap n)) ∧ u.mem = s.mem)) ∧
    (s.power.attach ≠ .bist → ∀ failed others, exec (.bistDone failed others) s = .next s) ∧
    (let r : State := { s with fuseCopy := s.fuses.setWidth 64 }
      ∃ u, exec .pdAoPowerUp s = .next u ∧ u.fuseCopy = s.fuses.setWidth 64 ∧ u.gc = s.gc ∧ u.getF fLSTATE = 0 ∧ u.flights = [] ∧ u.power.gen = 1 ∧ u.power.attach = .on ∧
      u.power.onLeft = [18, 16, 17] ++ r.enabled ∧ u.getF fWIPES = 0 ∧ u.mem = s.mem ∧ u.fuses = s.fuses ∧
      (∀ n, n < 16 → r.fusedOff n = true → u.getF (fPSTATE n) = 2))

/-- R402, R446, R447, R449 to R451, R466, R467, R489, R496: one domain moves at a time, the clusters that leave `ON` out of service first and unused; one in `RET` goes `OFF` at once; an acknowledge ends the move, with PD_PORT the gate counter comes up at 0 (log entry 84; DEDUCED), and after the last domain of the attach the wipe starts; an acknowledge that does not come stops the attach, in a later step of it with the link `DOWN` (log entry 139; DEDUCED); the first move of ON waits for PD_AO's acknowledge; a recovered domain takes the generation and leaves `STALE`, a cluster that met a bad word keeps the tag 0, PD_SEL and PD_HAL lose what they held; the chip sleeps only when idle, and wakes in order. An acknowledge that nothing awaits and the recovery of a domain that is not recovering change nothing (log entry 27; DESIGN CHOICE). That a domain in `RET` needs no handshake on its way to `OFF` is the model's choice (log entry 12). -/
def Obligations.DomainsMoveRecoverAndSleep : Prop :=
  ∀ s : State, Shaped s →
    (∀ n r, s.power.moving = none → s.power.attachFail = false → s.power.attach = .on → s.power.onLeft = n :: r → n < 20 →
      (n = 18 → s.power.pdAck.getD 19 false = false → exec .domainMove s = .next s) ∧
      ((n = 18 → s.power.pdAck.getD 19 false = true) → ∃ u, exec .domainMove s = .next u ∧ u.getF (fPSTATE n) = 3 ∧ u.power.moving = some (n, 0) ∧ u.power.onLeft = r ∧ u.mem = s.mem)) ∧
    (∀ n t r, s.power.moving = none → s.power.attachFail = false → s.power.attach ≠ .on → s.power.moves = (n, t) :: r → n < 20 → t < 3 →
      let w := if t ≠ 0 ∧ n < 16 ∧ s.power.asleep = false ∧ s.serving n = true then s.takeOut n else s
      (t = 2 → s.pstate n = 1 → ∃ u, exec .domainMove s = .next u ∧ u.pstate n = 2 ∧ u.power.moving = none ∧ u.power.moves = r ∧ u.fuses = s.fuses) ∧
      (t ≠ 0 → n < 16 → w.clusterUsed n = true → s.link.isolated = false → ¬(t = 2 ∧ s.pstate n = 1) → exec .domainMove s = .next w) ∧
      (t = 0 ∨ 16 ≤ n ∨ w.clusterUsed n = false ∨ s.link.isolated = true → ¬(t = 2 ∧ s.pstate n = 1) →
        ∃ u, exec .domainMove s = .next u ∧ u.getF (fPSTATE n) = 3 ∧ u.power.moving = some (n, t) ∧ u.power.moves = r ∧
        (t ≠ 0 → n < 16 → s.power.asleep = false → u.serving n = false) ∧
        u.getF (fTRANS n) = Nat.min (2 ^ 16 - 1) (s.getF (fTRANS n) + 1) ∧ u.flights = w.flights)) ∧
    (s.power.moving ≠ none ∨ s.power.attachFail = true → exec .domainMove s = .next s) ∧
    (∀ n t, s.power.moving = some (n, t) → n < 20 → t < 3 → s.power.attachFail = false →
      (∃ u, exec (.pdAck n (t == 0)) s = .next u ∧ u.getF (fPSTATE n) = t ∧ u.power.moving = none ∧ u.power.pdAck = s.power.pdAck.set n (t == 0) ∧
        (t = 0 → n = 18 → u.gc = 0) ∧ (s.power.attach = .on → s.power.onLeft = [] → u.flag fWIPE_ACTIVE = true ∧ u.getF fWIPE_CAUSE = 3) ∧
        u.mem = s.mem ∧ u.flights = s.flights) ∧
      exec (.pdAck n (t != 0)) s = .next { s with power := { s.power with pdAck := s.power.pdAck.set n (t != 0) } }) ∧
    (∀ n b, s.power.moving = none → exec (.pdAck n b) s = .next { s with power := { s.power with pdAck := s.power.pdAck.set n b } }) ∧
    (∀ n t, s.power.moving = some (n, t) →
      (s.power.attach = .on → exec (.pdAckBudgetExceeded n) s = .next { s with power := { s.power with attachFail := true } }) ∧
      (s.power.attach = .wipe ∨ s.power.attach = .bist ∨ s.power.attach = .negotiate → ∃ u, exec (.pdAckBudgetExceeded n) s = .next u ∧
        u.getF fLSTATE = 0 ∧ u.link = linkReset ∧ u.power.attach = .failed ∧ u.power.attachFail = true ∧
        u.test = (if s.test.wir = 1 then { s.test with heldPd := (s.power.pdReq, s.power.pdRet) } else s.test) ∧
        u = { s with regs := u.regs, link := u.link, power := u.power, test := u.test }) ∧
      (s.power.attach = .online ∨ s.power.attach = .failed → exec (.pdAckBudgetExceeded n) s = .next s)) ∧
    (∀ n, s.power.moving = none ∨ (∃ m t, s.power.moving = some (m, t) ∧ m ≠ n) → exec (.pdAckBudgetExceeded n) s = .next s) ∧
    (∀ n, n < 16 → n ∈ s.power.recover → s.domainOn 16 = true → s.flag (fPD_STALE 16) = false →
      (s.serving n = true ∨ s.power.heldOut.contains n = false → ∃ u, exec (.clusterRecovery n []) s = .next u ∧
        u.serving n = true ∧ u.flag (fPD_STALE n) = false ∧ n ∉ u.power.recover ∧ u.power.tags.getD n 0 = u.power.gen ∧ u.fuses = s.fuses ∧
        ((∀ p, p < 16 → n ∉ s.placed.getD p []) → u.mem = s.mem)) ∧
      (s.serving n = false → s.power.heldOut.contains n = true → ∃ u, exec (.clusterRecovery n []) s = .next u ∧
        u.serving n = false ∧ u.flag (fPD_STALE n) = false ∧ n ∉ u.power.recover) ∧
      (∀ words, words ≠ [] → ∃ u, exec (.clusterRecovery n words) s = .next u ∧ u.serving n = false ∧ u.power.tags.getD n 0 = 0 ∧
        n ∉ u.power.recover ∧ u.flag (fERR_CLASS 17) = true)) ∧
    (∀ n words, n = 16 ∨ n = 17 → n ∈ s.power.recover →
      ∃ u, exec (.clusterRecovery n words) s = .next u ∧ u.flag (fPD_STALE n) = false ∧ n ∉ u.power.recover ∧ u.power.tags.getD n 0 = s.power.gen ∧
      (words = [] → s.power.tags.getD n 0 ≠ 0 → u.banks = s.banks ∧ u.rets = s.rets ∧ u.stops = s.stops ∧ u.masks = s.masks) ∧
      (words ≠ [] ∨ s.power.tags.getD n 0 = 0 → u.flag (fERR_CLASS 13) = true ∧ (n = 16 → u.banks = []) ∧
        (n = 17 → u.rets = [] ∧ u.stops = [] ∧ ∀ k, u.masks.getD k none = none))) ∧
    (∀ n words, n ∉ s.power.recover ∨ n < 16 ∧ (s.domainOn 16 = false ∨ s.flag (fPD_STALE 16) = true) → exec (.clusterRecovery n words) s = .next s) ∧
    (s.power.asleep = true → exec .chipSleepReq s = .next s) ∧
    (s.power.asleep = false → s.maySleep = false → exec .chipSleepReq s = .next { s with power := { s.power with sleepDeny := !s.link.isolated } }) ∧
    (s.power.asleep = false → s.maySleep = true → ∃ u, exec .chipSleepReq s = .next u ∧ u.power.asleep = true ∧ u.power.sleepAck = true ∧
      u.power.sleepDeny = s.power.sleepDeny ∧ (∀ n, n < 16 → s.domainOn n = true → (n, 1) ∈ u.power.moves) ∧ u = { s with power := u.power }) ∧
    (s.power.asleep = true → s.power.sleepMov = true → ∃ u, exec .chipWake s = .next u ∧ u.power.sleepDeny = false ∧ u.power.sleepMov = false ∧
      (∀ n, n ∈ s.power.suspended → s.domainOn n = false → (n, 0) ∈ u.power.moves) ∧ u = { s with power := u.power }) ∧
    (s.power.asleep = false → exec .chipWake s = .next { s with power := { s.power with sleepDeny := false } })

/-- R427, R453 to R457, R463 to R465: a supply below its warning level halves CCLK and stops launches until it has recovered; the operating point goes one level at a time, the clock after the acknowledge on the way up; the headroom refills to the budget; and more slowly while a sensor is hot; temperatures set `HOT` and `TMAX`; the gate counter counts while PD_PORT has power, is loaded at the rise of `sync_load`, and holds while that is high. The halved refill, floored after the ceiling, is log entry 86 (DEDUCED); that ticks and loads do not reach the counter while PD_PORT is not `ON` is log entry 84 (DEDUCED); the rise of `sync_load` as the moment of the load is log entry 87 (DEDUCED). -/
def Obligations.SuppliesPointsEnergyTemperatureAndCount : Prop :=
  ∀ s : State, Shaped s →
    (∀ k, k < 2 → ∃ u, exec (.supplyWarning k) s = .next u ∧ u.flag (fV_LOW k) = true ∧ u.flag (fV_DIP k) = true ∧
      u.getF fDIPS = Nat.min (2 ^ 16 - 1) (s.getF fDIPS + 1) ∧ u.flag fHALVED = true ∧ u.getF fCCLK = pointMHz (s.getF fPT_CUR) / 2 ∧
      u.mayLaunch = false ∧ u.fuses = s.fuses) ∧
    (∃ u, exec (.supplyWarning 2) s = .next u ∧ u.flag (fV_LOW 2) = true ∧ u.power.stopped = s.power.stopped ∧
      (∀ n, n < 20 → s.pstate n = 1 → u.power.tags.getD n 0 = 0) ∧ u.flights = s.flights) ∧
    (∀ k, k < 3 → ∃ u, exec (.supplyRecoveryCrossing k) s = .next u ∧ u.flag (fV_LOW k) = false ∧
      (∀ o, o ≠ 0x6120 → u.reg o = s.reg o) ∧ u = { s with regs := u.regs }) ∧
    (∀ us, s.power.stopped = true → (∀ k, k < 3 → s.flag (fV_LOW k) = false) → ∃ u, exec (.supplyRecovered us) s = .next u ∧
      u.power.stopped = false ∧ u.flag fHALVED = false ∧ u.getF fCCLK = pointMHz (s.getF fPT_CUR) ∧ u.flights = s.flights) ∧
    (s.power.stopped = false ∨ (∃ k, k < 3 ∧ s.flag (fV_LOW k) = true) → ∀ us, exec (.supplyRecovered us) s = .next s) ∧
    (s.gait = false → s.power.target = none → s.power.tripped = false → s.served = true →
      let lower := s.power.window ≤ s.power.waitUs ∨ s.power.hotDue = true ∨ s.getF fPT_REQ < s.getF fPT_CUR
      let driven (p : Nat) := if s.link.isolated then 0 else p
      (lower → 0 < s.getF fPT_CUR → ∃ u, exec .dvfsDecision s = .next u ∧ u.power.target = some (s.getF fPT_CUR - 1) ∧
        u.getF fPT_CUR = s.getF fPT_CUR - 1 ∧ u.power.vsel = driven (s.getF fPT_CUR - 1) ∧ u.power.waitUs = 0 ∧ u.mem = s.mem) ∧
      (lower → s.getF fPT_CUR = 0 → ∃ u, exec .dvfsDecision s = .next u ∧ u.power.target = none ∧ u.power.waitUs = 0 ∧ u = { s with power := u.power }) ∧
      (¬lower → s.power.winGood = true → s.getF fPT_CUR < s.getF fPT_REQ →
        ∃ u, exec .dvfsDecision s = .next u ∧ u.power.target = some (s.getF fPT_CUR + 1) ∧ u.power.vsel = driven (s.getF fPT_CUR + 1) ∧
        u.regs = s.regs ∧ u = { s with power := u.power }) ∧
      (¬lower → s.power.winGood = false ∨ s.getF fPT_CUR = s.getF fPT_REQ → exec .dvfsDecision s = .next s)) ∧
    (s.gait = true ∨ s.power.target ≠ none ∨ s.power.tripped = true ∨ s.served = false → exec .dvfsDecision s = .next s) ∧
    (∀ p, p < 4 → s.power.target = some p → s.power.tripped = false → ∃ u, exec .vselAck s = .next u ∧ u.getF fPT_CUR = p ∧
      u.power.target = none ∧ u.flights = s.flights) ∧
    (∀ p, s.power.target = some p → s.power.late = false → ∃ u, exec .vselTimeout s = .next u ∧ u.power.late = true ∧
      u.flag (fERR_CLASS 13) = true ∧ u.fuses = s.fuses) ∧
    (let add := ceilDiv s.power.budget (Nat.max 1 s.power.window)
      ∃ u, exec .energyRefill s = .next u ∧
      u.power.headroom = (if s.power.budget = 0 then s.power.headroom
        else min (s.power.budget : Int) (s.power.headroom + ((if s.anyHot then add / 2 else add : Nat) : Int))) ∧
      (s.power.winUs + 1 < s.power.window → u.power.winUs = s.power.winUs + 1 ∧ u.power.budget = s.power.budget) ∧
      (s.power.window ≤ s.power.winUs + 1 → u.power.winUs = 0 ∧ u.power.budget = s.getF fBUDGET ∧ u.power.window = s.getF fWINDOW) ∧
      (s.firstWaits = none → u.power.waitUs = 0) ∧
      (∀ k, s.firstWaits = some k → u.power.waitUs = if s.power.waitFor = some k then s.power.waitUs + 1 else 1) ∧
      u.regs = s.regs ∧ u = { s with power := u.power, far := u.far }) ∧
    (∀ l : List (BitVec 12), ∃ u, exec (.thermalSample l) s = .next u ∧ u.fuses = s.fuses ∧ ∀ n, n < 16 →
      (s.domainOn n = true → u.getF (fTEMP n) = (l.getD n 0).toNat ∧ u.flag (fT_VALID n) = true ∧
        tempInt (u.getF (fTMAX n)) = max (tempInt (s.getF (fTMAX n))) (tempInt (l.getD n 0).toNat)) ∧
      (s.domainOn n = false → u.getF (fTEMP n) = s.getF (fTEMP n) ∧ u.flag (fT_VALID n) = false ∧ u.getF (fTMAX n) = s.getF (fTMAX n)) ∧
      (s.flag (fT_HOT n) = false → (u.flag (fT_HOT n) = true ↔ 8 * (s.getF fTHR_C : Int) ≤ tempInt (u.getF (fTEMP n))))) ∧
    (s.counts = true → s.sync.load = false → ∃ u, exec .syncTick s = .next u ∧ u.gc = (s.gc + 1) % 2 ^ 64 ∧
      (∀ o, o ≠ 0x5000 → u.reg o = s.reg o) ∧ u = { s with regs := u.regs }) ∧
    (s.counts = false ∨ s.sync.load = true → exec .syncTick s = .next s) ∧
    (∀ v, s.counts = true → s.sync.load = false → ∃ u, exec (.syncLoad v true) s = .next u ∧ u.gc = v.toNat ∧
      (∀ o, o ≠ 0x5000 → u.reg o = s.reg o) ∧ u = { s with regs := u.regs, sync := { s.sync with load := true } }) ∧
    (∀ v level, level = false ∨ s.counts = false ∨ s.sync.load = true →
      exec (.syncLoad v level) s = .next { s with sync := { s.sync with load := level } })

/-- R489, R501 to R505: a wrapper instruction takes effect while the link is `DOWN` and the life-cycle state permits it, and is WS_BYPASS otherwise; WS_BYPASS and WS_CLAMP put the bypass register between `tst_wsi` and `tst_wso`; a memory BIST brings its repair analysis, none where a domain has passed; under isolation or `WS_SAFE` the outputs are idle; MS_FUSE programs bits outside the life-cycle flags, from 0 to 1, only in RAW and TEST; an instrument opens where its segment may and shows its content; Bridle reads and writes the memory channels. The numbers 1 and 2 for a BIST passed and failed and what is shifted out are the model's (log entries 17 and 141; DESIGN CHOICE); that a trace is a free value and a breakpoint only kept is log entry 140 (DESIGN CHOICE). -/
def Obligations.TestAccessFollowsTheLifeCycle : Prop :=
  ∀ s : State,
    let bypassed (c : Instr) (wir : Nat) : Prop :=
      ∃ b, exec c s = .next { s with freeCtr := s.freeCtr + 1, test := { s.test with wir := wir, bypass := b, wso := [s.test.bypass] } }
    (∀ code, bypassed (.wsBypass code) 0) ∧
    (s.getF fLSTATE = 0 →
      exec .wsSafe s = .next { s with test := { (if s.wirNow = 1 then s.test else { s.test with heldPd := (s.power.pdReq, s.power.pdRet) }) with wir := 1 } } ∧
      (s.lc ≠ 3 → s.lc ≠ 5 → (∀ l, exec (.wsPreload l) s = .next { s with test := { s.test with cells := l, wir := 2 } }) ∧
        bypassed .wsClamp 3 ∧
        (∀ l, exec (.wsExtest l) s = .next { s with test := { s.test with seen := l, wso := l, wir := 4 } }) ∧
        ∀ l, exec (.wsIntest l) s = .next { s with test := { s.test with seen := l, wso := l, wir := 5 } }) ∧
      (s.lc = 0 ∨ s.lc = 1 →
        (∀ (f : BitVec 18) (c : Instr) (k : Nat), (c = .msMbist f ∧ k = 8) ∨ (c = .msLbist f ∧ k = 9) → ∃ u, exec c s = .next u ∧ u.test.wir = k ∧
          u.test.bist.length = 20 ∧ (∀ n, n < 18 → u.test.bist.getD n 0 = if f.getLsbD n then 2 else 1) ∧
          (∀ n, 18 ≤ n → n < 20 → u.test.bist.getD n 0 = s.test.bist.getD n 0) ∧
          (k = 9 → u.test.wpo = (u.test.bist.take 18).flatMap Config.bistCode ∧ u = { s with test := u.test }) ∧
          (k = 8 → u.test.repair.length = 17 ∧ (∀ n, n < 16 → f.getLsbD n = false → u.test.repair.getD n 0 = 0) ∧
            (f.getLsbD 17 = false → u.test.repair.getD 16 0 = 0) ∧
            u.test.wpo = (u.test.bist.take 18).flatMap Config.bistCode ++
              u.test.repair.zipIdx.flatMap (fun q => boolsOf (if q.2 < 16 then 16 else 64) q.1.toNat) ∧
            u = { s with freeCtr := s.freeCtr + 1, test := u.test })) ∧
        ∀ b : BitVec 1024, ∃ u, exec (.msFuse b) s = .next u ∧ u.test.wir = 10 ∧
          (∀ k, k < 1024 → u.fuses.getLsbD k = (s.fuses.getLsbD k || (b.getLsbD k && decide (15 ≤ k)))) ∧
          u.test.seen = boolsOf 1024 u.fuses.toNat ∧ u.test.wso = u.test.seen ∧ u = { s with fuses := u.fuses, test := u.test }) ∧
      (s.lc ≠ 0 → s.lc ≠ 1 → ∀ c, (∃ f, c = .msMbist f ∨ c = .msLbist f) ∨ (∃ b, c = .msFuse b) → bypassed c 0) ∧
      (s.lc = 3 ∨ s.lc = 5 → ∀ c, (c = .wsClamp ∨ (∃ l, c = .wsPreload l ∨ c = .wsExtest l ∨ c = .wsIntest l)) → bypassed c 0)) ∧
    (s.getF fLSTATE ≠ 0 → s.wirNow = 0 ∧ ∀ c, (c = .wsSafe ∨ c = .wsClamp ∨ (∃ l, c = .wsPreload l ∨ c = .wsExtest l ∨ c = .wsIntest l) ∨
        (∃ f, c = .msMbist f ∨ c = .msLbist f) ∨ ∃ b, c = .msFuse b) → bypassed c 0) ∧
    (s.link.isolated = true → s.outPins = idlePins s.power.pdReq s.power.pdRet ∧ s.testPins.1 = [false]) ∧
    (s.link.isolated = false → s.wirNow = 1 → s.outPins = idlePins s.test.heldPd.1 s.test.heldPd.2) ∧
    (s.link.isolated = false → s.getF fLSTATE ≠ 0 → s.outPins = s.drivenPins) ∧
    (∀ i k op, segmentOpen s.lc i = true → i ≠ .bridle → ∃ u, exec (.ieee1687Access i k op) s = .next u ∧ u.test.open1687.contains i = true ∧
      (i = .fuseread → u.test.seen = boolsOf 64 (s.fuses.toNat / 2 ^ (64 * k))) ∧ (i = .tsense → u.test.seen = boolsOf 12 (s.getF (fTEMP (k % 16)))) ∧
      (i = .biststat → u.test.seen = Config.bistCode (s.test.bist.getD k 0)) ∧ u.test.tdo = u.test.seen ∧
      u = { s with freeCtr := s.freeCtr + 1, test := u.test }) ∧
    (segmentOpen s.lc .bridle = true →
      (∀ k, ∃ u, exec (.ieee1687Access .bridle k .trace) s = .next u ∧ u.test.open1687.contains .bridle = true ∧ u.test.trace.length = 1 ∧
        u = { s with freeCtr := s.freeCtr + 1, test := u.test }) ∧
      (∀ k ws, ∃ u, exec (.ieee1687Access .bridle k (.breakpoints ws)) s = .next u ∧ u.test.open1687.contains .bridle = true ∧ u.test.breaks = ws ∧
        u = { s with test := u.test }) ∧
      (∀ k a, let b := a / s.granule * s.granule
        (s.inWindow b = true → s.portUp (s.portOf b) = true → ∃ u, exec (.ieee1687Access .bridle k (.readGranule a)) s = .next u ∧
          u.test.open1687.contains .bridle = true ∧ u.test.seen = ((s.memAt b s.granule).flatMap fun x => boolsOf 8 x.toNat) ∧
          u.mem = s.mem ∧ u.flights = s.flights ∧ u.fuses = s.fuses) ∧
        (s.inWindow b = false ∨ s.portUp (s.portOf b) = false → ∀ c, (c = .readGranule a ∨ ∃ bs, c = .writeBytes a bs) →
          ∃ u, exec (.ieee1687Access .bridle k c) s = .next u ∧ u.test.seen = [] ∧ u = { s with test := u.test }) ∧
        ∀ data : List Byte, data ≠ [] → s.inWindow b = true → s.portUp (s.portOf b) = true →
          let bs := data.take (b + s.granule - a)
          ∃ u, exec (.ieee1687Access .bridle k (.writeBytes a data)) s = .next u ∧ u.test.open1687.contains .bridle = true ∧
          SameMemBut s u a bs.length ∧ Written s u a bs ∧ u.flights = s.flights ∧ u.fuses = s.fuses)) ∧
    (∀ i k op, segmentOpen s.lc i = false → ∃ u, exec (.ieee1687Access i k op) s = .next u ∧ u.test.seen = [] ∧ u.test.tdo = [] ∧
      u.test.open1687.contains i = false ∧ u = { s with test := u.test })

/-! The messages of the ports (chapter 14). -/

/-- R365, R366: a header slot spells the header it was made of, field for field, and a header is legal on the virtual channels that R366 names for its `OP`. -/
def Obligations.HeaderSlotsSpellTheirHeaders : Prop :=
  (∀ h : Header, h.fits → Header.parse h.word = h) ∧
  (∀ w : BitVec 128, (Header.parse w).fits) ∧
  (∀ h : Header, h.fits → h.op ≠ 0 → (h.legal = true ↔
    (h.op = 1 ∨ h.op = 2 ∨ h.op = 3) ∧ h.vc = 0 ∨ (h.op = 2 ∨ h.op = 3) ∧ h.vc = 2 ∨ (h.op = 8 ∨ h.op = 9) ∧ h.vc = 1 ∨ h.op = 12 ∧ h.vc = 3))
end

