-- ==== Sys2Proof/Laws/Store.lean ====
section
/-! SUPPORT. The laws of sparse stores: read after write, and that writes keep the canonical form. -/

namespace Sys2Proof.Machine

variable {α : Type} [DecidableEq α] (d : Nat → α)

theorem Store.entries_key {a : Nat} {vs : List α} {p : Nat × α} (h : p ∈ Store.entries d a vs) :
    a ≤ p.1 ∧ p.1 < a + vs.length := by
  induction vs generalizing a with
  | nil => simp [Store.entries] at h
  | cons v vs ih =>
    unfold Store.entries at h
    split at h
    · have := ih h
      simp only [List.length_cons]; omega
    · rcases List.mem_cons.1 h with rfl | h
      · simp
      · have := ih h
        simp only [List.length_cons]; omega

theorem Store.entries_ne {a : Nat} {vs : List α} {p : Nat × α} (h : p ∈ Store.entries d a vs) :
    p.2 ≠ d p.1 := by
  induction vs generalizing a with
  | nil => simp [Store.entries] at h
  | cons v vs ih =>
    unfold Store.entries at h
    split at h
    · exact ih h
    · rcases List.mem_cons.1 h with rfl | h
      · assumption
      · exact ih h

theorem Store.entries_sorted (a : Nat) (vs : List α) :
    (Store.entries d a vs).Pairwise (fun p q => p.1 < q.1) := by
  induction vs generalizing a with
  | nil => simp [Store.entries]
  | cons v vs ih =>
    unfold Store.entries
    split
    · exact ih _
    · refine List.pairwise_cons.2 ⟨fun q hq => ?_, ih _⟩
      have := (Store.entries_key d hq).1
      simp only; omega

/-- A write keeps the canonical form. -/
theorem Store.wf_writeRange {l : Store α} (h : Store.wf d l) (a : Nat) (vs : List α) :
    Store.wf d (Store.writeRange d l a vs) := by
  obtain ⟨hs, hn⟩ := h
  refine ⟨?_, ?_⟩
  · unfold Store.writeRange
    refine List.pairwise_append.2 ⟨List.pairwise_append.2
      ⟨hs.filter _, Store.entries_sorted d a vs, ?_⟩, hs.filter _, ?_⟩
    · intro p hp q hq
      have h1 := (Store.entries_key d hq).1
      have h2 : p.1 < a := by simpa using (List.mem_filter.1 hp).2
      omega
    · intro p hp q hq
      have h1 : a + vs.length ≤ q.1 := by simpa using (List.mem_filter.1 hq).2
      rcases List.mem_append.1 hp with hp | hp
      · have h2 : p.1 < a := by simpa using (List.mem_filter.1 hp).2
        omega
      · have h2 := (Store.entries_key d hp).2
        omega
  · intro p hp
    unfold Store.writeRange at hp
    rcases List.mem_append.1 hp with hp | hp
    · rcases List.mem_append.1 hp with hp | hp
      · exact hn _ (List.mem_filter.1 hp).1
      · exact Store.entries_ne d hp
    · exact hn _ (List.mem_filter.1 hp).1

theorem Store.wf_write {l : Store α} (h : Store.wf d l) (k : Nat) (v : α) :
    Store.wf d (Store.write d l k v) := Store.wf_writeRange d h k [v]

omit [DecidableEq α] in
theorem Store.find_filter_of {l : Store α} {k : Nat} {f : Nat × α → Bool} (hf : ∀ p : Nat × α, p.1 = k → f p = true) :
    (l.filter f).find? (fun p => p.1 == k) = l.find? (fun p => p.1 == k) := by
  induction l with
  | nil => rfl
  | cons p l ih =>
    by_cases hk : p.1 = k
    · simp [hf p hk, hk]
    · by_cases hp : f p = true
      · simp [hp, hk, ih]
      · simp [hp, hk, ih]

omit [DecidableEq α] in
theorem Store.find_filter_none {l : Store α} {k : Nat} {f : Nat × α → Bool} (hf : ∀ p : Nat × α, p.1 = k → f p = false) :
    (l.filter f).find? (fun p => p.1 == k) = none := by
  rw [List.find?_eq_none]
  intro p hp
  have h2 := (List.mem_filter.1 hp).2
  simp only [beq_iff_eq]
  intro hk
  rw [hf p hk] at h2
  exact absurd h2 (by simp)

theorem Store.find_entries_out {a k : Nat} {vs : List α} (h : k < a ∨ a + vs.length ≤ k) :
    (Store.entries d a vs).find? (fun p => p.1 == k) = none := by
  rw [List.find?_eq_none]
  intro p hp
  have := Store.entries_key d hp
  simp only [beq_iff_eq]
  omega

/-- A key outside the run reads as before. -/
theorem Store.read_writeRange_out (l : Store α) {a k : Nat} {vs : List α} (h : k < a ∨ a + vs.length ≤ k) :
    Store.read d (Store.writeRange d l a vs) k = Store.read d l k := by
  have he := Store.find_entries_out d (vs := vs) h
  unfold Store.read Store.writeRange
  rw [List.find?_append, List.find?_append, he]
  rcases h with h | h
  · rw [Store.find_filter_of (fun p hp => by simpa [hp] using h)]
    rw [Store.find_filter_none (f := fun p => decide (a + vs.length ≤ p.1)) (fun p hp => by simp [hp]; omega)]
    simp
  · rw [Store.find_filter_none (f := fun p => decide (p.1 < a)) (fun p hp => by simp [hp]; omega)]
    rw [Store.find_filter_of (fun p hp => by simpa [hp] using h)]
    simp

theorem Store.find_entries_in {a i : Nat} {vs : List α} {v : α} (h : vs[i]? = some v) :
    (Store.entries d a vs).find? (fun p => p.1 == a + i) = if v = d (a + i) then none else some (a + i, v) := by
  induction vs generalizing a i with
  | nil => simp at h
  | cons w vs ih =>
    unfold Store.entries
    cases i with
    | zero =>
      obtain rfl : w = v := by simpa using h
      split
      · rename_i hw
        rw [Store.find_entries_out d (Or.inl (by omega))]
        simp [hw]
      · rename_i hw
        simp [hw]
    | succ i =>
      have h' : vs[i]? = some v := by simpa using h
      have hi := ih (a := a + 1) h'
      have e : a + 1 + i = a + (i + 1) := by omega
      rw [e] at hi
      split
      · exact hi
      · rw [List.find?_cons_of_neg (by simp)]
        exact hi

/-- A key inside the run reads as the value written there. -/
theorem Store.read_writeRange_in (l : Store α) {a i : Nat} {vs : List α} {v : α} (h : vs[i]? = some v) :
    Store.read d (Store.writeRange d l a vs) (a + i) = v := by
  have hlt : i < vs.length := by
    by_contra hc
    simp [List.getElem?_eq_none (Nat.le_of_not_lt hc)] at h
  have he := Store.find_entries_in d (a := a) h
  unfold Store.read Store.writeRange
  rw [List.find?_append, List.find?_append, he]
  rw [Store.find_filter_none (f := fun p => decide (p.1 < a)) (fun p hp => by simp [hp])]
  rw [Store.find_filter_none (f := fun p => decide (a + vs.length ≤ p.1)) (fun p hp => by simp [hp]; omega)]
  by_cases hv : v = d (a + i)
  · simp [← hv]
  · simp [hv]

theorem Store.read_write_same (l : Store α) (k : Nat) (v : α) :
    Store.read d (Store.write d l k v) k = v := by
  have := Store.read_writeRange_in d l (a := k) (i := 0) (vs := [v]) (v := v) rfl
  simpa [Store.write] using this

theorem Store.read_write_other (l : Store α) {k j : Nat} (v : α) (h : j ≠ k) :
    Store.read d (Store.write d l k v) j = Store.read d l j :=
  Store.read_writeRange_out d l (by simp; omega)

omit [DecidableEq α] in
@[simp] theorem Store.walk_length (n a : Nat) (l : Store α) : (Store.walk d n a l).length = n := by
  induction n generalizing a l with
  | zero => cases l <;> rfl
  | succ n ih =>
    cases l with
    | nil => simp [Store.walk, ih]
    | cons p l => obtain ⟨k, v⟩ := p; unfold Store.walk; split <;> simp [ih]

omit [DecidableEq α] in
@[simp] theorem Store.readRange_length (l : Store α) (a n : Nat) : (Store.readRange d l a n).length = n :=
  Store.walk_length d n a _

end Sys2Proof.Machine
end

