-- ==== Sys2Proof/Laws/Regs.lean ====
section
/-! SUPPORT. Laws of register fields: a field reads as it was written, and other fields and registers as before. -/

namespace Sys2Proof.Machine

theorem getBits_lt (w : Word64) (l n : Nat) : getBits w l n < 2 ^ n := Nat.mod_lt _ (Nat.two_pow_pos n)

theorem getBits_testBit (w : Word64) (l n i : Nat) :
    (getBits w l n).testBit i = (decide (i < n) && w.getLsbD (l + i)) := by
  unfold getBits
  rw [Nat.testBit_mod_two_pow, Nat.testBit_div_two_pow]
  simp only [BitVec.getLsbD, Nat.add_comm]

/-- A bit of a word with a field replaced. -/
theorem setBits_getLsbD (w : Word64) (l n v j : Nat) (hj : j < 64) :
    (setBits w l n v).getLsbD j = if l ≤ j ∧ j < l + n then v.testBit (j - l) else w.getLsbD j := by
  have hm : ((2 ^ n - 1) * 2 ^ l).testBit j = decide (l ≤ j ∧ j < l + n) := by
    rw [Nat.testBit_mul_two_pow, Nat.testBit_two_pow_sub_one]
    by_cases h : l ≤ j <;> simp [h]
    omega
  have hv : (v % 2 ^ n * 2 ^ l).testBit j = (decide (l ≤ j ∧ j < l + n) && v.testBit (j - l)) := by
    rw [Nat.testBit_mul_two_pow, Nat.testBit_mod_two_pow]
    by_cases h : l ≤ j
    · by_cases h' : j < l + n
      · have : j - l < n := by omega
        simp [h, h', this]
      · have : ¬ j - l < n := by omega
        simp [h, h', this]
    · simp [h]
  simp only [setBits, BitVec.getLsbD_or, BitVec.getLsbD_and, BitVec.getLsbD_not, BitVec.getLsbD_ofNat, hm, hv]
  by_cases h : l ≤ j ∧ j < l + n <;> simp [h, hj]

/-- A field reads as it was written. -/
theorem getBits_setBits_same (w : Word64) (l n v : Nat) (h : l + n ≤ 64) : getBits (setBits w l n v) l n = v % 2 ^ n := by
  apply Nat.eq_of_testBit_eq
  intro i
  rw [getBits_testBit, Nat.testBit_mod_two_pow]
  by_cases hi : i < n
  · rw [setBits_getLsbD _ _ _ _ _ (by omega)]
    simp [hi]
  · simp [hi]

/-- A write of a field leaves a field beside it as it was. -/
theorem getBits_setBits_other (w : Word64) (l n v l' n' : Nat) (h' : l' + n' ≤ 64) (h : l' + n' ≤ l ∨ l + n ≤ l') :
    getBits (setBits w l n v) l' n' = getBits w l' n' := by
  apply Nat.eq_of_testBit_eq
  intro i
  rw [getBits_testBit, getBits_testBit]
  by_cases hi : i < n'
  · rw [setBits_getLsbD _ _ _ _ _ (by omega), if_neg (by omega)]
  · simp [hi]

/-! Registers of the state. -/

@[simp] theorem State.reg_setReg_same (s : State) (off : Nat) (v : Word64) : (s.setReg off v).reg off = v :=
  Store.read_write_same regDefault s.regs off v

theorem State.reg_setReg_other (s : State) {off o : Nat} (v : Word64) (h : o ≠ off) : (s.setReg off v).reg o = s.reg o :=
  Store.read_write_other regDefault s.regs v h

theorem State.reg_setF_other (s : State) (f : Fld) (v : Nat) {o : Nat} (h : o ≠ f.off) : (s.setF f v).reg o = s.reg o :=
  s.reg_setReg_other _ h

theorem State.getF_lt (s : State) (f : Fld) : s.getF f < 2 ^ f.width := getBits_lt _ _ _

/-- A field holds what was written to it. -/
theorem State.getF_setF_same (s : State) (f : Fld) (v : Nat) (h : f.lsb + f.width ≤ 64) : (s.setF f v).getF f = v % 2 ^ f.width := by
  simp only [State.getF, State.setF, State.reg_setReg_same]
  exact getBits_setBits_same _ _ _ _ h

/-- Fields that share no bit: of different registers, or apart in one. -/
def Fld.apart (f g : Fld) : Prop := f.off ≠ g.off ∨ g.lsb + g.width ≤ f.lsb ∨ f.lsb + f.width ≤ g.lsb

/-- A write of a field leaves every field apart from it as it was. -/
theorem State.getF_setF_other (s : State) (f : Fld) (v : Nat) {g : Fld} (hg : g.lsb + g.width ≤ 64) (h : f.apart g) :
    (s.setF f v).getF g = s.getF g := by
  unfold State.getF
  by_cases ho : g.off = f.off
  · have hb : g.lsb + g.width ≤ f.lsb ∨ f.lsb + f.width ≤ g.lsb := by
      rcases h with h | h
      · exact absurd ho.symm h
      · exact h
    rw [ho, State.setF, State.reg_setReg_same, getBits_setBits_other _ _ _ _ _ _ hg hb]
  · rw [s.reg_setF_other f v ho]

theorem State.getF_setReg_other (s : State) {off : Nat} (v : Word64) {g : Fld} (h : g.off ≠ off) : (s.setReg off v).getF g = s.getF g := by
  unfold State.getF
  rw [s.reg_setReg_other v h]

theorem State.flag_setF_same (s : State) (f : Fld) (v : Nat) (h : f.lsb + f.width ≤ 64) : (s.setF f v).flag f = (v % 2 ^ f.width == 1) := by
  unfold State.flag
  rw [s.getF_setF_same f v h]

theorem State.flag_setF_other (s : State) (f : Fld) (v : Nat) {g : Fld} (hg : g.lsb + g.width ≤ 64) (h : f.apart g) :
    (s.setF f v).flag g = s.flag g := by
  unfold State.flag
  rw [s.getF_setF_other f v hg h]

end Sys2Proof.Machine
end

