-- ==== Sys2Proof/Laws/State.lean ====
section
/-! SUPPORT. What each named operation leaves of each field of the state: one lemma for one field and one operation. -/

namespace Sys2Proof.Machine

variable (s : State)

/-! `setReg`. -/

@[simp] theorem State.setReg_pending (off : Nat) (v : Word64) : (s.setReg off v).pending = s.pending := rfl
@[simp] theorem State.setReg_freeCtr (off : Nat) (v : Word64) : (s.setReg off v).freeCtr = s.freeCtr := rfl
@[simp] theorem State.setReg_resp (off : Nat) (v : Word64) : (s.setReg off v).resp = s.resp := rfl
@[simp] theorem State.setReg_respHdr (off : Nat) (v : Word64) : (s.setReg off v).respHdr = s.respHdr := rfl
@[simp] theorem State.setReg_regs (off : Nat) (v : Word64) : (s.setReg off v).regs = Store.write regDefault s.regs off v := rfl
@[simp] theorem State.setReg_mem (off : Nat) (v : Word64) : (s.setReg off v).mem = s.mem := rfl
@[simp] theorem State.setReg_memMark (off : Nat) (v : Word64) : (s.setReg off v).memMark = s.memMark := rfl
@[simp] theorem State.setReg_fuses (off : Nat) (v : Word64) : (s.setReg off v).fuses = s.fuses := rfl
@[simp] theorem State.setReg_fuseCopy (off : Nat) (v : Word64) : (s.setReg off v).fuseCopy = s.fuseCopy := rfl
@[simp] theorem State.setReg_trims (off : Nat) (v : Word64) : (s.setReg off v).trims = s.trims := rfl
@[simp] theorem State.setReg_pad (off : Nat) (v : Word64) : (s.setReg off v).pad = s.pad := rfl
@[simp] theorem State.setReg_padFresh (off : Nat) (v : Word64) : (s.setReg off v).padFresh = s.padFresh := rfl
@[simp] theorem State.setReg_padDirty (off : Nat) (v : Word64) : (s.setReg off v).padDirty = s.padDirty := rfl
@[simp] theorem State.setReg_bad (off : Nat) (v : Word64) : (s.setReg off v).bad = s.bad := rfl
@[simp] theorem State.setReg_banks (off : Nat) (v : Word64) : (s.setReg off v).banks = s.banks := rfl
@[simp] theorem State.setReg_lanes (off : Nat) (v : Word64) : (s.setReg off v).lanes = s.lanes := rfl
@[simp] theorem State.setReg_laneTags (off : Nat) (v : Word64) : (s.setReg off v).laneTags = s.laneTags := rfl
@[simp] theorem State.setReg_tabQueue (off : Nat) (v : Word64) : (s.setReg off v).tabQueue = s.tabQueue := rfl
@[simp] theorem State.setReg_tabPassed (off : Nat) (v : Word64) : (s.setReg off v).tabPassed = s.tabPassed := rfl
@[simp] theorem State.setReg_queues (off : Nat) (v : Word64) : (s.setReg off v).queues = s.queues := rfl
@[simp] theorem State.setReg_nextLn (off : Nat) (v : Word64) : (s.setReg off v).nextLn = s.nextLn := rfl
@[simp] theorem State.setReg_nextDec (off : Nat) (v : Word64) : (s.setReg off v).nextDec = s.nextDec := rfl
@[simp] theorem State.setReg_nextOp (off : Nat) (v : Word64) : (s.setReg off v).nextOp = s.nextOp := rfl
@[simp] theorem State.setReg_flights (off : Nat) (v : Word64) : (s.setReg off v).flights = s.flights := rfl
@[simp] theorem State.setReg_placed (off : Nat) (v : Word64) : (s.setReg off v).placed = s.placed := rfl
@[simp] theorem State.setReg_repackQ (off : Nat) (v : Word64) : (s.setReg off v).repackQ = s.repackQ := rfl
@[simp] theorem State.setReg_repack (off : Nat) (v : Word64) : (s.setReg off v).repack = s.repack := rfl
@[simp] theorem State.setReg_maskJobs (off : Nat) (v : Word64) : (s.setReg off v).maskJobs = s.maskJobs := rfl
@[simp] theorem State.setReg_masks (off : Nat) (v : Word64) : (s.setReg off v).masks = s.masks := rfl
@[simp] theorem State.setReg_reqs (off : Nat) (v : Word64) : (s.setReg off v).reqs = s.reqs := rfl
@[simp] theorem State.setReg_shadows (off : Nat) (v : Word64) : (s.setReg off v).shadows = s.shadows := rfl
@[simp] theorem State.setReg_rets (off : Nat) (v : Word64) : (s.setReg off v).rets = s.rets := rfl
@[simp] theorem State.setReg_stops (off : Nat) (v : Word64) : (s.setReg off v).stops = s.stops := rfl
@[simp] theorem State.setReg_yBlocks (off : Nat) (v : Word64) : (s.setReg off v).yBlocks = s.yBlocks := rfl
@[simp] theorem State.setReg_yLooks (off : Nat) (v : Word64) : (s.setReg off v).yLooks = s.yLooks := rfl
@[simp] theorem State.setReg_out (off : Nat) (v : Word64) : (s.setReg off v).out = s.out := rfl
@[simp] theorem State.setReg_gotten (off : Nat) (v : Word64) : (s.setReg off v).gotten = s.gotten := rfl
@[simp] theorem State.setReg_link (off : Nat) (v : Word64) : (s.setReg off v).link = s.link := rfl
@[simp] theorem State.setReg_arb (off : Nat) (v : Word64) : (s.setReg off v).arb = s.arb := rfl
@[simp] theorem State.setReg_sync (off : Nat) (v : Word64) : (s.setReg off v).sync = s.sync := rfl
@[simp] theorem State.setReg_power (off : Nat) (v : Word64) : (s.setReg off v).power = s.power := rfl
@[simp] theorem State.setReg_ev (off : Nat) (v : Word64) : (s.setReg off v).ev = s.ev := rfl
@[simp] theorem State.setReg_far (off : Nat) (v : Word64) : (s.setReg off v).far = s.far := rfl
@[simp] theorem State.setReg_test (off : Nat) (v : Word64) : (s.setReg off v).test = s.test := rfl
@[simp] theorem State.setReg_sorrel (off : Nat) (v : Word64) : (s.setReg off v).sorrel = s.sorrel := rfl
@[simp] theorem State.setReg_scrub (off : Nat) (v : Word64) : (s.setReg off v).scrub = s.scrub := rfl
@[simp] theorem State.setReg_quiesced (off : Nat) (v : Word64) : (s.setReg off v).quiesced = s.quiesced := rfl

/-! `setF`. -/

@[simp] theorem State.setF_pending (f : Fld) (v : Nat) : (s.setF f v).pending = s.pending := rfl
@[simp] theorem State.setF_freeCtr (f : Fld) (v : Nat) : (s.setF f v).freeCtr = s.freeCtr := rfl
@[simp] theorem State.setF_resp (f : Fld) (v : Nat) : (s.setF f v).resp = s.resp := rfl
@[simp] theorem State.setF_respHdr (f : Fld) (v : Nat) : (s.setF f v).respHdr = s.respHdr := rfl
@[simp] theorem State.setF_regs (f : Fld) (v : Nat) : (s.setF f v).regs = Store.write regDefault s.regs f.off (setBits (s.reg f.off) f.lsb f.width v) := rfl
@[simp] theorem State.setF_mem (f : Fld) (v : Nat) : (s.setF f v).mem = s.mem := rfl
@[simp] theorem State.setF_memMark (f : Fld) (v : Nat) : (s.setF f v).memMark = s.memMark := rfl
@[simp] theorem State.setF_fuses (f : Fld) (v : Nat) : (s.setF f v).fuses = s.fuses := rfl
@[simp] theorem State.setF_fuseCopy (f : Fld) (v : Nat) : (s.setF f v).fuseCopy = s.fuseCopy := rfl
@[simp] theorem State.setF_trims (f : Fld) (v : Nat) : (s.setF f v).trims = s.trims := rfl
@[simp] theorem State.setF_pad (f : Fld) (v : Nat) : (s.setF f v).pad = s.pad := rfl
@[simp] theorem State.setF_padFresh (f : Fld) (v : Nat) : (s.setF f v).padFresh = s.padFresh := rfl
@[simp] theorem State.setF_padDirty (f : Fld) (v : Nat) : (s.setF f v).padDirty = s.padDirty := rfl
@[simp] theorem State.setF_bad (f : Fld) (v : Nat) : (s.setF f v).bad = s.bad := rfl
@[simp] theorem State.setF_banks (f : Fld) (v : Nat) : (s.setF f v).banks = s.banks := rfl
@[simp] theorem State.setF_lanes (f : Fld) (v : Nat) : (s.setF f v).lanes = s.lanes := rfl
@[simp] theorem State.setF_laneTags (f : Fld) (v : Nat) : (s.setF f v).laneTags = s.laneTags := rfl
@[simp] theorem State.setF_tabQueue (f : Fld) (v : Nat) : (s.setF f v).tabQueue = s.tabQueue := rfl
@[simp] theorem State.setF_tabPassed (f : Fld) (v : Nat) : (s.setF f v).tabPassed = s.tabPassed := rfl
@[simp] theorem State.setF_queues (f : Fld) (v : Nat) : (s.setF f v).queues = s.queues := rfl
@[simp] theorem State.setF_nextLn (f : Fld) (v : Nat) : (s.setF f v).nextLn = s.nextLn := rfl
@[simp] theorem State.setF_nextDec (f : Fld) (v : Nat) : (s.setF f v).nextDec = s.nextDec := rfl
@[simp] theorem State.setF_nextOp (f : Fld) (v : Nat) : (s.setF f v).nextOp = s.nextOp := rfl
@[simp] theorem State.setF_flights (f : Fld) (v : Nat) : (s.setF f v).flights = s.flights := rfl
@[simp] theorem State.setF_placed (f : Fld) (v : Nat) : (s.setF f v).placed = s.placed := rfl
@[simp] theorem State.setF_repackQ (f : Fld) (v : Nat) : (s.setF f v).repackQ = s.repackQ := rfl
@[simp] theorem State.setF_repack (f : Fld) (v : Nat) : (s.setF f v).repack = s.repack := rfl
@[simp] theorem State.setF_maskJobs (f : Fld) (v : Nat) : (s.setF f v).maskJobs = s.maskJobs := rfl
@[simp] theorem State.setF_masks (f : Fld) (v : Nat) : (s.setF f v).masks = s.masks := rfl
@[simp] theorem State.setF_reqs (f : Fld) (v : Nat) : (s.setF f v).reqs = s.reqs := rfl
@[simp] theorem State.setF_shadows (f : Fld) (v : Nat) : (s.setF f v).shadows = s.shadows := rfl
@[simp] theorem State.setF_rets (f : Fld) (v : Nat) : (s.setF f v).rets = s.rets := rfl
@[simp] theorem State.setF_stops (f : Fld) (v : Nat) : (s.setF f v).stops = s.stops := rfl
@[simp] theorem State.setF_yBlocks (f : Fld) (v : Nat) : (s.setF f v).yBlocks = s.yBlocks := rfl
@[simp] theorem State.setF_yLooks (f : Fld) (v : Nat) : (s.setF f v).yLooks = s.yLooks := rfl
@[simp] theorem State.setF_out (f : Fld) (v : Nat) : (s.setF f v).out = s.out := rfl
@[simp] theorem State.setF_gotten (f : Fld) (v : Nat) : (s.setF f v).gotten = s.gotten := rfl
@[simp] theorem State.setF_link (f : Fld) (v : Nat) : (s.setF f v).link = s.link := rfl
@[simp] theorem State.setF_arb (f : Fld) (v : Nat) : (s.setF f v).arb = s.arb := rfl
@[simp] theorem State.setF_sync (f : Fld) (v : Nat) : (s.setF f v).sync = s.sync := rfl
@[simp] theorem State.setF_power (f : Fld) (v : Nat) : (s.setF f v).power = s.power := rfl
@[simp] theorem State.setF_ev (f : Fld) (v : Nat) : (s.setF f v).ev = s.ev := rfl
@[simp] theorem State.setF_far (f : Fld) (v : Nat) : (s.setF f v).far = s.far := rfl
@[simp] theorem State.setF_test (f : Fld) (v : Nat) : (s.setF f v).test = s.test := rfl
@[simp] theorem State.setF_sorrel (f : Fld) (v : Nat) : (s.setF f v).sorrel = s.sorrel := rfl
@[simp] theorem State.setF_scrub (f : Fld) (v : Nat) : (s.setF f v).scrub = s.scrub := rfl
@[simp] theorem State.setF_quiesced (f : Fld) (v : Nat) : (s.setF f v).quiesced = s.quiesced := rfl

/-! `setFlag`. -/

@[simp] theorem State.setFlag_pending (f : Fld) (b : Bool) : (s.setFlag f b).pending = s.pending := rfl
@[simp] theorem State.setFlag_freeCtr (f : Fld) (b : Bool) : (s.setFlag f b).freeCtr = s.freeCtr := rfl
@[simp] theorem State.setFlag_resp (f : Fld) (b : Bool) : (s.setFlag f b).resp = s.resp := rfl
@[simp] theorem State.setFlag_respHdr (f : Fld) (b : Bool) : (s.setFlag f b).respHdr = s.respHdr := rfl
@[simp] theorem State.setFlag_mem (f : Fld) (b : Bool) : (s.setFlag f b).mem = s.mem := rfl
@[simp] theorem State.setFlag_memMark (f : Fld) (b : Bool) : (s.setFlag f b).memMark = s.memMark := rfl
@[simp] theorem State.setFlag_fuses (f : Fld) (b : Bool) : (s.setFlag f b).fuses = s.fuses := rfl
@[simp] theorem State.setFlag_fuseCopy (f : Fld) (b : Bool) : (s.setFlag f b).fuseCopy = s.fuseCopy := rfl
@[simp] theorem State.setFlag_trims (f : Fld) (b : Bool) : (s.setFlag f b).trims = s.trims := rfl
@[simp] theorem State.setFlag_pad (f : Fld) (b : Bool) : (s.setFlag f b).pad = s.pad := rfl
@[simp] theorem State.setFlag_padFresh (f : Fld) (b : Bool) : (s.setFlag f b).padFresh = s.padFresh := rfl
@[simp] theorem State.setFlag_padDirty (f : Fld) (b : Bool) : (s.setFlag f b).padDirty = s.padDirty := rfl
@[simp] theorem State.setFlag_bad (f : Fld) (b : Bool) : (s.setFlag f b).bad = s.bad := rfl
@[simp] theorem State.setFlag_banks (f : Fld) (b : Bool) : (s.setFlag f b).banks = s.banks := rfl
@[simp] theorem State.setFlag_lanes (f : Fld) (b : Bool) : (s.setFlag f b).lanes = s.lanes := rfl
@[simp] theorem State.setFlag_laneTags (f : Fld) (b : Bool) : (s.setFlag f b).laneTags = s.laneTags := rfl
@[simp] theorem State.setFlag_tabQueue (f : Fld) (b : Bool) : (s.setFlag f b).tabQueue = s.tabQueue := rfl
@[simp] theorem State.setFlag_tabPassed (f : Fld) (b : Bool) : (s.setFlag f b).tabPassed = s.tabPassed := rfl
@[simp] theorem State.setFlag_queues (f : Fld) (b : Bool) : (s.setFlag f b).queues = s.queues := rfl
@[simp] theorem State.setFlag_nextLn (f : Fld) (b : Bool) : (s.setFlag f b).nextLn = s.nextLn := rfl
@[simp] theorem State.setFlag_nextDec (f : Fld) (b : Bool) : (s.setFlag f b).nextDec = s.nextDec := rfl
@[simp] theorem State.setFlag_nextOp (f : Fld) (b : Bool) : (s.setFlag f b).nextOp = s.nextOp := rfl
@[simp] theorem State.setFlag_flights (f : Fld) (b : Bool) : (s.setFlag f b).flights = s.flights := rfl
@[simp] theorem State.setFlag_placed (f : Fld) (b : Bool) : (s.setFlag f b).placed = s.placed := rfl
@[simp] theorem State.setFlag_repackQ (f : Fld) (b : Bool) : (s.setFlag f b).repackQ = s.repackQ := rfl
@[simp] theorem State.setFlag_repack (f : Fld) (b : Bool) : (s.setFlag f b).repack = s.repack := rfl
@[simp] theorem State.setFlag_maskJobs (f : Fld) (b : Bool) : (s.setFlag f b).maskJobs = s.maskJobs := rfl
@[simp] theorem State.setFlag_masks (f : Fld) (b : Bool) : (s.setFlag f b).masks = s.masks := rfl
@[simp] theorem State.setFlag_reqs (f : Fld) (b : Bool) : (s.setFlag f b).reqs = s.reqs := rfl
@[simp] theorem State.setFlag_shadows (f : Fld) (b : Bool) : (s.setFlag f b).shadows = s.shadows := rfl
@[simp] theorem State.setFlag_rets (f : Fld) (b : Bool) : (s.setFlag f b).rets = s.rets := rfl
@[simp] theorem State.setFlag_stops (f : Fld) (b : Bool) : (s.setFlag f b).stops = s.stops := rfl
@[simp] theorem State.setFlag_yBlocks (f : Fld) (b : Bool) : (s.setFlag f b).yBlocks = s.yBlocks := rfl
@[simp] theorem State.setFlag_yLooks (f : Fld) (b : Bool) : (s.setFlag f b).yLooks = s.yLooks := rfl
@[simp] theorem State.setFlag_out (f : Fld) (b : Bool) : (s.setFlag f b).out = s.out := rfl
@[simp] theorem State.setFlag_gotten (f : Fld) (b : Bool) : (s.setFlag f b).gotten = s.gotten := rfl
@[simp] theorem State.setFlag_link (f : Fld) (b : Bool) : (s.setFlag f b).link = s.link := rfl
@[simp] theorem State.setFlag_arb (f : Fld) (b : Bool) : (s.setFlag f b).arb = s.arb := rfl
@[simp] theorem State.setFlag_sync (f : Fld) (b : Bool) : (s.setFlag f b).sync = s.sync := rfl
@[simp] theorem State.setFlag_power (f : Fld) (b : Bool) : (s.setFlag f b).power = s.power := rfl
@[simp] theorem State.setFlag_ev (f : Fld) (b : Bool) : (s.setFlag f b).ev = s.ev := rfl
@[simp] theorem State.setFlag_far (f : Fld) (b : Bool) : (s.setFlag f b).far = s.far := rfl
@[simp] theorem State.setFlag_test (f : Fld) (b : Bool) : (s.setFlag f b).test = s.test := rfl
@[simp] theorem State.setFlag_sorrel (f : Fld) (b : Bool) : (s.setFlag f b).sorrel = s.sorrel := rfl
@[simp] theorem State.setFlag_scrub (f : Fld) (b : Bool) : (s.setFlag f b).scrub = s.scrub := rfl
@[simp] theorem State.setFlag_quiesced (f : Fld) (b : Bool) : (s.setFlag f b).quiesced = s.quiesced := rfl

/-! `addSat`. -/

@[simp] theorem State.addSat_pending (f : Fld) (n : Nat) : (s.addSat f n).pending = s.pending := rfl
@[simp] theorem State.addSat_freeCtr (f : Fld) (n : Nat) : (s.addSat f n).freeCtr = s.freeCtr := rfl
@[simp] theorem State.addSat_resp (f : Fld) (n : Nat) : (s.addSat f n).resp = s.resp := rfl
@[simp] theorem State.addSat_respHdr (f : Fld) (n : Nat) : (s.addSat f n).respHdr = s.respHdr := rfl
@[simp] theorem State.addSat_mem (f : Fld) (n : Nat) : (s.addSat f n).mem = s.mem := rfl
@[simp] theorem State.addSat_memMark (f : Fld) (n : Nat) : (s.addSat f n).memMark = s.memMark := rfl
@[simp] theorem State.addSat_fuses (f : Fld) (n : Nat) : (s.addSat f n).fuses = s.fuses := rfl
@[simp] theorem State.addSat_fuseCopy (f : Fld) (n : Nat) : (s.addSat f n).fuseCopy = s.fuseCopy := rfl
@[simp] theorem State.addSat_trims (f : Fld) (n : Nat) : (s.addSat f n).trims = s.trims := rfl
@[simp] theorem State.addSat_pad (f : Fld) (n : Nat) : (s.addSat f n).pad = s.pad := rfl
@[simp] theorem State.addSat_padFresh (f : Fld) (n : Nat) : (s.addSat f n).padFresh = s.padFresh := rfl
@[simp] theorem State.addSat_padDirty (f : Fld) (n : Nat) : (s.addSat f n).padDirty = s.padDirty := rfl
@[simp] theorem State.addSat_bad (f : Fld) (n : Nat) : (s.addSat f n).bad = s.bad := rfl
@[simp] theorem State.addSat_banks (f : Fld) (n : Nat) : (s.addSat f n).banks = s.banks := rfl
@[simp] theorem State.addSat_lanes (f : Fld) (n : Nat) : (s.addSat f n).lanes = s.lanes := rfl
@[simp] theorem State.addSat_laneTags (f : Fld) (n : Nat) : (s.addSat f n).laneTags = s.laneTags := rfl
@[simp] theorem State.addSat_tabQueue (f : Fld) (n : Nat) : (s.addSat f n).tabQueue = s.tabQueue := rfl
@[simp] theorem State.addSat_tabPassed (f : Fld) (n : Nat) : (s.addSat f n).tabPassed = s.tabPassed := rfl
@[simp] theorem State.addSat_queues (f : Fld) (n : Nat) : (s.addSat f n).queues = s.queues := rfl
@[simp] theorem State.addSat_nextLn (f : Fld) (n : Nat) : (s.addSat f n).nextLn = s.nextLn := rfl
@[simp] theorem State.addSat_nextDec (f : Fld) (n : Nat) : (s.addSat f n).nextDec = s.nextDec := rfl
@[simp] theorem State.addSat_nextOp (f : Fld) (n : Nat) : (s.addSat f n).nextOp = s.nextOp := rfl
@[simp] theorem State.addSat_flights (f : Fld) (n : Nat) : (s.addSat f n).flights = s.flights := rfl
@[simp] theorem State.addSat_placed (f : Fld) (n : Nat) : (s.addSat f n).placed = s.placed := rfl
@[simp] theorem State.addSat_repackQ (f : Fld) (n : Nat) : (s.addSat f n).repackQ = s.repackQ := rfl
@[simp] theorem State.addSat_repack (f : Fld) (n : Nat) : (s.addSat f n).repack = s.repack := rfl
@[simp] theorem State.addSat_maskJobs (f : Fld) (n : Nat) : (s.addSat f n).maskJobs = s.maskJobs := rfl
@[simp] theorem State.addSat_masks (f : Fld) (n : Nat) : (s.addSat f n).masks = s.masks := rfl
@[simp] theorem State.addSat_reqs (f : Fld) (n : Nat) : (s.addSat f n).reqs = s.reqs := rfl
@[simp] theorem State.addSat_shadows (f : Fld) (n : Nat) : (s.addSat f n).shadows = s.shadows := rfl
@[simp] theorem State.addSat_rets (f : Fld) (n : Nat) : (s.addSat f n).rets = s.rets := rfl
@[simp] theorem State.addSat_stops (f : Fld) (n : Nat) : (s.addSat f n).stops = s.stops := rfl
@[simp] theorem State.addSat_yBlocks (f : Fld) (n : Nat) : (s.addSat f n).yBlocks = s.yBlocks := rfl
@[simp] theorem State.addSat_yLooks (f : Fld) (n : Nat) : (s.addSat f n).yLooks = s.yLooks := rfl
@[simp] theorem State.addSat_out (f : Fld) (n : Nat) : (s.addSat f n).out = s.out := rfl
@[simp] theorem State.addSat_gotten (f : Fld) (n : Nat) : (s.addSat f n).gotten = s.gotten := rfl
@[simp] theorem State.addSat_link (f : Fld) (n : Nat) : (s.addSat f n).link = s.link := rfl
@[simp] theorem State.addSat_arb (f : Fld) (n : Nat) : (s.addSat f n).arb = s.arb := rfl
@[simp] theorem State.addSat_sync (f : Fld) (n : Nat) : (s.addSat f n).sync = s.sync := rfl
@[simp] theorem State.addSat_power (f : Fld) (n : Nat) : (s.addSat f n).power = s.power := rfl
@[simp] theorem State.addSat_ev (f : Fld) (n : Nat) : (s.addSat f n).ev = s.ev := rfl
@[simp] theorem State.addSat_far (f : Fld) (n : Nat) : (s.addSat f n).far = s.far := rfl
@[simp] theorem State.addSat_test (f : Fld) (n : Nat) : (s.addSat f n).test = s.test := rfl
@[simp] theorem State.addSat_sorrel (f : Fld) (n : Nat) : (s.addSat f n).sorrel = s.sorrel := rfl
@[simp] theorem State.addSat_scrub (f : Fld) (n : Nat) : (s.addSat f n).scrub = s.scrub := rfl
@[simp] theorem State.addSat_quiesced (f : Fld) (n : Nat) : (s.addSat f n).quiesced = s.quiesced := rfl

/-! `addMod`. -/

@[simp] theorem State.addMod_pending (f : Fld) (n : Nat) : (s.addMod f n).pending = s.pending := rfl
@[simp] theorem State.addMod_freeCtr (f : Fld) (n : Nat) : (s.addMod f n).freeCtr = s.freeCtr := rfl
@[simp] theorem State.addMod_resp (f : Fld) (n : Nat) : (s.addMod f n).resp = s.resp := rfl
@[simp] theorem State.addMod_respHdr (f : Fld) (n : Nat) : (s.addMod f n).respHdr = s.respHdr := rfl
@[simp] theorem State.addMod_mem (f : Fld) (n : Nat) : (s.addMod f n).mem = s.mem := rfl
@[simp] theorem State.addMod_memMark (f : Fld) (n : Nat) : (s.addMod f n).memMark = s.memMark := rfl
@[simp] theorem State.addMod_fuses (f : Fld) (n : Nat) : (s.addMod f n).fuses = s.fuses := rfl
@[simp] theorem State.addMod_fuseCopy (f : Fld) (n : Nat) : (s.addMod f n).fuseCopy = s.fuseCopy := rfl
@[simp] theorem State.addMod_trims (f : Fld) (n : Nat) : (s.addMod f n).trims = s.trims := rfl
@[simp] theorem State.addMod_pad (f : Fld) (n : Nat) : (s.addMod f n).pad = s.pad := rfl
@[simp] theorem State.addMod_padFresh (f : Fld) (n : Nat) : (s.addMod f n).padFresh = s.padFresh := rfl
@[simp] theorem State.addMod_padDirty (f : Fld) (n : Nat) : (s.addMod f n).padDirty = s.padDirty := rfl
@[simp] theorem State.addMod_bad (f : Fld) (n : Nat) : (s.addMod f n).bad = s.bad := rfl
@[simp] theorem State.addMod_banks (f : Fld) (n : Nat) : (s.addMod f n).banks = s.banks := rfl
@[simp] theorem State.addMod_lanes (f : Fld) (n : Nat) : (s.addMod f n).lanes = s.lanes := rfl
@[simp] theorem State.addMod_laneTags (f : Fld) (n : Nat) : (s.addMod f n).laneTags = s.laneTags := rfl
@[simp] theorem State.addMod_tabQueue (f : Fld) (n : Nat) : (s.addMod f n).tabQueue = s.tabQueue := rfl
@[simp] theorem State.addMod_tabPassed (f : Fld) (n : Nat) : (s.addMod f n).tabPassed = s.tabPassed := rfl
@[simp] theorem State.addMod_queues (f : Fld) (n : Nat) : (s.addMod f n).queues = s.queues := rfl
@[simp] theorem State.addMod_nextLn (f : Fld) (n : Nat) : (s.addMod f n).nextLn = s.nextLn := rfl
@[simp] theorem State.addMod_nextDec (f : Fld) (n : Nat) : (s.addMod f n).nextDec = s.nextDec := rfl
@[simp] theorem State.addMod_nextOp (f : Fld) (n : Nat) : (s.addMod f n).nextOp = s.nextOp := rfl
@[simp] theorem State.addMod_flights (f : Fld) (n : Nat) : (s.addMod f n).flights = s.flights := rfl
@[simp] theorem State.addMod_placed (f : Fld) (n : Nat) : (s.addMod f n).placed = s.placed := rfl
@[simp] theorem State.addMod_repackQ (f : Fld) (n : Nat) : (s.addMod f n).repackQ = s.repackQ := rfl
@[simp] theorem State.addMod_repack (f : Fld) (n : Nat) : (s.addMod f n).repack = s.repack := rfl
@[simp] theorem State.addMod_maskJobs (f : Fld) (n : Nat) : (s.addMod f n).maskJobs = s.maskJobs := rfl
@[simp] theorem State.addMod_masks (f : Fld) (n : Nat) : (s.addMod f n).masks = s.masks := rfl
@[simp] theorem State.addMod_reqs (f : Fld) (n : Nat) : (s.addMod f n).reqs = s.reqs := rfl
@[simp] theorem State.addMod_shadows (f : Fld) (n : Nat) : (s.addMod f n).shadows = s.shadows := rfl
@[simp] theorem State.addMod_rets (f : Fld) (n : Nat) : (s.addMod f n).rets = s.rets := rfl
@[simp] theorem State.addMod_stops (f : Fld) (n : Nat) : (s.addMod f n).stops = s.stops := rfl
@[simp] theorem State.addMod_yBlocks (f : Fld) (n : Nat) : (s.addMod f n).yBlocks = s.yBlocks := rfl
@[simp] theorem State.addMod_yLooks (f : Fld) (n : Nat) : (s.addMod f n).yLooks = s.yLooks := rfl
@[simp] theorem State.addMod_out (f : Fld) (n : Nat) : (s.addMod f n).out = s.out := rfl
@[simp] theorem State.addMod_gotten (f : Fld) (n : Nat) : (s.addMod f n).gotten = s.gotten := rfl
@[simp] theorem State.addMod_link (f : Fld) (n : Nat) : (s.addMod f n).link = s.link := rfl
@[simp] theorem State.addMod_arb (f : Fld) (n : Nat) : (s.addMod f n).arb = s.arb := rfl
@[simp] theorem State.addMod_sync (f : Fld) (n : Nat) : (s.addMod f n).sync = s.sync := rfl
@[simp] theorem State.addMod_power (f : Fld) (n : Nat) : (s.addMod f n).power = s.power := rfl
@[simp] theorem State.addMod_ev (f : Fld) (n : Nat) : (s.addMod f n).ev = s.ev := rfl
@[simp] theorem State.addMod_far (f : Fld) (n : Nat) : (s.addMod f n).far = s.far := rfl
@[simp] theorem State.addMod_test (f : Fld) (n : Nat) : (s.addMod f n).test = s.test := rfl
@[simp] theorem State.addMod_sorrel (f : Fld) (n : Nat) : (s.addMod f n).sorrel = s.sorrel := rfl
@[simp] theorem State.addMod_scrub (f : Fld) (n : Nat) : (s.addMod f n).scrub = s.scrub := rfl
@[simp] theorem State.addMod_quiesced (f : Fld) (n : Nat) : (s.addMod f n).quiesced = s.quiesced := rfl

/-! `setBit`. -/

@[simp] theorem State.setBit_pending (f : Fld) (n : Nat) (b : Bool) : (s.setBit f n b).pending = s.pending := rfl
@[simp] theorem State.setBit_freeCtr (f : Fld) (n : Nat) (b : Bool) : (s.setBit f n b).freeCtr = s.freeCtr := rfl
@[simp] theorem State.setBit_resp (f : Fld) (n : Nat) (b : Bool) : (s.setBit f n b).resp = s.resp := rfl
@[simp] theorem State.setBit_respHdr (f : Fld) (n : Nat) (b : Bool) : (s.setBit f n b).respHdr = s.respHdr := rfl
@[simp] theorem State.setBit_mem (f : Fld) (n : Nat) (b : Bool) : (s.setBit f n b).mem = s.mem := rfl
@[simp] theorem State.setBit_memMark (f : Fld) (n : Nat) (b : Bool) : (s.setBit f n b).memMark = s.memMark := rfl
@[simp] theorem State.setBit_fuses (f : Fld) (n : Nat) (b : Bool) : (s.setBit f n b).fuses = s.fuses := rfl
@[simp] theorem State.setBit_fuseCopy (f : Fld) (n : Nat) (b : Bool) : (s.setBit f n b).fuseCopy = s.fuseCopy := rfl
@[simp] theorem State.setBit_trims (f : Fld) (n : Nat) (b : Bool) : (s.setBit f n b).trims = s.trims := rfl
@[simp] theorem State.setBit_pad (f : Fld) (n : Nat) (b : Bool) : (s.setBit f n b).pad = s.pad := rfl
@[simp] theorem State.setBit_padFresh (f : Fld) (n : Nat) (b : Bool) : (s.setBit f n b).padFresh = s.padFresh := rfl
@[simp] theorem State.setBit_padDirty (f : Fld) (n : Nat) (b : Bool) : (s.setBit f n b).padDirty = s.padDirty := rfl
@[simp] theorem State.setBit_bad (f : Fld) (n : Nat) (b : Bool) : (s.setBit f n b).bad = s.bad := rfl
@[simp] theorem State.setBit_banks (f : Fld) (n : Nat) (b : Bool) : (s.setBit f n b).banks = s.banks := rfl
@[simp] theorem State.setBit_lanes (f : Fld) (n : Nat) (b : Bool) : (s.setBit f n b).lanes = s.lanes := rfl
@[simp] theorem State.setBit_laneTags (f : Fld) (n : Nat) (b : Bool) : (s.setBit f n b).laneTags = s.laneTags := rfl
@[simp] theorem State.setBit_tabQueue (f : Fld) (n : Nat) (b : Bool) : (s.setBit f n b).tabQueue = s.tabQueue := rfl
@[simp] theorem State.setBit_tabPassed (f : Fld) (n : Nat) (b : Bool) : (s.setBit f n b).tabPassed = s.tabPassed := rfl
@[simp] theorem State.setBit_queues (f : Fld) (n : Nat) (b : Bool) : (s.setBit f n b).queues = s.queues := rfl
@[simp] theorem State.setBit_nextLn (f : Fld) (n : Nat) (b : Bool) : (s.setBit f n b).nextLn = s.nextLn := rfl
@[simp] theorem State.setBit_nextDec (f : Fld) (n : Nat) (b : Bool) : (s.setBit f n b).nextDec = s.nextDec := rfl
@[simp] theorem State.setBit_nextOp (f : Fld) (n : Nat) (b : Bool) : (s.setBit f n b).nextOp = s.nextOp := rfl
@[simp] theorem State.setBit_flights (f : Fld) (n : Nat) (b : Bool) : (s.setBit f n b).flights = s.flights := rfl
@[simp] theorem State.setBit_placed (f : Fld) (n : Nat) (b : Bool) : (s.setBit f n b).placed = s.placed := rfl
@[simp] theorem State.setBit_repackQ (f : Fld) (n : Nat) (b : Bool) : (s.setBit f n b).repackQ = s.repackQ := rfl
@[simp] theorem State.setBit_repack (f : Fld) (n : Nat) (b : Bool) : (s.setBit f n b).repack = s.repack := rfl
@[simp] theorem State.setBit_maskJobs (f : Fld) (n : Nat) (b : Bool) : (s.setBit f n b).maskJobs = s.maskJobs := rfl
@[simp] theorem State.setBit_masks (f : Fld) (n : Nat) (b : Bool) : (s.setBit f n b).masks = s.masks := rfl
@[simp] theorem State.setBit_reqs (f : Fld) (n : Nat) (b : Bool) : (s.setBit f n b).reqs = s.reqs := rfl
@[simp] theorem State.setBit_shadows (f : Fld) (n : Nat) (b : Bool) : (s.setBit f n b).shadows = s.shadows := rfl
@[simp] theorem State.setBit_rets (f : Fld) (n : Nat) (b : Bool) : (s.setBit f n b).rets = s.rets := rfl
@[simp] theorem State.setBit_stops (f : Fld) (n : Nat) (b : Bool) : (s.setBit f n b).stops = s.stops := rfl
@[simp] theorem State.setBit_yBlocks (f : Fld) (n : Nat) (b : Bool) : (s.setBit f n b).yBlocks = s.yBlocks := rfl
@[simp] theorem State.setBit_yLooks (f : Fld) (n : Nat) (b : Bool) : (s.setBit f n b).yLooks = s.yLooks := rfl
@[simp] theorem State.setBit_out (f : Fld) (n : Nat) (b : Bool) : (s.setBit f n b).out = s.out := rfl
@[simp] theorem State.setBit_gotten (f : Fld) (n : Nat) (b : Bool) : (s.setBit f n b).gotten = s.gotten := rfl
@[simp] theorem State.setBit_link (f : Fld) (n : Nat) (b : Bool) : (s.setBit f n b).link = s.link := rfl
@[simp] theorem State.setBit_arb (f : Fld) (n : Nat) (b : Bool) : (s.setBit f n b).arb = s.arb := rfl
@[simp] theorem State.setBit_sync (f : Fld) (n : Nat) (b : Bool) : (s.setBit f n b).sync = s.sync := rfl
@[simp] theorem State.setBit_power (f : Fld) (n : Nat) (b : Bool) : (s.setBit f n b).power = s.power := rfl
@[simp] theorem State.setBit_ev (f : Fld) (n : Nat) (b : Bool) : (s.setBit f n b).ev = s.ev := rfl
@[simp] theorem State.setBit_far (f : Fld) (n : Nat) (b : Bool) : (s.setBit f n b).far = s.far := rfl
@[simp] theorem State.setBit_test (f : Fld) (n : Nat) (b : Bool) : (s.setBit f n b).test = s.test := rfl
@[simp] theorem State.setBit_sorrel (f : Fld) (n : Nat) (b : Bool) : (s.setBit f n b).sorrel = s.sorrel := rfl
@[simp] theorem State.setBit_scrub (f : Fld) (n : Nat) (b : Bool) : (s.setBit f n b).scrub = s.scrub := rfl
@[simp] theorem State.setBit_quiesced (f : Fld) (n : Nat) (b : Bool) : (s.setBit f n b).quiesced = s.quiesced := rfl

/-! `bump`. -/

@[simp] theorem State.bump_pending : s.bump.pending = s.pending := rfl
@[simp] theorem State.bump_freeCtr : s.bump.freeCtr = s.freeCtr + 1 := rfl
@[simp] theorem State.bump_resp : s.bump.resp = s.resp := rfl
@[simp] theorem State.bump_respHdr : s.bump.respHdr = s.respHdr := rfl
@[simp] theorem State.bump_regs : s.bump.regs = s.regs := rfl
@[simp] theorem State.bump_mem : s.bump.mem = s.mem := rfl
@[simp] theorem State.bump_memMark : s.bump.memMark = s.memMark := rfl
@[simp] theorem State.bump_fuses : s.bump.fuses = s.fuses := rfl
@[simp] theorem State.bump_fuseCopy : s.bump.fuseCopy = s.fuseCopy := rfl
@[simp] theorem State.bump_trims : s.bump.trims = s.trims := rfl
@[simp] theorem State.bump_pad : s.bump.pad = s.pad := rfl
@[simp] theorem State.bump_padFresh : s.bump.padFresh = s.padFresh := rfl
@[simp] theorem State.bump_padDirty : s.bump.padDirty = s.padDirty := rfl
@[simp] theorem State.bump_bad : s.bump.bad = s.bad := rfl
@[simp] theorem State.bump_banks : s.bump.banks = s.banks := rfl
@[simp] theorem State.bump_lanes : s.bump.lanes = s.lanes := rfl
@[simp] theorem State.bump_laneTags : s.bump.laneTags = s.laneTags := rfl
@[simp] theorem State.bump_tabQueue : s.bump.tabQueue = s.tabQueue := rfl
@[simp] theorem State.bump_tabPassed : s.bump.tabPassed = s.tabPassed := rfl
@[simp] theorem State.bump_queues : s.bump.queues = s.queues := rfl
@[simp] theorem State.bump_nextLn : s.bump.nextLn = s.nextLn := rfl
@[simp] theorem State.bump_nextDec : s.bump.nextDec = s.nextDec := rfl
@[simp] theorem State.bump_nextOp : s.bump.nextOp = s.nextOp := rfl
@[simp] theorem State.bump_flights : s.bump.flights = s.flights := rfl
@[simp] theorem State.bump_placed : s.bump.placed = s.placed := rfl
@[simp] theorem State.bump_repackQ : s.bump.repackQ = s.repackQ := rfl
@[simp] theorem State.bump_repack : s.bump.repack = s.repack := rfl
@[simp] theorem State.bump_maskJobs : s.bump.maskJobs = s.maskJobs := rfl
@[simp] theorem State.bump_masks : s.bump.masks = s.masks := rfl
@[simp] theorem State.bump_reqs : s.bump.reqs = s.reqs := rfl
@[simp] theorem State.bump_shadows : s.bump.shadows = s.shadows := rfl
@[simp] theorem State.bump_rets : s.bump.rets = s.rets := rfl
@[simp] theorem State.bump_stops : s.bump.stops = s.stops := rfl
@[simp] theorem State.bump_yBlocks : s.bump.yBlocks = s.yBlocks := rfl
@[simp] theorem State.bump_yLooks : s.bump.yLooks = s.yLooks := rfl
@[simp] theorem State.bump_out : s.bump.out = s.out := rfl
@[simp] theorem State.bump_gotten : s.bump.gotten = s.gotten := rfl
@[simp] theorem State.bump_link : s.bump.link = s.link := rfl
@[simp] theorem State.bump_arb : s.bump.arb = s.arb := rfl
@[simp] theorem State.bump_sync : s.bump.sync = s.sync := rfl
@[simp] theorem State.bump_power : s.bump.power = s.power := rfl
@[simp] theorem State.bump_ev : s.bump.ev = s.ev := rfl
@[simp] theorem State.bump_far : s.bump.far = s.far := rfl
@[simp] theorem State.bump_test : s.bump.test = s.test := rfl
@[simp] theorem State.bump_sorrel : s.bump.sorrel = s.sorrel := rfl
@[simp] theorem State.bump_scrub : s.bump.scrub = s.scrub := rfl
@[simp] theorem State.bump_quiesced : s.bump.quiesced = s.quiesced := rfl
@[simp] theorem State.bump_reg (o : Nat) : s.bump.reg o = s.reg o := rfl
@[simp] theorem State.bump_getF (g : Fld) : s.bump.getF g = s.getF g := rfl
@[simp] theorem State.bump_flag (g : Fld) : s.bump.flag g = s.flag g := rfl

/-! `answer`. -/

@[simp] theorem State.answer_pending (st : Nat) (ws : List Word64) : (s.answer st ws).pending = s.pending := rfl
@[simp] theorem State.answer_freeCtr (st : Nat) (ws : List Word64) : (s.answer st ws).freeCtr = s.freeCtr := rfl
@[simp] theorem State.answer_resp (st : Nat) (ws : List Word64) : (s.answer st ws).resp = some ⟨st, ws⟩ := rfl
@[simp] theorem State.answer_respHdr (st : Nat) (ws : List Word64) : (s.answer st ws).respHdr = s.respHdr := rfl
@[simp] theorem State.answer_regs (st : Nat) (ws : List Word64) : (s.answer st ws).regs = s.regs := rfl
@[simp] theorem State.answer_mem (st : Nat) (ws : List Word64) : (s.answer st ws).mem = s.mem := rfl
@[simp] theorem State.answer_memMark (st : Nat) (ws : List Word64) : (s.answer st ws).memMark = s.memMark := rfl
@[simp] theorem State.answer_fuses (st : Nat) (ws : List Word64) : (s.answer st ws).fuses = s.fuses := rfl
@[simp] theorem State.answer_fuseCopy (st : Nat) (ws : List Word64) : (s.answer st ws).fuseCopy = s.fuseCopy := rfl
@[simp] theorem State.answer_trims (st : Nat) (ws : List Word64) : (s.answer st ws).trims = s.trims := rfl
@[simp] theorem State.answer_pad (st : Nat) (ws : List Word64) : (s.answer st ws).pad = s.pad := rfl
@[simp] theorem State.answer_padFresh (st : Nat) (ws : List Word64) : (s.answer st ws).padFresh = s.padFresh := rfl
@[simp] theorem State.answer_padDirty (st : Nat) (ws : List Word64) : (s.answer st ws).padDirty = s.padDirty := rfl
@[simp] theorem State.answer_bad (st : Nat) (ws : List Word64) : (s.answer st ws).bad = s.bad := rfl
@[simp] theorem State.answer_banks (st : Nat) (ws : List Word64) : (s.answer st ws).banks = s.banks := rfl
@[simp] theorem State.answer_lanes (st : Nat) (ws : List Word64) : (s.answer st ws).lanes = s.lanes := rfl
@[simp] theorem State.answer_laneTags (st : Nat) (ws : List Word64) : (s.answer st ws).laneTags = s.laneTags := rfl
@[simp] theorem State.answer_tabQueue (st : Nat) (ws : List Word64) : (s.answer st ws).tabQueue = s.tabQueue := rfl
@[simp] theorem State.answer_tabPassed (st : Nat) (ws : List Word64) : (s.answer st ws).tabPassed = s.tabPassed := rfl
@[simp] theorem State.answer_queues (st : Nat) (ws : List Word64) : (s.answer st ws).queues = s.queues := rfl
@[simp] theorem State.answer_nextLn (st : Nat) (ws : List Word64) : (s.answer st ws).nextLn = s.nextLn := rfl
@[simp] theorem State.answer_nextDec (st : Nat) (ws : List Word64) : (s.answer st ws).nextDec = s.nextDec := rfl
@[simp] theorem State.answer_nextOp (st : Nat) (ws : List Word64) : (s.answer st ws).nextOp = s.nextOp := rfl
@[simp] theorem State.answer_flights (st : Nat) (ws : List Word64) : (s.answer st ws).flights = s.flights := rfl
@[simp] theorem State.answer_placed (st : Nat) (ws : List Word64) : (s.answer st ws).placed = s.placed := rfl
@[simp] theorem State.answer_repackQ (st : Nat) (ws : List Word64) : (s.answer st ws).repackQ = s.repackQ := rfl
@[simp] theorem State.answer_repack (st : Nat) (ws : List Word64) : (s.answer st ws).repack = s.repack := rfl
@[simp] theorem State.answer_maskJobs (st : Nat) (ws : List Word64) : (s.answer st ws).maskJobs = s.maskJobs := rfl
@[simp] theorem State.answer_masks (st : Nat) (ws : List Word64) : (s.answer st ws).masks = s.masks := rfl
@[simp] theorem State.answer_reqs (st : Nat) (ws : List Word64) : (s.answer st ws).reqs = s.reqs := rfl
@[simp] theorem State.answer_shadows (st : Nat) (ws : List Word64) : (s.answer st ws).shadows = s.shadows := rfl
@[simp] theorem State.answer_rets (st : Nat) (ws : List Word64) : (s.answer st ws).rets = s.rets := rfl
@[simp] theorem State.answer_stops (st : Nat) (ws : List Word64) : (s.answer st ws).stops = s.stops := rfl
@[simp] theorem State.answer_yBlocks (st : Nat) (ws : List Word64) : (s.answer st ws).yBlocks = s.yBlocks := rfl
@[simp] theorem State.answer_yLooks (st : Nat) (ws : List Word64) : (s.answer st ws).yLooks = s.yLooks := rfl
@[simp] theorem State.answer_out (st : Nat) (ws : List Word64) : (s.answer st ws).out = s.out := rfl
@[simp] theorem State.answer_gotten (st : Nat) (ws : List Word64) : (s.answer st ws).gotten = s.gotten := rfl
@[simp] theorem State.answer_link (st : Nat) (ws : List Word64) : (s.answer st ws).link = s.link := rfl
@[simp] theorem State.answer_arb (st : Nat) (ws : List Word64) : (s.answer st ws).arb = s.arb := rfl
@[simp] theorem State.answer_sync (st : Nat) (ws : List Word64) : (s.answer st ws).sync = s.sync := rfl
@[simp] theorem State.answer_power (st : Nat) (ws : List Word64) : (s.answer st ws).power = s.power := rfl
@[simp] theorem State.answer_ev (st : Nat) (ws : List Word64) : (s.answer st ws).ev = s.ev := rfl
@[simp] theorem State.answer_far (st : Nat) (ws : List Word64) : (s.answer st ws).far = s.far := rfl
@[simp] theorem State.answer_test (st : Nat) (ws : List Word64) : (s.answer st ws).test = s.test := rfl
@[simp] theorem State.answer_sorrel (st : Nat) (ws : List Word64) : (s.answer st ws).sorrel = s.sorrel := rfl
@[simp] theorem State.answer_scrub (st : Nat) (ws : List Word64) : (s.answer st ws).scrub = s.scrub := rfl
@[simp] theorem State.answer_quiesced (st : Nat) (ws : List Word64) : (s.answer st ws).quiesced = s.quiesced := rfl
@[simp] theorem State.answer_reg (st : Nat) (ws : List Word64) (o : Nat) : (s.answer st ws).reg o = s.reg o := rfl
@[simp] theorem State.answer_getF (st : Nat) (ws : List Word64) (g : Fld) : (s.answer st ws).getF g = s.getF g := rfl
@[simp] theorem State.answer_flag (st : Nat) (ws : List Word64) (g : Fld) : (s.answer st ws).flag g = s.flag g := rfl

/-! `putMem`. -/

@[simp] theorem State.putMem_pending (a : Nat) (bs : List Byte) : (s.putMem a bs).pending = s.pending := rfl
@[simp] theorem State.putMem_freeCtr (a : Nat) (bs : List Byte) : (s.putMem a bs).freeCtr = s.freeCtr := rfl
@[simp] theorem State.putMem_resp (a : Nat) (bs : List Byte) : (s.putMem a bs).resp = s.resp := rfl
@[simp] theorem State.putMem_respHdr (a : Nat) (bs : List Byte) : (s.putMem a bs).respHdr = s.respHdr := rfl
@[simp] theorem State.putMem_regs (a : Nat) (bs : List Byte) : (s.putMem a bs).regs = s.regs := rfl
@[simp] theorem State.putMem_mem (a : Nat) (bs : List Byte) : (s.putMem a bs).mem = Store.writeRange memDefault s.mem a bs := rfl
@[simp] theorem State.putMem_memMark (a : Nat) (bs : List Byte) : (s.putMem a bs).memMark = s.memMark := rfl
@[simp] theorem State.putMem_fuses (a : Nat) (bs : List Byte) : (s.putMem a bs).fuses = s.fuses := rfl
@[simp] theorem State.putMem_fuseCopy (a : Nat) (bs : List Byte) : (s.putMem a bs).fuseCopy = s.fuseCopy := rfl
@[simp] theorem State.putMem_trims (a : Nat) (bs : List Byte) : (s.putMem a bs).trims = s.trims := rfl
@[simp] theorem State.putMem_pad (a : Nat) (bs : List Byte) : (s.putMem a bs).pad = s.pad := rfl
@[simp] theorem State.putMem_padFresh (a : Nat) (bs : List Byte) : (s.putMem a bs).padFresh = s.padFresh := rfl
@[simp] theorem State.putMem_padDirty (a : Nat) (bs : List Byte) : (s.putMem a bs).padDirty = s.padDirty := rfl
@[simp] theorem State.putMem_bad (a : Nat) (bs : List Byte) : (s.putMem a bs).bad = s.bad := rfl
@[simp] theorem State.putMem_banks (a : Nat) (bs : List Byte) : (s.putMem a bs).banks = s.banks := rfl
@[simp] theorem State.putMem_lanes (a : Nat) (bs : List Byte) : (s.putMem a bs).lanes = s.lanes := rfl
@[simp] theorem State.putMem_laneTags (a : Nat) (bs : List Byte) : (s.putMem a bs).laneTags = s.laneTags := rfl
@[simp] theorem State.putMem_tabQueue (a : Nat) (bs : List Byte) : (s.putMem a bs).tabQueue = s.tabQueue := rfl
@[simp] theorem State.putMem_tabPassed (a : Nat) (bs : List Byte) : (s.putMem a bs).tabPassed = s.tabPassed := rfl
@[simp] theorem State.putMem_queues (a : Nat) (bs : List Byte) : (s.putMem a bs).queues = s.queues := rfl
@[simp] theorem State.putMem_nextLn (a : Nat) (bs : List Byte) : (s.putMem a bs).nextLn = s.nextLn := rfl
@[simp] theorem State.putMem_nextDec (a : Nat) (bs : List Byte) : (s.putMem a bs).nextDec = s.nextDec := rfl
@[simp] theorem State.putMem_nextOp (a : Nat) (bs : List Byte) : (s.putMem a bs).nextOp = s.nextOp := rfl
@[simp] theorem State.putMem_flights (a : Nat) (bs : List Byte) : (s.putMem a bs).flights = s.flights := rfl
@[simp] theorem State.putMem_placed (a : Nat) (bs : List Byte) : (s.putMem a bs).placed = s.placed := rfl
@[simp] theorem State.putMem_repackQ (a : Nat) (bs : List Byte) : (s.putMem a bs).repackQ = s.repackQ := rfl
@[simp] theorem State.putMem_repack (a : Nat) (bs : List Byte) : (s.putMem a bs).repack = s.repack := rfl
@[simp] theorem State.putMem_maskJobs (a : Nat) (bs : List Byte) : (s.putMem a bs).maskJobs = s.maskJobs := rfl
@[simp] theorem State.putMem_masks (a : Nat) (bs : List Byte) : (s.putMem a bs).masks = s.masks := rfl
@[simp] theorem State.putMem_reqs (a : Nat) (bs : List Byte) : (s.putMem a bs).reqs = s.reqs := rfl
@[simp] theorem State.putMem_shadows (a : Nat) (bs : List Byte) : (s.putMem a bs).shadows = s.shadows := rfl
@[simp] theorem State.putMem_rets (a : Nat) (bs : List Byte) : (s.putMem a bs).rets = s.rets := rfl
@[simp] theorem State.putMem_stops (a : Nat) (bs : List Byte) : (s.putMem a bs).stops = s.stops := rfl
@[simp] theorem State.putMem_yBlocks (a : Nat) (bs : List Byte) : (s.putMem a bs).yBlocks = s.yBlocks := rfl
@[simp] theorem State.putMem_yLooks (a : Nat) (bs : List Byte) : (s.putMem a bs).yLooks = s.yLooks := rfl
@[simp] theorem State.putMem_out (a : Nat) (bs : List Byte) : (s.putMem a bs).out = s.out := rfl
@[simp] theorem State.putMem_gotten (a : Nat) (bs : List Byte) : (s.putMem a bs).gotten = s.gotten := rfl
@[simp] theorem State.putMem_link (a : Nat) (bs : List Byte) : (s.putMem a bs).link = s.link := rfl
@[simp] theorem State.putMem_arb (a : Nat) (bs : List Byte) : (s.putMem a bs).arb = s.arb := rfl
@[simp] theorem State.putMem_sync (a : Nat) (bs : List Byte) : (s.putMem a bs).sync = s.sync := rfl
@[simp] theorem State.putMem_power (a : Nat) (bs : List Byte) : (s.putMem a bs).power = s.power := rfl
@[simp] theorem State.putMem_ev (a : Nat) (bs : List Byte) : (s.putMem a bs).ev = s.ev := rfl
@[simp] theorem State.putMem_far (a : Nat) (bs : List Byte) : (s.putMem a bs).far = s.far := rfl
@[simp] theorem State.putMem_test (a : Nat) (bs : List Byte) : (s.putMem a bs).test = s.test := rfl
@[simp] theorem State.putMem_sorrel (a : Nat) (bs : List Byte) : (s.putMem a bs).sorrel = s.sorrel := rfl
@[simp] theorem State.putMem_scrub (a : Nat) (bs : List Byte) : (s.putMem a bs).scrub = s.scrub := rfl
@[simp] theorem State.putMem_quiesced (a : Nat) (bs : List Byte) : (s.putMem a bs).quiesced = s.quiesced := rfl
@[simp] theorem State.putMem_reg (a : Nat) (bs : List Byte) (o : Nat) : (s.putMem a bs).reg o = s.reg o := rfl
@[simp] theorem State.putMem_getF (a : Nat) (bs : List Byte) (g : Fld) : (s.putMem a bs).getF g = s.getF g := rfl
@[simp] theorem State.putMem_flag (a : Nat) (bs : List Byte) (g : Fld) : (s.putMem a bs).flag g = s.flag g := rfl

/-! `putPad`. -/

@[simp] theorem State.putPad_pending (cl b : Nat) (bs : List Byte) : (s.putPad cl b bs).pending = s.pending := rfl
@[simp] theorem State.putPad_freeCtr (cl b : Nat) (bs : List Byte) : (s.putPad cl b bs).freeCtr = s.freeCtr := rfl
@[simp] theorem State.putPad_resp (cl b : Nat) (bs : List Byte) : (s.putPad cl b bs).resp = s.resp := rfl
@[simp] theorem State.putPad_respHdr (cl b : Nat) (bs : List Byte) : (s.putPad cl b bs).respHdr = s.respHdr := rfl
@[simp] theorem State.putPad_regs (cl b : Nat) (bs : List Byte) : (s.putPad cl b bs).regs = s.regs := rfl
@[simp] theorem State.putPad_mem (cl b : Nat) (bs : List Byte) : (s.putPad cl b bs).mem = s.mem := rfl
@[simp] theorem State.putPad_memMark (cl b : Nat) (bs : List Byte) : (s.putPad cl b bs).memMark = s.memMark := rfl
@[simp] theorem State.putPad_fuses (cl b : Nat) (bs : List Byte) : (s.putPad cl b bs).fuses = s.fuses := rfl
@[simp] theorem State.putPad_fuseCopy (cl b : Nat) (bs : List Byte) : (s.putPad cl b bs).fuseCopy = s.fuseCopy := rfl
@[simp] theorem State.putPad_trims (cl b : Nat) (bs : List Byte) : (s.putPad cl b bs).trims = s.trims := rfl
@[simp] theorem State.putPad_pad (cl b : Nat) (bs : List Byte) : (s.putPad cl b bs).pad = Store.writeRange padDefault s.pad (padKey cl b) bs := rfl
@[simp] theorem State.putPad_padFresh (cl b : Nat) (bs : List Byte) : (s.putPad cl b bs).padFresh = s.padFresh := rfl
@[simp] theorem State.putPad_padDirty (cl b : Nat) (bs : List Byte) : (s.putPad cl b bs).padDirty = s.padDirty := rfl
@[simp] theorem State.putPad_bad (cl b : Nat) (bs : List Byte) : (s.putPad cl b bs).bad = s.bad := rfl
@[simp] theorem State.putPad_banks (cl b : Nat) (bs : List Byte) : (s.putPad cl b bs).banks = s.banks := rfl
@[simp] theorem State.putPad_lanes (cl b : Nat) (bs : List Byte) : (s.putPad cl b bs).lanes = s.lanes := rfl
@[simp] theorem State.putPad_laneTags (cl b : Nat) (bs : List Byte) : (s.putPad cl b bs).laneTags = s.laneTags := rfl
@[simp] theorem State.putPad_tabQueue (cl b : Nat) (bs : List Byte) : (s.putPad cl b bs).tabQueue = s.tabQueue := rfl
@[simp] theorem State.putPad_tabPassed (cl b : Nat) (bs : List Byte) : (s.putPad cl b bs).tabPassed = s.tabPassed := rfl
@[simp] theorem State.putPad_queues (cl b : Nat) (bs : List Byte) : (s.putPad cl b bs).queues = s.queues := rfl
@[simp] theorem State.putPad_nextLn (cl b : Nat) (bs : List Byte) : (s.putPad cl b bs).nextLn = s.nextLn := rfl
@[simp] theorem State.putPad_nextDec (cl b : Nat) (bs : List Byte) : (s.putPad cl b bs).nextDec = s.nextDec := rfl
@[simp] theorem State.putPad_nextOp (cl b : Nat) (bs : List Byte) : (s.putPad cl b bs).nextOp = s.nextOp := rfl
@[simp] theorem State.putPad_flights (cl b : Nat) (bs : List Byte) : (s.putPad cl b bs).flights = s.flights := rfl
@[simp] theorem State.putPad_placed (cl b : Nat) (bs : List Byte) : (s.putPad cl b bs).placed = s.placed := rfl
@[simp] theorem State.putPad_repackQ (cl b : Nat) (bs : List Byte) : (s.putPad cl b bs).repackQ = s.repackQ := rfl
@[simp] theorem State.putPad_repack (cl b : Nat) (bs : List Byte) : (s.putPad cl b bs).repack = s.repack := rfl
@[simp] theorem State.putPad_maskJobs (cl b : Nat) (bs : List Byte) : (s.putPad cl b bs).maskJobs = s.maskJobs := rfl
@[simp] theorem State.putPad_masks (cl b : Nat) (bs : List Byte) : (s.putPad cl b bs).masks = s.masks := rfl
@[simp] theorem State.putPad_reqs (cl b : Nat) (bs : List Byte) : (s.putPad cl b bs).reqs = s.reqs := rfl
@[simp] theorem State.putPad_shadows (cl b : Nat) (bs : List Byte) : (s.putPad cl b bs).shadows = s.shadows := rfl
@[simp] theorem State.putPad_rets (cl b : Nat) (bs : List Byte) : (s.putPad cl b bs).rets = s.rets := rfl
@[simp] theorem State.putPad_stops (cl b : Nat) (bs : List Byte) : (s.putPad cl b bs).stops = s.stops := rfl
@[simp] theorem State.putPad_yBlocks (cl b : Nat) (bs : List Byte) : (s.putPad cl b bs).yBlocks = s.yBlocks := rfl
@[simp] theorem State.putPad_yLooks (cl b : Nat) (bs : List Byte) : (s.putPad cl b bs).yLooks = s.yLooks := rfl
@[simp] theorem State.putPad_out (cl b : Nat) (bs : List Byte) : (s.putPad cl b bs).out = s.out := rfl
@[simp] theorem State.putPad_gotten (cl b : Nat) (bs : List Byte) : (s.putPad cl b bs).gotten = s.gotten := rfl
@[simp] theorem State.putPad_link (cl b : Nat) (bs : List Byte) : (s.putPad cl b bs).link = s.link := rfl
@[simp] theorem State.putPad_arb (cl b : Nat) (bs : List Byte) : (s.putPad cl b bs).arb = s.arb := rfl
@[simp] theorem State.putPad_sync (cl b : Nat) (bs : List Byte) : (s.putPad cl b bs).sync = s.sync := rfl
@[simp] theorem State.putPad_power (cl b : Nat) (bs : List Byte) : (s.putPad cl b bs).power = s.power := rfl
@[simp] theorem State.putPad_ev (cl b : Nat) (bs : List Byte) : (s.putPad cl b bs).ev = s.ev := rfl
@[simp] theorem State.putPad_far (cl b : Nat) (bs : List Byte) : (s.putPad cl b bs).far = s.far := rfl
@[simp] theorem State.putPad_test (cl b : Nat) (bs : List Byte) : (s.putPad cl b bs).test = s.test := rfl
@[simp] theorem State.putPad_sorrel (cl b : Nat) (bs : List Byte) : (s.putPad cl b bs).sorrel = s.sorrel := rfl
@[simp] theorem State.putPad_scrub (cl b : Nat) (bs : List Byte) : (s.putPad cl b bs).scrub = s.scrub := rfl
@[simp] theorem State.putPad_quiesced (cl b : Nat) (bs : List Byte) : (s.putPad cl b bs).quiesced = s.quiesced := rfl
@[simp] theorem State.putPad_reg (cl b : Nat) (bs : List Byte) (o : Nat) : (s.putPad cl b bs).reg o = s.reg o := rfl
@[simp] theorem State.putPad_getF (cl b : Nat) (bs : List Byte) (g : Fld) : (s.putPad cl b bs).getF g = s.getF g := rfl
@[simp] theorem State.putPad_flag (cl b : Nat) (bs : List Byte) (g : Fld) : (s.putPad cl b bs).flag g = s.flag g := rfl

/-! `setQx`. -/

@[simp] theorem State.setQx_pending (q : Nat) (x : QueueX) : (s.setQx q x).pending = s.pending := rfl
@[simp] theorem State.setQx_freeCtr (q : Nat) (x : QueueX) : (s.setQx q x).freeCtr = s.freeCtr := rfl
@[simp] theorem State.setQx_resp (q : Nat) (x : QueueX) : (s.setQx q x).resp = s.resp := rfl
@[simp] theorem State.setQx_respHdr (q : Nat) (x : QueueX) : (s.setQx q x).respHdr = s.respHdr := rfl
@[simp] theorem State.setQx_regs (q : Nat) (x : QueueX) : (s.setQx q x).regs = s.regs := rfl
@[simp] theorem State.setQx_mem (q : Nat) (x : QueueX) : (s.setQx q x).mem = s.mem := rfl
@[simp] theorem State.setQx_memMark (q : Nat) (x : QueueX) : (s.setQx q x).memMark = s.memMark := rfl
@[simp] theorem State.setQx_fuses (q : Nat) (x : QueueX) : (s.setQx q x).fuses = s.fuses := rfl
@[simp] theorem State.setQx_fuseCopy (q : Nat) (x : QueueX) : (s.setQx q x).fuseCopy = s.fuseCopy := rfl
@[simp] theorem State.setQx_trims (q : Nat) (x : QueueX) : (s.setQx q x).trims = s.trims := rfl
@[simp] theorem State.setQx_pad (q : Nat) (x : QueueX) : (s.setQx q x).pad = s.pad := rfl
@[simp] theorem State.setQx_padFresh (q : Nat) (x : QueueX) : (s.setQx q x).padFresh = s.padFresh := rfl
@[simp] theorem State.setQx_padDirty (q : Nat) (x : QueueX) : (s.setQx q x).padDirty = s.padDirty := rfl
@[simp] theorem State.setQx_bad (q : Nat) (x : QueueX) : (s.setQx q x).bad = s.bad := rfl
@[simp] theorem State.setQx_banks (q : Nat) (x : QueueX) : (s.setQx q x).banks = s.banks := rfl
@[simp] theorem State.setQx_lanes (q : Nat) (x : QueueX) : (s.setQx q x).lanes = s.lanes := rfl
@[simp] theorem State.setQx_laneTags (q : Nat) (x : QueueX) : (s.setQx q x).laneTags = s.laneTags := rfl
@[simp] theorem State.setQx_tabQueue (q : Nat) (x : QueueX) : (s.setQx q x).tabQueue = s.tabQueue := rfl
@[simp] theorem State.setQx_tabPassed (q : Nat) (x : QueueX) : (s.setQx q x).tabPassed = s.tabPassed := rfl
@[simp] theorem State.setQx_queues (q : Nat) (x : QueueX) : (s.setQx q x).queues = s.queues.set q x := rfl
@[simp] theorem State.setQx_nextLn (q : Nat) (x : QueueX) : (s.setQx q x).nextLn = s.nextLn := rfl
@[simp] theorem State.setQx_nextDec (q : Nat) (x : QueueX) : (s.setQx q x).nextDec = s.nextDec := rfl
@[simp] theorem State.setQx_nextOp (q : Nat) (x : QueueX) : (s.setQx q x).nextOp = s.nextOp := rfl
@[simp] theorem State.setQx_flights (q : Nat) (x : QueueX) : (s.setQx q x).flights = s.flights := rfl
@[simp] theorem State.setQx_placed (q : Nat) (x : QueueX) : (s.setQx q x).placed = s.placed := rfl
@[simp] theorem State.setQx_repackQ (q : Nat) (x : QueueX) : (s.setQx q x).repackQ = s.repackQ := rfl
@[simp] theorem State.setQx_repack (q : Nat) (x : QueueX) : (s.setQx q x).repack = s.repack := rfl
@[simp] theorem State.setQx_maskJobs (q : Nat) (x : QueueX) : (s.setQx q x).maskJobs = s.maskJobs := rfl
@[simp] theorem State.setQx_masks (q : Nat) (x : QueueX) : (s.setQx q x).masks = s.masks := rfl
@[simp] theorem State.setQx_reqs (q : Nat) (x : QueueX) : (s.setQx q x).reqs = s.reqs := rfl
@[simp] theorem State.setQx_shadows (q : Nat) (x : QueueX) : (s.setQx q x).shadows = s.shadows := rfl
@[simp] theorem State.setQx_rets (q : Nat) (x : QueueX) : (s.setQx q x).rets = s.rets := rfl
@[simp] theorem State.setQx_stops (q : Nat) (x : QueueX) : (s.setQx q x).stops = s.stops := rfl
@[simp] theorem State.setQx_yBlocks (q : Nat) (x : QueueX) : (s.setQx q x).yBlocks = s.yBlocks := rfl
@[simp] theorem State.setQx_yLooks (q : Nat) (x : QueueX) : (s.setQx q x).yLooks = s.yLooks := rfl
@[simp] theorem State.setQx_out (q : Nat) (x : QueueX) : (s.setQx q x).out = s.out := rfl
@[simp] theorem State.setQx_gotten (q : Nat) (x : QueueX) : (s.setQx q x).gotten = s.gotten := rfl
@[simp] theorem State.setQx_link (q : Nat) (x : QueueX) : (s.setQx q x).link = s.link := rfl
@[simp] theorem State.setQx_arb (q : Nat) (x : QueueX) : (s.setQx q x).arb = s.arb := rfl
@[simp] theorem State.setQx_sync (q : Nat) (x : QueueX) : (s.setQx q x).sync = s.sync := rfl
@[simp] theorem State.setQx_power (q : Nat) (x : QueueX) : (s.setQx q x).power = s.power := rfl
@[simp] theorem State.setQx_ev (q : Nat) (x : QueueX) : (s.setQx q x).ev = s.ev := rfl
@[simp] theorem State.setQx_far (q : Nat) (x : QueueX) : (s.setQx q x).far = s.far := rfl
@[simp] theorem State.setQx_test (q : Nat) (x : QueueX) : (s.setQx q x).test = s.test := rfl
@[simp] theorem State.setQx_sorrel (q : Nat) (x : QueueX) : (s.setQx q x).sorrel = s.sorrel := rfl
@[simp] theorem State.setQx_scrub (q : Nat) (x : QueueX) : (s.setQx q x).scrub = s.scrub := rfl
@[simp] theorem State.setQx_quiesced (q : Nat) (x : QueueX) : (s.setQx q x).quiesced = s.quiesced := rfl
@[simp] theorem State.setQx_reg (q : Nat) (x : QueueX) (o : Nat) : (s.setQx q x).reg o = s.reg o := rfl
@[simp] theorem State.setQx_getF (q : Nat) (x : QueueX) (g : Fld) : (s.setQx q x).getF g = s.getF g := rfl
@[simp] theorem State.setQx_flag (q : Nat) (x : QueueX) (g : Fld) : (s.setQx q x).flag g = s.flag g := rfl

/-! `setFlight`. -/

@[simp] theorem State.setFlight_pending (f : Flight) : (s.setFlight f).pending = s.pending := rfl
@[simp] theorem State.setFlight_freeCtr (f : Flight) : (s.setFlight f).freeCtr = s.freeCtr := rfl
@[simp] theorem State.setFlight_resp (f : Flight) : (s.setFlight f).resp = s.resp := rfl
@[simp] theorem State.setFlight_respHdr (f : Flight) : (s.setFlight f).respHdr = s.respHdr := rfl
@[simp] theorem State.setFlight_regs (f : Flight) : (s.setFlight f).regs = s.regs := rfl
@[simp] theorem State.setFlight_mem (f : Flight) : (s.setFlight f).mem = s.mem := rfl
@[simp] theorem State.setFlight_memMark (f : Flight) : (s.setFlight f).memMark = s.memMark := rfl
@[simp] theorem State.setFlight_fuses (f : Flight) : (s.setFlight f).fuses = s.fuses := rfl
@[simp] theorem State.setFlight_fuseCopy (f : Flight) : (s.setFlight f).fuseCopy = s.fuseCopy := rfl
@[simp] theorem State.setFlight_trims (f : Flight) : (s.setFlight f).trims = s.trims := rfl
@[simp] theorem State.setFlight_pad (f : Flight) : (s.setFlight f).pad = s.pad := rfl
@[simp] theorem State.setFlight_padFresh (f : Flight) : (s.setFlight f).padFresh = s.padFresh := rfl
@[simp] theorem State.setFlight_padDirty (f : Flight) : (s.setFlight f).padDirty = s.padDirty := rfl
@[simp] theorem State.setFlight_bad (f : Flight) : (s.setFlight f).bad = s.bad := rfl
@[simp] theorem State.setFlight_banks (f : Flight) : (s.setFlight f).banks = s.banks := rfl
@[simp] theorem State.setFlight_lanes (f : Flight) : (s.setFlight f).lanes = s.lanes := rfl
@[simp] theorem State.setFlight_laneTags (f : Flight) : (s.setFlight f).laneTags = s.laneTags := rfl
@[simp] theorem State.setFlight_tabQueue (f : Flight) : (s.setFlight f).tabQueue = s.tabQueue := rfl
@[simp] theorem State.setFlight_tabPassed (f : Flight) : (s.setFlight f).tabPassed = s.tabPassed := rfl
@[simp] theorem State.setFlight_queues (f : Flight) : (s.setFlight f).queues = s.queues := rfl
@[simp] theorem State.setFlight_nextLn (f : Flight) : (s.setFlight f).nextLn = s.nextLn := rfl
@[simp] theorem State.setFlight_nextDec (f : Flight) : (s.setFlight f).nextDec = s.nextDec := rfl
@[simp] theorem State.setFlight_nextOp (f : Flight) : (s.setFlight f).nextOp = s.nextOp := rfl
@[simp] theorem State.setFlight_flights (f : Flight) : (s.setFlight f).flights = s.flights.map fun g => if g.ln == f.ln then f else g := rfl
@[simp] theorem State.setFlight_placed (f : Flight) : (s.setFlight f).placed = s.placed := rfl
@[simp] theorem State.setFlight_repackQ (f : Flight) : (s.setFlight f).repackQ = s.repackQ := rfl
@[simp] theorem State.setFlight_repack (f : Flight) : (s.setFlight f).repack = s.repack := rfl
@[simp] theorem State.setFlight_maskJobs (f : Flight) : (s.setFlight f).maskJobs = s.maskJobs := rfl
@[simp] theorem State.setFlight_masks (f : Flight) : (s.setFlight f).masks = s.masks := rfl
@[simp] theorem State.setFlight_reqs (f : Flight) : (s.setFlight f).reqs = s.reqs := rfl
@[simp] theorem State.setFlight_shadows (f : Flight) : (s.setFlight f).shadows = s.shadows := rfl
@[simp] theorem State.setFlight_rets (f : Flight) : (s.setFlight f).rets = s.rets := rfl
@[simp] theorem State.setFlight_stops (f : Flight) : (s.setFlight f).stops = s.stops := rfl
@[simp] theorem State.setFlight_yBlocks (f : Flight) : (s.setFlight f).yBlocks = s.yBlocks := rfl
@[simp] theorem State.setFlight_yLooks (f : Flight) : (s.setFlight f).yLooks = s.yLooks := rfl
@[simp] theorem State.setFlight_out (f : Flight) : (s.setFlight f).out = s.out := rfl
@[simp] theorem State.setFlight_gotten (f : Flight) : (s.setFlight f).gotten = s.gotten := rfl
@[simp] theorem State.setFlight_link (f : Flight) : (s.setFlight f).link = s.link := rfl
@[simp] theorem State.setFlight_arb (f : Flight) : (s.setFlight f).arb = s.arb := rfl
@[simp] theorem State.setFlight_sync (f : Flight) : (s.setFlight f).sync = s.sync := rfl
@[simp] theorem State.setFlight_power (f : Flight) : (s.setFlight f).power = s.power := rfl
@[simp] theorem State.setFlight_ev (f : Flight) : (s.setFlight f).ev = s.ev := rfl
@[simp] theorem State.setFlight_far (f : Flight) : (s.setFlight f).far = s.far := rfl
@[simp] theorem State.setFlight_test (f : Flight) : (s.setFlight f).test = s.test := rfl
@[simp] theorem State.setFlight_sorrel (f : Flight) : (s.setFlight f).sorrel = s.sorrel := rfl
@[simp] theorem State.setFlight_scrub (f : Flight) : (s.setFlight f).scrub = s.scrub := rfl
@[simp] theorem State.setFlight_quiesced (f : Flight) : (s.setFlight f).quiesced = s.quiesced := rfl
@[simp] theorem State.setFlight_reg (f : Flight) (o : Nat) : (s.setFlight f).reg o = s.reg o := rfl
@[simp] theorem State.setFlight_getF (f : Flight) (g : Fld) : (s.setFlight f).getF g = s.getF g := rfl
@[simp] theorem State.setFlight_flag (f : Flight) (g : Fld) : (s.setFlight f).flag g = s.flag g := rfl

/-! `setReq`. -/

@[simp] theorem State.setReq_pending (n : Nat) (r : ReqX) : (s.setReq n r).pending = s.pending := rfl
@[simp] theorem State.setReq_freeCtr (n : Nat) (r : ReqX) : (s.setReq n r).freeCtr = s.freeCtr := rfl
@[simp] theorem State.setReq_resp (n : Nat) (r : ReqX) : (s.setReq n r).resp = s.resp := rfl
@[simp] theorem State.setReq_respHdr (n : Nat) (r : ReqX) : (s.setReq n r).respHdr = s.respHdr := rfl
@[simp] theorem State.setReq_regs (n : Nat) (r : ReqX) : (s.setReq n r).regs = s.regs := rfl
@[simp] theorem State.setReq_mem (n : Nat) (r : ReqX) : (s.setReq n r).mem = s.mem := rfl
@[simp] theorem State.setReq_memMark (n : Nat) (r : ReqX) : (s.setReq n r).memMark = s.memMark := rfl
@[simp] theorem State.setReq_fuses (n : Nat) (r : ReqX) : (s.setReq n r).fuses = s.fuses := rfl
@[simp] theorem State.setReq_fuseCopy (n : Nat) (r : ReqX) : (s.setReq n r).fuseCopy = s.fuseCopy := rfl
@[simp] theorem State.setReq_trims (n : Nat) (r : ReqX) : (s.setReq n r).trims = s.trims := rfl
@[simp] theorem State.setReq_pad (n : Nat) (r : ReqX) : (s.setReq n r).pad = s.pad := rfl
@[simp] theorem State.setReq_padFresh (n : Nat) (r : ReqX) : (s.setReq n r).padFresh = s.padFresh := rfl
@[simp] theorem State.setReq_padDirty (n : Nat) (r : ReqX) : (s.setReq n r).padDirty = s.padDirty := rfl
@[simp] theorem State.setReq_bad (n : Nat) (r : ReqX) : (s.setReq n r).bad = s.bad := rfl
@[simp] theorem State.setReq_banks (n : Nat) (r : ReqX) : (s.setReq n r).banks = s.banks := rfl
@[simp] theorem State.setReq_lanes (n : Nat) (r : ReqX) : (s.setReq n r).lanes = s.lanes := rfl
@[simp] theorem State.setReq_laneTags (n : Nat) (r : ReqX) : (s.setReq n r).laneTags = s.laneTags := rfl
@[simp] theorem State.setReq_tabQueue (n : Nat) (r : ReqX) : (s.setReq n r).tabQueue = s.tabQueue := rfl
@[simp] theorem State.setReq_tabPassed (n : Nat) (r : ReqX) : (s.setReq n r).tabPassed = s.tabPassed := rfl
@[simp] theorem State.setReq_queues (n : Nat) (r : ReqX) : (s.setReq n r).queues = s.queues := rfl
@[simp] theorem State.setReq_nextLn (n : Nat) (r : ReqX) : (s.setReq n r).nextLn = s.nextLn := rfl
@[simp] theorem State.setReq_nextDec (n : Nat) (r : ReqX) : (s.setReq n r).nextDec = s.nextDec := rfl
@[simp] theorem State.setReq_nextOp (n : Nat) (r : ReqX) : (s.setReq n r).nextOp = s.nextOp := rfl
@[simp] theorem State.setReq_flights (n : Nat) (r : ReqX) : (s.setReq n r).flights = s.flights := rfl
@[simp] theorem State.setReq_placed (n : Nat) (r : ReqX) : (s.setReq n r).placed = s.placed := rfl
@[simp] theorem State.setReq_repackQ (n : Nat) (r : ReqX) : (s.setReq n r).repackQ = s.repackQ := rfl
@[simp] theorem State.setReq_repack (n : Nat) (r : ReqX) : (s.setReq n r).repack = s.repack := rfl
@[simp] theorem State.setReq_maskJobs (n : Nat) (r : ReqX) : (s.setReq n r).maskJobs = s.maskJobs := rfl
@[simp] theorem State.setReq_masks (n : Nat) (r : ReqX) : (s.setReq n r).masks = s.masks := rfl
@[simp] theorem State.setReq_reqs (n : Nat) (r : ReqX) : (s.setReq n r).reqs = Store.write reqDefault s.reqs n r := rfl
@[simp] theorem State.setReq_shadows (n : Nat) (r : ReqX) : (s.setReq n r).shadows = s.shadows := rfl
@[simp] theorem State.setReq_rets (n : Nat) (r : ReqX) : (s.setReq n r).rets = s.rets := rfl
@[simp] theorem State.setReq_stops (n : Nat) (r : ReqX) : (s.setReq n r).stops = s.stops := rfl
@[simp] theorem State.setReq_yBlocks (n : Nat) (r : ReqX) : (s.setReq n r).yBlocks = s.yBlocks := rfl
@[simp] theorem State.setReq_yLooks (n : Nat) (r : ReqX) : (s.setReq n r).yLooks = s.yLooks := rfl
@[simp] theorem State.setReq_out (n : Nat) (r : ReqX) : (s.setReq n r).out = s.out := rfl
@[simp] theorem State.setReq_gotten (n : Nat) (r : ReqX) : (s.setReq n r).gotten = s.gotten := rfl
@[simp] theorem State.setReq_link (n : Nat) (r : ReqX) : (s.setReq n r).link = s.link := rfl
@[simp] theorem State.setReq_arb (n : Nat) (r : ReqX) : (s.setReq n r).arb = s.arb := rfl
@[simp] theorem State.setReq_sync (n : Nat) (r : ReqX) : (s.setReq n r).sync = s.sync := rfl
@[simp] theorem State.setReq_power (n : Nat) (r : ReqX) : (s.setReq n r).power = s.power := rfl
@[simp] theorem State.setReq_ev (n : Nat) (r : ReqX) : (s.setReq n r).ev = s.ev := rfl
@[simp] theorem State.setReq_far (n : Nat) (r : ReqX) : (s.setReq n r).far = s.far := rfl
@[simp] theorem State.setReq_test (n : Nat) (r : ReqX) : (s.setReq n r).test = s.test := rfl
@[simp] theorem State.setReq_sorrel (n : Nat) (r : ReqX) : (s.setReq n r).sorrel = s.sorrel := rfl
@[simp] theorem State.setReq_scrub (n : Nat) (r : ReqX) : (s.setReq n r).scrub = s.scrub := rfl
@[simp] theorem State.setReq_quiesced (n : Nat) (r : ReqX) : (s.setReq n r).quiesced = s.quiesced := rfl
@[simp] theorem State.setReq_reg (n : Nat) (r : ReqX) (o : Nat) : (s.setReq n r).reg o = s.reg o := rfl
@[simp] theorem State.setReq_getF (n : Nat) (r : ReqX) (g : Fld) : (s.setReq n r).getF g = s.getF g := rfl
@[simp] theorem State.setReq_flag (n : Nat) (r : ReqX) (g : Fld) : (s.setReq n r).flag g = s.flag g := rfl

/-! `advanceG`. -/

@[simp] theorem State.advanceG_pending : s.advanceG.pending = s.pending := rfl
@[simp] theorem State.advanceG_freeCtr : s.advanceG.freeCtr = s.freeCtr := rfl
@[simp] theorem State.advanceG_resp : s.advanceG.resp = s.resp := rfl
@[simp] theorem State.advanceG_respHdr : s.advanceG.respHdr = s.respHdr := rfl
@[simp] theorem State.advanceG_regs : s.advanceG.regs = s.regs := rfl
@[simp] theorem State.advanceG_mem : s.advanceG.mem = s.mem := rfl
@[simp] theorem State.advanceG_memMark : s.advanceG.memMark = s.memMark := rfl
@[simp] theorem State.advanceG_fuses : s.advanceG.fuses = s.fuses := rfl
@[simp] theorem State.advanceG_fuseCopy : s.advanceG.fuseCopy = s.fuseCopy := rfl
@[simp] theorem State.advanceG_trims : s.advanceG.trims = s.trims := rfl
@[simp] theorem State.advanceG_pad : s.advanceG.pad = s.pad := rfl
@[simp] theorem State.advanceG_padFresh : s.advanceG.padFresh = s.padFresh := rfl
@[simp] theorem State.advanceG_padDirty : s.advanceG.padDirty = s.padDirty := rfl
@[simp] theorem State.advanceG_bad : s.advanceG.bad = s.bad := rfl
@[simp] theorem State.advanceG_banks : s.advanceG.banks = s.banks := rfl
@[simp] theorem State.advanceG_lanes : s.advanceG.lanes = s.lanes := rfl
@[simp] theorem State.advanceG_laneTags : s.advanceG.laneTags = s.laneTags := rfl
@[simp] theorem State.advanceG_tabQueue : s.advanceG.tabQueue = s.tabQueue := rfl
@[simp] theorem State.advanceG_tabPassed : s.advanceG.tabPassed = s.tabPassed := rfl
@[simp] theorem State.advanceG_queues : s.advanceG.queues = s.queues := rfl
@[simp] theorem State.advanceG_nextLn : s.advanceG.nextLn = s.nextLn := rfl
@[simp] theorem State.advanceG_nextDec : s.advanceG.nextDec = s.nextDec := rfl
@[simp] theorem State.advanceG_nextOp : s.advanceG.nextOp = s.nextOp := rfl
@[simp] theorem State.advanceG_flights : s.advanceG.flights = s.flights := rfl
@[simp] theorem State.advanceG_placed : s.advanceG.placed = s.placed := rfl
@[simp] theorem State.advanceG_repackQ : s.advanceG.repackQ = s.repackQ := rfl
@[simp] theorem State.advanceG_repack : s.advanceG.repack = s.repack := rfl
@[simp] theorem State.advanceG_maskJobs : s.advanceG.maskJobs = s.maskJobs := rfl
@[simp] theorem State.advanceG_masks : s.advanceG.masks = s.masks := rfl
@[simp] theorem State.advanceG_reqs : s.advanceG.reqs = s.reqs := rfl
@[simp] theorem State.advanceG_shadows : s.advanceG.shadows = s.shadows := rfl
@[simp] theorem State.advanceG_rets : s.advanceG.rets = s.rets := rfl
@[simp] theorem State.advanceG_stops : s.advanceG.stops = s.stops := rfl
@[simp] theorem State.advanceG_yBlocks : s.advanceG.yBlocks = s.yBlocks := rfl
@[simp] theorem State.advanceG_yLooks : s.advanceG.yLooks = s.yLooks := rfl
@[simp] theorem State.advanceG_out : s.advanceG.out = s.out := rfl
@[simp] theorem State.advanceG_gotten : s.advanceG.gotten = s.gotten := rfl
@[simp] theorem State.advanceG_link : s.advanceG.link = s.link := rfl
@[simp] theorem State.advanceG_arb : s.advanceG.arb = s.arb := rfl
@[simp] theorem State.advanceG_sync : s.advanceG.sync = s.sync := rfl
@[simp] theorem State.advanceG_ev : s.advanceG.ev = s.ev := rfl
@[simp] theorem State.advanceG_far : s.advanceG.far = s.far := rfl
@[simp] theorem State.advanceG_test : s.advanceG.test = s.test := rfl
@[simp] theorem State.advanceG_sorrel : s.advanceG.sorrel = s.sorrel := rfl
@[simp] theorem State.advanceG_scrub : s.advanceG.scrub = s.scrub := rfl
@[simp] theorem State.advanceG_quiesced : s.advanceG.quiesced = s.quiesced := rfl
@[simp] theorem State.advanceG_reg (o : Nat) : s.advanceG.reg o = s.reg o := rfl
@[simp] theorem State.advanceG_getF (g : Fld) : s.advanceG.getF g = s.getF g := rfl
@[simp] theorem State.advanceG_flag (g : Fld) : s.advanceG.flag g = s.flag g := rfl

/-! `pump`. -/

@[simp] theorem State.pump_pending (p : Port) : (s.pump p).pending = s.pending := rfl
@[simp] theorem State.pump_freeCtr (p : Port) : (s.pump p).freeCtr = s.freeCtr := rfl
@[simp] theorem State.pump_resp (p : Port) : (s.pump p).resp = s.resp := rfl
@[simp] theorem State.pump_respHdr (p : Port) : (s.pump p).respHdr = s.respHdr := rfl
@[simp] theorem State.pump_regs (p : Port) : (s.pump p).regs = s.regs := rfl
@[simp] theorem State.pump_mem (p : Port) : (s.pump p).mem = s.mem := rfl
@[simp] theorem State.pump_memMark (p : Port) : (s.pump p).memMark = s.memMark := rfl
@[simp] theorem State.pump_fuses (p : Port) : (s.pump p).fuses = s.fuses := rfl
@[simp] theorem State.pump_fuseCopy (p : Port) : (s.pump p).fuseCopy = s.fuseCopy := rfl
@[simp] theorem State.pump_trims (p : Port) : (s.pump p).trims = s.trims := rfl
@[simp] theorem State.pump_pad (p : Port) : (s.pump p).pad = s.pad := rfl
@[simp] theorem State.pump_padFresh (p : Port) : (s.pump p).padFresh = s.padFresh := rfl
@[simp] theorem State.pump_padDirty (p : Port) : (s.pump p).padDirty = s.padDirty := rfl
@[simp] theorem State.pump_bad (p : Port) : (s.pump p).bad = s.bad := rfl
@[simp] theorem State.pump_banks (p : Port) : (s.pump p).banks = s.banks := rfl
@[simp] theorem State.pump_lanes (p : Port) : (s.pump p).lanes = s.lanes := rfl
@[simp] theorem State.pump_laneTags (p : Port) : (s.pump p).laneTags = s.laneTags := rfl
@[simp] theorem State.pump_tabQueue (p : Port) : (s.pump p).tabQueue = s.tabQueue := rfl
@[simp] theorem State.pump_tabPassed (p : Port) : (s.pump p).tabPassed = s.tabPassed := rfl
@[simp] theorem State.pump_queues (p : Port) : (s.pump p).queues = s.queues := rfl
@[simp] theorem State.pump_nextLn (p : Port) : (s.pump p).nextLn = s.nextLn := rfl
@[simp] theorem State.pump_nextDec (p : Port) : (s.pump p).nextDec = s.nextDec := rfl
@[simp] theorem State.pump_nextOp (p : Port) : (s.pump p).nextOp = s.nextOp := rfl
@[simp] theorem State.pump_flights (p : Port) : (s.pump p).flights = s.flights := rfl
@[simp] theorem State.pump_placed (p : Port) : (s.pump p).placed = s.placed := rfl
@[simp] theorem State.pump_repackQ (p : Port) : (s.pump p).repackQ = s.repackQ := rfl
@[simp] theorem State.pump_repack (p : Port) : (s.pump p).repack = s.repack := rfl
@[simp] theorem State.pump_maskJobs (p : Port) : (s.pump p).maskJobs = s.maskJobs := rfl
@[simp] theorem State.pump_masks (p : Port) : (s.pump p).masks = s.masks := rfl
@[simp] theorem State.pump_reqs (p : Port) : (s.pump p).reqs = s.reqs := rfl
@[simp] theorem State.pump_shadows (p : Port) : (s.pump p).shadows = s.shadows := rfl
@[simp] theorem State.pump_rets (p : Port) : (s.pump p).rets = s.rets := rfl
@[simp] theorem State.pump_stops (p : Port) : (s.pump p).stops = s.stops := rfl
@[simp] theorem State.pump_yBlocks (p : Port) : (s.pump p).yBlocks = s.yBlocks := rfl
@[simp] theorem State.pump_yLooks (p : Port) : (s.pump p).yLooks = s.yLooks := rfl
@[simp] theorem State.pump_gotten (p : Port) : (s.pump p).gotten = s.gotten := rfl
@[simp] theorem State.pump_arb (p : Port) : (s.pump p).arb = s.arb := rfl
@[simp] theorem State.pump_sync (p : Port) : (s.pump p).sync = s.sync := rfl
@[simp] theorem State.pump_power (p : Port) : (s.pump p).power = s.power := rfl
@[simp] theorem State.pump_ev (p : Port) : (s.pump p).ev = s.ev := rfl
@[simp] theorem State.pump_far (p : Port) : (s.pump p).far = s.far := rfl
@[simp] theorem State.pump_test (p : Port) : (s.pump p).test = s.test := rfl
@[simp] theorem State.pump_sorrel (p : Port) : (s.pump p).sorrel = s.sorrel := rfl
@[simp] theorem State.pump_scrub (p : Port) : (s.pump p).scrub = s.scrub := rfl
@[simp] theorem State.pump_quiesced (p : Port) : (s.pump p).quiesced = s.quiesced := rfl
@[simp] theorem State.pump_reg (p : Port) (o : Nat) : (s.pump p).reg o = s.reg o := rfl
@[simp] theorem State.pump_getF (p : Port) (g : Fld) : (s.pump p).getF g = s.getF g := rfl
@[simp] theorem State.pump_flag (p : Port) (g : Fld) : (s.pump p).flag g = s.flag g := rfl

/-! `mend`. -/

@[simp] theorem State.mend_pending (p : SramPart → Bool) : (s.mend p).pending = s.pending := rfl
@[simp] theorem State.mend_freeCtr (p : SramPart → Bool) : (s.mend p).freeCtr = s.freeCtr := rfl
@[simp] theorem State.mend_resp (p : SramPart → Bool) : (s.mend p).resp = s.resp := rfl
@[simp] theorem State.mend_respHdr (p : SramPart → Bool) : (s.mend p).respHdr = s.respHdr := rfl
@[simp] theorem State.mend_regs (p : SramPart → Bool) : (s.mend p).regs = s.regs := rfl
@[simp] theorem State.mend_mem (p : SramPart → Bool) : (s.mend p).mem = s.mem := rfl
@[simp] theorem State.mend_memMark (p : SramPart → Bool) : (s.mend p).memMark = s.memMark := rfl
@[simp] theorem State.mend_fuses (p : SramPart → Bool) : (s.mend p).fuses = s.fuses := rfl
@[simp] theorem State.mend_fuseCopy (p : SramPart → Bool) : (s.mend p).fuseCopy = s.fuseCopy := rfl
@[simp] theorem State.mend_trims (p : SramPart → Bool) : (s.mend p).trims = s.trims := rfl
@[simp] theorem State.mend_pad (p : SramPart → Bool) : (s.mend p).pad = s.pad := rfl
@[simp] theorem State.mend_padFresh (p : SramPart → Bool) : (s.mend p).padFresh = s.padFresh := rfl
@[simp] theorem State.mend_padDirty (p : SramPart → Bool) : (s.mend p).padDirty = s.padDirty := rfl
@[simp] theorem State.mend_bad (p : SramPart → Bool) : (s.mend p).bad = s.bad.filter fun x => !p x := rfl
@[simp] theorem State.mend_banks (p : SramPart → Bool) : (s.mend p).banks = s.banks := rfl
@[simp] theorem State.mend_lanes (p : SramPart → Bool) : (s.mend p).lanes = s.lanes := rfl
@[simp] theorem State.mend_laneTags (p : SramPart → Bool) : (s.mend p).laneTags = s.laneTags := rfl
@[simp] theorem State.mend_tabQueue (p : SramPart → Bool) : (s.mend p).tabQueue = s.tabQueue := rfl
@[simp] theorem State.mend_tabPassed (p : SramPart → Bool) : (s.mend p).tabPassed = s.tabPassed := rfl
@[simp] theorem State.mend_queues (p : SramPart → Bool) : (s.mend p).queues = s.queues := rfl
@[simp] theorem State.mend_nextLn (p : SramPart → Bool) : (s.mend p).nextLn = s.nextLn := rfl
@[simp] theorem State.mend_nextDec (p : SramPart → Bool) : (s.mend p).nextDec = s.nextDec := rfl
@[simp] theorem State.mend_nextOp (p : SramPart → Bool) : (s.mend p).nextOp = s.nextOp := rfl
@[simp] theorem State.mend_flights (p : SramPart → Bool) : (s.mend p).flights = s.flights := rfl
@[simp] theorem State.mend_placed (p : SramPart → Bool) : (s.mend p).placed = s.placed := rfl
@[simp] theorem State.mend_repackQ (p : SramPart → Bool) : (s.mend p).repackQ = s.repackQ := rfl
@[simp] theorem State.mend_repack (p : SramPart → Bool) : (s.mend p).repack = s.repack := rfl
@[simp] theorem State.mend_maskJobs (p : SramPart → Bool) : (s.mend p).maskJobs = s.maskJobs := rfl
@[simp] theorem State.mend_masks (p : SramPart → Bool) : (s.mend p).masks = s.masks := rfl
@[simp] theorem State.mend_reqs (p : SramPart → Bool) : (s.mend p).reqs = s.reqs := rfl
@[simp] theorem State.mend_shadows (p : SramPart → Bool) : (s.mend p).shadows = s.shadows := rfl
@[simp] theorem State.mend_rets (p : SramPart → Bool) : (s.mend p).rets = s.rets := rfl
@[simp] theorem State.mend_stops (p : SramPart → Bool) : (s.mend p).stops = s.stops := rfl
@[simp] theorem State.mend_yBlocks (p : SramPart → Bool) : (s.mend p).yBlocks = s.yBlocks := rfl
@[simp] theorem State.mend_yLooks (p : SramPart → Bool) : (s.mend p).yLooks = s.yLooks := rfl
@[simp] theorem State.mend_out (p : SramPart → Bool) : (s.mend p).out = s.out := rfl
@[simp] theorem State.mend_gotten (p : SramPart → Bool) : (s.mend p).gotten = s.gotten := rfl
@[simp] theorem State.mend_link (p : SramPart → Bool) : (s.mend p).link = s.link := rfl
@[simp] theorem State.mend_arb (p : SramPart → Bool) : (s.mend p).arb = s.arb := rfl
@[simp] theorem State.mend_sync (p : SramPart → Bool) : (s.mend p).sync = s.sync := rfl
@[simp] theorem State.mend_power (p : SramPart → Bool) : (s.mend p).power = s.power := rfl
@[simp] theorem State.mend_ev (p : SramPart → Bool) : (s.mend p).ev = s.ev := rfl
@[simp] theorem State.mend_far (p : SramPart → Bool) : (s.mend p).far = s.far := rfl
@[simp] theorem State.mend_test (p : SramPart → Bool) : (s.mend p).test = s.test := rfl
@[simp] theorem State.mend_sorrel (p : SramPart → Bool) : (s.mend p).sorrel = s.sorrel := rfl
@[simp] theorem State.mend_scrub (p : SramPart → Bool) : (s.mend p).scrub = s.scrub := rfl
@[simp] theorem State.mend_quiesced (p : SramPart → Bool) : (s.mend p).quiesced = s.quiesced := rfl
@[simp] theorem State.mend_reg (p : SramPart → Bool) (o : Nat) : (s.mend p).reg o = s.reg o := rfl
@[simp] theorem State.mend_getF (p : SramPart → Bool) (g : Fld) : (s.mend p).getF g = s.getF g := rfl
@[simp] theorem State.mend_flag (p : SramPart → Bool) (g : Fld) : (s.mend p).flag g = s.flag g := rfl

/-! `copyLane`. -/

@[simp] theorem State.copyLane_pending (b e cl : Nat) : (s.copyLane b e cl).pending = s.pending := rfl
@[simp] theorem State.copyLane_freeCtr (b e cl : Nat) : (s.copyLane b e cl).freeCtr = s.freeCtr := rfl
@[simp] theorem State.copyLane_resp (b e cl : Nat) : (s.copyLane b e cl).resp = s.resp := rfl
@[simp] theorem State.copyLane_respHdr (b e cl : Nat) : (s.copyLane b e cl).respHdr = s.respHdr := rfl
@[simp] theorem State.copyLane_regs (b e cl : Nat) : (s.copyLane b e cl).regs = s.regs := rfl
@[simp] theorem State.copyLane_mem (b e cl : Nat) : (s.copyLane b e cl).mem = s.mem := rfl
@[simp] theorem State.copyLane_memMark (b e cl : Nat) : (s.copyLane b e cl).memMark = s.memMark := rfl
@[simp] theorem State.copyLane_fuses (b e cl : Nat) : (s.copyLane b e cl).fuses = s.fuses := rfl
@[simp] theorem State.copyLane_fuseCopy (b e cl : Nat) : (s.copyLane b e cl).fuseCopy = s.fuseCopy := rfl
@[simp] theorem State.copyLane_trims (b e cl : Nat) : (s.copyLane b e cl).trims = s.trims := rfl
@[simp] theorem State.copyLane_pad (b e cl : Nat) : (s.copyLane b e cl).pad = s.pad := rfl
@[simp] theorem State.copyLane_padFresh (b e cl : Nat) : (s.copyLane b e cl).padFresh = s.padFresh := rfl
@[simp] theorem State.copyLane_padDirty (b e cl : Nat) : (s.copyLane b e cl).padDirty = s.padDirty := rfl
@[simp] theorem State.copyLane_bad (b e cl : Nat) : (s.copyLane b e cl).bad = s.bad := rfl
@[simp] theorem State.copyLane_banks (b e cl : Nat) : (s.copyLane b e cl).banks = s.banks := rfl
@[simp] theorem State.copyLane_tabQueue (b e cl : Nat) : (s.copyLane b e cl).tabQueue = s.tabQueue := rfl
@[simp] theorem State.copyLane_tabPassed (b e cl : Nat) : (s.copyLane b e cl).tabPassed = s.tabPassed := rfl
@[simp] theorem State.copyLane_queues (b e cl : Nat) : (s.copyLane b e cl).queues = s.queues := rfl
@[simp] theorem State.copyLane_nextLn (b e cl : Nat) : (s.copyLane b e cl).nextLn = s.nextLn := rfl
@[simp] theorem State.copyLane_nextDec (b e cl : Nat) : (s.copyLane b e cl).nextDec = s.nextDec := rfl
@[simp] theorem State.copyLane_nextOp (b e cl : Nat) : (s.copyLane b e cl).nextOp = s.nextOp := rfl
@[simp] theorem State.copyLane_flights (b e cl : Nat) : (s.copyLane b e cl).flights = s.flights := rfl
@[simp] theorem State.copyLane_placed (b e cl : Nat) : (s.copyLane b e cl).placed = s.placed := rfl
@[simp] theorem State.copyLane_repackQ (b e cl : Nat) : (s.copyLane b e cl).repackQ = s.repackQ := rfl
@[simp] theorem State.copyLane_repack (b e cl : Nat) : (s.copyLane b e cl).repack = s.repack := rfl
@[simp] theorem State.copyLane_maskJobs (b e cl : Nat) : (s.copyLane b e cl).maskJobs = s.maskJobs := rfl
@[simp] theorem State.copyLane_masks (b e cl : Nat) : (s.copyLane b e cl).masks = s.masks := rfl
@[simp] theorem State.copyLane_reqs (b e cl : Nat) : (s.copyLane b e cl).reqs = s.reqs := rfl
@[simp] theorem State.copyLane_shadows (b e cl : Nat) : (s.copyLane b e cl).shadows = s.shadows := rfl
@[simp] theorem State.copyLane_rets (b e cl : Nat) : (s.copyLane b e cl).rets = s.rets := rfl
@[simp] theorem State.copyLane_stops (b e cl : Nat) : (s.copyLane b e cl).stops = s.stops := rfl
@[simp] theorem State.copyLane_yBlocks (b e cl : Nat) : (s.copyLane b e cl).yBlocks = s.yBlocks := rfl
@[simp] theorem State.copyLane_yLooks (b e cl : Nat) : (s.copyLane b e cl).yLooks = s.yLooks := rfl
@[simp] theorem State.copyLane_out (b e cl : Nat) : (s.copyLane b e cl).out = s.out := rfl
@[simp] theorem State.copyLane_gotten (b e cl : Nat) : (s.copyLane b e cl).gotten = s.gotten := rfl
@[simp] theorem State.copyLane_link (b e cl : Nat) : (s.copyLane b e cl).link = s.link := rfl
@[simp] theorem State.copyLane_arb (b e cl : Nat) : (s.copyLane b e cl).arb = s.arb := rfl
@[simp] theorem State.copyLane_sync (b e cl : Nat) : (s.copyLane b e cl).sync = s.sync := rfl
@[simp] theorem State.copyLane_power (b e cl : Nat) : (s.copyLane b e cl).power = s.power := rfl
@[simp] theorem State.copyLane_ev (b e cl : Nat) : (s.copyLane b e cl).ev = s.ev := rfl
@[simp] theorem State.copyLane_far (b e cl : Nat) : (s.copyLane b e cl).far = s.far := rfl
@[simp] theorem State.copyLane_test (b e cl : Nat) : (s.copyLane b e cl).test = s.test := rfl
@[simp] theorem State.copyLane_sorrel (b e cl : Nat) : (s.copyLane b e cl).sorrel = s.sorrel := rfl
@[simp] theorem State.copyLane_scrub (b e cl : Nat) : (s.copyLane b e cl).scrub = s.scrub := rfl
@[simp] theorem State.copyLane_quiesced (b e cl : Nat) : (s.copyLane b e cl).quiesced = s.quiesced := rfl
@[simp] theorem State.copyLane_reg (b e cl : Nat) (o : Nat) : (s.copyLane b e cl).reg o = s.reg o := rfl
@[simp] theorem State.copyLane_getF (b e cl : Nat) (g : Fld) : (s.copyLane b e cl).getF g = s.getF g := rfl
@[simp] theorem State.copyLane_flag (b e cl : Nat) (g : Fld) : (s.copyLane b e cl).flag g = s.flag g := rfl

end Sys2Proof.Machine
end

