-- ==== Sys2Proof/Laws/Access.lean ====
section
/-! SUPPORT. Laws of accesses to the control space: which word a write reaches, and what a served request comes to. -/

namespace Sys2Proof.Machine

/-- Offsets of plain registers: in a region of R397, whole words, no window and no tenant key. -/
def plainReg (off : Nat) : Bool :=
  off % 8 == 0 && inRegion off && !inHalter off && !inPaddock off && !inCampion off && (decide (off < 0x3100) || decide (0x4100 ≤ off))

/-- A write of a plain register reaches `writeReg`. -/
theorem State.writeWord_plain (s : State) {off : Nat} (h : plainReg off = true) (v : Word64) (snd : Sender) (out : Option TestOut) :
    s.writeWord off v snd out = s.settled (s.writeReg off v out) := by
  simp only [plainReg, Bool.and_eq_true, Bool.not_eq_true', beq_iff_eq, Bool.or_eq_true, decide_eq_true_eq] at h
  obtain ⟨⟨⟨⟨⟨h8, hr⟩, hh⟩, hp⟩, hc⟩, hk⟩ := h
  have hkey : s.keyAt off = none := by
    unfold State.keyAt
    rw [if_neg]
    simp only [Bool.or_eq_true, Bool.and_eq_true, decide_eq_true_eq, not_or, not_and]
    constructor
    · intro a b; omega
    · intro a b; omega
  simp [State.writeWord, State.refusal, h8, hr, hh, hp, hc, hkey]

/-- A read of a plain register reaches `readReg`. -/
theorem State.readWord_plain (s : State) {off : Nat} (h : plainReg off = true) (snd : Sender) :
    s.readWord off snd = ((s.readReg off).1, rOK, (s.readReg off).2) := by
  simp only [plainReg, Bool.and_eq_true, Bool.not_eq_true', beq_iff_eq, Bool.or_eq_true, decide_eq_true_eq] at h
  obtain ⟨⟨⟨⟨⟨h8, hr⟩, hh⟩, hp⟩, hc⟩, hk⟩ := h
  have hkey : s.keyAt off = none := by
    unfold State.keyAt
    rw [if_neg]
    simp only [Bool.or_eq_true, Bool.and_eq_true, decide_eq_true_eq, not_or, not_and]
    constructor
    · intro a b; omega
    · intro a b; omega
  simp [State.readWord, State.refusal, h8, hr, hh, hp, hc, hkey]

/-- A served write that is taken: the new state, with an `OK` response. -/
theorem State.putTo_plain_some (s t : State) {off : Nat} (h : plainReg off = true) (v : Word64) (snd : Sender) (out : Option TestOut)
    (hw : s.writeReg off v out = some t) : s.putTo off v snd out = t.answer rOK [] := by
  simp [State.putTo, s.writeWord_plain h, hw, State.settled]

/-- A served write that is refused: nothing changes but the response. -/
theorem State.putTo_plain_none (s : State) {off : Nat} (h : plainReg off = true) (v : Word64) (snd : Sender) (out : Option TestOut)
    (hw : s.writeReg off v out = none) : s.putTo off v snd out = s.answer rACCESS [] := by
  simp [State.putTo, s.writeWord_plain h, hw, State.settled]

/-- A request whose sender is served: its effect, and its response. -/
theorem State.request_heard (s t : State) (snd : Sender) (op n : Nat) (f : State → State) (h : s.served = true) (he : s.epochCheck snd = some t) :
    s.request snd op n f = .next ((f t).replied snd op n) := by
  simp [State.request, h, he]

/-- A response changes nothing but its header and what leaves the port. -/
theorem State.replied_frame (s : State) (snd : Sender) (op n : Nat) :
    s.replied snd op n = { s with respHdr := (s.replied snd op n).respHdr, link := (s.replied snd op n).link } := rfl
@[simp] theorem State.replied_resp (s : State) (snd : Sender) (op n : Nat) : (s.replied snd op n).resp = s.resp := rfl
@[simp] theorem State.replied_regs (s : State) (snd : Sender) (op n : Nat) : (s.replied snd op n).regs = s.regs := rfl
@[simp] theorem State.replied_mem (s : State) (snd : Sender) (op n : Nat) : (s.replied snd op n).mem = s.mem := rfl
@[simp] theorem State.replied_flights (s : State) (snd : Sender) (op n : Nat) : (s.replied snd op n).flights = s.flights := rfl
@[simp] theorem State.replied_reg (s : State) (snd : Sender) (op n o : Nat) : (s.replied snd op n).reg o = s.reg o := rfl
@[simp] theorem State.replied_getF (s : State) (snd : Sender) (op n : Nat) (f : Fld) : (s.replied snd op n).getF f = s.getF f := rfl
@[simp] theorem State.replied_flag (s : State) (snd : Sender) (op n : Nat) (f : Fld) : (s.replied snd op n).flag f = s.flag f := rfl

end Sys2Proof.Machine
end

