-- ==== Sys2Proof/Laws/Ops.lean ====
section
/-! SUPPORT. What the shared operations that choose among cases can change: one frame for each, and from it each field that stays. -/

namespace Sys2Proof.Machine

variable (s : State)

/-- `send` changes nothing but `link`, `out`. -/
theorem State.send_frame (p : Port) (addr len : Nat) (why : Purpose2) (h : Header) (d : List (BitVec 128)) :
    s.send p addr len why h d = { s with link := (s.send p addr len why h d).link, out := (s.send p addr len why h d).out } := rfl

@[simp] theorem State.send_pending (p : Port) (addr len : Nat) (why : Purpose2) (h : Header) (d : List (BitVec 128)) : (s.send p addr len why h d).pending = s.pending := by rw [State.send_frame]
@[simp] theorem State.send_freeCtr (p : Port) (addr len : Nat) (why : Purpose2) (h : Header) (d : List (BitVec 128)) : (s.send p addr len why h d).freeCtr = s.freeCtr := by rw [State.send_frame]
@[simp] theorem State.send_resp (p : Port) (addr len : Nat) (why : Purpose2) (h : Header) (d : List (BitVec 128)) : (s.send p addr len why h d).resp = s.resp := by rw [State.send_frame]
@[simp] theorem State.send_respHdr (p : Port) (addr len : Nat) (why : Purpose2) (h : Header) (d : List (BitVec 128)) : (s.send p addr len why h d).respHdr = s.respHdr := by rw [State.send_frame]
@[simp] theorem State.send_regs (p : Port) (addr len : Nat) (why : Purpose2) (h : Header) (d : List (BitVec 128)) : (s.send p addr len why h d).regs = s.regs := by rw [State.send_frame]
@[simp] theorem State.send_mem (p : Port) (addr len : Nat) (why : Purpose2) (h : Header) (d : List (BitVec 128)) : (s.send p addr len why h d).mem = s.mem := by rw [State.send_frame]
@[simp] theorem State.send_memMark (p : Port) (addr len : Nat) (why : Purpose2) (h : Header) (d : List (BitVec 128)) : (s.send p addr len why h d).memMark = s.memMark := by rw [State.send_frame]
@[simp] theorem State.send_fuses (p : Port) (addr len : Nat) (why : Purpose2) (h : Header) (d : List (BitVec 128)) : (s.send p addr len why h d).fuses = s.fuses := by rw [State.send_frame]
@[simp] theorem State.send_fuseCopy (p : Port) (addr len : Nat) (why : Purpose2) (h : Header) (d : List (BitVec 128)) : (s.send p addr len why h d).fuseCopy = s.fuseCopy := by rw [State.send_frame]
@[simp] theorem State.send_trims (p : Port) (addr len : Nat) (why : Purpose2) (h : Header) (d : List (BitVec 128)) : (s.send p addr len why h d).trims = s.trims := by rw [State.send_frame]
@[simp] theorem State.send_pad (p : Port) (addr len : Nat) (why : Purpose2) (h : Header) (d : List (BitVec 128)) : (s.send p addr len why h d).pad = s.pad := by rw [State.send_frame]
@[simp] theorem State.send_padFresh (p : Port) (addr len : Nat) (why : Purpose2) (h : Header) (d : List (BitVec 128)) : (s.send p addr len why h d).padFresh = s.padFresh := by rw [State.send_frame]
@[simp] theorem State.send_padDirty (p : Port) (addr len : Nat) (why : Purpose2) (h : Header) (d : List (BitVec 128)) : (s.send p addr len why h d).padDirty = s.padDirty := by rw [State.send_frame]
@[simp] theorem State.send_bad (p : Port) (addr len : Nat) (why : Purpose2) (h : Header) (d : List (BitVec 128)) : (s.send p addr len why h d).bad = s.bad := by rw [State.send_frame]
@[simp] theorem State.send_banks (p : Port) (addr len : Nat) (why : Purpose2) (h : Header) (d : List (BitVec 128)) : (s.send p addr len why h d).banks = s.banks := by rw [State.send_frame]
@[simp] theorem State.send_lanes (p : Port) (addr len : Nat) (why : Purpose2) (h : Header) (d : List (BitVec 128)) : (s.send p addr len why h d).lanes = s.lanes := by rw [State.send_frame]
@[simp] theorem State.send_laneTags (p : Port) (addr len : Nat) (why : Purpose2) (h : Header) (d : List (BitVec 128)) : (s.send p addr len why h d).laneTags = s.laneTags := by rw [State.send_frame]
@[simp] theorem State.send_tabQueue (p : Port) (addr len : Nat) (why : Purpose2) (h : Header) (d : List (BitVec 128)) : (s.send p addr len why h d).tabQueue = s.tabQueue := by rw [State.send_frame]
@[simp] theorem State.send_tabPassed (p : Port) (addr len : Nat) (why : Purpose2) (h : Header) (d : List (BitVec 128)) : (s.send p addr len why h d).tabPassed = s.tabPassed := by rw [State.send_frame]
@[simp] theorem State.send_queues (p : Port) (addr len : Nat) (why : Purpose2) (h : Header) (d : List (BitVec 128)) : (s.send p addr len why h d).queues = s.queues := by rw [State.send_frame]
@[simp] theorem State.send_nextLn (p : Port) (addr len : Nat) (why : Purpose2) (h : Header) (d : List (BitVec 128)) : (s.send p addr len why h d).nextLn = s.nextLn := by rw [State.send_frame]
@[simp] theorem State.send_nextDec (p : Port) (addr len : Nat) (why : Purpose2) (h : Header) (d : List (BitVec 128)) : (s.send p addr len why h d).nextDec = s.nextDec := by rw [State.send_frame]
@[simp] theorem State.send_nextOp (p : Port) (addr len : Nat) (why : Purpose2) (h : Header) (d : List (BitVec 128)) : (s.send p addr len why h d).nextOp = s.nextOp := by rw [State.send_frame]
@[simp] theorem State.send_flights (p : Port) (addr len : Nat) (why : Purpose2) (h : Header) (d : List (BitVec 128)) : (s.send p addr len why h d).flights = s.flights := by rw [State.send_frame]
@[simp] theorem State.send_placed (p : Port) (addr len : Nat) (why : Purpose2) (h : Header) (d : List (BitVec 128)) : (s.send p addr len why h d).placed = s.placed := by rw [State.send_frame]
@[simp] theorem State.send_repackQ (p : Port) (addr len : Nat) (why : Purpose2) (h : Header) (d : List (BitVec 128)) : (s.send p addr len why h d).repackQ = s.repackQ := by rw [State.send_frame]
@[simp] theorem State.send_repack (p : Port) (addr len : Nat) (why : Purpose2) (h : Header) (d : List (BitVec 128)) : (s.send p addr len why h d).repack = s.repack := by rw [State.send_frame]
@[simp] theorem State.send_maskJobs (p : Port) (addr len : Nat) (why : Purpose2) (h : Header) (d : List (BitVec 128)) : (s.send p addr len why h d).maskJobs = s.maskJobs := by rw [State.send_frame]
@[simp] theorem State.send_masks (p : Port) (addr len : Nat) (why : Purpose2) (h : Header) (d : List (BitVec 128)) : (s.send p addr len why h d).masks = s.masks := by rw [State.send_frame]
@[simp] theorem State.send_reqs (p : Port) (addr len : Nat) (why : Purpose2) (h : Header) (d : List (BitVec 128)) : (s.send p addr len why h d).reqs = s.reqs := by rw [State.send_frame]
@[simp] theorem State.send_shadows (p : Port) (addr len : Nat) (why : Purpose2) (h : Header) (d : List (BitVec 128)) : (s.send p addr len why h d).shadows = s.shadows := by rw [State.send_frame]
@[simp] theorem State.send_rets (p : Port) (addr len : Nat) (why : Purpose2) (h : Header) (d : List (BitVec 128)) : (s.send p addr len why h d).rets = s.rets := by rw [State.send_frame]
@[simp] theorem State.send_stops (p : Port) (addr len : Nat) (why : Purpose2) (h : Header) (d : List (BitVec 128)) : (s.send p addr len why h d).stops = s.stops := by rw [State.send_frame]
@[simp] theorem State.send_yBlocks (p : Port) (addr len : Nat) (why : Purpose2) (h : Header) (d : List (BitVec 128)) : (s.send p addr len why h d).yBlocks = s.yBlocks := by rw [State.send_frame]
@[simp] theorem State.send_yLooks (p : Port) (addr len : Nat) (why : Purpose2) (h : Header) (d : List (BitVec 128)) : (s.send p addr len why h d).yLooks = s.yLooks := by rw [State.send_frame]
@[simp] theorem State.send_gotten (p : Port) (addr len : Nat) (why : Purpose2) (h : Header) (d : List (BitVec 128)) : (s.send p addr len why h d).gotten = s.gotten := by rw [State.send_frame]
@[simp] theorem State.send_arb (p : Port) (addr len : Nat) (why : Purpose2) (h : Header) (d : List (BitVec 128)) : (s.send p addr len why h d).arb = s.arb := by rw [State.send_frame]
@[simp] theorem State.send_sync (p : Port) (addr len : Nat) (why : Purpose2) (h : Header) (d : List (BitVec 128)) : (s.send p addr len why h d).sync = s.sync := by rw [State.send_frame]
@[simp] theorem State.send_power (p : Port) (addr len : Nat) (why : Purpose2) (h : Header) (d : List (BitVec 128)) : (s.send p addr len why h d).power = s.power := by rw [State.send_frame]
@[simp] theorem State.send_ev (p : Port) (addr len : Nat) (why : Purpose2) (h : Header) (d : List (BitVec 128)) : (s.send p addr len why h d).ev = s.ev := by rw [State.send_frame]
@[simp] theorem State.send_far (p : Port) (addr len : Nat) (why : Purpose2) (h : Header) (d : List (BitVec 128)) : (s.send p addr len why h d).far = s.far := by rw [State.send_frame]
@[simp] theorem State.send_test (p : Port) (addr len : Nat) (why : Purpose2) (h : Header) (d : List (BitVec 128)) : (s.send p addr len why h d).test = s.test := by rw [State.send_frame]
@[simp] theorem State.send_sorrel (p : Port) (addr len : Nat) (why : Purpose2) (h : Header) (d : List (BitVec 128)) : (s.send p addr len why h d).sorrel = s.sorrel := by rw [State.send_frame]
@[simp] theorem State.send_scrub (p : Port) (addr len : Nat) (why : Purpose2) (h : Header) (d : List (BitVec 128)) : (s.send p addr len why h d).scrub = s.scrub := by rw [State.send_frame]
@[simp] theorem State.send_quiesced (p : Port) (addr len : Nat) (why : Purpose2) (h : Header) (d : List (BitVec 128)) : (s.send p addr len why h d).quiesced = s.quiesced := by rw [State.send_frame]
@[simp] theorem State.send_reg (p : Port) (addr len : Nat) (why : Purpose2) (h : Header) (d : List (BitVec 128)) (o : Nat) : (s.send p addr len why h d).reg o = s.reg o := by rw [State.send_frame]; rfl
@[simp] theorem State.send_getF (p : Port) (addr len : Nat) (why : Purpose2) (h : Header) (d : List (BitVec 128)) (g : Fld) : (s.send p addr len why h d).getF g = s.getF g := by rw [State.send_frame]; rfl
@[simp] theorem State.send_flag (p : Port) (addr len : Nat) (why : Purpose2) (h : Header) (d : List (BitVec 128)) (g : Fld) : (s.send p addr len why h d).flag g = s.flag g := by rw [State.send_frame]; rfl

/-- `writeBy` changes nothing but `mem`, `link`, `out`. -/
theorem State.writeBy_frame (p : Option Port) (vc a : Nat) (bs : List Byte) (why : Purpose2) :
    s.writeBy p vc a bs why = { s with mem := (s.writeBy p vc a bs why).mem, link := (s.writeBy p vc a bs why).link, out := (s.writeBy p vc a bs why).out } := by
  unfold State.writeBy
  generalize s.messages p true a bs.length = l
  induction l generalizing s with
  | nil => rfl
  | cons x l ih =>
    rw [List.foldl_cons, ih]
    dsimp only
    split
    · split <;> rfl
    · split <;> rfl

@[simp] theorem State.writeBy_pending (p : Option Port) (vc a : Nat) (bs : List Byte) (why : Purpose2) : (s.writeBy p vc a bs why).pending = s.pending := by rw [State.writeBy_frame]
@[simp] theorem State.writeBy_freeCtr (p : Option Port) (vc a : Nat) (bs : List Byte) (why : Purpose2) : (s.writeBy p vc a bs why).freeCtr = s.freeCtr := by rw [State.writeBy_frame]
@[simp] theorem State.writeBy_resp (p : Option Port) (vc a : Nat) (bs : List Byte) (why : Purpose2) : (s.writeBy p vc a bs why).resp = s.resp := by rw [State.writeBy_frame]
@[simp] theorem State.writeBy_respHdr (p : Option Port) (vc a : Nat) (bs : List Byte) (why : Purpose2) : (s.writeBy p vc a bs why).respHdr = s.respHdr := by rw [State.writeBy_frame]
@[simp] theorem State.writeBy_regs (p : Option Port) (vc a : Nat) (bs : List Byte) (why : Purpose2) : (s.writeBy p vc a bs why).regs = s.regs := by rw [State.writeBy_frame]
@[simp] theorem State.writeBy_memMark (p : Option Port) (vc a : Nat) (bs : List Byte) (why : Purpose2) : (s.writeBy p vc a bs why).memMark = s.memMark := by rw [State.writeBy_frame]
@[simp] theorem State.writeBy_fuses (p : Option Port) (vc a : Nat) (bs : List Byte) (why : Purpose2) : (s.writeBy p vc a bs why).fuses = s.fuses := by rw [State.writeBy_frame]
@[simp] theorem State.writeBy_fuseCopy (p : Option Port) (vc a : Nat) (bs : List Byte) (why : Purpose2) : (s.writeBy p vc a bs why).fuseCopy = s.fuseCopy := by rw [State.writeBy_frame]
@[simp] theorem State.writeBy_trims (p : Option Port) (vc a : Nat) (bs : List Byte) (why : Purpose2) : (s.writeBy p vc a bs why).trims = s.trims := by rw [State.writeBy_frame]
@[simp] theorem State.writeBy_pad (p : Option Port) (vc a : Nat) (bs : List Byte) (why : Purpose2) : (s.writeBy p vc a bs why).pad = s.pad := by rw [State.writeBy_frame]
@[simp] theorem State.writeBy_padFresh (p : Option Port) (vc a : Nat) (bs : List Byte) (why : Purpose2) : (s.writeBy p vc a bs why).padFresh = s.padFresh := by rw [State.writeBy_frame]
@[simp] theorem State.writeBy_padDirty (p : Option Port) (vc a : Nat) (bs : List Byte) (why : Purpose2) : (s.writeBy p vc a bs why).padDirty = s.padDirty := by rw [State.writeBy_frame]
@[simp] theorem State.writeBy_bad (p : Option Port) (vc a : Nat) (bs : List Byte) (why : Purpose2) : (s.writeBy p vc a bs why).bad = s.bad := by rw [State.writeBy_frame]
@[simp] theorem State.writeBy_banks (p : Option Port) (vc a : Nat) (bs : List Byte) (why : Purpose2) : (s.writeBy p vc a bs why).banks = s.banks := by rw [State.writeBy_frame]
@[simp] theorem State.writeBy_lanes (p : Option Port) (vc a : Nat) (bs : List Byte) (why : Purpose2) : (s.writeBy p vc a bs why).lanes = s.lanes := by rw [State.writeBy_frame]
@[simp] theorem State.writeBy_laneTags (p : Option Port) (vc a : Nat) (bs : List Byte) (why : Purpose2) : (s.writeBy p vc a bs why).laneTags = s.laneTags := by rw [State.writeBy_frame]
@[simp] theorem State.writeBy_tabQueue (p : Option Port) (vc a : Nat) (bs : List Byte) (why : Purpose2) : (s.writeBy p vc a bs why).tabQueue = s.tabQueue := by rw [State.writeBy_frame]
@[simp] theorem State.writeBy_tabPassed (p : Option Port) (vc a : Nat) (bs : List Byte) (why : Purpose2) : (s.writeBy p vc a bs why).tabPassed = s.tabPassed := by rw [State.writeBy_frame]
@[simp] theorem State.writeBy_queues (p : Option Port) (vc a : Nat) (bs : List Byte) (why : Purpose2) : (s.writeBy p vc a bs why).queues = s.queues := by rw [State.writeBy_frame]
@[simp] theorem State.writeBy_nextLn (p : Option Port) (vc a : Nat) (bs : List Byte) (why : Purpose2) : (s.writeBy p vc a bs why).nextLn = s.nextLn := by rw [State.writeBy_frame]
@[simp] theorem State.writeBy_nextDec (p : Option Port) (vc a : Nat) (bs : List Byte) (why : Purpose2) : (s.writeBy p vc a bs why).nextDec = s.nextDec := by rw [State.writeBy_frame]
@[simp] theorem State.writeBy_nextOp (p : Option Port) (vc a : Nat) (bs : List Byte) (why : Purpose2) : (s.writeBy p vc a bs why).nextOp = s.nextOp := by rw [State.writeBy_frame]
@[simp] theorem State.writeBy_flights (p : Option Port) (vc a : Nat) (bs : List Byte) (why : Purpose2) : (s.writeBy p vc a bs why).flights = s.flights := by rw [State.writeBy_frame]
@[simp] theorem State.writeBy_placed (p : Option Port) (vc a : Nat) (bs : List Byte) (why : Purpose2) : (s.writeBy p vc a bs why).placed = s.placed := by rw [State.writeBy_frame]
@[simp] theorem State.writeBy_repackQ (p : Option Port) (vc a : Nat) (bs : List Byte) (why : Purpose2) : (s.writeBy p vc a bs why).repackQ = s.repackQ := by rw [State.writeBy_frame]
@[simp] theorem State.writeBy_repack (p : Option Port) (vc a : Nat) (bs : List Byte) (why : Purpose2) : (s.writeBy p vc a bs why).repack = s.repack := by rw [State.writeBy_frame]
@[simp] theorem State.writeBy_maskJobs (p : Option Port) (vc a : Nat) (bs : List Byte) (why : Purpose2) : (s.writeBy p vc a bs why).maskJobs = s.maskJobs := by rw [State.writeBy_frame]
@[simp] theorem State.writeBy_masks (p : Option Port) (vc a : Nat) (bs : List Byte) (why : Purpose2) : (s.writeBy p vc a bs why).masks = s.masks := by rw [State.writeBy_frame]
@[simp] theorem State.writeBy_reqs (p : Option Port) (vc a : Nat) (bs : List Byte) (why : Purpose2) : (s.writeBy p vc a bs why).reqs = s.reqs := by rw [State.writeBy_frame]
@[simp] theorem State.writeBy_shadows (p : Option Port) (vc a : Nat) (bs : List Byte) (why : Purpose2) : (s.writeBy p vc a bs why).shadows = s.shadows := by rw [State.writeBy_frame]
@[simp] theorem State.writeBy_rets (p : Option Port) (vc a : Nat) (bs : List Byte) (why : Purpose2) : (s.writeBy p vc a bs why).rets = s.rets := by rw [State.writeBy_frame]
@[simp] theorem State.writeBy_stops (p : Option Port) (vc a : Nat) (bs : List Byte) (why : Purpose2) : (s.writeBy p vc a bs why).stops = s.stops := by rw [State.writeBy_frame]
@[simp] theorem State.writeBy_yBlocks (p : Option Port) (vc a : Nat) (bs : List Byte) (why : Purpose2) : (s.writeBy p vc a bs why).yBlocks = s.yBlocks := by rw [State.writeBy_frame]
@[simp] theorem State.writeBy_yLooks (p : Option Port) (vc a : Nat) (bs : List Byte) (why : Purpose2) : (s.writeBy p vc a bs why).yLooks = s.yLooks := by rw [State.writeBy_frame]
@[simp] theorem State.writeBy_gotten (p : Option Port) (vc a : Nat) (bs : List Byte) (why : Purpose2) : (s.writeBy p vc a bs why).gotten = s.gotten := by rw [State.writeBy_frame]
@[simp] theorem State.writeBy_arb (p : Option Port) (vc a : Nat) (bs : List Byte) (why : Purpose2) : (s.writeBy p vc a bs why).arb = s.arb := by rw [State.writeBy_frame]
@[simp] theorem State.writeBy_sync (p : Option Port) (vc a : Nat) (bs : List Byte) (why : Purpose2) : (s.writeBy p vc a bs why).sync = s.sync := by rw [State.writeBy_frame]
@[simp] theorem State.writeBy_power (p : Option Port) (vc a : Nat) (bs : List Byte) (why : Purpose2) : (s.writeBy p vc a bs why).power = s.power := by rw [State.writeBy_frame]
@[simp] theorem State.writeBy_ev (p : Option Port) (vc a : Nat) (bs : List Byte) (why : Purpose2) : (s.writeBy p vc a bs why).ev = s.ev := by rw [State.writeBy_frame]
@[simp] theorem State.writeBy_far (p : Option Port) (vc a : Nat) (bs : List Byte) (why : Purpose2) : (s.writeBy p vc a bs why).far = s.far := by rw [State.writeBy_frame]
@[simp] theorem State.writeBy_test (p : Option Port) (vc a : Nat) (bs : List Byte) (why : Purpose2) : (s.writeBy p vc a bs why).test = s.test := by rw [State.writeBy_frame]
@[simp] theorem State.writeBy_sorrel (p : Option Port) (vc a : Nat) (bs : List Byte) (why : Purpose2) : (s.writeBy p vc a bs why).sorrel = s.sorrel := by rw [State.writeBy_frame]
@[simp] theorem State.writeBy_scrub (p : Option Port) (vc a : Nat) (bs : List Byte) (why : Purpose2) : (s.writeBy p vc a bs why).scrub = s.scrub := by rw [State.writeBy_frame]
@[simp] theorem State.writeBy_quiesced (p : Option Port) (vc a : Nat) (bs : List Byte) (why : Purpose2) : (s.writeBy p vc a bs why).quiesced = s.quiesced := by rw [State.writeBy_frame]
@[simp] theorem State.writeBy_reg (p : Option Port) (vc a : Nat) (bs : List Byte) (why : Purpose2) (o : Nat) : (s.writeBy p vc a bs why).reg o = s.reg o := by rw [State.writeBy_frame]; rfl
@[simp] theorem State.writeBy_getF (p : Option Port) (vc a : Nat) (bs : List Byte) (why : Purpose2) (g : Fld) : (s.writeBy p vc a bs why).getF g = s.getF g := by rw [State.writeBy_frame]; rfl
@[simp] theorem State.writeBy_flag (p : Option Port) (vc a : Nat) (bs : List Byte) (why : Purpose2) (g : Fld) : (s.writeBy p vc a bs why).flag g = s.flag g := by rw [State.writeBy_frame]; rfl

/-- `writeHost` changes nothing but `mem`, `link`, `out`. -/
theorem State.writeHost_frame (a : Nat) (bs : List Byte) (why : Purpose2) :
    s.writeHost a bs why = { s with mem := (s.writeHost a bs why).mem, link := (s.writeHost a bs why).link, out := (s.writeHost a bs why).out } := s.writeBy_frame none 0 a bs why

@[simp] theorem State.writeHost_pending (a : Nat) (bs : List Byte) (why : Purpose2) : (s.writeHost a bs why).pending = s.pending := by rw [State.writeHost_frame]
@[simp] theorem State.writeHost_freeCtr (a : Nat) (bs : List Byte) (why : Purpose2) : (s.writeHost a bs why).freeCtr = s.freeCtr := by rw [State.writeHost_frame]
@[simp] theorem State.writeHost_resp (a : Nat) (bs : List Byte) (why : Purpose2) : (s.writeHost a bs why).resp = s.resp := by rw [State.writeHost_frame]
@[simp] theorem State.writeHost_respHdr (a : Nat) (bs : List Byte) (why : Purpose2) : (s.writeHost a bs why).respHdr = s.respHdr := by rw [State.writeHost_frame]
@[simp] theorem State.writeHost_regs (a : Nat) (bs : List Byte) (why : Purpose2) : (s.writeHost a bs why).regs = s.regs := by rw [State.writeHost_frame]
@[simp] theorem State.writeHost_memMark (a : Nat) (bs : List Byte) (why : Purpose2) : (s.writeHost a bs why).memMark = s.memMark := by rw [State.writeHost_frame]
@[simp] theorem State.writeHost_fuses (a : Nat) (bs : List Byte) (why : Purpose2) : (s.writeHost a bs why).fuses = s.fuses := by rw [State.writeHost_frame]
@[simp] theorem State.writeHost_fuseCopy (a : Nat) (bs : List Byte) (why : Purpose2) : (s.writeHost a bs why).fuseCopy = s.fuseCopy := by rw [State.writeHost_frame]
@[simp] theorem State.writeHost_trims (a : Nat) (bs : List Byte) (why : Purpose2) : (s.writeHost a bs why).trims = s.trims := by rw [State.writeHost_frame]
@[simp] theorem State.writeHost_pad (a : Nat) (bs : List Byte) (why : Purpose2) : (s.writeHost a bs why).pad = s.pad := by rw [State.writeHost_frame]
@[simp] theorem State.writeHost_padFresh (a : Nat) (bs : List Byte) (why : Purpose2) : (s.writeHost a bs why).padFresh = s.padFresh := by rw [State.writeHost_frame]
@[simp] theorem State.writeHost_padDirty (a : Nat) (bs : List Byte) (why : Purpose2) : (s.writeHost a bs why).padDirty = s.padDirty := by rw [State.writeHost_frame]
@[simp] theorem State.writeHost_bad (a : Nat) (bs : List Byte) (why : Purpose2) : (s.writeHost a bs why).bad = s.bad := by rw [State.writeHost_frame]
@[simp] theorem State.writeHost_banks (a : Nat) (bs : List Byte) (why : Purpose2) : (s.writeHost a bs why).banks = s.banks := by rw [State.writeHost_frame]
@[simp] theorem State.writeHost_lanes (a : Nat) (bs : List Byte) (why : Purpose2) : (s.writeHost a bs why).lanes = s.lanes := by rw [State.writeHost_frame]
@[simp] theorem State.writeHost_laneTags (a : Nat) (bs : List Byte) (why : Purpose2) : (s.writeHost a bs why).laneTags = s.laneTags := by rw [State.writeHost_frame]
@[simp] theorem State.writeHost_tabQueue (a : Nat) (bs : List Byte) (why : Purpose2) : (s.writeHost a bs why).tabQueue = s.tabQueue := by rw [State.writeHost_frame]
@[simp] theorem State.writeHost_tabPassed (a : Nat) (bs : List Byte) (why : Purpose2) : (s.writeHost a bs why).tabPassed = s.tabPassed := by rw [State.writeHost_frame]
@[simp] theorem State.writeHost_queues (a : Nat) (bs : List Byte) (why : Purpose2) : (s.writeHost a bs why).queues = s.queues := by rw [State.writeHost_frame]
@[simp] theorem State.writeHost_nextLn (a : Nat) (bs : List Byte) (why : Purpose2) : (s.writeHost a bs why).nextLn = s.nextLn := by rw [State.writeHost_frame]
@[simp] theorem State.writeHost_nextDec (a : Nat) (bs : List Byte) (why : Purpose2) : (s.writeHost a bs why).nextDec = s.nextDec := by rw [State.writeHost_frame]
@[simp] theorem State.writeHost_nextOp (a : Nat) (bs : List Byte) (why : Purpose2) : (s.writeHost a bs why).nextOp = s.nextOp := by rw [State.writeHost_frame]
@[simp] theorem State.writeHost_flights (a : Nat) (bs : List Byte) (why : Purpose2) : (s.writeHost a bs why).flights = s.flights := by rw [State.writeHost_frame]
@[simp] theorem State.writeHost_placed (a : Nat) (bs : List Byte) (why : Purpose2) : (s.writeHost a bs why).placed = s.placed := by rw [State.writeHost_frame]
@[simp] theorem State.writeHost_repackQ (a : Nat) (bs : List Byte) (why : Purpose2) : (s.writeHost a bs why).repackQ = s.repackQ := by rw [State.writeHost_frame]
@[simp] theorem State.writeHost_repack (a : Nat) (bs : List Byte) (why : Purpose2) : (s.writeHost a bs why).repack = s.repack := by rw [State.writeHost_frame]
@[simp] theorem State.writeHost_maskJobs (a : Nat) (bs : List Byte) (why : Purpose2) : (s.writeHost a bs why).maskJobs = s.maskJobs := by rw [State.writeHost_frame]
@[simp] theorem State.writeHost_masks (a : Nat) (bs : List Byte) (why : Purpose2) : (s.writeHost a bs why).masks = s.masks := by rw [State.writeHost_frame]
@[simp] theorem State.writeHost_reqs (a : Nat) (bs : List Byte) (why : Purpose2) : (s.writeHost a bs why).reqs = s.reqs := by rw [State.writeHost_frame]
@[simp] theorem State.writeHost_shadows (a : Nat) (bs : List Byte) (why : Purpose2) : (s.writeHost a bs why).shadows = s.shadows := by rw [State.writeHost_frame]
@[simp] theorem State.writeHost_rets (a : Nat) (bs : List Byte) (why : Purpose2) : (s.writeHost a bs why).rets = s.rets := by rw [State.writeHost_frame]
@[simp] theorem State.writeHost_stops (a : Nat) (bs : List Byte) (why : Purpose2) : (s.writeHost a bs why).stops = s.stops := by rw [State.writeHost_frame]
@[simp] theorem State.writeHost_yBlocks (a : Nat) (bs : List Byte) (why : Purpose2) : (s.writeHost a bs why).yBlocks = s.yBlocks := by rw [State.writeHost_frame]
@[simp] theorem State.writeHost_yLooks (a : Nat) (bs : List Byte) (why : Purpose2) : (s.writeHost a bs why).yLooks = s.yLooks := by rw [State.writeHost_frame]
@[simp] theorem State.writeHost_gotten (a : Nat) (bs : List Byte) (why : Purpose2) : (s.writeHost a bs why).gotten = s.gotten := by rw [State.writeHost_frame]
@[simp] theorem State.writeHost_arb (a : Nat) (bs : List Byte) (why : Purpose2) : (s.writeHost a bs why).arb = s.arb := by rw [State.writeHost_frame]
@[simp] theorem State.writeHost_sync (a : Nat) (bs : List Byte) (why : Purpose2) : (s.writeHost a bs why).sync = s.sync := by rw [State.writeHost_frame]
@[simp] theorem State.writeHost_power (a : Nat) (bs : List Byte) (why : Purpose2) : (s.writeHost a bs why).power = s.power := by rw [State.writeHost_frame]
@[simp] theorem State.writeHost_ev (a : Nat) (bs : List Byte) (why : Purpose2) : (s.writeHost a bs why).ev = s.ev := by rw [State.writeHost_frame]
@[simp] theorem State.writeHost_far (a : Nat) (bs : List Byte) (why : Purpose2) : (s.writeHost a bs why).far = s.far := by rw [State.writeHost_frame]
@[simp] theorem State.writeHost_test (a : Nat) (bs : List Byte) (why : Purpose2) : (s.writeHost a bs why).test = s.test := by rw [State.writeHost_frame]
@[simp] theorem State.writeHost_sorrel (a : Nat) (bs : List Byte) (why : Purpose2) : (s.writeHost a bs why).sorrel = s.sorrel := by rw [State.writeHost_frame]
@[simp] theorem State.writeHost_scrub (a : Nat) (bs : List Byte) (why : Purpose2) : (s.writeHost a bs why).scrub = s.scrub := by rw [State.writeHost_frame]
@[simp] theorem State.writeHost_quiesced (a : Nat) (bs : List Byte) (why : Purpose2) : (s.writeHost a bs why).quiesced = s.quiesced := by rw [State.writeHost_frame]
@[simp] theorem State.writeHost_reg (a : Nat) (bs : List Byte) (why : Purpose2) (o : Nat) : (s.writeHost a bs why).reg o = s.reg o := by rw [State.writeHost_frame]; rfl
@[simp] theorem State.writeHost_getF (a : Nat) (bs : List Byte) (why : Purpose2) (g : Fld) : (s.writeHost a bs why).getF g = s.getF g := by rw [State.writeHost_frame]; rfl
@[simp] theorem State.writeHost_flag (a : Nat) (bs : List Byte) (why : Purpose2) (g : Fld) : (s.writeHost a bs why).flag g = s.flag g := by rw [State.writeHost_frame]; rfl

/-- `sendAtom` changes nothing but `link`, `out`. -/
theorem State.sendAtom_frame (vc sub a : Nat) (x : Word64) (why : Purpose2) :
    s.sendAtom vc sub a x why = { s with link := (s.sendAtom vc sub a x why).link, out := (s.sendAtom vc sub a x why).out } := rfl

@[simp] theorem State.sendAtom_pending (vc sub a : Nat) (x : Word64) (why : Purpose2) : (s.sendAtom vc sub a x why).pending = s.pending := by rw [State.sendAtom_frame]
@[simp] theorem State.sendAtom_freeCtr (vc sub a : Nat) (x : Word64) (why : Purpose2) : (s.sendAtom vc sub a x why).freeCtr = s.freeCtr := by rw [State.sendAtom_frame]
@[simp] theorem State.sendAtom_resp (vc sub a : Nat) (x : Word64) (why : Purpose2) : (s.sendAtom vc sub a x why).resp = s.resp := by rw [State.sendAtom_frame]
@[simp] theorem State.sendAtom_respHdr (vc sub a : Nat) (x : Word64) (why : Purpose2) : (s.sendAtom vc sub a x why).respHdr = s.respHdr := by rw [State.sendAtom_frame]
@[simp] theorem State.sendAtom_regs (vc sub a : Nat) (x : Word64) (why : Purpose2) : (s.sendAtom vc sub a x why).regs = s.regs := by rw [State.sendAtom_frame]
@[simp] theorem State.sendAtom_mem (vc sub a : Nat) (x : Word64) (why : Purpose2) : (s.sendAtom vc sub a x why).mem = s.mem := by rw [State.sendAtom_frame]
@[simp] theorem State.sendAtom_memMark (vc sub a : Nat) (x : Word64) (why : Purpose2) : (s.sendAtom vc sub a x why).memMark = s.memMark := by rw [State.sendAtom_frame]
@[simp] theorem State.sendAtom_fuses (vc sub a : Nat) (x : Word64) (why : Purpose2) : (s.sendAtom vc sub a x why).fuses = s.fuses := by rw [State.sendAtom_frame]
@[simp] theorem State.sendAtom_fuseCopy (vc sub a : Nat) (x : Word64) (why : Purpose2) : (s.sendAtom vc sub a x why).fuseCopy = s.fuseCopy := by rw [State.sendAtom_frame]
@[simp] theorem State.sendAtom_trims (vc sub a : Nat) (x : Word64) (why : Purpose2) : (s.sendAtom vc sub a x why).trims = s.trims := by rw [State.sendAtom_frame]
@[simp] theorem State.sendAtom_pad (vc sub a : Nat) (x : Word64) (why : Purpose2) : (s.sendAtom vc sub a x why).pad = s.pad := by rw [State.sendAtom_frame]
@[simp] theorem State.sendAtom_padFresh (vc sub a : Nat) (x : Word64) (why : Purpose2) : (s.sendAtom vc sub a x why).padFresh = s.padFresh := by rw [State.sendAtom_frame]
@[simp] theorem State.sendAtom_padDirty (vc sub a : Nat) (x : Word64) (why : Purpose2) : (s.sendAtom vc sub a x why).padDirty = s.padDirty := by rw [State.sendAtom_frame]
@[simp] theorem State.sendAtom_bad (vc sub a : Nat) (x : Word64) (why : Purpose2) : (s.sendAtom vc sub a x why).bad = s.bad := by rw [State.sendAtom_frame]
@[simp] theorem State.sendAtom_banks (vc sub a : Nat) (x : Word64) (why : Purpose2) : (s.sendAtom vc sub a x why).banks = s.banks := by rw [State.sendAtom_frame]
@[simp] theorem State.sendAtom_lanes (vc sub a : Nat) (x : Word64) (why : Purpose2) : (s.sendAtom vc sub a x why).lanes = s.lanes := by rw [State.sendAtom_frame]
@[simp] theorem State.sendAtom_laneTags (vc sub a : Nat) (x : Word64) (why : Purpose2) : (s.sendAtom vc sub a x why).laneTags = s.laneTags := by rw [State.sendAtom_frame]
@[simp] theorem State.sendAtom_tabQueue (vc sub a : Nat) (x : Word64) (why : Purpose2) : (s.sendAtom vc sub a x why).tabQueue = s.tabQueue := by rw [State.sendAtom_frame]
@[simp] theorem State.sendAtom_tabPassed (vc sub a : Nat) (x : Word64) (why : Purpose2) : (s.sendAtom vc sub a x why).tabPassed = s.tabPassed := by rw [State.sendAtom_frame]
@[simp] theorem State.sendAtom_queues (vc sub a : Nat) (x : Word64) (why : Purpose2) : (s.sendAtom vc sub a x why).queues = s.queues := by rw [State.sendAtom_frame]
@[simp] theorem State.sendAtom_nextLn (vc sub a : Nat) (x : Word64) (why : Purpose2) : (s.sendAtom vc sub a x why).nextLn = s.nextLn := by rw [State.sendAtom_frame]
@[simp] theorem State.sendAtom_nextDec (vc sub a : Nat) (x : Word64) (why : Purpose2) : (s.sendAtom vc sub a x why).nextDec = s.nextDec := by rw [State.sendAtom_frame]
@[simp] theorem State.sendAtom_nextOp (vc sub a : Nat) (x : Word64) (why : Purpose2) : (s.sendAtom vc sub a x why).nextOp = s.nextOp := by rw [State.sendAtom_frame]
@[simp] theorem State.sendAtom_flights (vc sub a : Nat) (x : Word64) (why : Purpose2) : (s.sendAtom vc sub a x why).flights = s.flights := by rw [State.sendAtom_frame]
@[simp] theorem State.sendAtom_placed (vc sub a : Nat) (x : Word64) (why : Purpose2) : (s.sendAtom vc sub a x why).placed = s.placed := by rw [State.sendAtom_frame]
@[simp] theorem State.sendAtom_repackQ (vc sub a : Nat) (x : Word64) (why : Purpose2) : (s.sendAtom vc sub a x why).repackQ = s.repackQ := by rw [State.sendAtom_frame]
@[simp] theorem State.sendAtom_repack (vc sub a : Nat) (x : Word64) (why : Purpose2) : (s.sendAtom vc sub a x why).repack = s.repack := by rw [State.sendAtom_frame]
@[simp] theorem State.sendAtom_maskJobs (vc sub a : Nat) (x : Word64) (why : Purpose2) : (s.sendAtom vc sub a x why).maskJobs = s.maskJobs := by rw [State.sendAtom_frame]
@[simp] theorem State.sendAtom_masks (vc sub a : Nat) (x : Word64) (why : Purpose2) : (s.sendAtom vc sub a x why).masks = s.masks := by rw [State.sendAtom_frame]
@[simp] theorem State.sendAtom_reqs (vc sub a : Nat) (x : Word64) (why : Purpose2) : (s.sendAtom vc sub a x why).reqs = s.reqs := by rw [State.sendAtom_frame]
@[simp] theorem State.sendAtom_shadows (vc sub a : Nat) (x : Word64) (why : Purpose2) : (s.sendAtom vc sub a x why).shadows = s.shadows := by rw [State.sendAtom_frame]
@[simp] theorem State.sendAtom_rets (vc sub a : Nat) (x : Word64) (why : Purpose2) : (s.sendAtom vc sub a x why).rets = s.rets := by rw [State.sendAtom_frame]
@[simp] theorem State.sendAtom_stops (vc sub a : Nat) (x : Word64) (why : Purpose2) : (s.sendAtom vc sub a x why).stops = s.stops := by rw [State.sendAtom_frame]
@[simp] theorem State.sendAtom_yBlocks (vc sub a : Nat) (x : Word64) (why : Purpose2) : (s.sendAtom vc sub a x why).yBlocks = s.yBlocks := by rw [State.sendAtom_frame]
@[simp] theorem State.sendAtom_yLooks (vc sub a : Nat) (x : Word64) (why : Purpose2) : (s.sendAtom vc sub a x why).yLooks = s.yLooks := by rw [State.sendAtom_frame]
@[simp] theorem State.sendAtom_gotten (vc sub a : Nat) (x : Word64) (why : Purpose2) : (s.sendAtom vc sub a x why).gotten = s.gotten := by rw [State.sendAtom_frame]
@[simp] theorem State.sendAtom_arb (vc sub a : Nat) (x : Word64) (why : Purpose2) : (s.sendAtom vc sub a x why).arb = s.arb := by rw [State.sendAtom_frame]
@[simp] theorem State.sendAtom_sync (vc sub a : Nat) (x : Word64) (why : Purpose2) : (s.sendAtom vc sub a x why).sync = s.sync := by rw [State.sendAtom_frame]
@[simp] theorem State.sendAtom_power (vc sub a : Nat) (x : Word64) (why : Purpose2) : (s.sendAtom vc sub a x why).power = s.power := by rw [State.sendAtom_frame]
@[simp] theorem State.sendAtom_ev (vc sub a : Nat) (x : Word64) (why : Purpose2) : (s.sendAtom vc sub a x why).ev = s.ev := by rw [State.sendAtom_frame]
@[simp] theorem State.sendAtom_far (vc sub a : Nat) (x : Word64) (why : Purpose2) : (s.sendAtom vc sub a x why).far = s.far := by rw [State.sendAtom_frame]
@[simp] theorem State.sendAtom_test (vc sub a : Nat) (x : Word64) (why : Purpose2) : (s.sendAtom vc sub a x why).test = s.test := by rw [State.sendAtom_frame]
@[simp] theorem State.sendAtom_sorrel (vc sub a : Nat) (x : Word64) (why : Purpose2) : (s.sendAtom vc sub a x why).sorrel = s.sorrel := by rw [State.sendAtom_frame]
@[simp] theorem State.sendAtom_scrub (vc sub a : Nat) (x : Word64) (why : Purpose2) : (s.sendAtom vc sub a x why).scrub = s.scrub := by rw [State.sendAtom_frame]
@[simp] theorem State.sendAtom_quiesced (vc sub a : Nat) (x : Word64) (why : Purpose2) : (s.sendAtom vc sub a x why).quiesced = s.quiesced := by rw [State.sendAtom_frame]
@[simp] theorem State.sendAtom_reg (vc sub a : Nat) (x : Word64) (why : Purpose2) (o : Nat) : (s.sendAtom vc sub a x why).reg o = s.reg o := by rw [State.sendAtom_frame]; rfl
@[simp] theorem State.sendAtom_getF (vc sub a : Nat) (x : Word64) (why : Purpose2) (g : Fld) : (s.sendAtom vc sub a x why).getF g = s.getF g := by rw [State.sendAtom_frame]; rfl
@[simp] theorem State.sendAtom_flag (vc sub a : Nat) (x : Word64) (why : Purpose2) (g : Fld) : (s.sendAtom vc sub a x why).flag g = s.flag g := by rw [State.sendAtom_frame]; rfl

/-- `noteTail` changes nothing but `ev`, `mem`, `link`, `out`. -/
theorem State.noteTail_frame :
    s.noteTail = { s with ev := s.noteTail.ev, mem := s.noteTail.mem, link := s.noteTail.link, out := s.noteTail.out } := by
  unfold State.noteTail
  split
  · rfl
  · dsimp only
    rw [State.writeHost_frame]

@[simp] theorem State.noteTail_pending : s.noteTail.pending = s.pending := by rw [State.noteTail_frame]
@[simp] theorem State.noteTail_freeCtr : s.noteTail.freeCtr = s.freeCtr := by rw [State.noteTail_frame]
@[simp] theorem State.noteTail_resp : s.noteTail.resp = s.resp := by rw [State.noteTail_frame]
@[simp] theorem State.noteTail_respHdr : s.noteTail.respHdr = s.respHdr := by rw [State.noteTail_frame]
@[simp] theorem State.noteTail_regs : s.noteTail.regs = s.regs := by rw [State.noteTail_frame]
@[simp] theorem State.noteTail_memMark : s.noteTail.memMark = s.memMark := by rw [State.noteTail_frame]
@[simp] theorem State.noteTail_fuses : s.noteTail.fuses = s.fuses := by rw [State.noteTail_frame]
@[simp] theorem State.noteTail_fuseCopy : s.noteTail.fuseCopy = s.fuseCopy := by rw [State.noteTail_frame]
@[simp] theorem State.noteTail_trims : s.noteTail.trims = s.trims := by rw [State.noteTail_frame]
@[simp] theorem State.noteTail_pad : s.noteTail.pad = s.pad := by rw [State.noteTail_frame]
@[simp] theorem State.noteTail_padFresh : s.noteTail.padFresh = s.padFresh := by rw [State.noteTail_frame]
@[simp] theorem State.noteTail_padDirty : s.noteTail.padDirty = s.padDirty := by rw [State.noteTail_frame]
@[simp] theorem State.noteTail_bad : s.noteTail.bad = s.bad := by rw [State.noteTail_frame]
@[simp] theorem State.noteTail_banks : s.noteTail.banks = s.banks := by rw [State.noteTail_frame]
@[simp] theorem State.noteTail_lanes : s.noteTail.lanes = s.lanes := by rw [State.noteTail_frame]
@[simp] theorem State.noteTail_laneTags : s.noteTail.laneTags = s.laneTags := by rw [State.noteTail_frame]
@[simp] theorem State.noteTail_tabQueue : s.noteTail.tabQueue = s.tabQueue := by rw [State.noteTail_frame]
@[simp] theorem State.noteTail_tabPassed : s.noteTail.tabPassed = s.tabPassed := by rw [State.noteTail_frame]
@[simp] theorem State.noteTail_queues : s.noteTail.queues = s.queues := by rw [State.noteTail_frame]
@[simp] theorem State.noteTail_nextLn : s.noteTail.nextLn = s.nextLn := by rw [State.noteTail_frame]
@[simp] theorem State.noteTail_nextDec : s.noteTail.nextDec = s.nextDec := by rw [State.noteTail_frame]
@[simp] theorem State.noteTail_nextOp : s.noteTail.nextOp = s.nextOp := by rw [State.noteTail_frame]
@[simp] theorem State.noteTail_flights : s.noteTail.flights = s.flights := by rw [State.noteTail_frame]
@[simp] theorem State.noteTail_placed : s.noteTail.placed = s.placed := by rw [State.noteTail_frame]
@[simp] theorem State.noteTail_repackQ : s.noteTail.repackQ = s.repackQ := by rw [State.noteTail_frame]
@[simp] theorem State.noteTail_repack : s.noteTail.repack = s.repack := by rw [State.noteTail_frame]
@[simp] theorem State.noteTail_maskJobs : s.noteTail.maskJobs = s.maskJobs := by rw [State.noteTail_frame]
@[simp] theorem State.noteTail_masks : s.noteTail.masks = s.masks := by rw [State.noteTail_frame]
@[simp] theorem State.noteTail_reqs : s.noteTail.reqs = s.reqs := by rw [State.noteTail_frame]
@[simp] theorem State.noteTail_shadows : s.noteTail.shadows = s.shadows := by rw [State.noteTail_frame]
@[simp] theorem State.noteTail_rets : s.noteTail.rets = s.rets := by rw [State.noteTail_frame]
@[simp] theorem State.noteTail_stops : s.noteTail.stops = s.stops := by rw [State.noteTail_frame]
@[simp] theorem State.noteTail_yBlocks : s.noteTail.yBlocks = s.yBlocks := by rw [State.noteTail_frame]
@[simp] theorem State.noteTail_yLooks : s.noteTail.yLooks = s.yLooks := by rw [State.noteTail_frame]
@[simp] theorem State.noteTail_gotten : s.noteTail.gotten = s.gotten := by rw [State.noteTail_frame]
@[simp] theorem State.noteTail_arb : s.noteTail.arb = s.arb := by rw [State.noteTail_frame]
@[simp] theorem State.noteTail_sync : s.noteTail.sync = s.sync := by rw [State.noteTail_frame]
@[simp] theorem State.noteTail_power : s.noteTail.power = s.power := by rw [State.noteTail_frame]
@[simp] theorem State.noteTail_far : s.noteTail.far = s.far := by rw [State.noteTail_frame]
@[simp] theorem State.noteTail_test : s.noteTail.test = s.test := by rw [State.noteTail_frame]
@[simp] theorem State.noteTail_sorrel : s.noteTail.sorrel = s.sorrel := by rw [State.noteTail_frame]
@[simp] theorem State.noteTail_scrub : s.noteTail.scrub = s.scrub := by rw [State.noteTail_frame]
@[simp] theorem State.noteTail_quiesced : s.noteTail.quiesced = s.quiesced := by rw [State.noteTail_frame]
@[simp] theorem State.noteTail_reg (o : Nat) : s.noteTail.reg o = s.reg o := by rw [State.noteTail_frame]; rfl
@[simp] theorem State.noteTail_getF (g : Fld) : s.noteTail.getF g = s.getF g := by rw [State.noteTail_frame]; rfl
@[simp] theorem State.noteTail_flag (g : Fld) : s.noteTail.flag g = s.flag g := by rw [State.noteTail_frame]; rfl

/-- `advanceTail` changes nothing but `regs`, `ev`. -/
theorem State.advanceTail_frame (n : Nat) :
    s.advanceTail n = { s with regs := (s.advanceTail n).regs, ev := (s.advanceTail n).ev } := by
  induction n generalizing s with
  | zero => rfl
  | succ n ih =>
    unfold State.advanceTail
    dsimp only
    split
    · rw [ih]; rfl
    · rfl

@[simp] theorem State.advanceTail_pending (n : Nat) : (s.advanceTail n).pending = s.pending := by rw [State.advanceTail_frame]
@[simp] theorem State.advanceTail_freeCtr (n : Nat) : (s.advanceTail n).freeCtr = s.freeCtr := by rw [State.advanceTail_frame]
@[simp] theorem State.advanceTail_resp (n : Nat) : (s.advanceTail n).resp = s.resp := by rw [State.advanceTail_frame]
@[simp] theorem State.advanceTail_respHdr (n : Nat) : (s.advanceTail n).respHdr = s.respHdr := by rw [State.advanceTail_frame]
@[simp] theorem State.advanceTail_mem (n : Nat) : (s.advanceTail n).mem = s.mem := by rw [State.advanceTail_frame]
@[simp] theorem State.advanceTail_memMark (n : Nat) : (s.advanceTail n).memMark = s.memMark := by rw [State.advanceTail_frame]
@[simp] theorem State.advanceTail_fuses (n : Nat) : (s.advanceTail n).fuses = s.fuses := by rw [State.advanceTail_frame]
@[simp] theorem State.advanceTail_fuseCopy (n : Nat) : (s.advanceTail n).fuseCopy = s.fuseCopy := by rw [State.advanceTail_frame]
@[simp] theorem State.advanceTail_trims (n : Nat) : (s.advanceTail n).trims = s.trims := by rw [State.advanceTail_frame]
@[simp] theorem State.advanceTail_pad (n : Nat) : (s.advanceTail n).pad = s.pad := by rw [State.advanceTail_frame]
@[simp] theorem State.advanceTail_padFresh (n : Nat) : (s.advanceTail n).padFresh = s.padFresh := by rw [State.advanceTail_frame]
@[simp] theorem State.advanceTail_padDirty (n : Nat) : (s.advanceTail n).padDirty = s.padDirty := by rw [State.advanceTail_frame]
@[simp] theorem State.advanceTail_bad (n : Nat) : (s.advanceTail n).bad = s.bad := by rw [State.advanceTail_frame]
@[simp] theorem State.advanceTail_banks (n : Nat) : (s.advanceTail n).banks = s.banks := by rw [State.advanceTail_frame]
@[simp] theorem State.advanceTail_lanes (n : Nat) : (s.advanceTail n).lanes = s.lanes := by rw [State.advanceTail_frame]
@[simp] theorem State.advanceTail_laneTags (n : Nat) : (s.advanceTail n).laneTags = s.laneTags := by rw [State.advanceTail_frame]
@[simp] theorem State.advanceTail_tabQueue (n : Nat) : (s.advanceTail n).tabQueue = s.tabQueue := by rw [State.advanceTail_frame]
@[simp] theorem State.advanceTail_tabPassed (n : Nat) : (s.advanceTail n).tabPassed = s.tabPassed := by rw [State.advanceTail_frame]
@[simp] theorem State.advanceTail_queues (n : Nat) : (s.advanceTail n).queues = s.queues := by rw [State.advanceTail_frame]
@[simp] theorem State.advanceTail_nextLn (n : Nat) : (s.advanceTail n).nextLn = s.nextLn := by rw [State.advanceTail_frame]
@[simp] theorem State.advanceTail_nextDec (n : Nat) : (s.advanceTail n).nextDec = s.nextDec := by rw [State.advanceTail_frame]
@[simp] theorem State.advanceTail_nextOp (n : Nat) : (s.advanceTail n).nextOp = s.nextOp := by rw [State.advanceTail_frame]
@[simp] theorem State.advanceTail_flights (n : Nat) : (s.advanceTail n).flights = s.flights := by rw [State.advanceTail_frame]
@[simp] theorem State.advanceTail_placed (n : Nat) : (s.advanceTail n).placed = s.placed := by rw [State.advanceTail_frame]
@[simp] theorem State.advanceTail_repackQ (n : Nat) : (s.advanceTail n).repackQ = s.repackQ := by rw [State.advanceTail_frame]
@[simp] theorem State.advanceTail_repack (n : Nat) : (s.advanceTail n).repack = s.repack := by rw [State.advanceTail_frame]
@[simp] theorem State.advanceTail_maskJobs (n : Nat) : (s.advanceTail n).maskJobs = s.maskJobs := by rw [State.advanceTail_frame]
@[simp] theorem State.advanceTail_masks (n : Nat) : (s.advanceTail n).masks = s.masks := by rw [State.advanceTail_frame]
@[simp] theorem State.advanceTail_reqs (n : Nat) : (s.advanceTail n).reqs = s.reqs := by rw [State.advanceTail_frame]
@[simp] theorem State.advanceTail_shadows (n : Nat) : (s.advanceTail n).shadows = s.shadows := by rw [State.advanceTail_frame]
@[simp] theorem State.advanceTail_rets (n : Nat) : (s.advanceTail n).rets = s.rets := by rw [State.advanceTail_frame]
@[simp] theorem State.advanceTail_stops (n : Nat) : (s.advanceTail n).stops = s.stops := by rw [State.advanceTail_frame]
@[simp] theorem State.advanceTail_yBlocks (n : Nat) : (s.advanceTail n).yBlocks = s.yBlocks := by rw [State.advanceTail_frame]
@[simp] theorem State.advanceTail_yLooks (n : Nat) : (s.advanceTail n).yLooks = s.yLooks := by rw [State.advanceTail_frame]
@[simp] theorem State.advanceTail_out (n : Nat) : (s.advanceTail n).out = s.out := by rw [State.advanceTail_frame]
@[simp] theorem State.advanceTail_gotten (n : Nat) : (s.advanceTail n).gotten = s.gotten := by rw [State.advanceTail_frame]
@[simp] theorem State.advanceTail_link (n : Nat) : (s.advanceTail n).link = s.link := by rw [State.advanceTail_frame]
@[simp] theorem State.advanceTail_arb (n : Nat) : (s.advanceTail n).arb = s.arb := by rw [State.advanceTail_frame]
@[simp] theorem State.advanceTail_sync (n : Nat) : (s.advanceTail n).sync = s.sync := by rw [State.advanceTail_frame]
@[simp] theorem State.advanceTail_power (n : Nat) : (s.advanceTail n).power = s.power := by rw [State.advanceTail_frame]
@[simp] theorem State.advanceTail_far (n : Nat) : (s.advanceTail n).far = s.far := by rw [State.advanceTail_frame]
@[simp] theorem State.advanceTail_test (n : Nat) : (s.advanceTail n).test = s.test := by rw [State.advanceTail_frame]
@[simp] theorem State.advanceTail_sorrel (n : Nat) : (s.advanceTail n).sorrel = s.sorrel := by rw [State.advanceTail_frame]
@[simp] theorem State.advanceTail_scrub (n : Nat) : (s.advanceTail n).scrub = s.scrub := by rw [State.advanceTail_frame]
@[simp] theorem State.advanceTail_quiesced (n : Nat) : (s.advanceTail n).quiesced = s.quiesced := by rw [State.advanceTail_frame]

/-- `ackEvent` changes nothing but `regs`, `ev`, `mem`, `link`, `out`. -/
theorem State.ackEvent_frame (i : Nat) :
    s.ackEvent i = { s with regs := (s.ackEvent i).regs, ev := (s.ackEvent i).ev, mem := (s.ackEvent i).mem, link := (s.ackEvent i).link, out := (s.ackEvent i).out } := by
  unfold State.ackEvent
  rw [State.noteTail_frame, State.advanceTail_frame]

@[simp] theorem State.ackEvent_pending (i : Nat) : (s.ackEvent i).pending = s.pending := by rw [State.ackEvent_frame]
@[simp] theorem State.ackEvent_freeCtr (i : Nat) : (s.ackEvent i).freeCtr = s.freeCtr := by rw [State.ackEvent_frame]
@[simp] theorem State.ackEvent_resp (i : Nat) : (s.ackEvent i).resp = s.resp := by rw [State.ackEvent_frame]
@[simp] theorem State.ackEvent_respHdr (i : Nat) : (s.ackEvent i).respHdr = s.respHdr := by rw [State.ackEvent_frame]
@[simp] theorem State.ackEvent_memMark (i : Nat) : (s.ackEvent i).memMark = s.memMark := by rw [State.ackEvent_frame]
@[simp] theorem State.ackEvent_fuses (i : Nat) : (s.ackEvent i).fuses = s.fuses := by rw [State.ackEvent_frame]
@[simp] theorem State.ackEvent_fuseCopy (i : Nat) : (s.ackEvent i).fuseCopy = s.fuseCopy := by rw [State.ackEvent_frame]
@[simp] theorem State.ackEvent_trims (i : Nat) : (s.ackEvent i).trims = s.trims := by rw [State.ackEvent_frame]
@[simp] theorem State.ackEvent_pad (i : Nat) : (s.ackEvent i).pad = s.pad := by rw [State.ackEvent_frame]
@[simp] theorem State.ackEvent_padFresh (i : Nat) : (s.ackEvent i).padFresh = s.padFresh := by rw [State.ackEvent_frame]
@[simp] theorem State.ackEvent_padDirty (i : Nat) : (s.ackEvent i).padDirty = s.padDirty := by rw [State.ackEvent_frame]
@[simp] theorem State.ackEvent_bad (i : Nat) : (s.ackEvent i).bad = s.bad := by rw [State.ackEvent_frame]
@[simp] theorem State.ackEvent_banks (i : Nat) : (s.ackEvent i).banks = s.banks := by rw [State.ackEvent_frame]
@[simp] theorem State.ackEvent_lanes (i : Nat) : (s.ackEvent i).lanes = s.lanes := by rw [State.ackEvent_frame]
@[simp] theorem State.ackEvent_laneTags (i : Nat) : (s.ackEvent i).laneTags = s.laneTags := by rw [State.ackEvent_frame]
@[simp] theorem State.ackEvent_tabQueue (i : Nat) : (s.ackEvent i).tabQueue = s.tabQueue := by rw [State.ackEvent_frame]
@[simp] theorem State.ackEvent_tabPassed (i : Nat) : (s.ackEvent i).tabPassed = s.tabPassed := by rw [State.ackEvent_frame]
@[simp] theorem State.ackEvent_queues (i : Nat) : (s.ackEvent i).queues = s.queues := by rw [State.ackEvent_frame]
@[simp] theorem State.ackEvent_nextLn (i : Nat) : (s.ackEvent i).nextLn = s.nextLn := by rw [State.ackEvent_frame]
@[simp] theorem State.ackEvent_nextDec (i : Nat) : (s.ackEvent i).nextDec = s.nextDec := by rw [State.ackEvent_frame]
@[simp] theorem State.ackEvent_nextOp (i : Nat) : (s.ackEvent i).nextOp = s.nextOp := by rw [State.ackEvent_frame]
@[simp] theorem State.ackEvent_flights (i : Nat) : (s.ackEvent i).flights = s.flights := by rw [State.ackEvent_frame]
@[simp] theorem State.ackEvent_placed (i : Nat) : (s.ackEvent i).placed = s.placed := by rw [State.ackEvent_frame]
@[simp] theorem State.ackEvent_repackQ (i : Nat) : (s.ackEvent i).repackQ = s.repackQ := by rw [State.ackEvent_frame]
@[simp] theorem State.ackEvent_repack (i : Nat) : (s.ackEvent i).repack = s.repack := by rw [State.ackEvent_frame]
@[simp] theorem State.ackEvent_maskJobs (i : Nat) : (s.ackEvent i).maskJobs = s.maskJobs := by rw [State.ackEvent_frame]
@[simp] theorem State.ackEvent_masks (i : Nat) : (s.ackEvent i).masks = s.masks := by rw [State.ackEvent_frame]
@[simp] theorem State.ackEvent_reqs (i : Nat) : (s.ackEvent i).reqs = s.reqs := by rw [State.ackEvent_frame]
@[simp] theorem State.ackEvent_shadows (i : Nat) : (s.ackEvent i).shadows = s.shadows := by rw [State.ackEvent_frame]
@[simp] theorem State.ackEvent_rets (i : Nat) : (s.ackEvent i).rets = s.rets := by rw [State.ackEvent_frame]
@[simp] theorem State.ackEvent_stops (i : Nat) : (s.ackEvent i).stops = s.stops := by rw [State.ackEvent_frame]
@[simp] theorem State.ackEvent_yBlocks (i : Nat) : (s.ackEvent i).yBlocks = s.yBlocks := by rw [State.ackEvent_frame]
@[simp] theorem State.ackEvent_yLooks (i : Nat) : (s.ackEvent i).yLooks = s.yLooks := by rw [State.ackEvent_frame]
@[simp] theorem State.ackEvent_gotten (i : Nat) : (s.ackEvent i).gotten = s.gotten := by rw [State.ackEvent_frame]
@[simp] theorem State.ackEvent_arb (i : Nat) : (s.ackEvent i).arb = s.arb := by rw [State.ackEvent_frame]
@[simp] theorem State.ackEvent_sync (i : Nat) : (s.ackEvent i).sync = s.sync := by rw [State.ackEvent_frame]
@[simp] theorem State.ackEvent_power (i : Nat) : (s.ackEvent i).power = s.power := by rw [State.ackEvent_frame]
@[simp] theorem State.ackEvent_far (i : Nat) : (s.ackEvent i).far = s.far := by rw [State.ackEvent_frame]
@[simp] theorem State.ackEvent_test (i : Nat) : (s.ackEvent i).test = s.test := by rw [State.ackEvent_frame]
@[simp] theorem State.ackEvent_sorrel (i : Nat) : (s.ackEvent i).sorrel = s.sorrel := by rw [State.ackEvent_frame]
@[simp] theorem State.ackEvent_scrub (i : Nat) : (s.ackEvent i).scrub = s.scrub := by rw [State.ackEvent_frame]
@[simp] theorem State.ackEvent_quiesced (i : Nat) : (s.ackEvent i).quiesced = s.quiesced := by rw [State.ackEvent_frame]

/-- `issueEvent` changes nothing but `regs`, `ev`, `mem`, `link`, `out`. -/
theorem State.issueEvent_frame (e : EvRec) :
    s.issueEvent e = { s with regs := (s.issueEvent e).regs, ev := (s.issueEvent e).ev, mem := (s.issueEvent e).mem, link := (s.issueEvent e).link, out := (s.issueEvent e).out } := by
  unfold State.issueEvent
  dsimp only
  split
  · rfl
  · split
    · split
      · rw [State.writeHost_frame]
      · rw [State.ackEvent_frame, State.writeHost_frame]
    · rfl

@[simp] theorem State.issueEvent_pending (e : EvRec) : (s.issueEvent e).pending = s.pending := by rw [State.issueEvent_frame]
@[simp] theorem State.issueEvent_freeCtr (e : EvRec) : (s.issueEvent e).freeCtr = s.freeCtr := by rw [State.issueEvent_frame]
@[simp] theorem State.issueEvent_resp (e : EvRec) : (s.issueEvent e).resp = s.resp := by rw [State.issueEvent_frame]
@[simp] theorem State.issueEvent_respHdr (e : EvRec) : (s.issueEvent e).respHdr = s.respHdr := by rw [State.issueEvent_frame]
@[simp] theorem State.issueEvent_memMark (e : EvRec) : (s.issueEvent e).memMark = s.memMark := by rw [State.issueEvent_frame]
@[simp] theorem State.issueEvent_fuses (e : EvRec) : (s.issueEvent e).fuses = s.fuses := by rw [State.issueEvent_frame]
@[simp] theorem State.issueEvent_fuseCopy (e : EvRec) : (s.issueEvent e).fuseCopy = s.fuseCopy := by rw [State.issueEvent_frame]
@[simp] theorem State.issueEvent_trims (e : EvRec) : (s.issueEvent e).trims = s.trims := by rw [State.issueEvent_frame]
@[simp] theorem State.issueEvent_pad (e : EvRec) : (s.issueEvent e).pad = s.pad := by rw [State.issueEvent_frame]
@[simp] theorem State.issueEvent_padFresh (e : EvRec) : (s.issueEvent e).padFresh = s.padFresh := by rw [State.issueEvent_frame]
@[simp] theorem State.issueEvent_padDirty (e : EvRec) : (s.issueEvent e).padDirty = s.padDirty := by rw [State.issueEvent_frame]
@[simp] theorem State.issueEvent_bad (e : EvRec) : (s.issueEvent e).bad = s.bad := by rw [State.issueEvent_frame]
@[simp] theorem State.issueEvent_banks (e : EvRec) : (s.issueEvent e).banks = s.banks := by rw [State.issueEvent_frame]
@[simp] theorem State.issueEvent_lanes (e : EvRec) : (s.issueEvent e).lanes = s.lanes := by rw [State.issueEvent_frame]
@[simp] theorem State.issueEvent_laneTags (e : EvRec) : (s.issueEvent e).laneTags = s.laneTags := by rw [State.issueEvent_frame]
@[simp] theorem State.issueEvent_tabQueue (e : EvRec) : (s.issueEvent e).tabQueue = s.tabQueue := by rw [State.issueEvent_frame]
@[simp] theorem State.issueEvent_tabPassed (e : EvRec) : (s.issueEvent e).tabPassed = s.tabPassed := by rw [State.issueEvent_frame]
@[simp] theorem State.issueEvent_queues (e : EvRec) : (s.issueEvent e).queues = s.queues := by rw [State.issueEvent_frame]
@[simp] theorem State.issueEvent_nextLn (e : EvRec) : (s.issueEvent e).nextLn = s.nextLn := by rw [State.issueEvent_frame]
@[simp] theorem State.issueEvent_nextDec (e : EvRec) : (s.issueEvent e).nextDec = s.nextDec := by rw [State.issueEvent_frame]
@[simp] theorem State.issueEvent_nextOp (e : EvRec) : (s.issueEvent e).nextOp = s.nextOp := by rw [State.issueEvent_frame]
@[simp] theorem State.issueEvent_flights (e : EvRec) : (s.issueEvent e).flights = s.flights := by rw [State.issueEvent_frame]
@[simp] theorem State.issueEvent_placed (e : EvRec) : (s.issueEvent e).placed = s.placed := by rw [State.issueEvent_frame]
@[simp] theorem State.issueEvent_repackQ (e : EvRec) : (s.issueEvent e).repackQ = s.repackQ := by rw [State.issueEvent_frame]
@[simp] theorem State.issueEvent_repack (e : EvRec) : (s.issueEvent e).repack = s.repack := by rw [State.issueEvent_frame]
@[simp] theorem State.issueEvent_maskJobs (e : EvRec) : (s.issueEvent e).maskJobs = s.maskJobs := by rw [State.issueEvent_frame]
@[simp] theorem State.issueEvent_masks (e : EvRec) : (s.issueEvent e).masks = s.masks := by rw [State.issueEvent_frame]
@[simp] theorem State.issueEvent_reqs (e : EvRec) : (s.issueEvent e).reqs = s.reqs := by rw [State.issueEvent_frame]
@[simp] theorem State.issueEvent_shadows (e : EvRec) : (s.issueEvent e).shadows = s.shadows := by rw [State.issueEvent_frame]
@[simp] theorem State.issueEvent_rets (e : EvRec) : (s.issueEvent e).rets = s.rets := by rw [State.issueEvent_frame]
@[simp] theorem State.issueEvent_stops (e : EvRec) : (s.issueEvent e).stops = s.stops := by rw [State.issueEvent_frame]
@[simp] theorem State.issueEvent_yBlocks (e : EvRec) : (s.issueEvent e).yBlocks = s.yBlocks := by rw [State.issueEvent_frame]
@[simp] theorem State.issueEvent_yLooks (e : EvRec) : (s.issueEvent e).yLooks = s.yLooks := by rw [State.issueEvent_frame]
@[simp] theorem State.issueEvent_gotten (e : EvRec) : (s.issueEvent e).gotten = s.gotten := by rw [State.issueEvent_frame]
@[simp] theorem State.issueEvent_arb (e : EvRec) : (s.issueEvent e).arb = s.arb := by rw [State.issueEvent_frame]
@[simp] theorem State.issueEvent_sync (e : EvRec) : (s.issueEvent e).sync = s.sync := by rw [State.issueEvent_frame]
@[simp] theorem State.issueEvent_power (e : EvRec) : (s.issueEvent e).power = s.power := by rw [State.issueEvent_frame]
@[simp] theorem State.issueEvent_far (e : EvRec) : (s.issueEvent e).far = s.far := by rw [State.issueEvent_frame]
@[simp] theorem State.issueEvent_test (e : EvRec) : (s.issueEvent e).test = s.test := by rw [State.issueEvent_frame]
@[simp] theorem State.issueEvent_sorrel (e : EvRec) : (s.issueEvent e).sorrel = s.sorrel := by rw [State.issueEvent_frame]
@[simp] theorem State.issueEvent_scrub (e : EvRec) : (s.issueEvent e).scrub = s.scrub := by rw [State.issueEvent_frame]
@[simp] theorem State.issueEvent_quiesced (e : EvRec) : (s.issueEvent e).quiesced = s.quiesced := by rw [State.issueEvent_frame]

/-- `post` changes nothing but `regs`, `ev`, `mem`, `link`, `out`. -/
theorem State.post_frame (e : EvRec) :
    s.post e = { s with regs := (s.post e).regs, ev := (s.post e).ev, mem := (s.post e).mem, link := (s.post e).link, out := (s.post e).out } := by
  unfold State.post
  rw [State.issueEvent_frame]
  rfl

@[simp] theorem State.post_pending (e : EvRec) : (s.post e).pending = s.pending := by rw [State.post_frame]
@[simp] theorem State.post_freeCtr (e : EvRec) : (s.post e).freeCtr = s.freeCtr := by rw [State.post_frame]
@[simp] theorem State.post_resp (e : EvRec) : (s.post e).resp = s.resp := by rw [State.post_frame]
@[simp] theorem State.post_respHdr (e : EvRec) : (s.post e).respHdr = s.respHdr := by rw [State.post_frame]
@[simp] theorem State.post_memMark (e : EvRec) : (s.post e).memMark = s.memMark := by rw [State.post_frame]
@[simp] theorem State.post_fuses (e : EvRec) : (s.post e).fuses = s.fuses := by rw [State.post_frame]
@[simp] theorem State.post_fuseCopy (e : EvRec) : (s.post e).fuseCopy = s.fuseCopy := by rw [State.post_frame]
@[simp] theorem State.post_trims (e : EvRec) : (s.post e).trims = s.trims := by rw [State.post_frame]
@[simp] theorem State.post_pad (e : EvRec) : (s.post e).pad = s.pad := by rw [State.post_frame]
@[simp] theorem State.post_padFresh (e : EvRec) : (s.post e).padFresh = s.padFresh := by rw [State.post_frame]
@[simp] theorem State.post_padDirty (e : EvRec) : (s.post e).padDirty = s.padDirty := by rw [State.post_frame]
@[simp] theorem State.post_bad (e : EvRec) : (s.post e).bad = s.bad := by rw [State.post_frame]
@[simp] theorem State.post_banks (e : EvRec) : (s.post e).banks = s.banks := by rw [State.post_frame]
@[simp] theorem State.post_lanes (e : EvRec) : (s.post e).lanes = s.lanes := by rw [State.post_frame]
@[simp] theorem State.post_laneTags (e : EvRec) : (s.post e).laneTags = s.laneTags := by rw [State.post_frame]
@[simp] theorem State.post_tabQueue (e : EvRec) : (s.post e).tabQueue = s.tabQueue := by rw [State.post_frame]
@[simp] theorem State.post_tabPassed (e : EvRec) : (s.post e).tabPassed = s.tabPassed := by rw [State.post_frame]
@[simp] theorem State.post_queues (e : EvRec) : (s.post e).queues = s.queues := by rw [State.post_frame]
@[simp] theorem State.post_nextLn (e : EvRec) : (s.post e).nextLn = s.nextLn := by rw [State.post_frame]
@[simp] theorem State.post_nextDec (e : EvRec) : (s.post e).nextDec = s.nextDec := by rw [State.post_frame]
@[simp] theorem State.post_nextOp (e : EvRec) : (s.post e).nextOp = s.nextOp := by rw [State.post_frame]
@[simp] theorem State.post_flights (e : EvRec) : (s.post e).flights = s.flights := by rw [State.post_frame]
@[simp] theorem State.post_placed (e : EvRec) : (s.post e).placed = s.placed := by rw [State.post_frame]
@[simp] theorem State.post_repackQ (e : EvRec) : (s.post e).repackQ = s.repackQ := by rw [State.post_frame]
@[simp] theorem State.post_repack (e : EvRec) : (s.post e).repack = s.repack := by rw [State.post_frame]
@[simp] theorem State.post_maskJobs (e : EvRec) : (s.post e).maskJobs = s.maskJobs := by rw [State.post_frame]
@[simp] theorem State.post_masks (e : EvRec) : (s.post e).masks = s.masks := by rw [State.post_frame]
@[simp] theorem State.post_reqs (e : EvRec) : (s.post e).reqs = s.reqs := by rw [State.post_frame]
@[simp] theorem State.post_shadows (e : EvRec) : (s.post e).shadows = s.shadows := by rw [State.post_frame]
@[simp] theorem State.post_rets (e : EvRec) : (s.post e).rets = s.rets := by rw [State.post_frame]
@[simp] theorem State.post_stops (e : EvRec) : (s.post e).stops = s.stops := by rw [State.post_frame]
@[simp] theorem State.post_yBlocks (e : EvRec) : (s.post e).yBlocks = s.yBlocks := by rw [State.post_frame]
@[simp] theorem State.post_yLooks (e : EvRec) : (s.post e).yLooks = s.yLooks := by rw [State.post_frame]
@[simp] theorem State.post_gotten (e : EvRec) : (s.post e).gotten = s.gotten := by rw [State.post_frame]
@[simp] theorem State.post_arb (e : EvRec) : (s.post e).arb = s.arb := by rw [State.post_frame]
@[simp] theorem State.post_sync (e : EvRec) : (s.post e).sync = s.sync := by rw [State.post_frame]
@[simp] theorem State.post_power (e : EvRec) : (s.post e).power = s.power := by rw [State.post_frame]
@[simp] theorem State.post_far (e : EvRec) : (s.post e).far = s.far := by rw [State.post_frame]
@[simp] theorem State.post_test (e : EvRec) : (s.post e).test = s.test := by rw [State.post_frame]
@[simp] theorem State.post_sorrel (e : EvRec) : (s.post e).sorrel = s.sorrel := by rw [State.post_frame]
@[simp] theorem State.post_scrub (e : EvRec) : (s.post e).scrub = s.scrub := by rw [State.post_frame]
@[simp] theorem State.post_quiesced (e : EvRec) : (s.post e).quiesced = s.quiesced := by rw [State.post_frame]

/-- `coalesce` changes nothing but `regs`, `ev`. -/
theorem State.coalesce_frame (k : CoalKey) (e : EvRec) :
    s.coalesce k e = { s with regs := (s.coalesce k e).regs, ev := (s.coalesce k e).ev } := by
  unfold State.coalesce
  dsimp only
  split <;> rfl

@[simp] theorem State.coalesce_pending (k : CoalKey) (e : EvRec) : (s.coalesce k e).pending = s.pending := by rw [State.coalesce_frame]
@[simp] theorem State.coalesce_freeCtr (k : CoalKey) (e : EvRec) : (s.coalesce k e).freeCtr = s.freeCtr := by rw [State.coalesce_frame]
@[simp] theorem State.coalesce_resp (k : CoalKey) (e : EvRec) : (s.coalesce k e).resp = s.resp := by rw [State.coalesce_frame]
@[simp] theorem State.coalesce_respHdr (k : CoalKey) (e : EvRec) : (s.coalesce k e).respHdr = s.respHdr := by rw [State.coalesce_frame]
@[simp] theorem State.coalesce_mem (k : CoalKey) (e : EvRec) : (s.coalesce k e).mem = s.mem := by rw [State.coalesce_frame]
@[simp] theorem State.coalesce_memMark (k : CoalKey) (e : EvRec) : (s.coalesce k e).memMark = s.memMark := by rw [State.coalesce_frame]
@[simp] theorem State.coalesce_fuses (k : CoalKey) (e : EvRec) : (s.coalesce k e).fuses = s.fuses := by rw [State.coalesce_frame]
@[simp] theorem State.coalesce_fuseCopy (k : CoalKey) (e : EvRec) : (s.coalesce k e).fuseCopy = s.fuseCopy := by rw [State.coalesce_frame]
@[simp] theorem State.coalesce_trims (k : CoalKey) (e : EvRec) : (s.coalesce k e).trims = s.trims := by rw [State.coalesce_frame]
@[simp] theorem State.coalesce_pad (k : CoalKey) (e : EvRec) : (s.coalesce k e).pad = s.pad := by rw [State.coalesce_frame]
@[simp] theorem State.coalesce_padFresh (k : CoalKey) (e : EvRec) : (s.coalesce k e).padFresh = s.padFresh := by rw [State.coalesce_frame]
@[simp] theorem State.coalesce_padDirty (k : CoalKey) (e : EvRec) : (s.coalesce k e).padDirty = s.padDirty := by rw [State.coalesce_frame]
@[simp] theorem State.coalesce_bad (k : CoalKey) (e : EvRec) : (s.coalesce k e).bad = s.bad := by rw [State.coalesce_frame]
@[simp] theorem State.coalesce_banks (k : CoalKey) (e : EvRec) : (s.coalesce k e).banks = s.banks := by rw [State.coalesce_frame]
@[simp] theorem State.coalesce_lanes (k : CoalKey) (e : EvRec) : (s.coalesce k e).lanes = s.lanes := by rw [State.coalesce_frame]
@[simp] theorem State.coalesce_laneTags (k : CoalKey) (e : EvRec) : (s.coalesce k e).laneTags = s.laneTags := by rw [State.coalesce_frame]
@[simp] theorem State.coalesce_tabQueue (k : CoalKey) (e : EvRec) : (s.coalesce k e).tabQueue = s.tabQueue := by rw [State.coalesce_frame]
@[simp] theorem State.coalesce_tabPassed (k : CoalKey) (e : EvRec) : (s.coalesce k e).tabPassed = s.tabPassed := by rw [State.coalesce_frame]
@[simp] theorem State.coalesce_queues (k : CoalKey) (e : EvRec) : (s.coalesce k e).queues = s.queues := by rw [State.coalesce_frame]
@[simp] theorem State.coalesce_nextLn (k : CoalKey) (e : EvRec) : (s.coalesce k e).nextLn = s.nextLn := by rw [State.coalesce_frame]
@[simp] theorem State.coalesce_nextDec (k : CoalKey) (e : EvRec) : (s.coalesce k e).nextDec = s.nextDec := by rw [State.coalesce_frame]
@[simp] theorem State.coalesce_nextOp (k : CoalKey) (e : EvRec) : (s.coalesce k e).nextOp = s.nextOp := by rw [State.coalesce_frame]
@[simp] theorem State.coalesce_flights (k : CoalKey) (e : EvRec) : (s.coalesce k e).flights = s.flights := by rw [State.coalesce_frame]
@[simp] theorem State.coalesce_placed (k : CoalKey) (e : EvRec) : (s.coalesce k e).placed = s.placed := by rw [State.coalesce_frame]
@[simp] theorem State.coalesce_repackQ (k : CoalKey) (e : EvRec) : (s.coalesce k e).repackQ = s.repackQ := by rw [State.coalesce_frame]
@[simp] theorem State.coalesce_repack (k : CoalKey) (e : EvRec) : (s.coalesce k e).repack = s.repack := by rw [State.coalesce_frame]
@[simp] theorem State.coalesce_maskJobs (k : CoalKey) (e : EvRec) : (s.coalesce k e).maskJobs = s.maskJobs := by rw [State.coalesce_frame]
@[simp] theorem State.coalesce_masks (k : CoalKey) (e : EvRec) : (s.coalesce k e).masks = s.masks := by rw [State.coalesce_frame]
@[simp] theorem State.coalesce_reqs (k : CoalKey) (e : EvRec) : (s.coalesce k e).reqs = s.reqs := by rw [State.coalesce_frame]
@[simp] theorem State.coalesce_shadows (k : CoalKey) (e : EvRec) : (s.coalesce k e).shadows = s.shadows := by rw [State.coalesce_frame]
@[simp] theorem State.coalesce_rets (k : CoalKey) (e : EvRec) : (s.coalesce k e).rets = s.rets := by rw [State.coalesce_frame]
@[simp] theorem State.coalesce_stops (k : CoalKey) (e : EvRec) : (s.coalesce k e).stops = s.stops := by rw [State.coalesce_frame]
@[simp] theorem State.coalesce_yBlocks (k : CoalKey) (e : EvRec) : (s.coalesce k e).yBlocks = s.yBlocks := by rw [State.coalesce_frame]
@[simp] theorem State.coalesce_yLooks (k : CoalKey) (e : EvRec) : (s.coalesce k e).yLooks = s.yLooks := by rw [State.coalesce_frame]
@[simp] theorem State.coalesce_out (k : CoalKey) (e : EvRec) : (s.coalesce k e).out = s.out := by rw [State.coalesce_frame]
@[simp] theorem State.coalesce_gotten (k : CoalKey) (e : EvRec) : (s.coalesce k e).gotten = s.gotten := by rw [State.coalesce_frame]
@[simp] theorem State.coalesce_link (k : CoalKey) (e : EvRec) : (s.coalesce k e).link = s.link := by rw [State.coalesce_frame]
@[simp] theorem State.coalesce_arb (k : CoalKey) (e : EvRec) : (s.coalesce k e).arb = s.arb := by rw [State.coalesce_frame]
@[simp] theorem State.coalesce_sync (k : CoalKey) (e : EvRec) : (s.coalesce k e).sync = s.sync := by rw [State.coalesce_frame]
@[simp] theorem State.coalesce_power (k : CoalKey) (e : EvRec) : (s.coalesce k e).power = s.power := by rw [State.coalesce_frame]
@[simp] theorem State.coalesce_far (k : CoalKey) (e : EvRec) : (s.coalesce k e).far = s.far := by rw [State.coalesce_frame]
@[simp] theorem State.coalesce_test (k : CoalKey) (e : EvRec) : (s.coalesce k e).test = s.test := by rw [State.coalesce_frame]
@[simp] theorem State.coalesce_sorrel (k : CoalKey) (e : EvRec) : (s.coalesce k e).sorrel = s.sorrel := by rw [State.coalesce_frame]
@[simp] theorem State.coalesce_scrub (k : CoalKey) (e : EvRec) : (s.coalesce k e).scrub = s.scrub := by rw [State.coalesce_frame]
@[simp] theorem State.coalesce_quiesced (k : CoalKey) (e : EvRec) : (s.coalesce k e).quiesced = s.quiesced := by rw [State.coalesce_frame]

/-- `closeWindow` changes nothing but `regs`, `ev`, `mem`, `link`, `out`. -/
theorem State.closeWindow_frame (k : CoalKey) :
    s.closeWindow k = { s with regs := (s.closeWindow k).regs, ev := (s.closeWindow k).ev, mem := (s.closeWindow k).mem, link := (s.closeWindow k).link, out := (s.closeWindow k).out } := by
  unfold State.closeWindow
  split
  · rfl
  · dsimp only
    rw [State.issueEvent_frame]

@[simp] theorem State.closeWindow_pending (k : CoalKey) : (s.closeWindow k).pending = s.pending := by rw [State.closeWindow_frame]
@[simp] theorem State.closeWindow_freeCtr (k : CoalKey) : (s.closeWindow k).freeCtr = s.freeCtr := by rw [State.closeWindow_frame]
@[simp] theorem State.closeWindow_resp (k : CoalKey) : (s.closeWindow k).resp = s.resp := by rw [State.closeWindow_frame]
@[simp] theorem State.closeWindow_respHdr (k : CoalKey) : (s.closeWindow k).respHdr = s.respHdr := by rw [State.closeWindow_frame]
@[simp] theorem State.closeWindow_memMark (k : CoalKey) : (s.closeWindow k).memMark = s.memMark := by rw [State.closeWindow_frame]
@[simp] theorem State.closeWindow_fuses (k : CoalKey) : (s.closeWindow k).fuses = s.fuses := by rw [State.closeWindow_frame]
@[simp] theorem State.closeWindow_fuseCopy (k : CoalKey) : (s.closeWindow k).fuseCopy = s.fuseCopy := by rw [State.closeWindow_frame]
@[simp] theorem State.closeWindow_trims (k : CoalKey) : (s.closeWindow k).trims = s.trims := by rw [State.closeWindow_frame]
@[simp] theorem State.closeWindow_pad (k : CoalKey) : (s.closeWindow k).pad = s.pad := by rw [State.closeWindow_frame]
@[simp] theorem State.closeWindow_padFresh (k : CoalKey) : (s.closeWindow k).padFresh = s.padFresh := by rw [State.closeWindow_frame]
@[simp] theorem State.closeWindow_padDirty (k : CoalKey) : (s.closeWindow k).padDirty = s.padDirty := by rw [State.closeWindow_frame]
@[simp] theorem State.closeWindow_bad (k : CoalKey) : (s.closeWindow k).bad = s.bad := by rw [State.closeWindow_frame]
@[simp] theorem State.closeWindow_banks (k : CoalKey) : (s.closeWindow k).banks = s.banks := by rw [State.closeWindow_frame]
@[simp] theorem State.closeWindow_lanes (k : CoalKey) : (s.closeWindow k).lanes = s.lanes := by rw [State.closeWindow_frame]
@[simp] theorem State.closeWindow_laneTags (k : CoalKey) : (s.closeWindow k).laneTags = s.laneTags := by rw [State.closeWindow_frame]
@[simp] theorem State.closeWindow_tabQueue (k : CoalKey) : (s.closeWindow k).tabQueue = s.tabQueue := by rw [State.closeWindow_frame]
@[simp] theorem State.closeWindow_tabPassed (k : CoalKey) : (s.closeWindow k).tabPassed = s.tabPassed := by rw [State.closeWindow_frame]
@[simp] theorem State.closeWindow_queues (k : CoalKey) : (s.closeWindow k).queues = s.queues := by rw [State.closeWindow_frame]
@[simp] theorem State.closeWindow_nextLn (k : CoalKey) : (s.closeWindow k).nextLn = s.nextLn := by rw [State.closeWindow_frame]
@[simp] theorem State.closeWindow_nextDec (k : CoalKey) : (s.closeWindow k).nextDec = s.nextDec := by rw [State.closeWindow_frame]
@[simp] theorem State.closeWindow_nextOp (k : CoalKey) : (s.closeWindow k).nextOp = s.nextOp := by rw [State.closeWindow_frame]
@[simp] theorem State.closeWindow_flights (k : CoalKey) : (s.closeWindow k).flights = s.flights := by rw [State.closeWindow_frame]
@[simp] theorem State.closeWindow_placed (k : CoalKey) : (s.closeWindow k).placed = s.placed := by rw [State.closeWindow_frame]
@[simp] theorem State.closeWindow_repackQ (k : CoalKey) : (s.closeWindow k).repackQ = s.repackQ := by rw [State.closeWindow_frame]
@[simp] theorem State.closeWindow_repack (k : CoalKey) : (s.closeWindow k).repack = s.repack := by rw [State.closeWindow_frame]
@[simp] theorem State.closeWindow_maskJobs (k : CoalKey) : (s.closeWindow k).maskJobs = s.maskJobs := by rw [State.closeWindow_frame]
@[simp] theorem State.closeWindow_masks (k : CoalKey) : (s.closeWindow k).masks = s.masks := by rw [State.closeWindow_frame]
@[simp] theorem State.closeWindow_reqs (k : CoalKey) : (s.closeWindow k).reqs = s.reqs := by rw [State.closeWindow_frame]
@[simp] theorem State.closeWindow_shadows (k : CoalKey) : (s.closeWindow k).shadows = s.shadows := by rw [State.closeWindow_frame]
@[simp] theorem State.closeWindow_rets (k : CoalKey) : (s.closeWindow k).rets = s.rets := by rw [State.closeWindow_frame]
@[simp] theorem State.closeWindow_stops (k : CoalKey) : (s.closeWindow k).stops = s.stops := by rw [State.closeWindow_frame]
@[simp] theorem State.closeWindow_yBlocks (k : CoalKey) : (s.closeWindow k).yBlocks = s.yBlocks := by rw [State.closeWindow_frame]
@[simp] theorem State.closeWindow_yLooks (k : CoalKey) : (s.closeWindow k).yLooks = s.yLooks := by rw [State.closeWindow_frame]
@[simp] theorem State.closeWindow_gotten (k : CoalKey) : (s.closeWindow k).gotten = s.gotten := by rw [State.closeWindow_frame]
@[simp] theorem State.closeWindow_arb (k : CoalKey) : (s.closeWindow k).arb = s.arb := by rw [State.closeWindow_frame]
@[simp] theorem State.closeWindow_sync (k : CoalKey) : (s.closeWindow k).sync = s.sync := by rw [State.closeWindow_frame]
@[simp] theorem State.closeWindow_power (k : CoalKey) : (s.closeWindow k).power = s.power := by rw [State.closeWindow_frame]
@[simp] theorem State.closeWindow_far (k : CoalKey) : (s.closeWindow k).far = s.far := by rw [State.closeWindow_frame]
@[simp] theorem State.closeWindow_test (k : CoalKey) : (s.closeWindow k).test = s.test := by rw [State.closeWindow_frame]
@[simp] theorem State.closeWindow_sorrel (k : CoalKey) : (s.closeWindow k).sorrel = s.sorrel := by rw [State.closeWindow_frame]
@[simp] theorem State.closeWindow_scrub (k : CoalKey) : (s.closeWindow k).scrub = s.scrub := by rw [State.closeWindow_frame]
@[simp] theorem State.closeWindow_quiesced (k : CoalKey) : (s.closeWindow k).quiesced = s.quiesced := by rw [State.closeWindow_frame]

/-- `poisonEvents` changes nothing but `regs`, `ev`. -/
theorem State.poisonEvents_frame (req sev : Nat) (gs : List (Nat × Mark)) (who : Who) (row : Nat) :
    s.poisonEvents req sev gs who row = { s with regs := (s.poisonEvents req sev gs who row).regs, ev := (s.poisonEvents req sev gs who row).ev } := by
  unfold State.poisonEvents
  induction gs generalizing s with
  | nil => rfl
  | cons g gs ih =>
    rw [List.foldl_cons, ih]
    split
    · rfl
    · rw [State.coalesce_frame]

@[simp] theorem State.poisonEvents_pending (req sev : Nat) (gs : List (Nat × Mark)) (who : Who) (row : Nat) : (s.poisonEvents req sev gs who row).pending = s.pending := by rw [State.poisonEvents_frame]
@[simp] theorem State.poisonEvents_freeCtr (req sev : Nat) (gs : List (Nat × Mark)) (who : Who) (row : Nat) : (s.poisonEvents req sev gs who row).freeCtr = s.freeCtr := by rw [State.poisonEvents_frame]
@[simp] theorem State.poisonEvents_resp (req sev : Nat) (gs : List (Nat × Mark)) (who : Who) (row : Nat) : (s.poisonEvents req sev gs who row).resp = s.resp := by rw [State.poisonEvents_frame]
@[simp] theorem State.poisonEvents_respHdr (req sev : Nat) (gs : List (Nat × Mark)) (who : Who) (row : Nat) : (s.poisonEvents req sev gs who row).respHdr = s.respHdr := by rw [State.poisonEvents_frame]
@[simp] theorem State.poisonEvents_mem (req sev : Nat) (gs : List (Nat × Mark)) (who : Who) (row : Nat) : (s.poisonEvents req sev gs who row).mem = s.mem := by rw [State.poisonEvents_frame]
@[simp] theorem State.poisonEvents_memMark (req sev : Nat) (gs : List (Nat × Mark)) (who : Who) (row : Nat) : (s.poisonEvents req sev gs who row).memMark = s.memMark := by rw [State.poisonEvents_frame]
@[simp] theorem State.poisonEvents_fuses (req sev : Nat) (gs : List (Nat × Mark)) (who : Who) (row : Nat) : (s.poisonEvents req sev gs who row).fuses = s.fuses := by rw [State.poisonEvents_frame]
@[simp] theorem State.poisonEvents_fuseCopy (req sev : Nat) (gs : List (Nat × Mark)) (who : Who) (row : Nat) : (s.poisonEvents req sev gs who row).fuseCopy = s.fuseCopy := by rw [State.poisonEvents_frame]
@[simp] theorem State.poisonEvents_trims (req sev : Nat) (gs : List (Nat × Mark)) (who : Who) (row : Nat) : (s.poisonEvents req sev gs who row).trims = s.trims := by rw [State.poisonEvents_frame]
@[simp] theorem State.poisonEvents_pad (req sev : Nat) (gs : List (Nat × Mark)) (who : Who) (row : Nat) : (s.poisonEvents req sev gs who row).pad = s.pad := by rw [State.poisonEvents_frame]
@[simp] theorem State.poisonEvents_padFresh (req sev : Nat) (gs : List (Nat × Mark)) (who : Who) (row : Nat) : (s.poisonEvents req sev gs who row).padFresh = s.padFresh := by rw [State.poisonEvents_frame]
@[simp] theorem State.poisonEvents_padDirty (req sev : Nat) (gs : List (Nat × Mark)) (who : Who) (row : Nat) : (s.poisonEvents req sev gs who row).padDirty = s.padDirty := by rw [State.poisonEvents_frame]
@[simp] theorem State.poisonEvents_bad (req sev : Nat) (gs : List (Nat × Mark)) (who : Who) (row : Nat) : (s.poisonEvents req sev gs who row).bad = s.bad := by rw [State.poisonEvents_frame]
@[simp] theorem State.poisonEvents_banks (req sev : Nat) (gs : List (Nat × Mark)) (who : Who) (row : Nat) : (s.poisonEvents req sev gs who row).banks = s.banks := by rw [State.poisonEvents_frame]
@[simp] theorem State.poisonEvents_lanes (req sev : Nat) (gs : List (Nat × Mark)) (who : Who) (row : Nat) : (s.poisonEvents req sev gs who row).lanes = s.lanes := by rw [State.poisonEvents_frame]
@[simp] theorem State.poisonEvents_laneTags (req sev : Nat) (gs : List (Nat × Mark)) (who : Who) (row : Nat) : (s.poisonEvents req sev gs who row).laneTags = s.laneTags := by rw [State.poisonEvents_frame]
@[simp] theorem State.poisonEvents_tabQueue (req sev : Nat) (gs : List (Nat × Mark)) (who : Who) (row : Nat) : (s.poisonEvents req sev gs who row).tabQueue = s.tabQueue := by rw [State.poisonEvents_frame]
@[simp] theorem State.poisonEvents_tabPassed (req sev : Nat) (gs : List (Nat × Mark)) (who : Who) (row : Nat) : (s.poisonEvents req sev gs who row).tabPassed = s.tabPassed := by rw [State.poisonEvents_frame]
@[simp] theorem State.poisonEvents_queues (req sev : Nat) (gs : List (Nat × Mark)) (who : Who) (row : Nat) : (s.poisonEvents req sev gs who row).queues = s.queues := by rw [State.poisonEvents_frame]
@[simp] theorem State.poisonEvents_nextLn (req sev : Nat) (gs : List (Nat × Mark)) (who : Who) (row : Nat) : (s.poisonEvents req sev gs who row).nextLn = s.nextLn := by rw [State.poisonEvents_frame]
@[simp] theorem State.poisonEvents_nextDec (req sev : Nat) (gs : List (Nat × Mark)) (who : Who) (row : Nat) : (s.poisonEvents req sev gs who row).nextDec = s.nextDec := by rw [State.poisonEvents_frame]
@[simp] theorem State.poisonEvents_nextOp (req sev : Nat) (gs : List (Nat × Mark)) (who : Who) (row : Nat) : (s.poisonEvents req sev gs who row).nextOp = s.nextOp := by rw [State.poisonEvents_frame]
@[simp] theorem State.poisonEvents_flights (req sev : Nat) (gs : List (Nat × Mark)) (who : Who) (row : Nat) : (s.poisonEvents req sev gs who row).flights = s.flights := by rw [State.poisonEvents_frame]
@[simp] theorem State.poisonEvents_placed (req sev : Nat) (gs : List (Nat × Mark)) (who : Who) (row : Nat) : (s.poisonEvents req sev gs who row).placed = s.placed := by rw [State.poisonEvents_frame]
@[simp] theorem State.poisonEvents_repackQ (req sev : Nat) (gs : List (Nat × Mark)) (who : Who) (row : Nat) : (s.poisonEvents req sev gs who row).repackQ = s.repackQ := by rw [State.poisonEvents_frame]
@[simp] theorem State.poisonEvents_repack (req sev : Nat) (gs : List (Nat × Mark)) (who : Who) (row : Nat) : (s.poisonEvents req sev gs who row).repack = s.repack := by rw [State.poisonEvents_frame]
@[simp] theorem State.poisonEvents_maskJobs (req sev : Nat) (gs : List (Nat × Mark)) (who : Who) (row : Nat) : (s.poisonEvents req sev gs who row).maskJobs = s.maskJobs := by rw [State.poisonEvents_frame]
@[simp] theorem State.poisonEvents_masks (req sev : Nat) (gs : List (Nat × Mark)) (who : Who) (row : Nat) : (s.poisonEvents req sev gs who row).masks = s.masks := by rw [State.poisonEvents_frame]
@[simp] theorem State.poisonEvents_reqs (req sev : Nat) (gs : List (Nat × Mark)) (who : Who) (row : Nat) : (s.poisonEvents req sev gs who row).reqs = s.reqs := by rw [State.poisonEvents_frame]
@[simp] theorem State.poisonEvents_shadows (req sev : Nat) (gs : List (Nat × Mark)) (who : Who) (row : Nat) : (s.poisonEvents req sev gs who row).shadows = s.shadows := by rw [State.poisonEvents_frame]
@[simp] theorem State.poisonEvents_rets (req sev : Nat) (gs : List (Nat × Mark)) (who : Who) (row : Nat) : (s.poisonEvents req sev gs who row).rets = s.rets := by rw [State.poisonEvents_frame]
@[simp] theorem State.poisonEvents_stops (req sev : Nat) (gs : List (Nat × Mark)) (who : Who) (row : Nat) : (s.poisonEvents req sev gs who row).stops = s.stops := by rw [State.poisonEvents_frame]
@[simp] theorem State.poisonEvents_yBlocks (req sev : Nat) (gs : List (Nat × Mark)) (who : Who) (row : Nat) : (s.poisonEvents req sev gs who row).yBlocks = s.yBlocks := by rw [State.poisonEvents_frame]
@[simp] theorem State.poisonEvents_yLooks (req sev : Nat) (gs : List (Nat × Mark)) (who : Who) (row : Nat) : (s.poisonEvents req sev gs who row).yLooks = s.yLooks := by rw [State.poisonEvents_frame]
@[simp] theorem State.poisonEvents_out (req sev : Nat) (gs : List (Nat × Mark)) (who : Who) (row : Nat) : (s.poisonEvents req sev gs who row).out = s.out := by rw [State.poisonEvents_frame]
@[simp] theorem State.poisonEvents_gotten (req sev : Nat) (gs : List (Nat × Mark)) (who : Who) (row : Nat) : (s.poisonEvents req sev gs who row).gotten = s.gotten := by rw [State.poisonEvents_frame]
@[simp] theorem State.poisonEvents_link (req sev : Nat) (gs : List (Nat × Mark)) (who : Who) (row : Nat) : (s.poisonEvents req sev gs who row).link = s.link := by rw [State.poisonEvents_frame]
@[simp] theorem State.poisonEvents_arb (req sev : Nat) (gs : List (Nat × Mark)) (who : Who) (row : Nat) : (s.poisonEvents req sev gs who row).arb = s.arb := by rw [State.poisonEvents_frame]
@[simp] theorem State.poisonEvents_sync (req sev : Nat) (gs : List (Nat × Mark)) (who : Who) (row : Nat) : (s.poisonEvents req sev gs who row).sync = s.sync := by rw [State.poisonEvents_frame]
@[simp] theorem State.poisonEvents_power (req sev : Nat) (gs : List (Nat × Mark)) (who : Who) (row : Nat) : (s.poisonEvents req sev gs who row).power = s.power := by rw [State.poisonEvents_frame]
@[simp] theorem State.poisonEvents_far (req sev : Nat) (gs : List (Nat × Mark)) (who : Who) (row : Nat) : (s.poisonEvents req sev gs who row).far = s.far := by rw [State.poisonEvents_frame]
@[simp] theorem State.poisonEvents_test (req sev : Nat) (gs : List (Nat × Mark)) (who : Who) (row : Nat) : (s.poisonEvents req sev gs who row).test = s.test := by rw [State.poisonEvents_frame]
@[simp] theorem State.poisonEvents_sorrel (req sev : Nat) (gs : List (Nat × Mark)) (who : Who) (row : Nat) : (s.poisonEvents req sev gs who row).sorrel = s.sorrel := by rw [State.poisonEvents_frame]
@[simp] theorem State.poisonEvents_scrub (req sev : Nat) (gs : List (Nat × Mark)) (who : Who) (row : Nat) : (s.poisonEvents req sev gs who row).scrub = s.scrub := by rw [State.poisonEvents_frame]
@[simp] theorem State.poisonEvents_quiesced (req sev : Nat) (gs : List (Nat × Mark)) (who : Who) (row : Nat) : (s.poisonEvents req sev gs who row).quiesced = s.quiesced := by rw [State.poisonEvents_frame]

/-- `raise` changes nothing but `regs`, `ev`, `far`. -/
theorem State.raise_frame (x : Exc) (e : EvRec) :
    s.raise x e = { s with regs := (s.raise x e).regs, ev := (s.raise x e).ev, far := (s.raise x e).far } := by
  unfold State.raise
  dsimp only
  split
  · rw [State.coalesce_frame]
    rfl
  · rfl

@[simp] theorem State.raise_pending (x : Exc) (e : EvRec) : (s.raise x e).pending = s.pending := by rw [State.raise_frame]
@[simp] theorem State.raise_freeCtr (x : Exc) (e : EvRec) : (s.raise x e).freeCtr = s.freeCtr := by rw [State.raise_frame]
@[simp] theorem State.raise_resp (x : Exc) (e : EvRec) : (s.raise x e).resp = s.resp := by rw [State.raise_frame]
@[simp] theorem State.raise_respHdr (x : Exc) (e : EvRec) : (s.raise x e).respHdr = s.respHdr := by rw [State.raise_frame]
@[simp] theorem State.raise_mem (x : Exc) (e : EvRec) : (s.raise x e).mem = s.mem := by rw [State.raise_frame]
@[simp] theorem State.raise_memMark (x : Exc) (e : EvRec) : (s.raise x e).memMark = s.memMark := by rw [State.raise_frame]
@[simp] theorem State.raise_fuses (x : Exc) (e : EvRec) : (s.raise x e).fuses = s.fuses := by rw [State.raise_frame]
@[simp] theorem State.raise_fuseCopy (x : Exc) (e : EvRec) : (s.raise x e).fuseCopy = s.fuseCopy := by rw [State.raise_frame]
@[simp] theorem State.raise_trims (x : Exc) (e : EvRec) : (s.raise x e).trims = s.trims := by rw [State.raise_frame]
@[simp] theorem State.raise_pad (x : Exc) (e : EvRec) : (s.raise x e).pad = s.pad := by rw [State.raise_frame]
@[simp] theorem State.raise_padFresh (x : Exc) (e : EvRec) : (s.raise x e).padFresh = s.padFresh := by rw [State.raise_frame]
@[simp] theorem State.raise_padDirty (x : Exc) (e : EvRec) : (s.raise x e).padDirty = s.padDirty := by rw [State.raise_frame]
@[simp] theorem State.raise_bad (x : Exc) (e : EvRec) : (s.raise x e).bad = s.bad := by rw [State.raise_frame]
@[simp] theorem State.raise_banks (x : Exc) (e : EvRec) : (s.raise x e).banks = s.banks := by rw [State.raise_frame]
@[simp] theorem State.raise_lanes (x : Exc) (e : EvRec) : (s.raise x e).lanes = s.lanes := by rw [State.raise_frame]
@[simp] theorem State.raise_laneTags (x : Exc) (e : EvRec) : (s.raise x e).laneTags = s.laneTags := by rw [State.raise_frame]
@[simp] theorem State.raise_tabQueue (x : Exc) (e : EvRec) : (s.raise x e).tabQueue = s.tabQueue := by rw [State.raise_frame]
@[simp] theorem State.raise_tabPassed (x : Exc) (e : EvRec) : (s.raise x e).tabPassed = s.tabPassed := by rw [State.raise_frame]
@[simp] theorem State.raise_queues (x : Exc) (e : EvRec) : (s.raise x e).queues = s.queues := by rw [State.raise_frame]
@[simp] theorem State.raise_nextLn (x : Exc) (e : EvRec) : (s.raise x e).nextLn = s.nextLn := by rw [State.raise_frame]
@[simp] theorem State.raise_nextDec (x : Exc) (e : EvRec) : (s.raise x e).nextDec = s.nextDec := by rw [State.raise_frame]
@[simp] theorem State.raise_nextOp (x : Exc) (e : EvRec) : (s.raise x e).nextOp = s.nextOp := by rw [State.raise_frame]
@[simp] theorem State.raise_flights (x : Exc) (e : EvRec) : (s.raise x e).flights = s.flights := by rw [State.raise_frame]
@[simp] theorem State.raise_placed (x : Exc) (e : EvRec) : (s.raise x e).placed = s.placed := by rw [State.raise_frame]
@[simp] theorem State.raise_repackQ (x : Exc) (e : EvRec) : (s.raise x e).repackQ = s.repackQ := by rw [State.raise_frame]
@[simp] theorem State.raise_repack (x : Exc) (e : EvRec) : (s.raise x e).repack = s.repack := by rw [State.raise_frame]
@[simp] theorem State.raise_maskJobs (x : Exc) (e : EvRec) : (s.raise x e).maskJobs = s.maskJobs := by rw [State.raise_frame]
@[simp] theorem State.raise_masks (x : Exc) (e : EvRec) : (s.raise x e).masks = s.masks := by rw [State.raise_frame]
@[simp] theorem State.raise_reqs (x : Exc) (e : EvRec) : (s.raise x e).reqs = s.reqs := by rw [State.raise_frame]
@[simp] theorem State.raise_shadows (x : Exc) (e : EvRec) : (s.raise x e).shadows = s.shadows := by rw [State.raise_frame]
@[simp] theorem State.raise_rets (x : Exc) (e : EvRec) : (s.raise x e).rets = s.rets := by rw [State.raise_frame]
@[simp] theorem State.raise_stops (x : Exc) (e : EvRec) : (s.raise x e).stops = s.stops := by rw [State.raise_frame]
@[simp] theorem State.raise_yBlocks (x : Exc) (e : EvRec) : (s.raise x e).yBlocks = s.yBlocks := by rw [State.raise_frame]
@[simp] theorem State.raise_yLooks (x : Exc) (e : EvRec) : (s.raise x e).yLooks = s.yLooks := by rw [State.raise_frame]
@[simp] theorem State.raise_out (x : Exc) (e : EvRec) : (s.raise x e).out = s.out := by rw [State.raise_frame]
@[simp] theorem State.raise_gotten (x : Exc) (e : EvRec) : (s.raise x e).gotten = s.gotten := by rw [State.raise_frame]
@[simp] theorem State.raise_link (x : Exc) (e : EvRec) : (s.raise x e).link = s.link := by rw [State.raise_frame]
@[simp] theorem State.raise_arb (x : Exc) (e : EvRec) : (s.raise x e).arb = s.arb := by rw [State.raise_frame]
@[simp] theorem State.raise_sync (x : Exc) (e : EvRec) : (s.raise x e).sync = s.sync := by rw [State.raise_frame]
@[simp] theorem State.raise_power (x : Exc) (e : EvRec) : (s.raise x e).power = s.power := by rw [State.raise_frame]
@[simp] theorem State.raise_test (x : Exc) (e : EvRec) : (s.raise x e).test = s.test := by rw [State.raise_frame]
@[simp] theorem State.raise_sorrel (x : Exc) (e : EvRec) : (s.raise x e).sorrel = s.sorrel := by rw [State.raise_frame]
@[simp] theorem State.raise_scrub (x : Exc) (e : EvRec) : (s.raise x e).scrub = s.scrub := by rw [State.raise_frame]
@[simp] theorem State.raise_quiesced (x : Exc) (e : EvRec) : (s.raise x e).quiesced = s.quiesced := by rw [State.raise_frame]

/-- `refresh` changes nothing but `regs`. -/
theorem State.refresh_frame (q : Nat) :
    s.refresh q = { s with regs := (s.refresh q).regs } := by
  unfold State.refresh
  split <;> rfl

@[simp] theorem State.refresh_pending (q : Nat) : (s.refresh q).pending = s.pending := by rw [State.refresh_frame]
@[simp] theorem State.refresh_freeCtr (q : Nat) : (s.refresh q).freeCtr = s.freeCtr := by rw [State.refresh_frame]
@[simp] theorem State.refresh_resp (q : Nat) : (s.refresh q).resp = s.resp := by rw [State.refresh_frame]
@[simp] theorem State.refresh_respHdr (q : Nat) : (s.refresh q).respHdr = s.respHdr := by rw [State.refresh_frame]
@[simp] theorem State.refresh_mem (q : Nat) : (s.refresh q).mem = s.mem := by rw [State.refresh_frame]
@[simp] theorem State.refresh_memMark (q : Nat) : (s.refresh q).memMark = s.memMark := by rw [State.refresh_frame]
@[simp] theorem State.refresh_fuses (q : Nat) : (s.refresh q).fuses = s.fuses := by rw [State.refresh_frame]
@[simp] theorem State.refresh_fuseCopy (q : Nat) : (s.refresh q).fuseCopy = s.fuseCopy := by rw [State.refresh_frame]
@[simp] theorem State.refresh_trims (q : Nat) : (s.refresh q).trims = s.trims := by rw [State.refresh_frame]
@[simp] theorem State.refresh_pad (q : Nat) : (s.refresh q).pad = s.pad := by rw [State.refresh_frame]
@[simp] theorem State.refresh_padFresh (q : Nat) : (s.refresh q).padFresh = s.padFresh := by rw [State.refresh_frame]
@[simp] theorem State.refresh_padDirty (q : Nat) : (s.refresh q).padDirty = s.padDirty := by rw [State.refresh_frame]
@[simp] theorem State.refresh_bad (q : Nat) : (s.refresh q).bad = s.bad := by rw [State.refresh_frame]
@[simp] theorem State.refresh_banks (q : Nat) : (s.refresh q).banks = s.banks := by rw [State.refresh_frame]
@[simp] theorem State.refresh_lanes (q : Nat) : (s.refresh q).lanes = s.lanes := by rw [State.refresh_frame]
@[simp] theorem State.refresh_laneTags (q : Nat) : (s.refresh q).laneTags = s.laneTags := by rw [State.refresh_frame]
@[simp] theorem State.refresh_tabQueue (q : Nat) : (s.refresh q).tabQueue = s.tabQueue := by rw [State.refresh_frame]
@[simp] theorem State.refresh_tabPassed (q : Nat) : (s.refresh q).tabPassed = s.tabPassed := by rw [State.refresh_frame]
@[simp] theorem State.refresh_queues (q : Nat) : (s.refresh q).queues = s.queues := by rw [State.refresh_frame]
@[simp] theorem State.refresh_nextLn (q : Nat) : (s.refresh q).nextLn = s.nextLn := by rw [State.refresh_frame]
@[simp] theorem State.refresh_nextDec (q : Nat) : (s.refresh q).nextDec = s.nextDec := by rw [State.refresh_frame]
@[simp] theorem State.refresh_nextOp (q : Nat) : (s.refresh q).nextOp = s.nextOp := by rw [State.refresh_frame]
@[simp] theorem State.refresh_flights (q : Nat) : (s.refresh q).flights = s.flights := by rw [State.refresh_frame]
@[simp] theorem State.refresh_placed (q : Nat) : (s.refresh q).placed = s.placed := by rw [State.refresh_frame]
@[simp] theorem State.refresh_repackQ (q : Nat) : (s.refresh q).repackQ = s.repackQ := by rw [State.refresh_frame]
@[simp] theorem State.refresh_repack (q : Nat) : (s.refresh q).repack = s.repack := by rw [State.refresh_frame]
@[simp] theorem State.refresh_maskJobs (q : Nat) : (s.refresh q).maskJobs = s.maskJobs := by rw [State.refresh_frame]
@[simp] theorem State.refresh_masks (q : Nat) : (s.refresh q).masks = s.masks := by rw [State.refresh_frame]
@[simp] theorem State.refresh_reqs (q : Nat) : (s.refresh q).reqs = s.reqs := by rw [State.refresh_frame]
@[simp] theorem State.refresh_shadows (q : Nat) : (s.refresh q).shadows = s.shadows := by rw [State.refresh_frame]
@[simp] theorem State.refresh_rets (q : Nat) : (s.refresh q).rets = s.rets := by rw [State.refresh_frame]
@[simp] theorem State.refresh_stops (q : Nat) : (s.refresh q).stops = s.stops := by rw [State.refresh_frame]
@[simp] theorem State.refresh_yBlocks (q : Nat) : (s.refresh q).yBlocks = s.yBlocks := by rw [State.refresh_frame]
@[simp] theorem State.refresh_yLooks (q : Nat) : (s.refresh q).yLooks = s.yLooks := by rw [State.refresh_frame]
@[simp] theorem State.refresh_out (q : Nat) : (s.refresh q).out = s.out := by rw [State.refresh_frame]
@[simp] theorem State.refresh_gotten (q : Nat) : (s.refresh q).gotten = s.gotten := by rw [State.refresh_frame]
@[simp] theorem State.refresh_link (q : Nat) : (s.refresh q).link = s.link := by rw [State.refresh_frame]
@[simp] theorem State.refresh_arb (q : Nat) : (s.refresh q).arb = s.arb := by rw [State.refresh_frame]
@[simp] theorem State.refresh_sync (q : Nat) : (s.refresh q).sync = s.sync := by rw [State.refresh_frame]
@[simp] theorem State.refresh_power (q : Nat) : (s.refresh q).power = s.power := by rw [State.refresh_frame]
@[simp] theorem State.refresh_ev (q : Nat) : (s.refresh q).ev = s.ev := by rw [State.refresh_frame]
@[simp] theorem State.refresh_far (q : Nat) : (s.refresh q).far = s.far := by rw [State.refresh_frame]
@[simp] theorem State.refresh_test (q : Nat) : (s.refresh q).test = s.test := by rw [State.refresh_frame]
@[simp] theorem State.refresh_sorrel (q : Nat) : (s.refresh q).sorrel = s.sorrel := by rw [State.refresh_frame]
@[simp] theorem State.refresh_scrub (q : Nat) : (s.refresh q).scrub = s.scrub := by rw [State.refresh_frame]
@[simp] theorem State.refresh_quiesced (q : Nat) : (s.refresh q).quiesced = s.quiesced := by rw [State.refresh_frame]

/-- `haltAt` changes nothing but `regs`, `queues`, `repackQ`. -/
theorem State.haltAt_frame (q code order : Nat) :
    s.haltAt q code order = { s with regs := (s.haltAt q code order).regs, queues := (s.haltAt q code order).queues, repackQ := (s.haltAt q code order).repackQ } := rfl

@[simp] theorem State.haltAt_pending (q code order : Nat) : (s.haltAt q code order).pending = s.pending := by rw [State.haltAt_frame]
@[simp] theorem State.haltAt_freeCtr (q code order : Nat) : (s.haltAt q code order).freeCtr = s.freeCtr := by rw [State.haltAt_frame]
@[simp] theorem State.haltAt_resp (q code order : Nat) : (s.haltAt q code order).resp = s.resp := by rw [State.haltAt_frame]
@[simp] theorem State.haltAt_respHdr (q code order : Nat) : (s.haltAt q code order).respHdr = s.respHdr := by rw [State.haltAt_frame]
@[simp] theorem State.haltAt_mem (q code order : Nat) : (s.haltAt q code order).mem = s.mem := by rw [State.haltAt_frame]
@[simp] theorem State.haltAt_memMark (q code order : Nat) : (s.haltAt q code order).memMark = s.memMark := by rw [State.haltAt_frame]
@[simp] theorem State.haltAt_fuses (q code order : Nat) : (s.haltAt q code order).fuses = s.fuses := by rw [State.haltAt_frame]
@[simp] theorem State.haltAt_fuseCopy (q code order : Nat) : (s.haltAt q code order).fuseCopy = s.fuseCopy := by rw [State.haltAt_frame]
@[simp] theorem State.haltAt_trims (q code order : Nat) : (s.haltAt q code order).trims = s.trims := by rw [State.haltAt_frame]
@[simp] theorem State.haltAt_pad (q code order : Nat) : (s.haltAt q code order).pad = s.pad := by rw [State.haltAt_frame]
@[simp] theorem State.haltAt_padFresh (q code order : Nat) : (s.haltAt q code order).padFresh = s.padFresh := by rw [State.haltAt_frame]
@[simp] theorem State.haltAt_padDirty (q code order : Nat) : (s.haltAt q code order).padDirty = s.padDirty := by rw [State.haltAt_frame]
@[simp] theorem State.haltAt_bad (q code order : Nat) : (s.haltAt q code order).bad = s.bad := by rw [State.haltAt_frame]
@[simp] theorem State.haltAt_banks (q code order : Nat) : (s.haltAt q code order).banks = s.banks := by rw [State.haltAt_frame]
@[simp] theorem State.haltAt_lanes (q code order : Nat) : (s.haltAt q code order).lanes = s.lanes := by rw [State.haltAt_frame]
@[simp] theorem State.haltAt_laneTags (q code order : Nat) : (s.haltAt q code order).laneTags = s.laneTags := by rw [State.haltAt_frame]
@[simp] theorem State.haltAt_tabQueue (q code order : Nat) : (s.haltAt q code order).tabQueue = s.tabQueue := by rw [State.haltAt_frame]
@[simp] theorem State.haltAt_tabPassed (q code order : Nat) : (s.haltAt q code order).tabPassed = s.tabPassed := by rw [State.haltAt_frame]
@[simp] theorem State.haltAt_nextLn (q code order : Nat) : (s.haltAt q code order).nextLn = s.nextLn := by rw [State.haltAt_frame]
@[simp] theorem State.haltAt_nextDec (q code order : Nat) : (s.haltAt q code order).nextDec = s.nextDec := by rw [State.haltAt_frame]
@[simp] theorem State.haltAt_nextOp (q code order : Nat) : (s.haltAt q code order).nextOp = s.nextOp := by rw [State.haltAt_frame]
@[simp] theorem State.haltAt_flights (q code order : Nat) : (s.haltAt q code order).flights = s.flights := by rw [State.haltAt_frame]
@[simp] theorem State.haltAt_placed (q code order : Nat) : (s.haltAt q code order).placed = s.placed := by rw [State.haltAt_frame]
@[simp] theorem State.haltAt_repack (q code order : Nat) : (s.haltAt q code order).repack = s.repack := by rw [State.haltAt_frame]
@[simp] theorem State.haltAt_maskJobs (q code order : Nat) : (s.haltAt q code order).maskJobs = s.maskJobs := by rw [State.haltAt_frame]
@[simp] theorem State.haltAt_masks (q code order : Nat) : (s.haltAt q code order).masks = s.masks := by rw [State.haltAt_frame]
@[simp] theorem State.haltAt_reqs (q code order : Nat) : (s.haltAt q code order).reqs = s.reqs := by rw [State.haltAt_frame]
@[simp] theorem State.haltAt_shadows (q code order : Nat) : (s.haltAt q code order).shadows = s.shadows := by rw [State.haltAt_frame]
@[simp] theorem State.haltAt_rets (q code order : Nat) : (s.haltAt q code order).rets = s.rets := by rw [State.haltAt_frame]
@[simp] theorem State.haltAt_stops (q code order : Nat) : (s.haltAt q code order).stops = s.stops := by rw [State.haltAt_frame]
@[simp] theorem State.haltAt_yBlocks (q code order : Nat) : (s.haltAt q code order).yBlocks = s.yBlocks := by rw [State.haltAt_frame]
@[simp] theorem State.haltAt_yLooks (q code order : Nat) : (s.haltAt q code order).yLooks = s.yLooks := by rw [State.haltAt_frame]
@[simp] theorem State.haltAt_out (q code order : Nat) : (s.haltAt q code order).out = s.out := by rw [State.haltAt_frame]
@[simp] theorem State.haltAt_gotten (q code order : Nat) : (s.haltAt q code order).gotten = s.gotten := by rw [State.haltAt_frame]
@[simp] theorem State.haltAt_link (q code order : Nat) : (s.haltAt q code order).link = s.link := by rw [State.haltAt_frame]
@[simp] theorem State.haltAt_arb (q code order : Nat) : (s.haltAt q code order).arb = s.arb := by rw [State.haltAt_frame]
@[simp] theorem State.haltAt_sync (q code order : Nat) : (s.haltAt q code order).sync = s.sync := by rw [State.haltAt_frame]
@[simp] theorem State.haltAt_power (q code order : Nat) : (s.haltAt q code order).power = s.power := by rw [State.haltAt_frame]
@[simp] theorem State.haltAt_ev (q code order : Nat) : (s.haltAt q code order).ev = s.ev := by rw [State.haltAt_frame]
@[simp] theorem State.haltAt_far (q code order : Nat) : (s.haltAt q code order).far = s.far := by rw [State.haltAt_frame]
@[simp] theorem State.haltAt_test (q code order : Nat) : (s.haltAt q code order).test = s.test := by rw [State.haltAt_frame]
@[simp] theorem State.haltAt_sorrel (q code order : Nat) : (s.haltAt q code order).sorrel = s.sorrel := by rw [State.haltAt_frame]
@[simp] theorem State.haltAt_scrub (q code order : Nat) : (s.haltAt q code order).scrub = s.scrub := by rw [State.haltAt_frame]
@[simp] theorem State.haltAt_quiesced (q code order : Nat) : (s.haltAt q code order).quiesced = s.quiesced := by rw [State.haltAt_frame]

/-- A state that differs in some of these fields only differs in these fields only. -/
theorem State.frame_wider (s a : State) (h : a = { s with regs := a.regs, queues := a.queues, repackQ := a.repackQ }) :
    a = { s with regs := a.regs, ev := a.ev, mem := a.mem, link := a.link, out := a.out, queues := a.queues, repackQ := a.repackQ } := by
  obtain ⟨r, q, k, rfl⟩ : ∃ r q k, a = { s with regs := r, queues := q, repackQ := k } := ⟨_, _, _, h⟩
  rfl
theorem State.frame_post (s a : State) (e : EvRec) (h : a = { s with regs := a.regs, queues := a.queues, repackQ := a.repackQ }) :
    a.post e = { s with regs := (a.post e).regs, ev := (a.post e).ev, mem := (a.post e).mem, link := (a.post e).link, out := (a.post e).out, queues := (a.post e).queues, repackQ := (a.post e).repackQ } := by
  obtain ⟨r, q, k, rfl⟩ : ∃ r q k, a = { s with regs := r, queues := q, repackQ := k } := ⟨_, _, _, h⟩
  rw [State.post_frame]

/-- `halt` changes nothing but `regs`, `ev`, `mem`, `link`, `out`, `queues`, `repackQ`. -/
theorem State.halt_frame (q code order slot id : Nat) :
    s.halt q code order slot id = { s with regs := (s.halt q code order slot id).regs, ev := (s.halt q code order slot id).ev, mem := (s.halt q code order slot id).mem, link := (s.halt q code order slot id).link, out := (s.halt q code order slot id).out, queues := (s.halt q code order slot id).queues, repackQ := (s.halt q code order slot id).repackQ } := by
  unfold State.halt
  generalize (s.haltAt q code order).haltEvent q code order slot id = e
  have ha := s.haltAt_frame q code order
  revert ha
  generalize s.haltAt q code order = a
  intro ha
  split
  · exact s.frame_wider a ha
  · exact s.frame_post a e ha

@[simp] theorem State.halt_pending (q code order slot id : Nat) : (s.halt q code order slot id).pending = s.pending := by rw [State.halt_frame]
@[simp] theorem State.halt_freeCtr (q code order slot id : Nat) : (s.halt q code order slot id).freeCtr = s.freeCtr := by rw [State.halt_frame]
@[simp] theorem State.halt_resp (q code order slot id : Nat) : (s.halt q code order slot id).resp = s.resp := by rw [State.halt_frame]
@[simp] theorem State.halt_respHdr (q code order slot id : Nat) : (s.halt q code order slot id).respHdr = s.respHdr := by rw [State.halt_frame]
@[simp] theorem State.halt_memMark (q code order slot id : Nat) : (s.halt q code order slot id).memMark = s.memMark := by rw [State.halt_frame]
@[simp] theorem State.halt_fuses (q code order slot id : Nat) : (s.halt q code order slot id).fuses = s.fuses := by rw [State.halt_frame]
@[simp] theorem State.halt_fuseCopy (q code order slot id : Nat) : (s.halt q code order slot id).fuseCopy = s.fuseCopy := by rw [State.halt_frame]
@[simp] theorem State.halt_trims (q code order slot id : Nat) : (s.halt q code order slot id).trims = s.trims := by rw [State.halt_frame]
@[simp] theorem State.halt_pad (q code order slot id : Nat) : (s.halt q code order slot id).pad = s.pad := by rw [State.halt_frame]
@[simp] theorem State.halt_padFresh (q code order slot id : Nat) : (s.halt q code order slot id).padFresh = s.padFresh := by rw [State.halt_frame]
@[simp] theorem State.halt_padDirty (q code order slot id : Nat) : (s.halt q code order slot id).padDirty = s.padDirty := by rw [State.halt_frame]
@[simp] theorem State.halt_bad (q code order slot id : Nat) : (s.halt q code order slot id).bad = s.bad := by rw [State.halt_frame]
@[simp] theorem State.halt_banks (q code order slot id : Nat) : (s.halt q code order slot id).banks = s.banks := by rw [State.halt_frame]
@[simp] theorem State.halt_lanes (q code order slot id : Nat) : (s.halt q code order slot id).lanes = s.lanes := by rw [State.halt_frame]
@[simp] theorem State.halt_laneTags (q code order slot id : Nat) : (s.halt q code order slot id).laneTags = s.laneTags := by rw [State.halt_frame]
@[simp] theorem State.halt_tabQueue (q code order slot id : Nat) : (s.halt q code order slot id).tabQueue = s.tabQueue := by rw [State.halt_frame]
@[simp] theorem State.halt_tabPassed (q code order slot id : Nat) : (s.halt q code order slot id).tabPassed = s.tabPassed := by rw [State.halt_frame]
@[simp] theorem State.halt_nextLn (q code order slot id : Nat) : (s.halt q code order slot id).nextLn = s.nextLn := by rw [State.halt_frame]
@[simp] theorem State.halt_nextDec (q code order slot id : Nat) : (s.halt q code order slot id).nextDec = s.nextDec := by rw [State.halt_frame]
@[simp] theorem State.halt_nextOp (q code order slot id : Nat) : (s.halt q code order slot id).nextOp = s.nextOp := by rw [State.halt_frame]
@[simp] theorem State.halt_flights (q code order slot id : Nat) : (s.halt q code order slot id).flights = s.flights := by rw [State.halt_frame]
@[simp] theorem State.halt_placed (q code order slot id : Nat) : (s.halt q code order slot id).placed = s.placed := by rw [State.halt_frame]
@[simp] theorem State.halt_repack (q code order slot id : Nat) : (s.halt q code order slot id).repack = s.repack := by rw [State.halt_frame]
@[simp] theorem State.halt_maskJobs (q code order slot id : Nat) : (s.halt q code order slot id).maskJobs = s.maskJobs := by rw [State.halt_frame]
@[simp] theorem State.halt_masks (q code order slot id : Nat) : (s.halt q code order slot id).masks = s.masks := by rw [State.halt_frame]
@[simp] theorem State.halt_reqs (q code order slot id : Nat) : (s.halt q code order slot id).reqs = s.reqs := by rw [State.halt_frame]
@[simp] theorem State.halt_shadows (q code order slot id : Nat) : (s.halt q code order slot id).shadows = s.shadows := by rw [State.halt_frame]
@[simp] theorem State.halt_rets (q code order slot id : Nat) : (s.halt q code order slot id).rets = s.rets := by rw [State.halt_frame]
@[simp] theorem State.halt_stops (q code order slot id : Nat) : (s.halt q code order slot id).stops = s.stops := by rw [State.halt_frame]
@[simp] theorem State.halt_yBlocks (q code order slot id : Nat) : (s.halt q code order slot id).yBlocks = s.yBlocks := by rw [State.halt_frame]
@[simp] theorem State.halt_yLooks (q code order slot id : Nat) : (s.halt q code order slot id).yLooks = s.yLooks := by rw [State.halt_frame]
@[simp] theorem State.halt_gotten (q code order slot id : Nat) : (s.halt q code order slot id).gotten = s.gotten := by rw [State.halt_frame]
@[simp] theorem State.halt_arb (q code order slot id : Nat) : (s.halt q code order slot id).arb = s.arb := by rw [State.halt_frame]
@[simp] theorem State.halt_sync (q code order slot id : Nat) : (s.halt q code order slot id).sync = s.sync := by rw [State.halt_frame]
@[simp] theorem State.halt_power (q code order slot id : Nat) : (s.halt q code order slot id).power = s.power := by rw [State.halt_frame]
@[simp] theorem State.halt_far (q code order slot id : Nat) : (s.halt q code order slot id).far = s.far := by rw [State.halt_frame]
@[simp] theorem State.halt_test (q code order slot id : Nat) : (s.halt q code order slot id).test = s.test := by rw [State.halt_frame]
@[simp] theorem State.halt_sorrel (q code order slot id : Nat) : (s.halt q code order slot id).sorrel = s.sorrel := by rw [State.halt_frame]
@[simp] theorem State.halt_scrub (q code order slot id : Nat) : (s.halt q code order slot id).scrub = s.scrub := by rw [State.halt_frame]
@[simp] theorem State.halt_quiesced (q code order slot id : Nat) : (s.halt q code order slot id).quiesced = s.quiesced := by rw [State.halt_frame]

/-- `passItem` changes nothing but `regs`, `queues`. -/
theorem State.passItem_frame (q : Nat) (g : Bool) :
    s.passItem q g = { s with regs := (s.passItem q g).regs, queues := (s.passItem q g).queues } := by
  unfold State.passItem
  split
  · rfl
  · dsimp only
    rw [State.refresh_frame]
    rfl

@[simp] theorem State.passItem_pending (q : Nat) (g : Bool) : (s.passItem q g).pending = s.pending := by rw [State.passItem_frame]
@[simp] theorem State.passItem_freeCtr (q : Nat) (g : Bool) : (s.passItem q g).freeCtr = s.freeCtr := by rw [State.passItem_frame]
@[simp] theorem State.passItem_resp (q : Nat) (g : Bool) : (s.passItem q g).resp = s.resp := by rw [State.passItem_frame]
@[simp] theorem State.passItem_respHdr (q : Nat) (g : Bool) : (s.passItem q g).respHdr = s.respHdr := by rw [State.passItem_frame]
@[simp] theorem State.passItem_mem (q : Nat) (g : Bool) : (s.passItem q g).mem = s.mem := by rw [State.passItem_frame]
@[simp] theorem State.passItem_memMark (q : Nat) (g : Bool) : (s.passItem q g).memMark = s.memMark := by rw [State.passItem_frame]
@[simp] theorem State.passItem_fuses (q : Nat) (g : Bool) : (s.passItem q g).fuses = s.fuses := by rw [State.passItem_frame]
@[simp] theorem State.passItem_fuseCopy (q : Nat) (g : Bool) : (s.passItem q g).fuseCopy = s.fuseCopy := by rw [State.passItem_frame]
@[simp] theorem State.passItem_trims (q : Nat) (g : Bool) : (s.passItem q g).trims = s.trims := by rw [State.passItem_frame]
@[simp] theorem State.passItem_pad (q : Nat) (g : Bool) : (s.passItem q g).pad = s.pad := by rw [State.passItem_frame]
@[simp] theorem State.passItem_padFresh (q : Nat) (g : Bool) : (s.passItem q g).padFresh = s.padFresh := by rw [State.passItem_frame]
@[simp] theorem State.passItem_padDirty (q : Nat) (g : Bool) : (s.passItem q g).padDirty = s.padDirty := by rw [State.passItem_frame]
@[simp] theorem State.passItem_bad (q : Nat) (g : Bool) : (s.passItem q g).bad = s.bad := by rw [State.passItem_frame]
@[simp] theorem State.passItem_banks (q : Nat) (g : Bool) : (s.passItem q g).banks = s.banks := by rw [State.passItem_frame]
@[simp] theorem State.passItem_lanes (q : Nat) (g : Bool) : (s.passItem q g).lanes = s.lanes := by rw [State.passItem_frame]
@[simp] theorem State.passItem_laneTags (q : Nat) (g : Bool) : (s.passItem q g).laneTags = s.laneTags := by rw [State.passItem_frame]
@[simp] theorem State.passItem_tabQueue (q : Nat) (g : Bool) : (s.passItem q g).tabQueue = s.tabQueue := by rw [State.passItem_frame]
@[simp] theorem State.passItem_tabPassed (q : Nat) (g : Bool) : (s.passItem q g).tabPassed = s.tabPassed := by rw [State.passItem_frame]
@[simp] theorem State.passItem_nextLn (q : Nat) (g : Bool) : (s.passItem q g).nextLn = s.nextLn := by rw [State.passItem_frame]
@[simp] theorem State.passItem_nextDec (q : Nat) (g : Bool) : (s.passItem q g).nextDec = s.nextDec := by rw [State.passItem_frame]
@[simp] theorem State.passItem_nextOp (q : Nat) (g : Bool) : (s.passItem q g).nextOp = s.nextOp := by rw [State.passItem_frame]
@[simp] theorem State.passItem_flights (q : Nat) (g : Bool) : (s.passItem q g).flights = s.flights := by rw [State.passItem_frame]
@[simp] theorem State.passItem_placed (q : Nat) (g : Bool) : (s.passItem q g).placed = s.placed := by rw [State.passItem_frame]
@[simp] theorem State.passItem_repackQ (q : Nat) (g : Bool) : (s.passItem q g).repackQ = s.repackQ := by rw [State.passItem_frame]
@[simp] theorem State.passItem_repack (q : Nat) (g : Bool) : (s.passItem q g).repack = s.repack := by rw [State.passItem_frame]
@[simp] theorem State.passItem_maskJobs (q : Nat) (g : Bool) : (s.passItem q g).maskJobs = s.maskJobs := by rw [State.passItem_frame]
@[simp] theorem State.passItem_masks (q : Nat) (g : Bool) : (s.passItem q g).masks = s.masks := by rw [State.passItem_frame]
@[simp] theorem State.passItem_reqs (q : Nat) (g : Bool) : (s.passItem q g).reqs = s.reqs := by rw [State.passItem_frame]
@[simp] theorem State.passItem_shadows (q : Nat) (g : Bool) : (s.passItem q g).shadows = s.shadows := by rw [State.passItem_frame]
@[simp] theorem State.passItem_rets (q : Nat) (g : Bool) : (s.passItem q g).rets = s.rets := by rw [State.passItem_frame]
@[simp] theorem State.passItem_stops (q : Nat) (g : Bool) : (s.passItem q g).stops = s.stops := by rw [State.passItem_frame]
@[simp] theorem State.passItem_yBlocks (q : Nat) (g : Bool) : (s.passItem q g).yBlocks = s.yBlocks := by rw [State.passItem_frame]
@[simp] theorem State.passItem_yLooks (q : Nat) (g : Bool) : (s.passItem q g).yLooks = s.yLooks := by rw [State.passItem_frame]
@[simp] theorem State.passItem_out (q : Nat) (g : Bool) : (s.passItem q g).out = s.out := by rw [State.passItem_frame]
@[simp] theorem State.passItem_gotten (q : Nat) (g : Bool) : (s.passItem q g).gotten = s.gotten := by rw [State.passItem_frame]
@[simp] theorem State.passItem_link (q : Nat) (g : Bool) : (s.passItem q g).link = s.link := by rw [State.passItem_frame]
@[simp] theorem State.passItem_arb (q : Nat) (g : Bool) : (s.passItem q g).arb = s.arb := by rw [State.passItem_frame]
@[simp] theorem State.passItem_sync (q : Nat) (g : Bool) : (s.passItem q g).sync = s.sync := by rw [State.passItem_frame]
@[simp] theorem State.passItem_power (q : Nat) (g : Bool) : (s.passItem q g).power = s.power := by rw [State.passItem_frame]
@[simp] theorem State.passItem_ev (q : Nat) (g : Bool) : (s.passItem q g).ev = s.ev := by rw [State.passItem_frame]
@[simp] theorem State.passItem_far (q : Nat) (g : Bool) : (s.passItem q g).far = s.far := by rw [State.passItem_frame]
@[simp] theorem State.passItem_test (q : Nat) (g : Bool) : (s.passItem q g).test = s.test := by rw [State.passItem_frame]
@[simp] theorem State.passItem_sorrel (q : Nat) (g : Bool) : (s.passItem q g).sorrel = s.sorrel := by rw [State.passItem_frame]
@[simp] theorem State.passItem_scrub (q : Nat) (g : Bool) : (s.passItem q g).scrub = s.scrub := by rw [State.passItem_frame]
@[simp] theorem State.passItem_quiesced (q : Nat) (g : Bool) : (s.passItem q g).quiesced = s.quiesced := by rw [State.passItem_frame]

/-- `issueRd` changes nothing but `link`, `out`. -/
theorem State.issueRd_frame (m : Port × Nat × Nat) :
    s.issueRd m = { s with link := (s.issueRd m).link, out := (s.issueRd m).out } := by
  unfold State.issueRd
  split
  · rw [State.send_frame]
  · rfl

@[simp] theorem State.issueRd_pending (m : Port × Nat × Nat) : (s.issueRd m).pending = s.pending := by rw [State.issueRd_frame]
@[simp] theorem State.issueRd_freeCtr (m : Port × Nat × Nat) : (s.issueRd m).freeCtr = s.freeCtr := by rw [State.issueRd_frame]
@[simp] theorem State.issueRd_resp (m : Port × Nat × Nat) : (s.issueRd m).resp = s.resp := by rw [State.issueRd_frame]
@[simp] theorem State.issueRd_respHdr (m : Port × Nat × Nat) : (s.issueRd m).respHdr = s.respHdr := by rw [State.issueRd_frame]
@[simp] theorem State.issueRd_regs (m : Port × Nat × Nat) : (s.issueRd m).regs = s.regs := by rw [State.issueRd_frame]
@[simp] theorem State.issueRd_mem (m : Port × Nat × Nat) : (s.issueRd m).mem = s.mem := by rw [State.issueRd_frame]
@[simp] theorem State.issueRd_memMark (m : Port × Nat × Nat) : (s.issueRd m).memMark = s.memMark := by rw [State.issueRd_frame]
@[simp] theorem State.issueRd_fuses (m : Port × Nat × Nat) : (s.issueRd m).fuses = s.fuses := by rw [State.issueRd_frame]
@[simp] theorem State.issueRd_fuseCopy (m : Port × Nat × Nat) : (s.issueRd m).fuseCopy = s.fuseCopy := by rw [State.issueRd_frame]
@[simp] theorem State.issueRd_trims (m : Port × Nat × Nat) : (s.issueRd m).trims = s.trims := by rw [State.issueRd_frame]
@[simp] theorem State.issueRd_pad (m : Port × Nat × Nat) : (s.issueRd m).pad = s.pad := by rw [State.issueRd_frame]
@[simp] theorem State.issueRd_padFresh (m : Port × Nat × Nat) : (s.issueRd m).padFresh = s.padFresh := by rw [State.issueRd_frame]
@[simp] theorem State.issueRd_padDirty (m : Port × Nat × Nat) : (s.issueRd m).padDirty = s.padDirty := by rw [State.issueRd_frame]
@[simp] theorem State.issueRd_bad (m : Port × Nat × Nat) : (s.issueRd m).bad = s.bad := by rw [State.issueRd_frame]
@[simp] theorem State.issueRd_banks (m : Port × Nat × Nat) : (s.issueRd m).banks = s.banks := by rw [State.issueRd_frame]
@[simp] theorem State.issueRd_lanes (m : Port × Nat × Nat) : (s.issueRd m).lanes = s.lanes := by rw [State.issueRd_frame]
@[simp] theorem State.issueRd_laneTags (m : Port × Nat × Nat) : (s.issueRd m).laneTags = s.laneTags := by rw [State.issueRd_frame]
@[simp] theorem State.issueRd_tabQueue (m : Port × Nat × Nat) : (s.issueRd m).tabQueue = s.tabQueue := by rw [State.issueRd_frame]
@[simp] theorem State.issueRd_tabPassed (m : Port × Nat × Nat) : (s.issueRd m).tabPassed = s.tabPassed := by rw [State.issueRd_frame]
@[simp] theorem State.issueRd_queues (m : Port × Nat × Nat) : (s.issueRd m).queues = s.queues := by rw [State.issueRd_frame]
@[simp] theorem State.issueRd_nextLn (m : Port × Nat × Nat) : (s.issueRd m).nextLn = s.nextLn := by rw [State.issueRd_frame]
@[simp] theorem State.issueRd_nextDec (m : Port × Nat × Nat) : (s.issueRd m).nextDec = s.nextDec := by rw [State.issueRd_frame]
@[simp] theorem State.issueRd_nextOp (m : Port × Nat × Nat) : (s.issueRd m).nextOp = s.nextOp := by rw [State.issueRd_frame]
@[simp] theorem State.issueRd_flights (m : Port × Nat × Nat) : (s.issueRd m).flights = s.flights := by rw [State.issueRd_frame]
@[simp] theorem State.issueRd_placed (m : Port × Nat × Nat) : (s.issueRd m).placed = s.placed := by rw [State.issueRd_frame]
@[simp] theorem State.issueRd_repackQ (m : Port × Nat × Nat) : (s.issueRd m).repackQ = s.repackQ := by rw [State.issueRd_frame]
@[simp] theorem State.issueRd_repack (m : Port × Nat × Nat) : (s.issueRd m).repack = s.repack := by rw [State.issueRd_frame]
@[simp] theorem State.issueRd_maskJobs (m : Port × Nat × Nat) : (s.issueRd m).maskJobs = s.maskJobs := by rw [State.issueRd_frame]
@[simp] theorem State.issueRd_masks (m : Port × Nat × Nat) : (s.issueRd m).masks = s.masks := by rw [State.issueRd_frame]
@[simp] theorem State.issueRd_reqs (m : Port × Nat × Nat) : (s.issueRd m).reqs = s.reqs := by rw [State.issueRd_frame]
@[simp] theorem State.issueRd_shadows (m : Port × Nat × Nat) : (s.issueRd m).shadows = s.shadows := by rw [State.issueRd_frame]
@[simp] theorem State.issueRd_rets (m : Port × Nat × Nat) : (s.issueRd m).rets = s.rets := by rw [State.issueRd_frame]
@[simp] theorem State.issueRd_stops (m : Port × Nat × Nat) : (s.issueRd m).stops = s.stops := by rw [State.issueRd_frame]
@[simp] theorem State.issueRd_yBlocks (m : Port × Nat × Nat) : (s.issueRd m).yBlocks = s.yBlocks := by rw [State.issueRd_frame]
@[simp] theorem State.issueRd_yLooks (m : Port × Nat × Nat) : (s.issueRd m).yLooks = s.yLooks := by rw [State.issueRd_frame]
@[simp] theorem State.issueRd_gotten (m : Port × Nat × Nat) : (s.issueRd m).gotten = s.gotten := by rw [State.issueRd_frame]
@[simp] theorem State.issueRd_arb (m : Port × Nat × Nat) : (s.issueRd m).arb = s.arb := by rw [State.issueRd_frame]
@[simp] theorem State.issueRd_sync (m : Port × Nat × Nat) : (s.issueRd m).sync = s.sync := by rw [State.issueRd_frame]
@[simp] theorem State.issueRd_power (m : Port × Nat × Nat) : (s.issueRd m).power = s.power := by rw [State.issueRd_frame]
@[simp] theorem State.issueRd_ev (m : Port × Nat × Nat) : (s.issueRd m).ev = s.ev := by rw [State.issueRd_frame]
@[simp] theorem State.issueRd_far (m : Port × Nat × Nat) : (s.issueRd m).far = s.far := by rw [State.issueRd_frame]
@[simp] theorem State.issueRd_test (m : Port × Nat × Nat) : (s.issueRd m).test = s.test := by rw [State.issueRd_frame]
@[simp] theorem State.issueRd_sorrel (m : Port × Nat × Nat) : (s.issueRd m).sorrel = s.sorrel := by rw [State.issueRd_frame]
@[simp] theorem State.issueRd_scrub (m : Port × Nat × Nat) : (s.issueRd m).scrub = s.scrub := by rw [State.issueRd_frame]
@[simp] theorem State.issueRd_quiesced (m : Port × Nat × Nat) : (s.issueRd m).quiesced = s.quiesced := by rw [State.issueRd_frame]
@[simp] theorem State.issueRd_reg (m : Port × Nat × Nat) (o : Nat) : (s.issueRd m).reg o = s.reg o := by rw [State.issueRd_frame]; rfl
@[simp] theorem State.issueRd_getF (m : Port × Nat × Nat) (g : Fld) : (s.issueRd m).getF g = s.getF g := by rw [State.issueRd_frame]; rfl
@[simp] theorem State.issueRd_flag (m : Port × Nat × Nat) (g : Fld) : (s.issueRd m).flag g = s.flag g := by rw [State.issueRd_frame]; rfl

/-- `issueRead` changes nothing but `link`, `out`. -/
theorem State.issueRead_frame (a n : Nat) :
    s.issueRead a n = { s with link := (s.issueRead a n).link, out := (s.issueRead a n).out } := by
  unfold State.issueRead
  generalize s.messages none false a n = l
  induction l generalizing s with
  | nil => rfl
  | cons x l ih => rw [List.foldl_cons, ih, State.issueRd_frame]

@[simp] theorem State.issueRead_pending (a n : Nat) : (s.issueRead a n).pending = s.pending := by rw [State.issueRead_frame]
@[simp] theorem State.issueRead_freeCtr (a n : Nat) : (s.issueRead a n).freeCtr = s.freeCtr := by rw [State.issueRead_frame]
@[simp] theorem State.issueRead_resp (a n : Nat) : (s.issueRead a n).resp = s.resp := by rw [State.issueRead_frame]
@[simp] theorem State.issueRead_respHdr (a n : Nat) : (s.issueRead a n).respHdr = s.respHdr := by rw [State.issueRead_frame]
@[simp] theorem State.issueRead_regs (a n : Nat) : (s.issueRead a n).regs = s.regs := by rw [State.issueRead_frame]
@[simp] theorem State.issueRead_mem (a n : Nat) : (s.issueRead a n).mem = s.mem := by rw [State.issueRead_frame]
@[simp] theorem State.issueRead_memMark (a n : Nat) : (s.issueRead a n).memMark = s.memMark := by rw [State.issueRead_frame]
@[simp] theorem State.issueRead_fuses (a n : Nat) : (s.issueRead a n).fuses = s.fuses := by rw [State.issueRead_frame]
@[simp] theorem State.issueRead_fuseCopy (a n : Nat) : (s.issueRead a n).fuseCopy = s.fuseCopy := by rw [State.issueRead_frame]
@[simp] theorem State.issueRead_trims (a n : Nat) : (s.issueRead a n).trims = s.trims := by rw [State.issueRead_frame]
@[simp] theorem State.issueRead_pad (a n : Nat) : (s.issueRead a n).pad = s.pad := by rw [State.issueRead_frame]
@[simp] theorem State.issueRead_padFresh (a n : Nat) : (s.issueRead a n).padFresh = s.padFresh := by rw [State.issueRead_frame]
@[simp] theorem State.issueRead_padDirty (a n : Nat) : (s.issueRead a n).padDirty = s.padDirty := by rw [State.issueRead_frame]
@[simp] theorem State.issueRead_bad (a n : Nat) : (s.issueRead a n).bad = s.bad := by rw [State.issueRead_frame]
@[simp] theorem State.issueRead_banks (a n : Nat) : (s.issueRead a n).banks = s.banks := by rw [State.issueRead_frame]
@[simp] theorem State.issueRead_lanes (a n : Nat) : (s.issueRead a n).lanes = s.lanes := by rw [State.issueRead_frame]
@[simp] theorem State.issueRead_laneTags (a n : Nat) : (s.issueRead a n).laneTags = s.laneTags := by rw [State.issueRead_frame]
@[simp] theorem State.issueRead_tabQueue (a n : Nat) : (s.issueRead a n).tabQueue = s.tabQueue := by rw [State.issueRead_frame]
@[simp] theorem State.issueRead_tabPassed (a n : Nat) : (s.issueRead a n).tabPassed = s.tabPassed := by rw [State.issueRead_frame]
@[simp] theorem State.issueRead_queues (a n : Nat) : (s.issueRead a n).queues = s.queues := by rw [State.issueRead_frame]
@[simp] theorem State.issueRead_nextLn (a n : Nat) : (s.issueRead a n).nextLn = s.nextLn := by rw [State.issueRead_frame]
@[simp] theorem State.issueRead_nextDec (a n : Nat) : (s.issueRead a n).nextDec = s.nextDec := by rw [State.issueRead_frame]
@[simp] theorem State.issueRead_nextOp (a n : Nat) : (s.issueRead a n).nextOp = s.nextOp := by rw [State.issueRead_frame]
@[simp] theorem State.issueRead_flights (a n : Nat) : (s.issueRead a n).flights = s.flights := by rw [State.issueRead_frame]
@[simp] theorem State.issueRead_placed (a n : Nat) : (s.issueRead a n).placed = s.placed := by rw [State.issueRead_frame]
@[simp] theorem State.issueRead_repackQ (a n : Nat) : (s.issueRead a n).repackQ = s.repackQ := by rw [State.issueRead_frame]
@[simp] theorem State.issueRead_repack (a n : Nat) : (s.issueRead a n).repack = s.repack := by rw [State.issueRead_frame]
@[simp] theorem State.issueRead_maskJobs (a n : Nat) : (s.issueRead a n).maskJobs = s.maskJobs := by rw [State.issueRead_frame]
@[simp] theorem State.issueRead_masks (a n : Nat) : (s.issueRead a n).masks = s.masks := by rw [State.issueRead_frame]
@[simp] theorem State.issueRead_reqs (a n : Nat) : (s.issueRead a n).reqs = s.reqs := by rw [State.issueRead_frame]
@[simp] theorem State.issueRead_shadows (a n : Nat) : (s.issueRead a n).shadows = s.shadows := by rw [State.issueRead_frame]
@[simp] theorem State.issueRead_rets (a n : Nat) : (s.issueRead a n).rets = s.rets := by rw [State.issueRead_frame]
@[simp] theorem State.issueRead_stops (a n : Nat) : (s.issueRead a n).stops = s.stops := by rw [State.issueRead_frame]
@[simp] theorem State.issueRead_yBlocks (a n : Nat) : (s.issueRead a n).yBlocks = s.yBlocks := by rw [State.issueRead_frame]
@[simp] theorem State.issueRead_yLooks (a n : Nat) : (s.issueRead a n).yLooks = s.yLooks := by rw [State.issueRead_frame]
@[simp] theorem State.issueRead_gotten (a n : Nat) : (s.issueRead a n).gotten = s.gotten := by rw [State.issueRead_frame]
@[simp] theorem State.issueRead_arb (a n : Nat) : (s.issueRead a n).arb = s.arb := by rw [State.issueRead_frame]
@[simp] theorem State.issueRead_sync (a n : Nat) : (s.issueRead a n).sync = s.sync := by rw [State.issueRead_frame]
@[simp] theorem State.issueRead_power (a n : Nat) : (s.issueRead a n).power = s.power := by rw [State.issueRead_frame]
@[simp] theorem State.issueRead_ev (a n : Nat) : (s.issueRead a n).ev = s.ev := by rw [State.issueRead_frame]
@[simp] theorem State.issueRead_far (a n : Nat) : (s.issueRead a n).far = s.far := by rw [State.issueRead_frame]
@[simp] theorem State.issueRead_test (a n : Nat) : (s.issueRead a n).test = s.test := by rw [State.issueRead_frame]
@[simp] theorem State.issueRead_sorrel (a n : Nat) : (s.issueRead a n).sorrel = s.sorrel := by rw [State.issueRead_frame]
@[simp] theorem State.issueRead_scrub (a n : Nat) : (s.issueRead a n).scrub = s.scrub := by rw [State.issueRead_frame]
@[simp] theorem State.issueRead_quiesced (a n : Nat) : (s.issueRead a n).quiesced = s.quiesced := by rw [State.issueRead_frame]
@[simp] theorem State.issueRead_reg (a n : Nat) (o : Nat) : (s.issueRead a n).reg o = s.reg o := by rw [State.issueRead_frame]; rfl
@[simp] theorem State.issueRead_getF (a n : Nat) (g : Fld) : (s.issueRead a n).getF g = s.getF g := by rw [State.issueRead_frame]; rfl
@[simp] theorem State.issueRead_flag (a n : Nat) (g : Fld) : (s.issueRead a n).flag g = s.flag g := by rw [State.issueRead_frame]; rfl

/-- `readHost` changes nothing but `regs`, `ev`, `link`, `out`. -/
theorem State.readHost_frame (req sev a n : Nat) (who : Who) (row : Nat) :
    (s.readHost req sev a n who row).1 = { s with regs := (s.readHost req sev a n who row).1.regs, ev := (s.readHost req sev a n who row).1.ev, link := (s.readHost req sev a n who row).1.link, out := (s.readHost req sev a n who row).1.out } := by
  unfold State.readHost
  dsimp only
  rw [State.poisonEvents_frame, State.issueRead_frame]

@[simp] theorem State.readHost_pending (req sev a n : Nat) (who : Who) (row : Nat) : (s.readHost req sev a n who row).1.pending = s.pending := by rw [State.readHost_frame]
@[simp] theorem State.readHost_freeCtr (req sev a n : Nat) (who : Who) (row : Nat) : (s.readHost req sev a n who row).1.freeCtr = s.freeCtr := by rw [State.readHost_frame]
@[simp] theorem State.readHost_resp (req sev a n : Nat) (who : Who) (row : Nat) : (s.readHost req sev a n who row).1.resp = s.resp := by rw [State.readHost_frame]
@[simp] theorem State.readHost_respHdr (req sev a n : Nat) (who : Who) (row : Nat) : (s.readHost req sev a n who row).1.respHdr = s.respHdr := by rw [State.readHost_frame]
@[simp] theorem State.readHost_mem (req sev a n : Nat) (who : Who) (row : Nat) : (s.readHost req sev a n who row).1.mem = s.mem := by rw [State.readHost_frame]
@[simp] theorem State.readHost_memMark (req sev a n : Nat) (who : Who) (row : Nat) : (s.readHost req sev a n who row).1.memMark = s.memMark := by rw [State.readHost_frame]
@[simp] theorem State.readHost_fuses (req sev a n : Nat) (who : Who) (row : Nat) : (s.readHost req sev a n who row).1.fuses = s.fuses := by rw [State.readHost_frame]
@[simp] theorem State.readHost_fuseCopy (req sev a n : Nat) (who : Who) (row : Nat) : (s.readHost req sev a n who row).1.fuseCopy = s.fuseCopy := by rw [State.readHost_frame]
@[simp] theorem State.readHost_trims (req sev a n : Nat) (who : Who) (row : Nat) : (s.readHost req sev a n who row).1.trims = s.trims := by rw [State.readHost_frame]
@[simp] theorem State.readHost_pad (req sev a n : Nat) (who : Who) (row : Nat) : (s.readHost req sev a n who row).1.pad = s.pad := by rw [State.readHost_frame]
@[simp] theorem State.readHost_padFresh (req sev a n : Nat) (who : Who) (row : Nat) : (s.readHost req sev a n who row).1.padFresh = s.padFresh := by rw [State.readHost_frame]
@[simp] theorem State.readHost_padDirty (req sev a n : Nat) (who : Who) (row : Nat) : (s.readHost req sev a n who row).1.padDirty = s.padDirty := by rw [State.readHost_frame]
@[simp] theorem State.readHost_bad (req sev a n : Nat) (who : Who) (row : Nat) : (s.readHost req sev a n who row).1.bad = s.bad := by rw [State.readHost_frame]
@[simp] theorem State.readHost_banks (req sev a n : Nat) (who : Who) (row : Nat) : (s.readHost req sev a n who row).1.banks = s.banks := by rw [State.readHost_frame]
@[simp] theorem State.readHost_lanes (req sev a n : Nat) (who : Who) (row : Nat) : (s.readHost req sev a n who row).1.lanes = s.lanes := by rw [State.readHost_frame]
@[simp] theorem State.readHost_laneTags (req sev a n : Nat) (who : Who) (row : Nat) : (s.readHost req sev a n who row).1.laneTags = s.laneTags := by rw [State.readHost_frame]
@[simp] theorem State.readHost_tabQueue (req sev a n : Nat) (who : Who) (row : Nat) : (s.readHost req sev a n who row).1.tabQueue = s.tabQueue := by rw [State.readHost_frame]
@[simp] theorem State.readHost_tabPassed (req sev a n : Nat) (who : Who) (row : Nat) : (s.readHost req sev a n who row).1.tabPassed = s.tabPassed := by rw [State.readHost_frame]
@[simp] theorem State.readHost_queues (req sev a n : Nat) (who : Who) (row : Nat) : (s.readHost req sev a n who row).1.queues = s.queues := by rw [State.readHost_frame]
@[simp] theorem State.readHost_nextLn (req sev a n : Nat) (who : Who) (row : Nat) : (s.readHost req sev a n who row).1.nextLn = s.nextLn := by rw [State.readHost_frame]
@[simp] theorem State.readHost_nextDec (req sev a n : Nat) (who : Who) (row : Nat) : (s.readHost req sev a n who row).1.nextDec = s.nextDec := by rw [State.readHost_frame]
@[simp] theorem State.readHost_nextOp (req sev a n : Nat) (who : Who) (row : Nat) : (s.readHost req sev a n who row).1.nextOp = s.nextOp := by rw [State.readHost_frame]
@[simp] theorem State.readHost_flights (req sev a n : Nat) (who : Who) (row : Nat) : (s.readHost req sev a n who row).1.flights = s.flights := by rw [State.readHost_frame]
@[simp] theorem State.readHost_placed (req sev a n : Nat) (who : Who) (row : Nat) : (s.readHost req sev a n who row).1.placed = s.placed := by rw [State.readHost_frame]
@[simp] theorem State.readHost_repackQ (req sev a n : Nat) (who : Who) (row : Nat) : (s.readHost req sev a n who row).1.repackQ = s.repackQ := by rw [State.readHost_frame]
@[simp] theorem State.readHost_repack (req sev a n : Nat) (who : Who) (row : Nat) : (s.readHost req sev a n who row).1.repack = s.repack := by rw [State.readHost_frame]
@[simp] theorem State.readHost_maskJobs (req sev a n : Nat) (who : Who) (row : Nat) : (s.readHost req sev a n who row).1.maskJobs = s.maskJobs := by rw [State.readHost_frame]
@[simp] theorem State.readHost_masks (req sev a n : Nat) (who : Who) (row : Nat) : (s.readHost req sev a n who row).1.masks = s.masks := by rw [State.readHost_frame]
@[simp] theorem State.readHost_reqs (req sev a n : Nat) (who : Who) (row : Nat) : (s.readHost req sev a n who row).1.reqs = s.reqs := by rw [State.readHost_frame]
@[simp] theorem State.readHost_shadows (req sev a n : Nat) (who : Who) (row : Nat) : (s.readHost req sev a n who row).1.shadows = s.shadows := by rw [State.readHost_frame]
@[simp] theorem State.readHost_rets (req sev a n : Nat) (who : Who) (row : Nat) : (s.readHost req sev a n who row).1.rets = s.rets := by rw [State.readHost_frame]
@[simp] theorem State.readHost_stops (req sev a n : Nat) (who : Who) (row : Nat) : (s.readHost req sev a n who row).1.stops = s.stops := by rw [State.readHost_frame]
@[simp] theorem State.readHost_yBlocks (req sev a n : Nat) (who : Who) (row : Nat) : (s.readHost req sev a n who row).1.yBlocks = s.yBlocks := by rw [State.readHost_frame]
@[simp] theorem State.readHost_yLooks (req sev a n : Nat) (who : Who) (row : Nat) : (s.readHost req sev a n who row).1.yLooks = s.yLooks := by rw [State.readHost_frame]
@[simp] theorem State.readHost_gotten (req sev a n : Nat) (who : Who) (row : Nat) : (s.readHost req sev a n who row).1.gotten = s.gotten := by rw [State.readHost_frame]
@[simp] theorem State.readHost_arb (req sev a n : Nat) (who : Who) (row : Nat) : (s.readHost req sev a n who row).1.arb = s.arb := by rw [State.readHost_frame]
@[simp] theorem State.readHost_sync (req sev a n : Nat) (who : Who) (row : Nat) : (s.readHost req sev a n who row).1.sync = s.sync := by rw [State.readHost_frame]
@[simp] theorem State.readHost_power (req sev a n : Nat) (who : Who) (row : Nat) : (s.readHost req sev a n who row).1.power = s.power := by rw [State.readHost_frame]
@[simp] theorem State.readHost_far (req sev a n : Nat) (who : Who) (row : Nat) : (s.readHost req sev a n who row).1.far = s.far := by rw [State.readHost_frame]
@[simp] theorem State.readHost_test (req sev a n : Nat) (who : Who) (row : Nat) : (s.readHost req sev a n who row).1.test = s.test := by rw [State.readHost_frame]
@[simp] theorem State.readHost_sorrel (req sev a n : Nat) (who : Who) (row : Nat) : (s.readHost req sev a n who row).1.sorrel = s.sorrel := by rw [State.readHost_frame]
@[simp] theorem State.readHost_scrub (req sev a n : Nat) (who : Who) (row : Nat) : (s.readHost req sev a n who row).1.scrub = s.scrub := by rw [State.readHost_frame]
@[simp] theorem State.readHost_quiesced (req sev a n : Nat) (who : Who) (row : Nat) : (s.readHost req sev a n who row).1.quiesced = s.quiesced := by rw [State.readHost_frame]

/-- `rowEvent` changes nothing but `regs`, `ev`. -/
theorem State.rowEvent_frame (f : Flight) (code row n cause slot : Nat) :
    s.rowEvent f code row n cause slot = { s with regs := (s.rowEvent f code row n cause slot).regs, ev := (s.rowEvent f code row n cause slot).ev } := by
  unfold State.rowEvent
  rw [State.coalesce_frame]

@[simp] theorem State.rowEvent_pending (f : Flight) (code row n cause slot : Nat) : (s.rowEvent f code row n cause slot).pending = s.pending := by rw [State.rowEvent_frame]
@[simp] theorem State.rowEvent_freeCtr (f : Flight) (code row n cause slot : Nat) : (s.rowEvent f code row n cause slot).freeCtr = s.freeCtr := by rw [State.rowEvent_frame]
@[simp] theorem State.rowEvent_resp (f : Flight) (code row n cause slot : Nat) : (s.rowEvent f code row n cause slot).resp = s.resp := by rw [State.rowEvent_frame]
@[simp] theorem State.rowEvent_respHdr (f : Flight) (code row n cause slot : Nat) : (s.rowEvent f code row n cause slot).respHdr = s.respHdr := by rw [State.rowEvent_frame]
@[simp] theorem State.rowEvent_mem (f : Flight) (code row n cause slot : Nat) : (s.rowEvent f code row n cause slot).mem = s.mem := by rw [State.rowEvent_frame]
@[simp] theorem State.rowEvent_memMark (f : Flight) (code row n cause slot : Nat) : (s.rowEvent f code row n cause slot).memMark = s.memMark := by rw [State.rowEvent_frame]
@[simp] theorem State.rowEvent_fuses (f : Flight) (code row n cause slot : Nat) : (s.rowEvent f code row n cause slot).fuses = s.fuses := by rw [State.rowEvent_frame]
@[simp] theorem State.rowEvent_fuseCopy (f : Flight) (code row n cause slot : Nat) : (s.rowEvent f code row n cause slot).fuseCopy = s.fuseCopy := by rw [State.rowEvent_frame]
@[simp] theorem State.rowEvent_trims (f : Flight) (code row n cause slot : Nat) : (s.rowEvent f code row n cause slot).trims = s.trims := by rw [State.rowEvent_frame]
@[simp] theorem State.rowEvent_pad (f : Flight) (code row n cause slot : Nat) : (s.rowEvent f code row n cause slot).pad = s.pad := by rw [State.rowEvent_frame]
@[simp] theorem State.rowEvent_padFresh (f : Flight) (code row n cause slot : Nat) : (s.rowEvent f code row n cause slot).padFresh = s.padFresh := by rw [State.rowEvent_frame]
@[simp] theorem State.rowEvent_padDirty (f : Flight) (code row n cause slot : Nat) : (s.rowEvent f code row n cause slot).padDirty = s.padDirty := by rw [State.rowEvent_frame]
@[simp] theorem State.rowEvent_bad (f : Flight) (code row n cause slot : Nat) : (s.rowEvent f code row n cause slot).bad = s.bad := by rw [State.rowEvent_frame]
@[simp] theorem State.rowEvent_banks (f : Flight) (code row n cause slot : Nat) : (s.rowEvent f code row n cause slot).banks = s.banks := by rw [State.rowEvent_frame]
@[simp] theorem State.rowEvent_lanes (f : Flight) (code row n cause slot : Nat) : (s.rowEvent f code row n cause slot).lanes = s.lanes := by rw [State.rowEvent_frame]
@[simp] theorem State.rowEvent_laneTags (f : Flight) (code row n cause slot : Nat) : (s.rowEvent f code row n cause slot).laneTags = s.laneTags := by rw [State.rowEvent_frame]
@[simp] theorem State.rowEvent_tabQueue (f : Flight) (code row n cause slot : Nat) : (s.rowEvent f code row n cause slot).tabQueue = s.tabQueue := by rw [State.rowEvent_frame]
@[simp] theorem State.rowEvent_tabPassed (f : Flight) (code row n cause slot : Nat) : (s.rowEvent f code row n cause slot).tabPassed = s.tabPassed := by rw [State.rowEvent_frame]
@[simp] theorem State.rowEvent_queues (f : Flight) (code row n cause slot : Nat) : (s.rowEvent f code row n cause slot).queues = s.queues := by rw [State.rowEvent_frame]
@[simp] theorem State.rowEvent_nextLn (f : Flight) (code row n cause slot : Nat) : (s.rowEvent f code row n cause slot).nextLn = s.nextLn := by rw [State.rowEvent_frame]
@[simp] theorem State.rowEvent_nextDec (f : Flight) (code row n cause slot : Nat) : (s.rowEvent f code row n cause slot).nextDec = s.nextDec := by rw [State.rowEvent_frame]
@[simp] theorem State.rowEvent_nextOp (f : Flight) (code row n cause slot : Nat) : (s.rowEvent f code row n cause slot).nextOp = s.nextOp := by rw [State.rowEvent_frame]
@[simp] theorem State.rowEvent_flights (f : Flight) (code row n cause slot : Nat) : (s.rowEvent f code row n cause slot).flights = s.flights := by rw [State.rowEvent_frame]
@[simp] theorem State.rowEvent_placed (f : Flight) (code row n cause slot : Nat) : (s.rowEvent f code row n cause slot).placed = s.placed := by rw [State.rowEvent_frame]
@[simp] theorem State.rowEvent_repackQ (f : Flight) (code row n cause slot : Nat) : (s.rowEvent f code row n cause slot).repackQ = s.repackQ := by rw [State.rowEvent_frame]
@[simp] theorem State.rowEvent_repack (f : Flight) (code row n cause slot : Nat) : (s.rowEvent f code row n cause slot).repack = s.repack := by rw [State.rowEvent_frame]
@[simp] theorem State.rowEvent_maskJobs (f : Flight) (code row n cause slot : Nat) : (s.rowEvent f code row n cause slot).maskJobs = s.maskJobs := by rw [State.rowEvent_frame]
@[simp] theorem State.rowEvent_masks (f : Flight) (code row n cause slot : Nat) : (s.rowEvent f code row n cause slot).masks = s.masks := by rw [State.rowEvent_frame]
@[simp] theorem State.rowEvent_reqs (f : Flight) (code row n cause slot : Nat) : (s.rowEvent f code row n cause slot).reqs = s.reqs := by rw [State.rowEvent_frame]
@[simp] theorem State.rowEvent_shadows (f : Flight) (code row n cause slot : Nat) : (s.rowEvent f code row n cause slot).shadows = s.shadows := by rw [State.rowEvent_frame]
@[simp] theorem State.rowEvent_rets (f : Flight) (code row n cause slot : Nat) : (s.rowEvent f code row n cause slot).rets = s.rets := by rw [State.rowEvent_frame]
@[simp] theorem State.rowEvent_stops (f : Flight) (code row n cause slot : Nat) : (s.rowEvent f code row n cause slot).stops = s.stops := by rw [State.rowEvent_frame]
@[simp] theorem State.rowEvent_yBlocks (f : Flight) (code row n cause slot : Nat) : (s.rowEvent f code row n cause slot).yBlocks = s.yBlocks := by rw [State.rowEvent_frame]
@[simp] theorem State.rowEvent_yLooks (f : Flight) (code row n cause slot : Nat) : (s.rowEvent f code row n cause slot).yLooks = s.yLooks := by rw [State.rowEvent_frame]
@[simp] theorem State.rowEvent_out (f : Flight) (code row n cause slot : Nat) : (s.rowEvent f code row n cause slot).out = s.out := by rw [State.rowEvent_frame]
@[simp] theorem State.rowEvent_gotten (f : Flight) (code row n cause slot : Nat) : (s.rowEvent f code row n cause slot).gotten = s.gotten := by rw [State.rowEvent_frame]
@[simp] theorem State.rowEvent_link (f : Flight) (code row n cause slot : Nat) : (s.rowEvent f code row n cause slot).link = s.link := by rw [State.rowEvent_frame]
@[simp] theorem State.rowEvent_arb (f : Flight) (code row n cause slot : Nat) : (s.rowEvent f code row n cause slot).arb = s.arb := by rw [State.rowEvent_frame]
@[simp] theorem State.rowEvent_sync (f : Flight) (code row n cause slot : Nat) : (s.rowEvent f code row n cause slot).sync = s.sync := by rw [State.rowEvent_frame]
@[simp] theorem State.rowEvent_power (f : Flight) (code row n cause slot : Nat) : (s.rowEvent f code row n cause slot).power = s.power := by rw [State.rowEvent_frame]
@[simp] theorem State.rowEvent_far (f : Flight) (code row n cause slot : Nat) : (s.rowEvent f code row n cause slot).far = s.far := by rw [State.rowEvent_frame]
@[simp] theorem State.rowEvent_test (f : Flight) (code row n cause slot : Nat) : (s.rowEvent f code row n cause slot).test = s.test := by rw [State.rowEvent_frame]
@[simp] theorem State.rowEvent_sorrel (f : Flight) (code row n cause slot : Nat) : (s.rowEvent f code row n cause slot).sorrel = s.sorrel := by rw [State.rowEvent_frame]
@[simp] theorem State.rowEvent_scrub (f : Flight) (code row n cause slot : Nat) : (s.rowEvent f code row n cause slot).scrub = s.scrub := by rw [State.rowEvent_frame]
@[simp] theorem State.rowEvent_quiesced (f : Flight) (code row n cause slot : Nat) : (s.rowEvent f code row n cause slot).quiesced = s.quiesced := by rw [State.rowEvent_frame]

end Sys2Proof.Machine
end

