-- ==== Sys2Proof/Tests/Slice0.lean ====
section
/-! SUPPORT. Tests: commands that are ill formed, the worked examples of the spec, and for each statement states and operands that meet its hypotheses. -/

namespace Sys2Proof.Tests

open Sys2Proof Sys2Proof.Machine

set_option Elab.async false

/-- What holds of the next state. -/
def after (o : Host.Outcome State Fault Refusal) (p : State → Bool) : Bool :=
  match o with
  | .next t => p t
  | _ => false

def snd0 : Sender := ⟨0, 0, 0, 0⟩

/-! Well-formed commands. -/

/-- A term for each check of `Instr.wf`, which the check refuses. -/
def illFormed : List Instr :=
  [.doorbell 32 (.put 0) snd0, .queueEnable 32 1 snd0, .queueEnable 0 2 snd0, .queueDisable 0 1 snd0, .queueDisable 32 0 snd0,
   .resume 0 1 snd0, .skip 0 1 snd0, .slotFetchArrival 32, .doorbell 0 (.block []) snd0, .doorbell 0 (.atom 256 0 0) snd0,
   .doorbell 0 (.put 0) ⟨0, 0, 0, 1⟩, .rcFieldRead 0 1 ⟨0, 0, 0, 2⟩, .registerWrite 0 (.block (List.replicate 33 0)) snd0, .lcReqWrite 0 false ⟨0, 0, 0, 3⟩, .sumSweep 0 [⟨3, 0, 0⟩], .decode 32, .screenInstr 32, .launchat 32, .repack 32, .screen 0 [⟨3, 0, 0⟩],
   .refineRound 0 1024 [] false, .refineRound 0 0 [⟨7, 0, 0⟩] false, .mismatchClear 0 snd0, .syncBarCup 8 true, .commitGo 0 snd0,
   .tableWindowWrite 0x104 0 snd0, .tableWindowWrite 0x200 0 snd0, .tableWindowWrite 0x10000 0 snd0, .psRelease 16 0 snd0, .psRelease 0 1 snd0, .psAdopt 0 0 snd0,
   .leaseAcquire 8192 0 0 snd0, .halterEntryWrite 0 14 (.put 0) snd0, .halterEntryWrite 0 16 (.put 0) snd0,
   .tenantKeyWrite 256 false 0 snd0, .arbCommit 0 snd0, .arbSnapshotApply 4, .eventRingEnable 0 snd0, .syncRegisterWrite 0x50 0 snd0,
   .paddockWindowAccess 4 none snd0, .paddockWindowAccess (2 ^ 24) none snd0, .powerRegisterWrite 0x280 0 snd0, .rcFieldRead 0 0 snd0,
   .rcFieldRead 0 33 snd0, .padRepair [2 ^ 22] false, .rspTimeout (.mc 16) 0, .rspTimeout .hport 4096]

def illFormed2 : List Instr :=
  [.sramPatrol (.planeRegion 16 0) true false 0, .sramPatrol (.rowCopy 0 0 0 1024) true false 0, .sramPatrol (.scoreStore 16 0 0 0 0 false) true false 0,
   .sramPatrol (.streamBuffer 0 0 0 ⟨3, 0, 0⟩) true false 0, .sramPatrol (.sidePartBias 16 0 0 0) true false 0,
   .sramPatrol (.sidePartMask 16 0 0) true false 0, .sramPatrol (.candidateStore 0 0 0 [1024]) true false 0, .sramPatrol (.laneCopy 16 0) true false 0,
   .sramPatrol (.clusterFixed 16 0) true false 0, .sramPatrol (.selMaster 2 0) true false 0, .sramPatrol (.selFixed 0 0 1024) true false 0,
   .sramPatrol (.digestLog (2 ^ 24)) true false 0, .sramPatrol (.emitBuffer 0 0 1024) true false 0,
   .sramPatrol (.requestTable 8192 0) true false 0, .sramPatrol (.historyCache 0 256) true false 0, .sramPatrol (.maskStore 64 0) true false 0,
   .sramPatrol (.paramStore 0 1024 0) true false 0, .sramPatrol (.working 8192 0) true false 0, .sramPatrol (.tenantKey 256 0) true false 0,
   .sorrelReseed 16 0 0 0, .sorrelReseed 0 160 0 0, .hResponse 4096 0 false 0 [], .hResponse 0 7 false 0 [], .hResponse 0 0 false 0 (List.replicate 33 0), .hResponse 0 0 false 4 [], .wsBypass 5,
   .scoreq 0 [⟨3, 0, 0⟩] false, .klref 0 [⟨3, 0, 0⟩] false, .grad 0 [⟨3, 0, 0⟩], .gradTransposedPass 0 [⟨3, 0, 0⟩], .mergeRoundComplete 0 [⟨3, 0, 0⟩] false,
   .clusterTest 0 0 false false [2 ^ 22] snd0,
   .mcReadResponse 0 0 0 [] .good, .mcReadResponse 0 0 64 (List.replicate 128 0) .good, .mcReadResponse 16 0 0 (List.replicate 128 0) .good,
   .mcWriteAck 16 0 0, .mcWriteAck 0 1024 0, .mcWriteAck 0 0 7, .mcOrdAck 16, .capReceive (.mc 16) 0 0 0, .modeAckReceive 3, .creditInitReceive 1 0 0, .creditReturn 1 0 0, .creditReturn 0 4 0, .creditReturn 0 0 16, .linkFault ⟨[], 4, 0, 0, 0, 0⟩ 0 0,
   .linkFault ⟨List.replicate 9 0, 0, 0, 0, 0, 0⟩ 0 0, .linkFault ⟨[], 0, 0, 4, 0, 0⟩ 0 0, .linkFault ⟨[], 0, 0, 0, 0, 0⟩ 18 0,
   .pdCommit 0 snd0, .pdAck 20 true, .pdAckBudgetExceeded 20, .clusterRecovery 20 [], .supplyWarning 3, .thermalSample [],
   .ieee1687Access .tsense 16 .trace, .ieee1687Access .vsense 3 .trace, .ieee1687Access .biststat 20 .trace, .ieee1687Access .fuseread 16 .trace,
   .ieee1687Access .bridle 0 (.readGranule (2 ^ 48)), .ieee1687Access .bridle 0 (.writeBytes 0 [])]

theorem test_wf_refuses : (illFormed ++ illFormed2).all (fun c => !c.wf) = true := by decide +kernel

theorem test_wf_accepts : ([.doorbell 31 (.put 0) snd0, .slotFetchArrival 31, .registerWrite 0 (.block (List.replicate 32 0)) ⟨0, 0, 0, 2⟩, .linkFault ⟨List.replicate 8 0, 3, 0, 3, 3, 15⟩ 17 3, .tableWindowWrite 0xFFF8 0 snd0,
    .refineRound 0 1023 [⟨2, 0, 0⟩, ⟨6, 0, 0⟩] true, .halterEntryWrite 8191 15 (.put 0) snd0, .sorrelReseed 15 159 0 0,
    .mcReadResponse 15 1023 256 (List.replicate 256 0) .pois, .thermalSample (List.replicate 16 0)] : List Instr).all (·.wf) = true := by decide +kernel

/-! Worked examples of the spec. -/

/-- Chapter 01, one group of an RS-A token: the three planes on the grid, the scores and the interval. -/
theorem test_group_planes : placeOnGrid (-14848) (-15) 25 = -14848 * 2 ^ 110 ∧ placeOnGrid 18304 (-17) 25 = 18304 * 2 ^ 108 ∧
    placeOnGrid (-224512) (-25) 25 = -224512 * 2 ^ 100 ∧ scoreOfSum (-14848 * 2 ^ 110) 25 = 0xBEE80000 ∧
    scoreOfSum (-14848 * 2 ^ 110 + 18304 * 2 ^ 108 + -224512 * 2 ^ 100) 25 = rne32 ⟨-41965, 2 ^ 17⟩ := by decide +kernel

theorem test_group_interval : normUp 7680 = 7680 ∧ (Frac.scaled 7680 (-14 + 23)).ceil = 3932160 ∧
    halfWidth 0xBEE80000 3932161 25 = ru32 ⟨3932162, 2 ^ 23⟩ := by decide +kernel

/-- Chapter 01, the operands of the example: E4M3 activations and FP4 elements. -/
theorem test_group_operands : [0x38, 0x42, 0xB4, 0x48, 0x30, 0xBA, 0x44, 0xC0].map (hiddenInt .e4m3) =
      [some 512, some 1280, some (-384), some 2048, some 256, some (-640), some 1536, some (-1024)] ∧
    [3, 9, 5, 0, 12, 7, 10, 1].map fp4Int = [3, -1, 6, 0, -4, 12, -2, 1] := by decide +kernel

/-- R21: the check value. -/
theorem test_crc_check : crc32c [0x31, 0x32, 0x33, 0x34, 0x35, 0x36, 0x37, 0x38, 0x39] = 0xE3069283 := by decide +kernel

/-- Chapter 05, one token of a SERVE row: z0, z and the interval through the eight steps. -/
def servePath : PathIn :=
  { fuse := some (0x3F400000, 0xBF000000), softcap := 0, bias := some 0x3FC00000, rho := 0x3FA00000, alpha := 0x3E800000
    phi := 0x3E000000, count := 3, masked := false, invT := 0x3FA00000, compat := false }

theorem test_serve_path : scorePath servePath (startGroup 0x41080000 0x3E800000) = ⟨0x40D30000, 0x40CD0000, 0x40D90000⟩ ∧
    scoreOne servePath 0x410A0000 = 0x40D60000 ∧
    step6r servePath (step5 servePath (step3 servePath 0x41080000)) = 0x40BCCCCD := by decide +kernel

/-- Chapter 08, a rejection decided by one unit, and the residual token. -/
def kt (id w : Nat) : KTok := { tok := { (default : Tok) with id := id }, klo := 0, khi := 0, dn := w, up := w }
def rejection : SpecIn :=
  { x := 9001, entries := [(77, 2 ^ 62), (4400, 2 ^ 63), (9001, 2 ^ 63)], sigma := 5 * 2 ^ 62, aAcc := 0xA00000, aRes := 0x400000 }

theorem test_spec_rejection : specTest rejection (fun _ => true) [kt 12 (2 ^ 62), kt 4400 (2 ^ 63), kt 9001 (2 ^ 62)] = .emit 12 ∧
    specTest { rejection with aAcc := 0x9FFFFF } (fun _ => true) [kt 12 (2 ^ 62), kt 4400 (2 ^ 63), kt 9001 (2 ^ 62)] = .accept := by
  decide +kernel

/-- Chapter 13, the eleven slots of an RS-A rollout step, with the LAUNCHAT before it. -/
def rolloutSlots : List Slot :=
  [0x00000000000000000000123400000010, 0x00000000500000000000000001000011, 0x00000000600000000000001100400012,
   0x00000000000000003F40000000000022, 0x00000000000000000000000000000029, 0x000000007F8000000000000000000026,
   0x00000000000000000000000000001020, 0x00000000000000000000000000100021, 0x00000000000000000000000000000028,
   0x0000000050001000000000000000002F, 0x0000000050002000000000000000001F]

theorem test_rollout_slots : stepChecks rolloutSlots = some (.ok rolloutSlots) ∧ slotInstr 0x00000000009896800000000000000040 = .launchat 10000000 ∧
    progOf (rolloutSlots.map slotInstr) = { emptyProg with
      stepId := 0x1234, rows := 256, slotAddr := 0x50000000, hdim := 64, stride := 17, hidAddr := 0x60000000, psid := 0, prec := 1, k := 16
      fuse := some (0x3F400000, 0), gumbel := true, temp := some (false, 0, 0x7F800000), tv := 0x50001000, cpl := 0x50002000 } := by
  decide +kernel

/-- The plane set of RS-A on DXQ4-16. -/
def rsA (n : Nat) : PlaneView :=
  { (default : PlaneView) with vHi := 65536, hd := 64, res0 := true, res1 := true, placed := List.range n }
def rolloutProg : StepProg := { progOf (rolloutSlots.map slotInstr) with k := 4 }

/-- Chapter 16, a COLLECTED rollout frame on two grades: T_C for L_C = 4,218. -/
theorem test_collected_counts : collectedCount rolloutProg (rsA 16) none (List.range 16) false 16 4218 = 40842 ∧
    collectedCount rolloutProg (rsA 12) none (List.range 12) false 12 4218 = 52154 ∧
    slotWait [(1, 256), (8, 768)] 213 = some 981 := by decide +kernel

/-- Chapter 03, the RS-A screen: group passes, blocks, array and pipeline terms. -/
theorem test_screen_terms : (stepDeal (rsA 16) (List.range 16) 256).block = 2048 ∧ ownedTokens (rsA 16) (stepDeal (rsA 16) (List.range 16) 256) = 4096 ∧
    arrTerm (stepDeal (rsA 16) (List.range 16) 256) false false false = 32768 ∧ pipeTerm 256 4096 false = 16384 ∧
    sweepCycles rolloutProg (rsA 16) (List.range 16) = 2048 ∧ screenTime 32768 16384 0 = 32928 := by decide +kernel

/-- R462, the rollout of RS-A: 6,912 µJ. -/
theorem test_energy : stepEnergy { rolloutProg with k := 16 } (rsA 16) none (List.range 16) = 6912 := by decide +kernel

/-! States and operands that meet the hypotheses of the statements. -/

/-- The state after a command. -/
def go (s : State) (c : Instr) : State :=
  match exec c s with
  | .next t => t
  | _ => s

/-- The link is up. -/
def up : State := State.reset.setF fLSTATE 3
/-- A request of any sender is served as it stands: the link is up, and epochs are not compared. -/
def hears (s : State) : Bool := s.served && !s.flag fTK_EPOCHS

theorem heard_of {s : State} (h : hears s = true) (snd : Sender) : Heard s snd s := by
  simp only [hears, Bool.and_eq_true, Bool.not_eq_true'] at h
  simp [Heard, State.epochCheck, h.1, h.2]

/-- The shape of a state, as a test. -/
def shaped (s : State) : Bool :=
  s.queues.length == 32 && s.masks.length == 64 && s.placed.length == 16 && s.laneTags.length == 16 && s.arb.pend.length == 4 &&
  s.arb.eff.length == 4 && s.sync.cup.length == 8 && s.link.hdr.length == 3 && s.link.dat.length == 3 && s.power.tags.length == 20 &&
  s.power.pdReq.length == 20 && s.power.pdRet.length == 20 && s.power.pdAck.length == 20 && s.power.hotUs.length == 16 &&
  s.link.mcReq.length == 16 && s.link.mcData.length == 16 && s.link.mcRet.length == 16 && s.test.bist.length == 20 && s.trims.length == 8 &&
  s.far.sorrelOff.length == 16

theorem shaped_of {s : State} (h : shaped s = true) : Shaped s := by
  simp only [shaped, Bool.and_eq_true, beq_iff_eq] at h
  obtain ⟨⟨⟨⟨⟨⟨⟨⟨⟨⟨⟨⟨⟨⟨⟨⟨⟨⟨⟨a, b⟩, c⟩, d⟩, e⟩, f⟩, g⟩, i⟩, j⟩, k⟩, l⟩, m⟩, n⟩, o⟩, p⟩, q⟩, r⟩, t⟩, u⟩, v⟩ := h
  exact ⟨a, b, c, d, e, f, g, i, j, k, l, m, n, o, p, q, r, t, u, v⟩

/-- StepsKeepStoresCanonical, StepsKeepTheShape, AtMostFourStepsInFlight, FusesOnlyGainBits, CommandsAnswerAndLeaveTheQueue, StepRunsFrontCommand. -/
def waiting : State := { up with pending := [.queueEnable 3 5 snd0, .syncTick] }
theorem witness_canonical : Canonical waiting := by constructor <;> decide +kernel
theorem witness_steps : shaped waiting = true ∧ waiting.flights.length ≤ 4 ∧ waiting.lc ≠ 0 ∧ waiting.lc ≠ 1 ∧ State.reset.pending = [] ∧
    after (step waiting) (fun t => t.pending == [.syncTick] && t.qEn 3 && t.getF (fQ_STATE 3) == 1) = true := by decide +kernel

/-- SealIsCrc32cOfTheRecord, GroupNormsRoundUpToEightBits, DraftTokenAcceptedByExactTest, ExtendedRecordAddsTwelvePairs. -/
theorem witness_formats : 64 ≤ (List.replicate 64 (7 : Byte)).length ∧ sealOk (sealRecord (List.replicate 64 7)) = true ∧
    normUp 255 = 255 ∧ normUp 256 = 256 ∧ normUp 8191 = 8192 ∧ normUp 8000 = 8000 ∧ (0 : Nat) < 2 * 1 ∧
    (∀ k ∈ [kt 12 (2 ^ 62), kt 9001 (2 ^ 62)], k.dn = k.up) ∧ (11 : Nat) < 12 := by decide +kernel

/-- UnheardRequestsHaveNoEffect. -/
theorem witness_unheard : State.reset.served = false ∧
    (let s := ({ up with link := { up.link with epochs := [(5, 3)] } } : State).setF fTK_EPOCHS 1
     let snd : Sender := ⟨5, 2, 0, 0⟩
     s.served = true ∧ s.flag fTK_EPOCHS = true ∧ snd.aepoch ≠ 0 ∧
     2 ^ 15 ≤ (2 ^ 16 + snd.aepoch.toNat - (s.epochOf snd.agent.toNat).toNat) % 2 ^ 16) := by decide +kernel

/-- GctlWriteTakesAllButEmu3Alone: refused, and taken. -/
theorem witness_gctl : hears up = true ∧ (8 : Word64).getLsbD 3 = true ∧ (8 : Word64).getLsbD 2 = false ∧
    after (exec (.gctlWrite 8 snd0) up) (fun u => u.resp == some ⟨rACCESS, []⟩ && !u.flag fEMU3) = true ∧
    (12 : Word64).getLsbD 2 = true ∧ after (exec (.gctlWrite 12 snd0) up) (fun u => u.flag fEMU3 && u.flag fCOMPAT && !u.gait) = true := by
  decide +kernel

/-- DoorbellMovesTailOrOverruns, at queue 31 with a ring of 16 slots: 16 fit, 17 do not. -/
def on31 : State := (up.setF (fQ_EN 31) 1).setF (fQ_STATE 31) 1
theorem witness_doorbell : hears up = true ∧ up.qEn 31 = false ∧ hears on31 = true ∧ on31.qEn 31 = true ∧ on31.getF (fQ_GEN 31) = 2 ∧
    (2 ^ 32 + 16 % 2 ^ 32 - on31.getF (fQ_HEAD 31)) % 2 ^ 32 ≤ 2 ^ on31.getF (fQ_ORDER 31) ∧ on31.halted 31 = false ∧
    2 ^ on31.getF (fQ_ORDER 31) < (2 ^ 32 + 17 % 2 ^ 32 - on31.getF (fQ_HEAD 31)) % 2 ^ 32 ∧
    after (exec (.doorbell 31 (.put 16) snd0) on31) (fun u => u.getF (fQ_TAIL 31) == 16 && u.getF (fQ_STATE 31) == 2) = true ∧
    after (exec (.doorbell 31 (.put 17) snd0) on31) (fun u => u.getF (fQ_TAIL 31) == 0 && u.getF (fQ_HALT 31) == 4) = true := by decide +kernel
theorem witness_doorbell_atoms :
    after (exec (.doorbell 31 (.atom 1 16 0) snd0) on31) (fun u => u.getF (fQ_TAIL 31) == 16 && u.resp == some ⟨rOK, [0]⟩) = true ∧
    after (exec (.doorbell 31 (.atom 2 0 9) snd0) on31) (fun u => u.getF (fQ_TAIL 31) == 9) = true ∧
    after (exec (.doorbell 31 (.block [5]) snd0) on31) (fun u => u.getF (fQ_TAIL 31) == 5) = true ∧ (on31.setF fTK_MODE 1).getF fTK_MODE ≠ 0 ∧
    after (exec (.doorbell 31 (.atom 3 7 0) snd0) (on31.setF fTK_MODE 1)) (fun u => u.getF (fQ_TAIL 31) == 7) = true ∧
    after (exec (.doorbell 31 (.atom 3 7 0) snd0) on31) (fun u => u.getF (fQ_TAIL 31) == 0 && u.resp == some ⟨rUNSUP, []⟩) = true := by decide +kernel

/-- QueueAttributeWritesStartStopRestart. -/
def busy31 : State := on31.setF (fQ_STATE 31) 2
def halted31 : State := on31.setF (fQ_STATE 31) 4
theorem witness_queue_attr : hears up = true ∧ up.mayEnable = true ∧ getBits (5 : Word64) 1 2 ≤ 2 ∧ up.qEn 31 = false ∧
    on31.getF (fQ_STATE 31) = 1 ∧ on31.inflightOf 31 = [] ∧ halted31.halted 31 = true ∧ busy31.halted 31 = false ∧ busy31.getF (fQ_STATE 31) ≠ 1 ∧
    busy31.qEn 31 = true ∧ hears halted31 = true ∧ halted31.qEn 31 = true ∧
    (0x10001 : Word64).getLsbD 16 = true ∧ (0x10001 : Word64).getLsbD 17 = false ∧ (0x20001 : Word64).getLsbD 17 = true ∧
    after (exec (.queueEnable 31 5 snd0) up) (fun u => u.qEn 31 && u.getF (fQ_STATE 31) == 1) = true ∧
    after (exec (.queueDisable 31 0 snd0) on31) (fun u => !u.qEn 31) = true ∧
    after (exec (.queueDisable 31 0 snd0) busy31) (fun u => u.qEn 31 && u.resp == some ⟨rACCESS, []⟩) = true ∧
    after (exec (.resume 31 0x10001 snd0) halted31) (fun u => !u.halted 31) = true ∧
    after (exec (.skip 31 0x20001 snd0) halted31) (fun u => !u.halted 31) = true := by decide +kernel

/-- EntryAccessesGoThroughTheLease, LeasesAreTakenReleasedAndBroken, at slot 8191 for agent 7. -/
def snd7 : Sender := ⟨7, 0, 9, 0⟩
def leaseWord : Word64 := 0x8000000000000007
def leased : State := go up (.leaseAcquire 8191 0 leaseWord snd7)
theorem witness_lease : hears up = true ∧ up.power.asleep = false ∧ up.held 8191 = false ∧ getBits leaseWord 63 1 = 1 ∧ getBits leaseWord 48 15 = 0 ∧
    getBits leaseWord 0 16 = snd7.agent.toNat ∧ getBits leaseWord 16 16 = (up.epochOf snd7.agent.toNat).toNat ∧ up.shadows.length < 64 ∧
    hears leased = true ∧ leased.held 8191 = true ∧ leased.holder 8191 snd7 = true ∧ leased.holder 8191 snd0 = false ∧ (leased.shadow 8191).isSome = true ∧
    after (exec (.halterEntryWrite 8191 15 (.put 5) snd7) leased) (fun u => u.resp == some ⟨rOK, []⟩) = true ∧
    after (exec (.halterEntryWrite 8191 15 (.put 5) snd0) leased) (fun u => u.resp == some ⟨rACCESS, []⟩) = true ∧
    after (exec (.leaseRelease 8191 snd7) leased) (fun u => !u.held 8191) = true ∧
    after (exec (.leaseDiscard 8191 snd7) leased) (fun u => !u.held 8191 && u.shadows.isEmpty) = true ∧
    after (exec (.leaseTimeout 8191) leased) (fun u => !u.held 8191) = true := by decide +kernel

/-- TenantKeysChainAndReportBlocks: a key written while nothing names the tenant, a live entry that names it, and Yarrow's blocks and lookups. -/
def named : State := (up.setF (fE_STATE 3) 2).setF (fE_TENANT 3) 239
theorem witness_tenant : hears up = true ∧ (up.liveSlots.all fun k => up.getF (fE_TENANT k) != 239) = true ∧ hears named = true ∧
    (named.liveSlots.any fun k => named.getF (fE_TENANT k) == 239) = true ∧
    (up.setF fKEYWIN 1).flag fKEYWIN = true ∧
    after (exec (.tenantKeyWrite 239 true 77 snd0) up) (fun u => u.reg (kYKEY 239 1) == 77) = true ∧
    after (exec (.tenantKeyWrite 239 true 77 snd0) named) (fun u => u.resp == some ⟨rACCESS, []⟩) = true := by decide +kernel

def yb (h : Nat) : YBlock := { slot := 3, key := 0x2A17, handle := false, block := 0, first := 0, yblk := 0, hash := h, skip := false }
def yBusy : State := { named with yBlocks := [yb 0] }
def yKeyed : State := yBusy.setReg (kYKEY 239 0) 5
/-- A report ring of 16 records at 0x4000, the directory's group at 0x8000 asked for, and its 64 bytes in host memory. -/
def yOut : Outstanding := { port := .hport, tag := 0, addr := 0x8000, len := 64, why := .yarrow 3 0, hdr := default, wait := none }
def yLook (last : Nat) : State := { ((named.setF fYR_BASE 0x4000).putMem 0x8000 (leBytes 8 1 ++ leBytes 40 0 ++ leBytes 8 last ++ leBytes 8 0x77)) with yLooks := [yb 9], out := [yOut] }
def yFull : State := (yLook 9).setF fYR_PROD (2 ^ (yLook 9).getF fYR_ORDER)
theorem witness_yarrow : yBusy.nextBlock = some (yb 0) ∧ yBusy.yLooks.length < 256 ∧ yBusy.keySet 239 = false ∧ yKeyed.nextBlock = some (yb 0) ∧
    yKeyed.keySet (yKeyed.getF (fE_TENANT 3)) = true ∧ yKeyed.portUp (yKeyed.portOf (yKeyed.yGroup 7)) = true ∧
    after (exec .yarrowBlock yKeyed) (fun u => u.yLooks.length == 1 && u.out.any fun o => o.len == 64 && o.why == .yarrow 3 0) = true ∧
    after (exec .yarrowBlock yBusy) (fun u => u.getF fYR_SKIP == 1) = true ∧
    256 ≤ ({ yKeyed with yLooks := List.replicate 256 (yb 9) } : State).yLooks.length ∧
    ({ yKeyed with yLooks := List.replicate 256 (yb 9) } : State).yBlocks.length < 4096 := by decide +kernel
def yMany : State := { yKeyed with yLooks := List.replicate 256 (yb 9), yBlocks := List.replicate 4096 (yb 0) }
theorem same_blocks (s : State) (b : YBlock) (n : Nat) :
    (List.replicate n b).foldl (fun b x => match b with
      | none => some x
      | some y => if s.getF (fE_EPRIO y.slot) < s.getF (fE_EPRIO x.slot) then some x else some y) (some b) = some b := by
  induction n with
  | zero => rfl
  | succ n h => simpa [List.replicate_succ] using h
theorem witness_yarrow_skip : yMany.nextBlock = some (yb 0) ∧ 256 ≤ yMany.yLooks.length ∧ 4096 ≤ yMany.yBlocks.length := by
  refine ⟨?_, (List.length_replicate (n := 256) (a := yb 9)).ge, (List.length_replicate (n := 4096) (a := yb 0)).ge⟩
  rw [State.nextBlock, show yMany.yBlocks = yb 0 :: List.replicate 4095 (yb 0) from rfl, List.foldl_cons]
  exact same_blocks _ _ _
theorem witness_yarrow_report : (yLook 9).out.find? (fun o => o.why == .yarrow (yb 9).slot (yb 9).block && o.wait.isNone) = some yOut ∧
    ((yLook 9).granules 0x8000 64).all (fun g => g.2 == .good) = true ∧ leNat ((yLook 9).memAt (0x8000 + 16 * 3) 8) = 9 ∧
    (∀ k, k < 3 → leNat ((yLook 9).memAt (0x8000 + 16 * k) 8) ≠ 9) ∧ (∀ k, k < 4 → leNat ((yLook 7).memAt (0x8000 + 16 * k) 8) ≠ 9) ∧
    (∀ m ∈ (yLook 9).messages none true 0x4000 32, (yLook 9).portUp m.1 = true) ∧ (yLook 7).flag fYMISS = false ∧
    (yLook 9).getF fYR_PROD - (yLook 9).getF fYR_CONS ≠ 2 ^ (yLook 9).getF fYR_ORDER ∧
    yFull.getF fYR_PROD - yFull.getF fYR_CONS = 2 ^ yFull.getF fYR_ORDER ∧ yFull.yLooks = [yb 9] ∧
    after (exec .yarrowReport (yLook 9)) (fun u => u.getF fYR_PROD == 1 && u.memAt (0x4000 + 24) 8 == leBytes 8 0x77) = true ∧
    after (exec .yarrowReport (yLook 7)) (fun u => u.getF fYR_PROD == 0 && u.yLooks.isEmpty) = true ∧
    after (exec .yarrowReport yFull) (fun u => u.getF fYR_DROP == 1) = true := by decide +kernel

/-- TableWindowAndCommitGoReachTheShadow. -/
def closed : State := up.setF fSHADOW_ST 1
theorem witness_tables : hears up = true ∧ up.power.asleep = false ∧ windowWord 0xFFF8 = true ∧ windowWord 0x100 = true ∧ up.shadowOpen = true ∧
    hears closed = true ∧ closed.shadowOpen = false ∧
    after (exec (.tableWindowWrite 0xFFF8 3 snd0) up) (fun u => u.bankWord u.shadowBank 0xFFF8 == 3) = true ∧
    after (exec (.tableWindowWrite 0xFFF8 3 snd0) closed) (fun u => u.getF fWREJ == 1) = true ∧
    after (exec (.commitGo 1 snd0) up) (fun u => u.getF fSHADOW_ST == 1) = true ∧
    after (exec (.commitGo 1 snd0) closed) (fun u => u.resp == some ⟨rACCESS, []⟩) = true := by decide +kernel

/-- PlaneSetReleaseAndAdopt. -/
def readySet : State := up.setF (fPS_STATE 15) 2
theorem witness_plane_set : hears readySet = true ∧ 2 ≤ readySet.getF (fPS_STATE 15) ∧ readySet.users 15 = 0 ∧ readySet.repackPending 15 = false ∧
    hears up = true ∧ up.getF (fPS_STATE 15) = 0 ∧ getBits (2 : Word64) 0 3 = 2 ∧
    after (exec (.psRelease 15 0 snd0) readySet) (fun u => u.getF (fPS_STATE 15) == 0) = true ∧
    after (exec (.psAdopt 15 2 snd0) up) (fun u => u.getF (fPS_STATE 15) == 0 && u.resp == some ⟨rOK, []⟩) = true := by decide +kernel

/-- ArbiterCommitsAndModesByGroup. -/
def arbTable : State := (up.setF (fSLOT_REQ 0) 8).setF (fSLOT_LEN 0) 768
def arbPend : State := go arbTable (.arbCommit 1 snd0)
theorem witness_arbiter : hears arbTable = true ∧ shaped arbTable = true ∧ arbTable.getF (fSLOT_LEN 0) ≠ 0 ∧
    (((List.range 64).takeWhile fun n => arbTable.getF (fSLOT_LEN n) != 0).all fun n => decide (arbTable.getF (fSLOT_REQ n) ≤ 8)) = true ∧
    shaped arbPend = true ∧ (arbPend.arb.pend.getD 3 none).isSome = true ∧ (up.setF fGAIT 1).getF (fARB_MODE 3) ≠ (up.setF fGAIT 1).getF fGAIT ∧
    after (exec (.arbSnapshotApply 3) arbPend) (fun u => u.getF (fARB_CEPOCH 3) == 1 && u.arb.pend.getD 3 none == none && u.arb.pend.getD 2 none != none) = true ∧
    after (exec (.arbModeChange 3) (up.setF fGAIT 1)) (fun u => u.getF (fARB_MODE 3) == 1) = true := by decide +kernel

/-- HostWindowAndEventRingSettings: the writes 1 and 3 of the example of chapter 15, and a ring outside. -/
def windowed : State := go up (.tkHmwinWrite 0x114F80000 snd0)
def ringBase : State := windowed.setF fEV_BASE 0x7F000000
theorem witness_window : hears up = true ∧ getBits (0x114F80000 : Word64) 30 4 ≤ 8 ∧
    getBits (0x114F80000 : Word64) 0 18 + getBits (0x114F80000 : Word64) 18 12 ≤ 2 ^ 18 ∧ up.flights = [] ∧ up.repack = none ∧ up.repackQ = [] ∧
    up.maskJobs = [] ∧ (∀ q, q < 32 → up.getF (fQ_STATE q) ≠ 2 ∧ up.getF (fQ_STATE q) ≠ 3) ∧ up.flag fEV_EN = false ∧
    windowed.getF fBASE_G = 0 ∧ windowed.getF fSIZE_G = 1342 ∧ windowed.getF fILV = 4 ∧
    hears ringBase = true ∧ (0x10C : Word64).getLsbD 8 = true ∧ ringBase.flag fEV_EN = false ∧
    ringInside (ringBase.getF fEV_BASE) 12 (ringBase.getF fBASE_G) (ringBase.getF fSIZE_G) = true ∧ ringBase.power.bistBad = [] ∧
    ringInside (up.getF fEV_BASE) 12 (up.getF fBASE_G) (up.getF fSIZE_G) = false ∧
    after (exec (.eventRingEnable 0x10C snd0) ringBase) (fun u => u.flag fEV_EN && u.getF fEV_ORDER == 12) = true ∧
    after (exec (.eventRingEnable 0x10C snd0) up) (fun u => !u.flag fEV_EN && u.resp == some ⟨rACCESS, []⟩) = true := by decide +kernel
theorem witness_window_busy : hears { up with flights := [default] } = true ∧ ({ up with flights := [default] } : State).flights ≠ [] ∧
    after (exec (.tkHmwinWrite 0x114F80000 snd0) { up with flights := [default] }) (fun u => u.getF fSIZE_G == 0) = true := by decide +kernel

/-- SyncRegisterWritesAndDigestDelivery. -/
def inflight : State := { up with flights := [default] }
def barWait : State := { up with sync := { up.sync with cur := some 1 }, flights := [{ (default : Flight) with hold := some ⟨.barrier 1, false, 0⟩ }] }
/-- Flight 0 waits for the peer's digest, over a log of `n` entries. -/
def comparing (n : Nat) (b : Option (Nat × Nat × Nat)) : State :=
  { up with flights := [{ (default : Flight) with digLo := 1, digHi := 2 }],
            sync := { up.sync with cmpLn := some 0, log := List.replicate n 7, bisect := b } }
theorem witness_sync : hears up = true ∧ getBits (5 : Word64) 1 2 ≤ 2 ∧ up.barrierWaits = false ∧ inflight.flights ≠ [] ∧ hears inflight = true ∧
    up.flights = [] ∧ up.sync.cmpLn = none ∧
    after (exec (.syncRegisterWrite 0x10 5 snd0) up) (fun u => u.flag fBAR_EN && u.getF fBAR_ROLE == 2) = true ∧
    after (exec (.syncRegisterWrite 0x20 3 snd0) inflight) (fun u => !u.flag fLS_EN) = true ∧
    after (exec (.syncRegisterWrite 0x30 512 snd0) up) (fun u => u.getF fDIGEST_PEER == 512) = true ∧
    after (exec (.syncRegisterWrite 0 9 snd0) up) (fun u => u.gc == 0) = true ∧
    after (exec (.digestDelivery 1 2 snd0) up) (fun u => u.sync.delivered && u.reg 0x5048 == 2) = true ∧
    after (exec (.mismatchClear 1 snd0) (up.setF fMISMATCH 1)) (fun u => !u.mismatch) = true := by decide +kernel

theorem witness_delivery : hears (comparing 2 none) = true ∧ (comparing 2 none).flight 0 = some { (default : Flight) with digLo := 1, digHi := 2 } ∧
    (comparing 2 none).sync.bisect = none ∧ 1 < (comparing 2 none).sync.log.length ∧ (comparing 1 none).sync.log.length ≤ 1 ∧
    (comparing 2 (some (0, 2, 1))).sync.bisect ≠ none ∧ barWait.barrierWaits = true ∧ hears barWait = true ∧
    after (exec (.digestDelivery 1 2 snd0) (comparing 2 none)) (fun u => u.sync.cmpLn == none && !u.mismatch && u.flights.all (·.digested)) = true ∧
    after (exec (.digestDelivery 1 3 snd0) (comparing 2 none)) (fun u => u.mismatch && u.getF fFIRST_TILE == 0xFFFFFF) = true ∧
    after (exec (.digestDelivery 3 2 snd0) (comparing 2 none)) (fun u => u.sync.bisect == some (0, 2, 1)) = true ∧
    after (exec (.digestDelivery 3 2 snd0) (comparing 1 none)) (fun u => u.mismatch && u.getF fFIRST_TILE == 0) = true ∧
    after (exec (.digestDelivery 3 2 snd0) (comparing 2 (some (0, 2, 1)))) (fun u => u.sync.delivered && u.sync.bisect == some (0, 2, 1)) = true ∧
    after (exec (.syncRegisterWrite 0x10 5 snd0) barWait) (fun u => !u.flag fBAR_EN && u.resp == some ⟨rACCESS, []⟩) = true := by decide +kernel

/-- PaddockWindowWritesAndReads: open with `WEN` on a development part, shut on a production part, and a set's region. -/
def opened : State := { (up.setF fPDW_WEN 1).setF fCL_SVC 1 with fuses := 0b111000 }
def regioned : State := { (opened.setF (fPS_STATE 15) 2).setF (fPS_PDLEN 15) 1 with placed := up.placed.set 15 [0] }
theorem witness_paddock : hears opened = true ∧ opened.power.asleep = false ∧ opened.flag fPDW_WEN = true ∧ opened.padShut = false ∧
    opened.regionAt opened.padCluster (opened.padByte 0x1FFFFF8) = none ∧ opened.worksIn opened.padCluster = false ∧ hears up = true ∧ up.padShut = true ∧
    regioned.padShut = false ∧ regioned.regionAt regioned.padCluster (regioned.padByte (0x1000000 + 65528)) = some 15 ∧
    regioned.padBad regioned.padCluster (regioned.padByte (0x1000000 + 65528)) 8 = false ∧
    after (exec (.paddockWindowAccess 0xFFFFF8 (some 5) snd0) opened) (fun u => u.padAt 0 (u.padByte 0x1FFFFF8) 8 == leBytes 8 5) = true ∧
    after (exec (.paddockWindowAccess 65528 none snd0) regioned) (fun u => u.resp == some ⟨rOK, [0]⟩) = true ∧
    after (exec (.paddockWindowAccess 0 none snd0) up) (fun u => u.resp == some ⟨rACCESS, [0]⟩) = true := by decide +kernel

/-- ... and of a set that is being built, a damaged word, a word that the window has left, and one that a launch may have used. -/
def building15 : State := regioned.setF (fPS_STATE 15) 1
def damaged15 : State := { regioned with bad := [.planeRegion regioned.padCluster (regioned.padByte (0x1000000 + 65528) / 8)] }
def used0 : State := { opened with nextLn := 1 }
theorem witness_paddock_words : hears building15 = true ∧ building15.padShut = false ∧
    building15.regionAt building15.padCluster (building15.padByte (0x1000000 + 65528)) = some 15 ∧ building15.getF (fPS_STATE 15) = 1 ∧
    damaged15.padShut = false ∧ damaged15.padBad damaged15.padCluster (damaged15.padByte (0x1000000 + 65528)) 8 = true ∧
    after (exec (.paddockWindowAccess 65528 none snd0) damaged15) (fun u => u.resp == some ⟨rDATA, [0]⟩) = true ∧
    hears used0 = true ∧ used0.padShut = false ∧ used0.regionAt used0.padCluster (used0.padByte 0x1FFFFF8) = none ∧ used0.padFresh = [] ∧ opened.nextLn = 0 ∧
    used0.padBad used0.padCluster (used0.padByte 0x1FFFFF8) 8 = false ∧
    padKey used0.padCluster (used0.padByte 0x1FFFFF8) ∈ (go used0 (.paddockWindowAccess 0xFFFFF8 (some 5) snd0)).padFresh ∧
    after (exec (.paddockWindowAccess 65528 (some 5) snd0) building15) (fun u => u.resp == some ⟨rACCESS, []⟩) = true ∧
    after (exec (.paddockWindowAccess 0xFFFFF8 none snd0) (go used0 (.paddockWindowAccess 0xFFFFF8 (some 5) snd0))) (fun u => u.resp == some ⟨rOK, [5]⟩) = true := by
  decide +kernel

/-- DomainCommitAppliesAllTargetsOrNone: no target changes; a target of PD_HAL. -/
def allOn : State := (List.range 20).foldl (fun s n => s.setF (fPSTATE n) 0) up
def retCommit : State := allOn.setF (fPD_TARGET 3) 1
theorem witness_pd_commit : hears retCommit = true ∧ retCommit.power.asleep = false ∧ retCommit.commitBad retCommit.targets = false ∧
    (∀ n, n < 20 → retCommit.pstate n = 0) ∧ (retCommit.setF (fPD_TARGET 18) 1).getF (fPD_TARGET 18) ≠ 0 ∧
    after (exec (.pdCommit 1 snd0) retCommit) (fun u => u.flag fPD_BUSY && u.power.moves == [(3, 1)]) = true ∧
    after (exec (.pdCommit 1 snd0) (retCommit.setF (fPD_TARGET 18) 1)) (fun u => !u.flag fPD_BUSY && u.resp == some ⟨rACCESS, []⟩) = true := by
  decide +kernel

/-- ... and of sets in `RET` and `OFF`: a change between the two. -/
def retOff : State := (((retCommit.setF (fPSTATE 5) 1).setF (fPD_TARGET 5) 2).setF (fPSTATE 6) 2).setF (fPD_TARGET 6) 1
theorem witness_pd_moves : hears retOff = true ∧ retOff.commitBad retOff.targets = false ∧ retOff.pstate 5 = 1 ∧ retOff.fusedOff 6 = false ∧
    retOff.pstate 6 = 2 ∧ after (exec (.pdCommit 1 snd0) retOff) (fun u => u.pstate 5 == 2 && u.pstate 6 == 1 && u.power.moves == [(3, 1)]) = true := by
  decide +kernel

/-- RegisterWritesAndReadsByField: warning levels of 91 above the reset levels of 90, one at its reset level, reset levels that reach a warning level of 95, a scrub rate of 1 and of 0. -/
def warn (a : Nat) : Word64 := BitVec.ofNat 64 (a + 2 ^ 8 * 91 + 2 ^ 16 * 97)
theorem witness_fields : hears up = true ∧ (∀ k, k < 3 → 85 ≤ getBits (warn 91) (8 * k) 7 ∧ getBits (warn 91) (8 * k) 7 ≤ 97) ∧
    (∀ k, k < 3 → up.getF (fV_RESET k) < getBits (warn 91) (8 * k) 7) ∧
    (∀ k, k < 3 → 85 ≤ getBits (warn 90) (8 * k) 7 ∧ getBits (warn 90) (8 * k) 7 ≤ 97) ∧
    (∃ k, k < 3 ∧ getBits (warn 90) (8 * k) 7 ≤ up.getF (fV_RESET k)) ∧ (∃ k, k < 3 ∧ up.getF (fV_WARN k) ≤ getBits (warn 95) (8 * k) 7) ∧
    1 ≤ getBits (0x101 : Word64) 8 8 ∧ getBits (1 : Word64) 8 8 = 0 ∧
    after (exec (.powerRegisterWrite 0x110 (warn 91) snd0) up) (fun u => u.getF (fV_WARN 0) == 91) = true ∧
    after (exec (.powerRegisterWrite 0x110 (warn 90) snd0) up) (fun u => u.getF (fV_WARN 0) == 95) = true ∧
    after (exec (.registerWrite 0x7050 (.put 1) snd0) up) (fun u => u.resp == some ⟨rACCESS, []⟩) = true ∧
    after (exec (.rcFieldRead 0x7030 1 snd0) (up.setF fCE_SRAM 3)) (fun u => u.resp == some ⟨rOK, [3]⟩ && u.getF fCE_SRAM == 0) = true := by
  decide +kernel

/-- ... and of several words: 32 words end at a 4 KiB line, 33 bytes would cross it; a plain register with an RC field; a power register. -/
theorem witness_words : 0x7050 % 8 = 0 ∧ 0x7050 % 4096 + 8 * 2 ≤ 4096 ∧ 0x7F00 % 4096 + 8 * 32 ≤ 4096 ∧ 4096 < 0x7FF8 % 4096 + 8 * 2 ∧
    inRegion (0x6000 + 0x100) = true ∧ (0x100 : Nat) ∉ [0, 0x110, 0x118] ∧ up.rangeOk 0x6100 36000 = true ∧ up.rangeOk 0x6118 (warn 85) = true ∧
    after (exec (.registerWrite 0x7FF8 (.block [1, 2]) snd0) up) (fun u => u.resp == some ⟨rALIGN, []⟩) = true ∧
    after (exec (.registerWrite 0x7050 (.block [0x201, 0]) snd0) up) (fun u => u.getF fSCRUB_RATE == 2) = true ∧
    after (exec (.rcFieldRead 0x7030 2 snd0) (up.setF fCE_SRAM 3)) (fun u => u.resp.any (fun r => r.status == rOK && r.words.length == 2) && u.getF fCE_SRAM == 0) = true ∧
    after (exec (.registerWrite 0x7010 (.atom 1 3 0) snd0) (up.setF fEV_HEAD 5)) (fun u => u.getF fEV_HEAD == 8 && u.resp == some ⟨rOK, [5]⟩) = true := by
  decide +kernel

/-- LifeCycleRequestProgramsItsFlag: PROD to END, and to RMA without its pin; a request with a queue enabled; the fuses done. -/
def endAsked : State := go up (.lcReqWrite 0x50 false snd0)
theorem witness_lc : hears up = true ∧ getBits (0x50 : Word64) 4 3 ≤ 5 ∧ up.flag fLC_BUSY = false ∧ (∀ q, q < 32 → up.qEn q = false) ∧
    up.lcPermits 5 = true ∧ up.lcPermits 4 = false ∧
    after (exec (.lcReqWrite 0x40 true snd0) up) (fun u => u.flag fLC_BUSY) = true ∧ after (exec (.lcReqWrite 0x40 false snd0) up) (fun u => u.resp == some ⟨rACCESS, []⟩) = true ∧ (∃ q, q < 32 ∧ on31.qEn q = true) ∧ endAsked.flag fLC_BUSY = true ∧
    1 ≤ endAsked.getF fLC_REQ ∧ endAsked.getF fLC_REQ ≤ 5 ∧ endAsked.lc ≤ endAsked.getF fLC_REQ := by decide +kernel

/-- MailboxCommandsArePendingThenDone. -/
def farUp : State := { up.setF fFARRIER_UP 1 with fuses := 0b111000 }
def pinged : State := go farUp (.ping 5 200 snd0)
def leaseHeld : State := { (leased.setF fFARRIER_UP 1).setReg rMBOX_ARG 8191 with far := { leased.far with mailbox := some (7, 9) } }
def abandoned : State := { ((on31.setF (fQ_STATE 31) 3).setF fFARRIER_UP 1).setReg rMBOX_ARG 31 with far := { up.far with mailbox := some (8, 9) } }
theorem witness_mailbox : hears farUp = true ∧ farUp.getF fMSTAT ≠ 1 ∧ farUp.flag fFARRIER_UP = true ∧ farUp.exqDepth < 224 ∧ farUp.lc ≠ 0 ∧ farUp.lc ≠ 5 ∧
    pinged.far.mailbox = some (1, 200) ∧ pinged.getF fMSTAT = 1 ∧ hears pinged = true ∧ (200 : Nat) < 256 ∧ farUp.mboxAllowed 6 = true ∧
    (farUp.setF (fPSTATE 15) 0).testable 15 = true ∧
    leaseHeld.held 8191 = true ∧ getBits (leaseHeld.reg rMBOX_ARG) 0 13 = 8191 ∧ leaseHeld.lc ≠ 0 ∧ leaseHeld.lc ≠ 5 ∧
    abandoned.inflightOf (getBits (abandoned.reg rMBOX_ARG) 0 5) = [] ∧ abandoned.getF (fQ_STATE (getBits (abandoned.reg rMBOX_ARG) 0 5)) = 3 ∧
    after (exec .mailboxCommandDone pinged) (fun u => u.far.mailbox == none) = true ∧
    after (exec .mailboxCommandDone leaseHeld) (fun u => u.getF fMSTAT == 2 && !u.held 8191) = true ∧
    after (exec .mailboxCommandDone abandoned) (fun u => u.getF fMSTAT == 2 && !u.qEn 31) = true := by decide +kernel

/-- The commands that end with more than their status: the image of a part as a wipe left it, saved and restored; telemetry, the log, a cluster's test. -/
def inHand (s : State) (cmd arg : Nat) : State := { s.setReg rMBOX_ARG (BitVec.ofNat 64 arg) with far := { s.far with mailbox := some (cmd, 9) } }
def logged : State := { farUp with far := { farUp.far with log := [⟨{ (default : EvRec) with cls := 5 }, 1, 8, []⟩] } }
/-- A version 3 image without sections. -/
def imaged : State := farUp.putMem 0x1000 (leBytes 4 0x49513444 ++ [3])
def tested (r : Nat) : State := { farUp with far := { farUp.far with ready := some ⟨15, r, false, []⟩ } }
theorem witness_save_denied : (inHand farUp 2 0x1001).saveDenied = false ∧ (inHand on31 2 0).saveDenied = true := by decide +kernel
theorem witness_restore_denied : (inHand on31 3 0).restoreDenied = true ∧ (inHand farUp 3 0x1000).restoreDenied = false := by decide +kernel
theorem witness_restore_imaged : (inHand imaged 3 0x1000).restoreDenied = false := by decide +kernel
theorem witness_image : (inHand farUp 3 0x1000).readImage 0x1000 = none ∧ (inHand imaged 3 0x1000).readImage 0x1000 = some (3, 0, []) := by decide +kernel
theorem witness_restore : after (exec .mailboxCommandDone (inHand farUp 3 0x1000)) (fun u => u.getF fMSTAT == 4) = true ∧
    after (exec .mailboxCommandDone (inHand imaged 3 0x1000)) (fun u => u.getF fMSTAT == 2) = true := by decide +kernel
theorem witness_telem_cfg : getBits (BitVec.ofNat 64 (256 + 5 * 2 ^ 48) : Word64) 48 16 ≠ 0 ∧
    after (exec .mailboxCommandDone (inHand farUp 4 0)) (fun u => u.getF fMSTAT == 2 && u.far.telem == none) = true ∧
    after (exec .mailboxCommandDone (inHand farUp 4 (256 + 5 * 2 ^ 48))) (fun u => u.getF fMSTAT == 2 && u.far.telem == some (256, 5)) = true := by decide +kernel
theorem witness_mailbox_log : logged.far.log ≠ [] ∧ (∀ m ∈ (inHand logged 5 0x1000).messages none true 0x1000 logged.faultLogBytes.length, logged.portUp m.1 = true) ∧
    after (exec .mailboxCommandDone (inHand logged 5 0x1000)) (fun u => u.getF fMSTAT == 2 && u.getF fRESULT == 1 && u.memAt 0x1000 1 == [5]) = true ∧
    15 ∉ (tested 0).power.heldOut ∧ (tested 0).far.ready = some ⟨15, 0, false, []⟩ ∧
    after (exec .mailboxCommandDone (inHand (tested 0) 6 15)) (fun u => u.getF fMSTAT == 2 && u.serving 15) = true ∧
    after (exec .mailboxCommandDone (inHand (tested 2) 6 15)) (fun u => u.getF fRESULT == 2 && u.power.heldOut == [15] && u.flag (fERR_CLASS 17)) = true := by
  decide +kernel
/-- A transfer of any length finds its ports up where every address does. -/
theorem pieces_up {s : State} (h : ∀ a, s.portUp (s.portOf a) = true) (wr : Bool) (k a n : Nat) :
    ∀ m ∈ s.pieces none wr k a n, s.portUp m.1 = true := by
  induction k generalizing a n with
  | zero => simp [State.pieces]
  | succ k ih =>
    intro m hm
    rw [State.pieces] at hm
    split at hm
    · simp at hm
    · rcases List.mem_cons.mp hm with rfl | hm
      · exact h a
      · exact ih _ _ m hm
theorem witness_save : ∀ m ∈ (inHand farUp 2 0x1000).messages none true 0x1000 ((inHand farUp 2 0x1000).image false).length,
    (inHand farUp 2 0x1000).portUp m.1 = true := by
  have hs : (inHand farUp 2 0x1000).getF fSIZE_G = 0 := by decide +kernel
  have hp : (inHand farUp 2 0x1000).portUp .hport = true := by decide +kernel
  refine pieces_up (fun a => ?_) _ _ _ _
  have : (inHand farUp 2 0x1000).inWindow a = false := by simp [State.inWindow, hs]
  simp [State.portOf, this, hp]

/-! Queues. -/

/-- Queue 31 runs with 16 slots filled and what is given beside its registers. -/
def running (x : QueueX) : State :=
  { ((up.setF (fQ_EN 31) 1).setF (fQ_STATE 31) 2).setF (fQ_TAIL 31) 16 with queues := up.queues.set 31 x }
/-- An instruction stands decoded at HEAD. -/
def standing (g : GInstr) : Decoded :=
  { (default : Decoded) with item := .insn g, code := [g], prog := emptyProg, len := 1 }
def withInsn (g : GInstr) : State := running { queueReset with slots := [0], item := some (standing g) }

/-- SlotsAreFetchedAndDecoded: a fetch, a poisoned one, a NOP, an unknown opcode, descriptors. -/
def descSlots (kind : Nat) : List Slot := [BitVec.ofNat 128 kind, 0, 0, 0]
def g2 (kind : Nat) (gait : Nat) : State := ((running { queueReset with slots := descSlots kind }).setF (fQ_GEN 31) 0).setF fGAIT gait
/-- The queue's ring at 0x9000, with two slots filled. -/
def fetching : State := (((running queueReset).setF (fQ_BASE 31) 0x9000).setF (fQ_TAIL 31) 2).putMem 0x9000 (leBytes 16 1 ++ leBytes 16 2)
/-- Its fetch finds a poisoned granule: the channel of its address is in fault. -/
def badFetch : State := fetching.setF fSIZE_G 1
theorem witness_fetch : shaped fetching = true ∧ fetching.leadOn 31 = true ∧ (fetching.qx 31).pois = false ∧ shaped badFetch = true ∧ badFetch.leadOn 31 = true ∧
    (fetching.qx 31).slots.length < fetching.qFill 31 ∧ (fetching.granules 0x9000 256).any (fun g => g.2 != .good) = false ∧
    (badFetch.granules 0x9000 256).any (fun g => g.2 != .good) = true ∧ (badFetch.qx 31).slots = [] ∧ (badFetch.qx 31).item = none ∧
    after (exec (.slotFetchArrival 31) fetching) (fun u => (u.qx 31).slots == [1, 2]) = true ∧
    after (exec (.slotFetchArrival 31) badFetch) (fun u => u.halted 31 && u.getF (fQ_HALT 31) == 5) = true := by decide +kernel
theorem witness_descriptors : shaped (g2 2 0) = true ∧ (g2 2 0).leadOn 31 = true ∧ (g2 2 0).getF (fQ_GEN 31) ≠ 2 ∧ ((g2 2 0).qx 31).item = none ∧
    byteAt ((((g2 2 0).qx 31).slots.take 4).flatMap fun x => leBytes 16 x.toNat).toArray 0 = 2 ∧ (g2 2 0).gait = false ∧
    byteAt ((((g2 1 1).qx 31).slots.take 4).flatMap fun x => leBytes 16 x.toNat).toArray 0 = 1 ∧ (g2 1 1).gait = true ∧ (g2 1 1).leadOn 31 = true ∧
    after (exec (.g2g3Descriptor 31) (g2 2 0)) (fun u => (u.qx 31).item.any fun d => d.item == .insn .nop) = true ∧
    after (exec (.g2g3Descriptor 31) (g2 1 1)) (fun u => u.getF (fQ_HALT 31) == 6) = true := by decide +kernel

def toDecode (l : List Slot) : State := running { queueReset with slots := l }
/-- RS-A stands in plane set 0, all clusters serve. -/
def withRsA (s : State) : State :=
  { (((((((s.setF (fPS_STATE 0) 2).setF (fPS_VHI 0) 65536).setF (fPS_HDIM 0) 64).setF (fPS_RES 0 0) 1).setF (fPS_RES 0 1) 1).setF (fPS_PDLEN 0) 288).setF fCL_SVC 0xFFFF)
    with placed := up.placed.set 0 (List.range 16) }
theorem witness_decode : shaped (toDecode [0]) = true ∧ (toDecode [0]).leadOn 31 = true ∧ (toDecode [0]).getF (fQ_GEN 31) = 2 ∧
    insnChecks 0 ([] : List Slot).head? = some (.ok .nop) ∧ opcKnown (slotOpc 0xFF) = false ∧
    after (exec (.decode 31) (toDecode [0])) (fun u => (u.qx 31).item.any fun d => d.item == .insn .nop) = true ∧
    after (exec (.decode 31) (toDecode [0xFF])) (fun u => u.halted 31 && u.getF (fQ_HALT 31) == 9) = true := by decide +kernel
theorem witness_decode_step : slotOpc (rolloutSlots.headD 0) = 0x10 ∧
    (let s := withRsA (toDecode rolloutSlots)
     let p := progOf (rolloutSlots.map slotInstr)
     let y := checkFour (p.stepId, 31) false s.inService 0 (rolloutSlots.map slotInstr) s p
     (match y.2 with | .ok _ => true | .error _ => false) = true ∧ y.1.queues = s.queues) ∧
    after (exec (.decode 31) (withRsA (toDecode rolloutSlots))) (fun u => (u.qx 31).item.any fun d => d.len == 11 && d.eEst == 6912) = true := by
  decide +kernel

/-- A G2 step descriptor of 256 rows in FREE_REIN, on RS-A, and the bytes that it is. -/
def g2Slots : List Slot := [0x000000006000000000000000001000001, 0x00000000500000000000000000001100, 0x00000000500020000000000050001000, 0]
def g2Bytes : Array Byte := (g2Slots.flatMap fun x => leBytes 16 x.toNat).toArray
def g2Step : State := (withRsA (toDecode g2Slots)).setF (fQ_GEN 31) 0
theorem witness_g2_step : shaped g2Step = true ∧ g2Step.leadOn 31 = true ∧ g2Step.getF (fQ_GEN 31) = 0 ∧ byteAt g2Bytes 0 = 1 ∧ descLacks 0 g2Bytes = false ∧
    (descStep 0 0 g2Bytes).any (fun p => p.rows == 256 && p.stride == 17 && match (checkFour (p.stepId, 31) false g2Step.inService 0
      (descCode { p with hfmt := Config.descHFmt % 3 }) g2Step { p with hfmt := Config.descHFmt % 3 }).2 with | .ok _ => true | .error _ => false) = true ∧
    after (exec (.g2g3Descriptor 31) g2Step) (fun u => (u.qx 31).item.any fun d => d.len == 4) = true := by decide +kernel

/-- ... a REPACK of set 2, which takes its launch number, and a NORMAL of the descriptor at 0x300. -/
def repackSlot : Slot := 0x00000000000040000000000000000238
def normSlot : Slot := 0x00000000000004000000000003000059
def toNormal : State := (toDecode [normSlot]).putMem 0x300 ([2, 1] ++ leBytes 22 0 ++ leBytes 8 0x100 ++ leBytes 8 4)
theorem witness_decode_more : insnChecks repackSlot ([] : List Slot).head? = some (.ok (.repack 2 0x4000)) ∧ slotOpc repackSlot ≠ 0x10 ∧
    insnChecks normSlot ([] : List Slot).head? = some (.ok (.normal 0x300 0x400)) ∧ slotOpc normSlot ≠ 0x10 ∧
    (toNormal.granules 0x300 64).all (fun g => g.2 == .good) = true ∧ (normalOf toNormal.lc 0x400 (toNormal.memAt 0x300 64).toArray).bind toNormal.postLen = some 0 ∧
    after (exec (.decode 31) (toDecode [repackSlot])) (fun u => u.repackQ.length == 1 && u.nextLn == 1 && (u.qx 31).item.any fun d => d.item == .insn (.repack 2 0x4000)) = true ∧
    after (exec (.decode 31) toNormal) (fun u => (u.qx 31).item.any fun d => match d.item with | .norm n => n.count == 4 && n.cpl == 0x400 | _ => false) = true := by
  decide +kernel

/-- FrameInstructionsEnterTheProgram. -/
def frames : List (GInstr × Instr) :=
  [(.stepOpen 9, .stepOpen 31), (.stepEnd 64, .stepEnd 31), (.rows 4 64, .rows 31), (.screen 3 1, .screenInstr 31), (.refine 8, .refine 31),
   (.fuse 0x3F800000 0, .fuse 31), (.bias true 2, .bias 31), (.penal true 0x3F800000 0, .penal 31), (.temp true 0 fPinf, .temp 31),
   (.maskUse true 5, .maskUse 31), (.gumbel, .gumbel 31), (.draw true false 64, .draw 31)]
def handing (g : GInstr) : State := running { queueReset with item := some { standing g with body := [g] } }
theorem witness_frames : (frames.all fun p => shaped (handing p.1) &&
    after (exec p.2 (handing p.1)) (fun u => (u.qx 31).item == some { standing p.1 with prog := addInstr emptyProg p.1, body := [] })) = true := by
  decide +kernel

/-- PlainQueueInstructionsPass. -/
theorem witness_plain : shaped (withInsn .nop) = true ∧ (withInsn .nop).issuable 31 = some .nop ∧ (withInsn (.waitq 4 0)).issuable 31 = some (.waitq 4 0) ∧
    (2 ^ 32 + (withInsn (.waitq 4 0)).getF (fQ_DONE 4) - 0) % 2 ^ 32 < 2 ^ 31 ∧
    2 ^ 31 ≤ (2 ^ 32 + (withInsn (.waitq 4 1)).getF (fQ_DONE 4) - 1) % 2 ^ 32 ∧ (withInsn .halt).issuable 31 = some .halt ∧
    (withInsn (.launchat 7)).issuable 31 = some (.launchat 7) ∧
    after (exec (.nop 31) (withInsn .nop)) (fun u => u.getF (fQ_HEAD 31) == 1 && (u.qx 31).item == none) = true ∧
    after (exec (.waitq 31) (withInsn (.waitq 4 0))) (fun u => u.getF (fQ_HEAD 31) == 1) = true ∧
    after (exec (.waitq 31) (withInsn (.waitq 4 1))) (fun u => u.getF (fQ_HEAD 31) == 0) = true ∧
    after (exec (.halt 31) (withInsn .halt)) (fun u => u.getF (fQ_HEAD 31) == 1 && u.getF (fQ_HALT 31) == 1) = true ∧
    after (exec (.launchat 31) (withInsn (.launchat 7))) (fun u => (u.qx 31).hold == some ⟨.launchat 7, false, 0⟩) = true := by decide +kernel

/-- HoldsAndBarriersAreMetAndReleased. -/
def held7 : State := (running { queueReset with hold := some ⟨.launchat 7, false, 0⟩ }).setF fGC_NOW 7
def barrierOn : State := (withInsn (.barrier 5)).setF fBAR_EN 1
def arrivedUp : State := { up.setF fBAR_EN 1 with sync := { up.sync with up := true, cur := some 5 } }
def released : State := { up with sync := { up.sync with up := true, relWait := true, cur := some 5 } }
theorem witness_holds : shaped held7 = true ∧ (held7.qx 31).hold = some ⟨.launchat 7, false, 0⟩ ∧ (2 ^ 64 + held7.gc - 7) % 2 ^ 64 < 2 ^ 63 ∧
    (withInsn (.barrier 5)).issuable 31 = some (.barrier 5) ∧ (withInsn (.barrier 5)).flag fBAR_EN = false ∧ barrierOn.flag fBAR_EN = true ∧
    barrierOn.barRole = 0 ∧ barrierOn.sync.cur = none ∧ barrierOn.sync.up = false ∧ barrierOn.gait = false ∧ (standing (.barrier 5)).waited = false ∧
    released.queues.all (fun x => x.item.isNone && x.hold.isNone) = true ∧ released.flights = [] ∧ arrivedUp.sync.dn = false ∧ arrivedUp.barRole = 0 ∧
    after (exec (.launchatSatisfied 31) held7) (fun u => (u.qx 31).hold == some ⟨.launchat 7, true, 0⟩) = true ∧
    after (exec (.barrier 31) (withInsn (.barrier 5))) (fun u => u.getF (fQ_HEAD 31) == 1) = true ∧
    after (exec (.barrier 31) barrierOn) (fun u => u.sync.up && u.getF fARRIVED == 5) = true ∧
    after (exec .barrierRelease released) (fun u => !u.sync.up && u.getF fRELEASED == 5) = true ∧
    after (exec (.syncBarDn true) arrivedUp) (fun u => u.sync.relWait) = true ∧ after (exec (.syncBarCup 7 true) up) (fun u => u.sync.cup.getD 7 false) = true := by
  decide +kernel

/-- ... a flight's hold; COLLECTED gait before a step; a root and a middle chip; the second barrier. -/
def carried : State := { held7 with queues := up.queues, flights := [{ (default : Flight) with queue := 31, hold := some ⟨.launchat 7, false, 0⟩ }] }
def beforeStep : State := { (running { queueReset with slots := [0, 0x10], item := some (standing (.barrier 5)) }).setF fBAR_EN 1 with
  sync := { up.sync with cur := some 4 } }
def root (r : Nat) (c : Nat) : State := { (barrierOn.setF fBAR_ROLE r) with sync := { up.sync with cup := List.replicate c true ++ List.replicate (8 - c) false } }
def inWork (r : Nat) : State := { (root r 7) with sync := { (root r 7).sync with cur := some 5 } }
def waits5 : State := { (withInsn (.barrier 5)).setF fBAR_EN 1 with sync := { up.sync with up := true, relWait := true, cur := some 5 } }
theorem witness_holds_more : shaped carried = true ∧ shaped beforeStep = true ∧ beforeStep.issuable 31 = some (.barrier 5) ∧ beforeStep.stepFollows 31 = true ∧
    (beforeStep.setF fGAIT 1).gait = true ∧ (beforeStep.setF fGAIT 1).issuable 31 = some (.barrier 5) ∧ beforeStep.sync.cur ≠ none ∧
    (root 1 8).barRole = 1 ∧ (root 2 8).barRole = 2 ∧ (root 2 8).sync.cup.all id = true ∧ (root 2 8).sync.cur = none ∧ (root 2 8).issuable 31 = some (.barrier 5) ∧
    (root 2 8).link.isolated = false ∧ waits5.sync.relWait = true ∧ waits5.leadOn 31 = true ∧ waits5.mismatch = false ∧
    after (exec (.launchatSatisfied 31) carried) (fun u => u.flights.all fun f => f.hold == some ⟨.launchat 7, true, 0⟩) = true ∧
    after (exec (.barrier 31) (beforeStep.setF fGAIT 1)) (fun u => (u.qx 31).hold == some ⟨.barrier 5, false, 0⟩ && (u.qx 31).item == none) = true ∧
    after (exec (.barrier 31) (root 2 8)) (fun u => u.sync.cdn && u.sync.relWait) = true ∧
    after (exec .barrierRelease waits5) (fun u => (u.qx 31).item == none && u.sync.cur == none) = true := by decide +kernel
theorem witness_lines : (∀ j, j < 8 → j ≠ 7 → (inWork 1).sync.cup.getD j false = true) ∧ (inWork 1).flag fBAR_EN = true ∧ (inWork 2).barRole = 2 ∧
    after (exec (.syncBarCup 7 true) (inWork 1)) (fun u => u.sync.up && u.getF fARRIVED == 5) = true ∧
    after (exec (.syncBarCup 7 true) (inWork 2)) (fun u => u.sync.cdn && u.sync.relWait) = true ∧
    after (exec (.syncBarDn true) (inWork 1)) (fun u => u.sync.cdn && !u.sync.relWait) = true := by decide +kernel

/-- RemoteOperationsAndFences: operations whose ports are up; one that waits for an earlier one; one on a channel in fault; the fences. -/
def chans (s : State) : State := (List.range 16).foldl (fun s n => s.setF (fMC_UP n) 1) s
def asking (g : GInstr) : State := chans (withInsn g)
def remoteBusy (g : GInstr) : State := { asking g with queues := up.queues.set 31 { queueReset with item := some (standing g), remote := 1 } }
def downPut : State := (withInsn (.put 64 9)).setF fSIZE_G 1
theorem witness_remote : (asking (.put 64 9)).issuable 31 = some (.put 64 9) ∧ (asking (.put 64 9)).served = true ∧ shaped (asking (.put 64 9)) = true ∧
    (∀ m ∈ (asking (.put 64 9)).messages none true 64 8, (asking (.put 64 9)).portUp m.1 = true) ∧
    (∀ m ∈ (asking (.get 8 64 128)).messages none false 64 (8 * 8), (asking (.get 8 64 128)).portUp m.1 = true) ∧
    downPut.issuable 31 = some (.put 64 9) ∧ downPut.portUp (downPut.portOf 64) = false ∧ downPut.served = true ∧
    after (exec (.put 31) (asking (.put 64 9))) (fun u => u.memAt 64 8 == leBytes 8 9 && (u.qx 31).remote == 1) = true ∧
    after (exec (.put 31) downPut) (fun u => u.flag (fERR_CLASS 10) && (u.qx 31).remote == 0 && (u.qx 31).item == none) = true ∧
    after (exec (.get 31) (asking (.get 8 64 128))) (fun u => u.out.length == 1 && (u.qx 31).remote == 1) = true := by decide +kernel
theorem witness_signal : (remoteBusy (.signal false 64 9)).issuable 31 = some (.signal false 64 9) ∧ ((remoteBusy (.signal false 64 9)).qx 31).remote ≠ 0 ∧
    (asking (.signal true 64 9)).issuable 31 = some (.signal true 64 9) ∧ ((asking (.signal true 64 9)).granules 64 8).all (fun g => g.2 == .good) = true ∧
    (∀ m ∈ (asking (.signal true 64 9)).messages none true 64 8, (asking (.signal true 64 9)).portUp m.1 = true) ∧
    after (exec (.signal 31) (asking (.signal false 64 9))) (fun u => u.memAt 64 8 == leBytes 8 9) = true ∧
    after (exec (.signal 31) ((asking (.signal true 64 9)).putMem 64 [7])) (fun u => u.memAt 64 8 == leBytes 8 16 && (u.qx 31).remote == 1) = true ∧
    after (exec (.signal 31) (remoteBusy (.signal false 64 9))) (fun u => u.memAt 64 8 == leBytes 8 0) = true := by decide +kernel
def ordered31 (l : List Nat) : State := { asking (.fence false true) with queues := up.queues.set 31 { queueReset with item := some (standing (.fence false true)), ords := some l } }
theorem witness_fences : (asking (.fence true false)).issuable 31 = some (.fence true false) ∧ (asking (.fence true false)).drainedQueue 31 = true ∧
    (remoteBusy (.fence true false)).issuable 31 = some (.fence true false) ∧ (remoteBusy (.fence true false)).drainedQueue 31 = false ∧
    (asking (.fence false true)).issuable 31 = some (.fence false true) ∧ ((asking (.fence false true)).qx 31).ords = none ∧
    (ordered31 []).issuable 31 = some (.fence false true) ∧ (ordered31 [15]).issuable 31 = some (.fence false true) ∧
    after (exec (.fence 31) (asking (.fence true false))) (fun u => (u.qx 31).item == none) = true ∧
    after (exec (.fence 31) (asking (.fence false true))) (fun u => (u.qx 31).ords == some (List.range 16) && u.out.length == 16) = true ∧
    after (exec (.fence 31) (ordered31 [])) (fun u => (u.qx 31).item == none) = true ∧
    after (exec (.fence 31) (ordered31 [15])) (fun u => (u.qx 31).item.isSome) = true := by decide +kernel

/-- SetUpInstructionsHandOverTheirWork. -/
def repackJob : RepackJob := { order := 0, given := false, queue := 31, psid := 2, rd := 0x4000, ln := 0, strict := false }
def repackAsked : State := { withInsn (.repack 2 0x4000) with repackQ := [repackJob] }
theorem witness_set_up : repackAsked.issuable 31 = some (.repack 2 0x4000) ∧ shaped repackAsked = true ∧
    (withInsn (.maskLoad 63 0 1 0x100)).issuable 31 = some (.maskLoad 63 0 1 0x100) ∧ (withInsn .tabcommit).issuable 31 = some .tabcommit ∧
    (withInsn .tabcommit).shadowOpen = true ∧ ((withInsn .tabcommit).setF fSHADOW_ST 2).shadowOpen = false ∧ up.power.stopped = false ∧
    (standing (.repack 2 0x4000)).waited = false ∧
    ({ withInsn (.maskLoad 63 0 1 0x100) with power := { up.power with stopped := true } } : State).issuable 31 = some (.maskLoad 63 0 1 0x100) ∧
    (running { queueReset with slots := [0], item := some { standing (.repack 2 0x4000) with waited := true } }).issuable 31 = some (.repack 2 0x4000) ∧
    after (exec (.repack 31) (running { queueReset with slots := [0], item := some { standing (.repack 2 0x4000) with waited := true } })) (fun u => (u.qx 31).item == none) = true ∧
    after (exec (.repack 31) repackAsked) (fun u => u.repackQ.all (·.given)) = true ∧
    after (exec (.maskLoad 31) (withInsn (.maskLoad 63 0 1 0x100))) (fun u => u.maskJobs.length == 1 && (u.qx 31).loads == 1) = true ∧
    after (exec (.tabcommit 31) (withInsn .tabcommit)) (fun u => u.getF fSHADOW_ST == 1 && u.tabQueue == some 31) = true := by decide +kernel

/-- LaunchPutsTheFirstFittingItemInFlight: a NORMAL at HEAD, and four steps in flight; with a commit that has passed. -/
def normDesc : NormalDesc := { (default : NormalDesc) with method := 1, out := 0x100, count := 4, post := 0 }
def toLaunch : Decoded := { (default : Decoded) with item := .norm normDesc, len := 1, eEst := 9 }
def launching (st : Nat) : State := ((((running { queueReset with slots := [0], item := some toLaunch }).setF (fPSTATE 16) 0).setF (fPSTATE 17) 0).setF fSHADOW_ST st)
theorem witness_launch : shaped (launching 0) = true ∧ (launching 0).mayLaunch = true ∧ (launching 0).candidates = [(31, toLaunch)] ∧
    (launching 0).stale toLaunch = false ∧ (launching 0).fits toLaunch.eEst = true ∧ (launching 2).candidates = [(31, toLaunch)] ∧
    4 ≤ ({ up with flights := List.replicate 4 default } : State).flights.length ∧
    after (exec .launch (launching 0)) (fun u => u.flights.length == 1 && u.getF fBANK_ACT == 0 && decide (u.power.headroom < 36000)) = true ∧
    after (exec .launch (launching 2)) (fun u => u.getF fBANK_ACT == 1 && u.getF fSHADOW_ST == 4) = true := by decide +kernel
/-- ... nothing to launch; one that does not fit, in a gait that passes it over; a step whose set is no longer ready. -/
def idleLaunch : State := ((running queueReset).setF (fPSTATE 16) 0).setF (fPSTATE 17) 0
def staleStep : Decoded := { (default : Decoded) with item := .step emptyProg, len := 1 }
def staleLaunch : State := (((running { queueReset with slots := [0], item := some staleStep }).setF (fPSTATE 16) 0).setF (fPSTATE 17) 0)
theorem witness_launch_more : shaped idleLaunch = true ∧ idleLaunch.recheckAll = idleLaunch ∧ (launching 2).recheckAll = launching 2 ∧ staleLaunch.recheckAll = staleLaunch ∧ idleLaunch.candidates.find? (fun c => idleLaunch.stale c.2) = none ∧ idleLaunch.candidates = [] ∧
    staleLaunch.mayLaunch = true ∧ staleLaunch.candidates.find? (fun c => staleLaunch.stale c.2) = some (31, staleStep) ∧
    (launching 0).power.budget ≠ 0 ∧ (launching 2).getF fSHADOW_ST = 2 ∧
    pick (fun d => d.eEst == 1) true (fun _ => 15) [(3, toLaunch), (4, { toLaunch with eEst := 1 })] = some ([3], 4, { toLaunch with eEst := 1 }) ∧
    pick (fun d => d.eEst == 1) true (fun _ => 16) [(3, toLaunch), (4, { toLaunch with eEst := 1 })] = none ∧
    after (exec .launch staleLaunch) (fun u => u.halted 31 && u.getF (fQ_HALT 31) == 2 && u.flights.isEmpty) = true := by decide +kernel

/-! A step in flight. -/

/-- A small plane set: one slab of 64 tokens, H = 64, in host memory. -/
def smallSet : PlaneView := { (default : PlaneView) with vHi := 64, hd := 1, host0 := 0x10000 }
def smallProg : StepProg := { emptyProg with rows := 1, prec := 0, gumbel := true, tv := 0x200, cpl := 0x400 }
/-- Flight 7 of queue 31, launched. -/
def launched : Flight :=
  { (default : Flight) with ln := 7, queue := 31, prog := smallProg, view := smallSet, clusters := [0], gcLaunch := 3 }
def withFlight (f : Flight) : State := { up with flights := [f] }
def row0 : RowState := { (default : RowState) with blind := true }
def row1 : RowState := { row0 with blind := false }
def loaded7 : Flight := { launched with allocd := true, loaded := true, rows := [row0, row1] }
def snapped7 : Flight := { loaded7 with snapped := true }
def screened7 : Flight := { snapped7 with released := true, screened := true }
def scr0 : RowScreen := default
def swept7 : Flight :=
  { screened7 with m0done := true, swept := true, rows := [{ row0 with scr := some scr0, phase := .certified }] }
def todo7 : Flight := { swept7 with rows := [{ row1 with scr := some scr0, phase := .todo }] }
def selected7 : Flight := { swept7 with selected := true, rows := [{ row0 with out := some default }] }
def emitted7 : Flight := { selected7 with emitted := true, emitting := true }

/-- WorkingSetAndLoadOfAStep: it fits, it waits for units, it fits nowhere; an earlier step has no set yet. -/
def fullPad : State := { (withFlight launched).setF (fPS_STATE 2) 2 with placed := up.placed.set 2 [0] }.setF (fPS_PDLEN 2) 512
def hog : State := { up with flights := [{ launched with ln := 6, allocd := true, wsUnits := 512 }, launched] }
theorem witness_working_set : (withFlight launched).flight 7 = some launched ∧ launched.past = false ∧
    fitMode (workSet launched.prog launched.view none launched.clusters) launched.prog.paired ((withFlight launched).freeMin launched.clusters) = some false ∧
    (∀ c ∈ launched.clusters, (withFlight launched).heldUnits c + (workSet launched.prog launched.view none launched.clusters).single false ≤
      (withFlight launched).freeUnits c) ∧
    (∃ c ∈ launched.clusters, hog.freeUnits c < hog.heldUnits c + (workSet launched.prog launched.view none launched.clusters).single false) ∧
    (∃ g ∈ ({ up with flights := [{ launched with ln := 6 }, launched] } : State).flights, g.ln < 7 ∧ g.past = false ∧ g.allocd = false) ∧
    fitMode (workSet launched.prog launched.view none launched.clusters) false (fullPad.freeMin launched.clusters) = none ∧
    (fullPad.setF (fQ_EN 31) 1).qEn 31 = true ∧ (fullPad.setF (fQ_EN 31) 1).halted 31 = false ∧
    (∀ c ∈ launched.clusters, (withFlight launched).reservedUnits launched.sets c = 0) ∧ hog.reservedUnits launched.sets 0 = 0 ∧
    after (exec (.allocateWorkingSet 7) (withFlight launched)) (fun u => (u.flight 7).any (·.allocd)) = true ∧
    after (exec (.allocateWorkingSet 7) hog) (fun u => !(u.flight 7).any (·.allocd)) = true ∧
    after (exec (.allocateWorkingSet 7) (fullPad.setF (fQ_EN 31) 1)) (fun u => (u.flight 7).any (·.cstat == 3) && u.halted 31) = true := by decide +kernel

/-- ... one that fits in `TWICE` alone, in FREE_REIN and in COLLECTED gait. -/
def narrow (c : Bool) : State := { fullPad.setF (fPS_PDLEN 2) 478 with flights := [{ launched with collected := c }] }
theorem witness_twice : (narrow false).flight 7 = some { launched with collected := false } ∧ (narrow true).flight 7 = some { launched with collected := true } ∧
    fitMode (workSet launched.prog launched.view none launched.clusters) false ((narrow true).freeMin launched.clusters) = some true ∧
    after (exec (.allocateWorkingSet 7) (narrow false)) (fun u => (u.flight 7).any fun g => g.allocd && g.twice && g.wsUnits == 34) = true ∧
    after (exec (.allocateWorkingSet 7) (narrow true)) (fun u => (u.flight 7).any (·.cstat == 3)) = true := by decide +kernel
/-- ... a restarted step that fits nowhere, and a waiting REPACK. -/
def lostPad : State := { fullPad with flights := [{ launched with restart := true }] }
theorem witness_restart : lostPad.flight 7 = some { launched with restart := true } ∧
    fitMode (workSet launched.prog launched.view none launched.clusters) false (lostPad.freeMin launched.clusters) = none ∧
    after (exec (.allocateWorkingSet 7) lostPad) (fun u => (u.flight 7).any fun g => !g.emitted && !g.allocd) = true := by decide +kernel

def allocd7 : Flight := { launched with allocd := true }
def crowded : State := { up with flights := [{ launched with ln := 6, loaded := true, psBytes := 8388609 }, { allocd7 with psWait := true }] }
def crowded1 : State := { up with flights := [{ launched with ln := 6, loaded := true, psBytes := 8388609 }, allocd7] }
def scoring7 : Flight := { allocd7 with prog := { smallProg with scoreq := some (0x1000, 0x2000) } }
/-- The score table lies in the window of a channel that is down. -/
def downTable : State := (withFlight scoring7).setF fSIZE_G 1
theorem witness_loadh : (withFlight allocd7).flight 7 = some allocd7 ∧ (withFlight allocd7).loadTurn 7 = true ∧ crowded.loadTurn 7 = true ∧ crowded1.loadTurn 7 = true ∧
    downTable.loadTurn 7 = true ∧ ({ up with flights := [{ launched with ln := 6 }, allocd7] } : State).loadTurn 7 = false ∧ allocd7.prog.scoreq = none ∧ (withFlight allocd7).storeFull allocd7 ((withFlight allocd7).blockBytesOf ([] : List Nat)) = false ∧
    crowded.storeFull { allocd7 with psWait := true } 0 = true ∧ crowded.flight 7 = some { allocd7 with psWait := true } ∧ downTable.flight 7 = some scoring7 ∧ downTable.storeFull scoring7 0 = false ∧
    crowded1.flight 7 = some allocd7 ∧ crowded1.storeFull allocd7 0 = true ∧ allocd7.psWait = false ∧
    after (exec (.loadh 7) crowded1) (fun u => (u.flight 7).any (·.psWait) && u.getF fPS_WAITS == 1) = true ∧
    (∀ r, r < 1 → (downTable.peek (0x1000 + 64 * r) 64).2 = true) ∧
    after (exec (.loadh 7) (withFlight allocd7)) (fun u => (u.flight 7).any (·.loaded)) = true ∧
    after (exec (.loadh 7) crowded) (fun u => !(u.flight 7).any (·.loaded)) = true ∧
    after (exec (.loadh 7) downTable) (fun u => (u.flight 7).any fun g => g.rows.length == 1 && g.rows.all (·.blind)) = true := by decide +kernel

/-- SnapshotAndReleaseOfAStep. -/
def slotted : Flight := { loaded7 with rows := [{ row1 with slot := some 9, bound := true }] }
def behind : State := { up with flights := [{ slotted with ln := 6 }, slotted] }
def collected7 : Flight := { snapped7 with collected := true, released := false }
def halves : State := { up with flights := [{ screened7 with ln := 5 }, { screened7 with ln := 6 }, collected7] }
theorem witness_snapshot : (withFlight loaded7).snapReady loaded7 = true ∧ behind.snapReady slotted = false ∧ behind.flight 7 = some slotted ∧
    row0.slot = none ∧ loaded7.rows[0]? = some row0 ∧ (withFlight collected7).arraysFree 7 = true ∧ (withFlight collected7).halvesTaken < 2 ∧
    halves.arraysFree 7 = true ∧ 2 ≤ halves.halvesTaken ∧ halves.flight 7 = some collected7 ∧ collected7.hold = none ∧
    after (exec (.historySnapshot 7) (withFlight loaded7)) (fun u => (u.flight 7).any (·.snapped)) = true ∧
    after (exec (.historySnapshot 7) behind) (fun u => !(u.flight 7).any (·.snapped)) = true ∧
    after (exec (.fillRelease 7) (withFlight collected7)) (fun u => (u.flight 7).any (·.released)) = true ∧
    after (exec (.fillRelease 7) halves) (fun u => (u.flight 7).any fun g => !g.released && g.tb == 3) = true ∧
    after (exec (.fillRelease 7) (withFlight { collected7 with hold := some ⟨.launchat 9, false, 0⟩ })) (fun u => !(u.flight 7).any (·.released)) = true := by
  decide +kernel

/-- ScreenBroadcastAndSweepFormEveryScore: a blind row and one with its inputs. -/
theorem witness_screen : (withFlight snapped7).fillReady snapped7 = true ∧ snapped7.rows[0]? = some row0 ∧ row0.blind = true ∧
    snapped7.rows[1]? = some row1 ∧ row1.blind = false ∧ snapped7.rview = none ∧
    (withFlight screened7).flight 7 = some screened7 ∧ screened7.m0done = false ∧
    after (exec (.m0Broadcast 7 false) (withFlight screened7)) (fun u => (u.flight 7).any (·.m0done)) = true ∧
    (withFlight { swept7 with swept := false }).flight 7 = some { swept7 with swept := false } ∧
    after (exec (.sumSweep 7 []) (withFlight { swept7 with swept := false })) (fun u => (u.flight 7).any (·.swept)) = true := by decide +kernel

/-- ... a draw whose evaluator lags in COLLECTED gait; a row that its run discards. -/
def lagging : Flight := { screened7 with collected := true, rows := [row1] }
def twice7 : Flight := { swept7 with swept := false, twice := true }
theorem witness_lag : (withFlight lagging).unitTurn 7 (fun g => g.screened && !g.m0done) = true ∧ (withFlight twice7).unitTurn 7 (fun g => g.m0done && !g.swept) = true ∧
    ({ up with flights := [{ screened7 with ln := 6 }, screened7] } : State).unitTurn 7 (fun g => g.screened && !g.m0done) = false ∧
    ({ up with flights := [{ twice7 with ln := 6 }, twice7] } : State).unitTurn 7 (fun g => g.m0done && !g.swept) = false ∧ (withFlight lagging).flight 7 = some lagging ∧ lagging.tb = 0 ∧ (∃ row ∈ lagging.rows, row.drawsGumbel = true) ∧
    ((withFlight snapped7).fixedBad.any fun c => snapped7.clusters.contains c) = false ∧
    (withFlight twice7).flight 7 = some twice7 ∧ twice7.m0done = true ∧ twice7.swept = false ∧
    after (exec (.m0Broadcast 7 true) (withFlight lagging)) (fun u => (u.flight 7).any (·.tb == 4)) = true := by decide +kernel
set_option maxRecDepth 100000 in
theorem test_second_screen : after (exec (.sumSweep 7 []) (withFlight twice7)) (fun u => (u.flight 7).any (·.swept)) = true := by decide +kernel


/-- RefineRoundStaysInItsBudget: a row that is not done, and one that is. -/
theorem witness_refine : (withFlight todo7).laneTurn 7 none = true ∧ ({ up with flights := [{ todo7 with ln := 6, prog := { todo7.prog with prec := 1 } }, todo7] } : State).laneTurn 7 none = false ∧ (withFlight todo7).flight 7 = some todo7 ∧ todo7.m0done = true ∧ todo7.selected = false ∧
    todo7.rows[0]? = some { row1 with scr := some scr0, phase := .todo } ∧ swept7.rows[0]? = some { row0 with scr := some scr0, phase := .certified } ∧
    (0 : Nat) ≤ todo7.prog.k ∧ after (exec (.refineRound 7 0 [] false) (withFlight todo7)) (fun u => (u.flight 7).isSome) = true ∧
    after (exec (.refineRound 7 0 [] false) (withFlight swept7)) (fun u => (u.flight 7).any fun g => g.rows.all (·.ref.isEmpty)) = true := by decide +kernel

/-- ... and a row past the drafts of its run. -/
def discarded7 : Flight :=
  { todo7 with rows := List.replicate 3 { row1 with scr := some scr0, phase := .todo }, runs := [{ (default : VRun) with dlen := 2, draft := [5, 6], deff := 1 }] }
theorem witness_discard : (withFlight discarded7).laneTurn 7 none = true ∧ (withFlight discarded7).flight 7 = some discarded7 ∧ discarded7.discards 2 = true ∧ todo7.discards 0 = false ∧
    after (exec (.refineRound 7 2 [] false) (withFlight discarded7)) (fun u => (u.flight 7).any fun g => (g.rows.map (·.phase)).getD 2 .todo == .ended) = true := by
  decide +kernel

/-- SelectAndVerifyDecideEveryRow: a run of one draft that its row agrees with, and a failed run. -/
def run0 : VRun := { (default : VRun) with dlen := 1, draft := [5], deff := 1 }
def verifying : Flight :=
  { selected7 with
    prog := { smallProg with rows := 3, verify := some (false, 1, 2, 0x5000) }
    rows := List.replicate 3 { row0 with out := some { (default : RowOut) with disp := .normal, token := some 5 } }
    runs := [run0, { run0 with row0 := 2, dlen := 0, failed := true }] }
def bufferFull : State := { up with flights := [{ selected7 with ln := 6, prog := { smallProg with rows := 512 } }, swept7] }
theorem witness_select : (withFlight swept7).flight 7 = some swept7 ∧ swept7.prog.isScore = false ∧ swept7.certified = true ∧ (withFlight swept7).bufferFits swept7 = true ∧
    bufferFull.flight 7 = some swept7 ∧ bufferFull.bufferFits swept7 = false ∧
    after (exec (.select 7) bufferFull) (fun u => !(u.flight 7).any (·.selected)) = true ∧
    after (exec (.select 7) (withFlight swept7)) (fun u => (u.flight 7).any (·.selected)) = true ∧
    (withFlight verifying).flight 7 = some verifying ∧ verifying.prog.verify ≠ none ∧ verifying.merged = true ∧ verifying.verified = false ∧
    verifying.runs[1]? = some { run0 with row0 := 2, dlen := 0, failed := true } ∧
    after (exec (.verify 7) (withFlight verifying)) (fun u => (u.flight 7).any fun g => g.verified && g.runs.map (·.na) == [1, 0]) = true := by decide +kernel

/-- EmitAndCompletionOfAStep: EMIT of a step, of a merge group's writing chip whose ring is full, and the status. -/
def group2 : GroupDesc := { c := 2, self := 0, mgId := 1, rxBase := 0x8000, rxBytes := 0x800, peers := [(0x8000, 0x9000, 0, 64), (0xA000, 0xB000, 64, 128)] }
def grouped (f : Flight) : Flight :=
  { f with prog := { f.prog with xmerge := some (false, true, 1, 0, 1, 0), group := some group2 }, mrSent := 1, mrDone := 1 }
def ringRow : RowState := { row0 with slot := some 9, bound := true, out := some { (default : RowOut) with disp := .normal, token := some 5 } }
def fullRing : Flight := grouped { selected7 with rows := [ringRow] }
/-- Slot 9 has a ring of 256 records of which none is free; the control block says that 0 or 256 have been read. -/
def ringFull (f : Flight) (cons : Nat) : State :=
  State.putMem { ((((withFlight f).setF (fE_STATE 9) 2).setF (fE_PROD 9) (2 ^ (withFlight f).getF (fE_RORDER 9))).setF (fE_CB 9) 0x7000) with flights := [f] } 0x7008 (leBytes 8 cons)
theorem witness_emit : (withFlight selected7).unitTurn 7 Flight.emitReady = true ∧ (ringFull fullRing 0).unitTurn 7 Flight.emitReady = true ∧
    ({ up with flights := [{ selected7 with ln := 6 }, selected7] } : State).unitTurn 7 Flight.emitReady = false ∧
    (withFlight selected7).ringsFit { selected7 with emitting := true, gEmit := up.gc } = true ∧ (withFlight selected7).flight 7 = some selected7 ∧ selected7.emitReady = true ∧ selected7.prog.xmerge = none ∧
    fullRing.emitReady = true ∧ (ringFull fullRing 0).ringsFit { fullRing with emitting := true, gEmit := (ringFull fullRing 0).gc } = false ∧
    (ringFull { fullRing with emitting := true } 0).ringsFit { fullRing with emitting := true } = false ∧
    after (exec (.emit 7) (withFlight selected7)) (fun u => (u.flight 7).any (·.emitted)) = true ∧
    after (exec (.emit 7) (ringFull fullRing 0)) (fun u => (u.flight 7).any fun g => g.emitting && !g.emitted) = true ∧
    after (exec (.emitConsRetry 7) (ringFull { fullRing with emitting := true } 0)) (fun u => (u.flight 7).any fun g => !g.emitted) = true ∧
    after (exec (.emitConsRetry 7) (ringFull { fullRing with emitting := true } 256)) (fun u => (u.flight 7).any fun g => g.emitted) = true := by decide +kernel

def done7 : Flight := { emitted7 with complete := true }
theorem witness_status : ({ up with flights := [{ done7 with ln := 6 }, done7] } : State).statusTurn done7 = false ∧
    ({ up with flights := [{ done7 with ln := 6 }, done7] } : State).flight 7 = some done7 ∧ (withFlight done7).flight 7 = some done7 ∧ (withFlight done7).flightQuiet 7 = true ∧ done7.digestOver = true ∧
    (withFlight done7).statusTurn done7 = true ∧ (withFlight done7).portUp ((withFlight done7).portOf 0x400) = true ∧
    (withFlight emitted7).flightQuiet 7 = true ∧ emitted7.complete = false ∧ (withFlight selected7).emitOver selected7 = false ∧
    after (exec (.completionStatus 7) (withFlight done7)) (fun u => u.flights.isEmpty && u.getF (fQ_DONE 31) == 1) = true ∧
    after (exec (.completionStatus 7) (withFlight selected7)) (fun u => !u.flights.isEmpty) = true := by decide +kernel
set_option maxRecDepth 100000 in
theorem test_screen_runs : after (exec (.screen 7 []) (withFlight snapped7)) (fun u => (u.flight 7).any (·.screened)) = true := by decide +kernel

/-- ScoreStepsPassTheirPhases: a poisoned score row, a paired step, and both gradient phases. -/
def poisonRow : RowState := { row0 with poison := true, scr := some scr0, phase := .poisoned }
def scored0 : Flight := { swept7 with prog := { smallProg with scoreq := some (0x1000, 0x2000) }, rows := [poisonRow] }
def poisonScore : RowOut := { (default : RowOut) with disp := .poison }
def paired7 : Flight := { selected7 with prog := { smallProg with klref := some (0x3F800000, 0) }, rows := [{ poisonRow with out := some poisonScore }] }
def gradDesc : GradDesc := { (default : GradDesc) with dhSrc := 1, dlAddr := 0x4000, dhAddr := 0x8000 }
def grad7 : Flight :=
  { scored0 with prog := { scored0.prog with grad := some gradDesc, gradAt := some 0x100 }, scored := true, rows := [{ poisonRow with out := some poisonScore }] }
set_option maxRecDepth 100000 in
theorem witness_score : (withFlight paired7).unitTurn 7 (fun g => g.prog.paired && (g.selected || g.scored) && !g.klDone) = true ∧ grad7.gradReady = true ∧
    (withFlight grad7).unitTurn 7 Flight.gradReady = true ∧ ({ grad7 with gradDone := true }).transReady = true ∧
    (withFlight { grad7 with gradDone := true }).unitTurn 7 Flight.transReady = true ∧
    ({ up with flights := [{ grad7 with ln := 6 }, grad7] } : State).unitTurn 7 Flight.gradReady = false ∧
    ({ up with flights := [{ grad7 with ln := 6, gradDone := true }, grad7] } : State).unitTurn 7 Flight.transReady = false ∧
    (withFlight scored0).flight 7 = some scored0 ∧ scored0.prog.isScore = true ∧ scored0.certified = true ∧ scored0.scored = false ∧ (withFlight scored0).bufferFits scored0 = true ∧
    paired7.rows[0]? = some { poisonRow with out := some poisonScore } ∧ poisonScore.disp = .poison ∧
    scored0.rows[0]? = some poisonRow ∧ poisonRow.spoiled = true ∧ paired7.prog.paired = true ∧ paired7.klDone = false ∧
    grad7.prog.grad = some gradDesc ∧ grad7.merged = true ∧ grad7.prog.paired = false ∧ gradDesc.dhSrc ≠ 0 ∧
    after (exec (.scoreq 7 [] false) (withFlight scored0)) (fun u => (u.flight 7).any (·.scored)) = true ∧
    after (exec (.klref 7 [] false) (withFlight paired7)) (fun u => (u.flight 7).any (·.klDone)) = true ∧
    after (exec (.grad 7 []) (withFlight grad7)) (fun u => (u.flight 7).any (·.gradDone)) = true ∧
    after (exec (.gradTransposedPass 7 []) (withFlight { grad7 with gradDone := true })) (fun u => (u.flight 7).any (·.transDone)) = true := by decide +kernel

/-- MergeRoundsFollowTheCount: the first round of a group of two. -/
def sending : Flight := { grouped { selected7 with rows := [ringRow] } with mrSent := 0, mrDone := 0 }
def sentRound : Flight := { sending with mrSent := 1 }
theorem witness_merge : (mergeCtx sending 0).map (·.rnd) = some 1 ∧ sending.merged = false ∧ sending.rows[0]? = some ringRow ∧
    (mergeCtx sending 0).all (fun m => mergeRecord sending m 0 ringRow != []) = true ∧ (withFlight sending).flight 7 = some sending ∧
    (1 - 1) * 2 ≤ (withFlight sending).getF fXM_CNT ∧ (mergeCtx { sending with prog := { sending.prog with xmerge := some (false, true, 1, 0, 2, 0) } } 0).map (·.rnd) = some 2 ∧
    (withFlight sending).getF fXM_CNT < (2 - 1) * 2 ∧ sentRound.mrDone < sentRound.mrSent ∧ 1 * 2 ≤ ((withFlight sentRound).setF fXM_CNT 2).getF fXM_CNT ∧
    (withFlight sentRound).mergeTurn sentRound = true ∧ (withFlight sentRound).getF fXM_CNT < 1 * 2 ∧
    after (exec (.xmerge 7) (withFlight sending)) (fun u => u.out.length == 2 && (u.flight 7).any (·.mrSent == 1)) = true ∧
    after (exec (.mergeRoundComplete 7 [] false) (withFlight sentRound)) (fun u => (u.flight 7).any (·.mrDone == 0)) = true := by decide +kernel

/-- DigestsAreWeighedLoggedAndBisected: with and without `WR`; a bisection in hand, and its last round. -/
def digesting (wr : Bool) : Flight := { emitted7 with prog := { smallProg with digest := some (wr, false, 0x600) }, rowBytes := [[1, 2, 3]] }
def bisecting (hi : Nat) : State :=
  { withFlight (digesting true) with sync := { up.sync with cmpLn := some 7, bisect := some (0, hi, 0), delivered := true, log := [4, 5, 6, 7] } }
theorem witness_digest : (withFlight (digesting true)).flight 7 = some (digesting true) ∧ (digesting true).digestOver = false ∧
    (withFlight (digesting true)).flightQuiet 7 = true ∧ (withFlight (digesting true)).digestTurn (digesting true) = true ∧
    (withFlight (digesting true)).compares false = false ∧ (withFlight (digesting true)).portUp ((withFlight (digesting true)).portOf 0x600) = true ∧
    up.bad = [] ∧ up.sync.cmpLn = none ∧ (bisecting 4).flight 7 = some (digesting true) ∧
    after (exec .digestBisectRound (bisecting 4)) (fun u => u.sync.bisect.any fun b => b.2.1 - b.1 == 2 && b.2.2 == 1) = true ∧
    after (exec .digestBisectRound (bisecting 2)) (fun u => u.mismatch && u.sync.cmpLn == none) = true ∧
    weighSum [4, 5, 6] 0 = 4 * 1 + 5 * 3 + 6 * 5 := by decide +kernel
/-- ... and a step whose digest is compared, which here weighs to 0. -/
def compared : Flight := { emitted7 with prog := { smallProg with rows := 0, digest := some (false, true, 0x600) }, rows := [], rowBytes := [] }
def comparesNow (d : Bool) : State := { (withFlight compared).setF fLS_EN 1 with sync := { up.sync with delivered := d } }
theorem witness_compared : (comparesNow true).flight 7 = some compared ∧ (comparesNow true).compares true = true ∧ (comparesNow true).sync.bisect = none ∧
    weighSum ((comparesNow true).loggedWords (tileWords compared)) 0 = 0 ∧ (comparesNow true).getF fDG_LO = 0 ∧ (comparesNow true).getF fDG_HI = 0 ∧
    weighSum (compared.rowBytes.map fun b => (crc32c b).toNat) 0 = 0 ∧ (comparesNow true).digestTurn compared = true ∧
    after (exec (.digest 7) (comparesNow true)) (fun u => u.sync.cmpLn == none && (u.flight 7).any (·.digested)) = true ∧
    after (exec (.digest 7) (comparesNow false)) (fun u => u.sync.cmpLn == some 7 && u.out.length == 1) = true := by decide +kernel
theorem witness_digest_written : after (exec (.digest 7) (withFlight (digesting false))) (fun u => (u.flight 7).any (·.digested)) = true := by decide +kernel

/-- RepackStartsCompletesOrStops: a descriptor that every check passes, one that none does, a build that is complete and one that has lost a cluster. -/
def job2 : RepackJob := { order := 0, given := true, queue := 31, psid := 2, rd := 0x4000, ln := 0, strict := false }
def goodDesc : List Byte :=
  leBytes 1 1 ++ leBytes 1 0 ++ leBytes 1 0 ++ leBytes 1 0 ++ leBytes 2 1 ++ leBytes 2 0 ++ leBytes 4 0 ++ leBytes 4 64 ++ leBytes 4 64 ++ leBytes 4 0 ++
  leBytes 8 0x10000 ++ leBytes 8 128 ++ leBytes 8 0 ++ leBytes 8 0 ++ leBytes 8 0x20000 ++ leBytes 8 0x30000 ++ leBytes 8 0x40000 ++ leBytes 8 0x50000 ++
  leBytes 40 0
def asked (desc : List Byte) : State :=
  { withInsn (.repack 2 0x4000) with repackQ := [job2], mem := Store.writeRange memDefault [] 0x4000 desc }
def build1 : RepackRun :=
  { (default : RepackRun) with job := job2, desc := { (default : RepackDesc) with mfmt := 1, hd := 1, vHi := 1, wBase := 0x10000, wStride := 128, report := 0x50000 } }
def building : State := { (up.setF (fPS_STATE 2) 1).setF (fPS_EPOCH 2) 6 with repack := some build1 }
def losing : State := { building with repack := some { build1 with lost := true } }
theorem witness_repack : shaped (asked goodDesc) = true ∧ (asked goodDesc).repackReady job2 = true ∧
    ((asked goodDesc).readHost 4 2 0x4000 128 (0xFFFFFFFF, 31)).2.2 = false ∧
    (asked goodDesc).repackRefusal 2 ((asked goodDesc).memAt 0x4000 128).toArray (parseRepack ((asked goodDesc).memAt 0x4000 128).toArray) = none ∧
    (asked goodDesc).regionWaits 2 0 (parseRepack ((asked goodDesc).memAt 0x4000 128).toArray) = false ∧
    (asked []).repackRefusal 2 ((asked []).memAt 0x4000 128).toArray (parseRepack ((asked []).memAt 0x4000 128).toArray) = some 1 ∧
    ((asked []).qx 31).item = some (standing (.repack 2 0x4000)) ∧ (standing (.repack 2 0x4000)).order = job2.order ∧ (asked []).halted 31 = false ∧
    after (exec .repackStart (asked goodDesc)) (fun u => u.getF (fPS_STATE 2) == 1) = true ∧
    after (exec .repackStart (asked [])) (fun u => u.getF (fPS_STATE 2) == 0 && u.getF (fQ_HALT 31) == 7) = true := by decide +kernel
/-- ... one not yet handed over, a poisoned descriptor, and one whose region an earlier step holds. -/
def notGiven : State := { asked goodDesc with repackQ := [{ job2 with given := false }] }
def poisonDesc : State := (asked goodDesc).setF fSIZE_G 1
/-- A set placed in Paddock, while flight 7 holds its working set, decoded before. -/
def placing : State :=
  { ((asked (putBytes (putBytes goodDesc 2 [1]) 56 (leBytes 8 0))).setF fCL_SVC 1) with repackQ := [{ job2 with ln := 8 }], flights := [{ launched with allocd := true }] }
def poisonBuild : State := building.setF fSIZE_G 1
theorem witness_repack_waits : notGiven.repackReady { job2 with given := false } = false ∧ poisonDesc.repackReady job2 = true ∧
    (poisonDesc.readHost 4 2 0x4000 128 (0xFFFFFFFF, 31)).2.2 = true ∧
    placing.repackReady { job2 with ln := 8 } = true ∧
    placing.repackRefusal 2 (placing.memAt 0x4000 128).toArray (parseRepack (placing.memAt 0x4000 128).toArray) = none ∧
    placing.regionWaits 2 8 (parseRepack (placing.memAt 0x4000 128).toArray) = true ∧ poisonBuild.windowFail build1.desc ≠ none ∧
    after (exec .repackStart placing) (fun u => u.repackQ.length == 1 && u.repack.isNone) = true ∧
    after (exec .repackStop poisonBuild) (fun u => u.getF (fPS_STATE 2) == 3 && u.getF (fPS_EPOCH 2) == 6) = true ∧
    after (exec .repackStart notGiven) (fun u => u.repackQ.length == 1 && u.repack.isNone) = true ∧
    after (exec .repackStart poisonDesc) (fun u => u.getF (fQ_HALT 31) == 7 && u.getF (fPS_STATE 2) == 0) = true := by decide +kernel
theorem witness_build : building.repack = some build1 ∧ build1.lost = false ∧ building.windowFail build1.desc = none ∧
    after (exec .repackComplete building) (fun u => u.getF (fPS_STATE 2) == 2 && u.getF (fPS_EPOCH 2) == 7) = true ∧
    losing.repack = some { build1 with lost := true } ∧ after (exec .repackComplete losing) (fun u => u.repack.isSome) = true := by decide +kernel

/-- MaskLoadsAndNormalsWriteTheirResults. -/
def maskJob : MaskJob := { order := 0, queue := 31, set := 63, base := 64, len := 64, src := 0x100, ln := 8 }
def loadingMask : State := { running { queueReset with loads := 1 } with maskJobs := [maskJob] }
def maskHeld : State := { loadingMask with flights := [launched] }
def normal7 (post : Nat) : Flight := { launched with normal := some { normDesc with post := post } }
theorem witness_mask : shaped loadingMask = true ∧ loadingMask.maskBusy maskJob = false ∧ maskHeld.maskBusy maskJob = true ∧
    after (exec .maskLoadComplete loadingMask) (fun u => (u.masks.getD 63 none).any (·.base == 64) && (u.qx 31).loads == 0) = true ∧
    after (exec .maskLoadComplete maskHeld) (fun u => u.maskJobs.length == 1) = true ∧
    (withFlight (normal7 0)).arraysFree 7 = true ∧ (withFlight (normal7 0)).portUp ((withFlight (normal7 0)).portOf 0x100) = true ∧
    ({ up with flights := [{ launched with ln := 6 }, normal7 0] } : State).arraysFree 7 = false := by decide +kernel
theorem test_normal_writes : after (exec (.normal 7) (withFlight (normal7 0))) (fun u => (u.flight 7).any (·.emitted)) = true ∧
    after (exec (.normal 7) (withFlight (normal7 128))) (fun u => (u.flight 7).any (·.emitted) && u.freeCtr == 1) = true := by decide +kernel

/-- CommitsAreCheckedCopiedAndDrained. -/
def checking : State := closed.setF fFARRIER_UP 1
theorem witness_commit : shaped checking = true ∧ checking.getF fSHADOW_ST = 1 ∧ checking.tabPassed = false ∧ checking.flag fFARRIER_UP = true ∧
    commitCheck (checking.bankWord checking.shadowBank) = none ∧ shaped { closed with tabPassed := true } = true ∧
    (up.setF fSHADOW_ST 4).flights = [] ∧ (up.setF fSHADOW_ST 4).getF fSHADOW_ST = 4 ∧
    ((withFlight { launched with bank := 1 }).setF fSHADOW_ST 4).activeBank = 0 ∧
    after (exec .commitCheckDone checking) (fun u => u.tabPassed) = true ∧
    after (exec .laneCopyDone { closed with tabPassed := true }) (fun u => u.getF fSHADOW_ST == 2 && u.getF fPEND_EPOCH == 1) = true ∧
    after (exec .bankDrainDone (up.setF fSHADOW_ST 4)) (fun u => u.getF fSHADOW_ST == 5) = true ∧
    after (exec .bankDrainDone ((withFlight { launched with bank := 1 }).setF fSHADOW_ST 4)) (fun u => u.getF fSHADOW_ST == 4) = true ∧
    after (exec .bankCopyDone (up.setF fSHADOW_ST 5)) (fun u => u.getF fSHADOW_ST == 0) = true := by decide +kernel

/-- ... and a table with `QBITS` 63, whose commit queue 31 waits for. -/
def badTable : State := { (go on31 (.tableWindowWrite 0x100 (BitVec.ofNat 64 (2 ^ 33 + 63 * 2 ^ 22)) snd0)).setF fSHADOW_ST 1 |>.setF fFARRIER_UP 1 with tabQueue := some 31 }
theorem witness_commit_fails : (commitCheck (badTable.bankWord badTable.shadowBank)).isSome = true ∧ badTable.tabPassed = false ∧
    badTable.halted 31 = false ∧ after (exec .commitCheckDone badTable) (fun u => u.getF fSHADOW_ST == 3 && u.getF (fQ_HALT 31) == 8) = true := by decide +kernel

/-- RequestsAreAdmittedAgedAndExpired: an entry without a prompt length, and one that every check passes. -/
def admitting : State := up.setF (fE_STATE 9) 1
def goodBlock : List Byte := [4, 0, 0, 0, 0, 0, 0, 0] ++ leBytes 4 0x3F800000 ++ leBytes 4 0 ++ leBytes 4 0x3F800000 ++ List.replicate 236 0
def admittable : State :=
  { (((((admitting.setF (fE_PLEN 9) 1).setF (fE_HPAGES 9) 2).setF (fE_PB 9) 0x3000).setF (fE_RORDER 9) 4).setF fGC_NOW 77) with
    mem := Store.writeRange memDefault [] 0x3000 goodBlock }
theorem witness_admission : admitting.nextAdmit = some 9 ∧ admitting.fieldsAdmit 9 = false ∧ admittable.nextAdmit = some 9 ∧ admittable.fieldsAdmit 9 = true ∧
    (admittable.readParam (admittable.getF (fE_PB 9))).2 = some (parseParam goodBlock.toArray) ∧
    paramOk (parseParam goodBlock.toArray) (admittable.flag (fE_CLASS 9)) admittable.maskLoaded = true ∧ admittable.getF (fE_STOP 9) = 0 ∧
    ((admittable.readParam (admittable.getF (fE_PB 9))).1.admitRing 9).2 = true ∧
    ((((admittable.readParam (admittable.getF (fE_PB 9))).1.admitRing 9).1).admitHist 9 false).2.1 = true ∧ admittable.flag (fE_YEN 9) = false ∧
    after (exec .admission admitting) (fun u => u.eState 9 == 7 && u.getF (fE_REASON 9) == 0x10) = true ∧
    after (exec .admission admittable) (fun u => u.eState 9 == 2 && u.getF (fE_LASTGC 9) == 77) = true := by decide +kernel
/-- ... and one that fails each of the later checks: its parameter block, its stop set, its ring, its history, its tenant's key. -/
def failBlock : State := admittable.setF (fE_PB 9) 0x9000
def failStop : State := (admittable.setF (fE_STOP 9) 0x6000).putMem 0x6000 (List.replicate 8 255)
def failRing : State := (admittable.setF (fE_CB 9) 0x7000).putMem 0x7008 [1]
def failHist : State := (admittable.setF (fE_HISTPL 9) 0x5000).putMem 0x5000 [1]
def failKey : State := admittable.setF (fE_YEN 9) 1
theorem witness_admission_fails :
    after (exec .admission failBlock) (fun u => u.eState 9 == 7 && u.getF (fE_REASON 9) == 0x11) = true ∧
    after (exec .admission failStop) (fun u => u.eState 9 == 7 && u.getF (fE_REASON 9) == 0x12) = true ∧
    after (exec .admission failRing) (fun u => u.eState 9 == 7 && u.getF (fE_REASON 9) == 0x13) = true ∧
    after (exec .admission failHist) (fun u => u.eState 9 == 7 && u.getF (fE_REASON 9) == 0x14) = true ∧
    after (exec .admission failKey) (fun u => u.eState 9 == 7 && u.getF (fE_REASON 9) == 0x15) = true := by decide +kernel
/-- The request of chapter 11 whose deadline has passed and which has nothing in flight, and one that waits. -/
def overdue : State := ((up.setF (fE_STATE 513) 2).setF (fE_DEADLINE 513) 1000000).setF fGC_NOW 1001150
theorem witness_deadline : overdue.eState 513 = 2 ∧ overdue.getF (fE_INFL 513) = 0 ∧ overdue.getF (fE_DEADLINE 513) < overdue.gc ∧ up.getF fAGE_Q = 0 ∧
    (overdue.setF fAGE_Q 1000000).getF fAGE_Q ≠ 0 ∧
    after (exec .deadlineScan overdue) (fun u => u.eState 513 == 6 && u.getF (fE_REASON 513) == 6) = true ∧
    after (exec .ageing (overdue.setF fAGE_Q 1000000)) (fun u => u.getF (fE_EPRIO 513) == 1) = true := by decide +kernel

/-- FarrierDisposesResetsAndReports: an exception of each kind, no exception, Farrier's reset with and without a command in hand, its restart, telemetry. -/
def raised (x : Exc) : State := { farUp with far := { farUp.far with exq := [(x, default, 9)] } }
def reporting (t : Option (Nat × Nat)) (shed : Bool) : State := { farUp with far := { farUp.far with telem := t, shed := shed } }
def recOf : RecRef := { plane := 1, base := 0, chunk := 0 }
theorem witness_farrier : (raised (.linkLog .hport)).flag fFARRIER_UP = true ∧ (raised (.padRepair 3 5 1)).psReady 1 = false ∧ (raised (.scrubFix 1 recOf)).psReady 1 = false ∧
    ([(Exc.linkLog .hport, Instr.linkLog), (.lockstepLog [1, 2], .lockstepLog), (.staleFail 3 [7], .staleFail), (.sorrelCheck 3, .sorrelCheck true),
      (.ceStorm default, .ceStorm false), (.padRepair 3 5 1, .padRepair [] false), (.scrubFix 1 recOf, .scrubFix)].all fun p =>
      after (exec p.2 (raised p.1)) fun u => u.far.exq.isEmpty && u.far.log.length == 1) = true ∧
    after (exec .staleFail (raised (.staleFail 3 [7]))) (fun u => u.far.log == [⟨default, 9, 8, [7]⟩]) = true ∧
    after (exec (.ceStorm true) (raised (.ceStorm default))) (fun u => u.far.log.length == 1 && u.flag (fERR_CLASS 17)) = true ∧
    up.far.exq = [] ∧ after (exec .scrubFix up) (fun u => u.far.log.isEmpty) = true ∧
    after (exec .scrubFix (raised (.sorrelCheck 3))) (fun u => u.far.log.isEmpty && u.far.exq.length == 1) = true := by decide +kernel
/-- Plane set 1: one P1 row record, placed in cluster 0 with a good host copy at 0x10000. -/
def p1Bytes : List Byte := buildP1 ⟨false, 0, 1, 1, false⟩ (List.replicate 2 ⟨0, [], 0, List.replicate 32 0, 0, [], ⟨0, 1⟩⟩) 0 0
def rowSet (s : State) : State :=
  { ((((((s.setF (fPS_STATE 1) 2).setF (fPS_VHI 1) 1).setF (fPS_HDIM 1) 1).setF (fPS_RES 1 1) 1).setF (fPS_PDLEN 1) 1).setF (fPS_HOST 1 1) 0x10000) with
    placed := up.placed.set 1 [0] }
def repairing (copy : List Byte) : State := { (rowSet (raised (.padRepair 0 3 1))).putMem 0x10000 copy with bad := [.planeRegion 0 3] }
set_option maxRecDepth 100000 in
theorem witness_repair : (repairing p1Bytes).psReady 1 = true ∧ wordRecord ((repairing p1Bytes).planeView 1) 0 3 = some ⟨1, 0, 0⟩ ∧
    (RecId.mk 1 0 0).loc ((repairing p1Bytes).planeView 1) = .pad 0 0 ∧
    ((repairing p1Bytes).useOf ((repairing p1Bytes).planeView 1).atHost ⟨1, 0, 0⟩ false).1 = true ∧
    ((repairing []).useOf ((repairing []).planeView 1).atHost ⟨1, 0, 0⟩ false).1 = false ∧
    ((repairing p1Bytes).checkRecord ((repairing p1Bytes).planeView 1).atHost ⟨1, 0, 0⟩).2.length = 256 := by decide +kernel
def fixing : State := (rowSet (raised (.scrubFix 1 recOf))).putMem 0x10000 [9]
set_option maxRecDepth 100000 in
theorem witness_scrub_fix : fixing.psReady 1 = true ∧ (fixing.planeView 1).resident 1 = true ∧ (fixing.planeView 1).hostBase 1 ≠ 0 ∧
    (fixing.readLoc ((recIdOf (fixing.planeView 1) recOf).loc (fixing.planeView 1)) 256).pois = false ∧
    (∀ m ∈ fixing.messages none true 0x10000 256, fixing.portUp m.1 = true) ∧
    after (exec .scrubFix fixing) (fun u => u.memAt 0x10000 1 == [0] && u.far.log.length == 1) = true := by decide +kernel
theorem witness_farrier_reset : farUp.flag fFARRIER_UP = true ∧ farUp.far.mailbox = none ∧ leaseHeld.flag fFARRIER_UP = true ∧ leaseHeld.far.mailbox = some (7, 9) ∧
    up.served = true ∧ up.flag fFARRIER_UP = false ∧
    after (exec .farrierReset (farUp.setF fSHADOW_ST 1)) (fun u => !u.flag fFARRIER_UP && u.getF fFR_RST == 1 && u.getF fSHADOW_ST == 3) = true ∧
    after (exec .farrierRestartDone up) (fun u => u.flag fFARRIER_UP) = true := by decide +kernel
theorem witness_telemetry : (reporting none false).far.telem = none ∧ (reporting (some (0x4000, 100)) true).far.shed = true ∧
    (reporting (some (0x4000, 100)) false).far.telem = some (0x4000, 100) ∧ (reporting (some (0x4000, 100)) false).far.shed = false ∧
    (∀ m ∈ (reporting (some (0x4000, 100)) false).messages none true 0x4000 256, (reporting (some (0x4000, 100)) false).portUp m.1 = true) ∧
    after (exec .telemetryPeriod (reporting (some (0x4000, 100)) true)) (fun u => u.far.skipped == 1) = true ∧
    after (exec .telemetryPeriod (reporting (some (0x4000, 100)) false)) (fun u => u.far.num == 1 && u.memAt 0x4008 4 == leBytes 4 1) = true := by decide +kernel

/-- WatchdogsEndWhatIsLate. -/
def owes (p : Port) (why : Purpose2) : Outstanding := { port := p, tag := 5, addr := 0x100, len := 8, why := why, hdr := default, wait := none }
def owed (p : Port) (why : Purpose2) : State := { up with out := [owes p why] }
def owedMc (why : Purpose2) : State := { (up.setF (fMC_UP 15) 1) with out := [owes (.mc 15) why] }
theorem witness_watchdogs : (withFlight launched).flight 7 = some launched ∧ launched.complete = false ∧ launched.cstat ≠ 1 ∧
    ({ launched with complete := true }).cstat ≠ 1 ∧ ({ launched with cstat := 1 }).cstat = 1 ∧
    after (exec (.stepTimeout 7) (withFlight done7)) (fun u => u.getF fSTEP_TO == 1 && (u.flight 7).any (·.cstat == 1)) = true ∧ up.findOut .hport 5 = none ∧
    (owed .hport .plain).findOut .hport 5 ≠ none ∧ (owedMc .plain).findOut (.mc 15) 5 ≠ none ∧
    after (exec (.stepTimeout 7) (withFlight launched)) (fun u => u.getF fSTEP_TO == 1 && (u.flight 7).any (·.cstat == 1)) = true ∧
    after (exec (.rspTimeout .hport 5) (owed .hport .plain)) (fun u => u.getF fLSTATE == 5 && u.getF fTK_FAIL == 6) = true ∧
    after (exec (.rspTimeout (.mc 15) 5) (owedMc .plain)) (fun u => !u.flag (fMC_UP 15) && u.out.isEmpty) = true := by decide +kernel

/-- DamageIsCountedAndReported: a word of a lane copy and of a tenant key, found and not found before; the scrubber on a plane of one record and on no plane; a window; a lane before and after its 2^16 chunks. -/
def hurt : State := { up with bad := [.laneCopy 15 3] }
def scrubbing : State :=
  (((((up.setF fSCRUB_EN 1).setF (fPS_STATE 2) 2).setF (fPS_VHI 2) 64).setF (fPS_HDIM 2) 1).setF (fPS_HOST 2 0) 0x10000)
def scrubEnd : State := { scrubbing with scrub := (3, 0, 0) }
def windowOpen : State := { up with ev := { up.ev with coal := [(.halCe, default)] } }
def lane4 (n : Nat) : State := { up with sorrel := [(2 ^ 16 * 15 + 4, ⟨5, n, 77, 3⟩)] }
theorem witness_damage : SramPart.laneCopy 15 3 ∈ hurt.bad ∧ SramPart.laneCopy 15 3 ∉ up.bad ∧ SramPart.tenantKey 239 1 ∉ up.bad ∧ (up.setF fSCRUB_EN 0).flag fSCRUB_EN = false ∧
    scrubbing.flag fSCRUB_EN = true ∧ (scrubFrom scrubbing.scrubPlanes scrubbing.scrub).isSome = true ∧
    scrubFrom scrubEnd.scrubPlanes scrubEnd.scrub = none ∧ (scrubFrom scrubEnd.scrubPlanes (0, 0, 0)).isSome = true ∧
    scrubFrom (up.setF fSCRUB_EN 1).scrubPlanes (0, 0, 0) = none ∧
    windowOpen.ev.coal.find? (fun p => p.1 == CoalKey.halCe) = some (.halCe, default) ∧
    (lane4 65536).sorrel.find? (fun p => p.1 == laneKey 15 4) = some (2 ^ 16 * 15 + 4, ⟨5, 65536, 77, 3⟩) ∧ (lane4 65536).far.sorrelOff.getD 15 0 = 0 ∧
    (lane4 65536).strict = false ∧ ((lane4 65536).setF fSTRICT 1).strict = true ∧ (78 : BitVec 32) ≠ 77 ∧ (78 : BitVec 32) ≠ 79 := by decide +kernel
theorem witness_window_key : ∀ a b, CoalKey.halCe ≠ .rowCode a b := by
  intro a b h; cases h
set_option maxRecDepth 100000 in
theorem test_damage : after (exec (.sramPatrol (.laneCopy 15 3) false false 1) up) (fun u => u.getF fCE_SRAM == 1 && u.bad.isEmpty) = true ∧
    after (exec (.sramPatrol (.laneCopy 15 3) true false 1) up) (fun u => u.getF fUE_SRAM == 1 && u.bad.length == 1) = true ∧
    after (exec (.sramPatrol (.laneCopy 15 3) true false 1) hurt) (fun u => u.getF fUE_SRAM == 0) = true ∧
    after (exec (.sramPatrol (.tenantKey 239 1) true false 1) (go up (.tenantKeyWrite 239 true 77 snd0))) (fun u => !u.keySet 239) = true ∧
    after (exec (.scrubRead false) scrubbing) (fun u => u.scrub == (0, 0, 0) && u.getF fPASSES == 1) = true ∧
    after (exec (.coalesceWindowClose .halCe) windowOpen) (fun u => u.ev.coal.isEmpty && u.ev.seq == 1) = true ∧
    after (exec (.sorrelReseed 15 4 77 79) (lane4 65536)) (fun u => u.flag (fERR_CLASS 15) && u.far.sorrelOff.getD 15 0 == 1000) = true ∧
    after (exec (.sorrelReseed 15 4 77 79) (lane4 65535)) (fun u => u.far.sorrelOff.getD 15 0 == 0) = true ∧
    after (exec (.sorrelReseed 15 4 78 79) (lane4 65536)) (fun u => u.sorrel == [(2 ^ 16 * 15 + 4, ⟨5 ^^^ 78, 0, 78, 0⟩)]) = true := by decide +kernel

/-- ResponsesRetireWhatIsOutstanding: requests of each purpose on the H-port and on channel 15, with and without another message of the same operation; a granule of channel 15; credits at the grant. -/
def remoteOf (st : Option Nat) : Purpose2 := .remote 0 31 4 0 0x100 st
def getOf : Purpose2 := .get 0 31 4 0x100 0x2000 1 none
def owed2 (p : Port) (why : Purpose2) : State := { owed p why with out := [owes p why, { owes p why with tag := 6 }] }
def granuleUp : State :=
  (((State.setF up fSIZE_G 1).setF fILV 4).setF (fMC_UP 15) 1).setF (fMC_UP 0) 1
/-- A GET of the word at 0xF000 + `o`. -/
def getUp (o : Nat) : State := { granuleUp with out := [{ owes (.mc 15) (.get 0 31 4 0xF000 0x100 1 none) with addr := 0xF000 + o }] }
def granted : State := { up with link := { up.link with inits := [(3, 4, 8)], hdr := [0, 0, 3] } }
def owedEmit (f : Flight) : State := { withFlight f with out := [owes (.mc 15) (.emit 7)] }
def owedOrd : State := { (running { queueReset with ords := some [3, 15] }) with out := [owes (.mc 15) (.ord 31)] }
theorem witness_responses : shaped up = true ∧ shaped (owed .hport (remoteOf none)) = true ∧ up.findOut .hport 5 = none ∧
    (owed .hport .plain).findOut .hport 5 = some (owes .hport .plain) ∧ (owed .hport (remoteOf none)).findOut .hport 5 = some (owes .hport (remoteOf none)) ∧
    rADDR ≠ rOK ∧ up.findOut (.mc 15) 5 = none ∧ (owedMc .plain).findOut (.mc 15) 5 = some (owes (.mc 15) .plain) ∧
    (owedEmit emitted7).findOut (.mc 15) 5 = some (owes (.mc 15) (.emit 7)) ∧ (owedEmit emitted7).flight 7 = some emitted7 ∧ emitted7.emitted = true ∧
    (State.pump { owedEmit emitted7 with out := [] } (.mc 15)).flightQuiet 7 = true ∧ selected7.emitted = false ∧ (owedEmit selected7).flight 7 = some selected7 ∧
    (∃ x ∈ (State.pump { owed2 .hport (remoteOf none) with out := [{ owes .hport (remoteOf none) with tag := 6 }] } .hport).out, x.why.opKey = (remoteOf none).opKey) ∧
    (owed2 .hport (remoteOf none)).findOut .hport 5 = some (owes .hport (remoteOf none)) ∧ (owed2 .hport getOf).findOut .hport 5 = some (owes .hport getOf) ∧
    (∀ m ∈ (owed .hport getOf).messages none true 0x2000 (8 * 1), (owed .hport getOf).portUp m.1 = true) ∧
    (owed .hport (.ringRec 7 9)).portUp ((owed .hport (.ringRec 7 9)).portOf ((owed .hport (.ringRec 7 9)).getF (fE_CB 9))) = true ∧
    owedOrd.out.find? (fun o => o.port == .mc 15 && o.wait.isNone && (match o.why with | .ord _ => true | _ => false)) = some (owes (.mc 15) (.ord 31)) ∧
    shaped granted = true ∧ granted.link.inits.find? (fun x => x.1 == 3) = some (3, 4, 8) ∧ granted.link.inits.find? (fun x => x.1 == 0) = none := by decide +kernel
/-- A response without a request: to a read outside the window, and to none that could be served. -/
theorem witness_unasked : up.served = true ∧ up.inWindow 0x100 = false ∧ ([9] : List Word64) ≠ [] ∧ State.reset.served = false ∧ State.reset.findOut .hport 5 = none ∧
    after (exec (.hResponse 5 rOK false 0x100 [9]) up) (fun u => u.memAt 0x100 8 == leBytes 8 9) = true ∧
    after (exec (.hResponse 5 rOK true 0x100 [9]) up) (fun u => u.mem == [] && u.markAt 2 == .pois) = true ∧
    after (exec (.hResponse 5 rADDR false 0x100 [9]) up) (fun u => u.mem == []) = true := by decide +kernel
theorem test_responses : after (exec (.hResponse 5 rOK false 0 []) (owed .hport .plain)) (fun u => u.out.isEmpty) = true ∧
    after (exec (.hResponse 5 rADDR false 0 []) (owed .hport (remoteOf none))) (fun u => u.out.isEmpty && u.flag (fERR_CLASS 10)) = true ∧
    after (exec (.hResponse 5 rOK false 0 []) (owed .hport (remoteOf (some 1)))) (fun u => u.flag (fERR_CLASS 10)) = true ∧
    after (exec (.hResponse 5 rOK false 0 [9]) (owed .hport getOf)) (fun u => u.memAt 0x2000 8 == leBytes 8 9 && u.out.length == 1) = true ∧
    after (exec (.hResponse 5 rOK false 0 [9]) (owed2 .hport getOf)) (fun u => u.memAt 0x100 8 == leBytes 8 9 && u.out.length == 1) = true ∧
    after (exec (.hResponse 5 rOK false 0 []) (owed .hport (.ringRec 7 9))) (fun u => u.out.any fun x => x.why == .prod 7 9) = true ∧
    after (exec (.mcWriteAck 15 5 rOK) (owedEmit emitted7)) (fun u => u.out.isEmpty && (u.flight 7).any (·.gcDone == 0)) = true ∧
    after (exec (.mcWriteAck 15 5 rADDR) (owedMc (remoteOf none))) (fun u => u.flag (fERR_CLASS 10)) = true ∧
    after (exec (.mcOrdAck 15) owedOrd) (fun u => (u.qx 31).ords == some [3] && u.out.isEmpty) = true ∧
    after (exec (.creditReturn 3 3 5) granted) (fun u => u.link.hdr == [0, 0, 4] && u.link.dat == [0, 0, 5]) = true := by decide +kernel
theorem witness_granule : shaped granuleUp = true ∧ granuleUp.flag (fMC_UP 15) = true ∧ 0xF000 % granuleUp.granule = 0 ∧ granuleUp.inWindow 0xF000 = true ∧
    granuleUp.channel 0xF000 = 15 ∧ (List.replicate 128 (9 : Byte)).length = granuleUp.granule ∧ granuleUp.findOut (.mc 15) 5 = none ∧
    ((getUp 0).findOut (.mc 15) 5).isSome = true ∧ 0xF000 + 8 ≤ 0xF000 + granuleUp.granule ∧
    (((getUp 0).putGranule 0xF000 (List.replicate 128 9) .good).granules 0xF000 8).all (fun g => g.2 == .good) = true ∧
    (∀ m ∈ (getUp 0).messages none true 0x100 (8 * 1), (getUp 0).portUp m.1 = true) := by decide +kernel
theorem test_granule : after (exec (.mcReadResponse 15 5 0xF000 (List.replicate 128 9) .pois) granuleUp) (fun u => u.markAt 0x1E0 == .pois && u.mem.isEmpty) = true ∧
    after (exec (.mcReadResponse 15 5 0xF000 (List.replicate 128 9) .good) granuleUp) (fun u => u.memAt 0xF07F 1 == [9]) = true ∧
    after (exec (.mcReadResponse 15 5 0xF000 (List.replicate 128 9) .good) (getUp 128)) (fun u => u.out.length == 1 && u.memAt 0x100 1 == [0]) = true ∧
    after (exec (.mcReadResponse 15 5 0xF000 (List.replicate 128 9) .good) (getUp 0)) (fun u => u.out.any fun x => x.addr == 0x100 && x.why == .remote 0 31 4 1 0x100 none) = true := by
  decide +kernel

/-- LinkComesUpFailsAndDetaches: each link state with what its clauses need; the modes 0 and 2; credits at the least grant and one below; an epoch half the circle ahead, less one. -/
def atState (n : Nat) : State := State.reset.setF fLSTATE n
def acked (n : Nat) : State := { atState n with link := { (atState n).link with capSeen := true, ackSent := some 2 } }
def crediting : State :=
  { (List.range 16).foldl (fun s n => s.setF (fMC_UP n) 1) ((atState 2).setF fTK_MODE 2) with
    link := { (atState 2).link with inits := [(0, 16, 64), (2, 16, 128)] }, power := { (atState 2).power with attach := .negotiate } }
def epochs : State := { (up.setF fTK_MODE 2).setF fTK_EPOCHS 1 with link := { up.link with epochs := [(9, 3)] } }
/-- ONLINE in TACK-4, quiesced, with a header credit of VC3. -/
def drain4 : State := { (up.setF fLSTATE 4).setF fTK_MODE 2 with link := { up.link with hdr := [0, 0, 1] } }
/-- Fifteen channels have sent their capability word. -/
def capped : State := { atState 2 with link := { (atState 2).link with capMc := (List.range 15).map fun n => (n, 1) } }
/-- A flit with one wrong parity bit, and one whose header's `OP` is reserved. -/
def badParity : Flit := { flitOf 0 1 [Header.word { Header.nop with op := opRD }] with par := 0x80 ^^^ flitParity [Header.word { Header.nop with op := opRD }, 0] }
def badHeader : Flit := flitOf 0 1 [Header.word { Header.nop with op := 5 }]
def goodFlit : Flit := flitOf 0 1 [Header.word { Header.nop with op := opRD }]
theorem witness_flits : (flitFault badParity 0 0).map (·.1) = some 0 ∧ (flitFault badHeader 0 0).map (·.1) = some 1 ∧ flitFault goodFlit 0 0 = none ∧
    flitFault idleFlit 0 0 = none ∧ capped.link.capMc.any (fun p => p.1 == 15) = false ∧ 16 ≤ (capped.link.capMc ++ [(15, 1)]).length ∧
    (∀ p ∈ capped.link.capMc ++ [(15, 1)], p.1 < 16) ∧ shaped capped = true ∧
    after (exec (.capReceive (.mc 15) 1 0 0) capped) (fun u => u.flag (fMC_UP 15) && u.flag (fMC_UP 0)) = true ∧
    after (exec (.linkFault badHeader 0 0) (atState 1)) (fun u => u.getF fLSTATE == 5 && u.getF fTK_FAIL == 6) = true ∧
    after (exec (.linkFault goodFlit 0 0) (atState 2)) (fun u => u.getF fLSTATE == 2) = true := by decide +kernel
theorem witness_resend : after (exec .capResend (atState 1)) (fun u => u.link.sent.length == 1 && u.link.mcSent.length == 16) = true ∧
    after (exec .capResend up) (fun u => u.link.sent.isEmpty) = true := by decide +kernel
theorem witness_link : shaped (atState 1) = true ∧ (atState 1).lstate = 1 ∧ (atState 1).link.capSeen = false ∧ (atState 1).link.ackGot = none ∧
    commonMode (getBits (0 : Word64) 0 3) ((atState 1).getF fVER_CAP) = none ∧ commonMode (getBits (0xF : Word64) 0 3) ((atState 1).getF fVER_CAP) = some 2 ∧
    (atState 1).link.capMc.any (fun p => p.1 == 15) = false ∧ (atState 1).link.capMc.length + 1 < 16 ∧
    (acked 1).lstate = 1 ∧ (acked 1).link.ackGot = none ∧ (acked 1).link.ackSent = some 2 ∧
    shaped crediting = true ∧ crediting.lstate = 2 ∧ 3 ∈ modeVcs (crediting.getF fTK_MODE) ∧ crediting.link.inits.any (fun x => x.1 == 3) = false ∧
    leastGrant 3 = (4, 8) ∧ crediting.channelsUp = true ∧
    (∀ v ∈ modeVcs (crediting.getF fTK_MODE), v = 3 ∨ crediting.link.inits.any (fun x => x.1 == v) = true) ∧
    crediting.fusedOff 15 = false ∧ crediting.power.bistBad.contains 15 = false ∧ crediting.power.heldOut.contains 15 = false ∧ crediting.getF (fPSTATE 15) = 0 ∧ (atState 2).channelsUp = false ∧
    (atState 1).served = false ∧ shaped epochs = true ∧ epochs.served = true ∧ epochs.flag fTK_EPOCHS = true ∧
    0 < (2 ^ 16 + (0x8002 : BitVec 16).toNat - (epochs.epochOf 9).toNat) % 2 ^ 16 ∧
    (2 ^ 16 + (0x8002 : BitVec 16).toNat - (epochs.epochOf 9).toNat) % 2 ^ 16 < 2 ^ 15 ∧
    up.lstate = 3 ∧ up.flag fPD_BUSY = false ∧ (up.setF fPD_BUSY 1).flag fPD_BUSY = true ∧ (up.setF fPD_BUSY 1).lstate = 3 ∧
    (atState 4).lstate = 4 ∧ (atState 4).idleForDetach = true ∧ (atState 4).link.drained = false ∧
    (atState 4).onVc3 = false ∧ drain4.onVc3 = true ∧ drain4.link.affords 3 0 = true ∧ drain4.idleForDetach = true ∧ drain4.lstate = 4 := by decide +kernel
theorem test_link : after (exec (.capReceive .hport 0 0 0) (atState 1)) (fun u => u.getF fLSTATE == 5 && u.getF fTK_FAIL == 1) = true ∧
    after (exec (.capReceive .hport 0xF 9 3) (atState 1)) (fun u => u.link.ackSent == some 2 && u.flag fTK_EPOCHS && u.getF fAGENT_ID == 9) = true ∧
    after (exec (.modeAckReceive 2) (acked 1)) (fun u => u.getF fLSTATE == 2 && u.getF fTK_MODE == 2) = true ∧
    after (exec (.modeAckReceive 1) (acked 1)) (fun u => u.getF fTK_FAIL == 2) = true ∧
    after (exec (.creditInitReceive 3 4 7) crediting) (fun u => u.getF fTK_FAIL == 4) = true ∧
    after (exec (.creditInitReceive 3 4 8) crediting) (fun u => u.getF fLSTATE == 3 && u.serving 15) = true ∧
    after (exec .negotiateTimeout (atState 2)) (fun u => u.getF fTK_FAIL == 5) = true ∧
    after (exec (.epochNote 9 0x8002) epochs) (fun u => u.epochOf 9 == 0x8002) = true ∧
    after (exec (.linkFault badParity 0 0) (atState 2)) (fun u => u.getF fLSTATE == 5 && u.flag (fERR_CLASS 11)) = true := by decide +kernel
theorem test_detach : after (exec .quiesce up) (fun u => u.getF fLSTATE == 4 && u.quiesced) = true ∧
    after (exec (.capReceive (.mc 15) 1 0 0) (atState 1)) (fun u => u.link.capMc == [(15, 1)]) = true ∧
    after (exec .quiesce (up.setF fPD_BUSY 1)) (fun u => u.link.goQuiet && u.getF fLSTATE == 3) = true ∧
    after (exec .drained (atState 4)) (fun u => u.link.sent == [(6, 0)]) = true ∧
    after (exec .drained drain4) (fun u => u.link.drained && u.link.hdr == [0, 0, 0]) = true ∧
    after (exec .isolate (atState 4)) (fun u => u.getF fLSTATE == 0 && u.power.moves.contains (18, 2)) = true := by decide +kernel


/-- ResetsWipeTestAndNegotiate. -/
def wiping : State := State.reset.setF fWIPE_ACTIVE 1
def testing : State := { State.reset with power := { State.reset.power with attach := .bist } }
theorem witness_resets : up.flag fLC_BUSY = false ∧ wiping.flag fWIPE_ACTIVE = true ∧ up.flag fWIPE_ACTIVE = false ∧ testing.power.attach = .bist ∧
    testing.fusedOff 15 = false ∧ testing.domainOn 15 = (testing.pstate 15 == 0) ∧ (testing.setF (fPSTATE 15) 0).domainOn 15 = true ∧
    (testing.setF (fPSTATE 15) 0).fusedOff 15 = false ∧ (testing.setF (fPSTATE 15) 0).power.attach = .bist ∧
    after (exec (.supplyReset 2) up) (fun u => u.getF fRST_CAUSE == 3 && u.flag fWIPE_ACTIVE && u.getF fLSTATE == 0) = true ∧
    after (exec .reset up) (fun u => u.getF fRST_CAUSE == 0 && u.flag fWIPE_ACTIVE) = true ∧
    after (exec .wipeDone wiping) (fun u => !u.flag fWIPE_ACTIVE && u.getF fWIPES == 1 && u.power.attach == .bist) = true ∧
    ({ testing with fuseCopy := BitVec.ofNat 64 (2 ^ 33) } : State).fusedOff 15 = true ∧
    after (exec .pdAoPowerUp { up with fuses := 2 ^ 33 }) (fun u => u.power.attach == .on && u.getF fLSTATE == 0 && u.pstate 15 == 2 && u.power.onLeft.length == 18) = true ∧
    after (exec (.bistDone 0xFFFF 0) testing) (fun u => u.power.attach == .failed) = true ∧
    after (exec (.bistDone 0x8000 0) testing) (fun u => u.power.moves == [(15, 2)] && u.power.bistBad == [15] && u.link.mcSent.length == 16) = true ∧
    after (exec (.bistDone 0 1) testing) (fun u => u.power.attach == .failed) = true ∧
    after (exec (.bistDone 0 0) (testing.setF (fPSTATE 15) 0)) (fun u => u.getF fLSTATE == 1 && u.power.attach == .negotiate) = true := by decide +kernel

/-- DomainsMoveRecoverAndSleep: the attach, moves into `ON`, out of it and from `RET` to `OFF`, of an idle cluster and of one that a step uses. -/
def powered (f : PowerX → PowerX) : State := { allOn with power := f { allOn.power with attach := .online } }
def bringing : State := { allOn.setF (fPSTATE 18) 2 with power := { allOn.power with attach := .on, onLeft := [18] } }
def moveAsked (n t : Nat) : State := powered fun p => { p with moves := [(n, t)] }
def fromRet : State := (moveAsked 3 2).setF (fPSTATE 3) 1
def inUse : State := { moveAsked 0 1 with flights := [launched] }
def midMove (n t : Nat) : State := powered fun p => { p with moving := some (n, t) }
/-- PD_AO's acknowledge is high at ON. -/
def aoUp : State := { bringing with power := { bringing.power with pdAck := bringing.power.pdAck.set 19 true } }
def aoDown : State := { bringing with power := { bringing.power with pdAck := bringing.power.pdAck.set 19 false } }
/-- A cluster that failed its BIST moves to `OFF`, and its acknowledge does not fall. -/
def fallLate : State := { midMove 3 2 with power := { (midMove 3 2).power with attach := .negotiate } }
def attaching : State := { allOn with power := { allOn.power with attach := .on, moving := some (16, 0) } }
theorem witness_moves : bringing.power.moving = none ∧ bringing.power.attachFail = false ∧ bringing.power.attach = .on ∧ shaped bringing = true ∧
    shaped (moveAsked 19 0) = true ∧ (moveAsked 19 0).power.moving = none ∧ (moveAsked 19 0).power.attachFail = false ∧ (moveAsked 19 0).power.attach ≠ .on ∧
    fromRet.pstate 3 = 1 ∧ inUse.clusterUsed 0 = true ∧ (inUse.takeOut 0).clusterUsed 0 = true ∧ inUse.serving 0 = false ∧ inUse.link.isolated = false ∧
    (moveAsked 3 1).clusterUsed 3 = false ∧ shaped (midMove 19 0) = true ∧ (midMove 19 0).power.moving = some (19, 0) ∧ (midMove 19 0).power.attachFail = false ∧
    attaching.power.attach = .on ∧ attaching.power.onLeft = [] ∧ attaching.power.moving = some (16, 0) ∧ attaching.power.attachFail = false ∧
    aoUp.power.pdAck.getD 19 false = true ∧ aoDown.power.pdAck.getD 19 false = false ∧ fallLate.power.moving = some (3, 2) ∧
    after (exec .domainMove aoUp) (fun u => u.power.moving == some (18, 0) && u.power.onLeft.isEmpty) = true ∧
    after (exec .domainMove aoDown) (fun u => u.power.moving == none && u.power.onLeft == [18]) = true ∧
    after (exec (.pdAckBudgetExceeded 3) fallLate) (fun u => u.getF fLSTATE == 0 && u.power.attach == .failed && u.power.attachFail) = true ∧
    after (exec (.pdAckBudgetExceeded 3) (midMove 3 2)) (fun u => u.power.attach == .online && !u.power.attachFail) = true ∧
    after (exec .domainMove (moveAsked 19 0)) (fun u => u.pstate 19 == 3 && u.getF (fTRANS 19) == 1) = true ∧
    after (exec .domainMove (moveAsked 3 1)) (fun u => u.pstate 3 == 3 && u.power.moving == some (3, 1)) = true ∧
    after (exec .domainMove fromRet) (fun u => u.pstate 3 == 2 && u.power.moving == none && u.power.moves.isEmpty) = true ∧
    after (exec .domainMove inUse) (fun u => u.pstate 0 == 0 && u.power.moves.length == 1) = true := by decide +kernel
def recovering : State := powered fun p => { p with recover := [15] }
def kept15 : State := powered fun p => { p with recover := [15], heldOut := [15] }
def core (n tag : Nat) : State := powered fun p => { p with recover := [n], tags := p.tags.set n tag }
def sleeping : State := powered fun p => { p with asleep := true, sleepMov := true, suspended := [15] }
def online0 : State := powered id
theorem witness_domains : 15 ∈ recovering.power.recover ∧ recovering.domainOn 16 = true ∧ recovering.flag (fPD_STALE 16) = false ∧ recovering.power.heldOut.contains 15 = false ∧ recovering.serving 15 = false ∧
    (∀ p, p < 16 → 15 ∉ recovering.placed.getD p []) ∧ kept15.power.heldOut.contains 15 = true ∧ kept15.serving 15 = false ∧
    16 ∈ (core 16 1).power.recover ∧ (core 16 1).power.tags.getD 16 0 ≠ 0 ∧ (core 17 0).power.tags.getD 17 0 = 0 ∧ 15 ∉ online0.power.recover ∧
    online0.power.asleep = false ∧ online0.maySleep = true ∧ (on31.power.asleep = false ∧ on31.maySleep = false) ∧
    sleeping.power.asleep = true ∧ sleeping.power.sleepMov = true := by decide +kernel
theorem test_acks : after (exec (.pdAck 18 true) (midMove 18 0)) (fun u => u.pstate 18 == 0 && u.power.moving == none && u.gc == 0) = true ∧
    after (exec (.pdAck 19 false) (midMove 19 2)) (fun u => u.pstate 19 == 2) = true ∧
    after (exec (.pdAck 19 false) (midMove 19 0)) (fun u => u.power.moving == some (19, 0)) = true ∧
    after (exec (.pdAck 16 true) attaching) (fun u => u.flag fWIPE_ACTIVE && u.getF fWIPE_CAUSE == 3) = true ∧
    after (exec (.pdAckBudgetExceeded 16) attaching) (fun u => u.power.attachFail) = true := by decide +kernel
theorem test_recovery : after (exec (.clusterRecovery 15 []) recovering) (fun u => u.serving 15 && u.power.recover.isEmpty) = true ∧
    after (exec (.clusterRecovery 15 []) kept15) (fun u => !u.serving 15 && u.power.recover.isEmpty) = true ∧
    after (exec (.clusterRecovery 15 [9]) recovering) (fun u => !u.serving 15 && u.flag (fERR_CLASS 17)) = true ∧
    after (exec (.clusterRecovery 16 []) (core 16 1)) (fun u => u.power.recover.isEmpty && !u.flag (fERR_CLASS 13)) = true ∧
    after (exec (.clusterRecovery 17 []) (core 17 0)) (fun u => u.power.recover.isEmpty && u.flag (fERR_CLASS 13)) = true := by decide +kernel
theorem test_sleep : after (exec .chipSleepReq on31) (fun u => u.power.sleepDeny && !u.power.asleep) = true ∧
    after (exec .chipSleepReq online0) (fun u => u.power.asleep && u.power.sleepAck && u.power.moves.contains (15, 1)) = true ∧
    after (exec .chipWake sleeping) (fun u => !u.power.sleepMov) = true ∧
    after (exec .chipWake { online0 with power := { online0.power with sleepDeny := true } }) (fun u => !u.power.sleepDeny) = true := by decide +kernel

/-- SuppliesPointsEnergyTemperatureAndCount: the levels 0 and 3 at their edges. -/
def point (n : Nat) (f : PowerX → PowerX) : State := { up.setF fPT_CUR n with power := f up.power }
def dipped : State := point 2 fun p => { p with stopped := true }
def hot3 : State := point 3 fun p => { p with hotDue := true }
def rising : State := (point 2 fun p => { p with winGood := true }).setF fPT_REQ 3
def aimed (n : Nat) : State := point 2 fun p => { p with target := some n }
def loading : State := { up.setF fGC_NOW 5 with sync := { up.sync with load := true } }
/-- The lowest point; and a first candidate that waits for headroom. -/
def low0 : State := point 0 fun p => { p with hotDue := true }
def waitsRoom : State := (launching 0).setQx 31 { (launching 0).qx 31 with item := some { toLaunch with waited := true } }
def waitsNow : State := { waitsRoom with power := { waitsRoom.power with headroom := -5 } }
theorem witness_power_more : up.counts = true ∧ up.sync.load = false ∧ ((up.setF (fPSTATE 18) 2).counts) = false ∧ loading.sync.load = true ∧
    low0.getF fPT_CUR = 0 ∧ low0.power.hotDue = true ∧ low0.served = true ∧ low0.gait = false ∧ low0.power.target = none ∧ low0.power.tripped = false ∧
    up.firstWaits = none ∧ up.power.winUs + 1 < up.power.window ∧ (point 2 fun p => { p with winUs := 99 }).power.window ≤ 99 + 1 ∧
    waitsNow.firstWaits = some 0 ∧
    after (exec .dvfsDecision low0) (fun u => u.power.target == none && u.power.waitUs == 0 && u.getF fPT_CUR == 0) = true ∧
    after (exec (.supplyWarning 2) allOn) (fun u => u.flag (fV_LOW 2) && !u.power.stopped) = true := by decide +kernel
theorem witness_power : shaped dipped = true ∧ dipped.power.stopped = true ∧ (∀ k, k < 3 → dipped.flag (fV_LOW k) = false) ∧
    shaped hot3 = true ∧ hot3.gait = false ∧ hot3.power.target = none ∧ hot3.power.tripped = false ∧ hot3.served = true ∧ hot3.power.hotDue = true ∧
    0 < hot3.getF fPT_CUR ∧ rising.power.waitUs < rising.power.window ∧ rising.power.hotDue = false ∧ rising.power.winGood = true ∧
    rising.getF fPT_CUR < rising.getF fPT_REQ ∧ rising.gait = false ∧ rising.power.target = none ∧ rising.served = true ∧ (up.setF fGAIT 1).gait = true ∧
    (aimed 3).power.target = some 3 ∧ (aimed 3).power.tripped = false ∧ (aimed 3).power.late = false ∧ up.anyHot = false ∧ up.power.budget ≠ 0 ∧
    allOn.domainOn 15 = true ∧ allOn.flag (fT_HOT 15) = false ∧ (up.setF (fPSTATE 15) 2).domainOn 15 = false := by decide +kernel
theorem test_power : after (exec (.supplyWarning 1) (point 2 id)) (fun u => u.flag (fV_DIP 1) && u.getF fDIPS == 1 && !u.mayLaunch) = true ∧
    after (exec (.supplyRecoveryCrossing 2) (up.setF (fV_LOW 2) 1)) (fun u => !u.flag (fV_LOW 2)) = true ∧
    after (exec (.supplyRecovered 20) dipped) (fun u => !u.power.stopped) = true ∧
    after (exec .dvfsDecision hot3) (fun u => u.getF fPT_CUR == 2 && u.power.vsel == 2) = true ∧
    after (exec .dvfsDecision rising) (fun u => u.getF fPT_CUR == 2 && u.power.vsel == 3) = true ∧
    after (exec .vselAck (aimed 3)) (fun u => u.getF fPT_CUR == 3 && u.power.target == none) = true ∧
    after (exec .vselTimeout (aimed 3)) (fun u => u.power.late && u.flag (fERR_CLASS 13)) = true ∧
    after (exec .energyRefill up) (fun u => u.power.headroom == 36000) = true ∧
    after (exec .syncTick (up.setF fGC_NOW (2 ^ 64 - 1))) (fun u => u.gc == 0) = true ∧
    after (exec (.syncLoad 77 true) up) (fun u => u.gc == 77 && u.sync.load) = true ∧
    after (exec .syncTick loading) (fun u => u.gc == 5) = true ∧ after (exec (.syncLoad 77 true) loading) (fun u => u.gc == 5) = true ∧
    after (exec (.syncLoad 77 false) loading) (fun u => u.gc == 5 && !u.sync.load) = true ∧
    after (exec .syncTick ((up.setF fGC_NOW 5).setF (fPSTATE 18) 2)) (fun u => u.gc == 5) = true := by decide +kernel
/-- 105 °C in eighths on every sensor: every `ON` cluster is `HOT` at its reset threshold. -/
theorem test_temperature : after (exec (.thermalSample (List.replicate 16 840)) allOn) (fun u => u.getF (fTEMP 15) == 840 && u.flag (fT_HOT 15) && u.flag (fT_VALID 15)) = true ∧
    after (exec (.thermalSample (List.replicate 16 0xFF8)) allOn) (fun u => tempInt (u.getF (fTEMP 15)) == -8 && !u.flag (fT_HOT 15)) = true := by decide +kernel

/-- TestAccessFollowsTheLifeCycle: a part in each kind of life-cycle state, the link `DOWN` and up. -/
def part (f : BitVec 1024) : State := { State.reset with fuses := f }
theorem witness_test_access : (part 0).getF fLSTATE = 0 ∧ (part 0).lc = 0 ∧ (part 0b111).lc = 1 ∧ (part 0b111000).lc = 2 ∧ State.reset.lc = 3 ∧
    (part 0b111000000000000).lc = 5 ∧ up.getF fLSTATE ≠ 0 ∧ segmentOpen 5 .fuseread = true ∧ segmentOpen 0 .bridle = true ∧ segmentOpen 5 .biststat = false ∧
    segmentOpen 3 .bridle = false ∧
    after (exec .wsClamp (part 0)) (fun u => u.test.wir == 3) = true ∧ after (exec .wsClamp State.reset) (fun u => u.test.wir == 0) = true ∧
    after (exec (.wsExtest [true]) (part 0b111000)) (fun u => u.test.wir == 4 && u.test.seen == [true]) = true ∧
    after (exec (.msMbist 4) (part 0b111)) (fun u => u.test.wir == 8 && u.test.bist.getD 2 0 == 2 && u.test.bist.getD 3 0 == 1) = true ∧
    after (exec (.msFuse 0x8001) (part 0)) (fun u => u.fuses == 0x8000) = true ∧
    after (exec (.msFuse 0x8000) up) (fun u => u.fuses == up.fuses && u.test.wir == 0) = true ∧
    after (exec (.ieee1687Access .fuseread 0 .trace) State.reset) (fun u => u.test.seen.getD 6 false && !u.test.seen.getD 0 true) = true ∧
    after (exec (.ieee1687Access .biststat 0 .trace) (part 0b111000000000000)) (fun u => u.test.seen.isEmpty) = true := by decide +kernel

/-- ... the wrapper over the outputs: `WS_SAFE` in effect, isolation, and the link up; the results of a BIST; Bridle's accesses to a channel that runs and to none. -/
def safeOut : State := { part 0 with test := { (part 0).test with wir := 1 } }
def isolated : State := { part 0 with link := { (part 0).link with isolated := true } }
def benchUp : State := { granuleUp with fuses := 0b111 }
theorem witness_outputs : (part 0).wirNow = 0 ∧ safeOut.wirNow = 1 ∧ safeOut.link.isolated = false ∧ isolated.link.isolated = true ∧ up.link.isolated = false ∧
    safeOut.outPins = idlePins safeOut.test.heldPd.1 safeOut.test.heldPd.2 ∧ isolated.testPins.1 = [false] ∧ up.outPins.online = true ∧
    after (exec .wsSafe { part 0 with power := { (part 0).power with pdReq := List.replicate 20 true } }) (fun u => u.test.heldPd.1 == List.replicate 20 true) = true ∧
    after (exec (.msLbist 1) (part 0b111)) (fun u => u.test.bist.getD 19 9 == (part 0b111).test.bist.getD 19 9 && u.test.bist.getD 0 0 == 2) = true ∧
    after (exec (.msMbist 0) (part 0b111000)) (fun u => u.test.wir == 0) = true ∧ after (exec (.wsBypass 7) (part 0)) (fun u => u.test.wir == 0) = true := by
  decide +kernel
theorem witness_bridle : segmentOpen benchUp.lc .bridle = true ∧ benchUp.inWindow (0xF000 / benchUp.granule * benchUp.granule) = true ∧
    benchUp.portUp (benchUp.portOf (0xF000 / benchUp.granule * benchUp.granule)) = true ∧ benchUp.inWindow (0 / benchUp.granule * benchUp.granule) = benchUp.inWindow 0 ∧
    (part 0).inWindow 0 = false ∧ after (exec (.ieee1687Access .bridle 0 (.readGranule 0)) (part 0)) (fun u => u.test.seen.isEmpty) = true ∧
    after (exec (.ieee1687Access .bridle 0 (.breakpoints [7])) benchUp) (fun u => u.test.breaks == [7]) = true := by decide +kernel

/-- Chapter 15: `ID_GRADE` and `GSTAT` of a DXQ4-14 whose CL5 and CL11 are disabled by fuse. -/
def grade14 : State := ({ up with fuses := 0b111000000, fuseCopy := 0b111000000 ||| (1 <<< 16) ||| (1 <<< 23) ||| (1 <<< 29) }.setF fCL_SVC 0xF7DF).setF fFARRIER_UP 1
theorem test_grade14 : after (exec (.rcFieldRead 0x10 1 snd0) grade14) (fun u => u.resp == some ⟨rOK, [0x00F7DF39]⟩) = true ∧
    after (exec (.rcFieldRead 0x1008 1 snd0) grade14) (fun u => u.resp == some ⟨rOK, [0x000000400000F7DF]⟩) = true := by decide +kernel

/-- Chapter 11: `NOTE` of the request that its deadline ends with 138 tokens. -/
def ended138 : State := ((up.setF (fE_CB 513) 0x4000).setF (fE_GLEN 513) 138)
theorem test_note : (ended138.enter 513 6 6 (some .note)).memAt 0x4010 8 = leBytes 8 0x0000008A00000606 := by decide +kernel

/-- HeaderSlotsSpellTheirHeaders: headers at the edges of their fields, and legal and illegal ones. -/
def edge : Header := { Header.nop with op := 15, vc := 3, nds := 31, addr := 2 ^ 48 - 1, lenw := 31 }
theorem witness_headers : (Header.nop).fits ∧ edge.fits ∧ Header.parse edge.word = edge ∧ edge.legal = false ∧
    ({ Header.nop with op := opWR, vc := 2 } : Header).legal = true ∧ ({ Header.nop with op := opRD, vc := 2 } : Header).legal = false ∧
    ({ Header.nop with op := opACK, vc := 1 } : Header).legal = true ∧ ({ Header.nop with op := opMGMT, vc := 3 } : Header).legal = true := by
  decide +kernel

/-- ScoreStepsPassTheirPhases: rows of each disposition, alone and in a merge group; a reference set that has no `NORMAL` value; the place of the results beside the gradient's. -/
def tokOf (id : Nat) (z : F32) : Tok := { (default : Tok) with id := id, z0 := z, lo := z, hi := z, s := z }
def scoreRowOf (l : List Tok) : RowState :=
  let r : RowState := { row1 with toks := l, rtoks := l, phase := .certified, entry := some { (default : ScoreEntry) with token := 5 } }
  let scr := rootForm (rowCtx scored0 r) l
  { r with scr := some scr, sum0 := (l.map fun t => cfExpfx scored0.compat t.z0 scr.m0).sum }
def normalRow : RowState := scoreRowOf [tokOf 5 0x3F800000, tokOf 6 0]
def tieRow : RowState := scoreRowOf [tokOf 5 0x7F800000, tokOf 6 0x7F800000]
def emptyRow : RowState := scoreRowOf [tokOf 5 0xFF800000]
def scoring : Flight := { scored0 with rows := [normalRow, tieRow, emptyRow] }
def groupScoring : Flight := { scoring with prog := { scoring.prog with xmerge := some (false, true, 1, 0, 1, 0), group := some group2 }, rows := scoring.rows.map fun r => { r with serve := true } }
theorem witness_score_rows : rowDisp (rowCtx scoring normalRow) normalRow = .normal ∧ rowDisp (rowCtx scoring tieRow) tieRow = .tie ∧
    rowDisp (rowCtx scoring emptyRow) emptyRow = .empty ∧ rowMode scoring 0 normalRow ≠ .group ∧ normalRow.spoiled = false ∧
    groupScoring.certified = true ∧ groupScoring.rows.length = 3 ∧
    ((groupScoring.rows.zipIdx.map fun q => (rowMode groupScoring q.2 q.1 == .group, rowDisp (rowCtx groupScoring q.1) q.1))) =
      [(true, .normal), (true, .tie), (true, .empty)] ∧
    after (exec (.scoreq 7 [] false) (withFlight scoring)) (fun u => (u.flight 7).any fun g => g.scored && g.rows.map (fun r => r.out.map (·.disp)) == [some .normal, some .tie, some .empty]) = true := by
  decide +kernel
def refless : RowState := { normalRow with out := some { (default : RowOut) with disp := .normal }, rtoks := [] }
theorem witness_reference : refDispOf (rowCtx paired7 refless) refless ≠ .normal ∧ refless.scr.isSome = true ∧
    66 * smallSet.slabs ≤ ({ gradDesc with dlStride := 128 } : GradDesc).dlStride ∧ 256 * smallSet.hd ≤ ({ gradDesc with dhStride := 256 } : GradDesc).dhStride ∧
    0x2000 + 32 ≤ 0x4000 ∧ 0x2000 + 32 ≤ 0x8000 := by decide +kernel

/-- EmitAndCompletionOfAStep: what EMIT writes of one record, apart from the token vector; the acknowledgement of a request's last record; a record that forms. -/
def oneRecord : Emission := { (default : Emission) with recs := [(9, 0x9000, List.replicate 32 0)], tv := [5] }
theorem witness_emission : selected7.writes = true ∧ oneRecord.tv.length = 1 ∧ oneRecord.recs = [] ++ (9, 0x9000, List.replicate 32 0) :: [] ∧ 0x200 + 4 ≤ 0x9000 ∧ 0x200 + 4 ≤ (ringFull fullRing 0).getF (fE_CB 9) ∧
    (ringFull fullRing 0).getF (fE_CB 9) + 8 ≤ 0x9000 ∧
    (owedMc (.ringRec 7 9)).findOut (.mc 15) 5 = some (owes (.mc 15) (.ringRec 7 9)) ∧
    ((owedMc (.ringRec 7 9)).out.erase (owes (.mc 15) (.ringRec 7 9))).any (fun x => x.why == .ringRec 7 9) = false ∧ up.isLate selected7 9 = false := by decide +kernel

/-- MergeRoundsFollowTheCount: a round of a group of two whose records are there: of one round; of a SERVE row's first and second round; and one whose other record does not come. -/
def mergingRow : RowState := { normalRow with entry := none, slot := some 9, bound := true, out := some { (default : RowOut) with disp := .normal, token := some 5 } }
def merging (rounds : Nat) (row : RowState) (done : Nat) : Flight :=
  { selected7 with
    prog := { selected7.prog with xmerge := some (false, true, rounds, 4, 1, 0), group := some { group2 with rxBytes := 0x8000 } }
    rows := [row], mrSent := done + 1, mrDone := done }
def ctxOf (f : Flight) : MergeCtx := (mergeCtx f f.mrDone).getD ⟨group2, false, false, 0, 0, 0⟩
/-- A record of this chip, with zero for the key of the tie set in a ROLLOUT record, which the spec leaves open where there is none. -/
def closedRecord (f : Flight) (m : MergeCtx) : List Byte :=
  let b := mergeRecord f m 0 (f.rows.getD 0 default)
  if m.round = 0 && !m.two then b.take 40 ++ [0, 0, 0, 0] ++ b.drop 44 else b
/-- The records of every chip in the area, each as this chip would send it in that one's place. -/
def delivered (f : Flight) (chips : Nat) : State :=
  (List.range chips).foldl (fun s c =>
    let m := { ctxOf f with g := { (ctxOf f).g with self := c } }
    s.putMem (m.place f.prog m.g.rxBase c 0) (closedRecord f m)) ((withFlight f).setF fXM_CNT 8)
def recordsOk (f : Flight) (chips : Nat) (wo : Option Nat) : Bool :=
  let m := ctxOf f
  (List.range 2).all fun c =>
    mergeBad m c wo (((delivered f chips).memAt (m.place f.prog m.g.rxBase c 0) (m.slot f.prog)).toArray) ((delivered f chips).peek (m.place f.prog m.g.rxBase c 0) (m.slot f.prog)).2 == none
def serveRow : RowState := { mergingRow with serve := true }
def midRow : RowState := { serveRow with mid := some (firstRound (merging 2 serveRow 0) (rowCtx (merging 2 serveRow 0) serveRow) []) }
theorem witness_merge_rows : (delivered (merging 1 mergingRow 0) 2).flight 7 = some (merging 1 mergingRow 0) ∧ (ctxOf (merging 1 mergingRow 0)).round = 0 ∧
    (ctxOf (merging 1 mergingRow 0)).two = false ∧ recordsOk (merging 1 mergingRow 0) 2 (some 44) = true ∧ recordsOk (merging 1 mergingRow 0) 1 (some 44) = false ∧
    (ctxOf (merging 2 serveRow 0)).two = true ∧ recordsOk (merging 2 serveRow 0) 2 (some 24) = true ∧ recordsOk (merging 2 serveRow 0) 1 (some 24) = false ∧
    (ctxOf (merging 2 midRow 1)).round = 1 ∧ recordsOk (merging 2 midRow 1) 2 none = true ∧ midRow.merged = none ∧ midRow.mid.isSome = true ∧
    (delivered (merging 1 mergingRow 0) 2).mergeTurn (merging 1 mergingRow 0) = true ∧ (delivered (merging 1 mergingRow 0) 2).getF fXM_CNT = 8 ∧
    after (exec (.mergeRoundComplete 7 [] false) (delivered (merging 1 mergingRow 0) 2)) (fun u => (u.flight 7).any fun g =>
      g.mrDone == 1 && g.rows.map (fun r => r.merged.map (·.disp)) == [some .normal]) = true ∧
    after (exec (.mergeRoundComplete 7 [] false) (delivered (merging 1 mergingRow 0) 1)) (fun u => (u.flight 7).any fun g =>
      g.rows.map (fun r => r.merged.map (·.disp)) == [some .poison]) = true ∧
    after (exec (.mergeRoundComplete 7 [] false) (delivered (merging 2 serveRow 0) 2)) (fun u => (u.flight 7).any fun g =>
      g.mrDone == 1 && g.rows.any fun r => r.mid.isSome && r.merged.isNone) = true := by decide +kernel
theorem witness_first_round : (firstRound (merging 2 serveRow 0) (rowCtx (merging 2 serveRow 0) serveRow)
      ((List.range 2).map fun c => ((delivered (merging 2 serveRow 0) 2).memAt ((ctxOf (merging 2 serveRow 0)).place smallProg 0x8000 c 0) ((ctxOf (merging 2 serveRow 0)).slot smallProg)).toArray)).disp = .normal ∧
    (merging 2 serveRow 0).prog.paired = false ∧ mergingRow.entry = none := by decide +kernel

/-- QueueAttributeWritesStartStopRestart: a halted queue whose `TAIL` is a multiple of 4 or stays none, of generation G3 and G4. -/
def badTail : State := (halted31.setF (fQ_GEN 31) 1).setF (fQ_TAIL 31) 6
theorem witness_tail_bad : hears badTail = true ∧ badTail.qEn 31 = true ∧ badTail.halted 31 = true ∧ badTail.getF (fQ_GEN 31) ≠ 2 ∧ badTail.getF (fQ_TAIL 31) % 4 ≠ 0 ∧
    halted31.tailBad 31 = false ∧ (badTail.setF (fQ_TAIL 31) 8).tailBad 31 = false ∧ (0x30001 : Word64).getLsbD 16 = true ∧
    after (exec (.resume 31 0x10001 snd0) badTail) (fun u => u.halted 31 && u.getF (fQ_HALT 31) == 3) = true ∧
    after (exec (.skip 31 0x30001 snd0) badTail) (fun u => u.halted 31 && u.getF (fQ_HALT 31) == 3) = true ∧
    after (exec (.resume 31 0x10001 snd0) (badTail.setF (fQ_TAIL 31) 8)) (fun u => !u.halted 31) = true := by decide +kernel

/-- Every statement that names PD_HAL or PD_SEL: each of them on, and off. -/
def noHal (s : State) : State := s.setF (fPSTATE 17) 1
def noSel (s : State) : State := s.setF (fPSTATE 16) 2
theorem witness_domain_off : up.halOn = true ∧ leased.halOn = true ∧ up.selOn = true ∧ closed.selOn = true ∧ admittable.halOn = true ∧ yKeyed.halOn = true ∧ yMany.halOn = true ∧
    hears (noHal leased) = true ∧ (noHal leased).halOn = false ∧ hears (noSel up) = true ∧ (noSel up).selOn = false ∧ (noHal leased).holder 8191 snd7 = true ∧
    after (exec (.halterEntryWrite 8191 15 (.put 5) snd7) (noHal leased)) (fun u => u.resp == some ⟨rACCESS, []⟩) = true ∧
    after (exec (.leaseRelease 8191 snd7) (noHal leased)) (fun u => u.resp == some ⟨rACCESS, []⟩ && u.held 8191) = true ∧
    after (exec (.leaseAcquire 8191 0 leaseWord snd7) (noHal up)) (fun u => u.resp == some ⟨rACCESS, []⟩ && !u.held 8191) = true ∧
    after (exec (.leaseTimeout 8191) (noHal leased)) (fun u => u.held 8191) = true ∧
    after (exec .admission (noHal admittable)) (fun u => u.eState 9 == 1) = true ∧
    after (exec .yarrowBlock (noHal yKeyed)) (fun u => u.yLooks.isEmpty) = true ∧
    after (exec (.tableWindowWrite 0xFFF8 3 snd0) (noSel closed)) (fun u => u.getF fWREJ == 0 && u.resp == some ⟨rACCESS, []⟩) = true ∧
    after (exec (.commitGo 1 snd0) (noSel up)) (fun u => u.getF fSHADOW_ST == 0) = true ∧
    after (exec .laneCopyDone (noSel { closed with tabPassed := true })) (fun u => u.getF fSHADOW_ST == 1) = true := by decide +kernel
theorem witness_part_domain : up.domainOn (partDomain (.laneCopy 15 3)) = true ∧ (up.setF (fPSTATE 15) 1).domainOn (partDomain (.laneCopy 15 3)) = false ∧
    after (exec (.sramPatrol (.laneCopy 15 3) true false 1) (up.setF (fPSTATE 15) 1)) (fun u => u.bad.isEmpty) = true := by decide +kernel

/-- LeasesAreTakenReleasedAndBroken: the entry of a lease in a state, with its shadow edited. -/
def edited (live : Nat) (f : List Word64 → List Word64) : State :=
  let s := ((((leased.setF (fE_STATE 8191) live).setF (fE_PRIO 8191) 1).setF (fE_EPRIO 8191) 3).setF fAGE_Q 7).setF (fE_GLEN 8191) 77
  { s with shadows := [(8191, f ((List.range 16).map fun w => s.word 8191 w))] }
/-- ... the shadow asks for a `STATE`; it has another `PRIO` and writes `GLEN`, which is RO; it has another `CB`, which is fixed. -/
def toState (want : Nat) (l : List Word64) : List Word64 := l.set 0 (setBits (l.getD 0 0) 0 3 want)
def otherPrio (l : List Word64) : List Word64 := (l.set 0 (setBits (l.getD 0 0) 8 2 2)).set 13 0xFFFFFFFFFFFFFFFF
def otherFixed (l : List Word64) : List Word64 := l.set 1 0x123456789ABCDEF0
def entryOf (s : State) : List Nat := [s.eState 8191, s.getF (fE_PRIO 8191), s.getF (fE_EPRIO 8191), s.getF (fE_GLEN 8191), s.getF (fE_REASON 8191)]
theorem witness_edits : ((edited 2 id).shadow 8191).isSome = true ∧
    entryOf ((edited 2 (toState 3 ∘ otherPrio)).applyEdit 8191) = [3, 2, 3, 77, 0] ∧
    entryOf ((edited 0 (toState 1 ∘ otherPrio)).applyEdit 8191) = [1, 2, 2, 77, 0] ∧
    entryOf ((edited 5 (toState 0 ∘ otherPrio)).applyEdit 8191) = [0, 2, 0, 0, 0] ∧
    entryOf ((edited 2 (toState 4)).applyEdit 8191) = [5, 1, 3, 77, 5] ∧
    entryOf (((edited 3 (toState 4)).setF (fE_INFL 8191) 1).applyEdit 8191) = [4, 1, 3, 77, 5] ∧
    entryOf ((edited 4 (toState 2 ∘ otherPrio)).applyEdit 8191) = [4, 1, 3, 77, 0] ∧ ((edited 4 (toState 2)).applyEdit 8191).flag (fERR_CLASS 9) = true ∧
    ((edited 2 (toState 2 ∘ otherFixed)).applyEdit 8191).reg (rENT 8191 1) = (edited 2 id).reg (rENT 8191 1) ∧
    ((edited 2 (toState 2 ∘ otherFixed)).applyEdit 8191).flag (fERR_CLASS 9) = true ∧
    ((edited 0 (toState 1 ∘ otherFixed)).applyEdit 8191).reg (rENT 8191 1) = 0x123456789ABCDEF0 := by decide +kernel

/-- LockstepAndSyncRegisters: the count of merge deliveries, set and raised past its width. -/
def counted : State := go up (.syncRegisterWrite 0x38 0xFFFFFFFFFFFFFFFF snd0)
theorem witness_xm_cnt : hears up = true ∧ hears counted = true ∧ counted.getF fXM_CNT = 2 ^ 64 - 1 ∧
    after (exec (.registerWrite 0x5038 (.atom 1 3 0) snd0) counted) (fun u => u.getF fXM_CNT == 2 && u.resp == some ⟨rOK, [0xFFFFFFFFFFFFFFFF]⟩) = true := by
  decide +kernel

/-- EmitAndCompletionOfAStep: the fields of a status record (R311). -/
def statusOf : Flight := { done7 with queue := 31, cstat := 1, strict := true, collected := true, tb := 3, tepoch := 0x11223344, gcLaunch := 9, gcDone := 12, eEst := 5, nLate := 2 }
theorem witness_status_bytes : (statusBytes statusOf 0).length = 64 ∧ ((statusBytes statusOf 0).drop 4).take 3 = [31, 1, 0b11100] ∧
    ((statusBytes statusOf 0).drop 8).take 4 = [0x44, 0x33, 0x22, 0x11] ∧ ((statusBytes statusOf 0).drop 16).take 16 = leBytes 8 9 ++ leBytes 8 12 ∧
    ((statusBytes statusOf 0).drop 46).take 2 = [2, 0] ∧ (statusBytes statusOf 0).drop 57 = [3, 0, 0, 0, 0, 0, 0] := by decide +kernel

/-- RepackStartsCompletesOrStops: a build of one token, in host memory, and with P0 in cluster 3's slice. -/
def buildIn (place : Nat) : RepackRun := { build1 with placed := [3], desc := { build1.desc with place := place, p0 := 0x20000, p1 := 0x30000, p2 := 0x40000 } }
def buildingIn (place : Nat) : State := { (building.putMem 0x10000 [5, 62]) with repack := some (buildIn place) }
def builtOf (place : Nat) : List BuiltRec :=
  ((buildingIn place).buildSlabs (buildIn place) (buildingIn place).freeCtr (epochAfter 6) (List.range 1) (buildingIn place).sorrel).1.flatMap (·.recs)
set_option maxRecDepth 100000 in
theorem witness_built : (buildingIn 1).windowFail (buildIn 1).desc = none ∧ (buildIn 1).desc.slabs = 1 ∧ (builtOf 1).map (fun x => (x.plane, x.slab, x.sub)) = [(0, 0, 0), (1, 0, 0), (2, 0, 0)] ∧
    ((builtOf 1).getD 0 ⟨0, 0, 0, []⟩).loc ((buildIn 1).view 7 true) = .pad 3 0 ∧ ((builtOf 1).getD 1 ⟨0, 0, 0, []⟩).loc ((buildIn 1).view 7 false) = .host 0x30000 ∧
    ((List.range 32).all fun q => ((buildingIn 1).qx q).item.isNone) = true ∧
    after (exec .repackComplete (buildingIn 1)) (fun u => u.padAt 3 0 4 != [0, 0, 0, 0] && u.flag (fPS_RES 2 0) && !u.flag (fPS_RES 2 1)) = true ∧
    after (exec .repackComplete (buildingIn 3)) (fun u => u.padAt 3 2304 256 == ((builtOf 3).getD 1 ⟨0, 0, 0, []⟩).bytes && u.flag (fPS_RES 2 1)) = true := by decide +kernel

/-- HoldsAndBarriersAreMetAndReleased: a barrier in work whose BARRIER is gone, before and after the chip has arrived. -/
def gone (arrived : Bool) : State := { barrierOn with sync := { up.sync with cur := some 4, up := arrived } }
theorem witness_barrier_gone : barrierOn.barrierGone = true ∧ (gone false).barrierGone = true ∧ (gone true).barrierGone = false ∧ beforeStep.barrierGone = true ∧
    (inWork 1).barrierHeld 5 = true ∧ (gone false).barrierHeld 4 = false ∧
    after (exec (.barrier 31) (gone false)) (fun u => u.sync.cur == some 5 && u.getF fARRIVED == 5) = true ∧
    after (exec (.barrier 31) (gone true)) (fun u => u.sync.cur == some 4) = true := by decide +kernel

/-- MergeRoundsExchangeAndDecide: the second round of a step without a SERVE row. -/
theorem witness_empty_round : (mergeCtx (merging 2 mergingRow 1) 1).isSome = true ∧
    (let f := { merging 2 mergingRow 1 with mrSent := 1, rows := [{ mergingRow with merged := mergingRow.out }] }
     f.rows.zipIdx.all (fun q => (mergeRecord f ((mergeCtx f 1).getD ⟨group2, false, false, 0, 0, 0⟩) q.2 q.1).isEmpty) &&
     after (exec (.xmerge 7) ((withFlight f).setF fXM_CNT 8)) (fun u => u.out.length == 2 && u.out.all fun o => o.why == .mergeCnt 7 1)) = true := by decide +kernel

/-- ResponsesRetireWhatIsOutstanding: error responses, a granule of several, and a mark on it. -/
def getTwo : State := { granuleUp with out := [{ owes (.mc 15) (.get 0 31 4 0xF000 0x100 1 none) with addr := 0xF000, len := 136 }] }
theorem witness_errors : up.served = true ∧ up.inWindow 0x100 = false ∧
    after (exec (.hResponse 5 rADDR false 0x100 []) up) (fun u => u.markAt 2 == .err rADDR) = true ∧
    after (exec (.hResponse 5 rDATA false 0x100 []) up) (fun u => u.markAt 2 == .errData) = true ∧
    (Instr.mcReadResponse 0 0 0 (List.replicate 128 0) (.err 1)).wf = true ∧ (Instr.mcReadResponse 0 0 0 (List.replicate 128 0) (.err 5)).wf = false := by decide +kernel
theorem witness_granules : shaped getTwo = true ∧ (0xF000 : Nat) + getTwo.granule < 0xF000 + 136 ∧ ((getTwo.findOut (.mc 15) 5).map (·.hdr.lenw)) = some (getTwo.askedLenw 15 5) ∧
    after (exec (.mcReadResponse 15 5 0xF000 (List.replicate 128 9) .good) getTwo) (fun u => u.gotten == [⟨0, 0xF000, List.replicate 128 9⟩] && u.out.length == 1) = true ∧
    after (exec (.mcReadResponse 15 5 0xF000 (List.replicate 128 9) .pois) getTwo) (fun u => u.out.map (·.why) == [.get 0 31 4 0xF000 0x100 1 (some (markStatus .pois))]) = true ∧
    after (exec (.mcReadResponse 15 5 0xF000 (List.replicate 128 9) .pois) (getUp 0)) (fun u => u.out.isEmpty && u.flag (fERR_CLASS 10)) = true := by decide +kernel

/-- TestAccessFollowsTheLifeCycle: the bypass register, and the repair analysis of a memory BIST. -/
def oldBypass : State := { part 0 with test := { (part 0).test with bypass := true } }
theorem witness_bypass : after (exec (.wsBypass 0) oldBypass) (fun u => u.test.wso == [true]) = true ∧
    after (exec .wsClamp (part 0)) (fun u => u.test.wso == [false] && u.test.wir == 3) = true ∧
    after (exec (.msMbist 4) (part 0)) (fun u => u.test.repair.length == 17 && u.test.repair.getD 3 1 == 0 && u.test.repair.getD 16 1 == 0) = true ∧
    after (exec (.wsExtest [true]) (part 0)) (fun u => after (exec .reset u) fun v => v.test.wso.isEmpty && v.test.wir == 0) = true := by decide +kernel

/-- GctlWriteTakesAllButEmu3Alone: a `HOT` spell is forgotten in COLLECTED gait. FarrierDisposesResetsAndReports: the depth kept. -/
def hotUp : State := { up with power := { up.power with hotDue := true } }
theorem witness_hot_and_depth : (1 : Word64).getLsbD 0 = true ∧ after (exec (.gctlWrite 1 snd0) hotUp) (fun u => !u.power.hotDue) = true ∧
    after (exec (.gctlWrite 0 snd0) hotUp) (fun u => u.power.hotDue) = true ∧
    after (exec .linkLog (raised (.linkLog .hport))) (fun u => u.getF fEXQ_HIGH == 1) = true := by decide +kernel

end Sys2Proof.Tests
end

section
/-! SUPPORT. Words of the control space by field: the rows of a register table share no bit, a write takes the fields that it may take, a read clears the RC fields (R9, R401). -/

namespace Sys2Proof.Machine

/-! The register tables. -/

/-- The rows of a table ascend, share no bit, and lie inside the word. -/
abbrev FieldsAscend (fs : List FieldSpec) : Prop :=
  fs.Pairwise (fun f g => f.lsb + f.width ≤ g.lsb) ∧ ∀ f ∈ fs, f.lsb + f.width ≤ 64

theorem entryFields_ascend (n : Nat) : FieldsAscend (entryFields n) := by
  unfold entryFields; split <;> decide

theorem queueFields_ascend (n : Nat) : FieldsAscend (queueFields n) := by
  unfold queueFields; split <;> decide

theorem planeSetFields_ascend (n : Nat) : FieldsAscend (planeSetFields n) := by
  unfold planeSetFields; split <;> decide

theorem syncFields_ascend (n : Nat) : FieldsAscend (syncFields n) := by
  unfold syncFields; split <;> decide

theorem eventFields_ascend (n : Nat) : FieldsAscend (eventFields n) := by
  unfold eventFields; split <;> decide

theorem powerFields_ascend (off : Nat) : FieldsAscend (powerFields off) := by
  unfold powerFields; split_ifs <;> decide

theorem arbFields_ascend (off : Nat) : FieldsAscend (arbFields off) := by
  unfold arbFields; split_ifs <;> decide

theorem fieldsAscend_ite {p : Prop} [Decidable p] {fs gs : List FieldSpec} (hf : FieldsAscend fs) (hg : FieldsAscend gs) :
    FieldsAscend (if p then fs else gs) := by
  split <;> assumption

theorem regFields_ascend (off : Nat) : FieldsAscend (regFields off) := by
  unfold regFields
  refine fieldsAscend_ite (fieldsAscend_ite (by decide) (by decide)) ?_
  iterate 8 refine fieldsAscend_ite (by decide) ?_
  refine fieldsAscend_ite (queueFields_ascend _) ?_
  iterate 7 refine fieldsAscend_ite (by decide) ?_
  refine fieldsAscend_ite (arbFields_ascend _) (fieldsAscend_ite (syncFields_ascend _) (fieldsAscend_ite (powerFields_ascend _)
    (fieldsAscend_ite (eventFields_ascend _) (fieldsAscend_ite (planeSetFields_ascend _) ?_))))
  iterate 8 refine fieldsAscend_ite (by decide) ?_
  exact fieldsAscend_ite (entryFields_ascend _) (by decide)

/-! The word that a write leaves. -/

/-- What a write of `v` at `off` makes of one field of a word: the step of `State.merged`. -/
def State.mergeField (s : State) (off : Nat) (v w : Word64) (f : FieldSpec) : Word64 :=
  if s.takes off f.acc then setBits w f.lsb f.width (getBits v f.lsb f.width)
  else if f.acc = .w1c then
    setBits w f.lsb f.width (getBits w f.lsb f.width - (getBits w f.lsb f.width &&& getBits v f.lsb f.width))
  else w

theorem State.merged_eq_foldl (s : State) (off : Nat) (v : Word64) :
    s.merged off v = (regFields off).foldl (s.mergeField off v) (s.reg off) := rfl

theorem State.getBits_mergeField_apart (s : State) (off : Nat) (v w : Word64) {f g : FieldSpec} (hg : g.lsb + g.width ≤ 64)
    (h : g.lsb + g.width ≤ f.lsb ∨ f.lsb + f.width ≤ g.lsb) :
    getBits (s.mergeField off v w f) g.lsb g.width = getBits w g.lsb g.width := by
  unfold State.mergeField
  split_ifs
  · exact getBits_setBits_other _ _ _ _ _ _ hg h
  · exact getBits_setBits_other _ _ _ _ _ _ hg h
  · rfl

theorem State.getBits_mergeFields_apart (s : State) (off : Nat) (v w : Word64) {fs : List FieldSpec} {g : FieldSpec}
    (hg : g.lsb + g.width ≤ 64) (h : ∀ f ∈ fs, g.lsb + g.width ≤ f.lsb ∨ f.lsb + f.width ≤ g.lsb) :
    getBits (fs.foldl (s.mergeField off v) w) g.lsb g.width = getBits w g.lsb g.width := by
  induction fs generalizing w with
  | nil => rfl
  | cons f fs ih =>
    obtain ⟨hf, hfs⟩ := List.forall_mem_cons.1 h
    rw [List.foldl_cons, ih _ hfs, s.getBits_mergeField_apart off v w hg hf]

/-- A field of a written word is what the write makes of that field alone. -/
theorem State.getBits_merged (s : State) {off : Nat} (v : Word64) {f : FieldSpec} (hf : f ∈ regFields off) :
    ∃ w, getBits w f.lsb f.width = getBits (s.reg off) f.lsb f.width ∧
      getBits (s.merged off v) f.lsb f.width = getBits (s.mergeField off v w f) f.lsb f.width := by
  obtain ⟨hasc, hfit⟩ := regFields_ascend off
  have h64 := hfit f hf
  obtain ⟨below, above, hsplit⟩ := List.append_of_mem hf
  rw [hsplit, List.pairwise_append, List.pairwise_cons] at hasc
  obtain ⟨-, ⟨habove, -⟩, hbelow⟩ := hasc
  refine ⟨below.foldl (s.mergeField off v) (s.reg off), ?_, ?_⟩
  · exact s.getBits_mergeFields_apart off v _ h64 fun g hg => .inr (hbelow g hg f (by simp))
  · rw [s.merged_eq_foldl, hsplit, List.foldl_append, List.foldl_cons]
    exact s.getBits_mergeFields_apart off v _ h64 fun g hg => .inl (habove g hg)

/-- A field that the write may take holds the bits of the write. -/
theorem State.getBits_merged_taken (s : State) {off : Nat} (v : Word64) {f : FieldSpec} (hf : f ∈ regFields off)
    (ht : s.takes off f.acc = true) : getBits (s.merged off v) f.lsb f.width = getBits v f.lsb f.width := by
  obtain ⟨w, -, h⟩ := s.getBits_merged v hf
  rw [h, State.mergeField, if_pos ht, getBits_setBits_same _ _ _ _ ((regFields_ascend off).2 f hf), Nat.mod_eq_of_lt (getBits_lt _ _ _)]

/-- A field that the write neither takes nor clears holds what it held. -/
theorem State.getBits_merged_kept (s : State) {off : Nat} (v : Word64) {f : FieldSpec} (hf : f ∈ regFields off)
    (ht : s.takes off f.acc = false) (hc : f.acc ≠ .w1c) : getBits (s.merged off v) f.lsb f.width = getBits (s.reg off) f.lsb f.width := by
  obtain ⟨w, hw, h⟩ := s.getBits_merged v hf
  rw [h, State.mergeField, if_neg (by simp [ht]), if_neg hc, hw]

/-- A write is in range when every field that it takes is. -/
theorem State.rangeOk_of_ok (s : State) {off : Nat} {v : Word64} (h : ∀ f ∈ regFields off, f.rng.ok (getBits v f.lsb f.width) = true) :
    s.rangeOk off v = true := by
  rw [State.rangeOk, List.all_eq_true]
  intro f hf
  rw [h f hf, Bool.or_true]

theorem State.rangeOk_of_unbounded (s : State) {off : Nat} (v : Word64) (h : ∀ f ∈ regFields off, f.rng = .all) : s.rangeOk off v = true :=
  s.rangeOk_of_ok fun f hf => by rw [h f hf]; rfl

/-- A write whose value leaves the range of a field that it takes is out of range. -/
theorem State.rangeOk_eq_false (s : State) {off : Nat} {v : Word64} {f : FieldSpec} (hf : f ∈ regFields off) (ht : s.takes off f.acc = true)
    (h : f.rng.ok (getBits v f.lsb f.width) = false) : s.rangeOk off v = false := by
  rw [State.rangeOk, List.all_eq_false]
  exact ⟨f, hf, by simp [ht, h]⟩

/-! The word that a read leaves. -/

/-- Clears a field of a word if it is RC: the step of `State.clearRc`. -/
def clearField (w : Word64) (f : FieldSpec) : Word64 := if f.acc = .rc then setBits w f.lsb f.width 0 else w

theorem State.clearRc_of_rc (s : State) {off : Nat} {f : FieldSpec} (hf : f ∈ regFields off) (hrc : f.acc = .rc) :
    s.clearRc off = s.setReg off ((regFields off).foldl clearField (s.reg off)) := by
  have h : ((regFields off).any fun f => f.acc == .rc) = true := List.any_eq_true.2 ⟨f, hf, by simp [hrc]⟩
  rw [State.clearRc, if_pos h]
  rfl

theorem State.clearRc_of_no_rc (s : State) {off : Nat} (h : ∀ f ∈ regFields off, f.acc ≠ .rc) : s.clearRc off = s := by
  rw [State.clearRc, if_neg]
  simpa using h

theorem clearField_getLsbD_false {w : Word64} (f : FieldSpec) {j : Nat} (hj : j < 64) (h : w.getLsbD j = false) :
    (clearField w f).getLsbD j = false := by
  unfold clearField
  split_ifs
  · rw [setBits_getLsbD _ _ _ _ _ hj, h]; simp
  · exact h

theorem clearFields_getLsbD_false {w : Word64} (fs : List FieldSpec) {j : Nat} (hj : j < 64) (h : w.getLsbD j = false) :
    (fs.foldl clearField w).getLsbD j = false := by
  induction fs generalizing w with
  | nil => exact h
  | cons f fs ih => exact ih (clearField_getLsbD_false f hj h)

/-- Every bit of an RC field is clear after the read. -/
theorem clearFields_getLsbD_rc (w : Word64) {fs : List FieldSpec} {f : FieldSpec} (hf : f ∈ fs) (hrc : f.acc = .rc) {j : Nat} (hj : j < 64)
    (hlo : f.lsb ≤ j) (hhi : j < f.lsb + f.width) : (fs.foldl clearField w).getLsbD j = false := by
  obtain ⟨before, rest, rfl⟩ := List.append_of_mem hf
  rw [List.foldl_append, List.foldl_cons]
  refine clearFields_getLsbD_false rest hj ?_
  rw [clearField, if_pos hrc, setBits_getLsbD _ _ _ _ _ hj, if_pos ⟨hlo, hhi⟩, Nat.zero_testBit]

theorem State.getBits_clearRc (s : State) {off : Nat} {f : FieldSpec} (hf : f ∈ regFields off) (hrc : f.acc = .rc) :
    getBits ((s.clearRc off).reg off) f.lsb f.width = 0 := by
  rw [s.clearRc_of_rc hf hrc, State.reg_setReg_same]
  apply Nat.eq_of_testBit_eq
  intro i
  rw [getBits_testBit, Nat.zero_testBit]
  by_cases hi : i < f.width
  · have h64 := (regFields_ascend off).2 f hf
    rw [clearFields_getLsbD_rc _ hf hrc (by omega) (by omega) (by omega), Bool.and_false]
  · simp [hi]

theorem State.clearRc_reg_other (s : State) {off o : Nat} (h : o ≠ off) : (s.clearRc off).reg o = s.reg o := by
  unfold State.clearRc
  split_ifs
  · exact s.reg_setReg_other _ h
  · rfl

/-- Clearing the RC fields changes nothing but the registers. -/
theorem State.clearRc_frame (s : State) (off : Nat) : s.clearRc off = { s with regs := (s.clearRc off).regs } := by
  unfold State.clearRc
  split_ifs <;> rfl

@[simp] theorem State.clearRc_mem (s : State) (off : Nat) : (s.clearRc off).mem = s.mem := by rw [State.clearRc_frame]
@[simp] theorem State.clearRc_flights (s : State) (off : Nat) : (s.clearRc off).flights = s.flights := by rw [State.clearRc_frame]

/-- The arbiters' status words apart, a read shows the word and clears its RC fields. -/
theorem State.readReg_eq (s : State) {off : Nat} (h : ¬ (0x4020 ≤ off ∧ off < 0x4040)) :
    s.readReg off = (s.clearRc off, s.shown off &&& readMask off) := by
  simp only [State.readReg, decide_eq_true_eq, if_neg h]

end Sys2Proof.Machine
end

section
/-! SUPPORT. Served writes, reads and atomic operations of register words, and what they answer (R368, R370, R401, R412). -/

namespace Sys2Proof.Machine

variable {s t : State} {snd : Sender} {off : Nat} {v : Word64}

/-! The commands. -/

theorem exec_registerWrite_heard (h : Heard s snd t) (op : Access) :
    exec (.registerWrite off op snd) s = .next ((t.accessTo off op snd).replied snd (accessOp op).1 (accessOp op).2) :=
  State.request_heard _ _ _ _ _ _ h.1 h.2

theorem exec_rcFieldRead_heard (h : Heard s snd t) {n : Nat} (h1 : 1 ≤ n) (h32 : n ≤ 32) (h8 : off % 8 = 0) (hline : off % 4096 + 8 * n ≤ 4096) :
    exec (.rcFieldRead off n snd) s =
      .next (((t.readWords off snd n).1.answer (t.readWords off snd n).2.1 (t.readWords off snd n).2.2).replied snd opRD n) := by
  change execRcFieldRead off n snd s = _
  rw [execRcFieldRead, if_neg (by omega), State.request_heard _ _ _ _ _ _ h.1 h.2]
  simp [h8, Nat.not_lt.2 hline]

theorem exec_rcFieldRead_misaligned (h : Heard s snd t) {n : Nat} (h1 : 1 ≤ n) (h32 : n ≤ 32) (h8 : off % 8 ≠ 0) :
    exec (.rcFieldRead off n snd) s = .next ((t.answer rALIGN (List.replicate n 0)).replied snd opRD n) := by
  change execRcFieldRead off n snd s = _
  rw [execRcFieldRead, if_neg (by omega), State.request_heard _ _ _ _ _ _ h.1 h.2]
  simp [h8]

/-- A write in the power region is a write of the control space at the offset of the region (R412). -/
theorem exec_powerRegisterWrite (h : off < 0x280) :
    exec (.powerRegisterWrite off v snd) s = exec (.registerWrite (0x6000 + off) (.put v) snd) s := by
  change State.putCommand s (decide (off < 0x280)) (0x6000 + off) v snd = _
  rw [State.putCommand, if_pos (decide_eq_true h)]
  rfl

/-! Writes that store their word. -/

/-- The state after a served write of one word that is only stored, and its `OK` response. -/
def State.storeReplied (t : State) (off : Nat) (v : Word64) (snd : Sender) : State :=
  ((t.storeWord off v).answer rOK []).replied snd opWR 1

@[simp] theorem State.storeReplied_resp (t : State) (off : Nat) (v : Word64) (snd : Sender) :
    (t.storeReplied off v snd).resp = some ⟨rOK, []⟩ := rfl

@[simp] theorem State.storeReplied_reg_same (t : State) (off : Nat) (v : Word64) (snd : Sender) :
    (t.storeReplied off v snd).reg off = t.merged off v := t.reg_setReg_same off _

theorem State.storeReplied_reg_other (t : State) (v : Word64) (snd : Sender) {o : Nat} (h : o ≠ off) :
    (t.storeReplied off v snd).reg o = t.reg o := t.reg_setReg_other _ h

/-- A write that is only stored changes registers and what answers it. -/
theorem State.storeReplied_frame (t : State) (off : Nat) (v : Word64) (snd : Sender) :
    t.storeReplied off v snd = { t with
      regs := (t.storeReplied off v snd).regs, resp := (t.storeReplied off v snd).resp
      respHdr := (t.storeReplied off v snd).respHdr, link := (t.storeReplied off v snd).link } := rfl

/-- An RW field holds the bits of the write. -/
theorem State.storeReplied_getF_rw (t : State) (v : Word64) (snd : Sender) (l n : Nat) (r : Rng) (hf : ⟨l, n, .rw, r⟩ ∈ regFields off) :
    (t.storeReplied off v snd).getF ⟨off, l, n⟩ = getBits v l n := by
  rw [State.getF, State.storeReplied_reg_same]
  exact t.getBits_merged_taken v hf rfl

/-- An RO field holds what it held. -/
theorem State.storeReplied_getF_ro (t : State) (v : Word64) (snd : Sender) (l n : Nat) (r : Rng) (hf : ⟨l, n, .ro, r⟩ ∈ regFields off) :
    (t.storeReplied off v snd).getF ⟨off, l, n⟩ = t.getF ⟨off, l, n⟩ := by
  rw [State.getF, State.storeReplied_reg_same]
  exact t.getBits_merged_kept v hf rfl Acc.noConfusion

theorem exec_put_stored (h : Heard s snd t) (hp : plainReg off = true) (hw : t.writeReg off v none = some (t.storeWord off v)) :
    exec (.registerWrite off (.put v) snd) s = .next (t.storeReplied off v snd) := by
  rw [exec_registerWrite_heard h, State.accessTo, t.putTo_plain_some _ hp v snd none hw]
  rfl

theorem exec_put_refused (h : Heard s snd t) (hp : plainReg off = true) (hw : t.writeReg off v none = none) :
    exec (.registerWrite off (.put v) snd) s = .next ((t.answer rACCESS []).replied snd opWR 1) := by
  rw [exec_registerWrite_heard h, State.accessTo, t.putTo_plain_none hp v snd none hw]
  rfl

/-- A misaligned word is refused at every offset, before its region is looked at (R10). -/
theorem exec_put_misaligned (h : Heard s snd t) (h8 : off % 8 ≠ 0) :
    exec (.registerWrite off (.put v) snd) s = .next ((t.answer rALIGN []).replied snd opWR 1) := by
  have hw : t.writeWord off v snd none = (t, rALIGN) := by simp [State.writeWord, State.refusal, h8]
  rw [exec_registerWrite_heard h, State.accessTo, State.putTo, hw]
  rfl

/-! Which writes store their word. -/

theorem PlainRegister.plainReg (h : PlainRegister off) : plainReg off = true := by
  obtain ⟨h8, hin, hhal, hpad, hcam, hkey, -⟩ := h
  simp [Machine.plainReg, h8, hin, hhal, hpad, hcam, hkey]

theorem State.writeReg_of_range (hr : t.rangeOk off v = false) (out : Option TestOut) : t.writeReg off v out = none := by
  simp [State.writeReg, hr]

theorem State.writeReg_plain (h : PlainRegister off) (hr : t.rangeOk off v = true) (out : Option TestOut) :
    t.writeReg off v out = some (t.storeWord off v) := by
  obtain ⟨-, -, -, -, hcam, hkey, hq, hps, hpw, hne⟩ := h
  simp only [List.mem_cons, List.not_mem_nil, or_false, not_or] at hne
  obtain ⟨h1, h2, h3, h4, h5, h6, h7, h8⟩ := hne
  have hcf : off ≠ 0x10010 := by rintro rfl; exact absurd hcam (by decide)
  rw [State.writeReg, if_neg (by simp [hr]), if_neg h1, if_neg h2, if_neg h3, if_neg h4, if_neg (by omega), if_neg h5,
    if_neg (by omega), if_neg (by omega), if_neg h6, if_neg h7, if_neg (by omega), if_neg hcf, if_neg h8]

theorem State.writeReg_power (hlo : 0x6000 ≤ off) (hhi : off < 0x6280) (hr : t.rangeOk off v = true) (out : Option TestOut) :
    t.writeReg off v out = t.writePower off v := by
  have hne : ∀ o ∈ [rGCTL, rLIFECYCLE, rMBOX_ARG, rMBOX_CMD, rARB_COMMIT], off ≠ o := by
    have hbelow : ∀ o ∈ [rGCTL, rLIFECYCLE, rMBOX_ARG, rMBOX_CMD, rARB_COMMIT], o < 0x6000 := by decide
    intro o ho
    have := hbelow o ho
    omega
  simp only [List.forall_mem_cons] at hne
  obtain ⟨h1, h2, h3, h4, h5, -⟩ := hne
  rw [State.writeReg, if_neg (by simp [hr]), if_neg h1, if_neg h2, if_neg h3, if_neg h4, if_neg (by omega), if_neg h5,
    if_neg (by omega), if_pos ⟨hlo, hhi⟩]

theorem State.writePower_stored (h0 : off ≠ 0x6000) (hw : off ≠ 0x6110) (hr : off ≠ 0x6118) :
    t.writePower off v = some (t.storeWord off v) := by
  rw [State.writePower, if_neg h0, if_neg hw, if_neg hr]

/-- A warning level is stored while each is above its reset level. -/
theorem State.writePower_warn (h : ∀ k, k < 3 → t.getF (fV_RESET k) < getBits v (8 * k) 7) :
    t.writePower 0x6110 v = some (t.storeWord 0x6110 v) := by
  rw [State.writePower, if_neg (by decide), if_pos rfl, if_pos]
  simpa using h

theorem State.writePower_warn_low (h : ∃ k, k < 3 ∧ getBits v (8 * k) 7 ≤ t.getF (fV_RESET k)) : t.writePower 0x6110 v = none := by
  rw [State.writePower, if_neg (by decide), if_pos rfl, if_neg]
  simpa using h

/-- A reset level is stored while each is below its warning level. -/
theorem State.writePower_reset (h : ∀ k, k < 3 → getBits v (8 * k) 7 < t.getF (fV_WARN k)) :
    t.writePower 0x6118 v = some (t.storeWord 0x6118 v) := by
  rw [State.writePower, if_neg (by decide), if_neg (by decide), if_pos rfl, if_pos]
  simpa using h

theorem State.writePower_reset_high (h : ∃ k, k < 3 ∧ t.getF (fV_WARN k) ≤ getBits v (8 * k) 7) : t.writePower 0x6118 v = none := by
  rw [State.writePower, if_neg (by decide), if_neg (by decide), if_pos rfl, if_neg]
  simpa using h

/-- What the rules of the power region refuse is refused, in range or not. -/
theorem State.writeReg_power_refused (hlo : 0x6000 ≤ off) (hhi : off < 0x6280) (hw : t.writePower off v = none) (out : Option TestOut) :
    t.writeReg off v out = none := by
  cases hr : t.rangeOk off v with
  | false => exact State.writeReg_of_range hr out
  | true => rw [State.writeReg_power hlo hhi hr, hw]

/-- The row of supply `k` in the registers of the warning and of the reset levels (R410). -/
def levelRow (k : Nat) : FieldSpec := ⟨8 * k, 7, .rw, .between 85 97⟩

theorem regFields_warn : regFields 0x6110 = (List.range 3).map levelRow := by decide

theorem regFields_reset : regFields 0x6118 = (List.range 3).map levelRow := by decide

theorem levelRow_mem {k : Nat} (hk : k < 3) : levelRow k ∈ (List.range 3).map levelRow :=
  List.mem_map_of_mem (List.mem_range.2 hk)

/-- Warning levels from 85 to 97 are in range. -/
theorem State.rangeOk_warn (h : ∀ k, k < 3 → 85 ≤ getBits v (8 * k) 7 ∧ getBits v (8 * k) 7 ≤ 97) : t.rangeOk 0x6110 v = true := by
  refine t.rangeOk_of_ok fun f hf => ?_
  rw [regFields_warn] at hf
  obtain ⟨k, hk, rfl⟩ := List.mem_map.1 hf
  exact decide_eq_true (h k (List.mem_range.1 hk))

/-- A scrub rate of 1 and above is in range (R413). -/
theorem State.rangeOk_scrub (h : 1 ≤ getBits v 8 8) : t.rangeOk 0x7050 v = true := by
  have hlt := getBits_lt v 8 8
  have hrows : regFields 0x7050 = [⟨0, 1, .rw, .all⟩, ⟨8, 8, .rw, .between 1 255⟩, ⟨32, 32, .ro, .all⟩] := by decide
  refine t.rangeOk_of_ok ?_
  rw [hrows]
  simpa [Rng.ok, h] using Nat.le_of_lt_succ hlt

/-- A one-bit field, as a bit. -/
theorem getBits_one_beq (w : Word64) (l : Nat) : (getBits w l 1 == 1) = w.getLsbD l := by
  have hbit := getBits_testBit w l 1 0
  have hlt := getBits_lt w l 1
  rw [decide_eq_true Nat.one_pos, Bool.true_and, Nat.add_zero] at hbit
  rw [← hbit]
  interval_cases getBits w l 1 <;> rfl

theorem plainReg_power (hoff : off < 0x280) (h8 : off % 8 = 0) : plainReg (0x6000 + off) = true := by
  simp only [plainReg, inRegion, inHalter, inPaddock, inCampion, Bool.and_eq_true, Bool.or_eq_true, Bool.not_eq_true', beq_iff_eq,
    decide_eq_true_eq, decide_eq_false_iff_not]
  omega

theorem exec_power_stored (h : Heard s snd t) (hoff : off < 0x280) (h8 : off % 8 = 0) (hr : t.rangeOk (0x6000 + off) v = true)
    (hw : t.writePower (0x6000 + off) v = some (t.storeWord (0x6000 + off) v)) :
    exec (.powerRegisterWrite off v snd) s = .next (t.storeReplied (0x6000 + off) v snd) := by
  rw [exec_powerRegisterWrite hoff]
  exact exec_put_stored h (plainReg_power hoff h8) ((State.writeReg_power (by omega) (by omega) hr none).trans hw)

theorem exec_power_refused (h : Heard s snd t) (hoff : off < 0x280) (h8 : off % 8 = 0) (hw : t.writePower (0x6000 + off) v = none) :
    exec (.powerRegisterWrite off v snd) s = .next ((t.answer rACCESS []).replied snd opWR 1) := by
  rw [exec_powerRegisterWrite hoff]
  exact exec_put_refused h (plainReg_power hoff h8) (State.writeReg_power_refused (by omega) (by omega) hw none)

/-! Reads. -/

theorem exec_read_plain (h : Heard s snd t) (hp : plainReg off = true) (hq : ¬ (0x4020 ≤ off ∧ off < 0x4040)) :
    exec (.rcFieldRead off 1 snd) s =
      .next (((t.clearRc off).answer rOK [t.shown off &&& readMask off]).replied snd opRD 1) := by
  have h8 : off % 8 = 0 := by
    simp only [plainReg, Bool.and_eq_true, beq_iff_eq] at hp
    obtain ⟨⟨⟨⟨⟨h8, -⟩, -⟩, -⟩, -⟩, -⟩ := hp
    exact h8
  rw [exec_rcFieldRead_heard h le_rfl (by decide) h8 (by omega)]
  simp [State.readWords, t.readWord_plain hp, t.readReg_eq hq]

theorem PlainRegister.not_arbStat (h : PlainRegister off) : ¬ (0x4020 ≤ off ∧ off < 0x4040) := by
  obtain ⟨-, -, -, -, -, hkey, -⟩ := h
  omega

theorem and_low32_eq_getBits (w : Word64) : w &&& 0xFFFFFFFF = BitVec.ofNat 64 (getBits w 0 32) := by
  apply BitVec.eq_of_toNat_eq
  have hmask : (0xFFFFFFFF : Word64).toNat = 2 ^ 32 - 1 := rfl
  rw [BitVec.toNat_and, hmask, Nat.and_two_pow_sub_one_eq_mod, BitVec.toNat_ofNat, getBits]
  omega

theorem eq_ofNat_halves (w : Word64) : w = BitVec.ofNat 64 (getBits w 0 32 + 2 ^ 32 * getBits w 32 32) := by
  apply BitVec.eq_of_toNat_eq
  have := w.isLt
  rw [BitVec.toNat_ofNat, getBits, getBits]
  omega

/-- The two RC counters of 0x7030 fill their word: a read clears it whole. -/
theorem State.clearRc_errorCounts (t : State) : t.clearRc 0x7030 = t.setReg 0x7030 0 := by
  have hrows : regFields 0x7030 = [⟨0, 32, .rc, .all⟩, ⟨32, 32, .rc, .all⟩] := by decide
  have hlo : ⟨0, 32, .rc, .all⟩ ∈ regFields 0x7030 := by decide
  have hhi : ⟨32, 32, .rc, .all⟩ ∈ regFields 0x7030 := by decide
  have hzero : (regFields 0x7030).foldl clearField (t.reg 0x7030) = 0 := by
    rw [eq_ofNat_halves ((regFields 0x7030).foldl clearField (t.reg 0x7030))]
    have h0 := t.getBits_clearRc hlo rfl
    have h1 := t.getBits_clearRc hhi rfl
    rw [t.clearRc_of_rc hlo rfl, State.reg_setReg_same] at h0 h1
    rw [h0, h1]
    rfl
  rw [t.clearRc_of_rc hlo rfl, hzero]

theorem State.shown_errorCounts (t : State) :
    t.shown 0x7030 &&& readMask 0x7030 = BitVec.ofNat 64 (t.getF fCE_SRAM + 2 ^ 32 * t.getF fCE_SEAL) := by
  have hmask : readMask 0x7030 = BitVec.allOnes 64 := by decide
  rw [hmask, BitVec.and_allOnes]
  exact eq_ofNat_halves (t.reg 0x7030)

/-! Atomic operations. -/

/-- FADD of a plain register with nothing to clear: the sums of its fields, under its mask, are written, and the old word is answered (R370). -/
theorem State.atomWord_fadd_plain (hp : plainReg off = true) (hread : (t.readReg off).1 = t) (hmask : t.atomMask off ≠ 0) {y : Word64} {u : State}
    (hw : t.writeReg off (addFields (t.atomFields off) (t.readReg off).2 v &&& t.atomMask off) none = some u) :
    t.atomWord off 1 v y snd = (u, rOK, [(t.readReg off).2]) := by
  have hp' := hp
  simp only [plainReg, Bool.and_eq_true, Bool.not_eq_true', beq_iff_eq] at hp'
  obtain ⟨⟨⟨⟨⟨h8, hr⟩, hh⟩, hpad⟩, hc⟩, -⟩ := hp'
  have hrefusal : t.refusal off = none := by simp [State.refusal, h8, hr, hh, hpad, hc]
  simp only [State.atomWord, hrefusal, hh, t.readWord_plain hp, hread, atomResult, if_neg hmask, t.writeWord_plain hp, hw, State.settled]
  rfl

end Sys2Proof.Machine
end

section
/-! PROOF. Register writes and reads by field (R9, R368, R370, R401, R412). -/

namespace Sys2Proof.Machine

/-- `EV_HEAD` fills the only row of its register. -/
theorem eventHead_row : regFields 0x7010 = [⟨0, 32, .rw, .all⟩] := by decide

theorem State.readReg_eventHead (t : State) : t.readReg 0x7010 = (t, BitVec.ofNat 64 (t.getF fEV_HEAD)) := by
  have hmask : readMask 0x7010 = 0xFFFFFFFF := by decide
  rw [t.readReg_eq (by decide), t.clearRc_of_no_rc (by rw [eventHead_row]; decide), hmask, and_low32_eq_getBits]
  rfl

/-- The word that FADD of `v` writes to `EV_HEAD`'s register. -/
def State.eventHeadSum (t : State) (v : Word64) : Word64 :=
  addFields (t.atomFields 0x7010) (BitVec.ofNat 64 (t.getF fEV_HEAD)) v &&& t.atomMask 0x7010

theorem State.keyAt_eventHead (t : State) : t.keyAt 0x7010 = none := by simp [State.keyAt]

theorem State.atomFields_eventHead (t : State) : t.atomFields 0x7010 = [(0, 32)] := by
  rw [State.atomFields, t.keyAt_eventHead, if_neg (by decide), if_neg (by decide), if_neg (by decide), eventHead_row]
  rfl

theorem State.atomMask_eventHead (t : State) : t.atomMask 0x7010 = 0xFFFFFFFF := by
  rw [State.atomMask, t.keyAt_eventHead, if_neg (by decide), if_neg (by decide), eventHead_row]
  decide

theorem State.eventHeadSum_eq (t : State) (v : Word64) :
    t.eventHeadSum v = BitVec.ofNat 64 ((t.getF fEV_HEAD + getBits v 0 32) % 2 ^ 32) := by
  have hlt : t.getF fEV_HEAD < 2 ^ 32 := t.getF_lt fEV_HEAD
  have hhead : getBits (BitVec.ofNat 64 (t.getF fEV_HEAD)) 0 32 = t.getF fEV_HEAD := by
    rw [getBits, BitVec.toNat_ofNat]; omega
  rw [State.eventHeadSum, t.atomMask_eventHead, and_low32_eq_getBits, t.atomFields_eventHead]
  simp only [addFields, List.foldl_cons, List.foldl_nil]
  rw [getBits_setBits_same _ _ _ _ (by decide), hhead, Nat.mod_mod]

variable {s t : State} {snd : Sender} {off : Nat} {v : Word64}

theorem plainRegister_eventHead : PlainRegister 0x7010 := by unfold PlainRegister; decide

theorem plainRegister_scrub : PlainRegister 0x7050 := by unfold PlainRegister; decide

theorem State.writeReg_eventHead (t : State) (v : Word64) : t.writeReg 0x7010 v none = some (t.storeWord 0x7010 v) :=
  State.writeReg_plain plainRegister_eventHead (t.rangeOk_of_unbounded v (by decide)) none

theorem exec_eventHead_fadd (h : Heard s snd t) (y : Word64) :
    exec (.registerWrite 0x7010 (.atom 1 v y) snd) s =
      .next (((t.storeWord 0x7010 (t.eventHeadSum v)).answer rOK [BitVec.ofNat 64 (t.getF fEV_HEAD)]).replied snd opATOM 1) := by
  have hmask : t.atomMask 0x7010 ≠ 0 := by rw [t.atomMask_eventHead]; decide
  have hatom := State.atomWord_fadd_plain (t := t) (off := 0x7010) (snd := snd) (v := v) (y := y) (u := t.storeWord 0x7010 (t.eventHeadSum v))
    (by decide) (by rw [t.readReg_eventHead]) hmask (by rw [t.readReg_eventHead]; exact t.writeReg_eventHead _)
  rw [exec_registerWrite_heard h, State.accessTo, hatom, t.readReg_eventHead]
  rfl

theorem State.getF_eventHead_fadd (t : State) (v : Word64) :
    (t.storeWord 0x7010 (t.eventHeadSum v)).getF fEV_HEAD = (t.getF fEV_HEAD + getBits v 0 32) % 2 ^ 32 := by
  have hrow : ⟨0, 32, .rw, .all⟩ ∈ regFields 0x7010 := by decide
  calc (t.storeWord 0x7010 (t.eventHeadSum v)).getF fEV_HEAD
      = getBits (t.merged 0x7010 (t.eventHeadSum v)) 0 32 := congrArg (getBits · 0 32) (t.reg_setReg_same 0x7010 _)
    _ = getBits (t.eventHeadSum v) 0 32 := t.getBits_merged_taken _ hrow rfl
    _ = (t.getF fEV_HEAD + getBits v 0 32) % 2 ^ 32 := by
      rw [t.eventHeadSum_eq, getBits, BitVec.toNat_ofNat]
      omega

theorem exec_block_served (h : Heard s snd t) {vs : List Word64} (h8 : off % 8 = 0) (hline : off % 4096 + 8 * vs.length ≤ 4096) :
    exec (.registerWrite off (.block vs) snd) s =
      .next (((t.writeWords off snd vs).1.answer (t.writeWords off snd vs).2 []).replied snd opWR vs.length) := by
  rw [exec_registerWrite_heard h, State.accessTo, if_neg (by simp [h8, hline])]
  rfl

/-- A write of several words that is misaligned or crosses a 4 KiB line is refused whole (R368). -/
theorem exec_block_refused (h : Heard s snd t) {vs : List Word64} (hb : off % 8 ≠ 0 ∨ 4096 < off % 4096 + 8 * vs.length) :
    exec (.registerWrite off (.block vs) snd) s = .next ((t.answer rALIGN []).replied snd opWR vs.length) := by
  rw [exec_registerWrite_heard h, State.accessTo, if_pos (by simpa using hb)]
  rfl

/-- Settles O28: each served access is brought to the state that it answers, and the words of that state are read field by field. -/
theorem registerWritesAndReadsByField : Obligations.RegisterWritesAndReadsByField := by
  unfold Obligations.RegisterWritesAndReadsByField
  refine ⟨?plain, ?words, ?events, ?reads, ?power⟩
  case plain =>
    intro s t off v snd h hp
    refine ⟨fun hr => ?_, fun hr => ?_, ?_⟩
    · exact ⟨_, exec_put_stored h hp.plainReg (State.writeReg_plain hp hr none), rfl, t.storeReplied_reg_same off v snd,
        fun o => t.storeReplied_reg_other v snd, t.storeReplied_frame off v snd⟩
    · exact exec_put_refused h hp.plainReg (State.writeReg_of_range hr none)
    · exact ⟨_, exec_read_plain h hp.plainReg hp.not_arbStat, rfl, fun f hf hrc _ => t.getBits_clearRc hf hrc,
        fun o => t.clearRc_reg_other, t.clearRc_mem off, t.clearRc_flights off⟩
  case words =>
    intro s t off vs snd h
    exact ⟨exec_block_served h, exec_block_refused h, fun _ => rfl, fun n h1 h32 => exec_rcFieldRead_heard h h1 h32⟩
  case events =>
    intro s t v snd h
    refine ⟨?_, fun y => ?_, fun hrate => ?_, fun hrate => ?_, ?_⟩
    · exact ⟨_, exec_put_stored h (by decide) (t.writeReg_eventHead v), rfl, t.storeReplied_getF_rw v snd 0 32 .all (by decide),
        fun o => t.storeReplied_reg_other v snd, t.storeReplied_frame _ v snd⟩
    · exact ⟨_, exec_eventHead_fadd h y, rfl, t.getF_eventHead_fadd v, fun o ho => t.reg_setReg_other _ ho⟩
    · have hen : (t.storeReplied 0x7050 v snd).flag fSCRUB_EN = v.getLsbD 0 := by
        rw [← getBits_one_beq, State.flag]
        exact congrArg (· == 1) (t.storeReplied_getF_rw v snd 0 1 .all (by decide))
      exact ⟨_, exec_put_stored h (by decide) (State.writeReg_plain plainRegister_scrub (State.rangeOk_scrub hrate) none), rfl, hen,
        t.storeReplied_getF_rw v snd 8 8 (.between 1 255) (by decide), t.storeReplied_getF_ro v snd 32 32 .all (by decide), t.storeReplied_frame _ v snd⟩
    · have hrange : t.rangeOk 0x7050 v = false :=
        t.rangeOk_eq_false (f := ⟨8, 8, .rw, .between 1 255⟩) (by decide) rfl (by simp [Rng.ok, hrate])
      exact exec_put_refused h (by decide) (State.writeReg_of_range hrange none)
    · exact exec_put_misaligned h (by decide)
  case reads =>
    intro s t snd h
    refine ⟨?_, ?_, ?_⟩
    · rw [exec_read_plain h (by decide) (by decide), t.clearRc_errorCounts, t.shown_errorCounts]
    · exact (exec_rcFieldRead_heard h le_rfl (by decide) (by decide) (by decide)).trans
        (by simp [State.readWords, t.readWord_plain plainRegister_eventHead.plainReg, t.readReg_eventHead])
    · exact exec_rcFieldRead_misaligned h le_rfl (by decide) (by decide)
  case power =>
    intro s t v snd h
    refine ⟨fun off hoff h8 _ hne hr => ?_, rfl, ?_, fun hrange => ⟨fun habove => ?_, fun hlow => ?_⟩, fun hr hbelow => ?_, fun hhigh => ?_⟩
    · simp only [List.mem_cons, List.not_mem_nil, or_false, not_or] at hne
      exact ⟨_, exec_power_stored h hoff h8 hr (State.writePower_stored (by omega) (by omega) (by omega)), rfl, t.storeReplied_reg_same _ v snd,
        fun o => t.storeReplied_reg_other v snd, t.storeReplied_frame _ v snd⟩
    · have hrange : t.rangeOk (0x6000 + 0x100) v = true := t.rangeOk_of_unbounded v (by decide)
      exact ⟨_, exec_power_stored h (by decide) (by decide) hrange (State.writePower_stored (by decide) (by decide) (by decide)), rfl,
        t.storeReplied_getF_rw v snd 0 32 .all (by decide), fun o => t.storeReplied_reg_other v snd, t.storeReplied_frame _ v snd⟩
    · exact ⟨_, exec_power_stored h (by decide) (by decide) (State.rangeOk_warn hrange) (State.writePower_warn habove), rfl,
        fun k hk => t.storeReplied_getF_rw v snd (8 * k) 7 (.between 85 97) (by rw [regFields_warn]; exact levelRow_mem hk),
        t.storeReplied_frame _ v snd⟩
    · exact exec_power_refused h (by decide) (by decide) (State.writePower_warn_low hlow)
    · exact ⟨_, exec_power_stored h (by decide) (by decide) hr (State.writePower_reset hbelow), rfl,
        fun k hk => t.storeReplied_getF_rw v snd (8 * k) 7 (.between 85 97) (by rw [regFields_reset]; exact levelRow_mem hk),
        t.storeReplied_frame _ v snd⟩
    · exact exec_power_refused h (by decide) (by decide) (State.writePower_reset_high hhigh)

end Sys2Proof.Machine
end

section
/-! SUPPORT. Byte strings and the seal (R21). -/

namespace Sys2Proof.Machine

@[simp] theorem leBytes_length (n v : Nat) : (leBytes n v).length = n := by
  induction n generalizing v with
  | zero => rfl
  | succ n ih => simp [leBytes, ih]

theorem leNat_leBytes (n v : Nat) : leNat (leBytes n v) = v % 256 ^ n := by
  induction n generalizing v with
  | zero => simp [leBytes, leNat, Nat.mod_one]
  | succ n ih =>
    have hbyte : (BitVec.ofNat 8 v).toNat = v % 256 := BitVec.toNat_ofNat v 8
    rw [leBytes, leNat, ih, hbyte, Nat.pow_succ', Nat.mod_mul]

/-- A replacement within a byte string leaves the bytes before it. -/
theorem take_putBytes (l bs : List Byte) {off n : Nat} (hn : n ≤ off) (hoff : off ≤ l.length) :
    (putBytes l off bs).take n = l.take n := by
  rw [putBytes, List.append_assoc, List.take_append_of_le_length (by simp; omega), List.take_take, Nat.min_eq_left hn]

/-- A replacement within a byte string leaves the bytes behind it. -/
theorem drop_putBytes (l bs : List Byte) {off : Nat} (hoff : off ≤ l.length) :
    (putBytes l off bs).drop (off + bs.length) = l.drop (off + bs.length) := by
  have hlen : (l.take off ++ bs).length = off + bs.length := by simp [Nat.min_eq_left hoff]
  rw [putBytes, ← hlen, List.drop_left]

/-- A replacement within a byte string reads back. -/
theorem take_drop_putBytes (l bs : List Byte) {off : Nat} (hoff : off ≤ l.length) :
    ((putBytes l off bs).drop off).take bs.length = bs := by
  have hlen : (l.take off).length = off := by simp [Nat.min_eq_left hoff]
  rw [putBytes, List.append_assoc, List.drop_left' hlen, List.take_left]

/-! The seal. -/

theorem crcByte_eq (c : BitVec 32) (b : Byte) :
    crcByte c b = crcBit (crcBit (crcBit (crcBit (crcBit (crcBit (crcBit (crcBit (c ^^^ b.setWidth 32)))))))) := rfl

/-- The check value of CRC-32C: the code of the characters 1 to 9. -/
theorem crc32c_check : crc32c [0x31, 0x32, 0x33, 0x34, 0x35, 0x36, 0x37, 0x38, 0x39] = 0xE3069283 := by decide +kernel

theorem sealRecord_eq (rec : List Byte) : sealRecord rec = rec.take 60 ++ leBytes 4 (sealOf rec).toNat ++ rec.drop 64 := by
  rw [sealRecord, putBytes, leBytes_length]

variable {rec : List Byte} (h : 64 ≤ rec.length)
include h

/-- The seal does not depend on the bytes that hold it. -/
theorem sealOf_sealRecord : sealOf (sealRecord rec) = sealOf rec := by
  have hdrop := drop_putBytes rec (leBytes 4 (sealOf rec).toNat) (off := 60) (by omega)
  rw [leBytes_length] at hdrop
  rw [sealOf, sealRecord, take_putBytes _ _ le_rfl (by omega), hdrop, ← sealOf]

/-- A sealed record passes its check. -/
theorem sealOk_sealRecord : sealOk (sealRecord rec) = true := by
  have hfield := take_drop_putBytes rec (leBytes 4 (sealOf rec).toNat) (off := 60) (by omega)
  rw [leBytes_length] at hfield
  rw [sealOk, sealOf_sealRecord h, sealRecord, hfield, leNat_leBytes, beq_iff_eq]
  have hlt : (sealOf rec).toNat < 256 ^ 4 := (sealOf rec).isLt
  rw [Nat.mod_eq_of_lt hlt, BitVec.ofNat_toNat, BitVec.setWidth_eq]

theorem length_sealRecord : (sealRecord rec).length = rec.length := by
  rw [sealRecord_eq]
  simp only [List.length_append, List.length_take, List.length_drop, leBytes_length]
  omega

end Sys2Proof.Machine
end

section
/-! PROOF. The seal, the grid and the group norms (R21, R34, R39). -/

namespace Sys2Proof.Machine

/-- Settles O9: the CRC's register steps are those of its definition, and a seal reads back as the number that was stored. -/
theorem sealIsCrc32cOfTheRecord : Obligations.SealIsCrc32cOfTheRecord := by
  unfold Obligations.SealIsCrc32cOfTheRecord
  exact ⟨fun _ => rfl, crcByte_eq, fun _ => rfl, crc32c_check, fun rec h => ⟨rfl, sealRecord_eq rec, sealOk_sealRecord h⟩⟩

/-! The grid. -/

/-- The grid's step is `2 ^ (a - 150)`: a contribution of exponent `f` is shifted by `f - a + 150`. -/
theorem gridQuotient_eq (g f a : Int) : (g : ℚ) * 2 ^ f / 2 ^ (a - 150) = g * 2 ^ (f - a + 150) := by
  rw [mul_div_assoc, ← zpow_sub₀ two_ne_zero, show f - (a - 150) = f - a + 150 by ring]

theorem placeOnGrid_eq_floor (g f a : Int) : placeOnGrid g f a = ⌊(g : ℚ) * 2 ^ f / 2 ^ (a - 150)⌋ := by
  rw [gridQuotient_eq, placeOnGrid]
  split
  case isTrue hsh =>
    have hpow : (2 : ℚ) ^ (f - a + 150) = ((2 ^ (f - a + 150).toNat : Nat) : ℚ) := by
      rw [Nat.cast_pow, Nat.cast_ofNat, ← zpow_natCast, Int.toNat_of_nonneg hsh]
    rw [hpow]
    exact_mod_cast (Int.floor_intCast _).symm
  case isFalse hsh =>
    have hpow : (2 : ℚ) ^ (f - a + 150) = ((2 ^ (-(f - a + 150)).toNat : Nat) : ℚ)⁻¹ := by
      rw [Nat.cast_pow, Nat.cast_ofNat, ← zpow_natCast, Int.toNat_of_nonneg (by omega), zpow_neg, inv_inv]
    rw [hpow, ← div_eq_mul_inv, Rat.floor_intCast_div_natCast, Int.fdiv_eq_ediv_of_nonneg _ (Int.natCast_nonneg _)]

/-- Settles O10: a shift up is exact and a shift down is the floor of a quotient of integers. -/
theorem contributionsAreFlooredOnTheGrid : Obligations.ContributionsAreFlooredOnTheGrid := by
  unfold Obligations.ContributionsAreFlooredOnTheGrid
  exact ⟨placeOnGrid_eq_floor, by decide +kernel, by decide +kernel⟩

/-! Group norms. -/

theorem two_pow_bitLength_bounds {n : Nat} (h : n ≠ 0) : 2 ^ (bitLength n - 1) ≤ n ∧ n < 2 ^ bitLength n := by
  rw [bitLength, if_neg h]
  exact ⟨Nat.log2_self_le h, Nat.lt_log2_self⟩

/-- A number of nine bits and more, rounded up to eight, has at most `2 ^ 8` units. -/
theorem ceilDiv_bitLength_le {n : Nat} (h : 256 ≤ n) : (n + 2 ^ (bitLength n - 8) - 1) / 2 ^ (bitLength n - 8) ≤ 256 := by
  obtain ⟨-, hlt⟩ := two_pow_bitLength_bounds (n := n) (by omega)
  have h9 : 8 < bitLength n := by
    by_contra hle
    have := Nat.pow_le_pow_right two_pos (Nat.le_of_not_lt hle)
    omega
  have hpow : 2 ^ bitLength n = 2 ^ (bitLength n - 8) * 256 := by
    rw [← Nat.pow_add _ _ 8, Nat.sub_add_cancel h9.le]
  have hpos : 0 < 2 ^ (bitLength n - 8) := Nat.two_pow_pos _
  rw [← Nat.lt_succ_iff, Nat.div_lt_iff_lt_mul hpos]
  omega

theorem normUp_of_lt {n : Nat} (h : n < 256) : normUp n = n := if_pos h

theorem normUp_of_ge {n : Nat} (h : 256 ≤ n) :
    normUp n = if ceilDiv n (2 ^ (bitLength n - 8)) = 256 then 128 * 2 ^ (bitLength n - 8 + 1)
      else ceilDiv n (2 ^ (bitLength n - 8)) * 2 ^ (bitLength n - 8) := if_neg (Nat.not_lt.2 h)

theorem hiddenRow_norms (f : HFmt) (hd : Nat) (bytes : Array Byte) {g : Nat} (hg : g < 2 * hd) :
    (hiddenRow f hd bytes).norms.getD g 0 =
      normUp ((List.range 32).foldl (fun s i => s + ((hiddenRow f hd bytes).b.getD (32 * g + i) 0).natAbs) 0) := by
  simp [hiddenRow, hg]

/-- Settles O11: below 256 a norm stands as it is; above, the eight leading bits are rounded up, and 256 units are 128 of the next size. -/
theorem groupNormsRoundUpToEightBits : Obligations.GroupNormsRoundUpToEightBits := by
  unfold Obligations.GroupNormsRoundUpToEightBits
  refine ⟨fun n => normUp_of_lt, fun n hn => ?_, fun f hd bytes g => hiddenRow_norms f hd bytes⟩
  have hle := ceilDiv_bitLength_le hn
  refine ⟨two_pow_bitLength_bounds (by omega), fun hm => ⟨lt_of_le_of_ne hle hm, ?_⟩, fun hm => ?_⟩
  · exact (normUp_of_ge hn).trans (if_neg hm)
  · exact (normUp_of_ge hn).trans (if_pos hm)

end Sys2Proof.Machine
end

section
/-! SUPPORT. Runs of a sparse store: what a read of a run finds after a write of a run, in host memory and in Paddock. -/

namespace Sys2Proof.Machine

variable {α : Type} [DecidableEq α] (d : Nat → α)

omit [DecidableEq α] in
theorem Store.walk_of_lt {n a : Nat} {l : Store α} (h : ∀ p ∈ l, a < p.1) : Store.walk d (n + 1) a l = d a :: Store.walk d n (a + 1) l := by
  cases l with
  | nil => rfl
  | cons p l =>
    have hp : p.1 ≠ a := (h p List.mem_cons_self).ne'
    exact if_neg hp

theorem Store.walk_entries (a : Nat) (vs : List α) : Store.walk d vs.length a (Store.entries d a vs) = vs := by
  induction vs generalizing a with
  | nil => rfl
  | cons v vs ih =>
    rw [Store.entries]
    split
    case isTrue hv =>
      have hlt : ∀ p ∈ Store.entries d (a + 1) vs, a < p.1 := fun p hp => (Store.entries_key d hp).1
      rw [List.length_cons, Store.walk_of_lt d hlt, ih, hv]
    case isFalse hv =>
      rw [List.length_cons, Store.walk, if_pos rfl, ih]

/-- The keys of the run from `a` on, `n` in all. -/
def inSpan (a n : Nat) {α : Type} (p : Nat × α) : Bool := decide (a ≤ p.1) && decide (p.1 < a + n)

theorem Store.filter_inSpan_writeRange (l : Store α) (a : Nat) (vs : List α) :
    (Store.writeRange d l a vs).filter (inSpan a vs.length) = Store.entries d a vs := by
  have hlow : ∀ p ∈ l.filter (fun p => decide (p.1 < a)), ¬ inSpan a vs.length p = true := by
    intro p hp
    have := (List.mem_filter.1 hp).2
    simp only [decide_eq_true_eq] at this
    simp [inSpan]; omega
  have hhigh : ∀ p ∈ l.filter (fun p => decide (a + vs.length ≤ p.1)), ¬ inSpan a vs.length p = true := by
    intro p hp
    have := (List.mem_filter.1 hp).2
    simp only [decide_eq_true_eq] at this
    simp [inSpan]; omega
  have hin : ∀ p ∈ Store.entries d a vs, inSpan a vs.length p = true := by
    intro p hp
    have := Store.entries_key d hp
    simp [inSpan]; omega
  rw [Store.writeRange, List.filter_append, List.filter_append, List.filter_eq_nil_iff.2 hlow, List.filter_eq_nil_iff.2 hhigh,
    List.filter_eq_self.2 hin, List.nil_append, List.append_nil]

theorem Store.filter_inSpan_writeRange_apart (l : Store α) {a n b : Nat} {vs : List α} (h : Apart a n b vs.length) :
    (Store.writeRange d l b vs).filter (inSpan a n) = l.filter (inSpan a n) := by
  have hentries : ∀ p ∈ Store.entries d b vs, ¬ inSpan a n p = true := by
    intro p hp
    have := Store.entries_key d hp
    simp only [inSpan, Bool.and_eq_true, decide_eq_true_eq]
    rcases h with h | h <;> omega
  rw [Store.writeRange, List.filter_append, List.filter_append, List.filter_eq_nil_iff.2 hentries, List.append_nil, List.filter_filter,
    List.filter_filter]
  rcases h with h | h
  · have hlow : l.filter (fun p => inSpan a n p && decide (p.1 < b)) = l.filter (inSpan a n) :=
      List.filter_congr fun p _ => by simp only [inSpan, Bool.and_eq_left_iff_imp, Bool.and_eq_true, decide_eq_true_eq]; omega
    have hhigh : l.filter (fun p => inSpan a n p && decide (b + vs.length ≤ p.1)) = [] :=
      List.filter_eq_nil_iff.2 fun p _ => by simp only [inSpan, Bool.and_eq_true, decide_eq_true_eq]; omega
    rw [hlow, hhigh, List.append_nil]
  · have hlow : l.filter (fun p => inSpan a n p && decide (p.1 < b)) = [] :=
      List.filter_eq_nil_iff.2 fun p _ => by simp only [inSpan, Bool.and_eq_true, decide_eq_true_eq]; omega
    have hhigh : l.filter (fun p => inSpan a n p && decide (b + vs.length ≤ p.1)) = l.filter (inSpan a n) :=
      List.filter_congr fun p _ => by simp only [inSpan, Bool.and_eq_left_iff_imp, Bool.and_eq_true, decide_eq_true_eq]; omega
    rw [hlow, hhigh, List.nil_append]

/-- A run reads as it was written. -/
theorem Store.readRange_writeRange_same (l : Store α) (a : Nat) (vs : List α) :
    Store.readRange d (Store.writeRange d l a vs) a vs.length = vs :=
  (congrArg (Store.walk d vs.length a) (Store.filter_inSpan_writeRange d l a vs)).trans (Store.walk_entries d a vs)

/-- A run apart from the one written reads as before. -/
theorem Store.readRange_writeRange_apart (l : Store α) {a n b : Nat} {vs : List α} (h : Apart a n b vs.length) :
    Store.readRange d (Store.writeRange d l b vs) a n = Store.readRange d l a n :=
  congrArg (Store.walk d n a) (Store.filter_inSpan_writeRange_apart d l h)

end Sys2Proof.Machine
end

section
/-! SUPPORT. Writes to host memory: their messages cover the bytes and no others (R368, R371, R383, R386), and what stands in memory after them. -/

namespace Sys2Proof.Machine

/-! What messages depend on. -/

theorem State.getF_congr {s t : State} {f : Fld} (h : t.reg f.off = s.reg f.off) : t.getF f = s.getF f :=
  congrArg (fun w => getBits w f.lsb f.width) h

theorem State.flag_congr {s t : State} {f : Fld} (h : t.reg f.off = s.reg f.off) : t.flag f = s.flag f :=
  congrArg (· == 1) (State.getF_congr h)

/-- The registers of the ports, from the link's state on, are the same. -/
def SamePorts (s t : State) : Prop := ∀ o, 0x20000 ≤ o → t.reg o = s.reg o

theorem SamePorts.of_regs {s t : State} (h : t.regs = s.regs) : SamePorts s t := fun o _ => congrArg (Store.read regDefault · o) h

theorem SamePorts.trans {s t u : State} (h : SamePorts s t) (h' : SamePorts t u) : SamePorts s u := fun o ho => (h' o ho).trans (h o ho)

section
variable {s t : State} (h : SamePorts s t)
include h

theorem SamePorts.inWindow (a : Nat) : t.inWindow a = s.inWindow a := by
  have hbase : t.getF fBASE_G = s.getF fBASE_G := State.getF_congr (h _ (by decide))
  have hsize : t.getF fSIZE_G = s.getF fSIZE_G := State.getF_congr (h _ (by decide))
  simp only [State.inWindow, hbase, hsize]

theorem SamePorts.ilv : t.getF fILV = s.getF fILV := State.getF_congr (h _ (by decide))

theorem SamePorts.channel (a : Nat) : t.channel a = s.channel a := by
  have hbase : t.getF fBASE_G = s.getF fBASE_G := State.getF_congr (h _ (by decide))
  simp only [State.channel, hbase, h.ilv]

theorem SamePorts.portOf (a : Nat) : t.portOf a = s.portOf a := by
  simp only [State.portOf, h.inWindow, h.channel]

theorem SamePorts.granule : t.granule = s.granule := by
  simp only [State.granule, State.getF_congr (f := fMC_GRAN 0) (h _ (by decide))]

theorem SamePorts.portUp (p : Port) : t.portUp p = s.portUp p := by
  cases p with
  | hport => simp only [State.portUp, State.served, State.getF_congr (f := fLSTATE) (h _ (by decide))]
  | mc n =>
    have hoff : 0x20000 ≤ (fMC_UP n).off := by simp only [fMC_UP, rMC_MODE]; omega
    exact State.flag_congr (h _ hoff)

theorem SamePorts.cut (p : Port) (wr : Bool) (a n : Nat) : t.cut p wr a n = s.cut p wr a n := by
  cases p with
  | hport => rfl
  | mc k => simp only [State.cut, h.granule, h.ilv]

theorem SamePorts.messages (p : Option Port) (wr : Bool) (a n : Nat) : t.messages p wr a n = s.messages p wr a n := by
  have hpieces : ∀ k a n, t.pieces p wr k a n = s.pieces p wr k a n := by
    intro k
    induction k with
    | zero => intro a n; rfl
    | succ k ih => intro a n; simp only [State.pieces, h.portOf, h.cut, ih]
  exact hpieces _ a n

end

/-! The messages of a write. -/

theorem State.cut_le (s : State) (p : Port) (a n : Nat) : s.cut p true a n ≤ n := by
  cases p with
  | hport => exact Nat.min_le_left _ _
  | mc k => exact Nat.min_le_left _ _

theorem State.granule_cases (s : State) : s.granule = 128 ∨ s.granule = 256 := by
  rw [State.granule]
  split
  · exact .inr rfl
  · exact .inl rfl

/-- A message of a write takes all that is left, or 64 bytes and more and keeps to a bound of 128 that it starts at, or ends at such a bound. -/
theorem State.cut_cases (s : State) (p : Port) {a n : Nat} (hn : n ≠ 0) :
    0 < s.cut p true a n ∧ (s.cut p true a n = n ∨ (64 ≤ s.cut p true a n ∧ (a % 128 = 0 → (a + s.cut p true a n) % 128 = 0)) ∨
      (a % 128 ≠ 0 ∧ (a + s.cut p true a n) % 128 = 0)) := by
  cases p with
  | hport => simp only [State.cut, Nat.min_eq_min]; omega
  | mc k => rcases s.granule_cases with hg | hg <;> simp only [State.cut, hg, if_true, Nat.min_eq_min] <;> omega

theorem State.mem_pieces_bounds {s : State} {p : Option Port} {k a n : Nat} {m : Port × Nat × Nat} (h : m ∈ s.pieces p true k a n) :
    a ≤ m.2.1 ∧ m.2.1 + m.2.2 ≤ a + n := by
  induction k generalizing a n with
  | zero => simp [State.pieces] at h
  | succ k ih =>
    rw [State.pieces] at h
    split at h
    · simp at h
    · have hle := s.cut_le (p.getD (s.portOf a)) a n
      rcases List.mem_cons.1 h with rfl | h
      · exact ⟨le_rfl, by dsimp only; omega⟩
      · have := ih h
        omega

/-- A bound on the number of messages: 64 bytes each from a bound of 128 on, and one more from elsewhere. -/
def EnoughPieces (k a n : Nat) : Prop := n ≤ 64 * k ∧ (a % 128 = 0 ∨ n + 64 ≤ 64 * k)

theorem State.pieces_cover (s : State) (p : Option Port) {k a n i : Nat} (hk : EnoughPieces k a n) (hlo : a ≤ i) (hhi : i < a + n) :
    ∃ m ∈ s.pieces p true k a n, m.2.1 ≤ i ∧ i < m.2.1 + m.2.2 := by
  induction k generalizing a n with
  | zero => obtain ⟨hk, -⟩ := hk; omega
  | succ k ih =>
    have hn : n ≠ 0 := by omega
    rw [State.pieces, if_neg hn]
    obtain ⟨hpos, hcut⟩ := s.cut_cases (p.getD (s.portOf a)) (a := a) hn
    have hle := s.cut_le (p.getD (s.portOf a)) a n
    by_cases hi : i < a + s.cut (p.getD (s.portOf a)) true a n
    · exact ⟨_, List.mem_cons_self, hlo, hi⟩
    · have hrest : EnoughPieces k (a + s.cut (p.getD (s.portOf a)) true a n) (n - s.cut (p.getD (s.portOf a)) true a n) := by
        unfold EnoughPieces at hk ⊢
        omega
      obtain ⟨m, hm, hm'⟩ := ih hrest (by omega) (by omega)
      exact ⟨m, List.mem_cons_of_mem _ hm, hm'⟩

theorem State.messages_cover (s : State) (p : Option Port) {a n i : Nat} (hlo : a ≤ i) (hhi : i < a + n) :
    ∃ m ∈ s.messages p true a n, m.2.1 ≤ i ∧ i < m.2.1 + m.2.2 :=
  s.pieces_cover p (by unfold EnoughPieces; omega) hlo hhi

/-- The first message of a write goes to the port of its address. -/
theorem State.messages_head (s : State) (wr : Bool) {a n : Nat} (hn : n ≠ 0) : ∃ m ∈ s.messages none wr a n, m.1 = s.portOf a :=
  ⟨_, by rw [State.messages, State.pieces, if_neg hn]; exact List.mem_cons_self, rfl⟩

/-! The writes of the messages. -/

/-- One message of a write of `bs` at `a`: its bytes are put, and it is sent. -/
def State.writePiece (vc a : Nat) (bs : List Byte) (why : Purpose2) (s : State) (x : Port × Nat × Nat) : State :=
  let d := (bs.drop (x.2.1 - a)).take x.2.2
  match x.1 with
  | .hport =>
    let m := s.wrMessage .hport vc x.2.1 d
    (if s.served then s.putMem x.2.1 d else s).send .hport x.2.1 x.2.2 why m.1 m.2
  | .mc n =>
    if s.flag (fMC_UP n) then
      let m := s.wrMessage (.mc n) vc x.2.1 d
      (s.putMem x.2.1 d).send (.mc n) x.2.1 x.2.2 why m.1 m.2
    else s

theorem State.writeBy_eq_foldl (s : State) (p : Option Port) (vc a : Nat) (bs : List Byte) (why : Purpose2) :
    s.writeBy p vc a bs why = (s.messages p true a bs.length).foldl (State.writePiece vc a bs why) s := rfl

section
variable (s : State) (vc a : Nat) (bs : List Byte) (why : Purpose2) (x : Port × Nat × Nat)

theorem State.writePiece_mem : (s.writePiece vc a bs why x).mem =
    if s.portUp x.1 then Store.writeRange memDefault s.mem x.2.1 ((bs.drop (x.2.1 - a)).take x.2.2) else s.mem := by
  obtain ⟨p, b, n⟩ := x
  cases p with
  | hport => by_cases hup : s.served = true <;> simp [State.writePiece, State.portUp, hup]
  | mc k => by_cases hup : s.flag (fMC_UP k) = true <;> simp [State.writePiece, State.portUp, hup]

theorem State.writePiece_regs : (s.writePiece vc a bs why x).regs = s.regs := by
  obtain ⟨p, b, n⟩ := x
  cases p with
  | hport => by_cases hup : s.served = true <;> simp [State.writePiece, hup]
  | mc k => by_cases hup : s.flag (fMC_UP k) = true <;> simp [State.writePiece, hup]

end

/-- A message leaves every byte outside it. -/
theorem State.read_writePiece_out (s : State) (vc : Nat) {a : Nat} {bs : List Byte} (why : Purpose2) {x : Port × Nat × Nat} {k : Nat}
    (h : k < x.2.1 ∨ x.2.1 + x.2.2 ≤ k) : Store.read memDefault (s.writePiece vc a bs why x).mem k = Store.read memDefault s.mem k := by
  rw [State.writePiece_mem]
  split
  · exact Store.read_writeRange_out _ _ (by rw [List.length_take]; omega)
  · rfl

/-- A message on a port that runs writes its bytes. -/
theorem State.read_writePiece_in (s : State) (vc : Nat) {a : Nat} {bs : List Byte} (why : Purpose2) {x : Port × Nat × Nat} {i : Nat}
    (hup : s.portUp x.1 = true) (hx : a ≤ x.2.1) (hi : i < bs.length) (hlo : x.2.1 ≤ a + i) (hhi : a + i < x.2.1 + x.2.2) :
    Store.read memDefault (s.writePiece vc a bs why x).mem (a + i) = bs.getD i 0 := by
  have hbyte : ((bs.drop (x.2.1 - a)).take x.2.2)[a + i - x.2.1]? = some (bs.getD i 0) := by
    rw [List.getElem?_take_of_lt (by omega), List.getElem?_drop, show x.2.1 - a + (a + i - x.2.1) = i by omega, List.getD_eq_getElem _ _ hi,
      List.getElem?_eq_getElem hi]
  rw [State.writePiece_mem, if_pos hup, show a + i = x.2.1 + (a + i - x.2.1) by omega]
  exact Store.read_writeRange_in _ _ hbyte

/-- A byte that one of the messages covers, or that stands there already, stands there after them all. -/
theorem State.read_foldl_writePiece (vc : Nat) {a : Nat} {bs : List Byte} (why : Purpose2) {i : Nat} (hi : i < bs.length)
    (l : List (Port × Nat × Nat)) (hl : ∀ x ∈ l, a ≤ x.2.1) (s : State) (hup : ∀ x ∈ l, s.portUp x.1 = true)
    (h : Store.read memDefault s.mem (a + i) = bs.getD i 0 ∨ ∃ x ∈ l, x.2.1 ≤ a + i ∧ a + i < x.2.1 + x.2.2) :
    Store.read memDefault (l.foldl (State.writePiece vc a bs why) s).mem (a + i) = bs.getD i 0 := by
  induction l generalizing s with
  | nil => simpa using h
  | cons x l ih =>
    have hports : SamePorts s (s.writePiece vc a bs why x) := .of_regs (s.writePiece_regs vc a bs why x)
    refine ih (fun y hy => hl y (List.mem_cons_of_mem _ hy)) _ (fun y hy => by rw [hports.portUp]; exact hup y (List.mem_cons_of_mem _ hy)) ?_
    by_cases hx : x.2.1 ≤ a + i ∧ a + i < x.2.1 + x.2.2
    · exact .inl (s.read_writePiece_in vc why (hup x List.mem_cons_self) (hl x List.mem_cons_self) hi hx.1 hx.2)
    · rw [s.read_writePiece_out vc why (by omega)]
      rcases h with h | ⟨y, hy, hcov⟩
      · exact .inl h
      · rcases List.mem_cons.1 hy with rfl | hy
        · exact absurd hcov hx
        · exact .inr ⟨y, hy, hcov⟩

theorem State.read_foldl_writePiece_out (vc : Nat) {a : Nat} {bs : List Byte} (why : Purpose2) {k : Nat}
    (l : List (Port × Nat × Nat)) (hl : ∀ x ∈ l, k < x.2.1 ∨ x.2.1 + x.2.2 ≤ k) (s : State) :
    Store.read memDefault (l.foldl (State.writePiece vc a bs why) s).mem k = Store.read memDefault s.mem k := by
  induction l generalizing s with
  | nil => rfl
  | cons x l ih =>
    rw [List.foldl_cons, ih (fun y hy => hl y (List.mem_cons_of_mem _ hy)), s.read_writePiece_out vc why (hl x List.mem_cons_self)]

/-- A write to host memory leaves every byte outside it. -/
theorem State.sameMemBut_writeHost (s : State) (a : Nat) (bs : List Byte) (why : Purpose2) : SameMemBut s (s.writeHost a bs why) a bs.length := by
  intro k hk
  rw [State.writeHost, State.writeBy_eq_foldl]
  refine State.read_foldl_writePiece_out 0 why _ (fun x hx => ?_) s
  have := State.mem_pieces_bounds hx
  omega

/-- A write to host memory leaves the bytes apart from it. -/
theorem State.memAt_writeHost_apart (s : State) {a n b : Nat} {bs : List Byte} (why : Purpose2) (h : Apart a n b bs.length) :
    (s.writeHost b bs why).memAt a n = s.memAt a n := by
  rw [State.writeHost, State.writeBy_eq_foldl]
  refine List.foldlRecOn (motive := fun (t : State) => t.memAt a n = s.memAt a n) _ _ rfl fun t ht x hx => ?_
  have hbounds := State.mem_pieces_bounds hx
  rw [← ht, State.memAt, State.memAt, State.writePiece_mem]
  split
  · refine Store.readRange_writeRange_apart _ _ ?_
    rw [List.length_take]
    unfold Apart at h ⊢
    omega
  · rfl

theorem Written.of_mem {s u v : State} {a : Nat} {bs : List Byte} (h : Written s v a bs) (hm : u.mem = v.mem) : Written s u a bs := by
  intro hup i hi
  rw [hm, h hup i hi]

/-- The bytes of a write to host memory stand there, where their ports run. -/
theorem State.written_writeHost {s t : State} (h : SamePorts s t) (a : Nat) (bs : List Byte) (why : Purpose2) : Written s (t.writeHost a bs why) a bs := by
  intro hup i hi
  rw [State.writeHost, State.writeBy_eq_foldl, h.messages]
  refine State.read_foldl_writePiece 0 why hi _ (fun x hx => (State.mem_pieces_bounds hx).1) t (fun x hx => ?_)
    (.inr (s.messages_cover none (by omega) (by omega)))
  rw [h.portUp]
  exact hup x hx

end Sys2Proof.Machine
end

section
/-! SUPPORT. Which registers the shared operations change: those of the event ring (R414), a queue's own words (R298 to R300), and lists of fields. -/

namespace Sys2Proof.Machine

variable (s : State)

theorem State.reg_congr {s t : State} (h : t.regs = s.regs) (o : Nat) : t.reg o = s.reg o := congrArg (Store.read regDefault · o) h

theorem State.haltAt_regs (q code order : Nat) : (s.haltAt q code order).regs = ((s.setF (fQ_STATE q) 4).setF (fQ_HALT q) code).regs := rfl

/-! Events. -/

/-- An offset outside the registers of events. -/
def OffEvents (o : Nat) : Prop := o < 0x7000 ∨ 0x7060 ≤ o

section
variable {o : Nat} (h : OffEvents o)
include h

theorem OffEvents.ne {b : Nat} (hb : 0x7000 ≤ b ∧ b < 0x7060) : o ≠ b := by
  unfold OffEvents at h
  omega

theorem State.advanceTail_reg (n : Nat) : (s.advanceTail n).reg o = s.reg o := by
  induction n generalizing s with
  | zero => rfl
  | succ n ih =>
    rw [State.advanceTail]
    dsimp only
    split
    · rw [ih, State.reg_setF_other _ _ _ (h.ne (by decide))]
      rfl
    · rfl

theorem State.ackEvent_reg (i : Nat) : (s.ackEvent i).reg o = s.reg o := by
  rw [State.ackEvent, State.noteTail_reg, State.advanceTail_reg _ h]
  rfl

theorem State.issueEvent_reg (e : EvRec) : (s.issueEvent e).reg o = s.reg o := by
  unfold State.issueEvent
  dsimp only
  split
  · rfl
  · split
    · split
      · rw [State.writeHost_reg]
        rfl
      · rw [State.ackEvent_reg _ h, State.writeHost_reg]
        rfl
    · rw [State.addSat, State.reg_setF_other _ _ _ (h.ne (by decide))]
      rfl

theorem State.post_reg (e : EvRec) : (s.post e).reg o = s.reg o := by
  rw [State.post, State.issueEvent_reg _ h, State.reg_setF_other _ _ _ (h.ne (by simp [fERR_CLASS]))]

theorem State.coalesce_reg (k : CoalKey) (e : EvRec) : (s.coalesce k e).reg o = s.reg o := by
  have hset : (s.setF (fERR_CLASS e.cls) 1).reg o = s.reg o := State.reg_setF_other _ _ _ (h.ne (by simp [fERR_CLASS]))
  unfold State.coalesce
  dsimp only
  split
  · exact hset
  · exact hset

theorem State.poisonEvents_reg (req sev : Nat) (gs : List (Nat × Mark)) (who : Who) (row : Nat) :
    (s.poisonEvents req sev gs who row).reg o = s.reg o := by
  unfold State.poisonEvents
  induction gs generalizing s with
  | nil => rfl
  | cons g gs ih =>
    rw [List.foldl_cons, ih]
    split
    · rfl
    · exact State.coalesce_reg _ h _ _

theorem State.readHost_reg (req sev a n : Nat) (who : Who) (row : Nat) : (s.readHost req sev a n who row).1.reg o = s.reg o := by
  rw [State.readHost, State.poisonEvents_reg _ h, State.issueRead_reg]

omit h in
theorem State.post_getF {f : Fld} (e : EvRec) (hf : OffEvents f.off) : (s.post e).getF f = s.getF f :=
  State.getF_congr (s.post_reg hf e)

/-! Queues. -/

omit h in
theorem State.haltAt_reg (q code order : Nat) (hq : o ≠ rQ q + 0x20) : (s.haltAt q code order).reg o = s.reg o := by
  rw [State.reg_congr (s.haltAt_regs q code order), State.reg_setF_other _ (fQ_HALT q) _ hq, State.reg_setF_other _ (fQ_STATE q) _ hq]

/-- A halt changes the state word of its queue and the registers of events. -/
theorem State.halt_reg (q code order slot id : Nat) (hq : o ≠ rQ q + 0x20) : (s.halt q code order slot id).reg o = s.reg o := by
  unfold State.halt
  split
  · exact s.haltAt_reg q code order hq
  · rw [State.post_reg _ h, s.haltAt_reg q code order hq]

end

theorem State.refresh_reg {o : Nat} (q : Nat) (hq : o ≠ rQ q + 0x20) : (s.refresh q).reg o = s.reg o := by
  unfold State.refresh
  split
  · rfl
  · exact State.reg_setF_other _ (fQ_STATE q) _ hq

/-- Passing an item moves HEAD and changes the state word of its queue. -/
theorem State.passItem_reg {o : Nat} (q : Nat) (g : Bool) (hhead : o ≠ rQ q + 0x10) (hq : o ≠ rQ q + 0x20) :
    (s.passItem q g).reg o = s.reg o := by
  unfold State.passItem
  split
  · rfl
  · rw [State.refresh_reg _ q hq, State.addMod, State.reg_setF_other _ (fQ_HEAD q) _ hhead]
    rfl

theorem State.qx_congr {s t : State} (h : t.queues = s.queues) (q : Nat) : t.qx q = s.qx q := congrArg (·.getD q queueReset) h

theorem State.post_qx (e : EvRec) (q : Nat) : (s.post e).qx q = s.qx q := State.qx_congr (s.post_queues e) q

theorem State.lt_of_item {q : Nat} {d : Decoded} (h : (s.qx q).item = some d) : q < s.queues.length := by
  by_contra hge
  rw [State.qx, List.getD_eq_default _ _ (Nat.le_of_not_lt hge)] at h
  exact absurd h (by simp [queueReset])

theorem State.qx_setQx_same {q : Nat} (x : QueueX) (hq : q < s.queues.length) : (s.setQx q x).qx q = x := by
  simp [State.qx, hq]

theorem State.qx_setQx_other {p q : Nat} (x : QueueX) (h : p ≠ q) : (s.setQx q x).qx p = s.qx p := by
  simp [State.qx, List.getD_eq_getElem?_getD, List.getElem?_set_ne h.symm]

/-- A queue that halts loses its item; the others keep what they hold. -/
theorem State.qx_halt_same {q : Nat} (code order slot id : Nat) (hq : q < s.queues.length) : ((s.halt q code order slot id).qx q).item = none := by
  have hat : ((s.haltAt q code order).qx q).item = none := by simp [State.qx, State.haltAt, hq, haltedQueue]
  unfold State.halt
  split
  · exact hat
  · rw [State.post_qx, hat]

theorem State.qx_halt_other {p q : Nat} (code order slot id : Nat) (h : p ≠ q) : (s.halt q code order slot id).qx p = s.qx p := by
  have hat : (s.haltAt q code order).qx p = s.qx p := by
    simp [State.qx, State.haltAt, List.getD_eq_getElem?_getD, List.getElem?_set_ne h.symm]
  unfold State.halt
  split
  · exact hat
  · rw [State.post_qx, hat]

/-- A queue that halts stands `HALTED` with its code. -/
theorem State.getF_halt {q code order : Nat} (slot id : Nat) (hq : q < 32) (hcode : code < 256) :
    (s.halt q code order slot id).getF (fQ_STATE q) = 4 ∧ (s.halt q code order slot id).getF (fQ_HALT q) = code := by
  have hat : (s.haltAt q code order).getF (fQ_STATE q) = 4 ∧ (s.haltAt q code order).getF (fQ_HALT q) = code := by
    have hregs := State.reg_congr (s.haltAt_regs q code order)
    rw [State.getF_congr (hregs _), State.getF_congr (hregs _)]
    constructor
    · rw [State.getF_setF_other _ _ _ (show 5 + 3 ≤ 64 by decide) (.inr (.inl (show 5 + 3 ≤ 8 by decide))),
        State.getF_setF_same _ _ _ (show 5 + 3 ≤ 64 by decide)]
      rfl
    · rw [State.getF_setF_same _ _ _ (show 8 + 8 ≤ 64 by decide)]
      exact Nat.mod_eq_of_lt hcode
  have hoff : OffEvents (rQ q + 0x20) := by simp only [OffEvents, rQ]; omega
  unfold State.halt
  split
  · exact hat
  · rw [State.post_getF (f := fQ_STATE q) _ _ hoff, State.post_getF (f := fQ_HALT q) _ _ hoff]
    exact hat

/-! Lists of fields. -/

theorem State.reg_setF_congr {s t : State} {f : Fld} {o : Nat} (v : Nat) (hf : t.reg f.off = s.reg f.off) (ho : t.reg o = s.reg o) :
    (t.setF f v).reg o = (s.setF f v).reg o := by
  by_cases he : o = f.off
  · subst he
    rw [State.setF, State.setF, State.reg_setReg_same, State.reg_setReg_same, hf]
  · rw [t.reg_setF_other f v he, s.reg_setF_other f v he, ho]

/-- Sets fields in order. -/
def State.setFields (s : State) (l : List (Fld × Nat)) : State := l.foldl (fun s x => s.setF x.1 x.2) s

theorem State.setFields_frame (l : List (Fld × Nat)) : s.setFields l = { s with regs := (s.setFields l).regs } := by
  unfold State.setFields
  induction l generalizing s with
  | nil => rfl
  | cons x l ih => rw [List.foldl_cons, ih]; rfl

theorem State.setFields_reg_other {o : Nat} (l : List (Fld × Nat)) (h : ∀ x ∈ l, o ≠ x.1.off) : (s.setFields l).reg o = s.reg o := by
  unfold State.setFields
  induction l generalizing s with
  | nil => rfl
  | cons x l ih =>
    rw [List.foldl_cons, ih _ fun y hy => h y (List.mem_cons_of_mem _ hy), State.reg_setF_other _ _ _ (h x List.mem_cons_self)]

theorem State.getF_setFields_other {g : Fld} (hg : g.lsb + g.width ≤ 64) (l : List (Fld × Nat)) (h : ∀ x ∈ l, x.1.apart g) :
    (s.setFields l).getF g = s.getF g := by
  unfold State.setFields
  induction l generalizing s with
  | nil => rfl
  | cons x l ih =>
    rw [List.foldl_cons, ih _ fun y hy => h y (List.mem_cons_of_mem _ hy), State.getF_setF_other _ _ _ hg (h x List.mem_cons_self)]

/-- A field that is set first and lies apart from those set behind it holds what was written to it. -/
theorem State.getF_setFields_head {g : Fld} {v : Nat} {l : List (Fld × Nat)} (hg : g.lsb + g.width ≤ 64) (h : ∀ x ∈ l, x.1.apart g) :
    (s.setFields ((g, v) :: l)).getF g = v % 2 ^ g.width :=
  ((s.setF g v).getF_setFields_other hg l h).trans (s.getF_setF_same g v hg)

/-- Of fields that lie apart, each holds what was written to it. -/
theorem State.getF_setFields {l : List (Fld × Nat)} (hl : l.Pairwise fun x y => y.1.apart x.1) {g : Fld} {v : Nat} (hg : g.lsb + g.width ≤ 64)
    (hm : (g, v) ∈ l) : (s.setFields l).getF g = v % 2 ^ g.width := by
  induction l generalizing s with
  | nil => simp at hm
  | cons x l ih =>
    obtain ⟨hx, hl⟩ := List.pairwise_cons.1 hl
    rcases List.mem_cons.1 hm with rfl | hm
    · exact s.getF_setFields_head hg hx
    · exact ih (s.setF x.1 x.2) hl hm

end Sys2Proof.Machine
end

section
/-! SUPPORT. Deferred checks (R59), a REPACK's instruction and its failure (R45, R55), and its reads: what each can change. -/

namespace Sys2Proof.Machine

variable (s : State)

/-! Deferred checks. -/

/-- The deferred checks of one queue's step. -/
def State.recheckQueue (s : State) (q : Nat) : State :=
  match (s.qx q).item with
  | some d =>
    match d.item with
    | .step p =>
      if d.defer && !s.repackBefore d.order (p.psid :: (s.copyRef p).toList) then
        match s.recheck d p (s.qx q).gated with
        | some i => s.halt q 2 4 i p.stepId
        | none => s.setQx q { s.qx q with item := some { d with defer := false, ref := s.copyRef p, eEst := s.estimate p d.cls } }
      else s
    | _ => s
  | none => s

theorem State.recheckAll_eq_foldl : s.recheckAll = (List.range 32).foldl State.recheckQueue s := rfl

/-- The deferred checks of a queue halt it, renew its item, or change nothing, as when it holds no step with deferred checks. -/
theorem State.recheckQueue_cases (q : Nat) : s.recheckQueue q = s ∨ (∃ d, (s.qx q).item = some d ∧ d.defer = true) ∧
    ((∃ i id, s.recheckQueue q = s.halt q 2 4 i id) ∨ ∃ x, s.recheckQueue q = s.setQx q x) := by
  unfold State.recheckQueue
  split
  case h_2 => exact .inl rfl
  case h_1 d hd =>
    split
    case h_2 => exact .inl rfl
    case h_1 p hp =>
      split
      case isFalse => exact .inl rfl
      case isTrue hdefer =>
        refine .inr ⟨⟨d, hd, (Bool.and_eq_true_iff.1 hdefer).1⟩, ?_⟩
        split
        · exact .inl ⟨_, _, rfl⟩
        · exact .inr ⟨_, rfl⟩

/-- What a halt and a renewed item of any queue below 32 keep, the deferred checks keep. -/
theorem State.recheckAll_keeps {P : State → Prop} (hhalt : ∀ (t : State) (q i id : Nat), q < 32 → (t.qx q).item.isSome → P t → P (t.halt q 2 4 i id))
    (hset : ∀ (t : State) (q : Nat) (x : QueueX), q < 32 → (t.qx q).item.isSome → P t → P (t.setQx q x)) (h : P s) : P s.recheckAll := by
  rw [State.recheckAll_eq_foldl]
  refine List.foldlRecOn _ _ h fun t ht q hq => ?_
  have hq32 : q < 32 := List.mem_range.1 hq
  rcases t.recheckQueue_cases q with he | ⟨⟨d, hd, -⟩, ⟨i, id, he⟩ | ⟨x, he⟩⟩
  · rwa [he]
  · rw [he]; exact hhalt t q i id hq32 (by rw [hd]; rfl) ht
  · rw [he]; exact hset t q x hq32 (by rw [hd]; rfl) ht

/-- `recheckAll` changes nothing but `regs`, `ev`, `mem`, `link`, `out`, `queues`, `repackQ`. -/
theorem State.recheckAll_frame : s.recheckAll = { s with
    regs := s.recheckAll.regs, ev := s.recheckAll.ev, mem := s.recheckAll.mem, link := s.recheckAll.link, out := s.recheckAll.out
    queues := s.recheckAll.queues, repackQ := s.recheckAll.repackQ } := by
  refine s.recheckAll_keeps
    (P := fun t => t = { s with regs := t.regs, ev := t.ev, mem := t.mem, link := t.link, out := t.out, queues := t.queues, repackQ := t.repackQ })
    (fun t q i id _ _ ht => ?_) (fun t q x _ _ ht => ?_) rfl
  · rw [State.halt_frame, ht]
  · rw [ht]; rfl

theorem State.recheckAll_repack : s.recheckAll.repack = s.repack := by rw [State.recheckAll_frame]
theorem State.recheckAll_pad : s.recheckAll.pad = s.pad := by rw [State.recheckAll_frame]
theorem State.recheckAll_fuses : s.recheckAll.fuses = s.fuses := by rw [State.recheckAll_frame]
theorem State.recheckAll_scrub : s.recheckAll.scrub = s.scrub := by rw [State.recheckAll_frame]

/-- The deferred checks change registers of events and the state words of queues. -/
theorem State.recheckAll_reg {o : Nat} (h : OffEvents o) (hq : ∀ q, q < 32 → o ≠ rQ q + 0x20) : s.recheckAll.reg o = s.reg o :=
  s.recheckAll_keeps (P := fun t => t.reg o = s.reg o) (fun t q i id hlt _ ht => (t.halt_reg h q 2 4 i id (hq q hlt)).trans ht)
    (fun _ _ _ _ _ ht => ht) rfl

/-- The deferred checks leave a queue that holds no item. -/
theorem State.recheckAll_reg_of_empty {q : Nat} (hlt : q < 32) (h : (s.qx q).item = none) : s.recheckAll.reg (rQ q + 0x20) = s.reg (rQ q + 0x20) := by
  have hoff : OffEvents (rQ q + 0x20) := by unfold OffEvents rQ; omega
  have hne : ∀ {t : State} {p : Nat}, (t.qx p).item.isSome → (t.qx q).item = none → q ≠ p := by
    rintro t p hp he rfl
    rw [he] at hp
    exact absurd hp (by decide)
  refine (s.recheckAll_keeps (P := fun t => (t.qx q).item = none ∧ t.reg (rQ q + 0x20) = s.reg (rQ q + 0x20))
    (fun t p i id _ hp ht => ?_) (fun t p x _ hp ht => ?_) ⟨h, rfl⟩).2
  · have hqp := hne hp ht.1
    exact ⟨by rw [t.qx_halt_other 2 4 i id hqp, ht.1], (t.halt_reg hoff p 2 4 i id (by unfold rQ; omega)).trans ht.2⟩
  · exact ⟨by rw [t.qx_setQx_other x (hne hp ht.1), ht.1], ht.2⟩

/-- Where no queue holds deferred checks, none is made. -/
theorem State.recheckAll_eq_self (h : ∀ q e, q < 32 → (s.qx q).item = some e → e.defer = false) : s.recheckAll = s := by
  rw [State.recheckAll_eq_foldl]
  refine List.foldlRecOn (motive := fun (t : State) => t = s) _ _ rfl fun t ht q hq => ?_
  subst ht
  rcases t.recheckQueue_cases q with he | ⟨⟨d, hd, hdefer⟩, -⟩
  · exact he
  · rw [h q d (List.mem_range.1 hq) hd] at hdefer
    exact absurd hdefer (by decide)

/-! The instruction of a completed REPACK. -/

/-- `passRepack` changes nothing but `regs`, `queues`. -/
theorem State.passRepack_frame (j : RepackJob) :
    s.passRepack j = { s with regs := (s.passRepack j).regs, queues := (s.passRepack j).queues } := by
  unfold State.passRepack
  split
  · split
    · split
      · rfl
      · exact s.passItem_frame j.queue false
    · rfl
  · rfl

theorem State.passRepack_repack (j : RepackJob) : (s.passRepack j).repack = s.repack := by rw [State.passRepack_frame]
theorem State.passRepack_pad (j : RepackJob) : (s.passRepack j).pad = s.pad := by rw [State.passRepack_frame]
theorem State.passRepack_mem (j : RepackJob) : (s.passRepack j).mem = s.mem := by rw [State.passRepack_frame]
theorem State.passRepack_fuses (j : RepackJob) : (s.passRepack j).fuses = s.fuses := by rw [State.passRepack_frame]
theorem State.passRepack_scrub (j : RepackJob) : (s.passRepack j).scrub = s.scrub := by rw [State.passRepack_frame]

theorem State.passRepack_reg {o : Nat} (j : RepackJob) (hhead : o ≠ rQ j.queue + 0x10) (hq : o ≠ rQ j.queue + 0x20) :
    (s.passRepack j).reg o = s.reg o := by
  unfold State.passRepack
  split
  · split
    · split
      · rfl
      · exact s.passItem_reg j.queue false hhead hq
    · rfl
  · rfl

theorem State.qx_passItem_same_item (q : Nat) (g : Bool) : ((s.passItem q g).qx q).item = none := by
  unfold State.passItem
  split
  case h_1 h => exact h
  case h_2 d hd =>
    rw [State.qx_congr ((State.refresh_queues _ q).trans (State.addMod_queues _ _ _)), State.qx_setQx_same _ _ (s.lt_of_item hd)]

theorem State.qx_passItem_other {p q : Nat} (g : Bool) (h : p ≠ q) : (s.passItem q g).qx p = s.qx p := by
  unfold State.passItem
  split
  · rfl
  · rw [State.qx_congr ((State.refresh_queues _ q).trans (State.addMod_queues _ _ _)), State.qx_setQx_other _ _ h]

/-- The instruction of a completed REPACK leaves no item with deferred checks where there was none. -/
theorem State.passRepack_defer {j : RepackJob} {q : Nat} (h : ∀ e, (s.qx q).item = some e → e.defer = false) :
    ∀ e, ((s.passRepack j).qx q).item = some e → e.defer = false := by
  intro e he
  unfold State.passRepack at he
  split at he
  case h_2 => exact h e he
  case h_1 d hd =>
    split at he
    case isFalse => exact h e he
    case isTrue =>
      by_cases hq : q = j.queue
      · subst hq
        split at he
        · rw [State.qx_setQx_same _ _ (s.lt_of_item hd)] at he
          obtain rfl : { d with waited := true } = e := by simpa using he
          exact h d hd
        · rw [State.qx_passItem_same_item] at he
          exact absurd he (by simp)
      · split at he
        · rw [State.qx_setQx_other _ _ hq] at he
          exact h e he
        · rw [State.qx_passItem_other _ _ hq] at he
          exact h e he

/-! The failure of a REPACK. -/

/-- The event of a REPACK that was refused or stopped. -/
def State.repackFailEvent (s : State) (j : RepackJob) (e : RepackEnd) : EvRec :=
  { s.event 5 1 2 [(36, leBytes 1 e.status), (37, leBytes 1 j.psid), (40, leBytes 4 e.failTok), (44, leBytes 2 e.failIdx)] with queue := j.queue }

/-- The halt of the queue whose REPACK failed, unless it has halted before. -/
def State.haltRepack (s : State) (j : RepackJob) : State :=
  match (s.qx j.queue).item with
  | some d => if d.order == j.order && !s.halted j.queue then s.halt j.queue 7 0 0 0xFFFFFFFF else s
  | none => s

theorem State.repackFailed_eq (j : RepackJob) (e : RepackEnd) : s.repackFailed j e = ((s.post (s.repackFailEvent j e)).haltRepack j).recheckAll := rfl

theorem State.haltRepack_frame (j : RepackJob) : s.haltRepack j = { s with
    regs := (s.haltRepack j).regs, ev := (s.haltRepack j).ev, mem := (s.haltRepack j).mem, link := (s.haltRepack j).link
    out := (s.haltRepack j).out, queues := (s.haltRepack j).queues, repackQ := (s.haltRepack j).repackQ } := by
  unfold State.haltRepack
  split
  · split
    · exact s.halt_frame j.queue 7 0 0 0xFFFFFFFF
    · rfl
  · rfl

/-- The failure of a REPACK changes nothing but `regs`, `ev`, `mem`, `link`, `out`, `queues`, `repackQ`. -/
theorem State.repackFailed_frame (j : RepackJob) (e : RepackEnd) : s.repackFailed j e = { s with
    regs := (s.repackFailed j e).regs, ev := (s.repackFailed j e).ev, mem := (s.repackFailed j e).mem, link := (s.repackFailed j e).link
    out := (s.repackFailed j e).out, queues := (s.repackFailed j e).queues, repackQ := (s.repackFailed j e).repackQ } := by
  rw [State.repackFailed_eq, State.recheckAll_frame, State.haltRepack_frame, State.post_frame]

theorem State.repackFailed_repack (j : RepackJob) (e : RepackEnd) : (s.repackFailed j e).repack = s.repack := by rw [State.repackFailed_frame]
theorem State.repackFailed_pad (j : RepackJob) (e : RepackEnd) : (s.repackFailed j e).pad = s.pad := by rw [State.repackFailed_frame]
theorem State.repackFailed_flights (j : RepackJob) (e : RepackEnd) : (s.repackFailed j e).flights = s.flights := by rw [State.repackFailed_frame]
theorem State.repackFailed_fuses (j : RepackJob) (e : RepackEnd) : (s.repackFailed j e).fuses = s.fuses := by rw [State.repackFailed_frame]

theorem State.repackFailed_reg {o : Nat} (j : RepackJob) (e : RepackEnd) (h : OffEvents o) (hq : ∀ q, o ≠ rQ q + 0x20) :
    (s.repackFailed j e).reg o = s.reg o := by
  have hhalt : ∀ t : State, (t.haltRepack j).reg o = t.reg o := by
    intro t
    unfold State.haltRepack
    split
    · split
      · exact t.halt_reg h j.queue 7 0 0 0xFFFFFFFF (hq j.queue)
      · rfl
    · rfl
  rw [State.repackFailed_eq, State.recheckAll_reg _ h fun q _ => hq q, hhalt, State.post_reg _ h]

/-- The queue that holds the instruction of a failed REPACK stands `HALTED` with the code of R45. -/
theorem State.repackFailed_halts {j : RepackJob} (e : RepackEnd) {d : Decoded} (hlen : s.queues.length = 32) (hq : j.queue < 32)
    (hrun : s.halted j.queue = false) (hd : (s.qx j.queue).item = some d) (hord : d.order = j.order) :
    (s.repackFailed j e).halted j.queue = true ∧ (s.repackFailed j e).getF (fQ_HALT j.queue) = 7 := by
  have hoff : OffEvents (rQ j.queue + 0x20) := by unfold OffEvents rQ; omega
  generalize hp : s.post (s.repackFailEvent j e) = p
  have hpq : p.queues.length = 32 := by rw [← hp, State.post_queues, hlen]
  have hpd : (p.qx j.queue).item = some d := by rw [← hp, State.post_qx, hd]
  have hprun : p.halted j.queue = false := by
    rw [← hp, State.halted, State.post_getF (f := fQ_STATE j.queue) _ _ hoff]
    exact hrun
  have hhalt : p.haltRepack j = p.halt j.queue 7 0 0 0xFFFFFFFF := by
    unfold State.haltRepack
    rw [hpd]
    simp [hord, hprun]
  have hword : (s.repackFailed j e).reg (rQ j.queue + 0x20) = (p.halt j.queue 7 0 0 0xFFFFFFFF).reg (rQ j.queue + 0x20) := by
    rw [State.repackFailed_eq, hp, hhalt, State.recheckAll_reg_of_empty _ hq (p.qx_halt_same 7 0 0 0xFFFFFFFF (by omega))]
  obtain ⟨hstate, hcode⟩ := p.getF_halt (order := 0) 0 0xFFFFFFFF hq (show 7 < 256 by decide)
  rw [State.halted, State.getF_congr (f := fQ_STATE j.queue) hword, hstate, State.getF_congr (f := fQ_HALT j.queue) hword, hcode]
  exact ⟨rfl, rfl⟩

/-! The reads of a REPACK. -/

/-- The reads of one master row. -/
def State.readMaster (j : RepackJob) (d : RepackDesc) (s : State) (k : Nat) : State :=
  let id := d.vLo + k
  let s := (s.readHost 4 2 (d.wAddr id) d.rowSize (0xFFFFFFFF, j.queue)).1
  if d.mfmt = 3 then (s.readHost 4 2 (d.eAddr id) (128 * d.hd) (0xFFFFFFFF, j.queue)).1 else s

theorem State.readMasters_eq_foldl (j : RepackJob) (d : RepackDesc) :
    s.readMasters j d = (List.range (d.vHi - d.vLo)).foldl (State.readMaster j d) s := rfl

theorem State.readMaster_frame (j : RepackJob) (d : RepackDesc) (k : Nat) : s.readMaster j d k = { s with
    regs := (s.readMaster j d k).regs, ev := (s.readMaster j d k).ev, link := (s.readMaster j d k).link, out := (s.readMaster j d k).out } := by
  unfold State.readMaster
  dsimp only
  split
  · rw [State.readHost_frame, State.readHost_frame]
  · rw [State.readHost_frame]

/-- The reads of the master rows change nothing but `regs`, `ev`, `link`, `out`. -/
theorem State.readMasters_frame (j : RepackJob) (d : RepackDesc) : s.readMasters j d = { s with
    regs := (s.readMasters j d).regs, ev := (s.readMasters j d).ev, link := (s.readMasters j d).link, out := (s.readMasters j d).out } := by
  rw [State.readMasters_eq_foldl]
  refine List.foldlRecOn (motive := fun (t : State) => t = { s with regs := t.regs, ev := t.ev, link := t.link, out := t.out }) _ _ rfl fun t ht k _ => ?_
  rw [State.readMaster_frame, ht]

theorem State.readMasters_reg {o : Nat} (h : OffEvents o) (j : RepackJob) (d : RepackDesc) : (s.readMasters j d).reg o = s.reg o := by
  rw [State.readMasters_eq_foldl]
  refine List.foldlRecOn (motive := fun (t : State) => t.reg o = s.reg o) _ _ rfl fun t ht k _ => ?_
  unfold State.readMaster
  dsimp only
  split
  · rw [State.readHost_reg _ h, State.readHost_reg _ h, ht]
  · rw [State.readHost_reg _ h, ht]

end Sys2Proof.Machine
end

section
/-! SUPPORT. The records of a build (R17, R19 to R21, R46): sealed, with the epoch and the set of the build, one tile for each chunk of each slab and two row records for each token. -/

namespace Sys2Proof.Machine

/-! Header fields of a sealed record. -/

/-- A field of a record is the number of its bytes. -/
theorem leAt_toArray {l : List Byte} {off n : Nat} (h : off + n ≤ l.length) : leAt l.toArray off n = leNat ((l.drop off).take n) := by
  have hbytes : ((List.range n).map fun i => l.toArray.getD (off + i) 0) = (l.drop off).take n := by
    refine List.ext_getElem (by simp; omega) fun i hi _ => ?_
    have hlt : off + i < l.length := by simp at hi; omega
    simp [hlt]
  rw [leAt, hbytes]

theorem byteAt_eq_leAt (a : Array Byte) (off : Nat) : byteAt a off = leAt a off 1 := by simp [byteAt, leAt, leNat]

/-- The seal leaves the fields below it. -/
theorem leAt_sealRecord {rec : List Byte} (h : 64 ≤ rec.length) {off n : Nat} (hn : off + n ≤ 60) :
    leAt (sealRecord rec).toArray off n = leAt rec.toArray off n := by
  have htake : ((sealRecord rec).drop off).take n = (rec.drop off).take n := by
    rw [List.take_drop, List.take_drop, sealRecord, take_putBytes _ _ hn (by omega)]
  rw [leAt_toArray (by rw [length_sealRecord h]; omega), leAt_toArray (by omega), htake]

/-- A field behind known bytes reads as its own bytes spell. -/
theorem leAt_append {p q r l : List Byte} (h : l = p ++ q ++ r) : leAt l.toArray p.length q.length = leNat q := by
  rw [leAt_toArray (by rw [h]; simp), h, List.append_assoc, List.drop_left, List.take_left]

@[simp] theorem length_padTo (n : Nat) (l : List Byte) : (padTo n l).length = max n l.length := by
  simp only [padTo, List.length_append, List.length_replicate]
  omega

/-- The bytes of a header below its epoch, and those behind its set. -/
def headFront (kind chunk base : Nat) : List Byte := leBytes 1 kind ++ [4] ++ leBytes 2 chunk ++ leBytes 4 base
def headBack (b : BuildInfo) (flags tms ntok devx : Nat) (off : List Nat) : List Byte :=
  leBytes 1 flags ++ leBytes 2 b.hd ++ leBytes 1 tms ++ leBytes 1 ntok ++ leBytes 1 devx ++ [0] ++ padTo 32 (packNibbles off) ++ List.replicate 12 0

theorem recHeader_eq (b : BuildInfo) (kind chunk base flags tms ntok devx : Nat) (off : List Nat) :
    recHeader b kind chunk base flags tms ntok devx off =
      headFront kind chunk base ++ leBytes 4 b.epoch ++ leBytes 1 b.psid ++ headBack b flags tms ntok devx off := by
  simp only [recHeader, headFront, headBack, List.append_assoc]

@[simp] theorem headFront_length (kind chunk base : Nat) : (headFront kind chunk base).length = 8 := by simp [headFront]

theorem recHeader_length (b : BuildInfo) (kind chunk base flags tms ntok devx : Nat) (off : List Nat) :
    64 ≤ (recHeader b kind chunk base flags tms ntok devx off).length := by
  simp only [recHeader, List.length_append, leBytes_length, length_padTo, List.length_replicate, List.length_cons, List.length_nil]
  omega

/-- What a plane record shows of its build: a seal that holds, the build's epoch and its set. -/
def SealedFor (epoch psid : Nat) (bs : List Byte) : Prop :=
  64 ≤ bs.length ∧ sealOk bs = true ∧ recEpoch bs.toArray = epoch ∧ recPsid bs.toArray = psid

/-- A record that begins with a header of a build and is sealed. -/
theorem sealedFor_of_header (b : BuildInfo) (kind chunk base flags tms ntok devx : Nat) (off : List Nat) (n : Nat) (body : List Byte)
    (he : b.epoch < 2 ^ 32) (hp : b.psid < 16) :
    SealedFor b.epoch b.psid (sealRecord (padTo n (recHeader b kind chunk base flags tms ntok devx off ++ body))) := by
  have hhead := recHeader_length b kind chunk base flags tms ntok devx off
  generalize hrec : padTo n (recHeader b kind chunk base flags tms ntok devx off ++ body) = rec
  have hlen : 64 ≤ rec.length := by
    rw [← hrec, length_padTo, List.length_append]
    omega
  obtain ⟨tail, htail⟩ : ∃ tail, rec = headFront kind chunk base ++ leBytes 4 b.epoch ++ leBytes 1 b.psid ++ tail :=
    ⟨_, by rw [← hrec, recHeader_eq, padTo, List.append_assoc, List.append_assoc _ (headBack _ _ _ _ _ _)]⟩
  have hepoch : leAt rec.toArray 8 4 = b.epoch := by
    have h := leAt_append (p := headFront kind chunk base) (q := leBytes 4 b.epoch) (r := leBytes 1 b.psid ++ tail)
      (htail.trans (by simp only [List.append_assoc]))
    rw [headFront_length, leBytes_length, leNat_leBytes] at h
    rw [h]
    exact Nat.mod_eq_of_lt he
  have hpsid : leAt rec.toArray 12 1 = b.psid := by
    have h := leAt_append (p := headFront kind chunk base ++ leBytes 4 b.epoch) (q := leBytes 1 b.psid) (r := tail) htail
    rw [List.length_append, headFront_length, leBytes_length, leBytes_length, leNat_leBytes] at h
    rw [h]
    omega
  refine ⟨by rw [length_sealRecord hlen]; exact hlen, sealOk_sealRecord hlen, ?_, ?_⟩
  · rw [recEpoch, leAt_sealRecord hlen (by decide), hepoch]
  · rw [recPsid, byteAt_eq_leAt, leAt_sealRecord hlen (by decide), hpsid, Nat.mod_eq_of_lt hp]

section
variable (b : BuildInfo) (he : b.epoch < 2 ^ 32) (hp : b.psid < 16)
include he hp

theorem sealedFor_buildTile (slab : List (List GroupRec)) (tokenBase c : Nat) : SealedFor b.epoch b.psid (buildTile b slab tokenBase c) := by
  unfold buildTile
  dsimp only
  rw [List.append_assoc, List.append_assoc]
  exact sealedFor_of_header b _ _ _ _ _ _ _ _ _ _ he hp

theorem sealedFor_buildP1 (t : List GroupRec) (id tms : Nat) : SealedFor b.epoch b.psid (buildP1 b t id tms) := by
  unfold buildP1
  dsimp only
  rw [List.append_assoc, List.append_assoc]
  exact sealedFor_of_header b _ _ _ _ _ _ _ _ _ _ he hp

theorem sealedFor_buildP2 (t : List GroupRec) (id tms : Nat) : SealedFor b.epoch b.psid (buildP2 b t id tms) := by
  unfold buildP2
  dsimp only
  rw [List.append_assoc]
  exact sealedFor_of_header b _ _ _ _ _ _ _ _ _ _ he hp

end

/-! The records of a slab. -/

/-- The tokens of a slab. -/
def RepackDesc.slabIds (d : RepackDesc) (sl : Nat) : List Nat :=
  (List.range (Nat.min 64 (d.vHi - (d.vLo + 64 * sl)))).map (d.vLo + 64 * sl + ·)

/-- What the headers of a build share. -/
def RepackRun.info (r : RepackRun) (epoch : Nat) : BuildInfo :=
  { lean := r.desc.lean, epoch := epoch, psid := r.job.psid, hd := r.desc.hd, dithered := r.dither }

/-- The records of a slab whose tokens have the groups `toks`: its tiles, and the row records of each token. -/
def RepackRun.slabRecs (r : RepackRun) (epoch sl : Nat) (toks : List (List GroupRec)) : List BuiltRec :=
  ((List.range r.desc.hd).map fun c => ⟨0, sl, c, buildTile (r.info epoch) toks (r.desc.vLo + 64 * sl) c⟩) ++
  (List.zip (r.desc.slabIds sl) toks).flatMap fun q =>
    [⟨1, sl, q.1, buildP1 (r.info epoch) q.2 q.1 (storedTms (slabBase toks) q.2)⟩,
     ⟨2, sl, q.1, buildP2 (r.info epoch) q.2 q.1 (storedTms (slabBase toks) q.2)⟩]

theorem length_foldl_append {α β γ : Type} (f : α → β → γ × α) (l : List β) (x : List γ × α) :
    (l.foldl (fun (x : List γ × α) id => (x.1 ++ [(f x.2 id).1], (f x.2 id).2)) x).1.length = x.1.length + l.length := by
  induction l generalizing x with
  | nil => rfl
  | cons a l ih => rw [List.foldl_cons, ih, List.length_append, List.length_cons, List.length_cons, List.length_nil]; omega

/-- A slab comes to the records of as many tokens as it has. -/
theorem State.buildSlab_recs (s : State) (r : RepackRun) (fr epoch sl : Nat) (l : List (Nat × Lane)) :
    ∃ toks, toks.length = (r.desc.slabIds sl).length ∧ (s.buildSlab r fr epoch sl l).1.recs = r.slabRecs epoch sl toks :=
  ⟨_, (length_foldl_append (fun l id => s.buildToken r fr id l) (r.desc.slabIds sl) ([], l)).trans (Nat.zero_add _), rfl⟩

variable {r : RepackRun} {epoch sl : Nat} {toks : List (List GroupRec)}

theorem RepackRun.slabRecs_sound (he : epoch < 2 ^ 32) (hp : r.job.psid < 16) {x : BuiltRec} (hx : x ∈ r.slabRecs epoch sl toks) :
    x.plane ≤ 2 ∧ SealedFor epoch r.job.psid x.bytes := by
  rcases List.mem_append.1 hx with hx | hx
  · obtain ⟨c, -, rfl⟩ := List.mem_map.1 hx
    exact ⟨Nat.zero_le _, sealedFor_buildTile (r.info epoch) he hp _ _ _⟩
  · obtain ⟨q, -, hx⟩ := List.mem_flatMap.1 hx
    rcases List.mem_pair.1 hx with rfl | rfl
    · exact ⟨Nat.le_succ 1, sealedFor_buildP1 (r.info epoch) he hp _ _ _⟩
    · exact ⟨le_rfl, sealedFor_buildP2 (r.info epoch) he hp _ _ _⟩

theorem RepackRun.exists_tile {c : Nat} (hc : c < r.desc.hd) : ∃ x ∈ r.slabRecs epoch sl toks, x.plane = 0 ∧ x.slab = sl ∧ x.sub = c :=
  ⟨_, List.mem_append_left _ (List.mem_map.2 ⟨c, List.mem_range.2 hc, rfl⟩), rfl, rfl, rfl⟩

theorem RepackRun.exists_row (hlen : toks.length = (r.desc.slabIds sl).length) {id p : Nat} (hid : id ∈ r.desc.slabIds sl) (hp : p = 1 ∨ p = 2) :
    ∃ x ∈ r.slabRecs epoch sl toks, x.plane = p ∧ x.slab = sl ∧ x.sub = id := by
  obtain ⟨q, hq, rfl⟩ : ∃ q ∈ List.zip (r.desc.slabIds sl) toks, q.1 = id := by
    rw [← List.map_fst_zip (l₂ := toks) hlen.ge] at hid
    obtain ⟨q, hq, he⟩ := List.mem_map.1 hid
    exact ⟨q, hq, he⟩
  rcases hp with rfl | rfl
  · exact ⟨_, List.mem_append_right _ (List.mem_flatMap.2 ⟨q, hq, List.mem_cons_self⟩), rfl, rfl, rfl⟩
  · exact ⟨_, List.mem_append_right _ (List.mem_flatMap.2 ⟨q, hq, List.mem_cons_of_mem _ List.mem_cons_self⟩), rfl, rfl, rfl⟩

/-- A token of the window lies in the slab of its distance from the window's start. -/
theorem RepackDesc.mem_slabIds {d : RepackDesc} {id : Nat} (hlo : d.vLo ≤ id) (hhi : id < d.vHi) : id ∈ d.slabIds ((id - d.vLo) / 64) := by
  refine List.mem_map.2 ⟨(id - d.vLo) % 64, List.mem_range.2 ?_, by omega⟩
  rw [Nat.min_eq_min]
  omega

theorem RepackDesc.slab_lt {d : RepackDesc} {id : Nat} (hlo : d.vLo ≤ id) (hhi : id < d.vHi) : (id - d.vLo) / 64 < d.slabs := by
  unfold RepackDesc.slabs ceilDiv
  omega

/-! The records of a build. -/

/-- The records of slabs that are built one after another. -/
def State.builtRecs (s : State) (r : RepackRun) (fr epoch : Nat) (sls : List Nat) (l : List (Nat × Lane)) : List BuiltRec :=
  (s.buildSlabs r fr epoch sls l).1.flatMap (·.recs)

theorem State.builtRecs_cons (s : State) (r : RepackRun) (fr epoch sl : Nat) (sls : List Nat) (l : List (Nat × Lane)) :
    ∃ toks l', toks.length = (r.desc.slabIds sl).length ∧
      s.builtRecs r fr epoch (sl :: sls) l = r.slabRecs epoch sl toks ++ s.builtRecs r fr epoch sls l' := by
  obtain ⟨toks, hlen, hrecs⟩ := s.buildSlab_recs r fr epoch sl l
  refine ⟨toks, (s.buildSlab r fr epoch sl l).2, hlen, ?_⟩
  rw [← hrecs]
  rfl

theorem State.mem_builtRecs {s : State} {r : RepackRun} {fr epoch : Nat} {sls : List Nat} {l : List (Nat × Lane)} {x : BuiltRec}
    (hx : x ∈ s.builtRecs r fr epoch sls l) : ∃ sl toks, x ∈ r.slabRecs epoch sl toks := by
  induction sls generalizing l with
  | nil => exact absurd hx (List.not_mem_nil)
  | cons sl sls ih =>
    obtain ⟨toks, l', -, he⟩ := s.builtRecs_cons r fr epoch sl sls l
    rw [he] at hx
    rcases List.mem_append.1 hx with hx | hx
    · exact ⟨sl, toks, hx⟩
    · exact ih hx

/-- Every slab of a build has its records in it. -/
theorem State.slabRecs_subset (s : State) (r : RepackRun) (fr epoch : Nat) {sls : List Nat} (l : List (Nat × Lane)) {sl : Nat} (hsl : sl ∈ sls) :
    ∃ toks, toks.length = (r.desc.slabIds sl).length ∧ r.slabRecs epoch sl toks ⊆ s.builtRecs r fr epoch sls l := by
  induction sls generalizing l with
  | nil => exact absurd hsl (List.not_mem_nil)
  | cons a sls ih =>
    obtain ⟨toks, l', hlen, he⟩ := s.builtRecs_cons r fr epoch a sls l
    rw [he]
    rcases List.mem_cons.1 hsl with rfl | hsl
    · exact ⟨toks, hlen, List.subset_append_left _ _⟩
    · obtain ⟨toks', hlen', hsub⟩ := ih l' hsl
      exact ⟨toks', hlen', List.Subset.trans hsub (List.subset_append_right _ _)⟩

end Sys2Proof.Machine
end

section
/-! SUPPORT. The writes of a build (R46, R47): where each record goes, and what stands in Paddock and in host memory after all of them. -/

namespace Sys2Proof.Machine

theorem State.padAt_congr {s t : State} (h : t.pad = s.pad) (cl b n : Nat) : t.padAt cl b n = s.padAt cl b n :=
  congrArg (Store.readRange padDefault · (padKey cl b) n) h

theorem State.memAt_congr {s t : State} (h : t.mem = s.mem) (a n : Nat) : t.memAt a n = s.memAt a n :=
  congrArg (Store.readRange memDefault · a n) h

/-! One record. -/

/-- A record has a place in Paddock. -/
def InPad (r : RepackRun) (epoch : Nat) (x : BuiltRec) (c b : Nat) : Prop :=
  r.desc.placedIn x.plane = true ∧ x.loc (r.view epoch true) = .pad c b
/-- A record has a place in host memory. -/
def InHost (r : RepackRun) (epoch : Nat) (x : BuiltRec) (a : Nat) : Prop :=
  r.desc.hostPlane x.plane = true ∧ x.loc (r.view epoch false) = .host a

theorem InPad.unique {r : RepackRun} {epoch : Nat} {x : BuiltRec} {c b c' b' : Nat} (h : InPad r epoch x c b) (h' : InPad r epoch x c' b') :
    c' = c ∧ b' = b := by
  have := h.2.symm.trans h'.2
  simp only [Loc.pad.injEq] at this
  exact ⟨this.1.symm, this.2.symm⟩

/-- A record is written to each place it has. -/
def State.writeBuilt (r : RepackRun) (epoch : Nat) (s : State) (x : BuiltRec) : State := s.writeRecord r x.plane x.loc epoch x.bytes

section
variable {r : RepackRun} {epoch : Nat} {x : BuiltRec} (h : x.plane ≤ 2)
include h

theorem BuiltRec.loc_placed (hp : r.desc.placedIn x.plane = true) : ∃ c b, x.loc (r.view epoch true) = .pad c b := by
  obtain ⟨p, sl, sub, bs⟩ := x
  dsimp only at h hp
  interval_cases p <;> simp [BuiltRec.loc, PlaneView.tileLoc, PlaneView.p1Loc, PlaneView.p2Loc, RepackRun.view, hp]

theorem BuiltRec.loc_host : ∃ a, x.loc (r.view epoch false) = .host a := by
  obtain ⟨p, sl, sub, bs⟩ := x
  dsimp only at h
  interval_cases p <;> simp [BuiltRec.loc, PlaneView.tileLoc, PlaneView.p1Loc, PlaneView.p2Loc, RepackRun.view]

end

theorem State.writeLoc_regs (s : State) (l : Loc) (bs : List Byte) : (s.writeLoc l bs).regs = s.regs := by
  cases l with
  | pad c b => rfl
  | host a => unfold State.writeLoc; dsimp only; split <;> rfl

theorem State.writeLoc_host_pad (s : State) (a : Nat) (bs : List Byte) : (s.writeLoc (.host a) bs).pad = s.pad := by
  unfold State.writeLoc; dsimp only; split <;> rfl

/-- `writeLoc` changes nothing but `mem`, `pad`, `padDirty`, `bad`. -/
theorem State.writeLoc_frame (s : State) (l : Loc) (bs : List Byte) : s.writeLoc l bs =
    { s with mem := (s.writeLoc l bs).mem, pad := (s.writeLoc l bs).pad, padDirty := (s.writeLoc l bs).padDirty, bad := (s.writeLoc l bs).bad } := by
  cases l with
  | pad c b => rfl
  | host a => unfold State.writeLoc; dsimp only; split <;> rfl

/-- `writeBuilt` changes nothing but `mem`, `pad`, `padDirty`, `bad`. -/
theorem State.writeBuilt_frame (r : RepackRun) (epoch : Nat) (s : State) (x : BuiltRec) : s.writeBuilt r epoch x =
    { s with mem := (s.writeBuilt r epoch x).mem, pad := (s.writeBuilt r epoch x).pad, padDirty := (s.writeBuilt r epoch x).padDirty
             bad := (s.writeBuilt r epoch x).bad } := by
  unfold State.writeBuilt State.writeRecord
  dsimp only
  split
  · split
    · rw [State.writeLoc_frame, State.writeLoc_frame]
    · rw [State.writeLoc_frame]
  · split
    · rw [State.writeLoc_frame]
    · rfl

section
variable (s : State) {r : RepackRun} {epoch : Nat} {x : BuiltRec} (h : x.plane ≤ 2)
include h

/-- What a record's write leaves of Paddock: its bytes at its place there, if it has one. -/
theorem State.writeBuilt_pad : (∃ c b, InPad r epoch x c b ∧ (s.writeBuilt r epoch x).pad = Store.writeRange padDefault s.pad (padKey c b) x.bytes) ∨
    (∀ c b, ¬ InPad r epoch x c b) ∧ (s.writeBuilt r epoch x).pad = s.pad := by
  obtain ⟨a, ha⟩ := BuiltRec.loc_host (r := r) (epoch := epoch) h
  have hhost : ∀ t : State, (if r.desc.hostPlane x.plane then t.writeLoc (.host a) x.bytes else t).pad = t.pad := by
    intro t
    split
    · exact t.writeLoc_host_pad a x.bytes
    · rfl
  unfold State.writeBuilt State.writeRecord
  dsimp only
  rw [ha, hhost]
  by_cases hp : r.desc.placedIn x.plane = true
  · obtain ⟨c, b, hc⟩ := BuiltRec.loc_placed (epoch := epoch) h hp
    refine .inl ⟨c, b, ⟨hp, hc⟩, ?_⟩
    rw [if_pos hp, hc]
    rfl
  · exact .inr ⟨fun c b hin => hp hin.1, by rw [if_neg hp]⟩

/-- What a record's write leaves of host memory: its bytes at its place there, if it has one and the port of its address runs. -/
theorem State.writeBuilt_mem : (∃ a, InHost r epoch x a ∧
      (s.writeBuilt r epoch x).mem = if s.portUp (s.portOf a) then Store.writeRange memDefault s.mem a x.bytes else s.mem) ∨
    (∀ a, ¬ InHost r epoch x a) ∧ (s.writeBuilt r epoch x).mem = s.mem := by
  obtain ⟨a, ha⟩ := BuiltRec.loc_host (r := r) (epoch := epoch) h
  generalize ht : (if r.desc.placedIn x.plane then s.writeLoc (x.loc (r.view epoch true)) x.bytes else s) = t
  have htmem : t.mem = s.mem := by
    rw [← ht]
    split
    case isTrue hp =>
      obtain ⟨c, b, hc⟩ := BuiltRec.loc_placed (epoch := epoch) h hp
      rw [hc]
      rfl
    case isFalse => rfl
  have hports : SamePorts s t := by
    refine .of_regs ?_
    rw [← ht]
    split
    · exact s.writeLoc_regs _ _
    · rfl
  have he : s.writeBuilt r epoch x = if r.desc.hostPlane x.plane then t.writeLoc (.host a) x.bytes else t := by
    rw [← ht, ← ha]
    rfl
  rw [he]
  by_cases hp : r.desc.hostPlane x.plane = true
  · refine .inl ⟨a, ⟨hp, ha⟩, ?_⟩
    rw [if_pos hp, State.writeLoc, ← hports.portOf, ← hports.portUp]
    split
    · rw [State.putMem_mem, htmem]
    · exact htmem
  · exact .inr ⟨fun a hin => hp hin.1, by rw [if_neg hp, htmem]⟩

theorem State.padAt_writeBuilt_self {c b : Nat} (hin : InPad r epoch x c b) : (s.writeBuilt r epoch x).padAt c b x.bytes.length = x.bytes := by
  rcases s.writeBuilt_pad (r := r) (epoch := epoch) h with ⟨c', b', hin', hpad⟩ | ⟨hno, -⟩
  · obtain ⟨rfl, rfl⟩ := hin.unique hin'
    rw [State.padAt, hpad]
    exact Store.readRange_writeRange_same _ _ _ _
  · exact absurd hin (hno c b)

theorem State.padAt_writeBuilt_apart {c b n : Nat} (hap : ∀ c' b', InPad r epoch x c' b' → Apart (padKey c b) n (padKey c' b') x.bytes.length) :
    (s.writeBuilt r epoch x).padAt c b n = s.padAt c b n := by
  rcases s.writeBuilt_pad (r := r) (epoch := epoch) h with ⟨c', b', hin', hpad⟩ | ⟨-, hpad⟩
  · rw [State.padAt, hpad]
    exact Store.readRange_writeRange_apart _ _ (hap c' b' hin')
  · exact State.padAt_congr hpad c b n

theorem State.memAt_writeBuilt_self {a : Nat} (hin : InHost r epoch x a) (hup : s.portUp (s.portOf a) = true) :
    (s.writeBuilt r epoch x).memAt a x.bytes.length = x.bytes := by
  rcases s.writeBuilt_mem (r := r) (epoch := epoch) h with ⟨a', hin', hmem⟩ | ⟨hno, -⟩
  · obtain rfl : a = a' := by simpa using hin.2.symm.trans hin'.2
    rw [State.memAt, hmem, if_pos hup]
    exact Store.readRange_writeRange_same _ _ _ _
  · exact absurd hin (hno a)

theorem State.memAt_writeBuilt_apart {a n : Nat} (hap : ∀ a', InHost r epoch x a' → Apart a n a' x.bytes.length) :
    (s.writeBuilt r epoch x).memAt a n = s.memAt a n := by
  rcases s.writeBuilt_mem (r := r) (epoch := epoch) h with ⟨a', hin', hmem⟩ | ⟨-, hmem⟩
  · rw [State.memAt, hmem]
    split
    · exact Store.readRange_writeRange_apart _ _ (hap a' hin')
    · rfl
  · exact State.memAt_congr hmem a n

theorem State.read_writeBuilt_out {k : Nat} (hout : ∀ a, InHost r epoch x a → k < a ∨ a + x.bytes.length ≤ k) :
    Store.read memDefault (s.writeBuilt r epoch x).mem k = Store.read memDefault s.mem k := by
  rcases s.writeBuilt_mem (r := r) (epoch := epoch) h with ⟨a', hin', hmem⟩ | ⟨-, hmem⟩
  · rw [hmem]
    split
    · exact Store.read_writeRange_out _ _ (hout a' hin')
    · rfl
  · rw [hmem]

end

/-! All of them. -/

/-- The records of a build are written in order. -/
def State.writeAll (s : State) (r : RepackRun) (epoch : Nat) (l : List BuiltRec) : State := l.foldl (State.writeBuilt r epoch) s

/-- `writeAll` changes nothing but `mem`, `pad`, `padDirty`, `bad`. -/
theorem State.writeAll_frame (s : State) (r : RepackRun) (epoch : Nat) (l : List BuiltRec) : s.writeAll r epoch l =
    { s with mem := (s.writeAll r epoch l).mem, pad := (s.writeAll r epoch l).pad, padDirty := (s.writeAll r epoch l).padDirty
             bad := (s.writeAll r epoch l).bad } := by
  refine List.foldlRecOn (motive := fun (t : State) => t = { s with mem := t.mem, pad := t.pad, padDirty := t.padDirty, bad := t.bad }) _ _ rfl
    fun t ht x _ => ?_
  rw [State.writeBuilt_frame, ht]

theorem State.writeAll_ports (s : State) (r : RepackRun) (epoch : Nat) (l : List BuiltRec) : SamePorts s (s.writeAll r epoch l) :=
  .of_regs (by rw [State.writeAll_frame])

section
variable (s : State) {r : RepackRun} {epoch : Nat} {l : List BuiltRec} (hl : ∀ x ∈ l, x.plane ≤ 2)
include hl

/-- A record stands in Paddock unless a later one is written over it. -/
theorem State.padAt_writeAll {l₁ rest : List BuiltRec} {x : BuiltRec} (he : l = l₁ ++ x :: rest) {c b : Nat} (hin : InPad r epoch x c b)
    (hap : ∀ y ∈ rest, ∀ c' b', InPad r epoch y c' b' → Apart (padKey c b) x.bytes.length (padKey c' b') y.bytes.length) :
    (s.writeAll r epoch l).padAt c b x.bytes.length = x.bytes := by
  subst he
  rw [State.writeAll, List.foldl_append, List.foldl_cons]
  refine List.foldlRecOn (motive := fun (t : State) => t.padAt c b x.bytes.length = x.bytes) _ _
    (State.padAt_writeBuilt_self _ (hl x (by simp)) hin) fun t ht y hy => ?_
  rw [State.padAt_writeBuilt_apart _ (hl y (by simp [hy])) (hap y hy), ht]

/-- A record stands in host memory unless a later one is written over it, where its port runs. -/
theorem State.memAt_writeAll {l₁ rest : List BuiltRec} {x : BuiltRec} (he : l = l₁ ++ x :: rest) {a : Nat} (hin : InHost r epoch x a)
    (hup : s.portUp (s.portOf a) = true) (hap : ∀ y ∈ rest, ∀ a', InHost r epoch y a' → Apart a x.bytes.length a' y.bytes.length) :
    (s.writeAll r epoch l).memAt a x.bytes.length = x.bytes := by
  subst he
  have hports : SamePorts s (l₁.foldl (State.writeBuilt r epoch) s) := s.writeAll_ports r epoch l₁
  rw [State.writeAll, List.foldl_append, List.foldl_cons]
  refine List.foldlRecOn (motive := fun (t : State) => t.memAt a x.bytes.length = x.bytes) _ _
    (State.memAt_writeBuilt_self _ (hl x (by simp)) hin (by rw [hports.portOf, hports.portUp, hup])) fun t ht y hy => ?_
  rw [State.memAt_writeBuilt_apart _ (hl y (by simp [hy])) (hap y hy), ht]

/-- A byte of host memory that no record covers is as before. -/
theorem State.read_writeAll_out {k : Nat} (hout : ∀ x ∈ l, ∀ a, InHost r epoch x a → k < a ∨ a + x.bytes.length ≤ k) :
    Store.read memDefault (s.writeAll r epoch l).mem k = Store.read memDefault s.mem k := by
  refine List.foldlRecOn (motive := fun (t : State) => Store.read memDefault t.mem k = Store.read memDefault s.mem k) _ _ rfl fun t ht y hy => ?_
  rw [State.read_writeBuilt_out _ (hl y hy) (hout y hy), ht]

end

end Sys2Proof.Machine
end

section
/-! SUPPORT. The start, the completion and the stop of a REPACK (R45, R51, R54, R55): the state that each answers. -/

namespace Sys2Proof.Machine

/-! The words of a plane set that name its state, its epoch and its deviations. -/

/-- The offset of such a word. -/
def PsWord (o : Nat) : Prop := ∃ n c, o = rPS n + c ∧ (c = 0 ∨ c = 0x08 ∨ c = 0x38)

theorem psWord_stat (n : Nat) : PsWord (rPS n) := ⟨n, 0, rfl, .inl rfl⟩
theorem psWord_epoch (n : Nat) : PsWord (rPS n + 0x08) := ⟨n, 0x08, rfl, .inr (.inl rfl)⟩
theorem psWord_dev (n : Nat) : PsWord (rPS n + 0x38) := ⟨n, 0x38, rfl, .inr (.inr rfl)⟩

section
variable {o : Nat} (h : PsWord o)
include h

theorem PsWord.offEvents : OffEvents o := by
  obtain ⟨n, c, rfl, -⟩ := h
  unfold OffEvents rPS
  omega

theorem PsWord.ne_head (q : Nat) : o ≠ rQ q + 0x10 := by
  obtain ⟨n, c, rfl, hc⟩ := h
  unfold rPS rQ
  omega

theorem PsWord.ne_state (q : Nat) : o ≠ rQ q + 0x20 := by
  obtain ⟨n, c, rfl, hc⟩ := h
  unfold rPS rQ
  omega

end

/-! Start. -/

section
variable (s : State) (j : RepackJob)

/-- The descriptor of a REPACK, as it stands in host memory. -/
def State.descriptorAt : RepackDesc := parseRepack (s.memAt j.rd 128).toArray
/-- The read of the descriptor meets poison. -/
def State.descriptorPoisoned : Bool := (s.readHost 4 2 j.rd 128 (0xFFFFFFFF, j.queue)).2.2
/-- The status with which the REPACK is refused. -/
def State.descriptorRefusal : Option Nat := s.repackRefusal j.psid (s.memAt j.rd 128).toArray (s.descriptorAt j)

/-- What the read of the descriptor brings. -/
theorem State.readHost_descriptor : s.readHost 4 2 j.rd 128 (0xFFFFFFFF, j.queue) =
    ((s.readHost 4 2 j.rd 128 (0xFFFFFFFF, j.queue)).1, s.memAt j.rd 128, s.descriptorPoisoned j) := rfl

end

/-- The state in which the descriptor of the oldest REPACK has been read. -/
def State.descriptorRead (s : State) (j : RepackJob) (rest : List RepackJob) : State :=
  { (s.readHost 4 2 j.rd 128 (0xFFFFFFFF, j.queue)).1 with repackQ := rest }

/-- The read of a descriptor changes nothing but `regs`, `ev`, `link`, `out`, and takes the REPACK from those that wait. -/
theorem State.descriptorRead_frame (s : State) (j : RepackJob) (rest : List RepackJob) : s.descriptorRead j rest =
    { s with regs := (s.descriptorRead j rest).regs, ev := (s.descriptorRead j rest).ev, link := (s.descriptorRead j rest).link
             out := (s.descriptorRead j rest).out, repackQ := rest } := by
  unfold State.descriptorRead
  rw [State.readHost_frame]

theorem State.descriptorRead_reg (s : State) {o : Nat} (h : OffEvents o) (j : RepackJob) (rest : List RepackJob) :
    (s.descriptorRead j rest).reg o = s.reg o := s.readHost_reg h 4 2 j.rd 128 (0xFFFFFFFF, j.queue) noRow

/-- The fields that the start of a build writes. -/
def State.beginFields (s : State) (n : Nat) (d : RepackDesc) : List (Fld × Nat) :=
  [(fPS_STATE n, 1), (fPS_RES n 0, 0), (fPS_RES n 1, 0), (fPS_RES n 2, 0), (fPS_MIRROR n, 0), (fPS_DITHERED n, 0),
   (fPS_NPLACE n, (if d.anyPlaced then s.inService else []).length), (fPS_PDBASE n, if d.anyPlaced then d.pdBase else 0),
   (fPS_PDLEN n, d.units s.inService.length), (fPS_VLO n, d.vLo), (fPS_VHI n, d.vHi), (fPS_HEADV n, d.headV), (fPS_HDIM n, d.hd),
   (fPS_P0FMT n, if d.lean then 1 else 0), (fPS_HOST n 0, d.p0), (fPS_HOST n 1, d.p1), (fPS_HOST n 2, d.p2)]

/-- The build that starts. -/
def State.newRun (s : State) (j : RepackJob) (d : RepackDesc) : RepackRun :=
  { job := j, desc := d, placed := if d.anyPlaced then s.inService else [], dither := d.placedIn 4 && !j.strict, lost := false
    builders := (s.setFields (s.beginFields j.psid d)).inService }

theorem State.beginBuild_eq (s : State) (j : RepackJob) (d : RepackDesc) : s.beginBuild j d =
    { s.setFields (s.beginFields j.psid d) with
      placed := (s.setFields (s.beginFields j.psid d)).placed.set j.psid (if d.anyPlaced then s.inService else [])
      repack := some (s.newRun j d) } := by
  unfold State.beginBuild State.newRun
  generalize hl : s.beginFields j.psid d = l
  unfold State.beginFields at hl
  dsimp only
  rw [hl]
  rfl

/-- The start of a build changes nothing but `regs`, `placed`, `repack`. -/
theorem State.beginBuild_frame (s : State) (j : RepackJob) (d : RepackDesc) : s.beginBuild j d =
    { s with regs := (s.setFields (s.beginFields j.psid d)).regs, placed := (s.beginBuild j d).placed, repack := some (s.newRun j d) } := by
  rw [State.beginBuild_eq, State.setFields_frame]

theorem State.beginBuild_regs (s : State) (j : RepackJob) (d : RepackDesc) : (s.beginBuild j d).regs = (s.setFields (s.beginFields j.psid d)).regs := by
  rw [State.beginBuild_frame]

theorem State.getF_beginBuild_state (s : State) (j : RepackJob) (d : RepackDesc) : (s.beginBuild j d).getF (fPS_STATE j.psid) = 1 := by
  rw [State.getF_congr (State.reg_congr (s.beginBuild_regs j d) _)]
  refine s.getF_setFields_head (show 0 + 3 ≤ 64 by decide) ?_
  simp only [Fld.apart, fPS_STATE, fPS_RES, fPS_MIRROR, fPS_DITHERED, fPS_NPLACE, fPS_PDBASE, fPS_PDLEN, fPS_VLO, fPS_VHI, fPS_HEADV, fPS_HDIM,
    fPS_P0FMT, fPS_HOST, List.forall_mem_cons, List.not_mem_nil, false_imp_iff, implies_true, and_true]
  omega

/-- The start of a build writes words of its own set, and not that of its epoch. -/
theorem State.beginFields_off {s : State} {n : Nat} {d : RepackDesc} {x : Fld × Nat} (hx : x ∈ s.beginFields n d) :
    rPS n ≤ x.1.off ∧ x.1.off < rPS n + 0x40 ∧ x.1.off ≠ rPS n + 0x08 := by
  have hall : ∀ y ∈ s.beginFields n d, rPS n ≤ y.1.off ∧ y.1.off < rPS n + 0x40 ∧ y.1.off ≠ rPS n + 0x08 := by
    simp only [State.beginFields, fPS_STATE, fPS_RES, fPS_MIRROR, fPS_DITHERED, fPS_NPLACE, fPS_PDBASE, fPS_PDLEN, fPS_VLO, fPS_VHI, fPS_HEADV,
      fPS_HDIM, fPS_P0FMT, fPS_HOST, List.forall_mem_cons, List.not_mem_nil, false_imp_iff, implies_true, and_true]
    omega
  exact hall x hx

theorem State.beginBuild_reg_other (s : State) (j : RepackJob) (d : RepackDesc) {o : Nat}
    (h : o < rPS j.psid ∨ rPS j.psid + 0x40 ≤ o ∨ o = rPS j.psid + 0x08) : (s.beginBuild j d).reg o = s.reg o := by
  rw [State.reg_congr (s.beginBuild_regs j d)]
  refine s.setFields_reg_other _ fun x hx => ?_
  have := State.beginFields_off hx
  omega

theorem State.repack_of_ready {s : State} {j : RepackJob} (hr : s.repackReady j = true) : s.repack = none := by
  simp only [State.repackReady, Bool.and_eq_true, Option.isNone_iff_eq_none] at hr
  obtain ⟨⟨⟨⟨⟨⟨⟨-, hnone⟩, -⟩, -⟩, -⟩, -⟩, -⟩, -⟩ := hr
  exact hnone

section
variable {s : State} {j : RepackJob} {rest : List RepackJob} (hq : s.repackQ = j :: rest)
include hq

theorem exec_repackStart_of_not_ready (hr : s.repackReady j = false) : exec .repackStart s = .next s := by
  change execRepackStart s = _
  simp [execRepackStart, hq, hr]

variable (hr : s.repackReady j = true)
include hr

/-- A REPACK whose descriptor is good waits for its region or begins. -/
theorem exec_repackStart_of_good (hbad : s.descriptorPoisoned j = false) (hok : s.descriptorRefusal j = none) :
    exec .repackStart s = if s.regionWaits j.psid j.ln (s.descriptorAt j) then .next s
      else .next ((s.descriptorRead j rest).beginBuild j (s.descriptorAt j)) := by
  unfold State.descriptorRefusal State.descriptorAt at hok
  change execRepackStart s = _
  rw [execRepackStart, hq, State.descriptorRead]
  dsimp only
  rw [hr, State.readHost_descriptor, hbad]
  dsimp only
  rw [hok]
  rfl

/-- A REPACK whose descriptor is poisoned or refused fails, after its report where it has one. -/
theorem exec_repackStart_of_bad (h : s.descriptorPoisoned j = true ∨ ∃ st, s.descriptorRefusal j = some st) :
    ∃ (v : State) (e : RepackEnd), exec .repackStart s = .next (v.repackFailed j e) ∧
      v = { s.descriptorRead j rest with mem := v.mem, link := v.link, out := v.out } := by
  change ∃ (v : State) (e : RepackEnd), execRepackStart s = _ ∧ _
  rw [execRepackStart, hq]
  dsimp only
  rw [hr, State.readHost_descriptor]
  cases hbad : s.descriptorPoisoned j with
  | true => exact ⟨_, _, rfl, rfl⟩
  | false =>
    obtain ⟨st, hst⟩ := h.resolve_left (by rw [hbad]; decide)
    unfold State.descriptorRefusal State.descriptorAt at hst
    dsimp only
    rw [hst]
    refine ⟨_, _, rfl, ?_⟩
    split
    · rfl
    · exact State.writeHost_frame _ _ _ _

end

/-! Completion. -/

/-- The fields that a completed build writes. -/
def RepackRun.readyFields (r : RepackRun) (epoch : Nat) (devs : List (Nat × Nat)) : List (Fld × Nat) :=
  let n := r.job.psid
  let d := r.desc
  let mx := devs.foldl (fun m x => Nat.max m x.2) 0
  let b (x : Bool) : Nat := if x then 1 else 0
  [(fPS_DEVX n, mx), (fPS_DEVCNT n, devs.countP fun x => x.2 != 0),
   (fPS_DEVTOK n, if mx = 0 then 0xFFFFFF else ((devs.find? fun x => x.2 == mx).map (·.1)).getD 0xFFFFFF),
   (fPS_EPOCH n, epoch), (fPS_STATE n, 2), (fPS_RES n 0, b (d.placedIn 0)), (fPS_RES n 1, b (d.placedIn 1)),
   (fPS_RES n 2, b (d.placedIn 2)), (fPS_MIRROR n, b (d.mirror && d.anyPlaced)), (fPS_DITHERED n, b r.dither)]

section
variable (s : State) (r : RepackRun) (epoch : Nat) (devs : List (Nat × Nat))

theorem State.setReady_eq : s.setReady r epoch devs = (s.setFields (r.readyFields epoch devs)).advanceG := rfl

/-- The registers of a completed set, and the generation: `setReady` changes nothing but `regs`, `power`. -/
theorem State.setReady_frame : s.setReady r epoch devs = { s with regs := (s.setReady r epoch devs).regs, power := (s.setReady r epoch devs).power } := by
  rw [State.setReady_eq, State.setFields_frame]
  rfl

theorem RepackRun.readyFields_apart : (r.readyFields epoch devs).Pairwise fun x y => y.1.apart x.1 := by
  simp [RepackRun.readyFields, Fld.apart, fPS_STATE, fPS_RES, fPS_MIRROR, fPS_DITHERED, fPS_EPOCH, fPS_DEVX, fPS_DEVCNT, fPS_DEVTOK]

theorem State.getF_setReady {g : Fld} {v : Nat} (hg : g.lsb + g.width ≤ 64) (hm : (g, v) ∈ r.readyFields epoch devs) :
    (s.setReady r epoch devs).getF g = v % 2 ^ g.width := by
  rw [State.setReady_eq, State.advanceG_getF, s.getF_setFields (r.readyFields_apart epoch devs) hg hm]

theorem State.setReady_ports (hp : r.job.psid < 16) : SamePorts s (s.setReady r epoch devs) := by
  intro o ho
  have hall : ∀ x ∈ r.readyFields epoch devs, x.1.off < 0x20000 := by
    simp only [RepackRun.readyFields, fPS_STATE, fPS_RES, fPS_MIRROR, fPS_DITHERED, fPS_EPOCH, fPS_DEVX, fPS_DEVCNT, fPS_DEVTOK, rPS,
      List.forall_mem_cons, List.not_mem_nil, false_imp_iff, implies_true, and_true]
    omega
  rw [State.setReady_eq, State.advanceG_reg]
  exact s.setFields_reg_other _ fun x hx => by have := hall x hx; omega

end

end Sys2Proof.Machine
end

section
/-! SUPPORT. A completed build (R54): its records, the state in which its set is `READY`, its report (R56), and what follows. -/

namespace Sys2Proof.Machine

section
variable (s : State) (r : RepackRun)

/-- The epoch that a build's completion gives its set. -/
def State.buildEpoch : Nat := epochAfter (s.getF (fPS_EPOCH r.job.psid))

/-- The slabs of a build's window, and the lanes after them. -/
def State.windowSlabs : List BuiltSlab × List (Nat × Lane) :=
  s.buildSlabs r s.freeCtr (s.buildEpoch r) (List.range r.desc.slabs) s.sorrel

/-- The records of a build's window. -/
def State.windowRecs : List BuiltRec := (s.windowSlabs r).1.flatMap (·.recs)
/-- The DEVX of its tokens. -/
def State.windowDevs : List (Nat × Nat) := (s.windowSlabs r).1.flatMap (·.devs)

/-- The state in which the window has been read. -/
def State.mastersRead : State := State.readMasters { s.bump with sorrel := (s.windowSlabs r).2 } r.job r.desc

/-- The state in which every record is written and the set is `READY`. -/
def State.built : State := ((s.mastersRead r).writeAll r (s.buildEpoch r) (s.windowRecs r)).setReady r (s.buildEpoch r) (s.windowDevs r)

/-- The report of a completed build, from the registers of its set. -/
def State.buildReport (t : State) (epoch cycles : Nat) : List Byte :=
  reportBytes r.desc (if r.desc.lean then 1 else 0) (if r.dither then 1 else 0) epoch
    { status := 0, failTok := 0xFFFFFFFF, failIdx := 0xFFFF, devx := t.getF (fPS_DEVX r.job.psid)
      devTok := if t.getF (fPS_DEVX r.job.psid) = 0 then 0xFFFFFFFF else t.getF (fPS_DEVTOK r.job.psid)
      devCnt := t.getF (fPS_DEVCNT r.job.psid), cycles := cycles }

/-- The state in which the report is written and the build is over. -/
def State.reported : State :=
  { (s.built r).writeHost r.desc.report ((s.built r).buildReport r (s.buildEpoch r) (Config.free64 s.freeCtr).toNat) .plain with
    repack := none, scrub := (0, 0, 0) }

/-- The state after a completed build. -/
def State.completed : State := ((s.reported r).passRepack r.job).recheckAll

end

theorem reportBytes_length (d : RepackDesc) (lean dithered epoch : Nat) (e : RepackEnd) : (reportBytes d lean dithered epoch e).length = 64 := by
  simp [reportBytes]

variable {s : State} {r : RepackRun}

theorem exec_repackComplete_of_whole (h : s.repack = some r) (hl : r.lost = false) (hw : s.windowFail r.desc = none) :
    exec .repackComplete s = .next (s.completed r) := by
  change execRepackComplete s = _
  have hgo : (r.lost || (s.windowFail r.desc).isSome) = false := by rw [hl, hw]; rfl
  rw [execRepackComplete, h]
  dsimp only
  rw [hgo]
  unfold State.completed State.reported State.built State.writeAll State.windowRecs
  rw [List.foldl_flatMap]
  rfl

theorem exec_repackComplete_of_failing (h : s.repack = some r) (hf : r.lost = true ∨ s.windowFail r.desc ≠ none) :
    exec .repackComplete s = .next s := by
  have hstop : (r.lost || (s.windowFail r.desc).isSome) = true := by
    rw [Bool.or_eq_true, Option.isSome_iff_ne_none]
    exact hf
  change execRepackComplete s = _
  rw [execRepackComplete, h]
  exact if_pos hstop

theorem exec_repackStop_of_whole (h : s.repack = some r) (hl : r.lost = false) (hw : s.windowFail r.desc = none) : exec .repackStop s = .next s := by
  change execRepackStop s = _
  rw [execRepackStop, h]
  dsimp only
  rw [hl, hw]
  rfl

/-! What the stages keep. -/

theorem State.mastersRead_frame (s : State) (r : RepackRun) : s.mastersRead r =
    { s with freeCtr := (s.mastersRead r).freeCtr, sorrel := (s.mastersRead r).sorrel, regs := (s.mastersRead r).regs, ev := (s.mastersRead r).ev
             link := (s.mastersRead r).link, out := (s.mastersRead r).out } := by
  unfold State.mastersRead
  rw [State.readMasters_frame]
  rfl

theorem State.mastersRead_reg (s : State) (r : RepackRun) {o : Nat} (h : OffEvents o) : (s.mastersRead r).reg o = s.reg o :=
  State.readMasters_reg { s.bump with sorrel := (s.windowSlabs r).2 } h r.job r.desc

theorem State.mastersRead_ports (s : State) (r : RepackRun) : SamePorts s (s.mastersRead r) :=
  fun o ho => s.mastersRead_reg r (by unfold OffEvents; omega)

theorem State.built_mem (s : State) (r : RepackRun) :
    (s.built r).mem = ((s.mastersRead r).writeAll r (s.buildEpoch r) (s.windowRecs r)).mem := by
  rw [State.built, State.setReady_frame]

theorem State.built_pad (s : State) (r : RepackRun) :
    (s.built r).pad = ((s.mastersRead r).writeAll r (s.buildEpoch r) (s.windowRecs r)).pad := by
  rw [State.built, State.setReady_frame]

theorem State.built_fuses (s : State) (r : RepackRun) : (s.built r).fuses = s.fuses := by
  rw [State.built, State.setReady_frame, State.writeAll_frame, State.mastersRead_frame]

theorem State.built_queues (s : State) (r : RepackRun) : (s.built r).queues = s.queues := by
  rw [State.built, State.setReady_frame, State.writeAll_frame, State.mastersRead_frame]

theorem State.built_ports (s : State) (hp : r.job.psid < 16) : SamePorts s (s.built r) :=
  ((s.mastersRead_ports r).trans (State.writeAll_ports _ r _ _)).trans (State.setReady_ports _ r _ _ hp)

/-- `reported` differs from `built` in what the report's write changes, in the build that is over and in the scrubber's place. -/
theorem State.reported_frame (s : State) (r : RepackRun) : s.reported r =
    { s.built r with mem := (s.reported r).mem, link := (s.reported r).link, out := (s.reported r).out, repack := none, scrub := (0, 0, 0) } := by
  unfold State.reported
  rw [State.writeHost_frame]

theorem State.reported_mem (s : State) (r : RepackRun) : (s.reported r).mem = ((s.built r).writeHost r.desc.report
    ((s.built r).buildReport r (s.buildEpoch r) (Config.free64 s.freeCtr).toNat) .plain).mem := by
  rw [State.reported]

theorem State.completed_reg (s : State) (r : RepackRun) {o : Nat} (h : PsWord o) : (s.completed r).reg o = (s.built r).reg o := by
  rw [State.completed, State.recheckAll_reg _ h.offEvents fun q _ => h.ne_state q, State.passRepack_reg _ _ (h.ne_head _) (h.ne_state _)]
  refine State.reg_congr ?_ o
  rw [State.reported_frame]

theorem State.completed_pad (s : State) (r : RepackRun) : (s.completed r).pad = (s.built r).pad := by
  rw [State.completed, State.recheckAll_pad, State.passRepack_pad, State.reported_frame]

theorem State.completed_repack (s : State) (r : RepackRun) : (s.completed r).repack = none := by
  rw [State.completed, State.recheckAll_repack, State.passRepack_repack, State.reported_frame]

theorem State.completed_scrub (s : State) (r : RepackRun) : (s.completed r).scrub = (0, 0, 0) := by
  rw [State.completed, State.recheckAll_scrub, State.passRepack_scrub, State.reported_frame]

theorem State.completed_fuses (s : State) (r : RepackRun) : (s.completed r).fuses = s.fuses := by
  rw [State.completed, State.recheckAll_fuses, State.passRepack_fuses, State.reported_frame, State.built_fuses]

/-- Where no step's checks were put off, nothing is written to host memory behind the report. -/
theorem State.completed_mem (r : RepackRun) (h : ∀ q e, q < 32 → (s.qx q).item = some e → e.defer = false) :
    (s.completed r).mem = (s.reported r).mem := by
  have hqueues : (s.reported r).queues = s.queues := by rw [State.reported_frame, State.built_queues]
  rw [State.completed, State.recheckAll_eq_self _ fun q e hq => State.passRepack_defer _ (fun e => ?_) e, State.passRepack_mem]
  rw [State.qx_congr hqueues]
  exact h q e hq

/-! The registers of the set. -/

/-- A field of the completed set holds what the completion wrote to it. -/
theorem State.getF_completed {g : Fld} {v : Nat} (hoff : PsWord g.off) (hg : g.lsb + g.width ≤ 64)
    (hm : (g, v) ∈ r.readyFields (s.buildEpoch r) (s.windowDevs r)) : (s.completed r).getF g = v % 2 ^ g.width := by
  rw [State.getF_congr (s.completed_reg r hoff), State.built, State.getF_setReady _ r _ _ hg hm]

theorem epochAfter_lt {e : Nat} (h : e < 2 ^ 32) : epochAfter e < 2 ^ 32 := by
  unfold epochAfter
  split
  · decide
  · omega

theorem State.buildEpoch_lt (s : State) (r : RepackRun) : s.buildEpoch r < 2 ^ 32 := epochAfter_lt (s.getF_lt (fPS_EPOCH r.job.psid))

theorem State.getF_completed_state : (s.completed r).getF (fPS_STATE r.job.psid) = 2 :=
  State.getF_completed (v := 2) (psWord_stat _) (show 0 + 3 ≤ 64 by decide) (by simp [RepackRun.readyFields])

theorem State.getF_completed_epoch : (s.completed r).getF (fPS_EPOCH r.job.psid) = epochAfter (s.getF (fPS_EPOCH r.job.psid)) :=
  (State.getF_completed (v := s.buildEpoch r) (psWord_epoch _) (show 0 + 32 ≤ 64 by decide) (by simp [RepackRun.readyFields])).trans
    (Nat.mod_eq_of_lt (s.buildEpoch_lt r))

theorem State.getF_completed_res {k : Nat} (hk : k < 3) :
    (s.completed r).getF (fPS_RES r.job.psid k) = if r.desc.placedIn k then 1 else 0 := by
  have hm : (fPS_RES r.job.psid k, if r.desc.placedIn k then 1 else 0) ∈ r.readyFields (s.buildEpoch r) (s.windowDevs r) := by
    interval_cases k <;> simp [RepackRun.readyFields]
  rw [State.getF_completed (psWord_stat _) (show 3 + k + 1 ≤ 64 by omega) hm]
  split <;> rfl

theorem State.getF_completed_devx :
    (s.completed r).getF (fPS_DEVX r.job.psid) = (s.windowDevs r).foldl (fun m x => Nat.max m x.2) 0 % 2 ^ 8 :=
  State.getF_completed (psWord_dev _) (show 0 + 8 ≤ 64 by decide) (by simp [RepackRun.readyFields])

theorem State.getF_completed_devcnt :
    (s.completed r).getF (fPS_DEVCNT r.job.psid) = (s.windowDevs r).countP (fun x => x.2 != 0) % 2 ^ 24 :=
  State.getF_completed (psWord_dev _) (show 8 + 24 ≤ 64 by decide) (by simp [RepackRun.readyFields])

theorem State.getF_completed_devtok : (s.completed r).getF (fPS_DEVTOK r.job.psid) =
    (if (s.windowDevs r).foldl (fun m x => Nat.max m x.2) 0 = 0 then 0xFFFFFF
      else (((s.windowDevs r).find? fun x => x.2 == (s.windowDevs r).foldl (fun m x => Nat.max m x.2) 0).map (·.1)).getD 0xFFFFFF) % 2 ^ 24 :=
  State.getF_completed (psWord_dev _) (show 32 + 24 ≤ 64 by decide) (by simp [RepackRun.readyFields])

theorem State.buildReport_congr {t u : State} (r : RepackRun) (epoch cycles : Nat) (h : t.reg (rPS r.job.psid + 0x38) = u.reg (rPS r.job.psid + 0x38)) :
    t.buildReport r epoch cycles = u.buildReport r epoch cycles := by
  have hx : t.getF (fPS_DEVX r.job.psid) = u.getF (fPS_DEVX r.job.psid) := State.getF_congr h
  have hc : t.getF (fPS_DEVCNT r.job.psid) = u.getF (fPS_DEVCNT r.job.psid) := State.getF_congr h
  have ht : t.getF (fPS_DEVTOK r.job.psid) = u.getF (fPS_DEVTOK r.job.psid) := State.getF_congr h
  rw [State.buildReport, State.buildReport, hx, hc, ht]

/-! The records. -/

section
variable (hp : r.job.psid < 16)
include hp

theorem State.windowRecs_sound {x : BuiltRec} (hx : x ∈ s.windowRecs r) : x.plane ≤ 2 ∧ SealedFor (s.buildEpoch r) r.job.psid x.bytes := by
  obtain ⟨sl, toks, hx⟩ := State.mem_builtRecs hx
  exact RepackRun.slabRecs_sound (s.buildEpoch_lt r) hp hx

theorem State.windowRecs_plane : ∀ x ∈ s.windowRecs r, x.plane ≤ 2 := fun _ hx => (State.windowRecs_sound hp hx).1

end

theorem State.windowRecs_tile {sl c : Nat} (hsl : sl < r.desc.slabs) (hc : c < r.desc.hd) :
    ∃ x ∈ s.windowRecs r, x.plane = 0 ∧ x.slab = sl ∧ x.sub = c := by
  obtain ⟨toks, -, hsub⟩ := s.slabRecs_subset r s.freeCtr (s.buildEpoch r) s.sorrel (List.mem_range.2 hsl)
  obtain ⟨x, hx, hx'⟩ := RepackRun.exists_tile (r := r) (epoch := s.buildEpoch r) (sl := sl) (toks := toks) hc
  exact ⟨x, hsub hx, hx'⟩

theorem State.windowRecs_row {id p : Nat} (hlo : r.desc.vLo ≤ id) (hhi : id < r.desc.vHi) (hp : p = 1 ∨ p = 2) :
    ∃ x ∈ s.windowRecs r, x.plane = p ∧ x.slab = (id - r.desc.vLo) / 64 ∧ x.sub = id := by
  obtain ⟨toks, hlen, hsub⟩ := s.slabRecs_subset r s.freeCtr (s.buildEpoch r) s.sorrel (List.mem_range.2 (RepackDesc.slab_lt hlo hhi))
  obtain ⟨x, hx, hx'⟩ := RepackRun.exists_row (epoch := s.buildEpoch r) hlen (RepackDesc.mem_slabIds hlo hhi) hp
  exact ⟨x, hsub hx, hx'⟩

/-! Host memory. -/

/-- The report stands in host memory. -/
theorem State.written_reported (s : State) (hp : r.job.psid < 16) :
    Written s (s.reported r) r.desc.report ((s.built r).buildReport r (s.buildEpoch r) (Config.free64 s.freeCtr).toNat) :=
  (State.written_writeHost (s.built_ports hp) _ _ .plain).of_mem (s.reported_mem r)

theorem State.memAt_reported (s : State) (hp : r.job.psid < 16) {l rest : List BuiltRec} {x : BuiltRec} (he : s.windowRecs r = l ++ x :: rest)
    {a : Nat} (hin : InHost r (s.buildEpoch r) x a) (hup : ∀ m ∈ s.messages none true a x.bytes.length, s.portUp m.1 = true)
    (hap : ∀ y ∈ rest, ∀ a', InHost r (s.buildEpoch r) y a' → Apart a x.bytes.length a' y.bytes.length)
    (hrep : Apart a x.bytes.length r.desc.report 64) : (s.reported r).memAt a x.bytes.length = x.bytes := by
  obtain ⟨-, hlen, -⟩ := State.windowRecs_sound hp (x := x) (s := s) (by simp [he])
  obtain ⟨m, hm, hport⟩ := s.messages_head true (a := a) (n := x.bytes.length) (by omega)
  have hfirst : s.portUp (s.portOf a) = true := by rw [← hport]; exact hup m hm
  have hports := s.mastersRead_ports r
  calc (s.reported r).memAt a x.bytes.length
      = (s.built r).memAt a x.bytes.length := by
        rw [State.memAt_congr (s.reported_mem r), State.memAt_writeHost_apart _ _ (by rwa [State.buildReport, reportBytes_length])]
    _ = ((s.mastersRead r).writeAll r (s.buildEpoch r) (s.windowRecs r)).memAt a x.bytes.length := State.memAt_congr (s.built_mem r) _ _
    _ = x.bytes := State.memAt_writeAll _ (State.windowRecs_plane hp) he hin (by rw [hports.portOf, hports.portUp, hfirst]) hap

theorem State.read_reported_out (s : State) (hp : r.job.psid < 16) {k : Nat}
    (hout : ∀ x ∈ s.windowRecs r, ∀ a, InHost r (s.buildEpoch r) x a → k < a ∨ a + x.bytes.length ≤ k)
    (hrep : k < r.desc.report ∨ r.desc.report + 64 ≤ k) : Store.read memDefault (s.reported r).mem k = Store.read memDefault s.mem k := by
  calc Store.read memDefault (s.reported r).mem k
      = Store.read memDefault (s.built r).mem k := by
        rw [State.reported_mem, State.sameMemBut_writeHost _ _ _ .plain k (by rwa [State.buildReport, reportBytes_length])]
    _ = Store.read memDefault (s.mastersRead r).mem k := by rw [State.built_mem, State.read_writeAll_out _ (State.windowRecs_plane hp) hout]
    _ = Store.read memDefault s.mem k := by rw [State.mastersRead_frame]

/-- A record stands at its place in Paddock. -/
theorem State.padAt_completed (s : State) (hp : r.job.psid < 16) {l rest : List BuiltRec} {x : BuiltRec} (he : s.windowRecs r = l ++ x :: rest)
    {c b : Nat} (hin : InPad r (s.buildEpoch r) x c b)
    (hap : ∀ y ∈ rest, ∀ c' b', InPad r (s.buildEpoch r) y c' b' → Apart (padKey c b) x.bytes.length (padKey c' b') y.bytes.length) :
    (s.completed r).padAt c b x.bytes.length = x.bytes := by
  rw [State.padAt_congr ((s.completed_pad r).trans (s.built_pad r))]
  exact State.padAt_writeAll _ (State.windowRecs_plane hp) he hin hap

/-! The stop. -/

/-- Of the records that a stopped build could write, those are written that are chosen. -/
def State.writeChosen (s : State) (r : RepackRun) (epoch fr : Nat) (l : List (BuiltRec × Nat)) : State :=
  l.foldl (fun t q => if Config.freeBool fr q.2 then t.writeBuilt r epoch q.1 else t) s

/-- `writeChosen` changes nothing but `mem`, `pad`, `padDirty`, `bad`. -/
theorem State.writeChosen_frame (s : State) (r : RepackRun) (epoch fr : Nat) (l : List (BuiltRec × Nat)) : s.writeChosen r epoch fr l =
    { s with mem := (s.writeChosen r epoch fr l).mem, pad := (s.writeChosen r epoch fr l).pad, padDirty := (s.writeChosen r epoch fr l).padDirty
             bad := (s.writeChosen r epoch fr l).bad } := by
  refine List.foldlRecOn (motive := fun (t : State) => t = { s with mem := t.mem, pad := t.pad, padDirty := t.padDirty, bad := t.bad }) _ _ rfl
    fun t ht q _ => ?_
  split
  · rw [State.writeBuilt_frame, ht]
  · exact ht

section
variable (s : State) (r : RepackRun) (lanes : List (Nat × Lane)) (recs : List (BuiltRec × Nat)) (e : RepackEnd)

/-- The state in which a stopped build has written what it writes of its records, with the Sorrel lanes after it. -/
def State.partBuilt : State :=
  (State.readMasters { s.bump with sorrel := lanes } r.job r.desc).writeChosen r (s.buildEpoch r) s.freeCtr recs

/-- The state in which its set is `REFUSED` and its report is written. -/
def State.stopped : State :=
  { ((s.partBuilt r lanes recs).setF (fPS_STATE r.job.psid) 3).writeHost r.desc.report
      (reportBytes r.desc (if r.desc.lean then 1 else 0) (if r.dither then 1 else 0)
        (((s.partBuilt r lanes recs).setF (fPS_STATE r.job.psid) 3).getF (fPS_EPOCH r.job.psid)) e) .plain with repack := none }

theorem State.partBuilt_reg {o : Nat} (h : OffEvents o) : (s.partBuilt r lanes recs).reg o = s.reg o := by
  rw [State.partBuilt, State.reg_congr (by rw [State.writeChosen_frame])]
  exact State.readMasters_reg { s.bump with sorrel := lanes } h r.job r.desc

theorem State.partBuilt_fuses : (s.partBuilt r lanes recs).fuses = s.fuses := by
  rw [State.partBuilt, State.writeChosen_frame, State.readMasters_frame]
  rfl

theorem State.stopped_regs : (s.stopped r lanes recs e).regs = ((s.partBuilt r lanes recs).setF (fPS_STATE r.job.psid) 3).regs := by
  unfold State.stopped
  rw [State.writeHost_frame]

theorem State.stopped_fuses : (s.stopped r lanes recs e).fuses = s.fuses := by
  unfold State.stopped
  rw [State.writeHost_frame]
  exact s.partBuilt_fuses r lanes recs

theorem State.stopped_reg {o : Nat} (h : PsWord o) : (s.stopped r lanes recs e).reg o = (s.setF (fPS_STATE r.job.psid) 3).reg o := by
  rw [State.reg_congr (s.stopped_regs r lanes recs e)]
  exact State.reg_setF_congr 3 (s.partBuilt_reg r lanes recs (psWord_stat _).offEvents) (s.partBuilt_reg r lanes recs h.offEvents)

end

theorem exec_repackStop_of_failing (h : s.repack = some r) (hf : r.lost = true ∨ s.windowFail r.desc ≠ none) :
    ∃ lanes recs e, exec .repackStop s = .next ((s.stopped r lanes recs e).repackFailed r.job e) := by
  have hstop : (!r.lost && (s.windowFail r.desc).isNone) = false := by
    rw [Bool.and_eq_false_imp]
    intro hlost
    rw [Option.isNone_eq_false_iff, Option.isSome_iff_ne_none]
    exact hf.resolve_left (by simpa using hlost)
  change ∃ lanes recs e, execRepackStop s = _
  rw [execRepackStop, h]
  dsimp only
  rw [hstop]
  exact ⟨_, _, _, rfl⟩

end Sys2Proof.Machine
end

section
/-! PROOF. A REPACK starts, completes or stops (R45, R51, R54, R55). -/

namespace Sys2Proof.Machine

/-! What a REPACK comes to at its start. -/

section
variable {s : State} {j : RepackJob} {rest : List RepackJob} (hq : s.repackQ = j :: rest) (hr : s.repackReady j = true)
include hq hr

/-- A REPACK with a good descriptor and a free region begins to build: its set is `BUILDING`, and no other set changes. -/
theorem repackStart_builds (hbad : s.descriptorPoisoned j = false) (hok : s.descriptorRefusal j = none)
    (hfree : s.regionWaits j.psid j.ln (s.descriptorAt j) = false) :
    ∃ u r, exec .repackStart s = .next u ∧ u.repack = some r ∧ r.job = j ∧ r.desc = s.descriptorAt j ∧ r.lost = false ∧
      u.repackQ = rest ∧ u.getF (fPS_STATE j.psid) = 1 ∧ u.getF (fPS_EPOCH j.psid) = s.getF (fPS_EPOCH j.psid) ∧
      (∀ n, n < 16 → n ≠ j.psid → u.getF (fPS_STATE n) = s.getF (fPS_STATE n)) ∧ u.mem = s.mem ∧ u.pad = s.pad ∧ u.flights = s.flights := by
  have hexec := exec_repackStart_of_good hq hr hbad hok
  rw [hfree] at hexec
  generalize s.descriptorAt j = d at hexec
  have hread := s.descriptorRead_frame j rest
  have hbegin := (s.descriptorRead j rest).beginBuild_frame j d
  have hword : ∀ o, PsWord o → o < rPS j.psid ∨ rPS j.psid + 0x40 ≤ o ∨ o = rPS j.psid + 0x08 →
      ((s.descriptorRead j rest).beginBuild j d).reg o = s.reg o := fun o ho hout => by
    rw [State.beginBuild_reg_other _ _ _ hout, s.descriptorRead_reg ho.offEvents]
  refine ⟨_, (s.descriptorRead j rest).newRun j d, hexec, ?_, rfl, rfl, rfl, ?_, State.getF_beginBuild_state _ _ _, ?_, fun n _ hn => ?_, ?_, ?_, ?_⟩
  · rw [hbegin]
  · rw [hbegin, hread]
  · exact State.getF_congr (hword _ (psWord_epoch _) (.inr (.inr rfl)))
  · exact State.getF_congr (hword _ (psWord_stat n) (show rPS n < _ ∨ _ ≤ rPS n ∨ rPS n = _ by unfold rPS; omega))
  · rw [hbegin, hread]
  · rw [hbegin, hread]
  · rw [hbegin, hread]

/-- A REPACK with a poisoned or refused descriptor leaves every set, and halts the queue that holds its instruction. -/
theorem repackStart_fails (hs : Shaped s) (h : s.descriptorPoisoned j = true ∨ ∃ st, s.descriptorRefusal j = some st) :
    ∃ u, exec .repackStart s = .next u ∧ u.repack = none ∧
      (j.queue < 32 ∧ s.halted j.queue = false ∧ (∃ d, (s.qx j.queue).item = some d ∧ d.order = j.order) →
        u.halted j.queue = true ∧ u.getF (fQ_HALT j.queue) = 7) ∧
      (∀ n, n < 16 → u.getF (fPS_STATE n) = s.getF (fPS_STATE n) ∧ u.getF (fPS_EPOCH n) = s.getF (fPS_EPOCH n)) ∧
      u.pad = s.pad ∧ u.flights = s.flights := by
  obtain ⟨v, e, hexec, hv⟩ := exec_repackStart_of_bad hq hr h
  have hread := s.descriptorRead_frame j rest
  have hvreg : ∀ o, OffEvents o → v.reg o = s.reg o := fun o ho => by
    rw [← s.descriptorRead_reg ho j rest]
    refine State.reg_congr ?_ o
    rw [hv]
  have hvqueues : v.queues = s.queues := by rw [hv, hread]
  have hword : ∀ o, PsWord o → (v.repackFailed j e).reg o = s.reg o := fun o ho => by
    rw [State.repackFailed_reg _ _ _ ho.offEvents ho.ne_state, hvreg o ho.offEvents]
  refine ⟨_, hexec, ?_, ?_, fun n _ => ⟨State.getF_congr (hword _ (psWord_stat n)), State.getF_congr (hword _ (psWord_epoch n))⟩, ?_, ?_⟩
  · rw [State.repackFailed_repack, ← State.repack_of_ready hr, hv, hread]
  · rintro ⟨hlt, hrun, d, hd, hord⟩
    have hoff : OffEvents (rQ j.queue + 0x20) := by unfold OffEvents rQ; omega
    refine v.repackFailed_halts e (d := d) (by rw [hvqueues, hs.queues]) hlt ?_ (by rw [State.qx_congr hvqueues, hd]) hord
    rw [State.halted, State.getF_congr (f := fQ_STATE j.queue) (hvreg _ hoff)]
    exact hrun
  · rw [State.repackFailed_pad, hv, hread]
  · rw [State.repackFailed_flights, hv, hread]

end

/-- A build that stops leaves its set `REFUSED` at its old epoch. -/
theorem repackStop_refuses {s : State} {r : RepackRun} (h : s.repack = some r) (hf : r.lost = true ∨ s.windowFail r.desc ≠ none) :
    ∃ u, exec .repackStop s = .next u ∧ u.repack = none ∧ u.getF (fPS_STATE r.job.psid) = 3 ∧
      u.getF (fPS_EPOCH r.job.psid) = s.getF (fPS_EPOCH r.job.psid) ∧ u.fuses = s.fuses := by
  obtain ⟨lanes, recs, e, hexec⟩ := exec_repackStop_of_failing h hf
  have hword : ∀ o, PsWord o → ((s.stopped r lanes recs e).repackFailed r.job e).reg o = (s.setF (fPS_STATE r.job.psid) 3).reg o := fun o ho => by
    rw [State.repackFailed_reg _ _ _ ho.offEvents ho.ne_state, s.stopped_reg r lanes recs e ho]
  refine ⟨_, hexec, State.repackFailed_repack _ _ _, ?_, ?_, ?_⟩
  · exact (State.getF_congr (hword _ (psWord_stat _))).trans (s.getF_setF_same _ 3 (show 0 + 3 ≤ 64 by decide))
  · exact (State.getF_congr (hword _ (psWord_epoch _))).trans
      (s.getF_setF_other _ 3 (show 0 + 32 ≤ 64 by decide) (.inl (by simp [fPS_STATE, fPS_EPOCH])))
  · rw [State.repackFailed_fuses, State.stopped_fuses]

/-- Settles O47: a start is a wait, a failure or a build that begins; a completion writes each record, then the set's registers, then the report, and what follows changes neither; a stop keeps the epoch. -/
theorem repackStartsCompletesOrStops : Obligations.RepackStartsCompletesOrStops := by
  unfold Obligations.RepackStartsCompletesOrStops
  refine ⟨fun s j rest hs hq _ => ?start, fun s r h hp => ⟨fun hl hw => ⟨⟨s.completed r, ?_⟩, exec_repackStop_of_whole h hl hw⟩,
    fun hf => ⟨repackStop_refuses h hf, exec_repackComplete_of_failing h hf⟩⟩⟩
  case start =>
    refine ⟨exec_repackStart_of_not_ready hq, fun hr hbad hok => ⟨fun hwait => ?_, repackStart_builds hq hr hbad hok⟩,
      fun hr => repackStart_fails hq hr hs⟩
    exact (exec_repackStart_of_good hq hr hbad hok).trans (if_pos hwait)
  have hreport : (s.built r).buildReport r (s.buildEpoch r) (Config.free64 s.freeCtr).toNat =
      (s.completed r).buildReport r (s.buildEpoch r) (Config.free64 s.freeCtr).toNat :=
    State.buildReport_congr r _ _ (s.completed_reg r (psWord_dev _)).symm
  refine ⟨exec_repackComplete_of_whole h hl hw, s.completed_repack r, State.getF_completed_state, State.getF_completed_epoch, s.completed_scrub r,
    s.completed_fuses r, fun k => State.getF_completed_res, fun x hx => ?_, fun sl c => State.windowRecs_tile, fun id p => State.windowRecs_row,
    fun l x rest c b he => State.padAt_completed s hp he, State.getF_completed_devx, State.getF_completed_devcnt, State.getF_completed_devtok,
    reportBytes_length _ _ _ _ _, fun hdefer => ?_⟩
  · obtain ⟨-, -, hseal, hepoch, hpsid⟩ := State.windowRecs_sound hp hx
    exact ⟨hseal, hepoch, hpsid⟩
  · have hmem := State.completed_mem r hdefer
    have hwritten := s.written_reported hp
    rw [hreport] at hwritten
    refine ⟨hwritten.of_mem hmem, fun l x rest a he hin hup hap hrep => ?_, fun k hout hrep => ?_⟩
    · rw [State.memAt_congr hmem]
      exact s.memAt_reported hp he hin hup hap hrep
    · rw [hmem]
      exact s.read_reported_out hp hout hrep

end Sys2Proof.Machine
end

section
/-! SUPPORT. What keeps the shape: the fields that `Shaped` does not speak of, a branch, a fold. -/

namespace Sys2Proof.Machine

variable {s t : State}

/-- The lengths in the link's state that `Shaped` speaks of. -/
def LinkX.shape (l : LinkX) : List Nat := [l.hdr.length, l.dat.length, l.mcReq.length, l.mcData.length, l.mcRet.length]

/-- The lengths in Martingale's state that `Shaped` speaks of. -/
def PowerX.shape (p : PowerX) : List Nat := [p.tags.length, p.pdReq.length, p.pdRet.length, p.pdAck.length, p.hotUs.length]

/-- The state `t` with other values in fields that `Shaped` does not speak of, and with lists of the same lengths. -/
theorem Shaped.frame
    {pe fc rs rh rg me mm fu fp pa pf pd ba bk la lt tq tp qs nl nd no fl pl rq rr mj ms re sh rt st yb yl ou go li sy po ev fa te so sc qu}
    (h : Shaped t) (hqs : qs.length = t.queues.length := by rfl) (hms : ms.length = t.masks.length := by rfl)
    (hpl : pl.length = t.placed.length := by rfl) (hlt : lt.length = t.laneTags.length := by rfl) (hli : li.shape = t.link.shape := by rfl)
    (hsy : sy.cup.length = t.sync.cup.length := by rfl) (hpo : po.shape = t.power.shape := by rfl)
    (hfa : fa.sorrelOff.length = t.far.sorrelOff.length := by rfl) (hte : te.bist.length = t.test.bist.length := by rfl) :
    Shaped ⟨pe, fc, rs, rh, rg, me, mm, fu, fp, t.trims, pa, pf, pd, ba, bk, la, lt, tq, tp, qs, nl, nd, no, fl, pl, rq, rr, mj, ms,
      re, sh, rt, st, yb, yl, ou, go, li, t.arb, sy, po, ev, fa, te, so, sc, qu⟩ := by
  simp only [LinkX.shape, PowerX.shape, List.cons.injEq, and_true] at hli hpo
  obtain ⟨hhdr, hdat, hreq, hdata, hret⟩ := hli
  obtain ⟨htags, hpdReq, hpdRet, hpdAck, hhot⟩ := hpo
  exact { h with
    queues := hqs.trans h.queues, masks := hms.trans h.masks, placed := hpl.trans h.placed, tags := hlt.trans h.tags, cup := hsy.trans h.cup
    hdr := hhdr.trans h.hdr, dat := hdat.trans h.dat, mcReq := hreq.trans h.mcReq, mcData := hdata.trans h.mcData, mcRet := hret.trans h.mcRet
    dtags := htags.trans h.dtags, pdReq := hpdReq.trans h.pdReq, pdRet := hpdRet.trans h.pdRet, pdAck := hpdAck.trans h.pdAck
    hotUs := hhot.trans h.hotUs
    bist := hte.trans h.bist, lanesOff := hfa.trans h.lanesOff }

theorem Shaped.ite {c : Prop} {_ : Decidable c} (hs : Shaped s) (ht : Shaped t) : Shaped (if c then s else t) := by split <;> assumption

theorem Shaped.ite_fst {β : Type} {p q : State × β} {c : Prop} {_ : Decidable c} (hp : Shaped p.1) (hq : Shaped q.1) :
    Shaped (if c then p else q).1 := by
  split <;> assumption

theorem Shaped.of_fst {β : Type} {p : State × β} {b : β} (e : p = (t, b)) (h : Shaped p.1) : Shaped t := by
  rw [e] at h
  exact h

theorem Shaped.foldl {α : Type} {f : State → α → State} {l : List α} (h : Shaped s) (hf : ∀ {t x}, Shaped t → Shaped (f t x)) :
    Shaped (l.foldl f s) := by
  induction l generalizing s with
  | nil => exact h
  | cons x l ih => exact ih (hf h)

theorem Shaped.foldl_fst {α β : Type} {f : State × β → α → State × β} {l : List α} {a : State × β} (h : Shaped a.1)
    (hf : ∀ {b x}, Shaped b.1 → Shaped (f b x).1) : Shaped (l.foldl f a).1 := by
  induction l generalizing a with
  | nil => exact h
  | cons x l ih => exact ih (hf h)

/-- The state that a command answers has the shape. -/
def ShapedNext (o : Host.Outcome State Fault Refusal) : Prop := ∀ t, o = .next t → Shaped t

theorem ShapedNext.next (h : Shaped s) : ShapedNext (.next s) := fun _ e => by cases e; exact h

theorem ShapedNext.ite {o p : Host.Outcome State Fault Refusal} {c : Prop} {_ : Decidable c} (ho : ShapedNext o) (hp : ShapedNext p) :
    ShapedNext (if c then o else p) := by
  split <;> assumption

/-- The state that an access leaves, where it is not refused, has the shape. -/
def ShapedSome (o : Option State) : Prop := ∀ t, o = some t → Shaped t

theorem ShapedSome.some (h : Shaped s) : ShapedSome (some s) := fun _ e => by cases e; exact h

theorem ShapedSome.none : ShapedSome none := fun _ e => nomatch e

theorem ShapedSome.ite {o p : Option State} {c : Prop} {_ : Decidable c} (ho : ShapedSome o) (hp : ShapedSome p) :
    ShapedSome (if c then o else p) := by
  split <;> assumption

end Sys2Proof.Machine
end

section
/-! SUPPORT. Registers, host memory, the ports and the event ring keep the shape. -/

namespace Sys2Proof.Machine

-- The default arguments of `Shaped.frame` are tactics, and each waits for the declarations before its own: in order, none holds a thread meanwhile.
set_option Elab.async false

variable {s t : State}

theorem Shaped.setReg {off : Nat} {v : Word64} (h : Shaped s) : Shaped (s.setReg off v) :=
  h.frame

theorem Shaped.setF {f : Fld} {v : Nat} (h : Shaped s) : Shaped (s.setF f v) :=
  h.setReg

theorem Shaped.setFlag {f : Fld} {b : Bool} (h : Shaped s) : Shaped (s.setFlag f b) :=
  h.setF

theorem Shaped.addSat {f : Fld} {n : Nat} (h : Shaped s) : Shaped (s.addSat f n) :=
  h.setF

theorem Shaped.addMod {f : Fld} {n : Nat} (h : Shaped s) : Shaped (s.addMod f n) :=
  h.setF

theorem Shaped.bump (h : Shaped s) : Shaped s.bump :=
  h.frame

theorem Shaped.setBit {f : Fld} {n : Nat} {b : Bool} (h : Shaped s) : Shaped (s.setBit f n b) :=
  h.setF

theorem Shaped.answer {status : Nat} {words : List Word64} (h : Shaped s) : Shaped (s.answer status words) :=
  h.frame

theorem Shaped.putMem {a : Nat} {bs : List Byte} (h : Shaped s) : Shaped (s.putMem a bs) :=
  h.frame

theorem LinkX.shape_pay (l : LinkX) (vc nds : Nat) : (l.pay vc nds).shape = l.shape := by simp [LinkX.pay, LinkX.shape]

theorem LinkX.shape_carryMc (l : LinkX) (n : Nat) (w : BitVec 128) (d : List (BitVec 128)) : (l.carryMc n w d).shape = l.shape := by
  simp [LinkX.carryMc, LinkX.shape]

theorem LinkX.shape_carryCap (l : LinkX) (n : Nat) (w d : BitVec 128) : (l.carryCap n w d).shape = l.shape := by simp [LinkX.carryCap, LinkX.shape]

theorem LinkX.shape_takeMc (l : LinkX) (n : Nat) (segs : List (List Byte × Option (BitVec 128))) : (l.takeMc n segs).shape = l.shape := by
  simp [LinkX.takeMc, LinkX.shape]

theorem LinkX.shape_takeCap (l : LinkX) (n : Nat) (w : BitVec 128) (d : List Byte) : (l.takeCap n w d).shape = l.shape := by
  simp [LinkX.takeCap, LinkX.shape]

theorem PumpX.took_link (x : PumpX) (o : Outstanding) : (x.took o).2.link = x.link := by
  unfold PumpX.took
  split <;> rfl

theorem pumpOne_shape (c : PumpCtx) (x : PumpX) (o : Outstanding) : (pumpOne c x o).2.link.shape = x.link.shape := by
  unfold pumpOne
  split
  · rfl
  · split
    · rfl
    · split
      · dsimp only
        split
        · exact (congrArg _ (PumpX.took_link ..)).trans (LinkX.shape_pay ..)
        · exact (congrArg _ (PumpX.took_link ..)).trans (LinkX.shape_carryMc ..)
      · rfl

theorem pumpAll_shape (c : PumpCtx) (x : PumpX) (l : List Outstanding) : (pumpAll c x l).2.link.shape = x.link.shape := by
  induction l generalizing x with
  | nil => rfl
  | cons o r ih => exact (ih _).trans (pumpOne_shape c x o)

theorem Shaped.pump {p : Port} (h : Shaped s) : Shaped (s.pump p) :=
  h.frame (hli := pumpAll_shape ..)

theorem Shaped.send {p : Port} {addr len : Nat} {why : Purpose2} {f' : Header} {d : List (BitVec 128)} (h : Shaped s) :
    Shaped (s.send p addr len why f' d) :=
  h.frame.pump

theorem Shaped.issueRd {m : Port × Nat × Nat} (h : Shaped s) : Shaped (s.issueRd m) :=
  .ite h.send h

theorem Shaped.issueRead {a n : Nat} (h : Shaped s) : Shaped (s.issueRead a n) :=
  h.foldl fun h1 => h1.issueRd

theorem Shaped.writeBy {p : Option Port} {vc a : Nat} {bs : List Byte} {why : Purpose2} (h : Shaped s) : Shaped (s.writeBy p vc a bs why) := by
  unfold State.writeBy
  refine h.foldl fun h1 => ?_
  split
  · exact (Shaped.ite h1.putMem h1).send
  · exact .ite h1.putMem.send h1

theorem Shaped.writeHost {a : Nat} {bs : List Byte} {why : Purpose2} (h : Shaped s) : Shaped (s.writeHost a bs why) :=
  h.writeBy

theorem Shaped.sendAtom {vc sub a : Nat} {x : Word64} {why : Purpose2} (h : Shaped s) : Shaped (s.sendAtom vc sub a x why) :=
  h.send

theorem Shaped.noteTail (h : Shaped s) : Shaped s.noteTail :=
  .ite h h.frame.writeHost

theorem Shaped.advanceTail {n : Nat} (h : Shaped s) : Shaped (s.advanceTail n) := by
  induction n generalizing s with
  | zero => exact h
  | succ n ih => exact .ite (ih h.frame.setF) h

theorem Shaped.ackEvent {i : Nat} (h : Shaped s) : Shaped (s.ackEvent i) :=
  h.frame.advanceTail.noteTail

theorem Shaped.issueEvent {e : EvRec} (h : Shaped s) : Shaped (s.issueEvent e) := by
  refine .ite ?_ ?_
  · exact h.frame
  · exact .ite (.ite h.frame.frame.writeHost h.frame.frame.writeHost.ackEvent) h.frame.addSat

theorem Shaped.post {e : EvRec} (h : Shaped s) : Shaped (s.post e) :=
  h.setF.issueEvent

theorem Shaped.coalesce {k : CoalKey} {e : EvRec} (h : Shaped s) : Shaped (s.coalesce k e) :=
  .ite h.setF.frame h.setF.frame

theorem Shaped.closeWindow {k : CoalKey} (h : Shaped s) : Shaped (s.closeWindow k) := by
  unfold State.closeWindow
  split
  · exact h
  · exact h.frame.issueEvent

theorem Shaped.poisonEvents {req sev : Nat} {gs : List (Nat × Mark)} {who : Who} {row : Nat} (h : Shaped s) :
    Shaped (s.poisonEvents req sev gs who row) :=
  h.foldl fun h1 => .ite h1 h1.coalesce

theorem Shaped.readHost {req sev a n : Nat} {who : Who} {row : Nat} (h : Shaped s) : Shaped (s.readHost req sev a n who row).1 :=
  h.issueRead.poisonEvents

theorem Shaped.raise {x : Exc} {e : EvRec} (h : Shaped s) : Shaped (s.raise x e) :=
  .ite h.frame.addSat.coalesce h.frame.setF

end Sys2Proof.Machine
end

section
/-! SUPPORT. Queues, flights, the pad and the marks keep the shape. -/

namespace Sys2Proof.Machine

-- The default arguments of `Shaped.frame` are tactics, and each waits for the declarations before its own: in order, none holds a thread meanwhile.
set_option Elab.async false

variable {s t : State}

theorem Shaped.setQx {q : Nat} {x : QueueX} (h : Shaped s) : Shaped (s.setQx q x) :=
  h.frame (hqs := by simp)

theorem Shaped.refresh {q : Nat} (h : Shaped s) : Shaped (s.refresh q) :=
  .ite h h.setF

theorem Shaped.haltAt {q code order : Nat} (h : Shaped s) : Shaped (s.haltAt q code order) :=
  h.setF.setF.frame (hqs := by simp)

theorem Shaped.halt {q code order slot stepId : Nat} (h : Shaped s) : Shaped (s.halt q code order slot stepId) :=
  .ite h.haltAt h.haltAt.post

theorem Shaped.passItem {q : Nat} {gated : Bool} (h : Shaped s) : Shaped (s.passItem q gated) := by
  unfold State.passItem
  split
  · exact h
  · exact h.setQx.addMod.refresh

theorem Shaped.holdPins (h : Shaped s) : Shaped s.holdPins :=
  .ite h.frame h

theorem Shaped.setFlight {f : Flight} (h : Shaped s) : Shaped (s.setFlight f) :=
  h.frame

theorem Shaped.rowEvent {f : Flight} {code row n cause slot : Nat} (h : Shaped s) : Shaped (s.rowEvent f code row n cause slot) :=
  h.coalesce

theorem Shaped.setReq {slot : Nat} {r : ReqX} (h : Shaped s) : Shaped (s.setReq slot r) :=
  h.frame

theorem Shaped.copyLane {b e cl : Nat} (h : Shaped s) : Shaped (s.copyLane b e cl) :=
  h.frame (hlt := by simp)

theorem Shaped.dirtyPad {a b : Nat} (h : Shaped s) : Shaped (s.dirtyPad a b) :=
  h.frame

theorem Shaped.putPad {cl byte : Nat} {bs : List Byte} (h : Shaped s) : Shaped (s.putPad cl byte bs) :=
  h.frame

theorem Shaped.mend {p : SramPart → Bool} (h : Shaped s) : Shaped (s.mend p) :=
  h.frame

theorem Shaped.advanceG (h : Shaped s) : Shaped s.advanceG :=
  h.frame

theorem Shaped.writeNote {slot : Nat} {why : Option Purpose2} (h : Shaped s) : Shaped (s.writeNote slot why) := by
  unfold State.writeNote
  split
  · exact h
  · exact .ite h h.writeHost

theorem Shaped.freeRets {slot : Nat} (h : Shaped s) : Shaped (s.freeRets slot) :=
  h.frame

end Sys2Proof.Machine
end

section
/-! SUPPORT. The requests, their leases and their admission keep the shape. -/

namespace Sys2Proof.Machine

-- The default arguments of `Shaped.frame` are tactics, and each waits for the declarations before its own: in order, none holds a thread meanwhile.
set_option Elab.async false

variable {s t : State}

theorem Shaped.enter {slot st reason : Nat} {why : Option Purpose2} (h : Shaped s) : Shaped (s.enter slot st reason why) :=
  h.setF.setF.freeRets.writeNote

theorem Shaped.wantEnd {slot st reason : Nat} (h : Shaped s) : Shaped (s.wantEnd slot st reason) :=
  h.setReq

theorem Shaped.settle {slot : Nat} {why : Option Purpose2} (h : Shaped s) : Shaped (s.settle slot why) := by
  unfold State.settle
  refine .ite h ?_
  split
  · exact .ite h.setReq h.setReq.enter
  · exact .ite h.enter h

theorem Shaped.stopReq {slot reason : Nat} (h : Shaped s) : Shaped (s.stopReq slot reason) :=
  h.setF.setF.freeRets

theorem Shaped.dropShadow {slot : Nat} (h : Shaped s) : Shaped (s.dropShadow slot) :=
  h.setReg.frame

theorem Shaped.leaseEvent {slot code cause : Nat} (h : Shaped s) : Shaped (s.leaseEvent slot code cause) :=
  h.post

theorem Shaped.leaseCas {slot : Nat} {expect new : Word64} {snd : Sender} (h : Shaped s) : Shaped (s.leaseCas slot expect new snd).1 :=
  Shaped.ite_fst h (Shaped.ite_fst h h.setReg.frame)

theorem Shaped.breakLease {slot cause : Nat} (h : Shaped s) : Shaped (s.breakLease slot cause) :=
  .ite h.leaseEvent.dropShadow h

theorem Shaped.breakAgent {agent : Nat} (h : Shaped s) : Shaped (s.breakAgent agent) :=
  h.foldl fun h1 => .ite h1.breakLease h1

theorem Shaped.pruneStops (h : Shaped s) : Shaped s.pruneStops :=
  h.frame

theorem Shaped.mendSlot {slot : Nat} (h : Shaped s) : Shaped (s.mendSlot slot) :=
  h.mend

theorem Shaped.levelEntry {slot : Nat} (h : Shaped s) : Shaped (s.levelEntry slot) :=
  .ite h.setF h

theorem Shaped.levelPrio (h : Shaped s) : Shaped s.levelPrio :=
  h.foldl fun h1 => h1.levelEntry

theorem Shaped.freeEntry {slot : Nat} (h : Shaped s) : Shaped (s.freeEntry slot) :=
  (h.foldl fun h1 => h1.setReg).levelEntry.mendSlot.setReq.freeRets.frame.pruneStops

theorem Shaped.applyEdit {slot : Nat} (h : Shaped s) : Shaped (s.applyEdit slot) := by
  unfold State.applyEdit
  split
  · exact h.dropShadow
  · extract_lets live want fixedDiff s1 s2 s3 s4
    have h1 : Shaped s1 := h.foldl fun h => h.setReg
    have h2 : Shaped s2 := h1.dropShadow
    have h3 : Shaped s3 := .ite h2.mendSlot h2.mend
    have h4 : Shaped s4 := .ite h3.setF h3
    exact .ite h.leaseEvent.dropShadow (.ite h.leaseEvent.dropShadow (.ite h4.freeEntry (.ite h4.stopReq.settle h4)))

theorem Shaped.leasePut {slot : Nat} {v : Word64} {snd : Sender} (h : Shaped s) : ShapedSome (s.leasePut slot v snd) :=
  .ite .none (.ite (.some h.applyEdit) (.ite (.some h.dropShadow) .none))

theorem Shaped.writeEntry {slot w : Nat} {v : Word64} {snd : Sender} (h : Shaped s) : ShapedSome (s.writeEntry slot w v snd) :=
  .ite (.some h.frame) .none

theorem Shaped.spillTable {slot : Nat} {who : Who} (h : Shaped s) : Shaped (s.spillTable slot who).1 :=
  h.foldl fun h1 => h1.readHost

theorem Shaped.spill {slot : Nat} {why : Purpose2} {who : Who} (h : Shaped s) : Shaped (s.spill slot why who).1 := by
  refine Shaped.ite_fst ?_ ?_
  · exact Shaped.ite_fst h h.spillTable
  · exact ((Shaped.ite_fst h h.spillTable).foldl fun h1 => h1.writeHost).setF.setFlag.setF.setReq

theorem Shaped.addHist {slot tok : Nat} {why : Purpose2} {who : Who} (h : Shaped s) : Shaped (s.addHist slot tok why who).1 :=
  Shaped.ite_fst (Shaped.ite_fst h.spill h) (Shaped.ite_fst h.spill h).setReq.setF

theorem Shaped.loadTables {slots : List Nat} {who : Who} (h : Shaped s) : Shaped (s.loadTables slots who).1 :=
  h.foldl_fst fun h1 => Shaped.ite_fst h1.spillTable h1

theorem Shaped.spilledCounts {tabs : List SpillTab} {slot : Nat} {who : Who} (h : Shaped s) : Shaped (s.spilledCounts tabs slot who).1 := by
  unfold State.spilledCounts
  refine Shaped.ite_fst h ?_
  split
  · exact h
  · exact h.spillTable

theorem Shaped.countList {tabs : List SpillTab} {slot : Nat} {who : Who} (h : Shaped s) : Shaped (s.countList tabs slot who).1 :=
  h.spilledCounts

theorem Shaped.readParam {addr : Nat} {who : Who} (h : Shaped s) : Shaped (s.readParam addr who).1 := by
  unfold State.readParam
  split
  next t b bad e =>
    have ht : Shaped t := .of_fst e h.readHost
    dsimp only
    split
    · exact ht
    · dsimp only
      exact ht.readHost

theorem Shaped.pushTail {slot tok : Nat} (h : Shaped s) : Shaped (s.pushTail slot tok) :=
  h.setReq

theorem Shaped.queueBlocks {slot upto : Nat} (h : Shaped s) : Shaped (s.queueBlocks slot upto) :=
  .ite h h.frame

theorem Shaped.admitStop {n : Nat} (h : Shaped s) : Shaped (s.admitStop n).1 :=
  Shaped.ite_fst h (Shaped.ite_fst h.readHost h.readHost.frame.mend)

theorem Shaped.admitRing {n : Nat} (h : Shaped s) : Shaped (s.admitRing n).1 :=
  Shaped.ite_fst h.readHost h.readHost.writeHost.writeHost

theorem Shaped.readPrompt {n : Nat} (h : Shaped s) : Shaped (s.readPrompt n).1 :=
  h.foldl_fst fun h1 => h1.readHost

theorem Shaped.countPrompt {n : Nat} {toks : List Nat} (h : Shaped s) : Shaped (s.countPrompt n toks).1 :=
  h.foldl_fst fun h1 => Shaped.ite_fst h1.addHist h1

theorem Shaped.uncount {n : Nat} (ht : Shaped t) : Shaped (s.uncount t n) :=
  ht.frame.setF.setF.setFlag

theorem Shaped.admitHist {n : Nat} {hprompt : Bool} (h : Shaped s) : Shaped (s.admitHist n hprompt).1 := by
  unfold State.admitHist
  dsimp only
  exact .ite_fst h.readHost (.ite_fst h.readHost.readPrompt (.ite_fst h.readHost.readPrompt
    (.ite_fst h.readHost.readPrompt h.readHost.readPrompt.countPrompt.uncount)))

theorem Shaped.admitFail {n reason : Nat} (h : Shaped s) : Shaped (s.admitFail n reason) :=
  h.setF.setF.writeNote

theorem Shaped.admitReq {n : Nat} (h : Shaped s) : Shaped (s.admitReq n) := by
  unfold State.admitReq
  refine .ite h.admitFail ?_
  split
  next s1 pb e1 =>
  have h1 : Shaped s1 := .of_fst e1 h.readParam
  split
  · exact h1.admitFail
  · refine .ite h1.admitFail ?_
    split
    next s2 ok2 e2 =>
    have h2 : Shaped s2 := .of_fst e2 h1.admitStop
    refine .ite h2.admitFail ?_
    split
    next s3 ok3 e3 =>
    have h3 : Shaped s3 := .of_fst e3 h2.admitRing
    refine .ite h3.admitFail ?_
    split
    next s4 ok4 toks e4 =>
    have h4 : Shaped s4 := .of_fst e4 h3.admitHist
    extract_lets s5 s6
    have h5 : Shaped s5 := .ite h4.countPrompt h4
    have h6 : Shaped s6 := h5.setFlag.setF.setF.setF
    exact .ite h4.admitFail (.ite h4.admitFail (.ite h6.queueBlocks (.ite h6 h6.frame)))

theorem execAdmission_shaped (h : Shaped s) : ShapedNext (execAdmission s) := by
  unfold execAdmission
  split
  · exact .next h
  · exact .ite (.next h.admitReq) (.next h)

theorem execLeaseTimeout_shaped {slot : Nat} (h : Shaped s) : ShapedNext (execLeaseTimeout slot s) :=
  .ite (.next h.breakLease) (.next h)

theorem execDeadlineScan_shaped (h : Shaped s) : ShapedNext (execDeadlineScan s) :=
  .ite (.next h) (.next (h.foldl fun h1 => .ite h1.enter h1))

theorem execAgeing_shaped (h : Shaped s) : ShapedNext (execAgeing s) :=
  .ite (.next h) (.next (h.foldl fun h1 => .ite h1.setF h1))

theorem Shaped.yReport {b : YBlock} {kind value : Nat} (h : Shaped s) : Shaped (s.yReport b kind value) :=
  .ite h.addSat h.writeHost.addMod

theorem Shaped.yLookup {b : YBlock} {bs : List Byte} {bad : Bool} (h : Shaped s) : Shaped (s.yLookup b bs bad) := by
  unfold State.yLookup
  dsimp only
  refine .ite h.yReport ?_
  split
  · exact h.yReport
  · exact .ite h.yReport h

theorem Shaped.ySend {b : YBlock} (h : Shaped s) : Shaped (s.ySend b) := by
  unfold State.ySend
  dsimp only
  split
  · exact .ite h.frame.send h.poisonEvents.yReport
  · exact h.frame.send

theorem Shaped.yAnswer {slot block : Nat} {bs : List Byte} {bad : Bool} (h : Shaped s) : Shaped (s.yAnswer slot block bs bad) := by
  unfold State.yAnswer
  split
  · exact h
  · exact h.frame.yLookup

theorem execYarrowBlock_shaped (h : Shaped s) : ShapedNext (execYarrowBlock s) := by
  unfold execYarrowBlock
  split
  · exact .next h
  · refine .ite (.next h) ?_
    refine .ite (.ite (.next h.frame.addSat.yReport) (.next h.frame.ySend)) ?_
    refine .ite ?_ ?_
    · exact .next h.frame.addSat.yReport
    · exact .ite (.next h.frame.setF.setF.addSat.yReport) (.next h.frame.setF.setF.ySend)

theorem execYarrowReport_shaped (h : Shaped s) : ShapedNext (execYarrowReport s) := by
  unfold execYarrowReport
  split
  · exact .next h
  · split
    · exact .next h
    · exact .next h.frame.pump.poisonEvents.yAnswer

end Sys2Proof.Machine
end

section
/-! SUPPORT. Plane sets, working sets, loads and history snapshots keep the shape. -/

namespace Sys2Proof.Machine

-- The default arguments of `Shaped.frame` are tactics, and each waits for the declarations before its own: in order, none holds a thread meanwhile.
set_option Elab.async false

variable {s t : State}

theorem Shaped.psFree {n : Nat} (h : Shaped s) : Shaped (s.psFree n) :=
  ((h.setReg.setFlag.foldl fun h1 => h1.setReg).setReg.frame (hpl := by simp)).advanceG

theorem Shaped.psAdopt {n : Nat} (h : Shaped s) : Shaped (s.psAdopt n) := by
  unfold State.psAdopt
  split
  · exact h.post
  · exact (h.setF.frame (hpl := by simp)).advanceG

theorem Shaped.writePsStat {n : Nat} {v : Word64} (h : Shaped s) : Shaped (s.writePsStat n v) :=
  .ite h.setF.psFree (.ite h.setF.setF.setF.psAdopt h.setF.setF.setF)

theorem Shaped.leaveWith {n : Nat} {cause : Option Nat} {exc : Bool} (h : Shaped s) : Shaped (s.leaveWith n cause exc) := by
  unfold State.leaveWith
  refine .ite h ?_
  refine Shaped.foldl ?_ fun h5 => ?_
  · split
    · exact ((h.setBit.advanceG.foldl fun h1 => h1.setF.setF.setF).foldl fun h2 => h2.setF).frame.post
    · exact ((h.setBit.advanceG.foldl fun h3 => h3.setF.setF.setF).foldl fun h4 => h4.setF).frame
  · exact h5.post

theorem Shaped.leaveService {n cause : Nat} (h : Shaped s) : Shaped (s.leaveService n cause) :=
  h.leaveWith

theorem Shaped.joinService {n : Nat} (h : Shaped s) : Shaped (s.joinService n) :=
  .ite h h.setBit.advanceG

theorem Shaped.sealEvents {stepId queue : Nat} {l : List SealEvent} {row : Nat} (h : Shaped s) : Shaped (s.sealEvents stepId queue l row) :=
  h.foldl fun h1 => .ite h1.frame.addSat.coalesce h1.frame.addSat.post

theorem Shaped.refuseStep {f : Flight} (h : Shaped s) : Shaped (s.refuseStep f) :=
  .ite h.setFlight h.setFlight.halt.setQx

theorem execAllocateWorkingSet_shaped {ln : Nat} (h : Shaped s) : ShapedNext (execAllocateWorkingSet ln s) := by
  unfold execAllocateWorkingSet
  dsimp only
  split
  · exact .next h
  · refine .ite (.next h) ?_
    split
    · exact .next (.ite h h.refuseStep)
    · refine .ite ?_ ?_
      · exact .next (.ite h h.refuseStep)
      · exact .ite (.next h) (.next (h.foldl fun h1 => h1.dirtyPad).setFlight)

theorem Shaped.readRuns {p : StepProg} {who : Who} (h : Shaped s) : Shaped (s.readRuns p who).1 := by
  unfold State.readRuns
  split
  · exact h
  · exact h.readHost

theorem Shaped.replay {e : ScoreEntry} {b : ParamBlock} {who : Who} {row : Nat} (h : Shaped s) : Shaped (s.replay e b who row).1 :=
  Shaped.ite_fst h.readHost h.readHost

theorem Shaped.readHidden {req : Nat} {f : Flight} {r : Nat} (h : Shaped s) : Shaped (s.readHidden req f r).1 :=
  h.readHost

theorem Shaped.readBias {hb : Nat} {v : PlaneView} {who : Who} (h : Shaped s) : Shaped (s.readBias hb v who).1 :=
  Shaped.ite_fst h h.readHost

theorem Shaped.readRowMask {b : ParamBlock} {v : PlaneView} {who : Who} {row : Nat} (h : Shaped s) : Shaped (s.readRowMask b v who row).1 :=
  Shaped.ite_fst h h.readHost

theorem Shaped.readBlocks {addrs : List Nat} {who : Who} (h : Shaped s) : Shaped (s.readBlocks addrs who).1 :=
  h.foldl_fst fun h1 => h1.readParam

theorem Shaped.loadRow {f : Flight} {runs : List VRun} {blocks : List (Nat × Option ParamBlock)} {r : Nat} (h : Shaped s) :
    Shaped (s.loadRow f runs blocks r).1 := by
  unfold State.loadRow
  split
  next s1 g e1 =>
  have h1 : Shaped s1 := .of_fst e1 h.readHidden
  extract_lets
  split
  · exact h1.rowEvent
  · extract_lets serve s2 row raw cls s3
    have h3 : Shaped s3 := .ite h1.setF.rowEvent h1.setF
    split
    next blk cause e =>
    extract_lets s4
    have h4 : Shaped s4 := by
      unfold s4
      split
      exacts [h3.rowEvent, h3]
    split
    · exact h4
    · exact h4.readRowMask

theorem Shaped.loadScoreRow {f : Flight} {entries : List (ScoreEntry × Bool)} {blocks : List (Nat × Option ParamBlock)} {r : Nat} (h : Shaped s) :
    Shaped (s.loadScoreRow f entries blocks r).1 := by
  have hfail {t : State} {code row n cause slot} (ht : Shaped t) : Shaped (t.rowEvent f code row n cause slot) := ht.rowEvent
  unfold State.loadScoreRow
  dsimp only
  refine Shaped.ite_fst (hfail h.readHidden) ?_
  split
  · exact hfail h.readHidden
  · refine Shaped.ite_fst (hfail h.readHidden) ?_
    split
    next t e => exact hfail (.of_fst e h.readHidden.replay)
    next t _ e =>
      have ht : Shaped t := .of_fst e h.readHidden.replay
      exact (Shaped.ite (hfail ht) ht).readRowMask

theorem Shaped.waitStore {f : Flight} (h : Shaped s) : Shaped (s.waitStore f) :=
  .ite h h.addSat.setFlight

theorem Shaped.finishLoad {f : Flight} {runs : List VRun} {bytes : Nat} {rows : List RowState} (h : Shaped s) :
    Shaped (s.finishLoad f runs bytes rows) := by
  unfold State.finishLoad
  refine Shaped.setFlight ?_
  split
  · exact (h.foldl fun h1 => .ite h1.rowEvent h1).loadTables.readBias.readBias
  · exact (h.foldl fun h2 => .ite h2.rowEvent h2).loadTables.readBias

theorem execLoadh_shaped {ln : Nat} (h : Shaped s) : ShapedNext (execLoadh ln s) := by
  unfold execLoadh
  split
  · exact .next h
  · refine .ite (.next h) ?_
    split
    · refine .ite (.next h.waitStore) ?_
      split
      next t1 _ _ e1 =>
        have h1 : Shaped t1 := .of_fst e1 h.readHost
        split
        next t2 _ e2 =>
          have h2 : Shaped t2 := .of_fst e2 h1.readBlocks
          split
          next t3 _ e3 =>
            have h3 : Shaped t3 := .of_fst e3 (h2.foldl_fst fun h4 => h4.loadScoreRow)
            exact .next h3.finishLoad
    · refine .ite (.next h.waitStore) ?_
      split
      next t5 _ e5 =>
        have h5 : Shaped t5 := .of_fst e5 h.readRuns
        split
        next t6 _ e6 =>
          have h6 : Shaped t6 := .of_fst e6 h5.readBlocks
          split
          next t7 _ e7 =>
            have h7 : Shaped t7 := .of_fst e7 (h6.foldl_fst fun h8 => h8.loadRow)
            exact .next h7.finishLoad

theorem Shaped.rereadCons {n : Nat} {who : Who} (h : Shaped s) : Shaped (s.rereadCons n who) :=
  .ite h.readHost h.readHost.setReq

theorem Shaped.takeSlots {n k : Nat} {merge : Bool} (h : Shaped s) : Shaped (s.takeSlots n k merge).1 :=
  Shaped.ite_fst h.setReq h.addSat

theorem Shaped.callEnd {n st reason : Nat} (h : Shaped s) : Shaped (s.callEnd n st reason) :=
  .ite h h.wantEnd

theorem Shaped.vacancy {n k : Nat} {merge : Bool} (h : Shaped s) : Shaped (s.vacancy n k merge).1 := by
  refine Shaped.ite_fst ?_ ?_
  · exact .ite ((Shaped.ite h.callEnd h).callEnd) (.ite h.callEnd h)
  · exact (Shaped.ite ((Shaped.ite h.callEnd h).callEnd) (.ite h.callEnd h)).takeSlots

theorem Shaped.snapRow {f : Flight} {done : List RowState} {r : Nat} {row : RowState} (h : Shaped s) : Shaped (s.snapRow f done r row).1 := by
  unfold State.snapRow
  split
  · exact h
  · extract_lets merge run j held first
    split
    next s1 vac e1 =>
    have h1 : Shaped s1 := .of_fst e1 (.ite_fst h.vacancy h)
    split
    next s2 c bad e2 =>
    extract_lets s3 s4 s5
    have h3 : Shaped s3 := .ite (.of_fst e2 h1.countList) h1
    have h4 : Shaped s4 := .ite h3.callEnd h3
    have h5 : Shaped s5 := .ite (by split; exacts [h4.setFlight, h4]) h4
    exact h5

theorem execHistorySnapshot_shaped {ln : Nat} (h : Shaped s) : ShapedNext (execHistorySnapshot ln s) := by
  unfold execHistorySnapshot
  split
  · exact .next h
  · refine .ite (.next h) ?_
    dsimp only
    split
    · exact .next ((h.foldl fun h1 => h1.rereadCons).foldl_fst (a := (_, [])) fun h2 => h2.snapRow)
    · exact .next ((h.foldl fun h1 => h1.rereadCons).foldl_fst (a := (_, [])) fun h2 => h2.snapRow).setFlight

theorem execFillRelease_shaped {ln : Nat} (h : Shaped s) : ShapedNext (execFillRelease ln s) := by
  unfold execFillRelease
  split
  · exact .next h
  · exact .ite (.next h) (.ite (.next h.setFlight) (.next h.setFlight))

end Sys2Proof.Machine
end

section
/-! SUPPORT. The passes of a step keep the shape: screen, M0, refine, select, verify, score and gradient. -/

namespace Sys2Proof.Machine

-- The default arguments of `Shaped.frame` are tactics, and each waits for the declarations before its own: in order, none holds a thread meanwhile.
set_option Elab.async false

variable {s t : State}

theorem Shaped.writeSlice {cl byte : Nat} {bs : List Byte} (h : Shaped s) : Shaped (s.writeSlice cl byte bs) :=
  h.putPad.frame

theorem Shaped.hurtScreen {f : Flight} (h : Shaped s) : Shaped (s.hurtScreen f).1 :=
  .ite h h.bump

theorem Shaped.recordPoison {req n : Nat} {who : Who} {l : Loc} {cured : Bool} {row : Nat} (h : Shaped s) :
    Shaped (s.recordPoison req n who l cured row) := by
  unfold State.recordPoison
  split
  · exact (Shaped.ite h.issueRead.issueRead h.issueRead).poisonEvents
  · exact h

theorem Shaped.screenPoison {who : Who} {v : PlaneView} {d : Deal} {full : Bool} {cured : List RecRef} (h : Shaped s) :
    Shaped (s.screenPoison who v d full cured) := by
  refine h.foldl fun h1 => ?_
  refine .ite ?_ ?_
  · exact (h1.foldl fun h2 => h2.foldl fun h3 => h3.recordPoison).foldl fun h4 => h4.foldl fun h5 => h5.recordPoison.recordPoison
  · exact h1.foldl fun h6 => h6.foldl fun h7 => h7.recordPoison

theorem Shaped.mendStream {ln : Nat} (h : Shaped s) : Shaped (s.mendStream ln) :=
  h.mend

theorem Shaped.mendLog {f : Flight} (h : Shaped s) : Shaped (s.mendLog f) :=
  .ite h.mend h

theorem Shaped.screenSet {f : Flight} {v : PlaneView} {cured : List RecRef} (h : Shaped s) : Shaped (s.screenSet f v cured).1 :=
  h.sealEvents.screenPoison

theorem execScreen_shaped {ln : Nat} {cured : List RecRef} (h : Shaped s) : ShapedNext (execScreen ln cured s) := by
  unfold execScreen
  split
  · exact .next h
  · refine .ite (.next h) ?_
    refine .next ?_
    refine Shaped.setFlight ?_
    refine Shaped.mendLog ?_
    refine Shaped.mendStream ?_
    refine Shaped.hurtScreen ?_
    refine Shaped.screenSet ?_
    split
    · exact h.screenSet
    · exact h

theorem Shaped.teaselFail {f : Flight} {i : Nat} {r : RowState} (h : Shaped s) : Shaped (s.teaselFail f i r).1 :=
  h.rowEvent

theorem Shaped.m0Row {f : Flight} {i : Nat} {r : RowState} (h : Shaped s) : Shaped (s.m0Row f i r).1 := by
  unfold State.m0Row
  refine Shaped.ite_fst h ?_
  refine Shaped.ite_fst h.teaselFail ?_
  split
  · exact h
  · exact h
  · exact h
  · exact Shaped.ite_fst h (Shaped.ite_fst h.teaselFail h)

theorem Shaped.overRows {rows : List RowState} {g : State → Nat → RowState → State × RowState} (h : Shaped s)
    (hg : ∀ {t i r}, Shaped t → Shaped (g t i r).1) : Shaped (s.overRows rows g).1 :=
  Shaped.foldl_fst (a := (s, [])) h fun h1 => hg h1

theorem execM0Broadcast_shaped {ln : Nat} {lag : Bool} (h : Shaped s) : ShapedNext (execM0Broadcast ln lag s) := by
  unfold execM0Broadcast
  dsimp only
  split
  · exact .next h
  · exact .ite (.next h) (.next (h.overRows fun h1 => h1.m0Row).setFlight)

theorem Shaped.secondScreen {f : Flight} {cured : List RecRef} (h : Shaped s) : Shaped (s.secondScreen f cured).1 :=
  h.screenSet.hurtScreen.mendStream

theorem execSumSweep_shaped {ln : Nat} {cured : List RecRef} (h : Shaped s) : ShapedNext (execSumSweep ln cured s) := by
  unfold execSumSweep
  split
  · exact .next h
  · exact .ite (.next h) (.next (Shaped.ite_fst h.secondScreen h).setFlight)

theorem Shaped.refineRead {f : Flight} {row : Nat} {v : PlaneView} {kind id : Nat} {loc : Loc} {n : Nat} {tms : Int} {cured : List RecRef}
    (h : Shaped s) :
    Shaped (s.refineRead f row v kind id loc n tms cured).1 :=
  h.sealEvents.recordPoison

theorem Shaped.refineBias {f : Flight} {row : Nat} {fuse : Option (F32 × Nat)} {id : Nat} (h : Shaped s) :
    Shaped (s.refineBias f row fuse id).1 := by
  unfold State.refineBias
  split
  · exact h
  · exact Shaped.ite_fst h h.readHost

theorem Shaped.hurtRefine {r : RowState} {id : Nat} (h : Shaped s) : Shaped (s.hurtRefine r id).1 := by
  unfold State.hurtRefine
  split
  · exact Shaped.ite_fst h.bump h
  · exact h

theorem Shaped.refineTok {f : Flight} {i : Nat} {v : PlaneView} {fuse : Option (F32 × Nat)} {r : RowState} {g : HRow} {cured : List RecRef} {x : Tok}
    (h : Shaped s) : Shaped (s.refineTok f i v fuse r g cured x).1 := by
  unfold State.refineTok
  dsimp only
  split
  · exact h.refineRead.refineRead.refineBias.hurtRefine
  · exact .ite_fst h.refineRead.refineRead.refineBias.hurtRefine h.refineRead.refineRead.refineBias.hurtRefine

theorem Shaped.refineList {f : Flight} {i : Nat} {r : RowState} {cured : List RecRef} {ids : List Nat} (h : Shaped s) :
    Shaped (s.refineList f i r cured ids).1 := by
  unfold State.refineList
  split
  next t1 _ e1 =>
    have h1 : Shaped t1 := .of_fst e1 h.readHidden
    refine h1.foldl_fst fun h2 => ?_
    refine Shaped.ite_fst h2 ?_
    split
    · exact h2
    · exact h2.refineTok

theorem Shaped.refineRow {f : Flight} {i : Nat} {r : RowState} {scr : RowScreen} {cured : List RecRef} (h : Shaped s) :
    Shaped (s.refineRow f i r scr cured).1 := by
  unfold State.refineRow
  split
  · exact Shaped.ite_fst h.refineList (Shaped.ite_fst h.refineList.teaselFail h.refineList)
  · exact h

theorem execRefineRound_shaped {ln row : Nat} {cured : List RecRef} {late : Bool} (h : Shaped s) :
    ShapedNext (execRefineRound ln row cured late s) := by
  unfold execRefineRound
  split
  · exact .next h
  · refine .ite (.next h) ?_
    split
    · exact .next h
    · split
      · exact .ite (.next h) (.ite (.next h.setFlight) (.next h.refineRow.setFlight))
      · exact .next h

theorem execSelect_shaped {ln : Nat} (h : Shaped s) : ShapedNext (execSelect ln s) := by
  unfold execSelect
  split
  · exact .next h
  · exact .ite (.next h) (.next h.setFlight)

theorem execVerify_shaped {ln : Nat} (h : Shaped s) : ShapedNext (execVerify ln s) := by
  unfold execVerify
  split
  · exact .next h
  · exact .ite (.next h) (.next h.setFlight)

theorem Shaped.refineScored {f : Flight} {i : Nat} {r : RowState} {c : SelCtx} {cured : List RecRef} {choice : Option Nat} (h : Shaped s) :
    Shaped (s.refineScored f i r c cured choice).1 := by
  unfold State.refineScored
  dsimp only
  split
  · exact h
  · refine Shaped.ite_fst h ?_
    refine Shaped.ite_fst h ?_
    split
    · exact h.refineList
    · exact Shaped.ite_fst h.refineList (Shaped.ite_fst h.refineList h.refineList)

theorem Shaped.scoreRow {f : Flight} {cured : List RecRef} {i : Nat} {r : RowState} (h : Shaped s) : Shaped (s.scoreRow f cured i r).1 := by
  unfold State.scoreRow
  dsimp only
  split
  · exact h
  · split
    · exact h
    · exact h
    · exact Shaped.ite_fst h h.refineScored
    · exact Shaped.ite_fst h h.refineScored

theorem Shaped.finishScore {ln : Nat} (h : Shaped s) : Shaped (s.finishScore ln) := by
  unfold State.finishScore
  split
  · exact h
  · exact .ite h (Shaped.ite h.writeHost h).setFlight

theorem execScoreq_shaped {ln : Nat} {cured : List RecRef} {late : Bool} (h : Shaped s) : ShapedNext (execScoreq ln cured late s) := by
  unfold execScoreq
  dsimp only
  split
  · exact .next h
  · exact .ite (.next h) (.next (h.overRows fun h1 => h1.scoreRow).setFlight.finishScore)

theorem Shaped.refineRef {f : Flight} {cured : List RecRef} {i : Nat} {r : RowState} (h : Shaped s) : Shaped (s.refineRef f cured i r).1 := by
  unfold State.refineRef
  split
  · exact h
  · refine Shaped.ite_fst h ?_
    split
    next t1 _ e1 =>
      have h1 : Shaped t1 := .of_fst e1 h.readHidden
      split
      next t2 _ e2 =>
        have h2 : Shaped t2 := by
          refine .of_fst e2 ?_
          refine h1.foldl_fst fun h3 => ?_
          split
          · exact h3
          · exact h3.refineTok
        exact h2

theorem execKlref_shaped {ln : Nat} {cured : List RecRef} {late : Bool} (h : Shaped s) : ShapedNext (execKlref ln cured late s) := by
  unfold execKlref
  dsimp only
  split
  · exact .next h
  · exact .ite (.next h) (.next (h.overRows fun h1 => Shaped.ite_fst h1 h1.refineRef).setFlight.finishScore)

theorem Shaped.gradScreen {f : Flight} {g : GradDesc} {cured : List RecRef} (h : Shaped s) : Shaped (s.gradScreen f g cured).1 := by
  unfold State.gradScreen
  refine Shaped.mendStream ?_
  refine Shaped.hurtScreen ?_
  refine Shaped.screenSet ?_
  split
  · exact Shaped.ite_fst h.screenSet h
  · exact h

theorem Shaped.writeRows {ln base stride : Nat} {rows : List (List Byte)} (h : Shaped s) : Shaped (s.writeRows ln base stride rows) :=
  h.foldl fun h1 => h1.writeHost

theorem execGrad_shaped {ln : Nat} {cured : List RecRef} (h : Shaped s) : ShapedNext (execGrad ln cured s) := by
  unfold execGrad
  split
  · exact .next h
  · split
    · exact .next h
    · exact .ite (.next h) (.next h.gradScreen.frame.writeRows.bump.setFlight.finishScore)

theorem execGradTransposedPass_shaped {ln : Nat} {cured : List RecRef} (h : Shaped s) : ShapedNext (execGradTransposedPass ln cured s) := by
  unfold execGradTransposedPass
  split
  · exact .next h
  · split
    · exact .next h
    · exact .ite (.next h) (.next h.sealEvents.screenPoison.mendStream.writeRows.setFlight.finishScore)

end Sys2Proof.Machine
end

section
/-! SUPPORT. EMIT, the completion of a step and its merges keep the shape. -/

namespace Sys2Proof.Machine

-- The default arguments of `Shaped.frame` are tactics, and each waits for the declarations before its own: in order, none holds a thread meanwhile.
set_option Elab.async false

variable {s t : State}

theorem Shaped.joinToken {f : Flight} {n tok : Nat} (h : Shaped s) : Shaped (s.joinToken f n tok).1 :=
  Shaped.ite_fst h.addHist h.addHist.setF.pushTail

theorem Shaped.stopHere {n : Nat} {reason : Option Nat} (h : Shaped s) : Shaped (s.stopHere n reason).1 := by
  unfold State.stopHere
  split
  · exact Shaped.ite_fst h.stopReq h
  · exact h

theorem Shaped.formRecord {e : Emission} {f : Flight} {row n : Nat} {o : RowOut} {acc : Bool} (h : Shaped s) :
    Shaped (s.formRecord e f row n o acc).1 := by
  have hfault {t : State} (ht : Shaped t) : Shaped (if t.flag (fE_PRETRY n) then t else t.callEnd n 7 7) := .ite ht ht.callEnd
  have hlate : Shaped (if s.isLate f n then s.callEnd n 6 6 else s) := .ite h.callEnd h
  unfold State.formRecord
  dsimp only
  refine Shaped.ite_fst (.ite (hfault hlate) hlate) ?_
  dsimp only
  refine Shaped.setF (Shaped.addMod ?_)
  split
  · exact hfault hlate
  · exact hlate.stopHere
  · exact hlate
  · split
    next t _ e => exact (Shaped.of_fst e hlate.joinToken).callEnd
    next t r e => exact (Shaped.of_fst e hlate.joinToken).stopHere

theorem Shaped.retain {f : Flight} {n : Nat} {r : RowState} {o : RowOut} (h : Shaped s) : Shaped (s.retain f n r o) := by
  unfold State.retain
  split
  · exact h
  · exact .ite h.frame.mend h

theorem Shaped.emitRetain {e : Emission} {f : Flight} {row n : Nat} {r : RowState} {o : RowOut} (h : Shaped s) :
    Shaped (s.emitRetain e f row n r o).1 :=
  Shaped.ite_fst h (.ite ((Shaped.ite h.retain h).callEnd) (.ite h.retain h))

theorem Shaped.runRecords {e : Emission} {f : Flight} {v : VRun} {slot n j : Nat} (h : Shaped s) : Shaped (s.runRecords e f v slot n j).1 := by
  induction n generalizing s e j with
  | zero => exact h.formRecord
  | succ n ih => exact Shaped.ite_fst h.formRecord (Shaped.ite_fst h.formRecord (ih h.formRecord))

theorem Shaped.adapt {n : Nat} {v : VRun} {cut : Bool} (h : Shaped s) : Shaped (s.adapt n v cut) :=
  .ite h (.ite (.ite (.ite h.setF.setF h.setF) h.setF) (.ite h (.ite h.setF.setF h.setF)))

theorem Shaped.emitPoisonRun {e : Emission} {f : Flight} {v : VRun} {n : Nat} (h : Shaped s) : Shaped (s.emitPoisonRun e f v n).1 :=
  h.spillTable.callEnd.formRecord

theorem Shaped.emitRecords {e : Emission} {f : Flight} {v : VRun} {n : Nat} (h : Shaped s) : Shaped (s.emitRecords e f v n).1 :=
  Shaped.ite_fst (p := ((s.emitPoisonRun e f v n).1, _)) (q := ((s.runRecords e f v n v.na 0).1, _)) h.emitPoisonRun h.runRecords

theorem Shaped.emitRun {e : Emission} {f : Flight} {v : VRun} (h : Shaped s) : Shaped (s.emitRun e f v).1 := by
  unfold State.emitRun
  dsimp only
  split
  · exact h
  · exact Shaped.ite_fst h.freeRets (.ite h.emitRecords.freeRets.adapt h.emitRecords.freeRets)

theorem Shaped.emitRow {x : State × Emission × List VRun} {f : Flight} {i : Nat} {r : RowState} (h : Shaped x.1) :
    Shaped (State.emitRow x f i r).1 := by
  unfold State.emitRow
  dsimp only
  split
  · exact Shaped.ite_fst h.emitRun h
  · split
    · exact h
    · exact Shaped.ite_fst h.emitRetain (Shaped.ite_fst h h.formRecord)

theorem Shaped.releaseRings {f : Flight} (h : Shaped s) : Shaped (s.releaseRings f) :=
  h.foldl fun h1 => h1.setReq

theorem Shaped.writeProd {ln n : Nat} (h : Shaped s) : Shaped (s.writeProd ln n) :=
  h.writeHost

theorem Shaped.issueEmission {f : Flight} {e : Emission} (h : Shaped s) : Shaped (s.issueEmission f e) := by
  unfold State.issueEmission
  extract_lets w s1 s2 s3 vt s4
  have h1 : Shaped s1 := .ite h.writeHost h
  have h2 : Shaped s2 := .ite (h1.foldl fun h => h.writeHost) h1
  have h3 : Shaped s3 := h2.foldl fun h => h.writeHost
  have h4 : Shaped s4 := .ite (h3.foldl fun h => h.writeHost) h3
  exact .ite (h4.foldl fun h => .ite h h.writeProd) h4

theorem Shaped.emitNow {f : Flight} (h : Shaped s) : Shaped (s.emitNow f) := by
  have hrows {e l} := (h.releaseRings (f := f)).foldl_fst (l := l) (a := (s.releaseRings f, e, f.runs))
    (f := fun x (q : RowState × Nat) => State.emitRow x f q.2 q.1) fun h => Shaped.emitRow h
  unfold State.emitNow
  dsimp only
  split
  · exact hrows.issueEmission
  · exact hrows.issueEmission.setFlight

theorem execEmit_shaped {ln : Nat} (h : Shaped s) : ShapedNext (execEmit ln s) := by
  unfold execEmit
  split
  · exact .next h
  · exact .ite (.next h) (.ite (.next h.emitNow) (.next h.setFlight))

theorem execEmitConsRetry_shaped {ln : Nat} (h : Shaped s) : ShapedNext (execEmitConsRetry ln s) := by
  unfold execEmitConsRetry
  split
  · exact .next h
  · refine .ite ?_ ?_
    · exact .next h
    · exact .ite (.next (h.foldl fun h1 => h1.rereadCons).emitNow) (.next (h.foldl fun h2 => h2.rereadCons))

theorem Shaped.finishStep {f : Flight} (h : Shaped s) : Shaped (s.finishStep f) := by
  unfold State.finishStep
  dsimp only
  split
  · exact ((h.foldl fun h1 => h1.setF).foldl fun h2 => h2.queueBlocks.settle).foldl fun h3 => h3.closeWindow
  · exact (((h.foldl fun h4 => h4.setF).foldl fun h5 => h5.queueBlocks.settle).foldl fun h6 => h6.closeWindow).setFlight

theorem Shaped.writeStatus {f : Flight} (h : Shaped s) : Shaped (s.writeStatus f) := by
  unfold State.writeStatus
  dsimp only
  generalize hu : State.mend _ _ = u
  have h1 : Shaped u := by rw [← hu]; exact h.bump.writeHost.addMod.mend
  exact h1.frame

theorem Shaped.closeEmit {f : Flight} (h : Shaped s) : Shaped (s.closeEmit f) :=
  .ite h h.finishStep

theorem execCompletionStatus_shaped {ln : Nat} (h : Shaped s) : ShapedNext (execCompletionStatus ln s) := by
  unfold execCompletionStatus
  dsimp only
  split
  · exact .next h
  · refine .ite (.next h) ?_
    split
    · exact .next h.closeEmit
    · exact .ite (.next h.closeEmit.writeStatus) (.next h.closeEmit)

theorem Shaped.sendTo {m : MergeCtx} {f : Flight} {recs : List (List Byte)} {base : Nat} (h : Shaped s) : Shaped (s.sendTo m f recs base) :=
  h.foldl fun h1 => h1.writeBy

theorem Shaped.mergeCounts {ln round : Nat} (h : Shaped s) : Shaped (s.mergeCounts ln round) := by
  unfold State.mergeCounts
  split
  · exact h
  · split
    · exact h
    · exact h.foldl fun h1 => h1.sendAtom

theorem execXmerge_shaped {ln : Nat} (h : Shaped s) : ShapedNext (execXmerge ln s) := by
  unfold execXmerge
  split
  · exact .next h
  · split
    · exact .next h
    · refine .ite (.next h) ?_
      refine .next ?_
      refine .ite ?_ ?_
      · exact (h.foldl fun h1 => h1.sendTo).setFlight.mergeCounts
      · exact (h.foldl fun h2 => h2.sendTo).setFlight

theorem Shaped.mergeRead {m : MergeCtx} {f : Flight} {c r : Nat} (h : Shaped s) : Shaped (s.mergeRead m f c r).1 :=
  h.readHost

theorem Shaped.mergeRow {m : MergeCtx} {f : Flight} {i : Nat} {wo : Option Nat} (h : Shaped s) : Shaped (s.mergeRow m f i wo).1 := by
  unfold State.mergeRow
  dsimp only
  refine h.foldl_fst fun h1 => ?_
  split
  · exact h1.mergeRead.post
  · exact h1.mergeRead

theorem Shaped.secondPass {f : Flight} {cured : List RecRef} {i : Nat} {r : RowState} {mid : MergeMid} (h : Shaped s) :
    Shaped (s.secondPass f cured i r mid).1 := by
  unfold State.secondPass
  dsimp only
  split
  · exact h.refineList
  · exact Shaped.ite_fst h.refineList h.refineList.refineScored

theorem Shaped.mergeFirst {m : MergeCtx} {f : Flight} {cured : List RecRef} {i : Nat} {r : RowState} (h : Shaped s) :
    Shaped (s.mergeFirst m f cured i r).1 := by
  unfold State.mergeFirst
  dsimp only
  split
  · exact h.mergeRow
  · refine Shaped.ite_fst h.mergeRow ?_
    split
    · exact Shaped.ite_fst h.mergeRow.secondPass h.mergeRow
    · exact h.mergeRow.secondPass
    · exact h.mergeRow

theorem Shaped.mergeSecond {m : MergeCtx} {f : Flight} {i : Nat} {r : RowState} (h : Shaped s) : Shaped (s.mergeSecond m f i r).1 := by
  unfold State.mergeSecond
  dsimp only
  split
  · split
    · exact h.mergeRow
    · exact h.mergeRow
  · exact h

theorem execMergeRoundComplete_shaped {ln : Nat} {cured : List RecRef} {late : Bool} (h : Shaped s) :
    ShapedNext (execMergeRoundComplete ln cured late s) := by
  unfold execMergeRoundComplete
  dsimp only
  split
  · exact .next h
  · split
    · exact .next h
    · exact .ite (.next h) (.next (h.overRows fun h1 => Shaped.ite_fst h1.mergeFirst h1.mergeSecond).setFlight.finishScore)

end Sys2Proof.Machine
end

section
/-! SUPPORT. The front of the queues keeps the shape: fetch, decode and the queue instructions. -/

namespace Sys2Proof.Machine

-- The default arguments of `Shaped.frame` are tactics, and each waits for the declarations before its own: in order, none holds a thread meanwhile.
set_option Elab.async false

variable {s t : State}

theorem Shaped.readDesc {a n : Nat} {who : Who} (h : Shaped s) : Shaped (s.readDesc a n who).1 :=
  h.readHost

theorem Shaped.stateOk {who : Who} {p : StepProg} {x : GInstr} (h : Shaped s) : Shaped (s.stateOk who p x).1 := by
  unfold State.stateOk
  dsimp only
  split
  · exact Shaped.ite_fst h h.readDesc
  · exact h
  · exact h
  · exact h
  · exact h
  · exact h
  · exact h.readDesc
  · refine Shaped.ite_fst h ?_
    split
    · exact h.readDesc
    · exact h.readDesc.readDesc
  · exact h

theorem checkFour_shaped {who : Who} {gated : Bool} {cls : List Nat} {i : Nat} {l : List GInstr} {p : StepProg} (h : Shaped s) :
    Shaped (checkFour who gated cls i l s p).1 := by
  induction l generalizing s i p with
  | nil => exact h
  | cons g r ih =>
    unfold checkFour
    dsimp only
    split
    · exact h.stateOk
    · exact Shaped.ite_fst (ih h.stateOk) h.stateOk

theorem Shaped.place {q : Nat} {d : Decoded} (h : Shaped s) : Shaped (s.place q d) :=
  h.setQx.frame.refresh

theorem Shaped.decodeStep {q len : Nat} {code : List GInstr} {p : StepProg} (h : Shaped s) : Shaped (s.decodeStep q len code p) := by
  unfold State.decodeStep
  dsimp only
  split
  next t i e => exact (Shaped.of_fst e (checkFour_shaped h)).halt
  next t p e => exact (Shaped.of_fst e (checkFour_shaped h)).place

theorem Shaped.decodeInsn {q : Nat} {g : GInstr} (h : Shaped s) : Shaped (s.decodeInsn q g) := by
  unfold State.decodeInsn
  dsimp only
  split
  · split
    · exact h.readDesc.halt
    · split
      · exact h.readDesc.halt
      · exact h.readDesc.place
  · exact h.frame.place
  · exact h.place

theorem Shaped.fetchPoison {q : Nat} (h : Shaped s) : Shaped (s.fetchPoison q) :=
  h.halt

theorem execSlotFetchArrival_shaped {q : Nat} (h : Shaped s) : ShapedNext (execSlotFetchArrival q s) := by
  refine .ite ?_ ?_
  · exact .next h
  · exact .ite (.next (.ite h.readHost.setQx.fetchPoison h.readHost.setQx)) (.next h.readHost.setQx.refresh)

theorem execDecode_shaped {q : Nat} (h : Shaped s) : ShapedNext (execDecode q s) := by
  unfold execDecode
  refine .ite (.next h.fetchPoison) ?_
  refine .ite (.next h) ?_
  refine .ite ?_ ?_
  · split
    · exact .next h.refresh
    · exact .next h.halt
    · exact .next h.decodeStep
  · split
    · exact .next h.refresh
    · exact .next h.halt
    · exact .next h.decodeInsn

theorem execG2g3Descriptor_shaped {q : Nat} (h : Shaped s) : ShapedNext (execG2g3Descriptor q s) := by
  unfold execG2g3Descriptor
  refine .ite (.next h.fetchPoison) ?_
  refine .ite (.next h) ?_
  refine .ite (.next h.halt) ?_
  refine .ite (.next h) ?_
  refine .ite ?_ ?_
  · refine .ite (.next h.halt) ?_
    split
    · exact .next h.halt
    · exact .next h.decodeStep
  · exact .ite (.next h.place) (.next h.halt)

theorem Shaped.handOver {q : Nat} {want : GInstr → Bool} (h : Shaped s) : Shaped (s.handOver q want) := by
  unfold State.handOver
  split
  · exact h
  · split
    · exact h
    · exact h.setQx

theorem execStepOpen_shaped {q : Nat} (h : Shaped s) : ShapedNext (execStepOpen q s) :=
  .next h.handOver

theorem execStepEnd_shaped {q : Nat} (h : Shaped s) : ShapedNext (execStepEnd q s) :=
  .next h.handOver

theorem execRows_shaped {q : Nat} (h : Shaped s) : ShapedNext (execRows q s) :=
  .next h.handOver

theorem execScreenInstr_shaped {q : Nat} (h : Shaped s) : ShapedNext (execScreenInstr q s) :=
  .next h.handOver

theorem execRefine_shaped {q : Nat} (h : Shaped s) : ShapedNext (execRefine q s) :=
  .next h.handOver

theorem execFuse_shaped {q : Nat} (h : Shaped s) : ShapedNext (execFuse q s) :=
  .next h.handOver

theorem execBias_shaped {q : Nat} (h : Shaped s) : ShapedNext (execBias q s) :=
  .next h.handOver

theorem execPenal_shaped {q : Nat} (h : Shaped s) : ShapedNext (execPenal q s) :=
  .next h.handOver

theorem execTemp_shaped {q : Nat} (h : Shaped s) : ShapedNext (execTemp q s) :=
  .next h.handOver

theorem execMaskUse_shaped {q : Nat} (h : Shaped s) : ShapedNext (execMaskUse q s) :=
  .next h.handOver

theorem execGumbel_shaped {q : Nat} (h : Shaped s) : ShapedNext (execGumbel q s) :=
  .next h.handOver

theorem execDraw_shaped {q : Nat} (h : Shaped s) : ShapedNext (execDraw q s) :=
  .next h.handOver

theorem Shaped.recheckAll (h : Shaped s) : Shaped s.recheckAll := by
  unfold State.recheckAll
  refine h.foldl fun h1 => ?_
  split
  · split
    · refine .ite ?_ ?_
      · split
        · exact h1.halt
        · exact h1.setQx
      · exact h1
    · exact h1
  · exact h1

theorem Shaped.writeTail {q t : Nat} (h : Shaped s) : Shaped (s.writeTail q t) :=
  .ite h.setF (.ite (.ite h h.halt) (.ite h.setF.halt h.setF.refresh))

theorem Shaped.dropQueue {q : Nat} (h : Shaped s) : Shaped (s.dropQueue q) :=
  h.setQx.frame

theorem Shaped.startQueue {q : Nat} (h : Shaped s) : Shaped (s.startQueue q) :=
  h.setF.setF.setF.setF.setF.setF.setF.dropQueue.refresh

theorem Shaped.stopQueue {q : Nat} (h : Shaped s) : Shaped (s.stopQueue q) :=
  h.setF.setF.dropQueue

theorem Shaped.restartQueue {q : Nat} {skip : Bool} (h : Shaped s) : Shaped (s.restartQueue q skip) :=
  .ite ((Shaped.ite h h.setQx).addMod.setF.halt) (Shaped.ite h h.setQx).addMod.setF.refresh

theorem Shaped.writeAttr {q : Nat} {v : Word64} (h : Shaped s) : ShapedSome (s.writeAttr q v) := by
  refine .ite ?_ ?_
  · exact .ite (.some h.setF.setF) (.ite (.some h.setF.setF.startQueue) .none)
  · exact .ite (.ite (.some h.setF.restartQueue) (.some h.setF)) (.ite (.some h.setF.stopQueue) .none)

theorem Shaped.putHold {q : Nat} {c' : Hold} (h : Shaped s) : Shaped (s.putHold q c') :=
  h.setQx

theorem execNop_shaped {q : Nat} (h : Shaped s) : ShapedNext (execNop q s) := by
  unfold execNop
  split
  · exact .next h.passItem
  · exact .next h

theorem execHalt_shaped {q : Nat} (h : Shaped s) : ShapedNext (execHalt q s) := by
  unfold execHalt
  split
  · exact .next h.passItem.halt
  · exact .next h

theorem execWaitq_shaped {q : Nat} (h : Shaped s) : ShapedNext (execWaitq q s) := by
  unfold execWaitq
  split
  · exact .ite (.next h.passItem) (.next h)
  · exact .next h

theorem Shaped.remoteErr {q slot op addr status : Nat} (h : Shaped s) : Shaped (s.remoteErr q slot op addr status) :=
  h.post

theorem Shaped.addRemote {q : Nat} (h : Shaped s) : Shaped (s.addRemote q) :=
  h.setQx.frame

theorem Shaped.putRemote {q op a : Nat} {v : Word64} (h : Shaped s) : Shaped (s.putRemote q op a v) :=
  .ite h.remoteErr h.writeHost.addRemote

theorem Shaped.remoteDone {q slot op addr : Nat} {st : Option Nat} (h : Shaped s) : Shaped (s.remoteDone q slot op addr st) := by
  unfold State.remoteDone
  split
  · exact h.setQx.remoteErr
  · exact h.setQx

theorem Shaped.keepPart {id addr : Nat} {bs : List Byte} (h : Shaped s) : Shaped (s.keepPart id addr bs) :=
  h.frame

theorem Shaped.getDone {id q slot src dst n : Nat} {st : Option Nat} (h : Shaped s) : Shaped (s.getDone id q slot src dst n st) := by
  unfold State.getDone
  split
  · exact h.frame.remoteDone
  · exact .ite h.frame.writeHost h.frame.writeHost.remoteDone

theorem Shaped.getRemote {q n src dst : Nat} (h : Shaped s) : Shaped (s.getRemote q n src dst) := by
  refine .ite ?_ ?_
  · exact (h.addRemote.foldl fun h1 => h1.poisonEvents).getDone
  · exact (h.addRemote.foldl fun h2 => h2.poisonEvents).foldl fun h3 => h3.send

theorem execPut_shaped {q : Nat} (h : Shaped s) : ShapedNext (execPut q s) := by
  unfold execPut
  split
  · exact .next h.putRemote.passItem
  · exact .next h

theorem execGet_shaped {q : Nat} (h : Shaped s) : ShapedNext (execGet q s) := by
  unfold execGet
  split
  · exact .next h.getRemote.passItem
  · exact .next h

theorem Shaped.hostFadd {a v : Nat} (h : Shaped s) : Shaped (s.hostFadd a v) :=
  .ite h h.putMem

theorem execSignal_shaped {q : Nat} (h : Shaped s) : ShapedNext (execSignal q s) := by
  unfold execSignal
  split
  · refine .ite ?_ ?_
    · exact .next h
    · exact .next (Shaped.ite ((Shaped.ite h.hostFadd h).sendAtom.addRemote) h.putRemote).passItem
  · exact .next h

theorem Shaped.sendOrds {q : Nat} (h : Shaped s) : Shaped (s.sendOrds q) :=
  (h.foldl fun h1 => h1.send).setQx

theorem execFence_shaped {q : Nat} (h : Shaped s) : ShapedNext (execFence q s) := by
  unfold execFence
  split
  · refine .ite (.next h) ?_
    refine .ite (.next h.passItem) ?_
    split
    · exact .next h.passItem
    · exact .next h
    · exact .next h.sendOrds
  · exact .next h

theorem Shaped.ackOrd {ch : Nat} (h : Shaped s) : Shaped (s.ackOrd ch) := by
  unfold State.ackOrd
  split
  · exact h
  · split
    · exact h.frame.pump.setQx
    · exact h.frame.pump

theorem execLaunchat_shaped {q : Nat} (h : Shaped s) : ShapedNext (execLaunchat q s) := by
  unfold execLaunchat
  split
  · exact .next h.passItem.putHold
  · exact .next h

theorem execLaunchatSatisfied_shaped {q : Nat} (h : Shaped s) : ShapedNext (execLaunchatSatisfied q s) :=
  .next (Shaped.ite h.setQx h).frame

theorem Shaped.arrive (h : Shaped s) : Shaped s.arrive := by
  unfold State.arrive
  split
  · exact h
  · exact .ite h (.ite (.ite h h.setF.frame) (.ite h.frame h))

theorem Shaped.takeBarrier {b : Nat} (h : Shaped s) : Shaped (s.takeBarrier b) :=
  .ite h.frame.arrive h

theorem execBarrier_shaped {q : Nat} (h : Shaped s) : ShapedNext (execBarrier q s) := by
  unfold execBarrier
  split
  · exact .ite (.next h.passItem) (.ite (.next h.takeBarrier.passItem.putHold) (.next h.takeBarrier))
  · exact .next h

theorem Shaped.releaseBarrier {b : Nat} (h : Shaped s) : Shaped (s.releaseBarrier b) := by
  unfold State.releaseBarrier
  dsimp only
  refine Shaped.setF ?_
  refine Shaped.frame ?_ (hqs := by simp)
  refine h.foldl fun h1 => ?_
  split
  · exact .ite (.ite h1.passItem h1.setQx) h1
  · exact h1

theorem execBarrierRelease_shaped (h : Shaped s) : ShapedNext (execBarrierRelease s) := by
  unfold execBarrierRelease
  split
  · refine .next ?_
    split
    · exact h.frame.releaseBarrier.takeBarrier
    · exact h.frame.releaseBarrier
  · exact .next h

theorem execSyncBarDn_shaped {level : Bool} (h : Shaped s) : ShapedNext (execSyncBarDn level s) :=
  .ite (.next h.frame) (.next h.frame.frame)

theorem execSyncBarCup_shaped {child : Nat} {level : Bool} (h : Shaped s) : ShapedNext (execSyncBarCup child level s) := by
  have h1 : Shaped { s with sync := { s.sync with cup := s.sync.cup.set child level } } := h.frame (hsy := by simp)
  exact .ite (.next h1.arrive) (.next h1)

theorem execRepack_shaped {q : Nat} (h : Shaped s) : ShapedNext (execRepack q s) := by
  unfold execRepack
  split
  · exact .ite (.next h.passItem) (.next h.frame)
  · exact .next h

theorem execMaskLoad_shaped {q : Nat} (h : Shaped s) : ShapedNext (execMaskLoad q s) := by
  unfold execMaskLoad
  split
  · exact .ite (.next h) (.next h.frame.setQx.passItem)
  · exact .next h

end Sys2Proof.Machine
end

section
/-! SUPPORT. The link and the responses of its ports keep the shape. -/

namespace Sys2Proof.Machine

-- The default arguments of `Shaped.frame` are tactics, and each waits for the declarations before its own: in order, none holds a thread meanwhile.
set_option Elab.async false

variable {s t : State}

theorem Shaped.epochCheck {snd : Sender} (h : Shaped s) : ShapedSome (s.epochCheck snd) :=
  .ite (.some h) (.ite (.some h) (.ite (.some h.frame.breakAgent) .none))

theorem Shaped.tookMgmt (h : Shaped s) : Shaped s.tookMgmt :=
  .ite h.frame h

theorem ShapedSome.getD {o : Option State} (ho : ShapedSome o) (h : Shaped s) : Shaped (o.getD s) := by
  cases o with
  | none => exact h
  | some t => exact ho t rfl

theorem execEpochNote_shaped {agent aepoch : BitVec 16} (h : Shaped s) : ShapedNext (execEpochNote agent aepoch s) :=
  .ite (.next (h.epochCheck.getD h).tookMgmt) (.next h)

theorem Shaped.tell {sub arg : Nat} (h : Shaped s) : Shaped (s.tell sub arg) :=
  h.frame

theorem Shaped.tellMc {n : Nat} (h : Shaped s) : Shaped (s.tellMc n) :=
  h.frame (hli := by simp [LinkX.shape, LinkX.carryCap])

theorem Shaped.linkFail {cause : Nat} (h : Shaped s) : Shaped (s.linkFail cause) :=
  h.setF.setF.frame

theorem Shaped.linkReset (h : Shaped s) : linkReset.shape = s.link.shape := by
  simp [LinkX.shape, h.hdr, h.dat, h.mcReq, h.mcData, h.mcRet, Machine.linkReset]

theorem Shaped.startNegotiate (h : Shaped s) : Shaped s.startNegotiate :=
  (h.frame (hli := h.linkReset)).setF.setF.setF.setF.tell.foldl fun h1 => h1.tellMc

theorem execCapResend_shaped (h : Shaped s) : ShapedNext (execCapResend s) :=
  .ite (.next ((Shaped.ite h.tell h).foldl fun h1 => h1.tellMc)) (.next (.ite h.tell h))

theorem Shaped.tryCredit (h : Shaped s) : Shaped s.tryCredit := by
  unfold State.tryCredit
  split
  · exact .ite h (.ite h.linkFail (h.setF.setF.foldl fun h1 => h1.tell))
  · exact h

theorem Shaped.tryOnline (h : Shaped s) : Shaped s.tryOnline :=
  .ite ((h.setF.setFlag.foldl fun h1 => h1.joinService).frame) h

theorem Shaped.hostCap {cap : Word64} {agent aepoch : BitVec 16} (h : Shaped s) : Shaped (s.hostCap cap agent aepoch) := by
  unfold State.hostCap
  dsimp only
  refine .ite h ?_
  split
  · exact h.setReg.setF.frame.linkFail
  · exact h.setReg.setF.frame.setFlag.setF.tell.frame.tryCredit

theorem Shaped.setLink {l : LinkX} (h : Shaped s) (hl : l.shape = s.link.shape) : Shaped { s with link := l } := h.frame (hli := hl)

theorem Shaped.channelCap {n : Nat} {cap : Word64} (h : Shaped s) : Shaped (s.channelCap n cap) := by
  refine .ite h ?_
  have h1 {c} := h.setLink (l := { (s.link.takeCap n Header.cap.word (leBytes 8 cap.toNat)) with capMc := c }) (by simp [LinkX.shape, LinkX.takeCap])
  exact .ite h1 (h1.foldl fun h2 => h2.setF.setFlag.setFlag.setFlag).tryOnline

theorem execCapReceive_shaped {port : Port} {cap : Word64} {agent aepoch : BitVec 16} (h : Shaped s) :
    ShapedNext (execCapReceive port cap agent aepoch s) := by
  unfold execCapReceive
  split
  · exact .next h.hostCap
  · exact .next h.channelCap

theorem execModeAckReceive_shaped {mode : Nat} (h : Shaped s) : ShapedNext (execModeAckReceive mode s) :=
  .ite (.next h.frame.tryCredit) (.next h)

theorem LinkX.shape_credits (l : LinkX) (i : List (Nat × Nat × Nat)) (k a b : Nat) :
    { l with inits := i, hdr := l.hdr.set k a, dat := l.dat.set k b }.shape = l.shape := by simp [LinkX.shape]

theorem execCreditInitReceive_shaped {vc hdr dat : Nat} (h : Shaped s) : ShapedNext (execCreditInitReceive vc hdr dat s) := by
  refine .ite (.next h) ?_
  have h1 := h.setLink (LinkX.shape_credits s.link (s.link.inits ++ [(vc, hdr, dat)]) (vcIndex vc) hdr dat)
  exact .ite (.next h1.linkFail) (.next h1.tryOnline)

theorem execNegotiateTimeout_shaped (h : Shaped s) : ShapedNext (execNegotiateTimeout s) :=
  .ite (.next h.linkFail) (.next h)

theorem execCreditReturn_shaped {vc hdr dat : Nat} (h : Shaped s) : ShapedNext (execCreditReturn vc hdr dat s) := by
  unfold execCreditReturn
  split
  · exact .next h
  · exact .next (h.frame (hli := LinkX.shape_credits ..)).pump

theorem Shaped.emitAcked {ln : Nat} {rec : Option Nat} (h : Shaped s) : Shaped (s.emitAcked ln rec) := by
  unfold State.emitAcked
  dsimp only
  split
  · refine .ite ?_ ?_
    · refine Shaped.setFlight ?_
      split
      · exact .ite h h.writeProd
      · exact h
    · split
      · exact .ite h h.writeProd
      · exact h
  · split
    · exact .ite h h.writeProd
    · exact h

theorem Shaped.remoteOver {x : Purpose2} (h : Shaped s) : Shaped (s.remoteOver x) := by
  unfold State.remoteOver
  split
  · exact h.remoteDone
  · exact h.getDone
  · exact h

theorem Shaped.failOp {w : Purpose2} {status : Nat} (h : Shaped s) : Shaped (s.failOp w status) :=
  h.frame

theorem Shaped.remotePart {w : Purpose2} {status : Nat} {bad : Bool} (h : Shaped s) : Shaped (s.remotePart w status bad) :=
  .ite h.remoteOver (.ite h.failOp h)

theorem Shaped.keepGet {o : Outstanding} {a : Nat} {bs : List Byte} (h : Shaped s) : Shaped (s.keepGet o a bs) := by
  unfold State.keepGet
  split
  · exact h.keepPart
  · exact h

theorem Shaped.retire {o : Outstanding} {status : Nat} {mark : Mark} {bs : List Byte} (h : Shaped s) : Shaped (s.retire o status mark bs) := by
  unfold State.retire
  split
  · exact h.frame.pump.ackEvent
  · exact h.frame.pump.frame.noteTail
  · exact h.frame.pump.remotePart
  · exact (Shaped.ite (.ite h.frame.pump.putMem.keepGet h.frame.pump) h.frame.pump.poisonEvents).remotePart
  · exact h.frame.pump.setQx
  · exact h.frame.pump.emitAcked
  · exact h.frame.pump.emitAcked
  · exact h.frame.pump.emitAcked
  · exact (Shaped.ite h.frame.pump h.frame.pump.mergeCounts).emitAcked
  · exact h.frame.pump.emitAcked
  · exact (Shaped.ite h.frame.pump h.frame.pump.poisonEvents).yAnswer
  · exact h.frame.pump
  · exact h.frame.pump

theorem Shaped.putAnswer {addr : Nat} {bs : List Byte} {mark : Mark} (h : Shaped s) : Shaped (s.putAnswer addr bs mark) :=
  (Shaped.ite h.putMem h).frame

theorem execHResponse_shaped {tag status : Nat} {pois : Bool} {addr : Nat} {words : List Word64} (h : Shaped s) :
    ShapedNext (execHResponse tag status pois addr words s) := by
  unfold execHResponse
  dsimp only
  split
  · exact .ite (.next h.putAnswer) (.next h)
  · exact .next h.retire

theorem Shaped.putGranule {addr : Nat} {data : List Byte} {mark : Mark} (h : Shaped s) : Shaped (s.putGranule addr data mark) :=
  (Shaped.ite h.putMem h).frame

theorem Shaped.getGranule {o : Outstanding} {addr : Nat} {data : List Byte} {mark : Mark} (h : Shaped s) :
    Shaped (s.getGranule o addr data mark) := by
  refine .ite ?_ ?_
  · exact (Shaped.ite h.poisonEvents h.keepGet).frame.pump.remotePart
  · exact .ite ((Shaped.ite h.poisonEvents h.keepGet).failOp) (.ite h.poisonEvents h.keepGet)

theorem Shaped.tookGranule {ch tag : Nat} {data : List Byte} {mark : Mark} (h : Shaped s) : Shaped (s.tookGranule ch tag data mark) :=
  h.bump.frame (hli := LinkX.shape_takeMc ..)

theorem execMcReadResponse_shaped {ch tag addr : Nat} {data : List Byte} {mark : Mark} (h : Shaped s) :
    ShapedNext (execMcReadResponse ch tag addr data mark s) := by
  unfold execMcReadResponse
  dsimp only
  refine .ite (.next h) ?_
  split
  · exact .next h.tookGranule.putGranule
  · split
    · exact .ite (.next h.tookGranule.putGranule.getGranule) (.next h.tookGranule.putGranule)
    · exact .next h.tookGranule.putGranule

theorem execMcWriteAck_shaped {ch tag status : Nat} (h : Shaped s) : ShapedNext (execMcWriteAck ch tag status s) := by
  unfold execMcWriteAck
  split
  · exact .next h
  · split
    · exact .next h
    · exact .next h
    · exact .next h
    · exact .next h.retire

theorem execMcOrdAck_shaped {ch : Nat} (h : Shaped s) : ShapedNext (execMcOrdAck ch s) :=
  .next h.ackOrd

theorem Shaped.portFault {p : Port} {e : EvRec} (h : Shaped s) : Shaped (s.portFault p e) :=
  h.frame.post.raise

theorem Shaped.hportDown (h : Shaped s) : Shaped s.hportDown :=
  h.setF.setF

theorem execLinkFault_shaped {flit : Flit} {carry vc : Nat} (h : Shaped s) : ShapedNext (execLinkFault flit carry vc s) := by
  unfold execLinkFault
  split
  · exact .next h
  · exact .ite (.next h) (.next (Shaped.ite h.linkFail h.hportDown).frame.portFault)

theorem execRspTimeout_shaped {port : Port} {tag : Nat} (h : Shaped s) : ShapedNext (execRspTimeout port tag s) := by
  unfold execRspTimeout
  split
  · exact .next h
  · split
    · exact .next h.hportDown.portFault
    · exact .next (h.setF.foldl fun h1 => h1.retire).portFault

theorem Shaped.enterQuiesce (h : Shaped s) : Shaped s.enterQuiesce :=
  h.setF.frame

theorem execQuiesce_shaped (h : Shaped s) : ShapedNext (execQuiesce s) :=
  .ite (.next h.tookMgmt) (.ite (.next h.tookMgmt.frame) (.next h.tookMgmt.enterQuiesce))

theorem execDrained_shaped (h : Shaped s) : ShapedNext (execDrained s) := by
  refine .ite (.next (h.tell.frame (hli := ?_))) (.next h)
  show LinkX.shape (if s.onVc3 then _ else _) = _
  split
  · exact LinkX.shape_pay ..
  · rfl

theorem execIsolate_shaped (h : Shaped s) : ShapedNext (execIsolate s) := by
  have h1 := (h.setF (f := fLSTATE) (v := 0)).foldl (l := List.range 16) (f := fun s n => s.setF (fMC_UP n) 0) fun h => h.setF
  have h2 := h1.holdPins
  refine .ite (.next h) (.next (h2.frame (hli := ?_)))
  simp [LinkX.shape, h2.mcReq, h2.mcData, h2.mcRet]

end Sys2Proof.Machine
end

section
/-! SUPPORT. Arbitration, digests, table commits, a restored context and the launch keep the shape. -/

namespace Sys2Proof.Machine

-- The default arguments of `Shaped.frame` are tactics, and each waits for the declarations before its own: in order, none holds a thread meanwhile.
set_option Elab.async false

variable {s t : State}

theorem Shaped.replied {snd : Sender} {op n : Nat} (h : Shaped s) : Shaped (s.replied snd op n) :=
  h.frame

theorem Shaped.setArb {a : ArbX} (h : Shaped s) (hp : a.pend.length = 4) (he : a.eff.length = 4) : Shaped { s with arb := a } :=
  { h with pend := hp, eff := he }

theorem Shaped.arbGo (h : Shaped s) : ShapedSome s.arbGo :=
  .ite .none (.ite .none (.some (h.setF.setF.setArb (by simp) h.eff)))

theorem execArbSnapshotApply_shaped {g : Nat} (h : Shaped s) : ShapedNext (execArbSnapshotApply g s) := by
  unfold execArbSnapshotApply
  split
  · exact .next h
  · exact .next (h.setBit.setF.setArb (by simpa using h.pend) (by simpa using h.eff))

theorem execArbModeChange_shaped {g : Nat} (h : Shaped s) : ShapedNext (execArbModeChange g s) :=
  .ite (.next h) (.next h.setF.setF)

theorem Shaped.sendPair {lo hi : Nat} (h : Shaped s) : Shaped (s.sendPair lo hi) :=
  h.writeBy

theorem Shaped.endCompare {f : Flight} (h : Shaped s) : Shaped (s.endCompare f) :=
  h.setFlight.frame

theorem Shaped.refreshAll (h : Shaped s) : Shaped s.refreshAll :=
  h.foldl fun h1 => h1.refresh

theorem Shaped.mismatchAt {f : Flight} {first : Nat} (h : Shaped s) : Shaped (s.mismatchAt f first) :=
  h.setF.setF.setF.post.raise.endCompare.refreshAll

theorem Shaped.bisectFrom {f : Flight} {lo hi j : Nat} (h : Shaped s) : Shaped (s.bisectFrom f lo hi j) :=
  .ite h.mismatchAt h.frame.sendPair

theorem Shaped.tryCompare (h : Shaped s) : Shaped s.tryCompare := by
  unfold State.tryCompare
  split
  · exact h
  · split
    · exact h
    · exact .ite h (.ite h.frame.endCompare (.ite h.frame.mismatchAt h.frame.bisectFrom))

theorem Shaped.deliver (h : Shaped s) : Shaped s.deliver :=
  h.frame.tryCompare

theorem Shaped.takeDigest {f : Flight} {wr cmp : Bool} {addr : Nat} (h : Shaped s) : Shaped (s.takeDigest f wr cmp addr) := by
  refine .ite ?_ ?_
  · exact (Shaped.ite h.frame.mend.writeHost h.frame.mend).setFlight.sendPair.frame.tryCompare
  · exact (Shaped.ite h.frame.mend.writeHost h.frame.mend).setFlight

theorem execDigest_shaped {ln : Nat} (h : Shaped s) : ShapedNext (execDigest ln s) := by
  unfold execDigest
  dsimp only
  split
  · exact .next h
  · split
    · exact .next h
    · refine .ite (.next h) ?_
      split
      · exact .next h.closeEmit
      · exact .ite (.next h.closeEmit.takeDigest) (.next h.closeEmit)

theorem execDigestBisectRound_shaped (h : Shaped s) : ShapedNext (execDigestBisectRound s) := by
  unfold execDigestBisectRound
  split
  · split
    · exact .next h
    · exact .ite (.next h) (.next (.ite h.frame.bisectFrom h.frame.bisectFrom))
  · exact .next h

theorem Shaped.startCommit {q : Option Nat} (h : Shaped s) : Shaped (s.startCommit q) :=
  h.setF.frame

theorem execTabcommit_shaped {q : Nat} (h : Shaped s) : ShapedNext (execTabcommit q s) := by
  unfold execTabcommit
  split
  · exact .ite (.next h.startCommit) (.next h)
  · exact .next h

theorem Shaped.commitGo (h : Shaped s) : ShapedSome s.commitGo :=
  .ite (.some h.startCommit) .none

theorem Shaped.refuseCommit {f : CommitFail} (h : Shaped s) : Shaped (s.refuseCommit f) := by
  unfold State.refuseCommit
  dsimp only
  split
  · exact .ite h.setF.setF.setF.setF.frame.post h.setF.setF.setF.setF.frame.post.halt
  · exact h.setF.setF.setF.setF.frame.post

theorem execCommitCheckDone_shaped (h : Shaped s) : ShapedNext (execCommitCheckDone s) := by
  unfold execCommitCheckDone
  refine .ite (.next h) ?_
  split
  · exact .next h.refuseCommit
  · exact .next h.frame

theorem Shaped.passCommit {q : Nat} (h : Shaped s) : Shaped (s.passCommit q) := by
  unfold State.passCommit
  split
  · exact .ite h.passItem h
  · exact h

theorem execLaneCopyDone_shaped (h : Shaped s) : ShapedNext (execLaneCopyDone s) := by
  unfold execLaneCopyDone
  refine .ite (.next h) ?_
  refine .next ?_
  split
  · exact (h.foldl fun h1 => h1.copyLane).setF.setF.frame.passCommit
  · exact (h.foldl fun h2 => h2.copyLane).setF.setF.frame

theorem execBankDrainDone_shaped (h : Shaped s) : ShapedNext (execBankDrainDone s) :=
  .ite (.next h.setF) (.next h)

theorem execBankCopyDone_shaped (h : Shaped s) : ShapedNext (execBankCopyDone s) :=
  .ite (.next h) (.next (h.frame.foldl fun h1 => h1.copyLane).setF.advanceG)

theorem Shaped.writeWindow {off : Nat} {v : Word64} (h : Shaped s) : Shaped (s.writeWindow off v).1 :=
  Shaped.ite_fst (.ite h.frame h) (.ite h.addSat.post h.addSat)

theorem execNormal_shaped {ln : Nat} (h : Shaped s) : ShapedNext (execNormal ln s) := by
  unfold execNormal
  split
  · exact .next h
  · split
    · exact .next h
    · exact .ite (.next h) (.next (Shaped.ite h h.bump).writeHost.setFlight)

theorem Shaped.imagePoison {img : Nat} (h : Shaped s) : Shaped (s.imagePoison img) :=
  h.poisonEvents

theorem Shaped.copyPlanes {l : List Found} {v : PlaneView} (h : Shaped s) : Shaped (s.copyPlanes l v) := by
  unfold State.copyPlanes
  refine h.foldl fun h1 => ?_
  refine .ite h1 ?_
  split
  · exact h1
  · refine h1.foldl fun h2 => ?_
    split
    · exact h2.writeSlice
    · exact h2

theorem Shaped.restoreSet {l : List Found} {x : Found} (h : Shaped s) : Shaped (s.restoreSet l x).1 := by
  unfold State.restoreSet
  extract_lets n a s1 s2 v placed cls u b clash s3 s4 s5
  have h1 : Shaped s1 := h.foldl fun h => h.setReg
  have h2 : Shaped s2 := h1.foldl fun h => by split; exacts [h.setF, h]
  have h3 : Shaped s3 := h2.frame.advanceG
  have h4 : Shaped s4 := h3.setF.setF.setF
  have h5 : Shaped s5 := h4.frame (hpl := List.length_set)
  exact .ite_fst h3 (.ite_fst (h3.foldl fun h => h.setF) h5.copyPlanes)

theorem Shaped.restoreMask {x : Found} (h : Shaped s) : Shaped (s.restoreMask x) :=
  (h.frame (hms := by simp)).mend.advanceG

theorem Shaped.restoreBank {b : Nat} {x : Found} (h : Shaped s) : Shaped (s.restoreBank b x) :=
  h.frame

theorem Shaped.restoreReq {ver : Nat} {r : List Byte} (h : Shaped s) : Shaped (s.restoreReq ver r) := by
  unfold State.restoreReq
  extract_lets a n s1 s2 s3 hist tail x s4
  have h1 : Shaped s1 := h.foldl fun h => h.setReg
  have h2 : Shaped s2 := .ite h1.setF h1
  have h3 : Shaped s3 := (Shaped.ite h2.setF h2).levelEntry.mendSlot
  have h4 : Shaped s4 := h3.setReq
  exact .ite h4.enter h4

theorem Shaped.restoreStops {x : Found} (h : Shaped s) : Shaped (s.restoreStops x) :=
  h.frame.mend

theorem Shaped.restore {ver epoch : Nat} {l : List Found} (h : Shaped s) : Shaped (s.restore ver epoch l).1 := by
  have hcompat {t : State} {c : Prop} {_ : Decidable c} {f v} (ht : Shaped t) : Shaped (if c then t.setF f v else t) := .ite ht.setF ht
  unfold State.restore
  dsimp only
  refine hcompat ((Shaped.foldl ?_ fun h => h.restoreStops).foldl fun h => h.foldl fun h => h.restoreReq)
  refine .ite ?_ (.mend (.foldl (.setF (.setF ?_)) fun h => h.copyLane.copyLane)) <;>
  · refine .foldl (.foldl (.foldl_fst ?_ fun h => h.restoreSet) fun h => h.restoreMask) fun h => h.restoreBank
    exact h

theorem Shaped.payCharge {e : Nat} (h : Shaped s) : Shaped (s.payCharge e) :=
  .ite h h.frame

theorem Shaped.swapBanks (h : Shaped s) : Shaped s.swapBanks :=
  .ite h h.setF.setF.setF.setF.advanceG

theorem Shaped.mendLanes (h : Shaped s) : Shaped s.mendLanes :=
  h.frame

theorem Shaped.launchItem {q : Nat} {d : Decoded} (h : Shaped s) : Shaped (s.launchItem q d) :=
  h.swapBanks.mendLanes.payCharge.frame.setQx.setF.passItem

theorem Shaped.markWaiting {q : Nat} (h : Shaped s) : Shaped (s.markWaiting q) := by
  unfold State.markWaiting
  split
  · exact h.setQx
  · exact h

theorem execLaunch_shaped (h : Shaped s) : ShapedNext (execLaunch s) := by
  unfold execLaunch
  dsimp only
  refine .ite (.next h) ?_
  split
  · exact .next h.recheckAll.halt
  · split
    · exact .next (h.recheckAll.foldl fun h1 => h1.markWaiting)
    · exact .next ((h.recheckAll.foldl fun h2 => h2.markWaiting).foldl fun h3 => h3.addSat).launchItem

end Sys2Proof.Machine
end

section
/-! SUPPORT. Reset, the power domains, the supply, the clock and the sensors keep the shape. -/

namespace Sys2Proof.Machine

-- The default arguments of `Shaped.frame` are tactics, and each waits for the declarations before its own: in order, none holds a thread meanwhile.
set_option Elab.async false

variable {s t : State}

theorem Shaped.setTag {n v : Nat} (h : Shaped s) : Shaped (s.setTag n v) :=
  h.frame (hpo := by simp [PowerX.shape])

theorem Shaped.setStale {n : Nat} {b : Bool} (h : Shaped s) : Shaped (s.setStale n b) :=
  .ite h.setFlag.setBit h.setFlag

theorem Shaped.clearCluster {n : Nat} (h : Shaped s) : Shaped (s.clearCluster n) :=
  h.frame

theorem Shaped.dropSorrel {n : Nat} (h : Shaped s) : Shaped (s.dropSorrel n) :=
  h.frame

theorem Shaped.losePower {n : Nat} (h : Shaped s) : Shaped (s.losePower n) :=
  (Shaped.ite ((Shaped.ite h.frame.clearCluster h.frame).frame) (.ite h.frame.clearCluster h.frame)).setTag

theorem Shaped.startWipe {cause : Nat} (h : Shaped s) : Shaped (s.startWipe cause) :=
  h.setF.setF.setF.setF.setF.setF.setF.frame

theorem Shaped.fuseDomains (h : Shaped s) : Shaped s.fuseDomains :=
  h.foldl fun h1 => .ite h1.setF.setF h1

theorem State.reset_shaped : Shaped State.reset := by
  constructor <;> rfl

theorem Shaped.resetTo {rst : Nat} (h : Shaped s) : Shaped (s.resetTo rst) := by
  have h1 : Shaped { State.reset with
      pending := s.pending, freeCtr := s.freeCtr, mem := s.mem, memMark := s.memMark, fuses := s.fuses, fuseCopy := s.fuseCopy, trims := s.trims
      pad := s.pad, padFresh := s.padFresh, padDirty := s.padDirty, bad := s.bad
      test := s.test.shut s.lc
      sync := { syncReset with dn := s.sync.dn, cup := s.sync.cup, log := s.sync.log, load := s.sync.load }
      power := { powerReset with
        gen := s.advanceG.power.gen, tags := s.power.tags, winUs := s.power.winUs % 100, pdReq := s.power.pdReq, pdRet := s.power.pdRet
        pdAck := s.power.pdAck } } :=
    { State.reset_shaped with
      cup := h.cup, dtags := h.dtags, pdReq := h.pdReq, pdRet := h.pdRet, pdAck := h.pdAck, bist := h.bist, trims := h.trims }
  exact ((h1.setF.setF.setF.foldl fun h2 => h2.setF).foldl fun h3 => .ite h3 h3.setF.losePower).fuseDomains

theorem Shaped.cutFuses (h : Shaped s) : Shaped s.cutFuses :=
  .ite h.bump.frame h

theorem execReset_shaped (h : Shaped s) : ShapedNext (execReset s) :=
  .next h.cutFuses.resetTo.startWipe

theorem execSupplyReset_shaped {supply : Nat} (h : Shaped s) : ShapedNext (execSupplyReset supply s) :=
  .next h.cutFuses.resetTo.startWipe

theorem execLcFuseDone_shaped (h : Shaped s) : ShapedNext (execLcFuseDone s) :=
  .ite (.next h) (.next h.frame.resetTo.setF.startWipe)

theorem execWipeDone_shaped (h : Shaped s) : ShapedNext (execWipeDone s) :=
  .ite (.next h) (.next (h.frame.foldl fun h1 => h1.setBit).setF.setF.setF.addMod.setF)

theorem execPdAoPowerUp_shaped (h : Shaped s) : ShapedNext (execPdAoPowerUp s) := by
  have h1 : Shaped { State.reset with
      pending := s.pending, freeCtr := s.freeCtr, mem := s.mem, memMark := s.memMark, fuses := s.fuses
      fuseCopy := s.fuses.setWidth 64, trims := trimWords s.fuses
      sync := { syncReset with dn := s.sync.dn, cup := s.sync.cup, load := s.sync.load }
      power := { powerReset with pdAck := s.power.pdAck } } :=
    { State.reset_shaped with cup := h.cup, pdAck := h.pdAck, trims := by simp [trimWords] }
  exact .next (h1.fuseDomains.setF.setF.setF).frame

theorem Shaped.setBist {n : Nat} {ok : Bool} (h : Shaped s) : Shaped (s.setBist n ok) :=
  h.frame (hte := by simp)

theorem execBistDone_shaped {failed : BitVec 16} {others : BitVec 3} (h : Shaped s) : ShapedNext (execBistDone failed others s) := by
  refine .ite (.next h) ?_
  refine .ite ?_ ?_
  · exact .next (h.foldl fun h1 => h1.setBist).setBist.setBist.frame
  · exact .next (h.foldl fun h2 => h2.setBist).setBist.setBist.frame.startNegotiate

theorem Shaped.trans {n : Nat} (h : Shaped s) : Shaped (s.trans n) :=
  h.addSat

theorem Shaped.pins {n : Nat} {req ret : Bool} (h : Shaped s) : Shaped (s.pins n req ret) :=
  h.frame (hpo := by simp [PowerX.shape])

theorem Shaped.takeOut {n : Nat} (h : Shaped s) : Shaped (s.takeOut n) :=
  h.setTag.leaveService

theorem Shaped.startMove {n t : Nat} (h : Shaped s) : Shaped (s.startMove n t) :=
  (Shaped.ite ((Shaped.ite h.pins h.pins.setTag).setF) (.ite h.pins h.pins.setTag)).setF.trans.frame

theorem Shaped.endMoves (h : Shaped s) : Shaped s.endMoves :=
  .ite (.ite h.setF.enterQuiesce h.setF) h

theorem Shaped.endSleep (h : Shaped s) : Shaped s.endSleep :=
  .ite h.frame h

theorem Shaped.entered {n : Nat} (h : Shaped s) : Shaped (s.entered n) := by
  refine .ite ?_ ?_
  · exact (Shaped.ite h.pins.setF h.pins).setF.trans.setStale.frame
  · exact (Shaped.ite h.pins.setF h.pins).setF.trans.setStale

theorem Shaped.left {n t : Nat} (h : Shaped s) : Shaped (s.left n t) := by
  refine .ite ?_ ?_
  · exact (Shaped.ite h.setF.trans.setStale.frame.dropSorrel h.setF.trans.setStale.frame).losePower
  · exact .ite h.setF.trans.setStale.frame.dropSorrel h.setF.trans.setStale.frame

theorem Shaped.changeOff {n t : Nat} (h : Shaped s) : Shaped (s.changeOff n t) :=
  .ite h.pins.left h

theorem execDomainMove_shaped (h : Shaped s) : ShapedNext (execDomainMove s) := by
  unfold execDomainMove
  refine .ite (.next h) ?_
  split
  · exact .ite (.next h) (.next h.frame.startMove)
  · split
    · exact .next h
    · refine .ite ?_ ?_
      · exact .next (Shaped.ite h.takeOut h).frame.changeOff.endMoves
      · exact .ite (.next (.ite h.takeOut h)) (.next (Shaped.ite h.takeOut h).frame.startMove)

theorem execPdAck_shaped {n : Nat} {level : Bool} (h : Shaped s) : ShapedNext (execPdAck n level s) := by
  have h1 : Shaped { s with power := { s.power with pdAck := s.power.pdAck.set n level } } := h.frame (hpo := by simp [PowerX.shape])
  unfold execPdAck
  dsimp only
  split
  · refine .ite (.next h1) ?_
    exact .ite (.next (Shaped.ite h1.frame.entered h1.frame.left).startWipe) (.next (Shaped.ite h1.frame.entered h1.frame.left).endMoves.endSleep)
  · exact .next h1

theorem execPdAckBudgetExceeded_shaped {n : Nat} (h : Shaped s) : ShapedNext (execPdAckBudgetExceeded n s) := by
  unfold execPdAckBudgetExceeded
  dsimp only
  split
  · exact .next h
  · refine .ite (.next h) ?_
    have h1 := ((h.setLink h.linkReset).setF (f := fLSTATE) (v := 0)).holdPins
    split
    · exact .next h.frame
    · exact .next h
    · exact .next h
    · exact .next h1.frame
    · exact .next h1.frame
    · exact .next h1.frame

theorem Shaped.pdGo (h : Shaped s) : ShapedSome s.pdGo :=
  .ite .none (.some (h.foldl fun h1 => h1.changeOff).setFlag.frame)

theorem Shaped.restoreLanes {n : Nat} (h : Shaped s) : Shaped (s.restoreLanes n) :=
  h.copyLane.copyLane.frame

theorem Shaped.recoverRecord {v : PlaneView} {x : RecId} (h : Shaped s) : Shaped (s.recoverRecord v x).1 := by
  unfold State.recoverRecord
  dsimp only
  refine Shaped.ite_fst h ?_
  refine Shaped.ite_fst h ?_
  split
  · exact Shaped.ite_fst h.writeSlice h
  · exact h

theorem Shaped.recoverSet {cl ps : Nat} (h : Shaped s) : Shaped (s.recoverSet cl ps) := by
  have h1 (l) := h.foldl_fst (l := l) (a := (s, true))
    (f := fun y x => ((y.1.recoverRecord (s.planeView ps) x).1, y.2 && (y.1.recoverRecord (s.planeView ps) x).2))
      fun h2 => h2.recoverRecord
  exact .ite (h1 _) (h1 _).setF.post

theorem Shaped.tagLoss {n : Nat} (h : Shaped s) : Shaped (s.tagLoss n) :=
  h.post

theorem Shaped.wipeHalter (h : Shaped s) : Shaped s.wipeHalter :=
  h.frame (hms := by simp [h.masks])

theorem Shaped.recovered {n : Nat} (h : Shaped s) : Shaped (s.recovered n) :=
  h.setTag.setStale.frame.endSleep

theorem Shaped.recoveryFails {n : Nat} {words : List Nat} (h : Shaped s) : Shaped (s.recoveryFails n words) :=
  (Shaped.ite h.setTag.frame.leaveWith h.setTag.frame.post).raise.endSleep

theorem execClusterRecovery_shaped {n : Nat} {words : List Nat} (h : Shaped s) : ShapedNext (execClusterRecovery n words s) := by
  refine .ite (.next h) ?_
  refine .ite ?_ ?_
  · exact .next (Shaped.ite h.frame.frame.tagLoss h.frame).recovered
  · refine .ite (.next (Shaped.ite h.wipeHalter.tagLoss h).recovered) ?_
    refine .ite (.next h.recoveryFails) ?_
    refine .next ?_
    refine Shaped.recovered ?_
    refine .ite ?_ ?_
    · exact h.restoreLanes.foldl fun h1 => h1.recoverSet
    · exact (h.restoreLanes.foldl fun h2 => h2.recoverSet).joinService

theorem execChipSleepReq_shaped (h : Shaped s) : ShapedNext (execChipSleepReq s) :=
  .ite (.next h) (.ite (.next h.frame) (.next h.frame))

theorem execChipWake_shaped (h : Shaped s) : ShapedNext (execChipWake s) :=
  .ite (.next h.frame) (.next h.frame.frame.endSleep)

theorem Shaped.breakCounts (h : Shaped s) : Shaped s.breakCounts :=
  h.frame

theorem Shaped.showClock (h : Shaped s) : Shaped s.showClock :=
  h.setF

theorem execSupplyWarning_shaped {supply : Nat} (h : Shaped s) : ShapedNext (execSupplyWarning supply s) := by
  refine .ite (.next h) ?_
  refine .ite ?_ ?_
  · exact .next (h.setF.setF.addSat.post.foldl fun h1 => .ite h1.setTag h1)
  · exact .next h.setF.setF.addSat.post.setF.showClock.frame.breakCounts

theorem execSupplyRecoveryCrossing_shaped {supply : Nat} (h : Shaped s) : ShapedNext (execSupplyRecoveryCrossing supply s) :=
  .ite (.next h.setF) (.next h)

theorem execSupplyRecovered_shaped {us : BitVec 32} (h : Shaped s) : ShapedNext (execSupplyRecovered us s) :=
  .ite (.next h) (.next h.setF.showClock.frame.post)

theorem Shaped.drivePoint {pt : Nat} (h : Shaped s) : Shaped (s.drivePoint pt) :=
  (Shaped.ite h.setF.showClock h).frame

theorem Shaped.tripDown (h : Shaped s) : Shaped s.tripDown := by
  unfold State.tripDown
  refine .ite ?_ ?_
  · refine Shaped.breakCounts ?_
    split
    · exact .ite h.setF.showClock h
    · exact .ite h h.drivePoint
  · split
    · exact .ite h.setF.showClock h
    · exact .ite h h.drivePoint

theorem execVselAck_shaped (h : Shaped s) : ShapedNext (execVselAck s) := by
  unfold execVselAck
  split
  · exact .next h
  · refine .ite ?_ ?_
    · exact .ite (.next h.frame) (.next (.ite h.frame.drivePoint.breakCounts h.frame.drivePoint))
    · exact .next h.frame.setF.showClock

theorem execVselTimeout_shaped (h : Shaped s) : ShapedNext (execVselTimeout s) :=
  .ite (.next h) (.next (.ite h.frame.post.tripDown h.frame.post))

theorem execDvfsDecision_shaped (h : Shaped s) : ShapedNext (execDvfsDecision s) := by
  refine .ite ?_ ?_
  · exact .next h
  · exact .ite (.next (.ite h.frame h.frame.drivePoint)) (.ite (.next h.frame.drivePoint) (.next h))

theorem Shaped.endWindow (h : Shaped s) : Shaped s.endWindow :=
  h.frame

theorem execEnergyRefill_shaped (h : Shaped s) : ShapedNext (execEnergyRefill s) :=
  .next (.ite (h.frame (hfa := by simp)).endWindow (h.frame (hfa := by simp)))

theorem Shaped.sampleSensor {n : Nat} {t : BitVec 12} (h : Shaped s) : Shaped (s.sampleSensor n t).1 := by
  have hhot {t : State} {k us due mi tr} (ht : Shaped t) :
      Shaped { t with power := { t.power with hotUs := t.power.hotUs.set k us, hotDue := due, missed := mi, tripped := tr } } :=
    ht.frame (hpo := by simp [PowerX.shape])
  unfold State.sampleSensor
  dsimp only
  refine Shaped.ite_fst (.ite ?_ (.tripDown ?_)) ?_ <;>
  · refine hhot (.setFlag (.ite (.ite ?_ ?_) h.setF))
    · exact h.setF.setF.setF
    · exact h.setF.setF

theorem execThermalSample_shaped {temps : List (BitVec 12)} (h : Shaped s) : ShapedNext (execThermalSample temps s) := by
  unfold execThermalSample
  split
  next t1 _ e1 =>
    have h1 : Shaped t1 := .of_fst e1 (h.foldl_fst fun h2 => h2.sampleSensor)
    exact .next (h1.foldl fun h3 => h3.foldl fun h4 => h4.post)

theorem execSyncTick_shaped (h : Shaped s) : ShapedNext (execSyncTick s) :=
  .next (.ite h.addMod h)

theorem execSyncLoad_shaped {v : Word64} {level : Bool} (h : Shaped s) : ShapedNext (execSyncLoad v level s) :=
  .next (Shaped.ite h.setF h).frame

end Sys2Proof.Machine
end

section
/-! SUPPORT. Damaged memories and the commands of Farrier keep the shape. -/

namespace Sys2Proof.Machine

-- The default arguments of `Shaped.frame` are tactics, and each waits for the declarations before its own: in order, none holds a thread meanwhile.
set_option Elab.async false

variable {s t : State}

theorem Shaped.onRows {p : Flight → Nat → RowState → Bool} {g : Flight → RowState → RowState} (h : Shaped s) : Shaped (s.onRows p g).1 :=
  h.frame

theorem Shaped.faultReq {slot : Nat} {rows : Bool} (h : Shaped s) : Shaped (s.faultReq slot rows).1 :=
  Shaped.ite_fst (.ite h.onRows h) (Shaped.ite h.onRows h).wantEnd.settle

theorem Shaped.hitPart {p : SramPart} (h : Shaped s) : Shaped (s.hitPart p).1 := by
  unfold State.hitPart
  split
  · exact h
  · exact h
  · exact h
  · exact h
  · exact h.onRows
  · exact h.onRows
  · exact h.frame
  · exact h.onRows
  · exact h.onRows
  · exact h.bump.frame
  · exact h.onRows
  · exact h.frame
  · exact h.onRows
  · exact h.faultReq
  · exact h.faultReq
  · exact (h.frame (hms := by simp)).onRows
  · exact h.frame
  · exact h.onRows
  · exact h.frame.foldl fun h1 => h1.faultReq
  · exact h.faultReq
  · exact h.setReg.setReg

theorem Shaped.uncorrectable {p : SramPart} (h : Shaped s) : Shaped (s.uncorrectable p) := by
  unfold State.uncorrectable
  dsimp only
  refine .ite h ?_
  split
  · refine .ite ?_ ?_
    · exact (Shaped.ite h.hitPart h.hitPart.frame).addSat.frame.post.raise
    · exact (Shaped.ite h.hitPart h.hitPart.frame).addSat.frame.post
  · exact (Shaped.ite h.hitPart h.hitPart.frame).addSat.frame.post

theorem Shaped.corrected {p : SramPart} {storm : Bool} {syn : BitVec 8} (h : Shaped s) : Shaped (s.corrected p storm syn) := by
  refine .ite ?_ ?_
  · exact (Shaped.ite h.addSat.frame.coalesce (.ite h.addSat.frame.coalesce h.addSat.frame)).raise
  · exact .ite h.addSat.frame.coalesce (.ite h.addSat.frame.coalesce h.addSat.frame)

theorem execSramPatrol_shaped {part : SramPart} {double storm : Bool} {syndrome : BitVec 8} (h : Shaped s) :
    ShapedNext (execSramPatrol part double storm syndrome s) :=
  .next (.ite h (.ite h.uncorrectable h.corrected))

theorem Shaped.scrubRecord {v : PlaneView} {x : RecId} {glitch : Bool} (h : Shaped s) : Shaped (s.scrubRecord v x glitch) := by
  refine .ite ?_ ?_
  · exact .ite ((Shaped.ite h.readHost.readHost h.readHost).coalesce) (.ite h.readHost.readHost h.readHost)
  · refine .ite ?_ ?_
    · exact (Shaped.ite h.readHost.readHost h.readHost).post.raise
    · exact (Shaped.ite h.readHost.readHost h.readHost).post

theorem Shaped.scrubNext {planes : List (PlaneView × Nat)} {p : ScrubPos} (h : Shaped s) : Shaped (s.scrubNext planes p) := by
  unfold State.scrubNext
  split
  · exact h.frame
  · exact h.frame.addMod

theorem execScrubRead_shaped {glitch : Bool} (h : Shaped s) : ShapedNext (execScrubRead glitch s) := by
  unfold execScrubRead
  refine .ite (.next h) ?_
  split
  · exact .next h.scrubRecord.scrubNext
  · split
    · exact .next h.addMod.scrubRecord.scrubNext
    · exact .next h

theorem execSorrelReseed_shaped {cl lane : Nat} {j nb : BitVec 32} (h : Shaped s) : ShapedNext (execSorrelReseed cl lane j nb s) := by
  unfold execSorrelReseed
  split
  · exact .next h
  · refine .ite (.next h) (.ite (.next h.bump.frame) (.next (.raise (.post ?_))))
    exact h.bump.frame (hfa := by simp)

theorem Shaped.popExc {flag : Nat} {data : List Nat} (h : Shaped s) : Shaped (s.popExc flag data) := by
  unfold State.popExc
  split
  · exact h
  · exact h.setF.frame

theorem Shaped.sliceHard {cl word : Nat} (h : Shaped s) : Shaped (s.sliceHard cl word) :=
  h.post

theorem Shaped.repairWord {cl word ps : Nat} {hard : List Nat} {glitch : Bool} (h : Shaped s) : Shaped (s.repairWord cl word ps hard glitch) := by
  unfold State.repairWord
  dsimp only
  split
  · exact h
  · split
    · exact (Shaped.ite h.readHost.readHost h.readHost).sealEvents
    · refine .ite ?_ ?_
      · exact (Shaped.ite h.readHost.readHost h.readHost).sealEvents
      · exact (Shaped.ite h.readHost.readHost h.readHost).sealEvents.foldl fun h1 => .ite h1.sliceHard h1.writeSlice

theorem execPadRepair_shaped {hard : List Nat} {glitch : Bool} (h : Shaped s) : ShapedNext (execPadRepair hard glitch s) := by
  unfold execPadRepair
  split
  · exact .next h.repairWord.popExc
  · exact .next h

theorem execCeStorm_shaped {persists : Bool} (h : Shaped s) : ShapedNext (execCeStorm persists s) := by
  unfold execCeStorm
  split
  · exact .next (Shaped.ite h.sliceHard h).popExc
  · exact .next h

theorem execScrubFix_shaped (h : Shaped s) : ShapedNext (execScrubFix s) := by
  unfold execScrubFix
  split
  · exact .next (Shaped.ite h.writeHost h).popExc
  · exact .next h

theorem execStaleFail_shaped (h : Shaped s) : ShapedNext (execStaleFail s) := by
  unfold execStaleFail
  split
  · exact .next h.popExc
  · exact .next h

theorem execSorrelCheck_shaped {passed : Bool} (h : Shaped s) : ShapedNext (execSorrelCheck passed s) := by
  unfold execSorrelCheck
  split
  · exact .next h.popExc
  · exact .next h

theorem execLinkLog_shaped (h : Shaped s) : ShapedNext (execLinkLog s) := by
  unfold execLinkLog
  split
  · exact .next h.popExc
  · exact .next h

theorem execLockstepLog_shaped (h : Shaped s) : ShapedNext (execLockstepLog s) := by
  unfold execLockstepLog
  split
  · exact .next h.popExc
  · exact .next h

theorem Shaped.abortMailbox (h : Shaped s) : Shaped s.abortMailbox := by
  unfold State.abortMailbox
  split
  · exact h
  · exact h.bump.frame.setF.setF.post

theorem execFarrierRestartDone_shaped (h : Shaped s) : ShapedNext (execFarrierRestartDone s) :=
  .ite (.next h.setF) (.next h)

theorem execTelemetryPeriod_shaped (h : Shaped s) : ShapedNext (execTelemetryPeriod s) := by
  unfold execTelemetryPeriod
  split
  · exact .next h
  · exact .ite (.next h.frame) (.next h.writeHost.frame)

theorem Shaped.mboxStatus {st seq retry result : Nat} (h : Shaped s) : Shaped (s.mboxStatus st seq retry result) :=
  h.setF.setF.setF.setF

theorem Shaped.takeCommand {cmd seq : Nat} {out : TestOut} (h : Shaped s) : Shaped (s.takeCommand cmd seq out) :=
  (Shaped.ite h.mboxStatus.leaveWith h.mboxStatus).frame

theorem Shaped.writeMailbox {v : Word64} {out : TestOut} (h : Shaped s) : ShapedSome (s.writeMailbox v out) := by
  refine .ite .none ?_
  refine .ite ?_ ?_
  · exact .some h.setF.setF.bump.mboxStatus
  · exact .ite (.some h.setF.setF.mboxStatus) (.some h.setF.setF.takeCommand)

theorem Shaped.writeMboxArg {v : Word64} (h : Shaped s) : ShapedSome (s.writeMboxArg v) :=
  .ite .none (.some h.setF)

theorem Shaped.doRestore {arg : Word64} (h : Shaped s) : Shaped (s.doRestore arg).1 := by
  refine Shaped.ite_fst h (Shaped.ite_fst h ?_)
  split
  · exact h.imagePoison
  · exact h.restore

theorem Shaped.doTelem {arg : Word64} (h : Shaped s) : Shaped (s.doTelem arg).1 :=
  Shaped.ite_fst h.frame (Shaped.ite_fst h h.frame)

theorem Shaped.doTest (h : Shaped s) : Shaped s.doTest.1 := by
  unfold State.doTest
  split
  · exact h
  · refine Shaped.ite_fst (.joinService (.restoreLanes ?_)) (.ite (.raise (.post (.frame ?_))) (.post (.frame ?_))) <;>
    exact h.clearCluster.setBist.frame

theorem Shaped.runCommand {cmd : Nat} {arg : Word64} (h : Shaped s) : Shaped (s.runCommand cmd arg).1 := by
  refine Shaped.ite_fst h ?_
  split
  · exact h
  · exact Shaped.ite_fst h (Shaped.ite_fst h h.writeHost)
  · exact h.doRestore
  · exact h.doTelem
  · exact Shaped.ite_fst h (.ite h h.writeHost)
  · exact h.doTest
  · exact Shaped.ite_fst h.breakLease h
  · exact Shaped.ite_fst h (Shaped.ite_fst h h.stopQueue)
  · exact Shaped.ite_fst h (Shaped.ite_fst h h.bump.writeHost)
  · exact Shaped.ite_fst h (Shaped.ite_fst h h.bump.writeHost)
  · exact h

theorem execMailboxCommandDone_shaped (h : Shaped s) : ShapedNext (execMailboxCommandDone s) := by
  unfold execMailboxCommandDone
  split
  · exact .next h
  · exact .ite (.next h) (.next h.runCommand.frame.mboxStatus)

theorem Shaped.cutSave (h : Shaped s) : Shaped s.cutSave := by
  unfold State.cutSave
  split
  · exact .ite h (.ite h.bump h.bump.writeHost)
  · exact h

theorem execFarrierReset_shaped (h : Shaped s) : ShapedNext (execFarrierReset s) := by
  refine .ite ?_ ?_
  · exact .next h
  · exact .next (Shaped.ite h.setF.cutSave.refuseCommit h.setF.cutSave).popExc.addSat.post.abortMailbox

end Sys2Proof.Machine
end

section
/-! SUPPORT. The accesses of the control space keep the shape. -/

namespace Sys2Proof.Machine

-- The default arguments of `Shaped.frame` are tactics, and each waits for the declarations before its own: in order, none holds a thread meanwhile.
set_option Elab.async false

variable {s t : State}

theorem Shaped.padRead {off : Nat} (h : Shaped s) : Shaped (s.padRead off).1 :=
  Shaped.ite_fst h (Shaped.ite_fst h (Shaped.ite_fst h h.bump))

theorem Shaped.padStore {cl b : Nat} {v : Word64} (h : Shaped s) : Shaped (s.padStore cl b v) :=
  h.frame.writeSlice

theorem Shaped.padWrite {off : Nat} {v : Word64} (h : Shaped s) : ShapedSome (s.padWrite off v) := by
  unfold State.padWrite
  refine .ite .none ?_
  split
  · exact .ite .none (.some h.padStore)
  · exact .ite .none (.some (Shaped.ite h.bump h).padStore)

theorem Shaped.clearRc {off : Nat} (h : Shaped s) : Shaped (s.clearRc off) :=
  .ite h.setReg h

theorem Shaped.readReg {off : Nat} (h : Shaped s) : Shaped (s.readReg off).1 :=
  (Shaped.ite h.bump h).clearRc

theorem Shaped.readWord {off : Nat} {snd : Sender} (h : Shaped s) : Shaped (s.readWord off snd).1 := by
  unfold State.readWord
  split
  · exact h
  · exact Shaped.ite_fst h (Shaped.ite_fst h (Shaped.ite_fst h.padRead (Shaped.ite_fst h h.readReg)))

theorem Shaped.readWords {off : Nat} {snd : Sender} {n : Nat} (h : Shaped s) : Shaped (s.readWords off snd n).1 := by
  induction n generalizing s off with
  | zero => exact h
  | succ n ih => exact ih h.readWord

theorem Shaped.storeWord {off : Nat} {v : Word64} (h : Shaped s) : Shaped (s.storeWord off v) :=
  h.setReg

theorem Shaped.writeGctl {v : Word64} (h : Shaped s) : ShapedSome (s.writeGctl v) :=
  .ite .none (.some h.storeWord.frame)

theorem Shaped.writeLcReq {v : Word64} (h : Shaped s) : ShapedSome (s.writeLcReq v) :=
  .ite .none (.some h.setF.setF)

theorem Shaped.startRing (h : Shaped s) : Shaped s.startRing :=
  h.setF.setF.setF.frame.foldl fun h1 => h1.post

theorem Shaped.writeEvSize {v : Word64} (h : Shaped s) : ShapedSome (s.writeEvSize v) :=
  .ite (.some (.ite h h.setF)) (.ite (.some h.setF) (.ite (.some h.setF.startRing) .none))

theorem Shaped.writeHmwin {v : Word64} (h : Shaped s) : ShapedSome (s.writeHmwin v) :=
  .ite .none (.ite .none (.ite .none (.some h.storeWord)))

theorem Shaped.writeSync {off : Nat} {v : Word64} (h : Shaped s) : ShapedSome (s.writeSync off v) := by
  refine .ite (.ite .none (.some h.storeWord)) ?_
  refine .ite ?_ ?_
  · exact .ite (.some h.storeWord) .none
  · exact .ite (.some h.storeWord.refreshAll) (.ite (.some h.storeWord.deliver) (.some h.storeWord))

theorem Shaped.writePower {off : Nat} {v : Word64} (h : Shaped s) : ShapedSome (s.writePower off v) := by
  refine .ite ?_ ?_
  · exact .ite (.some h) (.ite .none h.pdGo)
  · exact .ite (.ite (.some h.storeWord) .none) (.ite (.ite (.some h.storeWord) .none) (.some h.storeWord))

theorem Shaped.writePs {off : Nat} {v : Word64} (h : Shaped s) : Shaped (s.writePs off v) :=
  .ite h.writePsStat (.ite h.storeWord h.storeWord.frame)

theorem Shaped.writeMbox {v : Word64} {out : Option TestOut} (h : Shaped s) : ShapedSome (s.writeMbox v out) := by
  unfold State.writeMbox
  split
  · exact h.writeMailbox
  · exact h.bump.writeMailbox

theorem Shaped.writeReg {off : Nat} {v : Word64} {out : Option TestOut} (h : Shaped s) : ShapedSome (s.writeReg off v out) := by
  unfold State.writeReg
  refine .ite .none ?_
  refine .ite h.writeGctl ?_
  refine .ite h.writeLcReq ?_
  refine .ite h.writeMboxArg ?_
  refine .ite h.writeMbox ?_
  refine .ite ?_ ?_
  · split
    · exact .some h.writeTail
    · exact h.writeAttr
    · exact .some h.storeWord
  · refine .ite (.ite (.some h) (.ite .none h.arbGo)) ?_
    refine .ite h.writeSync ?_
    refine .ite h.writePower ?_
    refine .ite h.writeEvSize ?_
    refine .ite ?_ ?_
    · exact .some h.storeWord.levelPrio
    · exact .ite (.some h.writePs) (.ite (.ite (.some h) h.commitGo) (.ite h.writeHmwin (.some h.storeWord)))

theorem Shaped.writeKey {tenant hi : Nat} {v : Word64} (h : Shaped s) : ShapedSome (s.writeKey tenant hi v) :=
  .ite .none (.some h.setReg.mend)

theorem Shaped.settled {o : Option State} (h : Shaped s) (ho : ShapedSome o) : Shaped (s.settled o).1 := by
  cases o with
  | none => exact h
  | some t => exact ho t rfl

theorem Shaped.writeWord {off : Nat} {v : Word64} {snd : Sender} {out : Option TestOut} (h : Shaped s) : Shaped (s.writeWord off v snd out).1 := by
  unfold State.writeWord
  split
  · exact h
  · split
    · exact h.settled h.writeKey
    · exact Shaped.ite_fst (h.settled (.ite h.leasePut h.writeEntry))
        (Shaped.ite_fst (h.settled h.padWrite) (Shaped.ite_fst h.writeWindow (h.settled h.writeReg)))

theorem Shaped.atomWord {off sub : Nat} {x y : Word64} {snd : Sender} (h : Shaped s) : Shaped (s.atomWord off sub x y snd).1 := by
  unfold State.atomWord
  split
  · exact h
  · refine Shaped.ite_fst h ?_
    refine Shaped.ite_fst (Shaped.ite_fst h.leaseCas h) ?_
    refine Shaped.ite_fst h.readWord ?_
    split
    · exact h.readWord
    · exact Shaped.ite_fst h.readWord (Shaped.ite_fst h.readWord.writeWord h.writeWord)

theorem Shaped.request {snd : Sender} {op n : Nat} {f : State → State} (h : Shaped s) (hf : ∀ {t}, Shaped t → Shaped (f t)) :
    ShapedNext (s.request snd op n f) := by
  refine .ite (.next h) ?_
  split
  · exact .next h.answer.replied
  next t e => exact .next (hf (h.epochCheck t e)).replied

theorem Shaped.putTo {off : Nat} {v : Word64} {snd : Sender} {out : Option TestOut} (h : Shaped s) : Shaped (s.putTo off v snd out) :=
  h.writeWord.answer

theorem Shaped.writeWords {off : Nat} {snd : Sender} {l : List Word64} (h : Shaped s) : Shaped (s.writeWords off snd l).1 := by
  induction l generalizing s off with
  | nil => exact h
  | cons v r ih => exact ih h.writeWord

theorem Shaped.accessTo {off : Nat} {op : Access} {snd : Sender} (h : Shaped s) : Shaped (s.accessTo off op snd) := by
  unfold State.accessTo
  split
  · exact h.putTo
  · exact .ite h.answer h.writeWords.answer
  · exact h.atomWord.answer

theorem Shaped.putCommand {named : Bool} {off : Nat} {v : Word64} {snd : Sender} (h : Shaped s) : ShapedNext (s.putCommand named off v snd) :=
  .ite (h.request fun h1 => h1.putTo) (.next h)

theorem execRegisterWrite_shaped {off : Nat} {op : Access} {snd : Sender} (h : Shaped s) : ShapedNext (execRegisterWrite off op snd s) :=
  h.request fun h1 => h1.accessTo

theorem execRcFieldRead_shaped {off n : Nat} {snd : Sender} (h : Shaped s) : ShapedNext (execRcFieldRead off n snd s) :=
  .ite (.next h) (h.request fun h1 => .ite h1.answer h1.readWords.answer)

theorem execDoorbell_shaped {q : Nat} {op : Access} {snd : Sender} (h : Shaped s) : ShapedNext (execDoorbell q op snd s) :=
  .ite (h.request fun h1 => h1.accessTo) (.next h)

theorem execQueueEnable_shaped {q : Nat} {v : Word64} {snd : Sender} (h : Shaped s) : ShapedNext (execQueueEnable q v snd s) :=
  h.putCommand

theorem execQueueDisable_shaped {q : Nat} {v : Word64} {snd : Sender} (h : Shaped s) : ShapedNext (execQueueDisable q v snd s) :=
  h.putCommand

theorem execResume_shaped {q : Nat} {v : Word64} {snd : Sender} (h : Shaped s) : ShapedNext (execResume q v snd s) :=
  h.putCommand

theorem execSkip_shaped {q : Nat} {v : Word64} {snd : Sender} (h : Shaped s) : ShapedNext (execSkip q v snd s) :=
  h.putCommand

theorem execDigestDelivery_shaped {lo hi : Word64} {snd : Sender} (h : Shaped s) : ShapedNext (execDigestDelivery lo hi snd s) :=
  h.request fun h1 => h1.accessTo

theorem execMismatchClear_shaped {v : Word64} {snd : Sender} (h : Shaped s) : ShapedNext (execMismatchClear v snd s) :=
  h.putCommand

theorem execCommitGo_shaped {v : Word64} {snd : Sender} (h : Shaped s) : ShapedNext (execCommitGo v snd s) :=
  h.putCommand

theorem execTableWindowWrite_shaped {off : Nat} {v : Word64} {snd : Sender} (h : Shaped s) : ShapedNext (execTableWindowWrite off v snd s) :=
  h.putCommand

theorem execPsRelease_shaped {ps : Nat} {v : Word64} {snd : Sender} (h : Shaped s) : ShapedNext (execPsRelease ps v snd s) :=
  h.putCommand

theorem execPsAdopt_shaped {ps : Nat} {v : Word64} {snd : Sender} (h : Shaped s) : ShapedNext (execPsAdopt ps v snd s) :=
  h.putCommand

theorem execLeaseAcquire_shaped {slot : Nat} {expect new : Word64} {snd : Sender} (h : Shaped s) :
    ShapedNext (execLeaseAcquire slot expect new snd s) :=
  .ite (h.request fun h1 => h1.accessTo) (.next h)

theorem execLeaseRelease_shaped {slot : Nat} {snd : Sender} (h : Shaped s) : ShapedNext (execLeaseRelease slot snd s) :=
  h.putCommand

theorem execLeaseDiscard_shaped {slot : Nat} {snd : Sender} (h : Shaped s) : ShapedNext (execLeaseDiscard slot snd s) :=
  h.putCommand

theorem execHalterEntryWrite_shaped {slot word : Nat} {op : Access} {snd : Sender} (h : Shaped s) :
    ShapedNext (execHalterEntryWrite slot word op snd s) :=
  .ite (h.request fun h1 => h1.accessTo) (.next h)

theorem execTenantKeyWrite_shaped {tenant : Nat} {hi : Bool} {v : Word64} {snd : Sender} (h : Shaped s) :
    ShapedNext (execTenantKeyWrite tenant hi v snd s) :=
  h.putCommand

theorem execArbCommit_shaped {v : Word64} {snd : Sender} (h : Shaped s) : ShapedNext (execArbCommit v snd s) :=
  h.putCommand

theorem execGctlWrite_shaped {v : Word64} {snd : Sender} (h : Shaped s) : ShapedNext (execGctlWrite v snd s) :=
  h.putCommand

theorem execTkHmwinWrite_shaped {v : Word64} {snd : Sender} (h : Shaped s) : ShapedNext (execTkHmwinWrite v snd s) :=
  h.putCommand

theorem execEventRingEnable_shaped {v : Word64} {snd : Sender} (h : Shaped s) : ShapedNext (execEventRingEnable v snd s) :=
  h.putCommand

theorem execSyncRegisterWrite_shaped {off : Nat} {v : Word64} {snd : Sender} (h : Shaped s) : ShapedNext (execSyncRegisterWrite off v snd s) :=
  h.putCommand

theorem execPaddockWindowAccess_shaped {off : Nat} {v : Option Word64} {snd : Sender} (h : Shaped s) :
    ShapedNext (execPaddockWindowAccess off v snd s) := by
  unfold execPaddockWindowAccess
  split
  · exact h.putCommand
  · exact .ite (h.request fun h1 => h1.readWord.answer) (.next h)

theorem execPowerRegisterWrite_shaped {off : Nat} {v : Word64} {snd : Sender} (h : Shaped s) : ShapedNext (execPowerRegisterWrite off v snd s) :=
  h.putCommand

theorem execPdCommit_shaped {v : Word64} {snd : Sender} (h : Shaped s) : ShapedNext (execPdCommit v snd s) :=
  h.putCommand

theorem execLcReqWrite_shaped {v : Word64} {rmaEn : Bool} {snd : Sender} (h : Shaped s) : ShapedNext (execLcReqWrite v rmaEn snd s) :=
  h.frame.putCommand

theorem Shaped.mailbox {cmd : Nat} {arg : Word64} {seq : BitVec 8} {snd : Sender} {out : Option TestOut} (h : Shaped s) :
    ShapedNext (s.mailbox cmd arg seq snd out) :=
  h.request fun h1 => h1.putTo.replied.putTo

theorem execPing_shaped {arg : Word64} {seq : BitVec 8} {snd : Sender} (h : Shaped s) : ShapedNext (execPing arg seq snd s) :=
  h.mailbox

theorem execCtxSave_shaped {arg : Word64} {seq : BitVec 8} {snd : Sender} (h : Shaped s) : ShapedNext (execCtxSave arg seq snd s) :=
  h.mailbox

theorem execCtxRestore_shaped {arg : Word64} {seq : BitVec 8} {snd : Sender} (h : Shaped s) : ShapedNext (execCtxRestore arg seq snd s) :=
  h.mailbox

theorem execTelemCfg_shaped {arg : Word64} {seq : BitVec 8} {snd : Sender} (h : Shaped s) : ShapedNext (execTelemCfg arg seq snd s) :=
  h.mailbox

theorem execFaultLog_shaped {arg : Word64} {seq : BitVec 8} {snd : Sender} (h : Shaped s) : ShapedNext (execFaultLog arg seq snd s) :=
  h.mailbox

theorem execClusterTest_shaped {arg : Word64} {seq : BitVec 8} {mbistOk lbistOk : Bool} {words : List Nat} {snd : Sender} (h : Shaped s) :
    ShapedNext (execClusterTest arg seq mbistOk lbistOk words snd s) :=
  h.mailbox

theorem execLeaseBreak_shaped {arg : Word64} {seq : BitVec 8} {snd : Sender} (h : Shaped s) : ShapedNext (execLeaseBreak arg seq snd s) :=
  h.mailbox

theorem execQueueAbandon_shaped {arg : Word64} {seq : BitVec 8} {snd : Sender} (h : Shaped s) : ShapedNext (execQueueAbandon arg seq snd s) :=
  h.mailbox

theorem execDbgSnapshot_shaped {arg : Word64} {seq : BitVec 8} {snd : Sender} (h : Shaped s) : ShapedNext (execDbgSnapshot arg seq snd s) :=
  h.mailbox

theorem execDbgTrace_shaped {arg : Word64} {seq : BitVec 8} {snd : Sender} (h : Shaped s) : ShapedNext (execDbgTrace arg seq snd s) :=
  h.mailbox

end Sys2Proof.Machine
end

section
/-! SUPPORT. Builds, mask loads, the test port and timeouts keep the shape. -/

namespace Sys2Proof.Machine

-- The default arguments of `Shaped.frame` are tactics, and each waits for the declarations before its own: in order, none holds a thread meanwhile.
set_option Elab.async false

variable {s t : State}

theorem Shaped.repackFailed {j : RepackJob} {e : RepackEnd} (h : Shaped s) : Shaped (s.repackFailed j e) := by
  unfold State.repackFailed
  refine Shaped.recheckAll ?_
  split
  · exact .ite h.post.halt h.post
  · exact h.post

theorem Shaped.beginBuild {j : RepackJob} {d : RepackDesc} (h : Shaped s) : Shaped (s.beginBuild j d) :=
  (h.foldl fun h1 => h1.setF).frame (hpl := by simp)

theorem execRepackStart_shaped (h : Shaped s) : ShapedNext (execRepackStart s) := by
  unfold execRepackStart
  dsimp only
  split
  · exact .next h
  · refine .ite (.next h) ?_
    refine .ite (.next h.readHost.frame.repackFailed) ?_
    split
    · exact .next (Shaped.ite h.readHost.frame h.readHost.frame.writeHost).repackFailed
    · exact .ite (.next h) (.next h.readHost.frame.beginBuild)

theorem Shaped.readMasters {j : RepackJob} {d : RepackDesc} (h : Shaped s) : Shaped (s.readMasters j d) :=
  h.foldl fun h1 => .ite h1.readHost.readHost h1.readHost

theorem Shaped.writeLoc {l : Loc} {bs : List Byte} (h : Shaped s) : Shaped (s.writeLoc l bs) := by
  unfold State.writeLoc
  split
  · exact h.writeSlice
  · exact .ite h.putMem h

theorem Shaped.writeRecord {r : RepackRun} {p : Nat} {loc : PlaneView → Loc} {epoch : Nat} {bs : List Byte} (h : Shaped s) :
    Shaped (s.writeRecord r p loc epoch bs) :=
  .ite ((Shaped.ite h.writeLoc h).writeLoc) (.ite h.writeLoc h)

theorem Shaped.passRepack {j : RepackJob} (h : Shaped s) : Shaped (s.passRepack j) := by
  unfold State.passRepack
  split
  · exact .ite (.ite h.setQx h.passItem) h
  · exact h

theorem Shaped.setReady {r : RepackRun} {epoch : Nat} {devs : List (Nat × Nat)} (h : Shaped s) : Shaped (s.setReady r epoch devs) :=
  (h.foldl fun h1 => h1.setF).advanceG

theorem execRepackComplete_shaped (h : Shaped s) : ShapedNext (execRepackComplete s) := by
  unfold execRepackComplete
  dsimp only
  split
  · exact .next h
  · refine .ite ?_ ?_
    · exact .next h
    · exact .next (h.bump.frame.readMasters.foldl fun h1 => h1.foldl fun h2 => h2.writeRecord).setReady.writeHost.frame.passRepack.recheckAll

theorem execRepackStop_shaped (h : Shaped s) : ShapedNext (execRepackStop s) := by
  unfold execRepackStop
  dsimp only
  split
  · exact .next h
  · refine .ite ?_ ?_
    · exact .next h
    · exact .next (h.bump.frame.readMasters.foldl fun h1 => .ite h1.writeRecord h1).setF.writeHost.frame.repackFailed

theorem Shaped.endLoad {q : Nat} (h : Shaped s) : Shaped (s.endLoad q) :=
  h.setQx

theorem execMaskLoadComplete_shaped (h : Shaped s) : ShapedNext (execMaskLoadComplete s) := by
  unfold execMaskLoadComplete
  split
  · exact .next h
  · exact .ite (.next h) (.next (h.readHost.frame (hms := by simp)).mend.endLoad.advanceG)

theorem Shaped.throughBypass {code : Nat} (h : Shaped s) : Shaped (s.throughBypass code) :=
  h.bump.frame

theorem Shaped.loadWir {code : Nat} {effect : TestX → TestX} (h : Shaped s) (he : ∀ x, x.bist.length = 20 → (effect x).bist.length = 20) :
    Shaped (s.loadWir code effect) :=
  .ite (h.frame (hte := (he _ h.bist).trans h.bist.symm)) h.throughBypass

theorem execWsBypass_shaped {x : BitVec 4} (h : Shaped s) : ShapedNext (execWsBypass x s) :=
  .next h.throughBypass

theorem execWsSafe_shaped (h : Shaped s) : ShapedNext (execWsSafe s) :=
  .next (h.loadWir fun x hx => by split <;> exact hx)

theorem execWsPreload_shaped {cells : List Bool} (h : Shaped s) : ShapedNext (execWsPreload cells s) :=
  .next (h.loadWir fun _ hx => hx)

theorem execWsClamp_shaped (h : Shaped s) : ShapedNext (execWsClamp s) :=
  .next h.throughBypass

theorem execWsExtest_shaped {captured : List Bool} (h : Shaped s) : ShapedNext (execWsExtest captured s) :=
  .next (h.loadWir fun _ hx => hx)

theorem execWsIntest_shaped {captured : List Bool} (h : Shaped s) : ShapedNext (execWsIntest captured s) :=
  .next (h.loadWir fun _ hx => hx)

theorem length_bistOf (failed : BitVec 18) (old : List Nat) : (bistOf failed old).length = 20 := by simp [bistOf]

theorem execMsMbist_shaped {failed : BitVec 18} (h : Shaped s) : ShapedNext (execMsMbist failed s) :=
  .next (.ite (h.bump.loadWir fun _ _ => length_bistOf ..) (h.loadWir fun _ hx => hx))

theorem execMsLbist_shaped {failed : BitVec 18} (h : Shaped s) : ShapedNext (execMsLbist failed s) :=
  .next (h.loadWir fun _ _ => length_bistOf ..)

theorem execMsFuse_shaped {bits : BitVec 1024} (h : Shaped s) : ShapedNext (execMsFuse bits s) := by
  have h1 {l : List Bool} : Shaped (s.loadWir 10 fun t => { t with seen := l, wso := l }) := h.loadWir fun _ hx => hx
  exact .next (.ite h1.frame h1)

theorem Shaped.scanned {inst : Instrument} {opens : Bool} {bits : List Bool} (h : Shaped s) : Shaped (s.scanned inst opens bits) :=
  h.frame

theorem Shaped.preempt {ch : Nat} (h : Shaped s) : Shaped (s.preempt ch) :=
  .ite h.bump.addSat h.bump

theorem Shaped.bridleRead {addr : Nat} (h : Shaped s) : Shaped (s.bridleRead addr) :=
  .ite h.scanned h.preempt.readHost.scanned

theorem Shaped.bridleWrite {addr : Nat} {data : List Byte} (h : Shaped s) : Shaped (s.bridleWrite addr data) :=
  .ite h.scanned h.preempt.writeHost.scanned

theorem Shaped.bridle {index : Nat} {x : BridleOp} (h : Shaped s) : Shaped (s.bridle index x) := by
  unfold State.bridle
  split
  · exact h.bump.scanned.frame
  · exact h.scanned.frame
  · exact h.bridleRead
  · exact h.bridleWrite

theorem execIeee1687Access_shaped {inst : Instrument} {index : Nat} {op : BridleOp} (h : Shaped s) :
    ShapedNext (execIeee1687Access inst index op s) :=
  .ite (.next h.scanned) (.ite (.next h.bridle) (.next h.bump.scanned))

-- The kernel reduces `vacancy` to compare the pair with its parts.
set_option maxRecDepth 2000 in
theorem Shaped.lateVacancy {f : Flight} {n i : Nat} {k : List Nat} {r : RowState} (h : Shaped s) : Shaped (s.lateVacancy f n i k r).1 := by
  unfold State.lateVacancy
  refine Shaped.ite_fst h ?_
  dsimp only
  split
  · exact Shaped.ite_fst (.ite h.vacancy h.vacancy.setReq) h
  · exact .ite h.vacancy h.vacancy.setReq

theorem Shaped.abandonRow {x : State × Emission × List Nat × List Nat} {f : Flight} {i : Nat} {r : RowState} (h : Shaped x.1) :
    Shaped (State.abandonRow x f i r).1 := by
  unfold State.abandonRow
  split
  next s e k vac =>
  split
  · split
    next t v hv =>
      have ht : Shaped t := .of_fst hv h.lateVacancy
      exact Shaped.ite_fst ht (Shaped.ite_fst ht.emitRetain (Shaped.ite_fst ht.formRecord (.ite ht ht.callEnd)))
  · exact h

theorem Shaped.abandonEmit {f : Flight} (h : Shaped s) : Shaped (s.abandonEmit f).1 := by
  unfold State.abandonEmit
  dsimp only
  refine .issueEmission (.foldl (.foldl_fst (a := (_, _)) ?_ fun h => Shaped.abandonRow h) fun h => h.freeRets)
  exact .ite h.releaseRings (h.releaseRings.foldl fun h => h.rereadCons)

theorem Shaped.abandonScores {f : Flight} (h : Shaped s) : Shaped (s.abandonScores f).1 :=
  .ite h.writeHost h

theorem Shaped.abandonEarly {f : Flight} (h : Shaped s) : Shaped (s.abandonEarly f).1 :=
  Shaped.ite_fst h h.writeHost

theorem Shaped.dropWaits {f : Flight} (h : Shaped s) : Shaped (s.dropWaits f) :=
  h.frame (hsy := by split <;> rfl)

theorem execStepTimeout_shaped {ln : Nat} (h : Shaped s) : ShapedNext (execStepTimeout ln s) := by
  unfold execStepTimeout
  split
  · exact .next h
  · extract_lets stage wait round
    refine .ite (.next h) ?_
    split
    next s1 g e1 =>
    have h1 : Shaped s1 := .of_fst e1 (.ite_fst h (.ite_fst h.abandonEarly (.ite_fst h.abandonScores h.abandonEmit)))
    exact .next (Shaped.ite h1.dropWaits.setFlight.addSat.post h1.dropWaits.setFlight.addSat).post

theorem execCoalesceWindowClose_shaped {key : CoalKey} (h : Shaped s) : ShapedNext (execCoalesceWindowClose key s) := by
  unfold execCoalesceWindowClose
  split
  · exact .next h
  · exact .next h.closeWindow.frame
  · exact .next h.closeWindow

end Sys2Proof.Machine
end

section
/-! SUPPORT. Every command keeps the shape. -/

namespace Sys2Proof.Machine

-- The default arguments of `Shaped.frame` are tactics, and each waits for the declarations before its own: in order, none holds a thread meanwhile.
set_option Elab.async false

variable {s t : State}

/-- Each command leaves the shape. -/
theorem exec_shaped {c : Instr} (h : Shaped s) : ShapedNext (exec c s) := by
  cases c <;> rw [exec]
  exacts [execDoorbell_shaped h, execQueueEnable_shaped h, execQueueDisable_shaped h, execResume_shaped h, execSkip_shaped h,
    execSlotFetchArrival_shaped h, execDecode_shaped h, execG2g3Descriptor_shaped h, execLaunch_shaped h, execNop_shaped h,
    execHalt_shaped h, execStepOpen_shaped h, execStepEnd_shaped h, execRows_shaped h, execLoadh_shaped h, execAllocateWorkingSet_shaped h,
    execHistorySnapshot_shaped h, execFillRelease_shaped h, execScreen_shaped h, execM0Broadcast_shaped h, execSumSweep_shaped h,
    execRefineRound_shaped h, execScreenInstr_shaped h, execRefine_shaped h, execFuse_shaped h, execBias_shaped h, execPenal_shaped h,
    execTemp_shaped h, execMaskUse_shaped h, execGumbel_shaped h, execDraw_shaped h, execSelect_shaped h, execVerify_shaped h,
    execEmit_shaped h, execEmitConsRetry_shaped h, execCompletionStatus_shaped h, execScoreq_shaped h, execKlref_shaped h,
    execGrad_shaped h, execGradTransposedPass_shaped h, execXmerge_shaped h, execMergeRoundComplete_shaped h, execDigest_shaped h,
    execDigestDelivery_shaped h, execDigestBisectRound_shaped h, execMismatchClear_shaped h, execLaunchat_shaped h,
    execLaunchatSatisfied_shaped h, execBarrier_shaped h, execBarrierRelease_shaped h, execSyncBarDn_shaped h, execSyncBarCup_shaped h,
    execWaitq_shaped h, execSignal_shaped h, execFence_shaped h, execPut_shaped h, execGet_shaped h, execRepack_shaped h,
    execRepackStart_shaped h, execRepackComplete_shaped h, execRepackStop_shaped h, execMaskLoad_shaped h, execMaskLoadComplete_shaped h,
    execTabcommit_shaped h, execCommitGo_shaped h, execCommitCheckDone_shaped h, execLaneCopyDone_shaped h, execBankDrainDone_shaped h,
    execBankCopyDone_shaped h, execTableWindowWrite_shaped h, execNormal_shaped h, execPsRelease_shaped h, execPsAdopt_shaped h,
    execLeaseAcquire_shaped h, execLeaseRelease_shaped h, execLeaseDiscard_shaped h, execHalterEntryWrite_shaped h,
    execLeaseTimeout_shaped h, execAdmission_shaped h, execDeadlineScan_shaped h, execAgeing_shaped h, execYarrowBlock_shaped h,
    execYarrowReport_shaped h, execTenantKeyWrite_shaped h, execArbCommit_shaped h, execArbSnapshotApply_shaped h,
    execArbModeChange_shaped h, execGctlWrite_shaped h, execTkHmwinWrite_shaped h, execEventRingEnable_shaped h,
    execSyncRegisterWrite_shaped h, execPaddockWindowAccess_shaped h, execPowerRegisterWrite_shaped h, execRcFieldRead_shaped h,
    execRegisterWrite_shaped h, execLcReqWrite_shaped h, execLcFuseDone_shaped h, execPing_shaped h, execCtxSave_shaped h,
    execCtxRestore_shaped h, execTelemCfg_shaped h, execFaultLog_shaped h, execClusterTest_shaped h, execLeaseBreak_shaped h,
    execQueueAbandon_shaped h, execDbgSnapshot_shaped h, execDbgTrace_shaped h, execPadRepair_shaped h, execCeStorm_shaped h,
    execScrubFix_shaped h, execStaleFail_shaped h, execSorrelCheck_shaped h, execLinkLog_shaped h, execLockstepLog_shaped h,
    execFarrierReset_shaped h, execFarrierRestartDone_shaped h, execTelemetryPeriod_shaped h, execStepTimeout_shaped h,
    execRspTimeout_shaped h, execCoalesceWindowClose_shaped h, execSramPatrol_shaped h, execScrubRead_shaped h, execSorrelReseed_shaped h,
    execHResponse_shaped h, execMcReadResponse_shaped h, execMcWriteAck_shaped h, execMcOrdAck_shaped h, execCapReceive_shaped h,
    execCapResend_shaped h, execModeAckReceive_shaped h, execCreditInitReceive_shaped h, execNegotiateTimeout_shaped h,
    execEpochNote_shaped h, execLinkFault_shaped h, execQuiesce_shaped h, execDrained_shaped h, execIsolate_shaped h,
    execPdAoPowerUp_shaped h, execReset_shaped h, execWipeDone_shaped h, execBistDone_shaped h, execPdCommit_shaped h,
    execDomainMove_shaped h, execPdAck_shaped h, execClusterRecovery_shaped h, execChipSleepReq_shaped h, execChipWake_shaped h,
    execSupplyWarning_shaped h, execSupplyRecovered_shaped h, execSupplyReset_shaped h, execDvfsDecision_shaped h, execVselAck_shaped h,
    execVselTimeout_shaped h, execEnergyRefill_shaped h, execThermalSample_shaped h, execSyncTick_shaped h, execSyncLoad_shaped h,
    execWsBypass_shaped h, execWsSafe_shaped h, execWsPreload_shaped h, execWsClamp_shaped h, execWsExtest_shaped h, execWsIntest_shaped h,
    execMsMbist_shaped h, execMsLbist_shaped h, execMsFuse_shaped h, execIeee1687Access_shaped h, execCreditReturn_shaped h,
    execMailboxCommandDone_shaped h, execSupplyRecoveryCrossing_shaped h, execPdAckBudgetExceeded_shaped h]

/-- Settles O6: a step idles, or runs one command from the same lists. -/
theorem stepsKeepTheShape : Obligations.StepsKeepTheShape := by
  intro s t h hstep
  unfold step at hstep
  split at hstep
  · exact (ShapedNext.next h) t hstep
  · exact exec_shaped h.frame t hstep

end Sys2Proof.Machine
end

section
/-! SUPPORT. What the register words hold after reset: each queue, entry and plane set holds what the first of its kind holds. -/

namespace Sys2Proof.Machine

theorem regDefault_queue {q d : Nat} (hq : q < 32) (hd : d < 0x40) : regDefault (rQ q + d) = regDefault (rQ 0 + d) := by
  have hmod : (0x2000 + 0x40 * q + d) % 0x40 = (0x2000 + 0x40 * 0 + d) % 0x40 := by omega
  unfold regDefault rQ
  simp (disch := omega) only [if_neg, if_pos, hmod]

theorem regDefault_entry {n w : Nat} (hn : n < 8192) (hw : w < 16) : regDefault (rENT n w) = regDefault (rENT 0 w) := by
  have hmod : (0x100000 + 0x80 * n + 8 * w) % 0x80 = (0x100000 + 0x80 * 0 + 8 * w) % 0x80 := by omega
  unfold regDefault rENT
  simp (disch := omega) only [if_neg, if_pos, hmod]

theorem regDefault_planeSet {n d : Nat} (hn : n < 16) (hd : d < 0x40) : regDefault (rPS n + d) = regDefault (rPS 0 + d) := by
  have hmod : (0x8000 + 0x40 * n + d) % 0x40 = (0x8000 + 0x40 * 0 + d) % 0x40 := by omega
  unfold regDefault rPS
  simp (disch := omega) only [if_neg, if_pos, hmod]

/-- After reset no word has been written, so a field is a field of the word's default. -/
theorem State.reset_getF {off off' : Nat} (h : regDefault off = regDefault off') (l n : Nat) :
    State.reset.getF ⟨off, l, n⟩ = State.reset.getF ⟨off', l, n⟩ :=
  congrArg (getBits · l n) h

/-- Settles O3: each queue, entry and plane set resets as the first of its kind, and the words of the first are evaluated. -/
theorem resetHoldsTheTableValues : Obligations.ResetHoldsTheTableValues := by
  unfold Obligations.ResetHoldsTheTableValues
  refine ⟨fun q hq => ?_, fun n hn => ?_, fun n hn => ?_, by decide⟩
  · have hword {d l w : Nat} (hd : d < 0x40) := State.reset_getF (regDefault_queue hq hd) l w
    have hen : State.reset.qEn q = State.reset.qEn 0 := congrArg (· == 1) (hword (by decide))
    exact ⟨hen.trans (by decide), (hword (by decide)).trans (by decide), (hword (by decide)).trans (by decide),
      (hword (by decide)).trans (by decide), (hword (by decide)).trans (by decide), (hword (by decide)).trans (by decide),
      (hword (by decide)).trans (by decide), (hword (by decide)).trans (by decide)⟩
  · have hword {k l w : Nat} (hk : k < 16) := State.reset_getF (regDefault_entry hn hk) l w
    exact ⟨(hword (by decide)).trans (by decide), (hword (by decide)).trans (by decide), (hword (by decide)).trans (by decide),
      (hword (by decide)).trans (by decide)⟩
  · have hword {d l w : Nat} (hd : d < 0x40) := State.reset_getF (regDefault_planeSet hn hd) l w
    exact ⟨(hword (d := 0) (by decide)).trans (by decide), (hword (by decide)).trans (by decide)⟩

end Sys2Proof.Machine
end

section
/-! SUPPORT. Writes of a plane set's `STATE`: which register word they reach, what a release clears and what an adoption keeps (R57, R58). -/

namespace Sys2Proof.Machine

variable {s t : State} {n : Nat} {v : Word64} {snd : Sender}

/-! The write reaches `PS_STAT`. -/

theorem planeSet_plainReg (hn : n < 16) : plainReg (rPS n) = true := by
  interval_cases n <;> rfl

theorem regFields_planeStat (hn : n < 16) : regFields (rPS n) = planeSetFields 0 := by
  interval_cases n <;> rfl

/-- `STATE` is the only field of the word with a range (R57). -/
theorem State.rangeOk_planeStat (hn : n < 16) (hst : getBits v 0 3 ≤ 4) : t.rangeOk (rPS n) v = true := by
  refine t.rangeOk_of_ok ?_
  rw [regFields_planeStat hn]
  simpa [planeSetFields, Rng.ok] using hst

theorem State.writeReg_planeStat (hn : n < 16) (hst : getBits v 0 3 ≤ 4) : t.writeReg (rPS n) v none = some (t.writePsStat n v) := by
  have hrange : t.rangeOk (rPS n) v = true := State.rangeOk_planeStat hn hst
  have hmod : rPS n % 0x40 = 0 := by unfold rPS; omega
  have hset : rPS n / 0x40 % 16 = n := by unfold rPS; omega
  have hlo : 0x8000 ≤ rPS n := by unfold rPS; omega
  have hhi : rPS n < 0x8400 := by unfold rPS; omega
  have hne : ∀ o ∈ [rGCTL, rLIFECYCLE, rMBOX_ARG, rMBOX_CMD, rARB_COMMIT, rEV_SIZE, 0x3000], rPS n ≠ o := by
    have hbelow : ∀ o ∈ [rGCTL, rLIFECYCLE, rMBOX_ARG, rMBOX_CMD, rARB_COMMIT, rEV_SIZE, 0x3000], o < 0x8000 := by decide
    intro o ho
    have := hbelow o ho
    omega
  simp only [List.forall_mem_cons] at hne
  obtain ⟨h1, h2, h3, h4, h5, h6, h7, -⟩ := hne
  rw [State.writeReg, if_neg (by simp [hrange]), if_neg h1, if_neg h2, if_neg h3, if_neg h4, if_neg (by omega), if_neg h5, if_neg (by omega),
    if_neg (by omega), if_neg h6, if_neg h7, if_pos ⟨hlo, hhi⟩, State.writePs, if_pos hmod, hset]

theorem putCommand_planeStat (h : Heard s snd t) (hn : n < 16) (hst : getBits v 0 3 ≤ 4) :
    s.putCommand (decide (n < 16)) (rPS n) v snd = .next (((t.writePsStat n v).answer rOK []).replied snd opWR 1) := by
  rw [State.putCommand, if_pos (decide_eq_true hn), State.request_heard _ _ _ _ _ _ h.1 h.2,
    State.putTo_plain_some _ _ (planeSet_plainReg hn) v snd none (State.writeReg_planeStat hn hst)]

theorem rPS_inj {m : Nat} (h : m ≠ n) : rPS m ≠ rPS n := by unfold rPS; omega

/-! Release (R57). -/

theorem State.writePsStat_release (hst : getBits v 0 3 = 0) (hbuilt : 2 ≤ t.getF (fPS_STATE n)) (hu : t.users n = 0)
    (hp : t.repackPending n = false) :
    t.writePsStat n v = (t.setF (fPS_FROZEN n) (getBits v 8 1)).psFree n := by
  simp [State.writePsStat, hst, hbuilt, hu, hp]

/-- Clears words of a set: the fold of `State.psFree`. -/
def State.clearWords (s : State) (n : Nat) (l : List Nat) : State := l.foldl (fun s o => s.setReg (rPS n + o) 0) s

theorem State.clearWords_reg_other {o : Nat} {l : List Nat} (h : ∀ c ∈ l, o ≠ rPS n + c) : (s.clearWords n l).reg o = s.reg o := by
  unfold State.clearWords
  induction l generalizing s with
  | nil => rfl
  | cons c l ih =>
    obtain ⟨hc, hl⟩ := List.forall_mem_cons.1 h
    rw [List.foldl_cons, ih hl, State.reg_setReg_other _ _ hc]

/-- The words of the set other than `PS_STAT` and that of its `EPOCH` are cleared, and `PS_STAT` keeps `FROZEN` alone. -/
theorem State.psFree_regs : (s.psFree n).regs = ((((s.setReg (rPS n) 0).setFlag (fPS_FROZEN n) (s.flag (fPS_FROZEN n))).clearWords n
    [0x10, 0x18, 0x20, 0x28, 0x30]).setReg (rPS n + 0x38) (regDefault (rPS n + 0x38))).regs := rfl

/-- A release leaves `PS_STAT` to its first two writes. -/
theorem State.psFree_reg_apart {o : Nat} (h : ∀ c ∈ [0x10, 0x18, 0x20, 0x28, 0x30, 0x38], o ≠ rPS n + c) :
    (s.psFree n).reg o = ((s.setReg (rPS n) 0).setFlag (fPS_FROZEN n) (s.flag (fPS_FROZEN n))).reg o := by
  rw [State.reg_congr State.psFree_regs, State.reg_setReg_other _ _ (h _ (by decide)), State.clearWords_reg_other fun c hc => h c ?_]
  exact (List.mem_append_left [0x38] hc :)

theorem State.psFree_reg_other {o : Nat} (h : ∀ c ∈ [0, 0x10, 0x18, 0x20, 0x28, 0x30, 0x38], o ≠ rPS n + c) : (s.psFree n).reg o = s.reg o := by
  obtain ⟨h0, hl⟩ := List.forall_mem_cons.1 h
  rw [State.psFree_reg_apart hl, State.setFlag, State.reg_setF_other _ _ _ h0]
  exact s.reg_setReg_other _ h0

theorem State.psFree_state : (s.psFree n).getF (fPS_STATE n) = 0 := by
  rw [State.getF_congr (State.psFree_reg_apart (by simp [fPS_STATE])), State.setFlag,
    State.getF_setF_other _ _ _ (show 0 + 3 ≤ 64 by decide) (.inr (.inl (show 0 + 3 ≤ 8 by decide)))]
  exact congrArg (getBits · 0 3) (State.reg_setReg_same ..)

@[simp] theorem State.psFree_mem : (s.psFree n).mem = s.mem := by simp [State.psFree, State.setFlag]
@[simp] theorem State.psFree_flights : (s.psFree n).flights = s.flights := by simp [State.psFree, State.setFlag]

theorem State.psFree_epoch {k : Nat} : ((s.setF (fPS_FROZEN n) k).psFree n).getF (fPS_EPOCH n) = s.getF (fPS_EPOCH n) := by
  have hfree : ((s.setF (fPS_FROZEN n) k).psFree n).reg (rPS n + 0x08) = (s.setF (fPS_FROZEN n) k).reg (rPS n + 0x08) :=
    State.psFree_reg_other (by simp)
  exact State.getF_congr (hfree.trans (s.reg_setF_other (fPS_FROZEN n) k (by simp [fPS_FROZEN])))

theorem State.psFree_state_other {k m : Nat} (hne : m ≠ n) : ((s.setF (fPS_FROZEN n) k).psFree n).getF (fPS_STATE m) = s.getF (fPS_STATE m) := by
  have hfree : ((s.setF (fPS_FROZEN n) k).psFree n).reg (rPS m) = (s.setF (fPS_FROZEN n) k).reg (rPS m) :=
    State.psFree_reg_other (by simp only [List.forall_mem_cons, rPS]; simp; omega)
  exact State.getF_congr (hfree.trans (s.reg_setF_other (fPS_FROZEN n) k (rPS_inj hne)))

/-! Adoption (R58). -/

/-- The fields of `PS_STAT` that every write sets. -/
def State.setPlaneStat (s : State) (n : Nat) (v : Word64) : State :=
  s.setFields [(fPS_FROZEN n, getBits v 8 1), (fPS_PAIRED n, getBits v 9 1), (fPS_REF n, getBits v 12 4)]

theorem State.writePsStat_adopt (hst : getBits v 0 3 = 2) (hempty : t.getF (fPS_STATE n) = 0) :
    t.writePsStat n v = (t.setPlaneStat n v).psAdopt n := by
  simp [State.writePsStat, State.setPlaneStat, State.setFields, hst, hempty]

theorem State.setPlaneStat_reg_other {o : Nat} (h : o ≠ rPS n) : (s.setPlaneStat n v).reg o = s.reg o :=
  s.setFields_reg_other _ (by simpa [fPS_FROZEN, fPS_PAIRED, fPS_REF] using h)

theorem State.setPlaneStat_state : (s.setPlaneStat n v).getF (fPS_STATE n) = s.getF (fPS_STATE n) :=
  s.getF_setFields_other (show 0 + 3 ≤ 64 by decide) _ (by simp [fPS_STATE, fPS_FROZEN, fPS_PAIRED, fPS_REF, Fld.apart])

/-- The three fields lie apart, so each holds its bits of the write. -/
theorem State.getF_setPlaneStat {l w : Nat} (hw : l + w ≤ 64)
    (h : (⟨rPS n, l, w⟩, getBits v l w) ∈ [(fPS_FROZEN n, getBits v 8 1), (fPS_PAIRED n, getBits v 9 1), (fPS_REF n, getBits v 12 4)]) :
    (s.setPlaneStat n v).getF ⟨rPS n, l, w⟩ = getBits v l w := by
  rw [State.setPlaneStat, s.getF_setFields (by simp [fPS_FROZEN, fPS_PAIRED, fPS_REF, Fld.apart]) hw h]
  exact Nat.mod_eq_of_lt (getBits_lt v l w)

/-- The checks of an adoption do not look at `PS_STAT`. -/
theorem State.adoptFail_congr (h : ∀ o, o ≠ rPS n → t.reg o = s.reg o) : t.adoptFail n = s.adoptFail n := by
  have hfld {c l w : Nat} : t.getF ⟨rPS n + (c + 1), l, w⟩ = s.getF ⟨rPS n + (c + 1), l, w⟩ := State.getF_congr (h _ (by simp))
  have hhost (p : Nat) : t.getF (fPS_HOST n p) = s.getF (fPS_HOST n p) := State.getF_congr (h _ (by simp only [fPS_HOST]; omega))
  rw [State.adoptFail, State.adoptFail, show t.getF (fPS_VLO n) = _ from hfld, show t.getF (fPS_VHI n) = _ from hfld,
    show t.getF (fPS_HEADV n) = _ from hfld, show t.getF (fPS_HDIM n) = _ from hfld, show t.getF (fPS_EPOCH n) = _ from hfld]
  simp only [hhost]
  rfl

/-- An adoption that fails posts its event; one that passes makes the set `HOST`. -/
theorem State.psAdopt_cases : (s.adoptFail n ≠ none ∧ ∃ e, s.psAdopt n = s.post e) ∨
    (s.adoptFail n = none ∧ s.psAdopt n = State.advanceG { s.setF (fPS_STATE n) 2 with placed := s.placed.set n [] }) := by
  unfold State.psAdopt
  split
  · exact .inl ⟨by simp [*], _, rfl⟩
  · exact .inr ⟨‹_›, rfl⟩

theorem rPS_offEvents (hn : n < 16) : OffEvents (rPS n) := by unfold OffEvents rPS; omega

theorem State.psAdopt_state (hn : n < 16) (hempty : s.getF (fPS_STATE n) = 0) :
    (s.psAdopt n).getF (fPS_STATE n) = if s.adoptFail n = none then 2 else 0 := by
  rcases s.psAdopt_cases (n := n) with ⟨hf, e, h⟩ | ⟨hf, h⟩
  · rw [h, State.post_getF _ _ (rPS_offEvents hn), if_neg hf, hempty]
  · rw [h, if_pos hf]
    exact s.getF_setF_same (fPS_STATE n) 2 (show 0 + 3 ≤ 64 by decide)

/-- An adoption changes `STATE` and, where it fails, the registers of events. -/
theorem State.psAdopt_getF {f : Fld} (hoff : OffEvents f.off) (hf : f.lsb + f.width ≤ 64) (hapart : (fPS_STATE n).apart f) :
    (s.psAdopt n).getF f = s.getF f := by
  rcases s.psAdopt_cases (n := n) with ⟨-, e, h⟩ | ⟨-, h⟩
  · rw [h, State.post_getF _ _ hoff]
  · rw [h]
    exact s.getF_setF_other (fPS_STATE n) 2 hf hapart

theorem State.psAdopt_fuses : (s.psAdopt n).fuses = s.fuses := by
  rcases s.psAdopt_cases (n := n) with ⟨-, e, h⟩ | ⟨-, h⟩
  · rw [h, State.post_fuses]
  · rw [h]
    rfl

theorem State.psAdopt_flights : (s.psAdopt n).flights = s.flights := by
  rcases s.psAdopt_cases (n := n) with ⟨-, e, h⟩ | ⟨-, h⟩
  · rw [h, State.post_flights]
  · rw [h]
    rfl

end Sys2Proof.Machine
end

section
/-! PROOF. Release and adoption of a plane set (R57, R58). -/

namespace Sys2Proof.Machine

/-- Settles O22: the write reaches `PS_STAT`; a release clears the set's words but its `EPOCH`, an adoption sets `STATE` or posts its event. -/
theorem planeSetReleaseAndAdopt : Obligations.PlaneSetReleaseAndAdopt := by
  unfold Obligations.PlaneSetReleaseAndAdopt
  intro s t n v snd h hn
  refine ⟨fun hst hbuilt hu hp => ?release, fun hst hempty => ?adopt⟩
  case release =>
    refine ⟨_, putCommand_planeStat h hn (by omega), rfl, ?_⟩
    simp only [State.replied_getF, State.answer_getF, State.replied_mem, State.answer_mem, State.replied_flights, State.answer_flights,
      State.writePsStat_release hst hbuilt hu hp]
    exact ⟨State.psFree_state, State.psFree_epoch, fun m _ hne => State.psFree_state_other hne, State.psFree_mem, State.psFree_flights⟩
  case adopt =>
    have hold {l w} (hl : l + w ≤ 64) (ha : 3 ≤ l) :
        ((t.setPlaneStat n v).psAdopt n).getF ⟨rPS n, l, w⟩ = (t.setPlaneStat n v).getF ⟨rPS n, l, w⟩ :=
      State.psAdopt_getF (rPS_offEvents hn) hl (.inr (.inr ha))
    refine ⟨_, putCommand_planeStat h hn (by omega), rfl, ?_⟩
    rw [State.writePsStat_adopt hst hempty]
    simp only [State.replied_getF, State.answer_getF, State.replied_flag, State.answer_flag, State.replied_flights, State.answer_flights]
    refine ⟨?_, ?_, ?_, ?_, fun m hm hne => ?_, State.psAdopt_fuses, State.psAdopt_flights⟩
    · rw [State.psAdopt_state hn (State.setPlaneStat_state.trans hempty), State.adoptFail_congr fun o => State.setPlaneStat_reg_other]
    · exact (hold (by decide) (by decide)).trans (State.getF_setPlaneStat (by decide) (by simp [fPS_REF]))
    · rw [← getBits_one_beq]
      exact congrArg (· == 1) ((hold (by decide) (by decide)).trans (State.getF_setPlaneStat (by decide) (by simp [fPS_PAIRED])))
    · rw [← getBits_one_beq]
      exact congrArg (· == 1) ((hold (by decide) (by decide)).trans (State.getF_setPlaneStat (by decide) (by simp [fPS_FROZEN])))
    · exact (State.psAdopt_getF (n := n) (f := fPS_STATE m) (rPS_offEvents hm) (show 0 + 3 ≤ 64 by decide) (.inl (rPS_inj hne.symm))).trans
        (State.getF_congr (State.setPlaneStat_reg_other (rPS_inj hne)))

end Sys2Proof.Machine
end

section
/-! SUPPORT. What passing an item leaves of its queue: HEAD behind the item, and the rest of the queue's state (R300). -/

namespace Sys2Proof.Machine

variable {s : State} {q : Nat} {d : Decoded}

theorem State.passItem_of_item (g : Bool) (hd : (s.qx q).item = some d) : s.passItem q g =
    ((s.setQx q { s.qx q with slots := (s.qx q).slots.drop d.len, item := none, gated := g, ords := none }).addMod (fQ_HEAD q) d.len).refresh q := by
  rw [State.passItem, hd]

theorem State.getF_head_passItem (g : Bool) (hd : (s.qx q).item = some d) :
    (s.passItem q g).getF (fQ_HEAD q) = (s.getF (fQ_HEAD q) + d.len) % 2 ^ 32 := by
  rw [State.passItem_of_item g hd, State.getF_congr (State.refresh_reg _ q (by simp [fQ_HEAD])), State.addMod,
    State.getF_setF_same _ _ _ (show 0 + 32 ≤ 64 by decide), State.setQx_getF]
  exact Nat.mod_mod _ _

theorem State.qx_passItem_same (g : Bool) (hd : (s.qx q).item = some d) :
    (s.passItem q g).qx q = { s.qx q with slots := (s.qx q).slots.drop d.len, item := none, gated := g, ords := none } := by
  rw [State.passItem_of_item g hd, State.qx_congr (State.refresh_queues _ q), State.qx_congr (State.addMod_queues _ _ _),
    State.qx_setQx_same _ _ (s.lt_of_item hd)]

end Sys2Proof.Machine
end

section
/-! PROOF. What REPACK, MASK_LOAD and TABCOMMIT hand over (R45, R128, R155). -/

namespace Sys2Proof.Machine

variable {s : State} {q : Nat}

/-- Jobs of the queue are given, the others stay. -/
def giveJob (q : Nat) (j : RepackJob) : RepackJob := if j.queue == q then { j with given := true } else j

theorem giveJob_given {j : RepackJob} (h : (giveJob q j).queue = q) : (giveJob q j).given = true := by
  unfold giveJob at h ⊢
  split at h
  · simp [*]
  · simp_all

/-- A MASK_LOAD has been counted, and has not passed yet. -/
def State.loadBegun (s : State) (q : Nat) (j : MaskJob) : State :=
  State.setQx { s with maskJobs := s.maskJobs ++ [j], nextLn := s.nextLn + 1 } q { s.qx q with loads := (s.qx q).loads + 1 }

theorem State.qx_loadBegun (j : MaskJob) (hq : q < s.queues.length) : (s.loadBegun q j).qx q = { s.qx q with loads := (s.qx q).loads + 1 } :=
  State.qx_setQx_same { s with maskJobs := s.maskJobs ++ [j], nextLn := s.nextLn + 1 } _ hq

theorem exec_repack_give {d : Decoded} {ps rd : Nat} (hd : (s.qx q).item = some d) (hi : s.issuable q = some (.repack ps rd))
    (hw : d.waited = false) :
    exec (.repack q) s = .next { s with repackQ := s.repackQ.map (giveJob q) } := by
  change execRepack q s = _
  simp [execRepack, hi, hd, hw, giveJob]

theorem exec_repack_pass {d : Decoded} {ps rd : Nat} (hd : (s.qx q).item = some d) (hi : s.issuable q = some (.repack ps rd))
    (hw : d.waited = true) :
    exec (.repack q) s = .next (s.passItem q false) := by
  change execRepack q s = _
  simp [execRepack, hi, hd, hw]

theorem exec_maskLoad {d : Decoded} {set b n src : Nat} (hd : (s.qx q).item = some d) (hi : s.issuable q = some (.maskLoad set b n src)) :
    exec (.maskLoad q) s = .next (if s.power.stopped then s
      else (s.loadBegun q ⟨d.order, q, set, 64 * b, 64 * n, src, s.nextLn⟩).passItem q false) := by
  change execMaskLoad q s = _
  simp only [execMaskLoad, hi, hd]
  split <;> rfl

theorem exec_tabcommit (hi : s.issuable q = some .tabcommit) :
    exec (.tabcommit q) s = .next (if s.shadowOpen then s.startCommit (some q) else s) := by
  change execTabcommit q s = _
  simp only [execTabcommit, hi]
  split <;> rfl

/-- Settles O36: each instruction comes to the state that its rule names, and what passes an item leaves is read off that state. -/
theorem setUpInstructionsHandOverTheirWork : Obligations.SetUpInstructionsHandOverTheirWork := by
  unfold Obligations.SetUpInstructionsHandOverTheirWork
  intro s q d _ hd
  refine ⟨fun ps rd hi hw => ?give, fun ps rd hi hw => ?pass, fun set b n src hi hp => ?load, fun hi ho => ?commit, fun hi ho => ?wait,
    fun set b n src hi hp => ?dip⟩
  case give =>
    refine ⟨_, exec_repack_give hd hi hw, fun j hj hjq => ?_, rfl⟩
    obtain ⟨j, -, rfl⟩ := List.mem_map.1 hj
    exact giveJob_given hjq
  case pass =>
    exact ⟨_, exec_repack_pass hd hi hw, State.qx_passItem_same_item .., State.getF_head_passItem false hd, State.passItem_frame ..⟩
  case load =>
    have hqx (j : MaskJob) := State.qx_loadBegun (s := s) j (s.lt_of_item hd)
    have hitem (j : MaskJob) : ((s.loadBegun q j).qx q).item = some d := by rw [hqx, hd]
    refine ⟨_, by rw [exec_maskLoad hd hi, hp]; rfl, State.passItem_maskJobs .., State.passItem_nextLn .., ?_, State.qx_passItem_same_item .., ?_⟩
    · rw [State.qx_passItem_same false (hitem _), hqx]
    · rw [State.passItem_maskJobs, State.passItem_nextLn]
      exact State.passItem_frame ..
  case commit =>
    exact ⟨s.startCommit (some q), by rw [exec_tabcommit hi, if_pos ho], s.getF_setF_same fSHADOW_ST 1 (by decide), rfl, rfl, hd, rfl⟩
  case wait => rw [exec_tabcommit hi, if_neg (by simp [ho])]
  case dip => rw [exec_maskLoad hd hi, if_pos hp]

end Sys2Proof.Machine
end

section
/-! SUPPORT. The choice of a launch: one candidate for each eligible queue, of which the first that fits is picked (R324 to R326). -/

namespace Sys2Proof.Machine

variable {s : State} {q : Nat} {d : Decoded}

/-! Candidates. -/

theorem State.insertBy_perm (x : Nat × Decoded) (l : List (Nat × Decoded)) : (State.candidates.insertBy x l).Perm (x :: l) := by
  induction l with
  | nil => exact .refl _
  | cons y l ih =>
    unfold State.candidates.insertBy
    split
    · exact .refl _
    · exact (ih.cons y).trans (.swap x y l)

theorem State.insertAll_perm (l acc : List (Nat × Decoded)) : (l.foldl (fun acc x => State.candidates.insertBy x acc) acc).Perm (l ++ acc) := by
  induction l generalizing acc with
  | nil => exact .refl _
  | cons x l ih => exact (ih _).trans (((State.insertBy_perm x acc).append_left l).trans List.perm_middle)

/-- The candidate of a queue. -/
def State.candidate (s : State) (q : Nat) : Option (Nat × Decoded) :=
  if s.eligible q then (s.qx q).item.map fun d => (q, d) else none

theorem State.candidate_eq_some {x : Nat × Decoded} : s.candidate q = some x ↔ s.eligible q = true ∧ (s.qx q).item = some x.2 ∧ x.1 = q := by
  unfold State.candidate
  split
  next he =>
    rw [Option.map_eq_some_iff]
    exact ⟨fun ⟨d, hd, hx⟩ => hx ▸ ⟨he, hd, rfl⟩, fun ⟨_, hd, hx⟩ => ⟨x.2, hd, Prod.ext hx.symm rfl⟩⟩
  next he => simp [he]

theorem State.candidates_perm (s : State) : s.candidates.Perm ((List.range 32).filterMap s.candidate) := by
  have h := State.insertAll_perm ((List.range 32).filterMap s.candidate) []
  rwa [List.append_nil] at h

theorem State.mem_candidates : (q, d) ∈ s.candidates ↔ q < 32 ∧ s.eligible q = true ∧ (s.qx q).item = some d := by
  simp [s.candidates_perm.mem_iff, State.candidate_eq_some]

/-- No queue has two candidates. -/
theorem State.candidates_nodup (s : State) : (s.candidates.map Prod.fst).Nodup := by
  refine (s.candidates_perm.map Prod.fst).nodup_iff.2 ?_
  rw [List.map_filterMap]
  refine List.nodup_range.filterMap fun p p' b hb hb' => ?_
  obtain ⟨x, hx, rfl⟩ := Option.map_eq_some_iff.1 hb
  obtain ⟨y, hy, hxy⟩ := Option.map_eq_some_iff.1 hb'
  exact (State.candidate_eq_some.1 hx).2.2.symm.trans (hxy.symm.trans (State.candidate_eq_some.1 hy).2.2)

/-! The pick. -/

variable {fit : Decoded → Bool} {reorder : Bool} {skips : Nat → Nat} {c : Nat × Decoded} {l : List (Nat × Decoded)} {passed : List Nat}

theorem pick_cons_of_fit (h : fit c.2 = true) : pick fit reorder skips (c :: l) = some ([], c.1, c.2) := by
  simp [pick, h]

theorem pick_cons_of_pass (h : fit c.2 = false) (hr : reorder = true) (hs : skips c.1 < 16) :
    pick fit reorder skips (c :: l) = (pick fit reorder skips l).map fun x => (c.1 :: x.1, x.2) := by
  simp [pick, h, hr, hs]

theorem pick_cons_of_stop (h : fit c.2 = false) (hr : reorder = false ∨ 16 ≤ skips c.1) : pick fit reorder skips (c :: l) = none := by
  rcases hr with hr | hr <;> simp [pick, h, hr]

/-- What is picked fits, and the queues passed over are those in front of it. -/
theorem pick_spec (h : pick fit reorder skips l = some (passed, q, d)) :
    fit d = true ∧ (q, d) ∈ l ∧ ∃ rest, l.map Prod.fst = passed ++ q :: rest := by
  induction l generalizing passed with
  | nil => cases h
  | cons c l ih =>
    cases hfit : fit c.2 with
    | true =>
      rw [pick_cons_of_fit hfit] at h
      cases h
      exact ⟨hfit, List.mem_cons_self, _, rfl⟩
    | false =>
      by_cases hr : reorder = true ∧ skips c.1 < 16
      · rw [pick_cons_of_pass hfit hr.1 hr.2] at h
        obtain ⟨⟨p, r⟩, hp, he⟩ := Option.map_eq_some_iff.1 h
        cases he
        obtain ⟨hd, hmem, rest, hl⟩ := ih hp
        exact ⟨hd, List.mem_cons_of_mem _ hmem, rest, congrArg (c.1 :: ·) hl⟩
      · rw [pick_cons_of_stop hfit (by simpa [imp_iff_not_or] using hr)] at h
        cases h

/-- With one candidate for each queue, the queues passed over differ from one another and from the one that launches. -/
theorem pick_nodup (hl : (l.map Prod.fst).Nodup) (h : pick fit reorder skips l = some (passed, q, d)) : passed.Nodup ∧ q ∉ passed := by
  obtain ⟨-, -, rest, he⟩ := pick_spec h
  rw [he, List.nodup_append] at hl
  obtain ⟨hp, -, hne⟩ := hl
  exact ⟨hp, fun hq => hne q hq q List.mem_cons_self rfl⟩

end Sys2Proof.Machine
end

section
/-! SUPPORT. What LAUNCH does to the state: marks, skips, the swap of the banks, the charge and the new flight (R155, R324 to R326, R463, R464). -/

namespace Sys2Proof.Machine

variable {s : State} {q : Nat} {d : Decoded}

/-! Candidates that wait (R464). -/

/-- Marks the items of queues as waiting. -/
def State.markAll (s : State) (l : List Nat) : State := l.foldl State.markWaiting s

theorem State.markWaiting_frame (s : State) (q : Nat) : s.markWaiting q = { s with queues := (s.markWaiting q).queues } := by
  unfold State.markWaiting
  split <;> rfl

theorem State.markAll_frame (s : State) (l : List Nat) : s.markAll l = { s with queues := (s.markAll l).queues } := by
  unfold State.markAll
  induction l generalizing s with
  | nil => rfl
  | cons p l ih => rw [List.foldl_cons, ih, State.markWaiting_frame]

theorem State.item_markWaiting (p : Nat) (hd : (s.qx q).item = some d) :
    ((s.markWaiting p).qx q).item = some (if p = q then { d with waited := true } else d) := by
  by_cases hp : p = q
  · subst hp
    rw [State.markWaiting, hd, if_pos rfl]
    exact congrArg QueueX.item (State.qx_setQx_same _ _ (s.lt_of_item hd))
  · rw [if_neg hp, State.markWaiting]
    split
    · rw [State.qx_setQx_other _ _ (Ne.symm hp), hd]
    · exact hd

/-- A queue that is marked, once or more, holds its item as waiting. -/
theorem State.item_markAll (l : List Nat) (hd : (s.qx q).item = some d) :
    ((s.markAll l).qx q).item = some (if q ∈ l then { d with waited := true } else d) := by
  unfold State.markAll
  induction l generalizing s d with
  | nil => simpa using hd
  | cons p l ih =>
    rw [List.foldl_cons, ih (State.item_markWaiting p hd)]
    by_cases hp : p = q
    · subst hp
      simp
    · simp [hp, Ne.symm hp]

/-! Skips (R326). -/

/-- Counts a skip for each of the queues. -/
def State.addSkips (s : State) (l : List Nat) : State := l.foldl (fun s w => s.addSat (fQ_SKIPS w) 1) s

theorem State.addSkips_frame (s : State) (l : List Nat) : s.addSkips l = { s with regs := (s.addSkips l).regs } := by
  unfold State.addSkips
  induction l generalizing s with
  | nil => rfl
  | cons w l ih => rw [List.foldl_cons, ih]; rfl

/-- Skips are counted in the state words of queues, and leave every other field. -/
theorem State.addSkips_getF {g : Fld} (hg : g.lsb + g.width ≤ 64) {l : List Nat} (h : ∀ w ∈ l, (fQ_SKIPS w).apart g) :
    (s.addSkips l).getF g = s.getF g := by
  unfold State.addSkips
  induction l generalizing s with
  | nil => rfl
  | cons w l ih =>
    obtain ⟨hw, hl⟩ := List.forall_mem_cons.1 h
    rw [List.foldl_cons, ih hl, State.addSat, State.getF_setF_other _ _ _ hg hw]

theorem fQ_SKIPS_apart {w p : Nat} (h : w ≠ p) : (fQ_SKIPS w).apart (fQ_SKIPS p) := .inl (by simp only [fQ_SKIPS, rQ]; omega)

theorem State.getF_addSat_same (f : Fld) (n : Nat) (hf : f.lsb + f.width ≤ 64) :
    (s.addSat f n).getF f = Nat.min (2 ^ f.width - 1) (s.getF f + n) := by
  rw [State.addSat, State.getF_setF_same _ _ _ hf]
  refine Nat.mod_eq_of_lt (lt_of_le_of_lt (Nat.min_le_left _ _) ?_)
  have := Nat.two_pow_pos f.width
  omega

theorem State.getF_addSkips {l : List Nat} (hl : l.Nodup) {w : Nat} (hw : w ∈ l) :
    (s.addSkips l).getF (fQ_SKIPS w) = Nat.min (2 ^ (fQ_SKIPS w).width - 1) (s.getF (fQ_SKIPS w) + 1) := by
  have hfit (p : Nat) : (fQ_SKIPS p).lsb + (fQ_SKIPS p).width ≤ 64 := show 32 + 16 ≤ 64 by decide
  induction l generalizing s with
  | nil => simp at hw
  | cons p l ih =>
    obtain ⟨hp, hl⟩ := List.nodup_cons.1 hl
    rcases List.mem_cons.1 hw with rfl | hw
    · have hrest : ((s.addSat (fQ_SKIPS w) 1).addSkips l).getF (fQ_SKIPS w) = (s.addSat (fQ_SKIPS w) 1).getF (fQ_SKIPS w) :=
        State.addSkips_getF (hfit w) fun p hpl => fQ_SKIPS_apart fun he => hp (he ▸ hpl)
      exact hrest.trans (State.getF_addSat_same _ _ (hfit w))
    · have hne : p ≠ w := fun he => hp (he ▸ hw)
      have hfirst : (s.addSat (fQ_SKIPS p) 1).getF (fQ_SKIPS w) = s.getF (fQ_SKIPS w) :=
        s.getF_setF_other _ _ (hfit w) (fQ_SKIPS_apart hne)
      exact (ih hl hw).trans (by rw [hfirst])

/-! The swap of the banks (R155). -/

/-- The fields that the swap sets, with the values that it gives them. -/
def State.swapFields (s : State) : List (Fld × Nat) :=
  [(fBANK_ACT, 1 - s.getF fBANK_ACT), (fCF_EPOCH, s.getF fPEND_EPOCH), (fPEND_EPOCH, s.getF fPEND_EPOCH), (fSHADOW_ST, 4)]

theorem State.swapBanks_of_passed (h : s.getF fSHADOW_ST = 2) : s.swapBanks = (s.setFields s.swapFields).advanceG := by
  simp [State.swapBanks, h, State.setFields, State.swapFields]

theorem State.swapBanks_of_not_passed (h : s.getF fSHADOW_ST ≠ 2) : s.swapBanks = s := by
  simp [State.swapBanks, h]

theorem State.swapBanks_frame (s : State) : s.swapBanks = { s with regs := s.swapBanks.regs, power := s.swapBanks.power } := by
  by_cases hp : s.getF fSHADOW_ST = 2
  · have hfields := s.setFields_frame s.swapFields
    rw [State.swapBanks_of_passed hp]
    generalize s.setFields s.swapFields = t at hfields ⊢
    rw [hfields]
    rfl
  · rw [State.swapBanks_of_not_passed hp]

/-- A swap changes the generation alone of what Martingale holds. -/
theorem State.swapBanks_power (s : State) : s.swapBanks.power = { s.power with gen := s.swapBanks.power.gen } := by
  by_cases hp : s.getF fSHADOW_ST = 2
  · have hfields : (s.setFields s.swapFields).power = s.power := by rw [State.setFields_frame]
    rw [State.swapBanks_of_passed hp, State.advanceG, hfields]
  · rw [State.swapBanks_of_not_passed hp]

theorem State.swapBanks_reg {o : Nat} (h : o ≠ rCF) (h' : o ≠ rCF + 8) : s.swapBanks.reg o = s.reg o := by
  by_cases hp : s.getF fSHADOW_ST = 2
  · rw [State.swapBanks_of_passed hp, State.advanceG_reg]
    refine s.setFields_reg_other _ ?_
    simp [State.swapFields, fBANK_ACT, fCF_EPOCH, fPEND_EPOCH, fSHADOW_ST, h, h']
  · rw [State.swapBanks_of_not_passed hp]

theorem State.getF_swapBanks {g : Fld} {v : Nat} (hp : s.getF fSHADOW_ST = 2) (hg : g.lsb + g.width ≤ 64) (hm : (g, v) ∈ s.swapFields) :
    s.swapBanks.getF g = v % 2 ^ g.width := by
  rw [State.swapBanks_of_passed hp, State.advanceG_getF]
  refine s.getF_setFields ?_ hg hm
  simp [State.swapFields, fBANK_ACT, fCF_EPOCH, fPEND_EPOCH, fSHADOW_ST, Fld.apart, rCF]

/-- A commit that has passed: the other bank, its epoch, and the copy to come. -/
theorem State.swapBanks_passed (hp : s.getF fSHADOW_ST = 2) : s.swapBanks.getF fBANK_ACT = 1 - s.getF fBANK_ACT ∧
    s.swapBanks.getF fCF_EPOCH = s.getF fPEND_EPOCH ∧ s.swapBanks.getF fSHADOW_ST = 4 := by
  have hbank : 1 - s.getF fBANK_ACT < 2 := by omega
  refine ⟨?_, ?_, ?_⟩
  · exact (State.getF_swapBanks (g := fBANK_ACT) hp (by decide) (by simp [State.swapFields])).trans (Nat.mod_eq_of_lt hbank)
  · exact (State.getF_swapBanks (g := fCF_EPOCH) hp (by decide) (by simp [State.swapFields])).trans (Nat.mod_eq_of_lt (s.getF_lt fPEND_EPOCH))
  · exact State.getF_swapBanks (g := fSHADOW_ST) (v := 4) hp (by decide) (by simp [State.swapFields])

/-! The launch of an item. -/

/-- The state in which an item binds: the banks swapped, the clusters mended, the charge paid. -/
def State.readyFor (s : State) (d : Decoded) : State := s.swapBanks.mendLanes.payCharge d.eEst

theorem State.payCharge_frame (s : State) (e : Nat) : s.payCharge e = { s with power := (s.payCharge e).power } := by
  unfold State.payCharge
  split <;> rfl

theorem State.readyFor_frame (s : State) (d : Decoded) : s.readyFor d =
    { s with regs := s.swapBanks.regs, power := (s.readyFor d).power, bad := (s.readyFor d).bad } := by
  rw [State.readyFor, State.payCharge_frame, State.mendLanes, State.swapBanks_frame]

theorem State.readyFor_reg (d : Decoded) (o : Nat) : (s.readyFor d).reg o = s.swapBanks.reg o := by
  refine State.reg_congr ?_ o
  rw [State.readyFor_frame]

theorem State.readyFor_headroom (h : s.power.budget ≠ 0) : (s.readyFor d).power.headroom = s.power.headroom - (s.charge d.eEst : Int) := by
  have hpower := s.swapBanks_power
  have hbudget : s.swapBanks.power.budget = s.power.budget := by rw [hpower]
  have hheadroom : s.swapBanks.power.headroom = s.power.headroom := by rw [hpower]
  have hcharge : s.swapBanks.mendLanes.charge d.eEst = s.charge d.eEst :=
    congrArg (fun p => ceilDiv (d.eEst * phi64 p) 64) (State.getF_congr (State.swapBanks_reg (by decide) (by decide)))
  have hpay : s.readyFor d = { s.swapBanks.mendLanes with
      power := { s.swapBanks.power with headroom := s.swapBanks.power.headroom - (s.swapBanks.mendLanes.charge d.eEst : Int) } } :=
    if_neg (hbudget.trans_ne h)
  rw [hpay, hcharge, hheadroom]

/-- What every flight carries from its launch. -/
theorem State.bindItem_launch (s : State) (q : Nat) (d : Decoded) (hold : Option Hold) :
    (s.bindItem q d hold).ln = s.nextLn ∧ (s.bindItem q d hold).queue = q ∧ (s.bindItem q d hold).gcLaunch = s.gc ∧
    (s.bindItem q d hold).collected = s.gait ∧ (s.bindItem q d hold).eEst = d.eEst ∧ (s.bindItem q d hold).bank = s.getF fBANK_ACT := by
  unfold State.bindItem
  split <;> exact ⟨rfl, rfl, rfl, rfl, rfl, rfl⟩

/-- The flight of a launch. -/
def State.launched (s : State) (q : Nat) (d : Decoded) : Flight := (s.readyFor d).bindItem q d ((s.readyFor d).qx q).hold

/-- The state before the launched item passes. -/
def State.inFlight (s : State) (q : Nat) (d : Decoded) : State :=
  let r := s.readyFor d
  let t : State := { r with
    flights := r.flights ++ [s.launched q d], nextLn := r.nextLn + 1
    power := { r.power with missed := r.power.missed || d.waited } }
  (t.setQx q { r.qx q with hold := none }).setF (fQ_SKIPS q) 0

theorem State.launchItem_eq (s : State) (q : Nat) (d : Decoded) : s.launchItem q d = (s.inFlight q d).passItem q false := rfl

theorem State.passItem_getF {g : Fld} (b : Bool) (hg : g.lsb + g.width ≤ 64) (hhead : (fQ_HEAD q).apart g) (hstate : (fQ_STATE q).apart g) :
    (s.passItem q b).getF g = s.getF g := by
  cases hd : (s.qx q).item with
  | none => rw [State.passItem, hd]
  | some d =>
    have hmove := State.getF_setF_other (s.setQx q { s.qx q with slots := (s.qx q).slots.drop d.len, item := none, gated := b, ords := none })
      (fQ_HEAD q) ((s.getF (fQ_HEAD q) + d.len) % 2 ^ 32) hg hhead
    rw [State.passItem_of_item b hd, State.refresh]
    split
    · exact hmove
    · exact (State.getF_setF_other _ _ _ hg hstate).trans hmove

/-- A launch changes its queue's HEAD, `STATE` and `SKIPS`, and the words of the tables that a swap changes. -/
theorem State.launchItem_getF {g : Fld} (hg : g.lsb + g.width ≤ 64) (hhead : (fQ_HEAD q).apart g) (hstate : (fQ_STATE q).apart g)
    (hskips : (fQ_SKIPS q).apart g) : (s.launchItem q d).getF g = s.swapBanks.getF g := by
  rw [State.launchItem_eq, State.passItem_getF false hg hhead hstate, State.inFlight, State.getF_setF_other _ _ _ hg hskips]
  exact State.getF_congr (State.readyFor_reg d g.off)

theorem State.launchItem_skips : (s.launchItem q d).getF (fQ_SKIPS q) = 0 := by
  rw [State.launchItem_eq, State.passItem_getF (g := fQ_SKIPS q) false (show 32 + 16 ≤ 64 by decide) (.inl (by simp [fQ_HEAD, fQ_SKIPS]))
    (.inr (.inr (show 5 + 3 ≤ 32 by decide)))]
  exact State.getF_setF_same _ (fQ_SKIPS q) 0 (show 32 + 16 ≤ 64 by decide)

theorem State.launchItem_flights : (s.launchItem q d).flights = s.flights ++ [s.launched q d] := by
  rw [State.launchItem_eq, State.passItem_flights, ← show (s.readyFor d).flights = s.flights by rw [State.readyFor_frame]]
  rfl

theorem State.launchItem_nextLn : (s.launchItem q d).nextLn = s.nextLn + 1 := by
  rw [State.launchItem_eq, State.passItem_nextLn, ← show (s.readyFor d).nextLn = s.nextLn by rw [State.readyFor_frame]]
  rfl

theorem State.launchItem_mem : (s.launchItem q d).mem = s.mem := by
  rw [State.launchItem_eq, State.passItem_mem, ← show (s.readyFor d).mem = s.mem by rw [State.readyFor_frame]]
  rfl

theorem State.launchItem_fuses : (s.launchItem q d).fuses = s.fuses := by
  rw [State.launchItem_eq, State.passItem_fuses, ← show (s.readyFor d).fuses = s.fuses by rw [State.readyFor_frame]]
  rfl

theorem State.launchItem_headroom (h : s.power.budget ≠ 0) : (s.launchItem q d).power.headroom = s.power.headroom - (s.charge d.eEst : Int) := by
  rw [State.launchItem_eq, State.passItem_power, ← State.readyFor_headroom h]
  rfl

end Sys2Proof.Machine
end

section
/-! PROOF. LAUNCH (R59, R155, R307, R324 to R326, R464). -/

namespace Sys2Proof.Machine

variable {s t : State} {q : Nat} {d : Decoded}

/-- An offset of no queue's HEAD word or state word. -/
def OffQueueWords (o : Nat) : Prop := o % 0x40 ≠ 0x10 ∧ o % 0x40 ≠ 0x20

section
variable {g : Fld} (hg : g.lsb + g.width ≤ 64) (ho : OffQueueWords g.off)
include hg ho

theorem State.launchItem_getF_off : (s.launchItem q d).getF g = s.swapBanks.getF g := by
  obtain ⟨hhead, hstate⟩ := ho
  exact State.launchItem_getF hg (.inl (by simp only [fQ_HEAD, rQ]; omega)) (.inl (by simp only [fQ_STATE, rQ]; omega))
    (.inl (by simp only [fQ_SKIPS, rQ]; omega))

theorem State.addSkips_getF_off (l : List Nat) : (s.addSkips l).getF g = s.getF g :=
  State.addSkips_getF hg fun w _ => .inl (by obtain ⟨-, hstate⟩ := ho; simp only [fQ_SKIPS, rQ]; omega)

end

/-- A swap leaves the skips of every queue. -/
theorem State.swapBanks_skips (w : Nat) : s.swapBanks.getF (fQ_SKIPS w) = s.getF (fQ_SKIPS w) :=
  State.getF_congr (State.swapBanks_reg (by simp only [fQ_SKIPS, rQ, rCF]; omega) (by simp only [fQ_SKIPS, rQ, rCF]; omega))

/-! The state from which the picked item launches. -/

/-- The candidates considered are marked, and the queues passed over count a skip. -/
def State.considered (t : State) (w passed : List Nat) : State := (t.markAll w).addSkips passed

theorem State.considered_frame (t : State) (w passed : List Nat) :
    t.considered w passed = { t with regs := (t.considered w passed).regs, queues := (t.markAll w).queues } := by
  unfold State.considered
  rw [State.addSkips_frame, State.markAll_frame]

theorem State.markAll_getF (w : List Nat) (g : Fld) : (t.markAll w).getF g = t.getF g :=
  State.getF_congr (State.reg_congr (by rw [State.markAll_frame]) _)

theorem State.considered_getF_off {g : Fld} (hg : g.lsb + g.width ≤ 64) (ho : OffQueueWords g.off) (w passed : List Nat) :
    (t.considered w passed).getF g = t.getF g :=
  (State.addSkips_getF_off hg ho passed).trans (State.markAll_getF w g)

theorem State.considered_skips {w passed : List Nat} (hp : passed.Nodup) {p : Nat} (hm : p ∈ passed) :
    (t.considered w passed).getF (fQ_SKIPS p) = Nat.min (2 ^ (fQ_SKIPS p).width - 1) (t.getF (fQ_SKIPS p) + 1) := by
  rw [State.considered, State.getF_addSkips hp hm, State.markAll_getF]

/-! What LAUNCH comes to. -/

theorem exec_launch_of_not_may (hm : s.mayLaunch = false) : exec .launch s = .next s := by
  change execLaunch s = _
  simp [execLaunch, hm]

theorem exec_launch_of_stale {c : Nat × Decoded} (hm : s.mayLaunch = true)
    (hst : s.recheckAll.candidates.find? (fun c => s.recheckAll.stale c.2) = some c) :
    ∃ i id, exec .launch s = .next (s.recheckAll.halt c.1 2 4 i id) := by
  have hexec : execLaunch s = .next (s.recheckAll.halt c.1 2 4 ((s.recheckAll.recheck c.2 c.2.prog (s.recheckAll.qx c.1).gated).getD 0)
      c.2.prog.stepId) := by
    simp only [execLaunch, hm, hst]
    rfl
  exact ⟨_, _, hexec⟩

/-- The candidates that LAUNCH considers in the state `t`, and its choice among them. -/
def State.waits (t : State) : List Nat := passedOver (fun d => t.fits d.eEst) (!t.gait && !t.strict) (fun q => t.getF (fQ_SKIPS q)) t.candidates
def State.choice (t : State) : Option (List Nat × Nat × Decoded) :=
  pick (fun d => t.fits d.eEst) (!t.gait && !t.strict) (fun q => t.getF (fQ_SKIPS q)) t.candidates

theorem exec_launch_of_none (hm : s.mayLaunch = true) (hst : s.recheckAll.candidates.find? (fun c => s.recheckAll.stale c.2) = none)
    (hp : s.recheckAll.choice = none) : exec .launch s = .next (s.recheckAll.markAll s.recheckAll.waits) := by
  change execLaunch s = _
  unfold State.choice at hp
  simp only [execLaunch, hm, hst, hp]
  rfl

theorem exec_launch_of_choice {passed : List Nat} (hm : s.mayLaunch = true)
    (hst : s.recheckAll.candidates.find? (fun c => s.recheckAll.stale c.2) = none) (hp : s.recheckAll.choice = some (passed, q, d)) :
    exec .launch s = .next ((s.recheckAll.considered s.recheckAll.waits passed).launchItem q d) := by
  change execLaunch s = _
  unfold State.choice at hp
  simp only [execLaunch, hm, hst, hp]
  rfl

/-! The picked item launches. -/

/-- The flight binds the launch number, the gate counter and the gait of the state that it launches from, and the bank that is active then. -/
theorem State.launched_spec (s : State) (q : Nat) (d : Decoded) : (s.launched q d).ln = s.nextLn ∧ (s.launched q d).queue = q ∧
    (s.launched q d).gcLaunch = s.gc ∧ (s.launched q d).collected = s.gait ∧ (s.launched q d).eEst = d.eEst ∧
    (s.launched q d).bank = (s.launchItem q d).activeBank := by
  obtain ⟨hln, hq, hgc, hcol, hest, hbank⟩ := State.bindItem_launch (s.readyFor d) q d ((s.readyFor d).qx q).hold
  have hready {g : Fld} (h : g.off ≠ rCF ∧ g.off ≠ rCF + 8) : (s.readyFor d).getF g = s.getF g :=
    State.getF_congr ((State.readyFor_reg d _).trans (State.swapBanks_reg h.1 h.2))
  have hnext : (s.readyFor d).nextLn = s.nextLn := by rw [State.readyFor_frame]
  have hact : (s.launchItem q d).getF fBANK_ACT = (s.readyFor d).getF fBANK_ACT :=
    (State.launchItem_getF_off (by decide) (by unfold OffQueueWords; decide)).trans (State.getF_congr (State.readyFor_reg d _)).symm
  exact ⟨hln.trans hnext, hq, hgc.trans (hready (by decide)), hcol.trans (congrArg (· == 1) (hready (by decide))), hest, hbank.trans hact.symm⟩

theorem State.launchItem_considered_skips {w passed : List Nat} (hp : passed.Nodup) (hq : q ∉ passed) {p : Nat} (hm : p ∈ passed) :
    ((t.considered w passed).launchItem q d).getF (fQ_SKIPS p) = Nat.min (2 ^ (fQ_SKIPS p).width - 1) (t.getF (fQ_SKIPS p) + 1) := by
  have hne : q ≠ p := fun he => hq (he ▸ hm)
  rw [State.launchItem_getF (show 32 + 16 ≤ 64 by decide) (.inl (by simp only [fQ_HEAD, fQ_SKIPS, rQ]; omega))
    (.inl (by simp only [fQ_STATE, fQ_SKIPS, rQ]; omega)) (fQ_SKIPS_apart hne), State.swapBanks_skips, State.considered_skips hp hm]

/-- Settles O37: `LAUNCH` comes to a launch, a halt or marks, and each is read off the state that it leaves. -/
theorem launchPutsTheFirstFittingItemInFlight : Obligations.LaunchPutsTheFirstFittingItemInFlight := by
  unfold Obligations.LaunchPutsTheFirstFittingItemInFlight
  intro s _ t fit reorder skips
  refine ⟨fun h => s.recheckAll_eq_self h, fun passed q d hm hst hp => ?launch, fun q d hm hst => ?stale, fun hm hst hp => ?none,
    fun fit skips c l reorder => ⟨pick_cons_of_fit, pick_cons_of_pass, pick_cons_of_stop⟩, exec_launch_of_not_may, fun h => ?full⟩
  case launch =>
    obtain ⟨hfit, hmem, -⟩ := pick_spec hp
    obtain ⟨hnodup, hnot⟩ := pick_nodup t.candidates_nodup hp
    have hx := t.considered_frame t.waits passed
    have hoff {g : Fld} (hg : g.lsb + g.width ≤ 64) (ho : g.off % 0x40 ≠ 0x10 ∧ g.off % 0x40 ≠ 0x20) :
        (t.considered t.waits passed).getF g = t.getF g := State.considered_getF_off hg ho ..
    have hu {g : Fld} (hg : g.lsb + g.width ≤ 64) (ho : g.off % 0x40 ≠ 0x10 ∧ g.off % 0x40 ≠ 0x20) :
        ((t.considered t.waits passed).launchItem q d).getF g = (t.considered t.waits passed).swapBanks.getF g := State.launchItem_getF_off hg ho
    obtain ⟨hln, hq, hgc, hcol, hest, hbank⟩ := (t.considered t.waits passed).launched_spec q d
    have hnext : (t.considered t.waits passed).nextLn = t.nextLn := by rw [hx]
    refine ⟨_, _, exec_launch_of_choice hm hst hp, ?flights, hln.trans hnext, hq, ?nextLn,
      hgc.trans (hoff (by decide) (by decide)), hcol.trans (congrArg (· == 1) (hoff (by decide) (by decide))), hest, hbank, hfit, hmem,
      fun hs => ?swap, fun hs => ?keep,
      fun w hw => State.launchItem_considered_skips hnodup hnot hw, State.launchItem_skips, fun hb => ?paid, ?mem, ?fuses⟩
    case flights => rw [State.launchItem_flights, hx]
    case nextLn => rw [State.launchItem_nextLn, hnext]
    case mem => rw [State.launchItem_mem, hx]
    case fuses => rw [State.launchItem_fuses, hx]
    case swap =>
      obtain ⟨hact, hepoch, hshadow⟩ := State.swapBanks_passed ((hoff (by decide) (by decide)).trans hs)
      refine ⟨?_, ?_, (hu (by decide) (by decide)).trans hshadow⟩
      · rw [hu (by decide) (by decide), hact, hoff (by decide) (by decide)]
      · rw [hu (by decide) (by decide), hepoch, hoff (by decide) (by decide)]
    case keep =>
      have hno : (t.considered t.waits passed).swapBanks = t.considered t.waits passed :=
        State.swapBanks_of_not_passed ((hoff (by decide) (by decide)).trans_ne hs)
      rw [hno] at hu
      exact ⟨(hu (by decide) (by decide)).trans (hoff (by decide) (by decide)), (hu (by decide) (by decide)).trans (hoff (by decide) (by decide))⟩
    case paid =>
      have hpower : (t.considered t.waits passed).power = t.power := by rw [hx]
      have hcharge : (t.considered t.waits passed).charge d.eEst = t.charge d.eEst :=
        congrArg (fun p => ceilDiv (d.eEst * phi64 p) 64) (hoff (by decide) (by decide))
      rw [State.launchItem_headroom (by rwa [hpower]), hpower, hcharge]
  case stale =>
    obtain ⟨i, id, hexec⟩ := exec_launch_of_stale hm hst
    obtain ⟨hq, -⟩ := State.mem_candidates.1 (List.mem_of_find?_eq_some hst)
    obtain ⟨hstate, hcode⟩ := t.getF_halt (order := 4) i id hq (show 2 < 256 by decide)
    refine ⟨_, hexec, beq_iff_eq.2 hstate, hcode, State.getF_congr ?_, State.halt_flights .., State.halt_fuses ..⟩
    exact t.halt_reg (by simp only [OffEvents, fQ_HEAD, rQ]; omega) q 2 4 i id (by simp [fQ_HEAD])
  case none =>
    refine ⟨_, exec_launch_of_none hm hst hp, State.markAll_frame .., fun q d hmem hpass => ?_⟩
    obtain ⟨-, -, hitem⟩ := State.mem_candidates.1 hmem
    exact (State.item_markAll _ hitem).trans (congrArg some (if_pos hpass))
  case full =>
    have hfull : decide (s.flights.length < 4) = false := decide_eq_false (by omega)
    simp [State.mayLaunch, hfull]

end Sys2Proof.Machine
end

section
/-! SUPPORT. What the phases of a step leave: the flight that a phase writes and the others, what reads and events keep, and walks over rows. -/

namespace Sys2Proof.Machine

variable {s t u : State} {f g : Flight} {ln : Nat}

/-! The flight that is written. -/

theorem State.flight_ln (h : s.flight ln = some f) : f.ln = ln := by simpa using List.find?_some h

theorem State.flight_congr (h : t.flights = s.flights) (m : Nat) : t.flight m = s.flight m := by rw [State.flight, h, State.flight]

/-- Writing a flight leaves every launch number where it was. -/
theorem State.flight_setFlight (s : State) (g : Flight) (m : Nat) :
    (s.setFlight g).flight m = (s.flight m).map fun x => if x.ln == g.ln then g else x := by
  have hln : ((fun x : Flight => x.ln == m) ∘ fun x => if x.ln == g.ln then g else x) = fun x => x.ln == m := by
    funext x
    by_cases hx : x.ln = g.ln <;> simp [hx]
  rw [State.flight, State.setFlight_flights, List.find?_map, hln]
  rfl

/-- The phase that a flight has come to is written in its place. -/
theorem Becomes.setFlight (h : s.flight ln = some f) (hg : g.ln = ln) : Becomes s (s.setFlight g) ln g := by
  refine ⟨?_, fun m hm => ?_⟩
  · simp [State.flight_setFlight, h, State.flight_ln h, hg]
  · rw [State.flight_setFlight]
    cases hx : s.flight m with
    | none => rfl
    | some x => simp [State.flight_ln hx, hg, hm]

theorem Becomes.refl (h : s.flight ln = some f) : Becomes s s ln f := ⟨h, fun _ _ => rfl⟩

theorem Becomes.trans (h : Becomes s t ln f) (h' : Becomes t u ln g) : Becomes s u ln g :=
  ⟨h'.1, fun m hm => (h'.2 m hm).trans (h.2 m hm)⟩

theorem Becomes.of_flights (h : Becomes s t ln g) (hu : u.flights = t.flights) : Becomes s u ln g :=
  ⟨(State.flight_congr hu ln).trans h.1, fun m hm => (State.flight_congr hu m).trans (h.2 m hm)⟩

/-- What a phase reads and posts before it writes its flight leaves the flights alone. -/
theorem Becomes.setFlight_of_flights (h : s.flight ln = some f) (ht : t.flights = s.flights) (hg : g.ln = ln) :
    Becomes s (t.setFlight g) ln g :=
  have hb : Becomes t (t.setFlight g) ln g := .setFlight ((State.flight_congr ht ln).trans h) hg
  ⟨hb.1, fun m hm => (hb.2 m hm).trans (State.flight_congr ht m)⟩

/-- A cause of a timing break changes `tb` and nothing else. -/
theorem Flight.timing_frame (f : Flight) (cause : Nat) : f.timing cause = { f with tb := (f.timing cause).tb } := by
  unfold Flight.timing Flight.breaks
  split
  · split <;> rfl
  · rfl

@[simp] theorem Flight.timing_ln (f : Flight) (cause : Nat) : (f.timing cause).ln = f.ln := by rw [Flight.timing_frame]
@[simp] theorem Flight.timing_compat (f : Flight) (cause : Nat) : (f.timing cause).compat = f.compat := by rw [Flight.timing_frame]

/-! What reads and events keep. -/

/-- What no read of host memory and no event changes: the flights, Paddock, the fuses, the damage marks, and the number of the next free value. -/
structure Holdings where
  flights : List Flight
  pad     : Store Byte
  fuses   : BitVec 1024
  bad     : List SramPart
  freeCtr : Nat

def State.holdings (s : State) : Holdings := ⟨s.flights, s.pad, s.fuses, s.bad, s.freeCtr⟩

/-- What LOADH's reads, events and counts of rows in flight keep beside these: host memory, and the state of each entry. -/
def State.loadHoldings (s : State) : Holdings × Store Byte × (Nat → Nat) := (s.holdings, s.mem, s.eState)

section
variable {α β γ : Type} {π : State → α} {P : State → Prop}

theorem foldl_keeps {f : State → β → State} (hf : ∀ t x, π (f t x) = π t) (l : List β) (s : State) : π (l.foldl f s) = π s := by
  induction l generalizing s with
  | nil => rfl
  | cons x l ih => rw [List.foldl_cons, ih, hf]

theorem foldl_fst_keeps {f : State × γ → β → State × γ} (hf : ∀ p x, π (f p x).1 = π p.1) (l : List β) (p : State × γ) :
    π (l.foldl f p).1 = π p.1 := by
  induction l generalizing p with
  | nil => rfl
  | cons x l ih => rw [List.foldl_cons, ih, hf]

theorem ite_keeps {a : α} {c : Prop} {_ : Decidable c} (ht : π t = a) (hu : π u = a) : π (if c then t else u) = a := by
  split <;> assumption

theorem fst_keeps {p : State × β} {b : β} (e : p = (t, b)) : π t = π p.1 := by rw [e]

/-! Walks over rows. -/

/-- A walk over a list that carries the state and collects what each element comes to. -/
def State.collect (s : State) (F : State → List γ → β → State × γ) (l : List β) : State × List γ :=
  l.foldl (fun x b => ((F x.1 x.2 b).1, x.2 ++ [(F x.1 x.2 b).2])) (s, [])

variable {F : State → List γ → β → State × γ}

theorem State.collect_append_one (F : State → List γ → β → State × γ) (l : List β) (b : β) : s.collect F (l ++ [b]) =
    ((F (s.collect F l).1 (s.collect F l).2 b).1, (s.collect F l).2 ++ [(F (s.collect F l).1 (s.collect F l).2 b).2]) := by
  simp only [State.collect, List.foldl_append, List.foldl_cons, List.foldl_nil]

@[simp] theorem State.length_collect (F : State → List γ → β → State × γ) (l : List β) : (s.collect F l).2.length = l.length := by
  induction l using List.reverseRecOn with
  | nil => rfl
  | append_singleton l b ih => simp [State.collect_append_one, ih]

variable (hF : ∀ t done b, P t → P (F t done b).1) (hs : P s)
include hF hs

theorem State.collect_keeps (l : List β) : P (s.collect F l).1 := by
  induction l using List.reverseRecOn with
  | nil => exact hs
  | append_singleton l b ih =>
    rw [State.collect_append_one]
    exact hF _ _ _ ih

/-- Each element is met in a state that keeps what every step of the walk keeps. -/
theorem State.collect_getElem? {l : List β} {i : Nat} {b : β} (h : l[i]? = some b) :
    ∃ t done, P t ∧ (s.collect F l).2[i]? = some (F t done b).2 := by
  induction l using List.reverseRecOn with
  | nil => simp at h
  | append_singleton l x ih =>
    rw [State.collect_append_one]
    rcases Nat.lt_or_ge i l.length with hi | hi
    · rw [List.getElem?_append_left hi] at h
      rw [List.getElem?_append_left (by simpa using hi)]
      exact ih h
    · rw [List.getElem?_append_right hi] at h
      obtain ⟨hlt, hx⟩ := List.getElem?_eq_some_iff.1 h
      obtain rfl : i = l.length := by simp at hlt; omega
      obtain rfl : x = b := by simpa using hx
      exact ⟨_, (s.collect F l).2, State.collect_keeps hF hs l, by simp⟩

end

theorem getD_of_getElem? {α : Type} {l : List α} {i : Nat} {x d : α} (h : l[i]? = some x) : l.getD i d = x := by
  rw [List.getD_eq_getElem?_getD, h, Option.getD_some]

theorem getElem?_range_of_lt {n i : Nat} (h : i < n) : (List.range n)[i]? = some i := by simp [h]

section
variable (s)

@[simp] theorem State.readHost_holdings (req sev a n : Nat) (who : Who) (row : Nat) : (s.readHost req sev a n who row).1.holdings = s.holdings := by
  simp [State.holdings]

@[simp] theorem State.rowEvent_holdings (f : Flight) (code row n cause slot : Nat) : (s.rowEvent f code row n cause slot).holdings = s.holdings := by
  simp [State.holdings]

@[simp] theorem State.setReq_holdings (n : Nat) (r : ReqX) : (s.setReq n r).holdings = s.holdings := rfl

@[simp] theorem State.addSat_holdings (f : Fld) (n : Nat) : (s.addSat f n).holdings = s.holdings := rfl

end

end Sys2Proof.Machine
end

section
/-! SUPPORT. The screen, the broadcast and the sum sweep of a step (R64 to R88, R131, R168, R471): the state and the rows that each leaves. -/

namespace Sys2Proof.Machine

variable {s t : State} {f g : Flight} {ln : Nat} {cured : List RecRef}

/-! What a screen keeps. -/

section
variable (s)

@[simp] theorem State.sealEvents_holdings (stepId queue : Nat) (l : List SealEvent) (row : Nat) :
    (s.sealEvents stepId queue l row).holdings = s.holdings := by
  unfold State.sealEvents
  refine foldl_keeps (fun t e => ?_) l s
  dsimp only
  split <;> simp [State.holdings]

@[simp] theorem State.recordPoison_holdings (req n : Nat) (who : Who) (l : Loc) (cured : Bool) (row : Nat) :
    (s.recordPoison req n who l cured row).holdings = s.holdings := by
  unfold State.recordPoison
  split
  · dsimp only
    split <;> simp [State.holdings]
  · rfl

@[simp] theorem State.screenPoison_holdings (who : Who) (v : PlaneView) (d : Deal) (full : Bool) (cured : List RecRef) :
    (s.screenPoison who v d full cured).holdings = s.holdings := by
  unfold State.screenPoison
  refine foldl_keeps (fun t sl => ?_) _ s
  dsimp only
  split
  · refine (foldl_keeps (fun t k => foldl_keeps (fun t k => by simp) _ t) _ _).trans ?_
    exact foldl_keeps (fun t c => foldl_keeps (fun t k => by simp) _ t) _ t
  · exact foldl_keeps (fun t c => foldl_keeps (fun t k => by simp) _ t) _ t

@[simp] theorem State.screenSet_holdings (f : Flight) (v : PlaneView) (cured : List RecRef) : (s.screenSet f v cured).1.holdings = s.holdings := by
  simp [State.screenSet]

/-- The words of a step that its screen writes anew are marks that end (R470). -/
theorem State.mendStream_frame (ln : Nat) : s.mendStream ln = { s with bad := (s.mendStream ln).bad } := rfl

theorem State.mendLog_frame (f : Flight) : s.mendLog f = { s with bad := (s.mendLog f).bad } := by
  unfold State.mendLog
  split <;> rfl

theorem State.hurtScreen_frame (f : Flight) : (s.hurtScreen f).1 = { s with freeCtr := (s.hurtScreen f).1.freeCtr } := by
  unfold State.hurtScreen
  dsimp only
  split <;> rfl

end

/-! Damaged words of the fixed tables (R471). -/

theorem State.fixedBad_congr (h : t.bad = s.bad) : t.fixedBad = s.fixedBad := by rw [State.fixedBad, h, State.fixedBad]

/-- While no fixed-table word of a step's clusters is damaged, no score of its screen is, and no free value is drawn. -/
theorem State.hurtScreen_of_whole (h : (s.fixedBad.any fun c => f.clusters.contains c) = false) :
    s.hurtScreen f = (s, fun _ _ _ => false) := by
  have hcls : s.fixedBad.filter f.clusters.contains = [] := by simpa using h
  simp only [State.hurtScreen, hcls, List.isEmpty_nil, if_true, Prod.mk.injEq, true_and]
  funext ref row id
  simp [Flight.hurts]

theorem rowToks_of_blind {hd : Head} {ms : Array (Option MaskView)} {sls : List SlabTiles} {hurt : Nat → Bool} {r : RowState} (h : r.blind = true) :
    rowToks f hd ms sls hurt r = [] := by
  simp [rowToks, h]

theorem rowToks_of_seen {hd : Head} {ms : Array (Option MaskView)} {sls : List SlabTiles} {hurt : Nat → Bool} {r : RowState} (h : r.blind = false) :
    rowToks f hd ms sls hurt r = sls.flatMap fun sl => (List.range sl.ntok).map (rowTok f hd ms r r.rowMask.toArray hurt sl) := by
  simp [rowToks, h]

/-! SCREEN. -/

/-- The uses that a screen of the step cures: those that its command names, and those that a damaged stream-buffer word spoils. -/
def State.hits (s : State) (f : Flight) (cured : List RecRef) : List RecRef := cured ++ s.streamHits f

/-- The reference set of a paired step is screened first (R245). -/
def State.refScreen (s : State) (f : Flight) (hits : List RecRef) : State × List SlabTiles × Bool :=
  match f.rview with
  | some v => s.screenSet f v (curedRef hits)
  | none => (s, [], false)

/-- The main set is screened after it. -/
def State.mainScreen (s : State) (f : Flight) (hits : List RecRef) : State × List SlabTiles × Bool :=
  (s.refScreen f hits).1.screenSet f f.view (curedMain hits)

/-- Row `i` with the scores of the screen. -/
def State.screenRow (s : State) (f : Flight) (hits : List RecRef) (row : RowState) (i : Nat) : RowState :=
  let hurt := ((s.mainScreen f hits).1.hurtScreen f).2
  { row with
    toks := rowToks f f.mainHead s.maskViews (s.mainScreen f hits).2.1 (hurt false i) row
    rtoks := match f.refHead with
      | some h => rowToks f h s.maskViews (s.refScreen f hits).2.1 (hurt true i) row
      | none => [] }

/-- The flight once its screen is over. -/
def State.screenFlight (s : State) (f : Flight) (hits : List RecRef) : Flight :=
  ({ f with rows := f.rows.zipIdx.map (fun q => s.screenRow f hits q.1 q.2), screened := true, released := true } : Flight).timing
    (if (s.refScreen f hits).2.2 || (s.mainScreen f hits).2.2 then 1 else 0)

/-- The state in which the screen writes its flight. -/
def State.screened (s : State) (f : Flight) (hits : List RecRef) (ln : Nat) : State :=
  (((s.mainScreen f hits).1.hurtScreen f).1.mendStream ln).mendLog f

theorem exec_screen_of_ready (h : s.flight ln = some f) (hr : s.fillReady f = true) : exec (.screen ln cured) s =
    .next ((s.screened f (s.hits f cured) ln).setFlight (s.screenFlight f (s.hits f cured))) := by
  change execScreen ln cured s = _
  simp only [execScreen, h, hr]
  rfl

theorem State.refScreen_holdings (s : State) (f : Flight) (hits : List RecRef) : (s.refScreen f hits).1.holdings = s.holdings := by
  unfold State.refScreen
  split
  · exact s.screenSet_holdings ..
  · rfl

theorem State.mainScreen_holdings (s : State) (f : Flight) (hits : List RecRef) : (s.mainScreen f hits).1.holdings = s.holdings := by
  rw [State.mainScreen, State.screenSet_holdings, State.refScreen_holdings]

theorem State.screened_spec (s : State) (f : Flight) (hits : List RecRef) (ln : Nat) :
    (s.screened f hits ln).pad = s.pad ∧ (s.screened f hits ln).fuses = s.fuses ∧
    (s.screened f hits ln).freeCtr = ((s.mainScreen f hits).1.hurtScreen f).1.freeCtr ∧ (s.screened f hits ln).flights = s.flights := by
  have hkeep := s.mainScreen_holdings f hits
  rw [State.screened, State.mendLog_frame, State.mendStream_frame, State.hurtScreen_frame]
  exact ⟨congrArg Holdings.pad hkeep, congrArg Holdings.fuses hkeep, rfl, congrArg Holdings.flights hkeep⟩

theorem State.screenFlight_spec (s : State) (f : Flight) (hits : List RecRef) : (s.screenFlight f hits).ln = f.ln ∧
    (s.screenFlight f hits).screened = true ∧ (s.screenFlight f hits).released = true ∧
    (s.screenFlight f hits).rows = f.rows.zipIdx.map fun q => s.screenRow f hits q.1 q.2 := by
  rw [State.screenFlight, Flight.timing_frame]
  exact ⟨rfl, rfl, rfl, rfl⟩

theorem State.screenFlight_getElem? {hits : List RecRef} {i : Nat} {row : RowState} (h : f.rows[i]? = some row) :
    (s.screenFlight f hits).rows[i]? = some (s.screenRow f hits row i) := by
  obtain ⟨-, -, -, hrows⟩ := s.screenFlight_spec f hits
  simp [hrows, h]

theorem State.hurtScreen_mainScreen (hits : List RecRef) (h : (s.fixedBad.any fun c => f.clusters.contains c) = false) :
    (s.mainScreen f hits).1.hurtScreen f = ((s.mainScreen f hits).1, fun _ _ _ => false) :=
  State.hurtScreen_of_whole (by rwa [State.fixedBad_congr (congrArg Holdings.bad (s.mainScreen_holdings f hits))])

/-! M0_BROADCAST. -/

/-- A row at the broadcast takes the root's form of its tokens, and a phase, unless the root gives it up. -/
theorem State.m0Row_cases (s : State) (f : Flight) (i : Nat) (r : RowState) :
    (∃ p, s.m0Row f i r = (s, { r with scr := some (rootForm (rowCtx f r) r.toks), phase := p })) ∨
      s.m0Row f i r = s.teaselFail f i { r with scr := some (rootForm (rowCtx f r) r.toks) } := by
  unfold State.m0Row
  extract_lets c scr r'
  split
  · exact .inl ⟨_, rfl⟩
  · split
    · exact .inr rfl
    · split
      · exact .inl ⟨_, rfl⟩
      · exact .inl ⟨_, rfl⟩
      · exact .inl ⟨_, rfl⟩
      · split
        · exact .inl ⟨_, rfl⟩
        · split
          · exact .inr rfl
          · exact .inl ⟨_, rfl⟩

theorem State.m0Row_spec (s : State) (f : Flight) (i : Nat) (r : RowState) :
    (s.m0Row f i r).2.scr = some (rootForm (rowCtx f r) r.toks) ∧ (s.m0Row f i r).2.toks = r.toks ∧ (s.m0Row f i r).2.lane = r.lane := by
  obtain ⟨p, h⟩ | h := s.m0Row_cases f i r <;> rw [h] <;> exact ⟨rfl, rfl, rfl⟩

theorem State.m0Row_holdings (s : State) (f : Flight) (i : Nat) (r : RowState) : (s.m0Row f i r).1.holdings = s.holdings := by
  obtain ⟨p, h⟩ | h := s.m0Row_cases f i r
  · rw [h]
  · rw [h]
    exact s.rowEvent_holdings ..

theorem State.m0Row_of_spoiled (s : State) (f : Flight) (i : Nat) {r : RowState} (h : r.spoiled = true) :
    (s.m0Row f i r).2.phase = .poisoned := by
  have hs : RowState.spoiled { r with scr := some (rootForm (rowCtx f r) r.toks) } = true := h
  simp [State.m0Row, hs]

/-- A row at the broadcast with its refine lane (R103). -/
def State.broadcastRow (s t : State) (f : Flight) (i : Nat) (r : RowState) : State × RowState :=
  t.m0Row f i { r with lane := laneOf s.inService i }

/-- The walk over the rows, each under its index. -/
def State.broadcastRows (s : State) (f : Flight) : State × List RowState :=
  s.collect (fun t _ q => s.broadcastRow t f q.2 q.1) f.rows.zipIdx

/-- The flight once its broadcast is over. -/
def State.broadcastFlight (s : State) (f : Flight) (lag : Bool) : Flight :=
  ({ f with rows := (s.broadcastRows f).2, m0done := true } : Flight).timing (if lag && f.rows.any (·.drawsGumbel) then 4 else 0)

theorem exec_m0Broadcast_of_turn {lag : Bool} (h : s.flight ln = some f) (hp : f.past = false) (hs : f.screened = true) (hm : f.m0done = false)
    (he : f.emitted = false) (ht : s.unitTurn ln (fun g => g.screened && !g.m0done) = true) :
    exec (.m0Broadcast ln lag) s = .next ((s.broadcastRows f).1.setFlight (s.broadcastFlight f lag)) := by
  change execM0Broadcast ln lag s = _
  simp only [execM0Broadcast, h]
  exact if_neg (by simp [hp, hs, hm, he, ht])

theorem exec_m0Broadcast_of_no_turn {lag : Bool} (h : s.flight ln = some f) (ht : s.unitTurn ln (fun g => g.screened && !g.m0done) = false) :
    exec (.m0Broadcast ln lag) s = .next s := by
  change execM0Broadcast ln lag s = _
  simp [execM0Broadcast, h, ht]

theorem State.broadcastRows_holdings (s : State) (f : Flight) : (s.broadcastRows f).1.holdings = s.holdings :=
  State.collect_keeps (P := fun t => t.holdings = s.holdings) (fun t _ _ ht => (State.m0Row_holdings t f _ _).trans ht) rfl _

theorem State.broadcastRows_getElem? {i : Nat} {row : RowState} (h : f.rows[i]? = some row) :
    ∃ t, (s.broadcastRows f).2[i]? = some (s.broadcastRow t f i row).2 := by
  have hi : f.rows.zipIdx[i]? = some (row, i) := by simp [h]
  obtain ⟨t, -, -, he⟩ := State.collect_getElem? (P := fun _ => True) (F := fun t (_ : List RowState) q => s.broadcastRow t f q.2 q.1)
    (fun _ _ _ _ => trivial) trivial (s := s) hi
  exact ⟨t, he⟩

theorem State.broadcastFlight_spec (s : State) (f : Flight) (lag : Bool) : (s.broadcastFlight f lag).ln = f.ln ∧
    (s.broadcastFlight f lag).m0done = true ∧ (s.broadcastFlight f lag).rows = (s.broadcastRows f).2 := by
  rw [State.broadcastFlight, Flight.timing_frame]
  exact ⟨rfl, rfl, rfl⟩

/-- A wait for a Gumbel evaluator breaks the count of a COLLECTED step (R168). -/
theorem State.broadcastFlight_tb (hc : f.collected = true) (ht : f.tb = 0) (hd : ∃ row ∈ f.rows, row.drawsGumbel = true) :
    (s.broadcastFlight f true).tb = 4 := by
  simp [State.broadcastFlight, Flight.timing, Flight.breaks, hc, ht, hd]

/-! SUM_SWEEP. -/

theorem sumSweepOf_fst (compat : Bool) (toks : List Tok) (m : F32) :
    (sumSweepOf compat toks m).1 = (toks.map fun t => cfExpfx compat t.z0 m).sum := by
  have hacc (l : List Tok) (p : Nat × Nat) : (l.foldl (fun (p : Nat × Nat) t => (p.1 + cfExpfx compat t.z0 m, p.2 + momTerm compat t.z0 m)) p).1 =
      p.1 + (l.map fun t => cfExpfx compat t.z0 m).sum := by
    induction l generalizing p with
    | nil => rfl
    | cons t l ih => rw [List.foldl_cons, ih, List.map_cons, List.sum_cons, Nat.add_assoc]
  exact (hacc toks (0, 0)).trans (Nat.zero_add _)

theorem sweepRow_sum0 {toks : List Tok} {r : RowState} {scr : RowScreen} (h : r.scr = some scr) :
    (sweepRow f toks r).sum0 = (toks.map fun t => cfExpfx f.compat t.z0 scr.m0).sum := by
  unfold sweepRow
  rw [h]
  dsimp only
  split <;> exact sumSweepOf_fst ..

@[simp] theorem sweepRow_toks (f : Flight) (toks : List Tok) (r : RowState) : (sweepRow f toks r).toks = r.toks := by
  unfold sweepRow
  split
  · rfl
  · dsimp only
    split <;> rfl

/-- A row keeps the tokens of its leaves but for those that the second screen has poisoned (R84). -/
def RowState.marked (r : RowState) (again : List Tok) : RowState :=
  { r with toks := List.zipWith (fun (t u : Tok) => if u.pois then u else t) r.toks again }

/-- Row `i` with the marks of the second screen, and the scores that it gives. -/
def State.rescored (s : State) (f : Flight) (hits : List RecRef) (row : RowState) (i : Nat) : RowState × List Tok :=
  let x := s.screenSet f f.view (curedMain hits)
  let again := rowToks f f.mainHead s.maskViews x.2.1 ((x.1.hurtScreen f).2 false i) row
  (row.marked again, again)

theorem State.rescored_of_whole {hits : List RecRef} {row : RowState} {i : Nat} {again : List Tok}
    (h : (s.fixedBad.any fun c => f.clusters.contains c) = false)
    (ha : rowToks f f.mainHead s.maskViews (s.screenSet f f.view (curedMain hits)).2.1 (fun _ => false) row = again) :
    s.rescored f hits row i = (row.marked again, again) := by
  have hbad : (s.screenSet f f.view (curedMain hits)).1.bad = s.bad := congrArg Holdings.bad (s.screenSet_holdings ..)
  rw [State.rescored, State.hurtScreen_of_whole (by rwa [State.fixedBad_congr hbad]), ha]

/-- The state after the second screen. -/
def State.screenedAgain (s : State) (f : Flight) (hits : List RecRef) : State :=
  ((s.screenSet f f.view (curedMain hits)).1.hurtScreen f).1.mendStream f.ln

theorem State.screenedAgain_spec (s : State) (f : Flight) (hits : List RecRef) :
    (s.screenedAgain f hits).pad = s.pad ∧ (s.screenedAgain f hits).fuses = s.fuses ∧ (s.screenedAgain f hits).flights = s.flights := by
  have hkeep := s.screenSet_holdings f f.view (curedMain hits)
  rw [State.screenedAgain, State.mendStream_frame, State.hurtScreen_frame]
  exact ⟨congrArg Holdings.pad hkeep, congrArg Holdings.fuses hkeep, congrArg Holdings.flights hkeep⟩

/-- The flight once its sums are formed: `h` is the flight with what the second screen, where there is one, has broken. -/
def sweptFlight (h : Flight) (rows : List (RowState × List Tok)) : Flight :=
  { h with rows := rows.map fun q => sweepRow h q.2 q.1, swept := true }

@[simp] theorem sweptFlight_ln (h : Flight) (rows : List (RowState × List Tok)) : (sweptFlight h rows).ln = h.ln := rfl

@[simp] theorem length_sweptFlight (h : Flight) (rows : List (RowState × List Tok)) : (sweptFlight h rows).rows.length = rows.length := by
  simp [sweptFlight]

theorem sweptFlight_getElem? {h : Flight} {rows : List (RowState × List Tok)} {i : Nat} {q : RowState × List Tok} (hq : rows[i]? = some q) :
    (sweptFlight h rows).rows[i]? = some (sweepRow h q.2 q.1) := by
  simp [sweptFlight, hq]

theorem exec_sumSweep_of_no_turn (h : s.flight ln = some f) (ht : s.unitTurn ln (fun g => g.m0done && !g.swept) = false) :
    exec (.sumSweep ln cured) s = .next s := by
  change execSumSweep ln cured s = _
  simp [execSumSweep, h, ht]

section
variable (h : s.flight ln = some f) (hp : f.past = false) (hm : f.m0done = true) (hs : f.swept = false) (he : f.emitted = false)
  (ht : s.unitTurn ln (fun g => g.m0done && !g.swept) = true)
include h hp hm hs he ht

theorem exec_sumSweep_once (h2 : f.twice = false) :
    exec (.sumSweep ln cured) s = .next (s.setFlight (sweptFlight f (f.rows.map fun r => (r, r.toks)))) := by
  change execSumSweep ln cured s = _
  simp only [execSumSweep, h]
  rw [if_neg (by simp [hp, hm, hs, he, ht]), if_neg (by simp [h2])]
  rfl

/-- A step in `TWICE` screens again before it sums. -/
theorem exec_sumSweep_twice (h2 : f.twice = true) (hsc : f.screened = true) : ∃ cause, exec (.sumSweep ln cured) s =
    .next ((s.screenedAgain f (s.hits f cured)).setFlight
      (sweptFlight (f.timing cause) (f.rows.zipIdx.map fun q => s.rescored f (s.hits f cured) q.1 q.2))) := by
  refine ⟨if (s.screenSet f f.view (curedMain (s.hits f cured))).2.2 then 1 else 0, ?_⟩
  change execSumSweep ln cured s = _
  simp only [execSumSweep, h]
  rw [if_neg (by simp [hp, hm, hs, he, ht]), if_pos (by simp [h2, hsc])]
  rfl

end

end Sys2Proof.Machine
end

section
/-! PROOF. SCREEN, M0_BROADCAST and SUM_SWEEP form every score (R64 to R88, R131, R168, R471). -/

namespace Sys2Proof.Machine

/-- Settles O40: each of the three phases comes to the state and the rows that its definition names, and they are read row by row. -/
theorem screenBroadcastAndSweepFormEveryScore : Obligations.ScreenBroadcastAndSweepFormEveryScore := by
  unfold Obligations.ScreenBroadcastAndSweepFormEveryScore
  refine ⟨fun s ln f cured h hr => ?screen, fun s ln f h hp he => ⟨fun ht lag hs hm => ?broadcast,
    fun ht lag => exec_m0Broadcast_of_no_turn h ht, fun ht cured => exec_sumSweep_of_no_turn h ht, fun cured ht hm hs hsc => ?sweep⟩⟩
  case screen =>
    extract_lets d hits s0
    have hs0 : s0 = (s.refScreen f hits).1 := by
      unfold s0 State.refScreen
      cases f.rview <;> rfl
    have hhits : hits = s.hits f cured := rfl
    clear_value hits
    subst hhits
    obtain ⟨hpad, hfuses, hctr, hfl⟩ := s.screened_spec f (s.hits f cured) ln
    obtain ⟨hln, hscreened, hreleased, hrows⟩ := s.screenFlight_spec f (s.hits f cured)
    refine ⟨_, _, exec_screen_of_ready h hr, .setFlight_of_flights h hfl (hln.trans (State.flight_ln h)), hscreened, hreleased,
      by simp [hrows], fun r row hrow hb => ?blind, fun hwhole => ⟨?ctr, fun r row hrow hb => ?seen⟩, hpad, hfuses⟩
    case blind =>
      rw [getD_of_getElem? (State.screenFlight_getElem? hrow)]
      exact rowToks_of_blind hb
    case ctr =>
      refine hctr.trans ?_
      rw [State.hurtScreen_mainScreen _ hwhole]
      exact congrArg Holdings.freeCtr (s.mainScreen_holdings ..)
    case seen =>
      rw [getD_of_getElem? (State.screenFlight_getElem? hrow), hs0]
      dsimp only [State.screenRow]
      rw [State.hurtScreen_mainScreen _ hwhole]
      exact rowToks_of_seen hb
  case broadcast =>
    have hkeep := s.broadcastRows_holdings f
    obtain ⟨hln, hdone, hrows⟩ := s.broadcastFlight_spec f lag
    refine ⟨_, _, exec_m0Broadcast_of_turn h hp hs hm he ht,
      .setFlight_of_flights h (congrArg Holdings.flights hkeep) (hln.trans (State.flight_ln h)), hdone, by simp [hrows, State.broadcastRows],
      fun r row hrow => ?row, ?lag, congrArg Holdings.pad hkeep, congrArg Holdings.fuses hkeep⟩
    case row =>
      obtain ⟨t, hget⟩ := s.broadcastRows_getElem? hrow
      rw [hrows, getD_of_getElem? hget]
      obtain ⟨hscr, htoks, hlane⟩ := t.m0Row_spec f r { row with lane := laneOf s.inService r }
      exact ⟨hscr, htoks, hlane, fun hsp => State.m0Row_of_spoiled t f r hsp⟩
    case lag =>
      rintro rfl hc htb hd
      exact State.broadcastFlight_tb hc htb hd
  case sweep =>
    cases htw : f.twice with
    | false =>
      refine ⟨_, _, exec_sumSweep_once h hp hm hs he ht htw, .setFlight h (by simp [State.flight_ln h]), rfl, by simp,
        fun r row scr hrow hscr _ => ?row, nofun, fun _ => rfl, rfl, rfl⟩
      rw [getD_of_getElem? (sweptFlight_getElem? (q := (row, row.toks)) (by simp [hrow]))]
      exact ⟨sweepRow_sum0 hscr, sweepRow_toks ..⟩
    | true =>
      obtain ⟨cause, hexec⟩ := exec_sumSweep_twice h hp hm hs he ht htw hsc
      obtain ⟨hpad, hfuses, hfl⟩ := s.screenedAgain_spec f (s.hits f cured)
      refine ⟨_, _, hexec, .setFlight_of_flights h hfl (by simp [State.flight_ln h]), rfl, by simp,
        fun _ _ _ _ _ hf => (nomatch hf), fun hwhole _ r row scr hrow hscr => ?again, nofun, hpad, hfuses⟩
      intro again
      have hagain : s.rescored f (s.hits f cured) row r = (row.marked again, again) := State.rescored_of_whole hwhole rfl
      rw [getD_of_getElem? (sweptFlight_getElem? (q := (row.marked again, again)) (by simp [hrow, hagain]))]
      refine ⟨(sweepRow_sum0 (r := row.marked again) hscr).trans ?_, sweepRow_toks ..⟩
      rw [Flight.timing_compat]

end Sys2Proof.Machine
end

section
/-! SUPPORT. The snapshot of a step and the release of its fill (R88, R124, R163, R420). -/

namespace Sys2Proof.Machine

variable {s t u : State} {f g : Flight} {ln : Nat}

/-! What the reads of a snapshot keep. -/

section
variable (s)

@[simp] theorem State.rereadCons_holdings (n : Nat) (who : Who) : (s.rereadCons n who).holdings = s.holdings := by
  unfold State.rereadCons
  dsimp only
  split <;> simp

@[simp] theorem State.callEnd_holdings (n st reason : Nat) : (s.callEnd n st reason).holdings = s.holdings := by
  unfold State.callEnd State.wantEnd
  split <;> simp

@[simp] theorem State.takeSlots_holdings (n k : Nat) (merge : Bool) : (s.takeSlots n k merge).1.holdings = s.holdings := by
  unfold State.takeSlots
  split <;> simp

@[simp] theorem State.vacancy_holdings (n k : Nat) (merge : Bool) : (s.vacancy n k merge).1.holdings = s.holdings := by
  unfold State.vacancy
  extract_lets late s1 full s2
  have h1 : s1.holdings = s.holdings := by
    unfold s1
    split <;> simp
  have h2 : s2.holdings = s.holdings := by
    unfold s2
    split <;> simp [h1]
  split
  · exact h2
  · simp [h2]

@[simp] theorem State.spillTable_holdings (n : Nat) (who : Who) : (s.spillTable n who).1.holdings = s.holdings :=
  foldl_keeps (fun t _ => t.readHost_holdings ..) _ s

@[simp] theorem State.countList_holdings (tabs : List SpillTab) (n : Nat) (who : Who) : (s.countList tabs n who).1.holdings = s.holdings := by
  change (s.spilledCounts tabs n who).1.holdings = s.holdings
  unfold State.spilledCounts
  split
  · rfl
  · split
    · rfl
    · exact s.spillTable_holdings ..

end

/-! HISTORY_SNAPSHOT. -/

/-- From `s` to `t`, flight `ln` may have been written; the other flights, Paddock and the fuses are as they were. -/
structure WritesOnly (ln : Nat) (s t : State) : Prop where
  flight : ∃ g, Becomes s t ln g
  pad    : t.pad = s.pad
  fuses  : t.fuses = s.fuses

theorem WritesOnly.refl (h : s.flight ln = some f) : WritesOnly ln s s := ⟨⟨f, .refl h⟩, rfl, rfl⟩

theorem WritesOnly.of_holdings (h : WritesOnly ln s t) (hu : u.holdings = t.holdings) : WritesOnly ln s u := by
  obtain ⟨⟨g, hg⟩, hpad, hfuses⟩ := h
  exact ⟨⟨g, hg.of_flights (congrArg Holdings.flights hu)⟩, (congrArg Holdings.pad hu).trans hpad, (congrArg Holdings.fuses hu).trans hfuses⟩

theorem WritesOnly.setFlight (h : WritesOnly ln s t) (hg : g.ln = ln) : WritesOnly ln s (t.setFlight g) := by
  obtain ⟨⟨g', hg'⟩, hpad, hfuses⟩ := h
  exact ⟨⟨g, hg'.trans (.setFlight hg'.1 hg)⟩, hpad, hfuses⟩

/-- The snapshot of a row may break the count of its own step (R418), and writes no other flight. -/
theorem State.snapRow_writesOnly {done : List RowState} {i : Nat} {row : RowState} (h : WritesOnly f.ln s t) :
    WritesOnly f.ln s (t.snapRow f done i row).1 := by
  unfold State.snapRow
  split
  · exact h
  next n _ =>
    extract_lets merge run j held first
    split
    next t1 vac e1 =>
    have h1 : t1.holdings = t.holdings := (fst_keeps e1).trans (by split <;> simp)
    split
    next t2 c bad e2 =>
    have h2 : t2.holdings = t1.holdings := (fst_keeps e2).trans (t1.countList_holdings ..)
    extract_lets t3 t4 t5
    have h3 : t3.holdings = t.holdings := by
      unfold t3
      split
      · exact h2.trans h1
      · exact h1
    have h4 : t4.holdings = t.holdings := by
      unfold t4
      split <;> simp [h3]
    have hw : WritesOnly f.ln s t4 := h.of_holdings h4
    show WritesOnly f.ln s t5
    unfold t5
    split
    · split
      next g hg => exact hw.setFlight ((g.timing_ln 6).trans (State.flight_ln hg))
      · exact hw
    · exact hw

/-- The state in which the rows of a step are taken: the short rings' `CONS` read again (R286). -/
def State.consRead (s : State) (f : Flight) : State := (s.shortRings f).foldl (fun t n => t.rereadCons n f.who) s

/-- The rows of a step at its snapshot, taken in order. -/
def State.snapRows (s : State) (f : Flight) : State × List RowState :=
  (s.consRead f).collect (fun t done q => t.snapRow f done q.2 q.1) f.rows.zipIdx

theorem exec_historySnapshot_of_wait (h : s.flight ln = some f) (hr : s.snapReady f = false) : exec (.historySnapshot ln) s = .next s := by
  change execHistorySnapshot ln s = _
  simp [execHistorySnapshot, h, hr]

theorem exec_historySnapshot_of_ready (h : s.flight ln = some f) (hp : f.past = false) (hl : f.loaded = true) (hs : f.snapped = false)
    (he : f.emitted = false) (hr : s.snapReady f = true) (hg : (s.snapRows f).1.flight ln = some g) :
    exec (.historySnapshot ln) s = .next ((s.snapRows f).1.setFlight
      { g with rows := (s.snapRows f).2, runs := f.runs.map ((s.snapRows f).1.snapRun f (s.snapRows f).2), snapped := true }) := by
  change execHistorySnapshot ln s = _
  simp only [execHistorySnapshot, h]
  rw [if_neg (by simp [hp, hl, hs, he, hr])]
  change (match (s.snapRows f).1.flight ln with
    | none => _
    | some g => _) = _
  rw [hg]
  rfl

theorem State.consRead_holdings (s : State) (f : Flight) : (s.consRead f).holdings = s.holdings :=
  foldl_keeps (fun t n => t.rereadCons_holdings n f.who) _ s

theorem State.snapRows_writesOnly (h : s.flight ln = some f) : WritesOnly ln s (s.snapRows f).1 := by
  obtain rfl := State.flight_ln h
  exact State.collect_keeps (P := WritesOnly f.ln s) (fun t done q ht => State.snapRow_writesOnly ht)
    ((WritesOnly.refl h).of_holdings (s.consRead_holdings f)) _

theorem State.length_snapRows (s : State) (f : Flight) : (s.snapRows f).2.length = f.rows.length := by
  simp [State.snapRows]

theorem State.snapRow_of_unbound {done : List RowState} {i : Nat} {row : RowState} (h : row.slot = none) :
    s.snapRow f done i row = (s, { row with snapped := true }) := by
  simp [State.snapRow, h]

/-- A row that is bound to no request is only marked. -/
theorem State.snapRows_of_unbound {i : Nat} {row : RowState} (h : f.rows[i]? = some row) (hn : row.slot = none) :
    (s.snapRows f).2[i]? = some { row with snapped := true } := by
  have hi : f.rows.zipIdx[i]? = some (row, i) := by simp [h]
  obtain ⟨t, done, -, he⟩ := State.collect_getElem? (P := fun _ => True) (F := fun t done q => State.snapRow t f done q.2 q.1)
    (fun _ _ _ _ => trivial) trivial (s := s.consRead f) hi
  exact he.trans (congrArg (some ·.2) (State.snapRow_of_unbound hn))

/-! FILL_RELEASE. -/

theorem exec_fillRelease_of_held {h : Hold} (hf : s.flight ln = some f) (hh : f.hold = some h) (hm : h.met = false) :
    exec (.fillRelease ln) s = .next s := by
  change execFillRelease ln s = _
  simp [execFillRelease, hf, hh, hm]

/-- With nothing that holds the fill, the free halves of the candidate store decide. -/
theorem exec_fillRelease_of_free (hf : s.flight ln = some f) (hp : f.past = false) (hc : f.collected = true) (hr : f.released = false)
    (hs : f.snapped = true) (ha : f.allocd = true) (hh : ∀ h, f.hold = some h → h.met = true) (hfree : s.arraysFree ln = true) :
    exec (.fillRelease ln) s = .next (if 2 ≤ s.halvesTaken then s.setFlight (f.timing 3)
      else s.setFlight (({ f with released := true, gcLaunch := s.gc } : Flight).timing (if s.slowClock then 8 else 0))) := by
  change execFillRelease ln s = _
  simp only [execFillRelease, hf]
  refine (if_neg ?guard).trans (by split <;> rfl)
  cases hx : f.hold with
  | none => simp [hp, hc, hr, hs, ha, hfree]
  | some h => simp [hp, hc, hr, hs, ha, hfree, hh h hx]

end Sys2Proof.Machine
end
section
/-! PROOF. The snapshot and the release of a step (R88, R124, R163, R420). -/

namespace Sys2Proof.Machine

/-- Settles O39: a snapshot walks the rows of its step, and a release is a matter of the halves that are taken. -/
theorem snapshotAndReleaseOfAStep : Obligations.SnapshotAndReleaseOfAStep := by
  unfold Obligations.SnapshotAndReleaseOfAStep
  intro s ln f h hp
  refine ⟨fun _ _ _ hr => exec_historySnapshot_of_wait h hr, fun hl hs he hr => ?ready, fun hc hr hs ha hh hfree => ?free,
    fun _ hh hm => exec_fillRelease_of_held h hh hm⟩
  case ready =>
    obtain ⟨⟨g, hg⟩, hpad, hfuses⟩ := State.snapRows_writesOnly h
    have hln : g.ln = ln := State.flight_ln hg.1
    refine ⟨_, _, exec_historySnapshot_of_ready h hp hl hs he hr hg.1, hg.trans (.setFlight hg.1 hln), rfl,
      s.length_snapRows f, List.length_map _, fun r row hrow hn => State.snapRows_of_unbound hrow hn, hpad, hfuses⟩
  case free =>
    have hln : f.ln = ln := State.flight_ln h
    have hexec := exec_fillRelease_of_free h hp hc hr hs ha hh hfree
    refine ⟨fun hlt => ?release, fun hge => ?wait⟩
    case release =>
      rw [if_neg (by omega)] at hexec
      exact ⟨_, hexec, .setFlight h ((Flight.timing_ln _ _).trans hln), rfl⟩
    case wait =>
      rw [if_pos hge] at hexec
      exact ⟨_, hexec, .setFlight h ((f.timing_ln 3).trans hln), rfl⟩

end Sys2Proof.Machine
end

section
/-! SUPPORT. ALLOCATE_WORKING_SET (R79, R80, R90): the step that takes its units, the one that waits, and the one that is refused. -/

namespace Sys2Proof.Machine

variable {s : State} {f : Flight} {ln : Nat}

/-! What an allocation and a refusal leave. -/

/-- The working set of a step, and the mode that fits the slices as they are. -/
def Flight.workSet (f : Flight) : WorkSet := Machine.workSet f.prog f.view f.rview f.clusters
def State.modeOf (s : State) (f : Flight) : Option Bool := fitMode f.workSet f.prog.paired (s.freeMin f.clusters)

/-- The units that a step takes in a mode. -/
def Flight.unitsIn (f : Flight) (twice : Bool) : Nat := if twice then f.workSet.rest else f.workSet.single f.prog.paired

/-- The step takes its units of the slices of its clusters, whose free bytes are no longer known. -/
def State.takeUnits (s : State) (f : Flight) (twice : Bool) : State :=
  ((f.clusters.flatMap s.freeRanges).foldl (fun s r => s.dirtyPad r.1 r.2) s).setFlight
    { f with twice := twice, wsUnits := f.unitsIn twice, allocd := true, restart := false }

theorem State.dirtyPads_frame (s : State) (l : List (Nat × Nat)) : l.foldl (fun s r => s.dirtyPad r.1 r.2) s =
    { s with padFresh := (l.foldl (fun s r => s.dirtyPad r.1 r.2) s).padFresh, padDirty := (l.foldl (fun s r => s.dirtyPad r.1 r.2) s).padDirty } := by
  induction l generalizing s with
  | nil => rfl
  | cons r l ih =>
    rw [List.foldl_cons, ih]
    rfl

theorem State.takeUnits_frame (s : State) (f : Flight) (twice : Bool) : s.takeUnits f twice =
    { s with padFresh := (s.takeUnits f twice).padFresh, padDirty := (s.takeUnits f twice).padDirty, flights := (s.takeUnits f twice).flights } := by
  unfold State.takeUnits
  rw [State.dirtyPads_frame]
  rfl

theorem State.takeUnits_becomes (h : s.flight ln = some f) (twice : Bool) : Becomes s (s.takeUnits f twice) ln
    { f with twice := twice, wsUnits := f.unitsIn twice, allocd := true, restart := false } :=
  have hln : f.ln = ln := State.flight_ln h
  .setFlight_of_flights h (by rw [State.dirtyPads_frame]) hln

/-- The flight of a refused step: over, without rows, with `CSTAT` 3 (R80, R419). -/
def Flight.refused (f : Flight) (gc : Nat) : Flight :=
  { f with
    cstat := 3, allocd := true, wsUnits := 0, loaded := true, snapped := true, released := true, screened := true, m0done := true
    swept := true, selected := true, verified := true, klDone := true, emitted := true, scored := true, gradDone := true, transDone := true
    rows := [], gEmit := gc }

/-- A refusal writes its flight, and beside it the halt of the queue. -/
theorem State.refuseStep_keeps (s : State) (f : Flight) : (s.refuseStep f).flights = (s.setFlight (f.refused s.gc)).flights ∧
    (s.refuseStep f).fuses = s.fuses ∧ (s.refuseStep f).pad = s.pad := by
  unfold State.refuseStep
  dsimp only
  split
  · exact ⟨rfl, rfl, rfl⟩
  · exact ⟨State.halt_flights .., State.halt_fuses .., State.halt_pad ..⟩

theorem State.refuseStep_becomes (h : s.flight ln = some f) : Becomes s (s.refuseStep f) ln (f.refused s.gc) := by
  have hln : f.ln = ln := State.flight_ln h
  obtain ⟨hfl, -⟩ := s.refuseStep_keeps f
  exact (Becomes.setFlight (g := f.refused s.gc) h hln).of_flights hfl

theorem State.refuseStep_halts (hq : f.queue < 32) (hen : s.qEn f.queue = true) (hrun : s.halted f.queue = false) :
    (s.refuseStep f).halted f.queue = true ∧ (s.refuseStep f).getF (fQ_HALT f.queue) = 2 := by
  have hgo : ((s.setFlight (f.refused s.gc)).halted f.queue || !(s.setFlight (f.refused s.gc)).qEn f.queue) = false := by
    change (s.halted f.queue || !s.qEn f.queue) = false
    rw [hrun, hen]
    rfl
  have heq : s.refuseStep f = if (s.setFlight (f.refused s.gc)).halted f.queue || !(s.setFlight (f.refused s.gc)).qEn f.queue then _ else _ := rfl
  rw [heq, hgo]
  obtain ⟨hstate, hcode⟩ := (s.setFlight (f.refused s.gc)).getF_halt (order := 0)
    ((2 ^ 32 + f.head - s.getF (fQ_HEAD f.queue)) % 2 ^ 32) f.prog.stepId hq (show 2 < 256 by decide)
  exact ⟨beq_iff_eq.2 hstate, hcode⟩

/-! What the command comes to. -/

theorem exec_allocateWorkingSet_of_earlier (h : s.flight ln = some f) (hg : ∃ g ∈ s.flights, g.ln < ln ∧ g.past = false ∧ g.allocd = false) :
    exec (.allocateWorkingSet ln) s = .next s := by
  obtain ⟨g, hmem, hlt, hpast, hall⟩ := hg
  have hturn : (s.flights.all fun g => decide (ln ≤ g.ln) || g.past || g.allocd) = false :=
    List.all_eq_false.2 ⟨g, hmem, by simp [hlt, hpast, hall]⟩
  change execAllocateWorkingSet ln s = _
  simp [execAllocateWorkingSet, h, hturn]

section
variable (h : s.flight ln = some f) (hp : f.past = false) (ha : f.allocd = false) (he : f.emitted = false)
  (ht : ∀ g ∈ s.flights, g.ln < ln → g.past = true ∨ g.allocd = true)
include h hp ha he ht

/-- In its turn a step is placed as the mode says. -/
theorem exec_allocateWorkingSet_of_turn : exec (.allocateWorkingSet ln) s =
    match s.modeOf f with
    | none => .next (if f.restart then s else s.refuseStep f)
    | some twice =>
      if twice && f.collected then .next (if f.restart then s else s.refuseStep f)
      else if f.clusters.any fun c => decide (s.freeUnits c < s.heldUnits c + s.reservedUnits f.sets c + f.unitsIn twice) then .next s
      else .next (s.takeUnits f twice) := by
  have hturn : (s.flights.all fun g => decide (ln ≤ g.ln) || g.past || g.allocd) = true := by
    refine List.all_eq_true.2 fun g hmem => ?_
    rcases Nat.lt_or_ge g.ln ln with hlt | hge
    · rcases ht g hmem hlt with hg | hg <;> simp [hg]
    · simp [hge]
  change execAllocateWorkingSet ln s = _
  simp only [execAllocateWorkingSet, h]
  exact if_neg (by simp [hp, ha, he, hturn])

/-- A step whose set fits beside those held and those that REPACKs wait for takes its units, and no other flight changes. -/
theorem exec_allocateWorkingSet_of_room {twice : Bool} (hmode : s.modeOf f = some twice) (hc : twice = true → f.collected = false)
    (hroom : ∀ c ∈ f.clusters, s.heldUnits c + s.reservedUnits f.sets c + f.unitsIn twice ≤ s.freeUnits c) :
    ∃ u, exec (.allocateWorkingSet ln) s = .next u ∧
      Becomes s u ln { f with twice := twice, wsUnits := f.unitsIn twice, allocd := true, restart := false } ∧
      u = { s with padFresh := u.padFresh, padDirty := u.padDirty, flights := u.flights } := by
  refine ⟨s.takeUnits f twice, ?_, State.takeUnits_becomes h twice, s.takeUnits_frame f twice⟩
  rw [exec_allocateWorkingSet_of_turn h hp ha he ht, hmode]
  exact (if_neg (by simpa using hc)).trans (if_neg (by simpa using hroom))

theorem exec_allocateWorkingSet_of_no_room {twice : Bool} (hmode : s.modeOf f = some twice) (hc : twice = true → f.collected = false)
    (hfull : ∃ c ∈ f.clusters, s.freeUnits c < s.heldUnits c + s.reservedUnits f.sets c + f.unitsIn twice) :
    exec (.allocateWorkingSet ln) s = .next s := by
  rw [exec_allocateWorkingSet_of_turn h hp ha he ht, hmode]
  exact (if_neg (by simpa using hc)).trans (if_pos (by simpa using hfull))

theorem exec_allocateWorkingSet_of_no_mode (hmode : s.modeOf f = none ∨ s.modeOf f = some true ∧ f.collected = true) :
    exec (.allocateWorkingSet ln) s = .next (if f.restart then s else s.refuseStep f) := by
  rw [exec_allocateWorkingSet_of_turn h hp ha he ht]
  rcases hmode with hmode | ⟨hmode, hc⟩
  · rw [hmode]
  · rw [hmode]
    exact if_pos (by simp [hc])

/-- A step that no mode places waits where its screen starts again (R90), and else is refused, with its queue (R80). -/
theorem exec_allocateWorkingSet_of_restart (hmode : s.modeOf f = none ∨ s.modeOf f = some true ∧ f.collected = true) (hr : f.restart = true) :
    exec (.allocateWorkingSet ln) s = .next s := by
  rw [exec_allocateWorkingSet_of_no_mode h hp ha he ht hmode, if_pos hr]

theorem exec_allocateWorkingSet_of_refusal (hmode : s.modeOf f = none ∨ s.modeOf f = some true ∧ f.collected = true) (hr : f.restart = false) :
    ∃ u g, exec (.allocateWorkingSet ln) s = .next u ∧ Becomes s u ln g ∧ g.cstat = 3 ∧ g.emitted = true ∧ g.rows = [] ∧
      u.fuses = s.fuses ∧ u.pad = s.pad ∧
      (f.queue < 32 → s.qEn f.queue = true → s.halted f.queue = false → u.halted f.queue = true ∧ u.getF (fQ_HALT f.queue) = 2) := by
  obtain ⟨-, hfuses, hpad⟩ := s.refuseStep_keeps f
  refine ⟨_, _, ?_, State.refuseStep_becomes h, rfl, rfl, rfl, hfuses, hpad, State.refuseStep_halts⟩
  rw [exec_allocateWorkingSet_of_no_mode h hp ha he ht hmode, if_neg (by simp [hr])]

end

end Sys2Proof.Machine
end

section
/-! SUPPORT. LOADH (R197, R235, R261, R272, R335): what its reads keep, the rows that it loads, and the step that it leaves. -/

namespace Sys2Proof.Machine

variable {s t : State} {f : Flight} {ln : Nat}

/-! What the reads of LOADH keep. -/

/-- What holds the same things, host memory and registers beside those of events, holds the same for a load. -/
theorem State.loadHoldings_eq (h : t.holdings = s.holdings) (hm : t.mem = s.mem) (he : ∀ n, t.eState n = s.eState n) :
    t.loadHoldings = s.loadHoldings := by
  rw [State.loadHoldings, h, hm, funext he, State.loadHoldings]

/-- The words of the entries lie outside the registers of events. -/
theorem offEvents_rENT (n w : Nat) : OffEvents (rENT n w) := by unfold OffEvents rENT; omega

section
variable (s)

@[simp] theorem State.readHost_loadHoldings (req sev a n : Nat) (who : Who) (row : Nat) :
    (s.readHost req sev a n who row).1.loadHoldings = s.loadHoldings :=
  State.loadHoldings_eq (s.readHost_holdings ..) (s.readHost_mem ..) fun _ => State.getF_congr (s.readHost_reg (offEvents_rENT ..) ..)

@[simp] theorem State.rowEvent_loadHoldings (f : Flight) (code row n cause slot : Nat) :
    (s.rowEvent f code row n cause slot).loadHoldings = s.loadHoldings :=
  State.loadHoldings_eq (s.rowEvent_holdings ..) (s.rowEvent_mem ..) fun _ => State.getF_congr (s.coalesce_reg (offEvents_rENT ..) ..)

/-- A count of rows in flight is no entry's state. -/
@[simp] theorem State.setInfl_loadHoldings (n v : Nat) : (s.setF (fE_INFL n) v).loadHoldings = s.loadHoldings :=
  State.loadHoldings_eq rfl rfl fun _ => State.getF_setF_other _ _ _ (show 0 + 3 ≤ 64 by decide) (.inr (.inl (show 0 + 3 ≤ 40 by decide)))

@[simp] theorem State.readRuns_loadHoldings (p : StepProg) (who : Who) : (s.readRuns p who).1.loadHoldings = s.loadHoldings := by
  unfold State.readRuns
  split
  · rfl
  · exact s.readHost_loadHoldings ..

@[simp] theorem State.readParam_loadHoldings (addr : Nat) (who : Who) : (s.readParam addr who).1.loadHoldings = s.loadHoldings := by
  unfold State.readParam
  dsimp only
  split <;> simp

@[simp] theorem State.readBlocks_loadHoldings (addrs : List Nat) (who : Who) : (s.readBlocks addrs who).1.loadHoldings = s.loadHoldings := by
  unfold State.readBlocks
  refine foldl_fst_keeps (fun p a => ?_) addrs (s, [])
  exact p.1.readParam_loadHoldings a who

@[simp] theorem State.readHidden_loadHoldings (req : Nat) (f : Flight) (r : Nat) : (s.readHidden req f r).1.loadHoldings = s.loadHoldings :=
  s.readHost_loadHoldings ..

@[simp] theorem State.readRowMask_loadHoldings (b : ParamBlock) (v : PlaneView) (who : Who) (row : Nat) :
    (s.readRowMask b v who row).1.loadHoldings = s.loadHoldings := by
  unfold State.readRowMask
  split <;> simp

@[simp] theorem State.readBias_loadHoldings (hb : Nat) (v : PlaneView) (who : Who) : (s.readBias hb v who).1.loadHoldings = s.loadHoldings := by
  unfold State.readBias
  split
  · rfl
  · exact s.readHost_loadHoldings ..

@[simp] theorem State.replay_loadHoldings (e : ScoreEntry) (b : ParamBlock) (who : Who) (row : Nat) :
    (s.replay e b who row).1.loadHoldings = s.loadHoldings := by
  unfold State.replay
  dsimp only
  split <;> simp

@[simp] theorem State.spillTable_loadHoldings (n : Nat) (who : Who) : (s.spillTable n who).1.loadHoldings = s.loadHoldings :=
  foldl_keeps (fun t _ => t.readHost_loadHoldings ..) _ s

@[simp] theorem State.loadTables_loadHoldings (slots : List Nat) (who : Who) : (s.loadTables slots who).1.loadHoldings = s.loadHoldings := by
  unfold State.loadTables
  refine foldl_fst_keeps (fun p n => ?_) slots (s, [])
  dsimp only
  split <;> simp

end

/-! Rows. -/

/-- The binding of a row reads the states of the entries, and no more of the state (R272). -/
theorem State.bindRow_congr (h : t.eState = s.eState) (p : StepProg) (runs : List VRun) (r : Nat) : t.bindRow p runs r = s.bindRow p runs r := by
  rw [State.bindRow, h, State.bindRow]

/-- Row `r` of a generation step is bound to the slot that the binding rule gives, or to none. -/
theorem State.loadRow_spec (s : State) (f : Flight) (runs : List VRun) (blocks : List (Nat × Option ParamBlock)) (r : Nat) :
    (s.loadRow f runs blocks r).1.loadHoldings = s.loadHoldings ∧ (s.loadRow f runs blocks r).2.slot = s.bindRow f.prog runs r := by
  unfold State.loadRow
  split
  next t1 g e1 =>
  have h1 : t1.loadHoldings = s.loadHoldings := (fst_keeps e1).trans (s.readHidden_loadHoldings ..)
  have hbind : t1.bindRow f.prog runs r = s.bindRow f.prog runs r := State.bindRow_congr (congrArg (·.2.2) h1) ..
  extract_lets
  split
  next hb => exact ⟨(t1.rowEvent_loadHoldings ..).trans h1, hb.symm.trans hbind⟩
  next n hb =>
    extract_lets serve t2 row raw cls t3
    have h2 : t2.loadHoldings = s.loadHoldings := (t1.setInfl_loadHoldings ..).trans h1
    have h3 : t3.loadHoldings = s.loadHoldings := ite_keeps ((t2.rowEvent_loadHoldings ..).trans h2) h2
    split
    next blk cause e =>
    extract_lets t4
    have h4 : t4.loadHoldings = s.loadHoldings := by
      unfold t4
      split
      · exact (t3.rowEvent_loadHoldings ..).trans h3
      · exact h3
    split
    · exact ⟨h4, hb.symm.trans hbind⟩
    · exact ⟨(t4.readRowMask_loadHoldings ..).trans h4, hb.symm.trans hbind⟩

theorem State.loadScoreRow_loadHoldings (s : State) (f : Flight) (entries : List (ScoreEntry × Bool)) (blocks : List (Nat × Option ParamBlock))
    (r : Nat) : (s.loadScoreRow f entries blocks r).1.loadHoldings = s.loadHoldings := by
  have hread : (s.readHidden 0 f r).1.loadHoldings = s.loadHoldings := s.readHidden_loadHoldings ..
  unfold State.loadScoreRow
  dsimp only
  split
  · simp
  · split
    · simp
    · split
      · simp
      · split
        next t e =>
          have ht : t.loadHoldings = s.loadHoldings := (fst_keeps e).trans (by simp)
          simp [ht]
        next t c e =>
          have ht : t.loadHoldings = s.loadHoldings := (fst_keeps e).trans (by simp)
          exact (State.readRowMask_loadHoldings ..).trans (ite_keeps ((t.rowEvent_loadHoldings ..).trans ht) ht)

/-- A row whose entry fails is `POISON`, and has no scores (R235, R338). -/
theorem State.loadScoreRow_of_bad {entries : List (ScoreEntry × Bool)} {e : ScoreEntry} {r : Nat} (h : entries[r]? = some (e, true))
    (s : State) (f : Flight) (blocks : List (Nat × Option ParamBlock)) :
    (s.loadScoreRow f entries blocks r).2.poison = true ∧ (s.loadScoreRow f entries blocks r).2.blind = true := by
  have hd : entries.getD r (default, true) = (e, true) := getD_of_getElem? h
  unfold State.loadScoreRow
  rw [hd]
  exact ⟨rfl, rfl⟩

/-! What the step loads. -/

/-- The entries of a score table, each with whether its form fails or a granule of it is poisoned. -/
def State.entriesAt (s : State) (tbl n : Nat) : List (ScoreEntry × Bool) :=
  (List.range n).map fun r =>
    let e := parseEntry (((s.memAt tbl (64 * n)).drop (64 * r)).take 64).toArray
    (e.1, e.2 || (s.peek (tbl + 64 * r) 64).2)

/-- The parameter blocks that a step reads: those of the requests that its rows bind, or of the score table's entries. -/
def State.blocksOf (s : State) (f : Flight) : List Nat :=
  match f.prog.scoreq with
  | some (tbl, _) => (((s.entriesAt tbl f.prog.rows).filter fun e => !e.2).map fun e => e.1.pb).eraseDups
  | none => ((List.range f.prog.rows).filterMap fun r => (s.bindRow f.prog (s.readRuns f.prog f.who).2 r).map fun n => s.getF (fE_PB n)).eraseDups

def State.bytesOf (s : State) (f : Flight) : Nat := s.blockBytesOf (s.blocksOf f)

/-- The verify runs of a step; a score step has none. -/
def State.runsOf (s : State) (f : Flight) : List VRun := if f.prog.scoreq.isSome then [] else (s.readRuns f.prog f.who).2

/-- The state in which the rows are loaded, with the blocks read. -/
def State.tableRead (s : State) (f : Flight) : State × List (Nat × Option ParamBlock) :=
  match f.prog.scoreq with
  | some (tbl, _) => (s.readHost 2 1 tbl (64 * f.prog.rows) f.who).1.readBlocks (s.blocksOf f) f.who
  | none => (s.readRuns f.prog f.who).1.readBlocks (s.blocksOf f) f.who

/-- One row of a step. -/
def State.loadOne (s t : State) (f : Flight) (r : Nat) : State × RowState :=
  match f.prog.scoreq with
  | some (tbl, _) => t.loadScoreRow f (s.entriesAt tbl f.prog.rows) (s.tableRead f).2 r
  | none => t.loadRow f (s.runsOf f) (s.tableRead f).2 r

def State.loadedRows (s : State) (f : Flight) : State × List RowState :=
  (s.tableRead f).1.collect (fun t _ r => s.loadOne t f r) (List.range f.prog.rows)

/-- In its turn a step loads its rows, or waits for room in the parameter store. -/
theorem exec_loadh_of_turn (h : s.flight ln = some f) (hp : f.past = false) (ha : f.allocd = true) (hl : f.loaded = false) (he : f.emitted = false)
    (ht : s.loadTurn ln = true) : exec (.loadh ln) s =
      if s.storeFull f (s.bytesOf f) then .next (s.waitStore f)
      else .next ((s.loadedRows f).1.finishLoad f (s.runsOf f) (s.bytesOf f) (s.loadedRows f).2) := by
  change execLoadh ln s = _
  simp only [execLoadh, h]
  refine (if_neg (by simp [hp, ha, hl, he, ht])).trans ?_
  unfold State.loadedRows State.loadOne State.tableRead State.bytesOf State.blocksOf State.runsOf
  cases f.prog.scoreq <;> rfl

theorem exec_loadh_of_no_turn (h : s.flight ln = some f) (ht : s.loadTurn ln = false) : exec (.loadh ln) s = .next s := by
  change execLoadh ln s = _
  simp [execLoadh, h, ht]

theorem State.tableRead_loadHoldings (s : State) (f : Flight) : (s.tableRead f).1.loadHoldings = s.loadHoldings := by
  unfold State.tableRead
  split <;> simp

theorem State.loadOne_loadHoldings (s t : State) (f : Flight) (r : Nat) : (s.loadOne t f r).1.loadHoldings = t.loadHoldings := by
  unfold State.loadOne
  split
  · exact t.loadScoreRow_loadHoldings ..
  · exact (t.loadRow_spec ..).1

theorem State.loadedRows_loadHoldings (s : State) (f : Flight) : (s.loadedRows f).1.loadHoldings = s.loadHoldings :=
  State.collect_keeps (P := fun t => t.loadHoldings = s.loadHoldings) (fun t _ r ht => (s.loadOne_loadHoldings t f r).trans ht)
    (s.tableRead_loadHoldings f) _

theorem State.loadedRows_getElem? (s : State) (f : Flight) {r : Nat} (hr : r < f.prog.rows) :
    ∃ t, t.loadHoldings = s.loadHoldings ∧ (s.loadedRows f).2[r]? = some (s.loadOne t f r).2 := by
  obtain ⟨t, -, ht, he⟩ := State.collect_getElem? (P := fun t => t.loadHoldings = s.loadHoldings)
    (F := fun t (_ : List RowState) r => s.loadOne t f r) (fun t _ r ht => (s.loadOne_loadHoldings t f r).trans ht)
    (s.tableRead_loadHoldings f) (getElem?_range_of_lt hr)
  exact ⟨t, ht, he⟩

theorem State.length_loadedRows (s : State) (f : Flight) : (s.loadedRows f).2.length = f.prog.rows := by
  simp [State.loadedRows]

theorem State.loadOne_of_bound (h : f.prog.scoreq = none) (r : Nat) (ht : t.loadHoldings = s.loadHoldings) :
    (s.loadOne t f r).2.slot = s.bindRow f.prog (s.readRuns f.prog f.who).2 r := by
  have hbind (runs : List VRun) : t.bindRow f.prog runs r = s.bindRow f.prog runs r := State.bindRow_congr (congrArg (·.2.2) ht) ..
  unfold State.loadOne State.runsOf
  rw [h]
  exact (t.loadRow_spec ..).2.trans (hbind _)

theorem State.loadOne_of_poison {tbl res r : Nat} (h : f.prog.scoreq = some (tbl, res)) (hr : r < f.prog.rows)
    (hp : (s.peek (tbl + 64 * r) 64).2 = true) (t : State) : (s.loadOne t f r).2.poison = true ∧ (s.loadOne t f r).2.blind = true := by
  have hentry : (s.entriesAt tbl f.prog.rows)[r]? =
      some ((parseEntry (((s.memAt tbl (64 * f.prog.rows)).drop (64 * r)).take 64).toArray).1, true) := by
    simp [State.entriesAt, hr, hp]
  unfold State.loadOne
  rw [h]
  exact State.loadScoreRow_of_bad hentry ..

/-! The step that LOADH leaves. -/

/-- A row of a step whose set is lost is `POISON` (R90). -/
def Flight.rowAs (f : Flight) (r : RowState) : RowState := if f.cstat = 2 then r.lost else r

theorem Flight.rowAs_spec (f : Flight) (r : RowState) : (f.rowAs r).slot = r.slot ∧ (f.rowAs r).blind = r.blind ∧
    (r.poison = true → (f.rowAs r).poison = true) := by
  unfold Flight.rowAs
  split
  · exact ⟨rfl, rfl, fun _ => rfl⟩
  · exact ⟨rfl, rfl, id⟩

theorem State.finishLoad_spec (s : State) (f : Flight) (runs : List VRun) (bytes : Nat) (rows : List RowState) :
    ∃ (t : State) (g : Flight), s.finishLoad f runs bytes rows = t.setFlight g ∧ t.loadHoldings = s.loadHoldings ∧
      g.ln = f.ln ∧ g.loaded = true ∧ g.psBytes = bytes ∧ g.rows = rows.map f.rowAs := by
  unfold State.finishLoad
  extract_lets t1
  have h1 : t1.loadHoldings = s.loadHoldings := by
    refine foldl_keeps (fun t v => ?_) _ s
    dsimp only
    split <;> simp
  split
  next t2 tabs e2 =>
  split
  next t3 hb hp e3 =>
  split
  next t4 rb rp e4 =>
  have h2 : t2.loadHoldings = s.loadHoldings := ((fst_keeps e2).trans (t1.loadTables_loadHoldings ..)).trans h1
  have h3 : t3.loadHoldings = s.loadHoldings := ((fst_keeps e3).trans (t2.readBias_loadHoldings ..)).trans h2
  have h4 : t4.loadHoldings = s.loadHoldings := by
    refine (fst_keeps e4).trans (.trans ?_ h3)
    split <;> simp
  refine ⟨_, _, rfl, h4, rfl, rfl, rfl, ?_⟩
  dsimp only
  unfold Flight.rowAs
  split <;> simp

section
variable (h : s.flight ln = some f) (hp : f.past = false) (ha : f.allocd = true) (hl : f.loaded = false) (he : f.emitted = false)
  (ht : s.loadTurn ln = true)
include h hp ha hl he ht

/-- With room for its blocks a step loads every row; a row of a generation step is bound by the binding rule, and a row of a score step whose entry is poisoned is `POISON`. -/
theorem exec_loadh_of_room (hroom : s.storeFull f (s.bytesOf f) = false) : ∃ u g, exec (.loadh ln) s = .next u ∧ Becomes s u ln g ∧
    g.loaded = true ∧ g.psBytes = s.bytesOf f ∧ g.rows.length = f.prog.rows ∧
    (f.prog.scoreq = none → ∀ r, r < f.prog.rows → (g.rows.getD r default).slot = s.bindRow f.prog (s.readRuns f.prog f.who).2 r) ∧
    (∀ tbl res r, f.prog.scoreq = some (tbl, res) → r < f.prog.rows → (s.peek (tbl + 64 * r) 64).2 = true →
      (g.rows.getD r default).poison = true ∧ (g.rows.getD r default).blind = true) ∧
    u.mem = s.mem ∧ u.pad = s.pad ∧ u.fuses = s.fuses := by
  have hln : f.ln = ln := State.flight_ln h
  obtain ⟨t, g, hfinish, hkeep, hg, hloaded, hps, hrows⟩ :=
    (s.loadedRows f).1.finishLoad_spec f (s.runsOf f) (s.bytesOf f) (s.loadedRows f).2
  have hall : t.loadHoldings = s.loadHoldings := hkeep.trans (s.loadedRows_loadHoldings f)
  have hget {r : Nat} (hr : r < f.prog.rows) :
      ∃ t, t.loadHoldings = s.loadHoldings ∧ g.rows.getD r default = f.rowAs (s.loadOne t f r).2 := by
    obtain ⟨t, ht, he⟩ := s.loadedRows_getElem? f hr
    exact ⟨t, ht, getD_of_getElem? (by rw [hrows, List.getElem?_map, he]; rfl)⟩
  refine ⟨t.setFlight g, g, ?exec, .setFlight_of_flights h (congrArg (·.1.flights) hall) (hg.trans hln), hloaded, hps,
    by rw [hrows, List.length_map, s.length_loadedRows], fun hsq r hr => ?slot, fun tbl res r hsq hr hpois => ?poison,
    congrArg (·.2.1) hall, congrArg (·.1.pad) hall, congrArg (·.1.fuses) hall⟩
  case exec => rw [exec_loadh_of_turn h hp ha hl he ht, if_neg (by simp [hroom]), hfinish]
  case slot =>
    obtain ⟨t, ht, he⟩ := hget hr
    obtain ⟨hslot, -⟩ := f.rowAs_spec (s.loadOne t f r).2
    rw [he, hslot, State.loadOne_of_bound hsq r ht]
  case poison =>
    obtain ⟨t, -, he⟩ := hget hr
    obtain ⟨-, hblind, hmark⟩ := f.rowAs_spec (s.loadOne t f r).2
    obtain ⟨hp, hb⟩ := State.loadOne_of_poison hsq hr hpois t
    rw [he]
    exact ⟨hmark hp, hblind.trans hb⟩

/-- Without room a step that waits already does nothing. -/
theorem exec_loadh_of_waiting (hfull : s.storeFull f (s.bytesOf f) = true) (hw : f.psWait = true) : exec (.loadh ln) s = .next s := by
  rw [exec_loadh_of_turn h hp ha hl he ht, if_pos hfull]
  exact congrArg _ (if_pos hw)

/-- Without room a step begins to wait, and is counted once, up to the largest number that the 16 bits of `PS_WAITS` hold. -/
theorem exec_loadh_of_full (hfull : s.storeFull f (s.bytesOf f) = true) (hw : f.psWait = false) : ∃ u, exec (.loadh ln) s = .next u ∧
    Becomes s u ln (({ f with psWait := true } : Flight).timing 5) ∧
    u.getF fPS_WAITS = Nat.min (2 ^ 16 - 1) (s.getF fPS_WAITS + 1) ∧ u = { s with regs := u.regs, flights := u.flights } := by
  have hln : f.ln = ln := State.flight_ln h
  refine ⟨(s.addSat fPS_WAITS 1).setFlight (({ f with psWait := true } : Flight).timing 5), ?_,
    .setFlight_of_flights h rfl ((Flight.timing_ln _ 5).trans hln), s.getF_addSat_same fPS_WAITS 1 (show 32 + 16 ≤ 64 by decide), rfl⟩
  rw [exec_loadh_of_turn h hp ha hl he ht, if_pos hfull]
  exact congrArg _ (if_neg (by simp [hw]))

end

end Sys2Proof.Machine
end

section
/-! PROOF. The working set and the load of a step: the bound of `PS_WAITS` (R79, R80, R90, R261, R272, R320, R335). -/

namespace Sys2Proof.Machine

/-- A step whose blocks fill the parameter store, and one that is to load after it. -/
def storeFiller : Flight := { (default : Flight) with ln := 6, loaded := true, psBytes := 8388609 }
def storeWaiter : Flight := { (default : Flight) with ln := 7, allocd := true }

/-- Both in flight, with `PS_WAITS` at the largest number that its 16 bits hold. -/
def waitsAtTop : State := ({ State.reset with flights := [storeFiller, storeWaiter] } : State).setF fPS_WAITS 65535

theorem waitsAtTop_getF : waitsAtTop.getF fPS_WAITS = 65535 := State.getF_setF_same _ _ _ (show 32 + 16 ≤ 64 by decide)

theorem waitsAtTop_storeFull (bytes : Nat) : waitsAtTop.storeFull storeWaiter bytes = true := by
  have hheld : waitsAtTop.storeHeld = 8388609 := rfl
  have hover : 8388608 < waitsAtTop.storeHeld + bytes := by omega
  simp [State.storeFull, hover]

/-- Refutes O38: `HL_STAT` holds `PS_WAITS` in bits 47:32, so that the model saturates it at 2^16 - 1, and the statement asks for 2^32 - 1. With 65535 waits counted, a further step that waits leaves 65535, where the statement asks for 65536. The other clauses hold: they are the lemmas `exec_allocateWorkingSet_of_…` and `exec_loadh_of_…`. -/
theorem not_workingSetAndLoadOfAStep : ¬ Obligations.WorkingSetAndLoadOfAStep := by
  unfold Obligations.WorkingSetAndLoadOfAStep
  rintro ⟨-, -, hload⟩
  have hfull := waitsAtTop_storeFull (waitsAtTop.bytesOf storeWaiter)
  obtain ⟨-, -, hcount⟩ := hload waitsAtTop 7 storeWaiter rfl rfl rfl rfl rfl rfl (waitsAtTop.bytesOf storeWaiter)
    (fun _ => rfl) (fun _ _ h => nomatch h)
  obtain ⟨u, hu, -, hclaim, -⟩ := hcount hfull rfl
  obtain ⟨v, hv, -, hmodel, -⟩ := exec_loadh_of_full (s := waitsAtTop) (ln := 7) rfl rfl rfl rfl rfl rfl hfull rfl
  obtain rfl : u = v := Host.Outcome.next.inj (hu.symm.trans hv)
  rw [waitsAtTop_getF] at hclaim hmodel
  exact absurd (hclaim.symm.trans hmodel) (by decide)

end Sys2Proof.Machine
end

section
/-! SUPPORT. REFINE_ROUND (R22, R93, R94, R97, R103, R105, R111, R121, R422, R471): what its reads keep, how the row grows, and the step that it leaves. -/

namespace Sys2Proof.Machine

variable {s t : State} {f : Flight} {r : RowState} {scr : RowScreen} {ln i : Nat} {cured : List RecRef} {late : Bool}

/-! What the reads of a round keep. -/

/-- What a round keeps of the holdings: a damaged fixed table of the row's lane draws a free value (R471), which moves the number of the next. -/
def State.undrawn (s : State) : Holdings := { s.holdings with freeCtr := 0 }

theorem State.undrawn_of_holdings (h : t.holdings = s.holdings) : t.undrawn = s.undrawn := by rw [State.undrawn, h, State.undrawn]

section
variable (s)

theorem State.refineRead_holdings (f : Flight) (row : Nat) (v : PlaneView) (kind id : Nat) (loc : Loc) (n : Nat) (tms : Int) (cured : List RecRef) :
    (s.refineRead f row v kind id loc n tms cured).1.holdings = s.holdings := by
  simp [State.refineRead]

theorem State.refineBias_holdings (f : Flight) (row : Nat) (fuse : Option (F32 × Nat)) (id : Nat) :
    (s.refineBias f row fuse id).1.holdings = s.holdings := by
  unfold State.refineBias
  split
  · rfl
  · split
    · rfl
    · exact s.readHost_holdings ..

theorem State.hurtRefine_undrawn (r : RowState) (id : Nat) : (s.hurtRefine r id).1.undrawn = s.undrawn := by
  unfold State.hurtRefine
  split
  · split <;> rfl
  · rfl

theorem State.refineTok_undrawn (f : Flight) (i : Nat) (v : PlaneView) (fuse : Option (F32 × Nat)) (r : RowState) (h : HRow) (cured : List RecRef)
    (x : Tok) : (s.refineTok f i v fuse r h cured x).1.undrawn = s.undrawn := by
  unfold State.refineTok
  split
  next t1 _ _ e1 =>
  split
  next t2 _ _ e2 =>
  split
  next t3 _ e3 =>
  split
  next t4 _ e4 =>
  have h3 : t3.holdings = s.holdings := (fst_keeps e3).trans ((t2.refineBias_holdings ..).trans
    ((fst_keeps e2).trans ((t1.refineRead_holdings ..).trans ((fst_keeps e1).trans (s.refineRead_holdings ..)))))
  have h4 : t4.undrawn = s.undrawn := (fst_keeps e4).trans ((t3.hurtRefine_undrawn ..).trans (State.undrawn_of_holdings h3))
  split
  · exact h4
  · split <;> exact h4

theorem State.refineList_undrawn (f : Flight) (i : Nat) (r : RowState) (cured : List RecRef) (ids : List Nat) :
    (s.refineList f i r cured ids).1.undrawn = s.undrawn := by
  unfold State.refineList
  split
  next t1 h e1 =>
  have h1 : t1.undrawn = s.undrawn :=
    State.undrawn_of_holdings ((fst_keeps e1).trans (congrArg Prod.fst (s.readHidden_loadHoldings ..)))
  refine (foldl_fst_keeps (fun p id => ?_) ids (t1, [])).trans h1
  split
  · rfl
  · split
    · rfl
    · exact p.1.refineTok_undrawn ..

/-! The row that a round leaves. -/

/-- A walk that adds at most one entry for each element. -/
theorem length_foldl_snd_le {β γ : Type} {F : State × List γ → β → State × List γ} (hF : ∀ x b, (F x b).2.length ≤ x.2.length + 1) (l : List β)
    (x : State × List γ) : (l.foldl F x).2.length ≤ x.2.length + l.length := by
  induction l generalizing x with
  | nil => exact Nat.le_refl _
  | cons b l ih =>
    have hhead := hF x b
    have htail := ih (F x b)
    rw [List.foldl_cons, List.length_cons]
    omega

/-- A round refines each of its tokens at most once. -/
theorem State.length_refineList_le (f : Flight) (i : Nat) (r : RowState) (cured : List RecRef) (ids : List Nat) :
    (s.refineList f i r cured ids).2.length ≤ ids.length := by
  unfold State.refineList
  split
  next t1 _ _ =>
  refine (length_foldl_snd_le (fun x id => ?_) ids (t1, [])).trans_eq (Nat.zero_add _)
  split
  · exact Nat.le_succ _
  · split
    · exact Nat.le_succ _
    · exact List.length_append.le

end

/-- A row once a round has refined the tokens `l`. -/
def RowState.refined (r : RowState) (l : List Refined) : RowState :=
  { r with ref := r.ref ++ l, nref := r.nref + l.length, rounds := r.rounds + 1 }

/-- The tokens that a round refines: the first four that the row's test names, as far as the budget goes (R97, R101). -/
def State.roundOf (s : State) (f : Flight) (i : Nat) (r : RowState) (cured : List RecRef) (ids : List Nat) : State × List Refined :=
  s.refineList f i r cured (ids.take (Nat.min 4 (f.prog.k - r.nref)))

/-- A row whose test names no token stands; another has its round, and then a phase, unless the root gives it up (R111). -/
theorem State.refineRow_cases (s : State) (f : Flight) (i : Nat) (r : RowState) (scr : RowScreen) (cured : List RecRef) :
    s.refineRow f i r scr cured = (s, r) ∨ ∃ ids, let x := s.roundOf f i r cured ids
      (∃ p, s.refineRow f i r scr cured = (x.1, { r.refined x.2 with phase := p })) ∨
        s.refineRow f i r scr cured = x.1.teaselFail f i (r.refined x.2) := by
  unfold State.refineRow
  split
  next ids _ =>
    refine .inr ⟨ids, ?_⟩
    dsimp only [State.roundOf]
    obtain ⟨t, l⟩ := s.refineList f i r cured (ids.take (Nat.min 4 (f.prog.k - r.nref)))
    dsimp only
    split
    · exact .inl ⟨_, rfl⟩
    · split
      · exact .inr rfl
      · exact .inl ⟨_, rfl⟩
  · exact .inl rfl

theorem State.refineRow_spec (s : State) (f : Flight) (i : Nat) (r : RowState) (scr : RowScreen) (cured : List RecRef) :
    (s.refineRow f i r scr cured).1.undrawn = s.undrawn ∧ ∃ l : List Refined, l.length ≤ Nat.min 4 (f.prog.k - r.nref) ∧
      (s.refineRow f i r scr cured).2.ref = r.ref ++ l ∧ (s.refineRow f i r scr cured).2.nref = r.nref + l.length := by
  obtain h | ⟨ids, h⟩ := s.refineRow_cases f i r scr cured
  · rw [h]
    exact ⟨rfl, [], Nat.zero_le _, (List.append_nil _).symm, rfl⟩
  · have hkeep : (s.roundOf f i r cured ids).1.undrawn = s.undrawn := s.refineList_undrawn ..
    have hlen : (s.roundOf f i r cured ids).2.length ≤ Nat.min 4 (f.prog.k - r.nref) :=
      (s.length_refineList_le ..).trans (List.length_take_le ..)
    obtain ⟨p, h⟩ | h := h
    · rw [h]
      exact ⟨hkeep, _, hlen, rfl, rfl⟩
    · rw [h]
      exact ⟨(State.undrawn_of_holdings (State.rowEvent_holdings ..)).trans hkeep, _, hlen, rfl, rfl⟩

/-! The step after a round. -/

theorem State.roundTiming_frame (s : State) (f : Flight) (i round : Nat) (v : PlaneView) (hb : Nat) (cured : List RecRef) (ids : List Nat)
    (late : Bool) : s.roundTiming f i round v hb cured ids late =
      { f with tally := (s.roundTiming f i round v hb cured ids late).tally, tb := (s.roundTiming f i round v hb cured ids late).tb } := by
  rw [State.roundTiming, Flight.timing_frame]
  rfl

/-- Reads that come late break the count of a COLLECTED step (R105). -/
theorem State.roundTiming_tb (hc : f.collected = true) (ht : f.tb = 0) (round : Nat) (v : PlaneView) (hb : Nat) (ids : List Nat) :
    (s.roundTiming f i round v hb cured ids true).tb = 7 := by
  simp [State.roundTiming, Flight.timing, Flight.breaks, Flight.countRound, hc, ht]

/-- The step after a round of row `i` that has brought the row to `r'`. -/
def State.roundFlight (s : State) (f : Flight) (i : Nat) (r r' : RowState) (cured : List RecRef) (late : Bool) : Flight :=
  { s.roundTiming f i r.rounds f.view f.prog.hbAddr (curedMain cured) ((r'.ref.drop r.ref.length).map (·.id)) late with rows := f.rows.set i r' }

theorem State.roundFlight_ln (s : State) (f : Flight) (i : Nat) (r r' : RowState) (cured : List RecRef) (late : Bool) :
    (s.roundFlight f i r r' cured late).ln = f.ln := by
  rw [State.roundFlight, State.roundTiming_frame]

section
variable (h : s.flight ln = some f) (hrow : f.rows[i]? = some r)
include h hrow

theorem exec_refineRound_of_closed (hph : r.phase ≠ .todo) : exec (.refineRound ln i cured late) s = .next s := by
  change execRefineRound ln i cured late s = _
  simp only [execRefineRound, h, hrow]
  split
  · rfl
  · split
    · contradiction
    · rfl

variable (hph : r.phase = .todo) (hscr : r.scr = some scr)
include hph hscr

theorem exec_refineRound_of_no_turn (ht : s.laneTurn ln r.lane = false) : exec (.refineRound ln i cured late) s = .next s := by
  change execRefineRound ln i cured late s = _
  simp [execRefineRound, h, hrow, hph, hscr, ht]

variable (hp : f.past = false) (hm : f.m0done = true) (hs : f.selected = false) (he : f.emitted = false) (ht : s.laneTurn ln r.lane = true)
include hp hm hs he ht

theorem exec_refineRound_of_discarded (hd : f.discards i = true) : exec (.refineRound ln i cured late) s =
    .next (s.setFlight { f with rows := f.rows.set i { r with phase := .ended } }) := by
  change execRefineRound ln i cured late s = _
  simp [execRefineRound, h, hrow, hph, hscr, hp, hm, hs, he, ht, hd]

theorem exec_refineRound_of_turn (hd : f.discards i = false) : exec (.refineRound ln i cured late) s =
    let y := s.refineRow f i r scr (curedMain cured)
    .next (y.1.setFlight (s.roundFlight f i r y.2 cured late)) := by
  change execRefineRound ln i cured late s = _
  simp only [execRefineRound, h, hrow, hph, hscr]
  rw [if_neg (by simp [hp, hm, hs, he]), if_neg (by simp [ht]), if_neg (by simp [hd])]
  rw [State.roundFlight, State.roundTiming_frame]

end

end Sys2Proof.Machine
end

section
/-! PROOF. A refine round stays in its budget (R97, R103, R105, R212, R314, R422). -/

namespace Sys2Proof.Machine

/-- Settles O41: a round adds to its row a list of refined tokens whose length the four of R97 and the rest of the budget bound, and its reads and events write no flight. -/
theorem refineRoundStaysInItsBudget : Obligations.RefineRoundStaysInItsBudget := by
  unfold Obligations.RefineRoundStaysInItsBudget
  intro s ln i f r cured late h hp hm hs he hrow
  have hln : f.ln = ln := State.flight_ln h
  refine ⟨fun scr hph hscr ht => exec_refineRound_of_no_turn h hrow hph hscr ht, fun scr hph hscr ht hd => ?round,
    fun scr hph hscr ht hd => ?discarded, exec_refineRound_of_closed h hrow⟩
  case round =>
    obtain ⟨hkeep, l, hlen, href, hnref⟩ := s.refineRow_spec f i r scr (curedMain cured)
    have hfour : l.length ≤ 4 := hlen.trans (Nat.min_le_left ..)
    have hbudget : l.length ≤ f.prog.k - r.nref := hlen.trans (Nat.min_le_right ..)
    refine ⟨_, _, _, exec_refineRound_of_turn h hrow hph hscr hp hm hs he ht hd,
      .setFlight_of_flights h (congrArg Holdings.flights hkeep) ((s.roundFlight_ln ..).trans hln), rfl, ?late,
      ⟨l, href.symm⟩, ?four, ?count, fun hk => ?budget, congrArg Holdings.pad hkeep, congrArg Holdings.fuses hkeep⟩
    case late =>
      rintro rfl hc htb
      exact State.roundTiming_tb hc htb ..
    case four =>
      rw [href, List.length_append]
      omega
    case count =>
      rw [href, hnref, List.length_append]
      omega
    case budget =>
      rw [hnref]
      omega
  case discarded =>
    exact ⟨_, exec_refineRound_of_discarded h hrow hph hscr hp hm hs he ht hd, .setFlight h hln, rfl⟩

end Sys2Proof.Machine
end

section
/-! SUPPORT. SELECT and VERIFY (R131, R181, R199, R201, R309): the outcome of a row, the walk of a run, and the step that each leaves. -/

namespace Sys2Proof.Machine

variable {s : State} {f : Flight} {ln : Nat}

/-! SELECT. -/

/-- A row that has come to its screen ends with the disposition of R131. -/
theorem rowOut_disp {r : RowState} {scr : RowScreen} (f : Flight) (i : Nat) (h : r.scr = some scr) :
    (rowOut f i r).disp = rowDisp (rowCtx f r) r := by
  unfold rowOut
  rw [h]
  dsimp only
  split
  next hd => exact hd.symm
  next hd => exact hd.symm
  next hd => exact hd.symm
  next hd => exact hd.symm

/-- A `POISON` or `EMPTY` row has no token (R133). -/
theorem rowOut_token (f : Flight) (i : Nat) (r : RowState) (h : (rowOut f i r).disp = .poison ∨ (rowOut f i r).disp = .empty) :
    (rowOut f i r).token = none := by
  unfold rowOut at h ⊢
  split
  · rfl
  next hscr =>
    rw [hscr] at h
    dsimp only at h ⊢
    split
    · rfl
    · rfl
    next hd => simp [hd, tieOut] at h
    next hd => simp [hd, normalOut] at h

/-- Row `i` of a step once it is selected. -/
def selectedRow (f : Flight) (i : Nat) (r : RowState) : RowState :=
  { r with out := some (rowOut f i r), phase := if r.phase == .todo then .ended else r.phase }

/-- A step once its rows are selected. -/
def Flight.select (f : Flight) : Flight := { f with rows := f.rows.zipIdx.map fun q => selectedRow f q.2 q.1, selected := true }

theorem Flight.select_getElem? {i : Nat} {row : RowState} (h : f.rows[i]? = some row) : f.select.rows[i]? = some (selectedRow f i row) := by
  simp [Flight.select, h]

section
variable (h : s.flight ln = some f)
include h

theorem exec_select_of_full (hb : s.bufferFits f = false) : exec (.select ln) s = .next s := by
  change execSelect ln s = _
  simp [execSelect, h, hb]

theorem exec_scoreq_of_full {cured : List RecRef} {late : Bool} (hb : s.bufferFits f = false) : exec (.scoreq ln cured late) s = .next s := by
  change execScoreq ln cured late s = _
  simp [execScoreq, h, hb]

theorem exec_select_of_fit (hp : f.past = false) (hsc : f.prog.isScore = false) (hc : f.certified = true) (hs : f.selected = false)
    (he : f.emitted = false) (hb : s.bufferFits f = true) : exec (.select ln) s = .next (s.setFlight f.select) := by
  change execSelect ln s = _
  simp only [execSelect, h]
  exact if_neg (by simp [hp, hsc, hc, hs, he, hb])

end

/-! VERIFY. -/

/-- From draft `j` on, a walk passes the drafts that their rows let pass, and stops at the first other one: rejected, or at a row without a token (R199). -/
theorem walkRun_spec (v : VRun) (outs : Nat → RowOut) (n j : Nat) :
    j ≤ (walkRun v outs n j).1 ∧ (walkRun v outs n j).1 ≤ j + n ∧
    (∀ k, j ≤ k → k < (walkRun v outs n j).1 → draftOk v (outs k) k = some true) ∧
    ((walkRun v outs n j).1 < j + n →
      draftOk v (outs (walkRun v outs n j).1) (walkRun v outs n j).1 ≠ some true ∧
      ((walkRun v outs n j).2 = true ↔ draftOk v (outs (walkRun v outs n j).1) (walkRun v outs n j).1 = some false)) := by
  induction n generalizing j with
  | zero => exact ⟨Nat.le_refl _, Nat.le_refl _, fun k hlo hhi => absurd hhi (Nat.not_lt.2 hlo), fun hlt => absurd hlt (Nat.lt_irrefl _)⟩
  | succ n ih =>
    rw [walkRun]
    split
    next hok =>
      obtain ⟨hlo, hhi, hpass, hstop⟩ := ih (j + 1)
      refine ⟨by omega, by omega, fun k hk hk' => ?_, fun hlt => hstop (by omega)⟩
      rcases Nat.eq_or_lt_of_le hk with rfl | hk
      · exact hok
      · exact hpass k hk hk'
    next hno => exact ⟨Nat.le_refl _, Nat.le_add_right _ _, fun k hlo hhi => absurd hhi (Nat.not_lt.2 hlo), fun _ => by simp [hno]⟩
    next hnone => exact ⟨Nat.le_refl _, Nat.le_add_right _ _, fun k hlo hhi => absurd hhi (Nat.not_lt.2 hlo), fun _ => by simp [hnone]⟩

/-- A run once it is verified: a failed one accepts nothing, another what its walk passes. -/
def Flight.verifyRun (f : Flight) (v : VRun) : VRun :=
  if v.failed then { v with na := 0 }
  else
    let w := walkRun v (fun j => (f.rows.getD (v.row0 + j) default).final f) v.deff 0
    { v with na := w.1, rej := w.2 }

/-- A step once its runs are verified. -/
def Flight.verify (f : Flight) : Flight := { f with runs := f.runs.map f.verifyRun, verified := true }

theorem Flight.verifyRun_of_failed {v : VRun} (h : v.failed = true) : (f.verifyRun v).na = 0 := by
  rw [Flight.verifyRun, if_pos h]

theorem Flight.verifyRun_of_sound {v : VRun} (h : v.failed = false) :
    let w := walkRun v (fun j => (f.rows.getD (v.row0 + j) default).final f) v.deff 0
    f.verifyRun v = { v with na := w.1, rej := w.2 } := by
  rw [Flight.verifyRun, if_neg (by simp [h])]

theorem exec_verify_of_selected (h : s.flight ln = some f) (hp : f.past = false) (hv : f.prog.verify ≠ none) (hs : f.selected = true)
    (hm : f.merged = true) (hd : f.verified = false) (he : f.emitted = false) : exec (.verify ln) s = .next (s.setFlight f.verify) := by
  have hsome : f.prog.verify.isNone = false := Bool.eq_false_iff.2 fun hn => hv (Option.isNone_iff_eq_none.1 hn)
  change execVerify ln s = _
  simp only [execVerify, h]
  exact if_neg (by simp [hp, hsome, hs, hm, hd, he])

end Sys2Proof.Machine
end

section
/-! PROOF. SELECT and VERIFY decide every row (R131, R181, R199, R201, R309). -/

namespace Sys2Proof.Machine

/-- Settles O42: a selected row holds the outcome of its disposition, and the walk of a run ends by induction over the drafts that are left. -/
theorem selectAndVerifyDecideEveryRow : Obligations.SelectAndVerifyDecideEveryRow := by
  unfold Obligations.SelectAndVerifyDecideEveryRow
  refine ⟨fun s ln f h hp hsc hc hs he hb => ?select,
    fun s ln f h hb => ⟨exec_select_of_full h hb, fun cured late => exec_scoreq_of_full h hb⟩,
    fun s ln f h hp hv hs hm hd he => ?verify⟩
  case select =>
    refine ⟨_, _, exec_select_of_fit h hp hsc hc hs he hb, .setFlight h (State.flight_ln h :), rfl, by simp [Flight.select],
      fun r row hrow => ?_, rfl⟩
    rw [getD_of_getElem? (Flight.select_getElem? hrow)]
    exact ⟨_, rfl, rfl, fun scr hscr => rowOut_disp f r hscr, rowOut_token f r row⟩
  case verify =>
    refine ⟨_, _, exec_verify_of_selected h hp hv hs hm hd he, .setFlight h (State.flight_ln h :), rfl, rfl, by simp [Flight.verify],
      fun k v hrun => ⟨f.verifyRun v, by simp [Flight.verify, hrun], Flight.verifyRun_of_failed, fun hf => ?_⟩, rfl⟩
    intro out
    obtain ⟨-, hle, hpass, hstop⟩ := walkRun_spec v out v.deff 0
    rw [Nat.zero_add] at hle hstop
    rw [Flight.verifyRun_of_sound hf]
    exact ⟨hle, fun j hj => hpass j (Nat.zero_le j) hj, hstop⟩

end Sys2Proof.Machine
end

section
/-! SUPPORT. What the reads, events and draws of a score or gradient phase keep, and walks over rows (R22, R93, R237, R246, R258). -/

namespace Sys2Proof.Machine

variable {s t : State}

/-! What stays. -/

/-- What no read, no event and no draw of a score or gradient phase changes: the flights, Paddock, the fuses, Sorrel's lanes, and the registers of the ports. -/
structure ScoreHoldings where
  flights : List Flight
  pad     : Store Byte
  fuses   : BitVec 1024
  sorrel  : List (Nat × Lane)
  ports   : Nat → Word64

def State.scoreHoldings (s : State) : ScoreHoldings := ⟨s.flights, s.pad, s.fuses, s.sorrel, fun o => s.reg (0x20000 + o)⟩

theorem State.scoreHoldings_eq (hfl : t.flights = s.flights) (hpad : t.pad = s.pad) (hfuses : t.fuses = s.fuses) (hsorrel : t.sorrel = s.sorrel)
    (hreg : ∀ o, OffEvents o → t.reg o = s.reg o) : t.scoreHoldings = s.scoreHoldings := by
  have hports : (fun o => t.reg (0x20000 + o)) = fun o => s.reg (0x20000 + o) := funext fun o => hreg _ (.inr (by omega))
  rw [State.scoreHoldings, hfl, hpad, hfuses, hsorrel, hports, State.scoreHoldings]

theorem SamePorts.of_ports (h : t.scoreHoldings.ports = s.scoreHoldings.ports) : SamePorts s t := by
  intro o ho
  have hreg : t.reg (0x20000 + (o - 0x20000)) = s.reg (0x20000 + (o - 0x20000)) := congrFun h (o - 0x20000)
  rwa [show 0x20000 + (o - 0x20000) = o by omega] at hreg

theorem SamePorts.of_scoreHoldings (h : t.scoreHoldings = s.scoreHoldings) : SamePorts s t := .of_ports (congrArg ScoreHoldings.ports h)

section
variable (s)

@[simp] theorem State.issueRead_scoreHoldings (a n : Nat) : (s.issueRead a n).scoreHoldings = s.scoreHoldings :=
  State.scoreHoldings_eq (s.issueRead_flights ..) (s.issueRead_pad ..) (s.issueRead_fuses ..) (s.issueRead_sorrel ..) fun o _ => s.issueRead_reg a n o

@[simp] theorem State.poisonEvents_scoreHoldings (req sev : Nat) (gs : List (Nat × Mark)) (who : Who) (row : Nat) :
    (s.poisonEvents req sev gs who row).scoreHoldings = s.scoreHoldings :=
  State.scoreHoldings_eq (s.poisonEvents_flights ..) (s.poisonEvents_pad ..) (s.poisonEvents_fuses ..) (s.poisonEvents_sorrel ..)
    fun _ ho => s.poisonEvents_reg ho ..

@[simp] theorem State.readHost_scoreHoldings (req sev a n : Nat) (who : Who) (row : Nat) :
    (s.readHost req sev a n who row).1.scoreHoldings = s.scoreHoldings :=
  (State.poisonEvents_scoreHoldings ..).trans (s.issueRead_scoreHoldings a n)

@[simp] theorem State.readHidden_scoreHoldings (req : Nat) (f : Flight) (r : Nat) : (s.readHidden req f r).1.scoreHoldings = s.scoreHoldings :=
  s.readHost_scoreHoldings ..

@[simp] theorem State.addSat_scoreHoldings {f : Fld} (n : Nat) (hf : f.off < 0x20000) : (s.addSat f n).scoreHoldings = s.scoreHoldings := by
  have hports : (fun o => (s.addSat f n).reg (0x20000 + o)) = fun o => s.reg (0x20000 + o) :=
    funext fun o => State.reg_setF_other _ _ _ (by omega)
  exact congrArg (ScoreHoldings.mk s.flights s.pad s.fuses s.sorrel) hports

@[simp] theorem State.coalesce_scoreHoldings (k : CoalKey) (e : EvRec) : (s.coalesce k e).scoreHoldings = s.scoreHoldings :=
  State.scoreHoldings_eq (s.coalesce_flights ..) (s.coalesce_pad ..) (s.coalesce_fuses ..) (s.coalesce_sorrel ..) fun _ ho => s.coalesce_reg ho ..

@[simp] theorem State.post_scoreHoldings (e : EvRec) : (s.post e).scoreHoldings = s.scoreHoldings :=
  State.scoreHoldings_eq (s.post_flights ..) (s.post_pad ..) (s.post_fuses ..) (s.post_sorrel ..) fun _ ho => s.post_reg ho ..

@[simp] theorem State.bump_scoreHoldings : s.bump.scoreHoldings = s.scoreHoldings := rfl

@[simp] theorem State.mendStream_scoreHoldings (ln : Nat) : (s.mendStream ln).scoreHoldings = s.scoreHoldings := rfl

@[simp] theorem State.writeHost_scoreHoldings (a : Nat) (bs : List Byte) (why : Purpose2) : (s.writeHost a bs why).scoreHoldings = s.scoreHoldings := by
  rw [State.writeHost_frame]
  rfl

/-! The reads of a screen. -/

@[simp] theorem State.sealEvents_scoreHoldings (stepId queue : Nat) (l : List SealEvent) (row : Nat) :
    (s.sealEvents stepId queue l row).scoreHoldings = s.scoreHoldings := by
  unfold State.sealEvents
  refine foldl_keeps (fun t e => ?_) l s
  dsimp only
  split
  · exact (State.coalesce_scoreHoldings ..).trans (State.addSat_scoreHoldings _ 1 (by decide))
  · exact (State.post_scoreHoldings ..).trans (State.addSat_scoreHoldings _ 1 (by decide))

@[simp] theorem State.recordPoison_scoreHoldings (req n : Nat) (who : Who) (l : Loc) (cured : Bool) (row : Nat) :
    (s.recordPoison req n who l cured row).scoreHoldings = s.scoreHoldings := by
  unfold State.recordPoison
  split
  · dsimp only
    split <;> simp
  · rfl

@[simp] theorem State.screenPoison_scoreHoldings (who : Who) (v : PlaneView) (d : Deal) (full : Bool) (cured : List RecRef) :
    (s.screenPoison who v d full cured).scoreHoldings = s.scoreHoldings := by
  unfold State.screenPoison
  refine foldl_keeps (fun t sl => ?_) _ s
  have htiles := foldl_keeps (π := State.scoreHoldings) (f := fun t c => (List.range (d.tileReads sl c)).foldl (fun t k =>
      t.recordPoison 0 (tileSize v.lean) who (v.tileLoc sl c) (decide (k < countRef cured ⟨0, v.slabBase sl, c⟩))) t)
    (fun t c => foldl_keeps (fun t k => by simp) _ t) (List.range v.hd) t
  dsimp only
  split
  · exact (foldl_keeps (fun t k => foldl_keeps (fun t k => by simp) _ t) _ _).trans htiles
  · exact htiles

@[simp] theorem State.screenSet_scoreHoldings (f : Flight) (v : PlaneView) (cured : List RecRef) :
    (s.screenSet f v cured).1.scoreHoldings = s.scoreHoldings := by
  simp [State.screenSet]

@[simp] theorem State.hurtScreen_scoreHoldings (f : Flight) : (s.hurtScreen f).1.scoreHoldings = s.scoreHoldings := by
  rw [State.hurtScreen_frame]
  rfl

/-! The reads of a refinement. -/

@[simp] theorem State.refineRead_scoreHoldings (f : Flight) (row : Nat) (v : PlaneView) (kind id : Nat) (loc : Loc) (n : Nat) (tms : Int)
    (cured : List RecRef) : (s.refineRead f row v kind id loc n tms cured).1.scoreHoldings = s.scoreHoldings := by
  simp [State.refineRead]

@[simp] theorem State.refineBias_scoreHoldings (f : Flight) (row : Nat) (fuse : Option (F32 × Nat)) (id : Nat) :
    (s.refineBias f row fuse id).1.scoreHoldings = s.scoreHoldings := by
  unfold State.refineBias
  split
  · rfl
  · split
    · rfl
    · exact s.readHost_scoreHoldings ..

@[simp] theorem State.hurtRefine_scoreHoldings (r : RowState) (id : Nat) : (s.hurtRefine r id).1.scoreHoldings = s.scoreHoldings := by
  unfold State.hurtRefine
  split
  · split <;> rfl
  · rfl

theorem State.refineTok_spec (f : Flight) (i : Nat) (v : PlaneView) (fuse : Option (F32 × Nat)) (r : RowState) (h : HRow) (cured : List RecRef)
    (x : Tok) : (s.refineTok f i v fuse r h cured x).1.scoreHoldings = s.scoreHoldings ∧ (s.refineTok f i v fuse r h cured x).2.id = x.id := by
  unfold State.refineTok
  split
  next t1 _ _ e1 =>
  split
  next t2 _ _ e2 =>
  split
  next t3 _ e3 =>
  split
  next t4 _ e4 =>
  have h2 : t2.scoreHoldings = s.scoreHoldings :=
    (fst_keeps e2).trans ((t1.refineRead_scoreHoldings ..).trans ((fst_keeps e1).trans (s.refineRead_scoreHoldings ..)))
  have h4 : t4.scoreHoldings = s.scoreHoldings :=
    (fst_keeps e4).trans ((t3.hurtRefine_scoreHoldings ..).trans ((fst_keeps e3).trans ((t2.refineBias_scoreHoldings ..).trans h2)))
  split
  · exact ⟨h4, rfl⟩
  · split <;> exact ⟨h4, rfl⟩

@[simp] theorem State.refineList_scoreHoldings (f : Flight) (i : Nat) (r : RowState) (cured : List RecRef) (ids : List Nat) :
    (s.refineList f i r cured ids).1.scoreHoldings = s.scoreHoldings := by
  unfold State.refineList
  split
  next t1 h e1 =>
  have h1 : t1.scoreHoldings = s.scoreHoldings := (fst_keeps e1).trans (s.readHidden_scoreHoldings ..)
  refine (foldl_fst_keeps (fun p id => ?_) ids (t1, [])).trans h1
  split
  · rfl
  · split
    · rfl
    · exact (p.1.refineTok_spec ..).1

end

/-- A refinement of one token is of that token. -/
theorem State.refineList_one {f : Flight} {i : Nat} {r : RowState} {cured : List RecRef} {id : Nat} {y : Refined}
    (h : y ∈ (s.refineList f i r cured [id]).2) : y.id = id := by
  unfold State.refineList at h
  simp only [List.foldl_cons, List.foldl_nil, List.any_nil, Bool.false_eq_true, if_false] at h
  split at h
  · simp at h
  next x hx =>
    obtain rfl : y = _ := by simpa using h
    exact (State.refineTok_spec ..).2.trans (by simpa using List.find?_some hx)

/-! Walks over rows. -/

section
variable {g : State → Nat → RowState → State × RowState}

theorem State.overRows_append_one (rows : List RowState) (row : RowState) : s.overRows (rows ++ [row]) g =
    ((g (s.overRows rows g).1 rows.length row).1, (s.overRows rows g).2 ++ [(g (s.overRows rows g).1 rows.length row).2]) := by
  simp [State.overRows, List.zipIdx_append]

@[simp] theorem State.length_overRows (rows : List RowState) : (s.overRows rows g).2.length = rows.length := by
  induction rows using List.reverseRecOn with
  | nil => rfl
  | append_singleton rows row ih => simp [State.overRows_append_one, ih]

/-- Each row is met in the state that the rows before it leave. -/
theorem State.overRows_getElem? {rows : List RowState} {i : Nat} {row : RowState} (h : rows[i]? = some row) :
    (s.overRows rows g).2[i]? = some (g (s.overRows (rows.take i) g).1 i row).2 := by
  induction rows using List.reverseRecOn with
  | nil => simp at h
  | append_singleton rows x ih =>
    rw [State.overRows_append_one]
    rcases Nat.lt_or_ge i rows.length with hi | hi
    · rw [List.getElem?_append_left hi] at h
      rw [List.getElem?_append_left (by simpa using hi), List.take_append_of_le_length hi.le]
      exact ih h
    · rw [List.getElem?_append_right hi] at h
      obtain ⟨hlt, hx⟩ := List.getElem?_eq_some_iff.1 h
      obtain rfl : i = rows.length := by simp at hlt; omega
      obtain rfl : x = row := by simpa using hx
      simp

theorem State.overRows_keeps {α : Type} {π : State → α} (hg : ∀ t i r, π (g t i r).1 = π t) (rows : List RowState) :
    π (s.overRows rows g).1 = π s := by
  unfold State.overRows
  refine foldl_fst_keeps (fun p q => ?_) rows.zipIdx (s, [])
  exact hg p.1 q.2 q.1

end

end Sys2Proof.Machine
end

section
/-! SUPPORT. The end of a score or gradient phase (R238, R255): the result records are written once everything before them is done, and what a phase has written stands beside them. -/

namespace Sys2Proof.Machine

variable {s t : State} {f h : Flight} {ln : Nat}

/-! Writes beside one another. -/

theorem Written.writeHost {a b : Nat} {bs cs : List Byte} {why : Purpose2} (h : Written s t a bs) (hap : Apart a bs.length b cs.length) :
    Written s (t.writeHost b cs why) a bs := by
  intro hup i hi
  refine (t.sameMemBut_writeHost b cs why (a + i) ?_).trans (h hup i hi)
  unfold Apart at hap
  omega

theorem State.writeRows_append_one (t : State) (ln base stride : Nat) (rows : List (List Byte)) (bs : List Byte) :
    t.writeRows ln base stride (rows ++ [bs]) = (t.writeRows ln base stride rows).writeHost (base + rows.length * stride) bs (.emit ln) := by
  simp [State.writeRows, List.zipIdx_append]

@[simp] theorem State.writeRows_scoreHoldings (t : State) (ln base stride : Nat) (rows : List (List Byte)) :
    (t.writeRows ln base stride rows).scoreHoldings = t.scoreHoldings :=
  foldl_keeps (fun t _ => t.writeHost_scoreHoldings ..) rows.zipIdx t

/-- Rows that do not reach past their stride stand beside one another. -/
theorem State.written_writeRows (hp : SamePorts s t) {base stride : Nat} {rows : List (List Byte)} (hlen : ∀ bs ∈ rows, bs.length ≤ stride)
    {i : Nat} {bs : List Byte} (h : rows[i]? = some bs) : Written s (t.writeRows ln base stride rows) (base + i * stride) bs := by
  induction rows using List.reverseRecOn with
  | nil => simp at h
  | append_singleton rows x ih =>
    rw [State.writeRows_append_one]
    rcases Nat.lt_or_ge i rows.length with hi | hi
    · rw [List.getElem?_append_left hi] at h
      refine Written.writeHost (ih (fun b hb => hlen b (List.mem_append_left _ hb)) h) (.inl ?_)
      have hbs : bs.length ≤ stride := hlen bs (List.mem_append_left _ (List.mem_of_getElem? h))
      calc base + i * stride + bs.length ≤ base + (i + 1) * stride := by rw [Nat.succ_mul]; omega
        _ ≤ base + rows.length * stride := Nat.add_le_add_left (Nat.mul_le_mul_right _ hi) _
    · rw [List.getElem?_append_right hi] at h
      obtain ⟨hlt, hx⟩ := List.getElem?_eq_some_iff.1 h
      obtain rfl : i = rows.length := by simp at hlt; omega
      obtain rfl : x = bs := by simpa using hx
      exact State.written_writeHost (hp.trans (.of_scoreHoldings (t.writeRows_scoreHoldings ..))) _ _ _

/-! A phase's flight. -/

@[simp] theorem Flight.timing_emitted (f : Flight) (cause : Nat) : (f.timing cause).emitted = f.emitted := by rw [Flight.timing_frame]

/-! The result records. -/

@[simp] theorem resultRecord_length (f : Flight) (r : RowState) : (resultRecord f r).length = 32 := by
  simp [resultRecord]

theorem length_flatten_resultRecord (f : Flight) (rows : List RowState) : (rows.map (resultRecord f)).flatten.length = 32 * rows.length := by
  simp [List.length_flatten, Function.comp_def, Nat.mul_comm]

/-- Where a step's result records go. -/
def Flight.resultAt (f : Flight) : Nat := match f.prog.scoreq with | some x => x.2 | none => 0

/-- The step's result records, where it writes any. -/
def State.withResults (t : State) (ln : Nat) (h : Flight) : State :=
  if h.writes then t.writeHost h.resultAt (h.rows.map (resultRecord h)).flatten (.emit ln) else t

/-- The step once its result records are written. -/
def Flight.finished (h : Flight) (gc : Nat) : Flight :=
  { h with
    emitted := true, gEmit := gc, gcDone := gc
    writesOf := h.writesOf ++ (if h.writes then (h.rows.map (resultRecord h)).zipIdx.map fun q => (q.2, h.resultAt + 32 * q.2, 32) else [])
    rowBytes := (h.rows.map (resultRecord h)).zipIdx.map fun q =>
      (if h.writes then q.1 else []) ++ (if h.strict && h.prog.grad.isSome then h.rowBytes.getD q.2 [] else []) }

theorem State.withResults_scoreHoldings (t : State) (ln : Nat) (h : Flight) : (t.withResults ln h).scoreHoldings = t.scoreHoldings := by
  unfold State.withResults
  split
  · exact t.writeHost_scoreHoldings ..
  · rfl

theorem State.finishScore_of_open (hf : t.flight ln = some h) (ho : ¬(h.prog.isScore = true ∧ h.scoreOver = true)) : t.finishScore ln = t := by
  unfold State.finishScore
  rw [hf]
  refine if_pos ?_
  simp only [not_and, Bool.not_eq_true] at ho
  cases hs : h.prog.isScore with
  | false => rfl
  | true => simp [ho hs]

theorem State.finishScore_of_over (hf : t.flight ln = some h) (he : h.emitted = false) (hs : h.prog.isScore = true) (ho : h.scoreOver = true) :
    t.finishScore ln = (t.withResults ln h).setFlight (h.finished (t.withResults ln h).gc) := by
  unfold State.finishScore
  rw [hf]
  exact if_neg (by simp [he, hs, ho])

/-- The records stand at the step's address, where it writes them. -/
theorem State.written_withResults {x : Nat × Nat} (hp : SamePorts s t) (hx : h.prog.scoreq = some x) (hw : h.writes = true) :
    Written s (t.withResults ln h) x.2 (h.rows.map (resultRecord h)).flatten := by
  rw [State.withResults, if_pos hw, Flight.resultAt, hx]
  exact State.written_writeHost hp _ _ _

/-- What stands apart from the records stands after them too. -/
theorem Written.withResults {a : Nat} {bs : List Byte} (hw : Written s t a bs) (hs : h.prog.isScore = true)
    (hc : h.writes = true → ∀ x, h.prog.scoreq = some x → Apart a bs.length x.2 (32 * h.rows.length)) : Written s (t.withResults ln h) a bs := by
  unfold State.withResults
  split
  next hwr =>
    obtain ⟨x, hx⟩ := Option.isSome_iff_exists.1 (show h.prog.scoreq.isSome = true from hs)
    rw [Flight.resultAt, hx]
    exact hw.writeHost (by rw [length_flatten_resultRecord]; exact hc hwr x hx)
  · exact hw

/-- The results of a step stand in `u` once its flight `g` is at its end, which a score step comes to when all its parts are done (R238). -/
def ResultsWritten (s u : State) (g : Flight) : Prop :=
  (g.emitted = true ↔ g.prog.isScore = true ∧ g.scoreOver = true) ∧
  ∀ x, g.emitted = true → g.prog.scoreq = some x → g.writes = true → Written s u x.2 (g.rows.map (resultRecord g)).flatten

/-- The `n` bytes at `a` lie apart from the result records that a step has written. -/
def ClearOfResults (g : Flight) (a n : Nat) : Prop :=
  g.emitted = true → g.writes = true → ∀ x, g.prog.scoreq = some x → Apart a n x.2 (32 * g.rows.length)

/-- A phase that came from `s` to the state `t` and the flight `h` ends in the state `u` and the flight `g`. -/
structure PhaseEnd (s t : State) (ln : Nat) (h : Flight) (u : State) (g : Flight) : Prop where
  becomes  : Becomes s u ln g
  frame    : g = { h with tb := g.tb, emitted := g.emitted, gEmit := g.gEmit, gcDone := g.gcDone, writesOf := g.writesOf, rowBytes := g.rowBytes }
  rowBytes : g.emitted = false → g.rowBytes = h.rowBytes
  results  : ResultsWritten s u g
  pad      : u.pad = s.pad
  fuses    : u.fuses = s.fuses
  sorrel   : u.sorrel = t.sorrel
  keeps    : ∀ {a : Nat} {bs : List Byte}, Written s t a bs → ClearOfResults g a bs.length → Written s u a bs

theorem PhaseEnd.rows {u : State} {g : Flight} (e : PhaseEnd s t ln h u g) : g.rows = h.rows := by rw [e.frame]

/-- The flight of a phase is written, and the result records where that was the last phase before them. -/
theorem State.finishPhase (hf : s.flight ln = some f) (hkeep : t.scoreHoldings = { s.scoreHoldings with sorrel := t.sorrel }) (hln : h.ln = ln)
    (he : h.emitted = false) (cause : Nat) : ∃ g, PhaseEnd s t ln h ((t.setFlight (h.timing cause)).finishScore ln) g := by
  obtain ⟨k, hk⟩ : ∃ k, h.timing cause = k := ⟨_, rfl⟩
  have hframe : k = { h with tb := k.tb } := by rw [← hk]; exact h.timing_frame cause
  have hkln : k.ln = ln := by rw [← hk, Flight.timing_ln, hln]
  have hke : k.emitted = false := by rw [← hk, Flight.timing_emitted, he]
  have hbytes : k.rowBytes = h.rowBytes := by rw [hframe]
  have hb : Becomes s (t.setFlight k) ln k := .setFlight_of_flights hf (congrArg ScoreHoldings.flights hkeep) hkln
  have hp : SamePorts s (t.setFlight k) := .of_ports (congrArg ScoreHoldings.ports hkeep :)
  have hpad : t.pad = s.pad := congrArg ScoreHoldings.pad hkeep
  have hfuses : t.fuses = s.fuses := congrArg ScoreHoldings.fuses hkeep
  rw [hk]
  by_cases ho : k.prog.isScore = true ∧ k.scoreOver = true
  case pos =>
    have hres : ((t.setFlight k).withResults ln k).scoreHoldings = (t.setFlight k).scoreHoldings := State.withResults_scoreHoldings ..
    rw [State.finishScore_of_over hb.1 hke ho.1 ho.2]
    refine ⟨k.finished ((t.setFlight k).withResults ln k).gc, ?becomes, ?frame, nofun, ⟨⟨fun _ => ho, fun _ => rfl⟩, ?records⟩,
      (congrArg ScoreHoldings.pad hres).trans hpad, (congrArg ScoreHoldings.fuses hres).trans hfuses, congrArg ScoreHoldings.sorrel hres, ?keeps⟩
    case becomes =>
      have hb' : Becomes s ((t.setFlight k).withResults ln k) ln k := hb.of_flights (congrArg ScoreHoldings.flights hres)
      exact hb'.trans (.setFlight hb'.1 hkln)
    case frame =>
      rw [Flight.finished, hframe]
    case records =>
      intro x _ hx hw
      exact (State.written_withResults (h := k) hp hx hw).of_mem rfl
    case keeps =>
      intro a bs hw hc
      have hw' : Written s (t.setFlight k) a bs := hw.of_mem rfl
      exact (hw'.withResults ho.1 (hc rfl)).of_mem rfl
  case neg =>
    have hopen : ¬ k.emitted = true := by simp [hke]
    rw [State.finishScore_of_open hb.1 ho]
    exact ⟨k, hb, by rw [hframe], fun _ => hbytes, ⟨⟨fun h' => absurd h' hopen, fun h' => absurd h' ho⟩, fun _ h' => absurd h' hopen⟩,
      hpad, hfuses, rfl, fun hw _ => hw.of_mem rfl⟩

/-- The same for a phase that leaves the lanes too. -/
theorem State.finishPhase_of_keeps (hf : s.flight ln = some f) (hkeep : t.scoreHoldings = s.scoreHoldings) (hln : h.ln = ln)
    (he : h.emitted = false) (cause : Nat) : ∃ g, PhaseEnd s t ln h ((t.setFlight (h.timing cause)).finishScore ln) g :=
  State.finishPhase hf (by rw [← hkeep]; rfl) hln he cause

end Sys2Proof.Machine
end

section
/-! SUPPORT. SCOREQ and KLREF row by row (R131, R237, R244 to R247): what a row comes to in each disposition, and the state that each phase comes to. -/

namespace Sys2Proof.Machine

variable {s t : State} {f : Flight} {r : RowState} {scr : RowScreen} {ln i : Nat} {cured : List RecRef} {late : Bool}

/-! The refinement of the scored token. -/

/-- The scored token is refined outside the budget: at most one token joins F, and it is `TOKEN`. -/
theorem State.refineScored_spec (t : State) (f : Flight) (i : Nat) (r : RowState) (c : SelCtx) (cured : List RecRef) (choice : Option Nat) :
    (t.refineScored f i r c cured choice).1.scoreHoldings = t.scoreHoldings ∧
    ((t.refineScored f i r c cured choice).2.1 = r ∨
      ∃ y, (t.refineScored f i r c cured choice).2.1 = { r with ref := r.ref ++ [y] } ∧ r.entry.map (·.token) = some y.id) := by
  unfold State.refineScored
  split
  · exact ⟨rfl, .inl rfl⟩
  next x hx =>
    dsimp only
    split
    · exact ⟨rfl, .inl rfl⟩
    · split
      · exact ⟨rfl, .inl rfl⟩
      · have hkeep : (t.refineList f i r cured [x.id]).1.scoreHoldings = t.scoreHoldings := t.refineList_scoreHoldings ..
        split
        · exact ⟨hkeep, .inl rfl⟩
        next y l hl =>
          have hy : y.id = x.id := State.refineList_one (by rw [hl]; exact List.mem_cons_self)
          split
          · exact ⟨hkeep, .inl rfl⟩
          · split
            · exact ⟨hkeep, .inl rfl⟩
            · refine ⟨hkeep, .inr ⟨y, rfl, ?_⟩⟩
              obtain ⟨e, he, hfind⟩ := Option.bind_eq_some_iff.1 hx
              have hid : x.id = e.token := by simpa using List.find?_some hfind
              rw [he, Option.map_some, hy, hid]

/-! A scored row. -/

@[simp] theorem withPart_token (serve : Bool) (o : RowOut) (p : TokPart) : (withPart serve o p).token = o.token := by
  cases p <;> rfl

section
variable (f : Flight) (c : SelCtx) (r : RowState) (scr : RowScreen) (x : Choice)

theorem scoredNormal_token (p : TokPart) : (scoredNormal f c r scr x p).token = x.token := by
  unfold scoredNormal
  rw [withPart_token]
  split <;> rfl

theorem scoredNormal_lp_present {e : ScoreEntry} (he : r.entry = some e) : (scoredNormal f c r scr x .present).lp =
    logprobOf ((workOf c r e.token).getD fNan) (rowStats f r scr).mStar (rowStats f r scr).sStar := by
  unfold scoredNormal withPart
  rw [he]
  dsimp only
  split <;> rfl

theorem scoredNormal_lp_absent : (scoredNormal f c r scr x .absent).lp = fNinf := rfl

theorem scoredNormal_lp_odd : (scoredNormal f c r scr x .odd).lp = fNan := rfl

end

theorem rowDisp_of_spoiled (c : SelCtx) (h : r.spoiled = true) : rowDisp c r = .poison :=
  if_pos h

section
variable (hscr : r.scr = some scr)
include hscr

theorem State.scoreRow_of_poison (hd : rowDisp (rowCtx f r) r = .poison) :
    (t.scoreRow f cured i r).2 = { r with out := some (poisonOut f r) } := by
  simp only [State.scoreRow, hscr, hd]

theorem State.scoreRow_of_empty (hd : rowDisp (rowCtx f r) r = .empty) :
    (t.scoreRow f cured i r).2 = { r with out := some { emptyOut f r with notKept := (rowCtx f r).serve } } := by
  simp only [State.scoreRow, hscr, hd]

theorem State.scoreRow_of_normal (hm : rowMode f i r ≠ .group) (hd : rowDisp (rowCtx f r) r = .normal) :
    let q := t.refineScored f i r (rowCtx f r) cured (rowChoice f i (rowCtx f r) r scr).token
    (t.scoreRow f cured i r).2 =
      { q.2.1 with out := some (scoredNormal f (rowCtx f r) q.2.1 scr (rowChoice f i (rowCtx f r) r scr) q.2.2) } := by
  simp only [State.scoreRow, hscr, hd]
  rw [if_neg (by simpa using hm)]

theorem State.scoreRow_of_tie (hm : rowMode f i r ≠ .group) (hd : rowDisp (rowCtx f r) r = .tie) :
    let q := t.refineScored f i r (rowCtx f r) cured (tieOut f (rowCtx f r) r scr).token
    (t.scoreRow f cured i r).2 = { q.2.1 with out := some (scoredTie f (rowCtx f r) r scr q.2.1.ref.length q.2.2) } := by
  simp only [State.scoreRow, hscr, hd]
  rw [if_neg (by simpa using hm)]

/-- A SERVE row of a merge group has its statistics and not yet its choice (R190, R237). -/
theorem State.scoreRow_of_group_normal (hm : rowMode f i r = .group) (hd : rowDisp (rowCtx f r) r = .normal) :
    (t.scoreRow f cured i r).2 =
      { r with out := some { scoredNormal f (rowCtx f r) r scr (rowChoice f i (rowCtx f r) r scr) .present with token := none } } := by
  simp only [State.scoreRow, hscr, hd]
  rw [if_pos (by simp [hm])]

theorem State.scoreRow_of_group_tie (hm : rowMode f i r = .group) (hd : rowDisp (rowCtx f r) r = .tie) :
    (t.scoreRow f cured i r).2 = { r with out := some { scoredTie f (rowCtx f r) r scr r.ref.length .present with token := none } } := by
  simp only [State.scoreRow, hscr, hd]
  rw [if_pos (by simp [hm])]

end

theorem State.scoreRow_of_spoiled (h : r.spoiled = true) : ∃ o, (t.scoreRow f cured i r).2.out = some o ∧ o.disp = .poison := by
  cases hscr : r.scr with
  | none => exact ⟨poisonOut f r, by simp only [State.scoreRow, hscr], rfl⟩
  | some scr => exact ⟨poisonOut f r, by rw [State.scoreRow_of_poison hscr (rowDisp_of_spoiled _ h)], rfl⟩

theorem State.scoreRow_scoreHoldings (t : State) (f : Flight) (cured : List RecRef) (i : Nat) (r : RowState) :
    (t.scoreRow f cured i r).1.scoreHoldings = t.scoreHoldings := by
  unfold State.scoreRow
  split
  · rfl
  · dsimp only
    split
    · rfl
    · rfl
    · split
      · rfl
      · exact (t.refineScored_spec ..).1
    · split
      · rfl
      · exact (t.refineScored_spec ..).1

/-! SCOREQ. -/

/-- The rows of a score step, scored in order. -/
def State.scoredRows (s : State) (f : Flight) (cured : List RecRef) : State × List RowState :=
  s.overRows f.rows fun t i r => t.scoreRow f (curedMain cured) i r

/-- The step once its rows are scored. -/
def State.scoredFlight (s : State) (f : Flight) (cured : List RecRef) : Flight := { f with rows := (s.scoredRows f cured).2, scored := true }

theorem State.scoredRows_scoreHoldings (s : State) (f : Flight) (cured : List RecRef) : (s.scoredRows f cured).1.scoreHoldings = s.scoreHoldings :=
  State.overRows_keeps (fun t i r => t.scoreRow_scoreHoldings f (curedMain cured) i r) f.rows

theorem exec_scoreq_of_fit (h : s.flight ln = some f) (hp : f.past = false) (hsc : f.prog.isScore = true) (hc : f.certified = true)
    (hs : f.scored = false) (he : f.emitted = false) (hb : s.bufferFits f = true) :
    ∃ u g, exec (.scoreq ln cured late) s = .next u ∧ PhaseEnd s (s.scoredRows f cured).1 ln (s.scoredFlight f cured) u g := by
  obtain ⟨g, hend⟩ := State.finishPhase_of_keeps (h := s.scoredFlight f cured) h (s.scoredRows_scoreHoldings f cured) (State.flight_ln h :) he
    (if late then 7 else 0)
  refine ⟨_, g, ?_, hend⟩
  change execScoreq ln cured late s = _
  simp only [execScoreq, h]
  exact if_neg (by simp [hp, hsc, hc, hs, he, hb])

/-! The reference part of a row. -/

/-- A refinement on the reference set only adds to the tokens refined there. -/
theorem State.refineRef_spec (t : State) (f : Flight) (cured : List RecRef) (i : Nat) (r : RowState) :
    (t.refineRef f cured i r).1.scoreHoldings = t.scoreHoldings ∧
    ∃ l : List Refined, (t.refineRef f cured i r).2 = { r with rref := r.rref ++ l } := by
  have hself : r = { r with rref := r.rref ++ [] } := by rw [List.append_nil]
  unfold State.refineRef
  dsimp only
  split
  · exact ⟨rfl, [], hself⟩
  · split
    · exact ⟨rfl, [], hself⟩
    · refine ⟨(foldl_fst_keeps (fun p id => ?_) _ (_, [])).trans (t.readHidden_scoreHoldings ..), _, rfl⟩
      split
      · rfl
      · exact (p.1.refineTok_spec ..).1

/-- KLREF's refinements of one row: none of a row that is `POISON` whatever its scores. -/
def State.refRow (t : State) (f : Flight) (cured : List RecRef) (i : Nat) (r : RowState) : State × RowState :=
  if r.spoiled then (t, r) else t.refineRef f (curedRef cured) i r

theorem State.refRow_scoreHoldings (t : State) (f : Flight) (cured : List RecRef) (i : Nat) (r : RowState) :
    (t.refRow f cured i r).1.scoreHoldings = t.scoreHoldings := by
  unfold State.refRow
  split
  · rfl
  · exact (t.refineRef_spec ..).1

theorem State.refRow_row (t : State) (f : Flight) (cured : List RecRef) (i : Nat) (r : RowState) :
    ∃ l : List Refined, (t.refRow f cured i r).2 = { r with rref := r.rref ++ l } := by
  unfold State.refRow
  split
  · exact ⟨[], by rw [List.append_nil]⟩
  · exact (t.refineRef_spec ..).2

theorem State.refRow_snd (t : State) (f : Flight) (cured : List RecRef) (i : Nat) (r : RowState) :
    (t.refRow f cured i r).2 = if r.spoiled then r else (t.refineRef f (curedRef cured) i r).2 := by
  unfold State.refRow
  split <;> rfl

/-- A row with its reference values. -/
def withRef (f : Flight) (r : RowState) : RowState := { r with out := r.out.map fun o => genRef r (klRow f r o) }

/-- The second logprob field is all that R240 sets in a generation step. -/
theorem genRef_frame (r : RowState) (o : RowOut) : genRef r o = { o with lp2 := (genRef r o).lp2 } := by
  unfold genRef
  split <;> rfl

section
variable {o : RowOut}

/-- A `POISON` or `EMPTY` row has no reference values. -/
theorem genRef_klRow_of_closed (h : o.disp = .poison ∨ o.disp = .empty) : genRef r (klRow f r o) = o := by
  have hkl : klRow f r o = o := by
    unfold klRow
    split
    · rfl
    · exact if_pos (by simpa using h)
  rw [hkl, genRef, if_neg]
  rcases h with h | h <;> simp [h]

/-- Where the reference disposition is not `NORMAL`, the reference values are NaN (R247). -/
theorem klRow_of_refDisp (hscr : r.scr = some scr) (hp : o.disp ≠ .poison) (he : o.disp ≠ .empty) (hd : refDispOf (rowCtx f r) r ≠ .normal) :
    klRow f r o = { o with kl := fNan, lpRef := fNan, refDisp := true } := by
  simp only [klRow, hscr]
  rw [if_neg (by simp [hp, he])]
  exact if_pos (by simpa [refPart] using hd)

end

/-! KLREF. -/

/-- The rows of a paired step, refined on the reference set in order. -/
def State.refRows (s : State) (f : Flight) (cured : List RecRef) : State × List RowState :=
  s.overRows f.rows fun t i r => t.refRow f cured i r

/-- The step once its reference values are formed. -/
def State.refFlight (s : State) (f : Flight) (cured : List RecRef) : Flight :=
  { f with rows := (s.refRows f cured).2.map (withRef f), klDone := true }

theorem State.refRows_scoreHoldings (s : State) (f : Flight) (cured : List RecRef) : (s.refRows f cured).1.scoreHoldings = s.scoreHoldings :=
  State.overRows_keeps (fun t i r => t.refRow_scoreHoldings f cured i r) f.rows

theorem State.refFlight_getElem? (h : f.rows[i]? = some r) : (s.refFlight f cured).rows[i]? =
    some (withRef f ((s.overRows (f.rows.take i) fun t i r => t.refRow f cured i r).1.refRow f cured i r).2) := by
  rw [State.refFlight, List.getElem?_map, State.refRows, State.overRows_getElem? h]
  rfl

theorem exec_klref_of_turn (h : s.flight ln = some f) (hp : f.past = false) (hpr : f.prog.paired = true)
    (hs : f.selected = true ∨ f.scored = true) (hk : f.klDone = false) (he : f.emitted = false)
    (ht : s.unitTurn ln (fun g => g.prog.paired && (g.selected || g.scored) && !g.klDone) = true) :
    ∃ u g, exec (.klref ln cured late) s = .next u ∧ PhaseEnd s (s.refRows f cured).1 ln (s.refFlight f cured) u g := by
  have hsel : (f.selected || f.scored) = true := by simpa using hs
  obtain ⟨g, hend⟩ := State.finishPhase_of_keeps (h := s.refFlight f cured) h (s.refRows_scoreHoldings f cured) (State.flight_ln h :) he
    (if late then 7 else 0)
  refine ⟨_, g, ?_, hend⟩
  change execKlref ln cured late s = _
  simp only [execKlref, h]
  exact if_neg (by simp [hp, hpr, hsel, hk, he, ht])

end Sys2Proof.Machine
end

section
/-! SUPPORT. The bytes of a gradient row (R253, R255, R256): how many they are, when all are zero, and what a STRICT step takes from the lanes. -/

namespace Sys2Proof.Machine

/-! Dithered codes. -/

section
variable (dfmt fr row : Nat)

theorem length_ditherCodes (xd cl i : Nat) (m : List Frac) (l : List (Nat × Lane)) : (ditherCodes dfmt xd fr cl row i m l).1.length = m.length := by
  induction m generalizing i l with
  | nil => rfl
  | cons d m ih => simp only [ditherCodes, List.length_cons, ih]

theorem length_ditherRow (cls : List Nat) (gs : List (List Frac × Nat)) (l : List (Nat × Lane)) :
    (ditherRow dfmt fr row cls gs l).1.length = (gs.map fun q => q.1.length).sum := by
  induction gs generalizing l with
  | nil => rfl
  | cons q gs ih => simp only [ditherRow, List.length_append, length_ditherCodes, ih, List.map_cons, List.sum_cons]

/-- The code of a dlogit of 0 is 0, whatever its scale and its chunk. -/
theorem gradCode_zero (xd : Nat) (chunk : Option Nat) : gradCode dfmt xd ⟨0, 1⟩ chunk = 0 := by
  simp [gradCode, Frac.mul]

theorem ditherCodes_zero {xd cl i : Nat} {m : List Frac} {l : List (Nat × Lane)} (h : ∀ x ∈ m, x = ⟨0, 1⟩) :
    ∀ c ∈ (ditherCodes dfmt xd fr cl row i m l).1, c = 0 := by
  induction m generalizing i l with
  | nil => simp [ditherCodes]
  | cons d m ih =>
    obtain rfl : d = ⟨0, 1⟩ := h d List.mem_cons_self
    intro c hc
    rcases List.mem_cons.1 hc with rfl | hc
    · exact gradCode_zero ..
    · exact ih (fun x hx => h x (List.mem_cons_of_mem _ hx)) c hc

theorem ditherRow_zero {cls : List Nat} {gs : List (List Frac × Nat)} {l : List (Nat × Lane)} (h : ∀ q ∈ gs, ∀ x ∈ q.1, x = (⟨0, 1⟩ : Frac)) :
    ∀ c ∈ (ditherRow dfmt fr row cls gs l).1, c = 0 := by
  induction gs generalizing l with
  | nil => simp [ditherRow]
  | cons q gs ih =>
    intro c hc
    rcases List.mem_append.1 hc with hc | hc
    · exact ditherCodes_zero dfmt fr row (h q List.mem_cons_self) c hc
    · exact ih (fun p hp => h p (List.mem_cons_of_mem _ hp)) c hc

end

/-- The scale of a group of dlogits of 0 is 0. -/
theorem gradScale_zero (dfmt : Nat) {m : List Frac} (h : ∀ x ∈ m, x = ⟨0, 1⟩) : gradScale dfmt m = 0 := by
  have hmax : maxAbs m = ⟨0, 1⟩ := by
    unfold maxAbs
    induction m with
    | nil => rfl
    | cons x m ih =>
      rw [List.foldl_cons, h x List.mem_cons_self]
      exact ih fun y hy => h y (List.mem_cons_of_mem _ hy)
  simp [gradScale, hmax]

/-! The bytes of a row. -/

/-- The dlogits of a row by groups of 32, filled up with 0 (R255). -/
def gradGroups (slabs : Nat) (d : List Frac) : List (List Frac) :=
  (List.range (64 * slabs / 32)).map fun q => ((d ++ List.replicate (64 * slabs - d.length) (⟨0, 1⟩ : Frac)).drop (32 * q)).take 32

/-- The codes of a row's elements, and the lanes after them. -/
def gradElems (dfmt : Nat) (strict : Bool) (fr row : Nat) (cls : List Nat) (gs : List (List Frac)) (l : List (Nat × Lane)) :
    List Nat × List (Nat × Lane) :=
  if strict then (gs.flatMap fun m => m.map fun x => gradCode dfmt (gradScale dfmt m) x none, l) else ditherRow dfmt fr row cls gs.zipIdx l

section
variable (dfmt : Nat) (strict : Bool) (slabs fr row : Nat) (cls : List Nat) (d : List Frac) (l : List (Nat × Lane))

theorem dlogitBytes_eq : dlogitBytes dfmt strict slabs fr row cls d l =
    ((gradElems dfmt strict fr row cls (gradGroups slabs d) l).1.map (BitVec.ofNat 8) ++
      ((gradGroups slabs d).map (gradScale dfmt)).map (BitVec.ofNat 8), (gradElems dfmt strict fr row cls (gradGroups slabs d) l).2) := rfl

theorem length_gradGroups : (gradGroups slabs d).length = 2 * slabs := by
  rw [gradGroups, List.length_map, List.length_range]
  omega

theorem length_of_mem_gradGroups {m : List Frac} (h : m ∈ gradGroups slabs d) : m.length = 32 := by
  obtain ⟨q, hq, rfl⟩ := List.mem_map.1 h
  have hlt := List.mem_range.1 hq
  rw [List.length_take, List.length_drop, List.length_append, List.length_replicate]
  omega

theorem length_gradElems (gs : List (List Frac)) (h : ∀ m ∈ gs, m.length = 32) :
    (gradElems dfmt strict fr row cls gs l).1.length = 32 * gs.length := by
  have hsum : (gs.map List.length).sum = 32 * gs.length := by
    rw [List.map_congr_left h, List.map_const', List.sum_replicate, smul_eq_mul, Nat.mul_comm]
  unfold gradElems
  split
  · simp only [List.length_flatMap, List.length_map]
    exact hsum
  · have hfst : gs.zipIdx.map (fun q => q.1.length) = gs.map List.length := by
      rw [show (fun q : List Frac × Nat => q.1.length) = List.length ∘ Prod.fst from rfl, ← List.map_map, List.zipIdx_map_fst]
    rw [length_ditherRow, hfst, hsum]

theorem length_dlogitBytes : (dlogitBytes dfmt strict slabs fr row cls d l).1.length = 66 * slabs := by
  rw [dlogitBytes_eq, List.length_append, List.length_map, List.length_map, List.length_map,
    length_gradElems _ _ _ _ _ _ _ fun m hm => length_of_mem_gradGroups slabs d hm, length_gradGroups]
  omega

theorem dlogitBytes_zero (h : ∀ x ∈ d, x = ⟨0, 1⟩) : (dlogitBytes dfmt strict slabs fr row cls d l).1 = List.replicate (66 * slabs) 0 := by
  have hgroups : ∀ m ∈ gradGroups slabs d, ∀ x ∈ m, x = ⟨0, 1⟩ := by
    intro m hm x hx
    obtain ⟨q, -, rfl⟩ := List.mem_map.1 (show m ∈ List.map _ _ from hm)
    rcases List.mem_append.1 (List.mem_of_mem_drop (List.mem_of_mem_take hx)) with hx | hx
    · exact h x hx
    · exact List.eq_of_mem_replicate hx
  have helems : ∀ c ∈ (gradElems dfmt strict fr row cls (gradGroups slabs d) l).1, c = 0 := by
    unfold gradElems
    split
    · intro c hc
      obtain ⟨m, hm, hc⟩ := List.mem_flatMap.1 hc
      obtain ⟨x, hx, rfl⟩ := List.mem_map.1 hc
      rw [hgroups m hm x hx]
      exact gradCode_zero ..
    · exact ditherRow_zero dfmt fr row fun q hq => hgroups q.1 (List.fst_mem_of_mem_zipIdx hq)
  refine List.eq_replicate_iff.2 ⟨length_dlogitBytes .., fun b hb => ?_⟩
  rw [dlogitBytes_eq] at hb
  rcases List.mem_append.1 hb with hb | hb
  · obtain ⟨c, hc, rfl⟩ := List.mem_map.1 hb
    exact congrArg (BitVec.ofNat 8) (helems c hc)
  · obtain ⟨c, hc, rfl⟩ := List.mem_map.1 hb
    obtain ⟨m, hm, rfl⟩ := List.mem_map.1 hc
    exact congrArg (BitVec.ofNat 8) (gradScale_zero dfmt (hgroups m hm))

/-- Under STRICT no lane steps, and the bytes do not depend on the lanes (R227). -/
theorem dlogitBytes_strict (l' : List (Nat × Lane)) :
    dlogitBytes dfmt true slabs fr row cls d l = ((dlogitBytes dfmt true slabs fr row cls d l').1, l) := rfl

end

section
variable (f : Flight) (g : GradDesc) (ms : Array (Option MaskView)) (fr i : Nat) (r : RowState) (l : List (Nat × Lane))

theorem rowDlogits_of_zero (odd : Nat → Bool) (h : gradZero g (r.final f) = true) : ∀ x ∈ rowDlogits f g ms odd i r, x = ⟨0, 1⟩ := by
  unfold rowDlogits
  dsimp only
  split
  · rw [if_pos h]
    simp
  · simp

/-- A coefficient that is not finite leaves the bytes of a row open, unless all its dlogits are 0 (log entry 126). -/
def gradOpen (f : Flight) (g : GradDesc) (r : RowState) : Bool :=
  !gradZero g (r.final f) && !F32.isFinite (match r.entry with | some e => (gradCoef f.compat g e (r.final f).lp).1 | none => 0)

theorem gradRowBytes_of_open (odd : Nat → Bool) (h : gradOpen f g r = true) : gradRowBytes f g ms odd fr i r l =
    ((List.range (64 * f.view.slabs + 64 * f.view.slabs / 32)).map fun j => Config.stepByte f.prog.stepId 3 (2 ^ 32 * i + j), l) :=
  if_pos h

theorem gradRowBytes_of_formed (odd : Nat → Bool) (h : gradOpen f g r = false) : gradRowBytes f g ms odd fr i r l =
    dlogitBytes g.dfmt f.strict f.view.slabs fr i f.clusters (rowDlogits f g ms odd i r) l :=
  if_neg (Bool.eq_false_iff.1 h)

theorem length_gradRowBytes (odd : Nat → Bool) : (gradRowBytes f g ms odd fr i r l).1.length = 66 * f.view.slabs := by
  cases h : gradOpen f g r with
  | true =>
    rw [gradRowBytes_of_open f g ms fr i r l odd h, List.length_map, List.length_range]
    omega
  | false =>
    rw [gradRowBytes_of_formed f g ms fr i r l odd h]
    exact length_dlogitBytes ..

theorem gradRowBytes_of_zero (odd : Nat → Bool) (h : gradZero g (r.final f) = true) :
    (gradRowBytes f g ms odd fr i r l).1 = List.replicate (66 * f.view.slabs) 0 := by
  rw [gradRowBytes_of_formed f g ms fr i r l odd (by simp [gradOpen, h])]
  exact dlogitBytes_zero _ _ _ _ _ _ _ _ (rowDlogits_of_zero f g ms i r odd h)

theorem gradRowBytes_of_strict (odd : Nat → Bool) (hs : f.strict = true) (l' : List (Nat × Lane)) :
    gradRowBytes f g ms odd fr i r l = ((gradRowBytes f g ms odd fr i r l').1, l) := by
  cases h : gradOpen f g r with
  | true => rw [gradRowBytes_of_open f g ms fr i r l odd h, gradRowBytes_of_open f g ms fr i r l' odd h]
  | false =>
    rw [gradRowBytes_of_formed f g ms fr i r l odd h, gradRowBytes_of_formed f g ms fr i r l' odd h, hs]
    exact dlogitBytes_strict ..

end

/-! The rows one after another. -/

/-- The bytes of the rows `rows` of a step in order, and the lanes after them. -/
def gradWalk (f : Flight) (g : GradDesc) (ms : Array (Option MaskView)) (odd : Nat → Nat → Bool) (fr : Nat) (l : List (Nat × Lane))
    (rows : List RowState) : List (List Byte) × List (Nat × Lane) :=
  rows.zipIdx.foldl (fun x q => (x.1 ++ [(gradRowBytes f g ms (odd q.2) fr q.2 q.1 x.2).1], (gradRowBytes f g ms (odd q.2) fr q.2 q.1 x.2).2)) ([], l)

section
variable (f : Flight) (g : GradDesc) (ms : Array (Option MaskView)) (odd : Nat → Nat → Bool) (fr : Nat) (l : List (Nat × Lane))

theorem gradRows_eq : gradRows f g ms odd fr l = gradWalk f g ms odd fr l f.rows := rfl

theorem gradWalk_append_one (rows : List RowState) (row : RowState) : gradWalk f g ms odd fr l (rows ++ [row]) =
    let y := gradRowBytes f g ms (odd rows.length) fr rows.length row (gradWalk f g ms odd fr l rows).2
    ((gradWalk f g ms odd fr l rows).1 ++ [y.1], y.2) := by
  simp [gradWalk, List.zipIdx_append]

theorem length_gradWalk (rows : List RowState) : (gradWalk f g ms odd fr l rows).1.length = rows.length := by
  induction rows using List.reverseRecOn with
  | nil => rfl
  | append_singleton rows row ih => simp [gradWalk_append_one, ih]

theorem gradWalk_getElem? {rows : List RowState} {i : Nat} {row : RowState} (h : rows[i]? = some row) :
    ∃ l', (gradWalk f g ms odd fr l rows).1[i]? = some (gradRowBytes f g ms (odd i) fr i row l').1 := by
  induction rows using List.reverseRecOn with
  | nil => simp at h
  | append_singleton rows x ih =>
    rw [gradWalk_append_one]
    have hlen := length_gradWalk f g ms odd fr l rows
    rcases Nat.lt_or_ge i rows.length with hi | hi
    · rw [List.getElem?_append_left hi] at h
      dsimp only
      rw [List.getElem?_append_left (by omega)]
      exact ih h
    · rw [List.getElem?_append_right hi] at h
      obtain ⟨hlt, hx⟩ := List.getElem?_eq_some_iff.1 h
      obtain rfl : i = rows.length := by simp at hlt; omega
      obtain rfl : x = row := by simpa using hx
      exact ⟨(gradWalk f g ms odd fr l rows).2, by simp [← hlen]⟩

theorem gradWalk_strict (h : f.strict = true) (rows : List RowState) : (gradWalk f g ms odd fr l rows).2 = l := by
  induction rows using List.reverseRecOn with
  | nil => rfl
  | append_singleton rows row ih =>
    rw [gradWalk_append_one, ih]
    exact congrArg Prod.snd (gradRowBytes_of_strict f g ms fr rows.length row l (odd rows.length) h l)

theorem length_of_mem_gradWalk {rows : List RowState} {bs : List Byte} (h : bs ∈ (gradWalk f g ms odd fr l rows).1) :
    bs.length = 66 * f.view.slabs := by
  obtain ⟨i, hi, rfl⟩ := List.getElem_of_mem h
  have hlt : i < rows.length := by rwa [length_gradWalk] at hi
  obtain ⟨l', hget⟩ := gradWalk_getElem? f g ms odd fr l (List.getElem?_eq_getElem hlt)
  rw [List.getElem?_eq_getElem hi, Option.some_inj] at hget
  rw [hget, length_gradRowBytes]

end

/-! dh. -/

theorem length_dhBytes (f : Flight) (g : GradDesc) (sls : List SlabTiles) (i : Nat) (row : List Byte) :
    (dhBytes f g sls i row).length = 256 * f.view.hd := by
  simp [dhBytes, List.length_flatMap]
  omega

end Sys2Proof.Machine
end

section
/-! SUPPORT. GRAD and its transposed pass (R253 to R258): the state that each comes to, and its writes. -/

namespace Sys2Proof.Machine

variable {s : State} {f : Flight} {d : GradDesc} {ln : Nat} {cured : List RecRef}

/-! GRAD. -/

theorem State.gradScreen_scoreHoldings (s : State) (f : Flight) (d : GradDesc) (cured : List RecRef) :
    (s.gradScreen f d cured).1.scoreHoldings = s.scoreHoldings := by
  unfold State.gradScreen
  dsimp only
  rw [State.mendStream_scoreHoldings, State.hurtScreen_scoreHoldings, State.screenSet_scoreHoldings]
  split
  · split
    · exact s.screenSet_scoreHoldings ..
    · rfl
  · rfl

/-- The bytes of a step's dlogits, row by row, and the lanes after them. -/
def State.gradBytes (s : State) (f : Flight) (d : GradDesc) (cured : List RecRef) : List (List Byte) × List (Nat × Lane) :=
  let x := s.gradScreen f d cured
  gradRows f d x.1.maskViews x.2.1 x.1.freeCtr x.1.sorrel

/-- The state in which the dlogits are written. -/
def State.gradWritten (s : State) (ln : Nat) (f : Flight) (d : GradDesc) (cured : List RecRef) : State :=
  (State.writeRows { (s.gradScreen f d cured).1 with sorrel := (s.gradBytes f d cured).2 } ln d.dlAddr d.dlStride (s.gradBytes f d cured).1).bump

/-- A row that says whether its surrogate was clipped (R252). -/
def clipRow (f : Flight) (d : GradDesc) (r : RowState) : RowState :=
  let b := match r.entry with | some e => (gradCoef f.compat d e (r.final f).lp).2 | none => false
  { r with out := r.out.map fun x => { x with gclip := b }, merged := r.merged.map fun x => { x with gclip := b } }

/-- The step once its dlogits are formed. -/
def State.gradFlight (s : State) (f : Flight) (d : GradDesc) (cured : List RecRef) : Flight :=
  { f with
    rows := f.rows.map (clipRow f d), rowBytes := (s.gradBytes f d cured).1, gradDone := true
    writesOf := rowWrites d.dlAddr d.dlStride (s.gradBytes f d cured).1 }

/-- GRAD changes what its screen and its writes change, and the lanes. -/
theorem State.gradWritten_scoreHoldings (s : State) (ln : Nat) (f : Flight) (d : GradDesc) (cured : List RecRef) :
    (s.gradWritten ln f d cured).scoreHoldings = { s.scoreHoldings with sorrel := (s.gradBytes f d cured).2 } := by
  rw [State.gradWritten, State.bump_scoreHoldings, State.writeRows_scoreHoldings]
  exact congrArg (fun h : ScoreHoldings => { h with sorrel := (s.gradBytes f d cured).2 }) (s.gradScreen_scoreHoldings f d cured)

theorem State.gradWritten_sorrel (s : State) (ln : Nat) (f : Flight) (d : GradDesc) (cured : List RecRef) :
    (s.gradWritten ln f d cured).sorrel = (s.gradBytes f d cured).2 :=
  congrArg ScoreHoldings.sorrel (s.gradWritten_scoreHoldings ln f d cured)

/-- The bytes come from a walk over the rows in the state after the screen. -/
theorem State.gradBytes_eq (s : State) (f : Flight) (d : GradDesc) (cured : List RecRef) : s.gradBytes f d cured =
    let x := s.gradScreen f d cured
    gradWalk f d x.1.maskViews x.2.1 x.1.freeCtr x.1.sorrel f.rows :=
  gradRows_eq ..

theorem State.length_gradBytes (s : State) (f : Flight) (d : GradDesc) (cured : List RecRef) :
    (s.gradBytes f d cured).1.length = f.rows.length := by
  rw [State.gradBytes_eq]
  exact length_gradWalk ..

theorem State.gradBytes_getElem? {r : Nat} {row : RowState} (h : f.rows[r]? = some row) :
    let x := s.gradScreen f d cured
    ∃ l, (s.gradBytes f d cured).1[r]? = some (gradRowBytes f d x.1.maskViews (x.2.1 r) x.1.freeCtr r row l).1 := by
  intro x
  rw [State.gradBytes_eq]
  exact gradWalk_getElem? _ _ _ _ _ _ h

/-- Under STRICT the lanes stand as they were (R227). -/
theorem State.gradBytes_strict (h : f.strict = true) : (s.gradBytes f d cured).2 = s.sorrel := by
  rw [State.gradBytes_eq]
  exact (gradWalk_strict _ _ _ _ _ _ h _).trans (congrArg ScoreHoldings.sorrel (s.gradScreen_scoreHoldings f d cured))

/-- Every row's dlogits stand at their place, where a row does not reach past its stride. -/
theorem State.written_gradWritten (hstride : 66 * f.view.slabs ≤ d.dlStride) {r : Nat} {bs : List Byte}
    (h : (s.gradBytes f d cured).1[r]? = some bs) : Written s (s.gradWritten ln f d cured) (d.dlAddr + r * d.dlStride) bs := by
  have hports : SamePorts s { (s.gradScreen f d cured).1 with sorrel := (s.gradBytes f d cured).2 } :=
    (SamePorts.of_scoreHoldings (s.gradScreen_scoreHoldings f d cured)).trans (.of_regs rfl)
  have hlen : ∀ bs ∈ (s.gradBytes f d cured).1, bs.length ≤ d.dlStride := by
    intro bs hbs
    rw [State.gradBytes_eq] at hbs
    exact (length_of_mem_gradWalk _ _ _ _ _ _ hbs).trans_le hstride
  exact (State.written_writeRows hports hlen h).of_mem rfl

section
variable (hf : s.flight ln = some f)
include hf

theorem exec_grad_of_no_turn (ht : s.unitTurn ln Flight.gradReady = false) : exec (.grad ln cured) s = .next s := by
  change execGrad ln cured s = _
  simp only [execGrad, hf]
  split
  · rfl
  · exact if_pos (by simp [ht])

theorem exec_grad_of_turn (hd : f.prog.grad = some d) (he : f.emitted = false) (hr : f.gradReady = true)
    (ht : s.unitTurn ln Flight.gradReady = true) :
    ∃ u g, exec (.grad ln cured) s = .next u ∧ PhaseEnd s (s.gradWritten ln f d cured) ln (s.gradFlight f d cured) u g := by
  have hkeep := s.gradWritten_scoreHoldings ln f d cured
  rw [← s.gradWritten_sorrel ln f d cured] at hkeep
  obtain ⟨g, hend⟩ := State.finishPhase (h := s.gradFlight f d cured) hf hkeep (State.flight_ln hf :) he
    (if (s.gradScreen f d cured).2.2 then 1 else 0)
  refine ⟨_, g, ?_, hend⟩
  change execGrad ln cured s = _
  simp only [execGrad, hf, hd]
  exact if_neg (by simp [hr, ht])

end

/-! The transposed pass. -/

/-- dh of every row of a step. -/
def State.transBytes (s : State) (f : Flight) (d : GradDesc) (cured : List RecRef) : List (List Byte) :=
  f.rowBytes.zipIdx.map fun q => dhBytes f d (s.transSlabs f d cured) q.2 q.1

/-- The state in which the planes have been read again for the transposed pass. -/
def State.transRead (s : State) (ln : Nat) (f : Flight) (d : GradDesc) (cured : List RecRef) : State :=
  ((s.sealEvents f.prog.stepId f.queue ((s.transSlabs f d cured).flatMap (·.events))).screenPoison f.who f.view
    (stepDeal f.view f.clusters f.prog.rows) (d.dhSrc == 2) (curedMain (cured ++ s.streamHits f))).mendStream ln

/-- The state in which dh is written. -/
def State.transWritten (s : State) (ln : Nat) (f : Flight) (d : GradDesc) (cured : List RecRef) : State :=
  (s.transRead ln f d cured).writeRows ln d.dhAddr d.dhStride (s.transBytes f d cured)

/-- The step once dh is formed. -/
def State.transFlight (s : State) (f : Flight) (d : GradDesc) (cured : List RecRef) : Flight :=
  { f with
    rowBytes := List.zipWith (· ++ ·) f.rowBytes (s.transBytes f d cured), transDone := true
    writesOf := f.writesOf ++ rowWrites d.dhAddr d.dhStride (s.transBytes f d cured) }

theorem State.transRead_scoreHoldings (s : State) (ln : Nat) (f : Flight) (d : GradDesc) (cured : List RecRef) :
    (s.transRead ln f d cured).scoreHoldings = s.scoreHoldings := by
  simp [State.transRead]

theorem State.transWritten_scoreHoldings (s : State) (ln : Nat) (f : Flight) (d : GradDesc) (cured : List RecRef) :
    (s.transWritten ln f d cured).scoreHoldings = s.scoreHoldings :=
  (State.writeRows_scoreHoldings ..).trans (s.transRead_scoreHoldings ln f d cured)

theorem State.transBytes_getElem? {i : Nat} (h : i < f.rowBytes.length) :
    (s.transBytes f d cured)[i]? = some (dhBytes f d (s.transSlabs f d cured) i (f.rowBytes.getD i [])) := by
  simp [State.transBytes, h]

theorem State.transFlight_getElem? {i : Nat} (h : i < f.rowBytes.length) : (s.transFlight f d cured).rowBytes[i]? =
    some (f.rowBytes.getD i [] ++ dhBytes f d (s.transSlabs f d cured) i (f.rowBytes.getD i [])) := by
  have hrow : f.rowBytes[i]? = some (f.rowBytes.getD i []) := by simp [h]
  exact List.getElem?_zipWith_eq_some.2 ⟨_, _, hrow, State.transBytes_getElem? h, rfl⟩

/-- dh of every row stands at its place, where a row does not reach past its stride. -/
theorem State.written_transWritten (hstride : 256 * f.view.hd ≤ d.dhStride) {r : Nat} {bs : List Byte}
    (h : (s.transBytes f d cured)[r]? = some bs) : Written s (s.transWritten ln f d cured) (d.dhAddr + r * d.dhStride) bs := by
  refine State.written_writeRows (.of_scoreHoldings (s.transRead_scoreHoldings ln f d cured)) (fun bs hbs => ?_) h
  obtain ⟨q, -, rfl⟩ := List.mem_map.1 hbs
  exact (length_dhBytes ..).trans_le hstride

section
variable (hf : s.flight ln = some f)
include hf

theorem exec_trans_of_no_turn (ht : s.unitTurn ln Flight.transReady = false) : exec (.gradTransposedPass ln cured) s = .next s := by
  change execGradTransposedPass ln cured s = _
  simp only [execGradTransposedPass, hf]
  split
  · rfl
  · exact if_pos (by simp [ht])

theorem exec_trans_of_turn (hd : f.prog.grad = some d) (he : f.emitted = false) (hr : f.transReady = true)
    (ht : s.unitTurn ln Flight.transReady = true) :
    ∃ u g, exec (.gradTransposedPass ln cured) s = .next u ∧ PhaseEnd s (s.transWritten ln f d cured) ln (s.transFlight f d cured) u g := by
  obtain ⟨g, hend⟩ := State.finishPhase_of_keeps (h := s.transFlight f d cured) hf (s.transWritten_scoreHoldings ln f d cured) (State.flight_ln hf :) he
    (if ((s.transSlabs f d cured).flatMap (·.events)).any fun e => e.code == 1 || e.code == 2 then 1 else 0)
  refine ⟨_, g, ?_, hend⟩
  change execGradTransposedPass ln cured s = _
  simp only [execGradTransposedPass, hf, hd]
  exact if_neg (by simp [hr, ht])

end

end Sys2Proof.Machine
end

section
/-! PROOF. Score steps pass their phases (R131, R237, R238, R244 to R247, R253 to R258, R314). -/

namespace Sys2Proof.Machine

/-- What SCOREQ makes of a row that has come to its screen, in each disposition and mode (R237). -/
theorem State.scoreRow_spec (a : State) (f : Flight) (cured : List RecRef) (r : Nat) {row : RowState} {scr : RowScreen} (hscr : row.scr = some scr) :
    let c := rowCtx f row
    let got := (a.scoreRow f cured r row).2
    (rowDisp c row = .poison → got = { row with out := some (poisonOut f row) }) ∧
    (rowDisp c row = .empty → got = { row with out := some { emptyOut f row with notKept := c.serve } }) ∧
    (rowMode f r row ≠ .group → rowDisp c row = .normal →
      let x := rowChoice f r c row scr
      let q := a.refineScored f r row c cured x.token
      got = { q.2.1 with out := some (scoredNormal f c q.2.1 scr x q.2.2) } ∧ (scoredNormal f c q.2.1 scr x q.2.2).token = x.token ∧
      (q.2.1.ref = row.ref ∨ ∃ y, q.2.1.ref = row.ref ++ [y] ∧ row.entry.map (·.token) = some y.id) ∧ q.2.1.nref = row.nref ∧
      (q.2.2 = .present → ∀ e, row.entry = some e → (scoredNormal f c q.2.1 scr x q.2.2).lp =
        logprobOf ((workOf c q.2.1 e.token).getD fNan) (rowStats f q.2.1 scr).mStar (rowStats f q.2.1 scr).sStar) ∧
      (q.2.2 = .absent → (scoredNormal f c q.2.1 scr x q.2.2).lp = fNinf) ∧ (q.2.2 = .odd → (scoredNormal f c q.2.1 scr x q.2.2).lp = fNan)) ∧
    (rowMode f r row ≠ .group → rowDisp c row = .tie →
      let q := a.refineScored f r row c cured (tieOut f c row scr).token
      got = { q.2.1 with out := some (scoredTie f c row scr q.2.1.ref.length q.2.2) }) ∧
    (rowMode f r row = .group → rowDisp c row = .normal →
      got = { row with out := some { scoredNormal f c row scr (rowChoice f r c row scr) .present with token := none } }) ∧
    (rowMode f r row = .group → rowDisp c row = .tie →
      got = { row with out := some { scoredTie f c row scr row.ref.length .present with token := none } }) := by
  intro c got
  refine ⟨State.scoreRow_of_poison hscr, State.scoreRow_of_empty hscr, fun hm hd => ?normal, State.scoreRow_of_tie hscr,
    State.scoreRow_of_group_normal hscr, State.scoreRow_of_group_tie hscr⟩
  case normal =>
    intro x q
    obtain ⟨-, hrow⟩ := a.refineScored_spec f r row c cured x.token
    have hentry : q.2.1.entry = row.entry := by
      rcases hrow with h | ⟨y, h, -⟩ <;> exact (congrArg RowState.entry h :)
    refine ⟨State.scoreRow_of_normal hscr hm hd, scoredNormal_token .., ?ref, ?nref, fun hp e he => ?present, fun hp => ?absent, fun hp => ?odd⟩
    case ref =>
      rcases hrow with h | ⟨y, h, hy⟩
      · exact .inl (congrArg RowState.ref h :)
      · exact .inr ⟨y, (congrArg RowState.ref h :), hy⟩
    case nref =>
      rcases hrow with h | ⟨y, h, -⟩ <;> exact (congrArg RowState.nref h :)
    case present =>
      rw [hp]
      exact scoredNormal_lp_present f c q.2.1 scr x (hentry.trans he)
    case absent =>
      rw [hp]
      exact scoredNormal_lp_absent ..
    case odd =>
      rw [hp]
      exact scoredNormal_lp_odd ..

/-- What KLREF makes of a row (R246, R247). -/
theorem State.refRow_spec (a : State) (f : Flight) (cured : List RecRef) (r : Nat) (row : RowState) :
    let q := if row.spoiled then row else (a.refineRef f (curedRef cured) r row).2
    let got := withRef f (a.refRow f cured r row).2
    got = { q with out := q.out.map fun o => genRef q (klRow f q o) } ∧ q.ref = row.ref ∧ row.rref <+: q.rref ∧ q.out = row.out ∧
    (∀ o, row.out = some o → (o.disp = .poison ∨ o.disp = .empty) → got.out = some o) ∧
    (∀ o scr, row.out = some o → row.scr = some scr → o.disp ≠ .poison → o.disp ≠ .empty → refDispOf (rowCtx f q) q ≠ .normal →
      ∃ w, got.out = some w ∧ w.kl = fNan ∧ w.lpRef = fNan ∧ w.refDisp = true) := by
  intro q got
  have hq : (a.refRow f cured r row).2 = q := a.refRow_snd f cured r row
  have hgot : got = withRef f q := congrArg (withRef f) hq
  obtain ⟨l, hl⟩ := a.refRow_row f cured r row
  rw [hq] at hl
  have hout : q.out = row.out := (congrArg RowState.out hl :)
  refine ⟨hgot, (congrArg RowState.ref hl :), ⟨l, (congrArg RowState.rref hl :).symm⟩, hout,
    fun o ho hd => ?closed, fun o scr ho hscr hp he hd => ?odd⟩
  case closed =>
    rw [hgot, withRef, hout, ho, Option.map_some, genRef_klRow_of_closed hd]
  case odd =>
    have hkl := klRow_of_refDisp ((congrArg RowState.scr hl :).trans hscr) hp he hd
    refine ⟨genRef q (klRow f q o), by rw [hgot, withRef, hout, ho, Option.map_some], ?_⟩
    rw [genRef_frame, hkl]
    exact ⟨rfl, rfl, rfl⟩

/-- Settles O44: each phase comes to a flight whose rows are read one by one, and its end writes the result records beside what the phase has written. -/
theorem scoreStepsPassTheirPhases : Obligations.ScoreStepsPassTheirPhases := by
  unfold Obligations.ScoreStepsPassTheirPhases
  refine ⟨fun s ln f hf hp he => ?phases,
    fun f g ms odd fr i r l => ⟨length_gradRowBytes f g ms fr i r l odd, gradRowBytes_of_zero f g ms fr i r l odd⟩⟩
  case phases =>
    intro results clear
    refine ⟨fun cured late hsc hc hs hb => ?scoreq, fun cured late hpr hs hk ht => ?klref, fun d cured hd hr ht => ?grad,
      fun d cured hd hr ht => ?trans, fun ht cured => exec_grad_of_no_turn hf ht, fun ht cured => exec_trans_of_no_turn hf ht⟩
    case scoreq =>
      obtain ⟨u, g, hexec, e⟩ := exec_scoreq_of_fit (cured := cured) (late := late) hf hp hsc hc hs he hb
      have hrows : g.rows = (s.scoredRows f cured).2 := e.rows
      refine ⟨u, g, hexec, e.becomes, by rw [e.frame]; rfl, by rw [hrows]; exact State.length_overRows ..,
        fun r row hrow => ?_, e.results, e.pad, e.fuses⟩
      intro c a got
      have hgot : got = (a.scoreRow f (curedMain cured) r row).2 := by
        unfold got
        rw [hrows]
        exact getD_of_getElem? (State.overRows_getElem? hrow)
      rw [hgot]
      exact ⟨State.scoreRow_of_spoiled, fun scr hscr => a.scoreRow_spec f (curedMain cured) r hscr⟩
    case klref =>
      obtain ⟨u, g, hexec, e⟩ := exec_klref_of_turn (cured := cured) (late := late) hf hp hpr hs hk he ht
      refine ⟨u, g, hexec, e.becomes, by rw [e.frame]; rfl, by rw [e.rows]; simp [State.refFlight, State.refRows], fun r row hrow => ?_,
        e.results, e.pad, e.fuses⟩
      intro a q got
      have hgot : got = withRef f (a.refRow f cured r row).2 := by
        unfold got
        rw [e.rows]
        exact getD_of_getElem? (State.refFlight_getElem? hrow)
      rw [hgot]
      exact a.refRow_spec f cured r row
    case grad =>
      intro x bytes
      obtain ⟨u, g, hexec, e⟩ := exec_grad_of_turn (cured := cured) hf hd he hr ht
      have hsorrel : u.sorrel = (s.gradBytes f d cured).2 := e.sorrel.trans (s.gradWritten_sorrel ln f d cured)
      refine ⟨u, g, hexec, e.becomes, by rw [e.frame]; rfl, by rw [e.rows]; simp [State.gradFlight], s.length_gradBytes f d cured, e.rowBytes,
        fun r row hrow => ?rows, fun hst => hsorrel.trans (State.gradBytes_strict hst), e.results, e.pad, e.fuses⟩
      obtain ⟨l', hget⟩ := State.gradBytes_getElem? (s := s) (d := d) (cured := cured) hrow
      refine ⟨⟨l', hget⟩, fun hst l => ?strict, fun hstride hclear => ?written⟩
      case strict =>
        exact hget.trans (congrArg (fun y => some y.1) (gradRowBytes_of_strict f d _ _ r row l' (x.2.1 r) hst l))
      case written =>
        have hbytes : bytes.getD r [] = _ := getD_of_getElem? hget
        rw [hbytes]
        refine e.keeps (State.written_gradWritten hstride hget) ?_
        rw [length_gradRowBytes]
        exact hclear
    case trans =>
      intro dh
      obtain ⟨u, g, hexec, e⟩ := exec_trans_of_turn (cured := cured) hf hd he hr ht
      refine ⟨u, g, hexec, e.becomes, by rw [e.frame]; rfl, e.rows,
        fun r hr => ⟨length_dhBytes .., fun h => ?bytes, fun hstride hclear => ?written⟩, e.results, e.pad, e.fuses⟩
      case bytes => rw [e.rowBytes h]; exact State.transFlight_getElem? hr
      case written =>
        refine e.keeps (State.written_transWritten hstride (State.transBytes_getElem? hr)) ?_
        rw [length_dhBytes]
        exact hclear

end Sys2Proof.Machine
end

section
/-! SUPPORT. MASK_LOAD_COMPLETE and NORMAL (R128, R129, R229, R230): the state that a load leaves, and the bytes of a NORMAL's values. -/

namespace Sys2Proof.Machine

variable {s : State} {ln : Nat}

/-! MASK_LOAD_COMPLETE. -/

/-- What the read of a load brings: the set, or none where a granule was poisoned (R128). -/
def State.maskRead (s : State) (j : MaskJob) : Option MaskSet :=
  if (s.peek j.src (j.len / 8)).2 = true then none else some { base := j.base, len := j.len, bits := s.memAt j.src (j.len / 8) }

/-- A word of the store of mask set `k`. -/
def inMaskSet (k : Nat) : SramPart → Bool
  | .maskStore n _ => n == k
  | _ => false

/-- The oldest load has taken its set's place in the store. -/
def State.maskStored (s : State) (j : MaskJob) (rest : List MaskJob) : State :=
  State.mend { (s.readHost 2 1 j.src (j.len / 8) (0xFFFFFFFF, j.queue)).1 with maskJobs := rest, masks := s.masks.set j.set (s.maskRead j) }
    (inMaskSet j.set)

theorem State.maskStored_frame (s : State) (j : MaskJob) (rest : List MaskJob) :
    (s.maskStored j rest).mem = s.mem ∧ (s.maskStored j rest).flights = s.flights ∧ (s.maskStored j rest).pad = s.pad ∧
      (s.maskStored j rest).queues = s.queues := by
  simp [State.maskStored, State.mend]

theorem exec_maskLoadComplete_of_busy {j : MaskJob} {rest : List MaskJob} (h : s.maskJobs = j :: rest) (hb : s.maskBusy j = true) :
    exec .maskLoadComplete s = .next s := by
  change execMaskLoadComplete s = _
  simp [execMaskLoadComplete, h, hb]

theorem exec_maskLoadComplete_of_free {j : MaskJob} {rest : List MaskJob} (h : s.maskJobs = j :: rest) (hb : s.maskBusy j = false) :
    exec .maskLoadComplete s = .next ((s.maskStored j rest).endLoad j.queue).advanceG := by
  change execMaskLoadComplete s = _
  simp only [execMaskLoadComplete, h]
  rw [if_neg (by simp [hb]), State.maskStored, ← s.readHost_masks 2 1 j.src (j.len / 8) (0xFFFFFFFF, j.queue) noRow]
  rfl

/-! NORMAL. -/

/-- A value takes 4 bytes, or 2 in `BF16` (R229). -/
theorem normalBytes_length (d : NormalDesc) (x : F32) : (normalBytes d x).length = if d.ofmt = 0 then 4 else 2 := by
  unfold normalBytes
  split <;> exact leBytes_length ..

/-- Some cluster in service has a damaged word in a lane copy. -/
def State.laneCopyHurt (s : State) : Bool := s.bad.any fun p => match p with | .laneCopy c _ => s.serving c | _ => false

theorem State.laneValue_eq (s : State) (f : Flight) (d : NormalDesc) (n : Nat) : s.laneValue f d n =
    if d.post ≥ 128 && s.laneCopyHurt && Config.freeBool s.freeCtr n then fNan else normalValue (s.bankWord f.bank) f.compat d n := rfl

/-- Values that read no damaged lane copy are those of R230. -/
theorem State.laneValue_of_whole {f : Flight} {d : NormalDesc} (h : d.post < 128 ∨ s.laneCopyHurt = false) (n : Nat) :
    s.laneValue f d n = normalValue (s.bankWord f.bank) f.compat d n := by
  rw [State.laneValue_eq]
  refine if_neg ?_
  rcases h with h | h
  · simp [Nat.not_le.2 h]
  · simp [h]

/-- The bytes of a NORMAL's values in order. -/
def State.laneBytes (s : State) (f : Flight) (d : NormalDesc) : List Byte :=
  (List.range d.count).flatMap fun n => normalBytes d (s.laneValue f d n)

theorem State.length_laneBytes (s : State) (f : Flight) (d : NormalDesc) :
    (s.laneBytes f d).length = d.count * (if d.ofmt = 0 then 4 else 2) := by
  simp [State.laneBytes, List.length_flatMap, normalBytes_length]

/-- A NORMAL that runs a program draws a free value for what a damaged word gives. -/
def State.drawn (s : State) (d : NormalDesc) : State := { s with freeCtr := s.freeCtr + (if d.post < 128 then 0 else 1) }

section
variable {f : Flight} {d : NormalDesc} (h : s.flight ln = some f) (hd : f.normal = some d)
include h hd

theorem exec_normal_of_wait (ha : s.arraysFree ln = false) : exec (.normal ln) s = .next s := by
  change execNormal ln s = _
  simp [execNormal, h, hd, ha]

theorem exec_normal_of_turn (he : f.emitted = false) (hc : f.complete = false) (ha : s.arraysFree ln = true) : exec (.normal ln) s =
    .next (((s.drawn d).writeHost d.out (s.laneBytes f d) (.emit ln)).setFlight { f with emitted := true, gEmit := s.gc, gcDone := s.gc }) := by
  have hdrawn : (if d.post < 128 then s else s.bump) = s.drawn d := by
    unfold State.drawn
    split <;> rfl
  change execNormal ln s = _
  simp only [execNormal, h, hd]
  rw [if_neg (by simp [he, hc, ha]), hdrawn]
  rfl

end

end Sys2Proof.Machine
end

section
/-! PROOF. Mask loads and NORMALs write their results (R128, R129, R229, R230). -/

namespace Sys2Proof.Machine

/-- Settles O48: a load ends in the state that its read and its place in the store give, and a NORMAL is one write of its values' bytes. -/
theorem maskLoadsAndNormalsWriteTheirResults : Obligations.MaskLoadsAndNormalsWriteTheirResults := by
  unfold Obligations.MaskLoadsAndNormalsWriteTheirResults
  refine ⟨fun s j rest hs hj hset hq => ⟨exec_maskLoadComplete_of_busy hj, fun hb => ?load⟩,
    fun s ln f d h hd he hc => ⟨exec_normal_of_wait h hd, fun ha => ?normal⟩⟩
  case load =>
    obtain ⟨hmem, hflights, hpad, hqueues⟩ := s.maskStored_frame j rest
    refine ⟨_, exec_maskLoadComplete_of_free hj hb, rfl, ?loads, fun k hk => ?other, ?own, hmem, hflights, hpad⟩
    case loads =>
      have hlen : j.queue < (s.maskStored j rest).queues.length := by rw [hqueues, hs.queues]; exact hq
      have hqx : (s.maskStored j rest).qx j.queue = s.qx j.queue := State.qx_congr hqueues j.queue
      exact (congrArg QueueX.loads (State.qx_setQx_same _ _ hlen)).trans (by rw [hqx])
    case other =>
      change (s.masks.set j.set (s.maskRead j)).getD k none = _
      rw [List.getD_eq_getElem?_getD, List.getElem?_set_ne hk.symm, List.getD_eq_getElem?_getD]
    case own =>
      change (s.masks.set j.set (s.maskRead j)).getD j.set none = _
      rw [List.getD_eq_getElem?_getD, List.getElem?_set_self (by rw [hs.masks]; exact hset), Option.getD_some, State.maskRead]
  case normal =>
    intro bytes
    have hports : SamePorts s (s.drawn d) := .of_regs rfl
    have hbut := (s.drawn d).sameMemBut_writeHost d.out bytes (.emit ln)
    refine ⟨State.laneValue_of_whole, _, exec_normal_of_turn h hd he hc ha, ?becomes, State.written_writeHost hports d.out bytes (.emit ln), hbut,
      s.length_laneBytes f d, ?frame⟩
    case becomes => exact .setFlight_of_flights h (State.writeHost_flights ..) (State.flight_ln h :)
    case frame =>
      rw [State.writeHost_frame]
      rfl

end Sys2Proof.Machine
end

section
/-! SUPPORT. Regions of a sparse store: what a read of a region finds after it has been replaced, in the banks and in the lane copies (R153, R155). -/

namespace Sys2Proof.Machine

section
variable {α : Type}

theorem Store.key_lt_of_mem_region {l : Store α} {r : Nat} {p : Nat × α} (h : p ∈ Store.region l r) : p.1 < 2 ^ 16 := by
  obtain ⟨q, -, hq⟩ := List.mem_filterMap.1 h
  split at hq
  · obtain rfl := Option.some.inj hq
    exact Nat.mod_lt _ (by decide)
  · exact absurd hq (by simp)

theorem Store.region_cons_in {p : Nat × α} {l : Store α} {r : Nat} (h : p.1 / 2 ^ 16 = r) :
    Store.region (p :: l) r = (p.1 % 2 ^ 16, p.2) :: Store.region l r := List.filterMap_cons_some (if_pos h)

theorem Store.region_cons_out {p : Nat × α} {l : Store α} {r : Nat} (h : p.1 / 2 ^ 16 ≠ r) :
    Store.region (p :: l) r = Store.region l r := List.filterMap_cons_none (if_neg h)

/-- A region holds, by offset, what the store holds there. -/
theorem Store.find_region (l : Store α) (r : Nat) {o : Nat} (ho : o < 2 ^ 16) :
    (Store.region l r).find? (fun p => p.1 == o) = (l.find? fun p => p.1 == 2 ^ 16 * r + o).map fun p => (p.1 % 2 ^ 16, p.2) := by
  induction l with
  | nil => rfl
  | cons p l ih =>
    by_cases hr : p.1 / 2 ^ 16 = r
    · rw [Store.region_cons_in hr]
      by_cases hk : p.1 = 2 ^ 16 * r + o
      · rw [List.find?_cons_of_pos (by simp; omega), List.find?_cons_of_pos (by simpa using hk)]
        rfl
      · rw [List.find?_cons_of_neg (by simp; omega), List.find?_cons_of_neg (by simpa using hk), ih]
    · rw [Store.region_cons_out hr, List.find?_cons_of_neg (by simp; omega), ih]

/-- A replaced region holds its new entries. -/
theorem Store.find_setRegion_in (l x : Store α) (r : Nat) {o : Nat} (ho : o < 2 ^ 16) :
    (Store.setRegion l r x).find? (fun p => p.1 == 2 ^ 16 * r + o) = (x.find? fun p => p.1 == o).map fun p => (2 ^ 16 * r + p.1, p.2) := by
  have hkey : ((fun p : Nat × α => p.1 == 2 ^ 16 * r + o) ∘ fun p : Nat × α => (2 ^ 16 * r + p.1, p.2)) = fun p => p.1 == o := by
    funext p
    simp
  rw [Store.setRegion, List.find?_append, List.find?_append, Store.find_filter_none (fun p hp => by simp; omega),
    Store.find_filter_none (fun p hp => by simp; omega), List.find?_map, hkey]
  simp

/-- A key outside the region reads as before. -/
theorem Store.read_setRegion_out (d : Nat → α) (l : Store α) {x : Store α} {r k : Nat} (hx : ∀ p ∈ x, p.1 < 2 ^ 16) (hk : k / 2 ^ 16 ≠ r) :
    Store.read d (Store.setRegion l r x) k = Store.read d l k := by
  have hnew : (x.map fun p => (2 ^ 16 * r + p.1, p.2)).find? (fun p => p.1 == k) = none := by
    rw [List.find?_eq_none]
    intro p hp
    obtain ⟨q, hq, rfl⟩ := List.mem_map.1 hp
    have := hx q hq
    simp only [beq_iff_eq]
    omega
  rw [Store.read, Store.read, Store.setRegion, List.find?_append, List.find?_append, hnew]
  rcases Nat.lt_or_gt_of_ne hk with hlt | hgt
  · rw [Store.find_filter_of (fun p hp => by simpa [hp] using hlt), Store.find_filter_none (fun p hp => by simp; omega)]
    simp
  · rw [Store.find_filter_none (fun p hp => by simp; omega), Store.find_filter_of (fun p hp => by simpa [hp] using hgt)]
    simp

end

/-- A region into which a bank has been copied reads as the bank. -/
theorem Store.read_setRegion_region (l m : Store Word64) (r b : Nat) {o : Nat} (ho : o < 2 ^ 16) :
    Store.read bankDefault (Store.setRegion l r (Store.region m b)) (2 ^ 16 * r + o) = Store.read bankDefault m (2 ^ 16 * b + o) := by
  rw [Store.read, Store.read, Store.find_setRegion_in _ _ _ ho, Store.find_region _ _ ho]
  cases m.find? fun p => p.1 == 2 ^ 16 * b + o <;> rfl

variable (s : State)

/-! Lane copies. -/

theorem State.bankWord_congr {s t : State} (h : t.banks = s.banks) (b o : Nat) : t.bankWord b o = s.bankWord b o :=
  congrArg (Store.read bankDefault · (2 ^ 16 * b + o)) h

theorem State.laneWord_congr {s t : State} (h : t.lanes = s.lanes) (cl b o : Nat) : t.laneWord cl b o = s.laneWord cl b o :=
  congrArg (Store.read bankDefault · (2 ^ 16 * (2 * cl + b) + o)) h

theorem State.laneWord_copyLane_same (b e cl : Nat) {o : Nat} (ho : o < 2 ^ 16) : (s.copyLane b e cl).laneWord cl b o = s.bankWord b o :=
  Store.read_setRegion_region s.lanes s.banks _ b ho

theorem State.laneWord_copyLane_other (b e : Nat) {c cl o : Nat} (hc : c ≠ cl) (ho : o < 2 ^ 16) :
    (s.copyLane b e cl).laneWord c b o = s.laneWord c b o :=
  Store.read_setRegion_out bankDefault s.lanes (fun _ => Store.key_lt_of_mem_region) (by omega)

theorem State.mem_inService {cl : Nat} (hcl : cl < 16) : cl ∈ s.inService ↔ s.serving cl = true := by
  simp [State.inService, State.serving, hcl]

/-- The shadow goes to the lane copies of every cluster in service, tagged with an epoch. -/
def State.copyLanes (s : State) (e : State → Nat) : State := s.inService.foldl (fun s cl => s.copyLane s.shadowBank (e s) cl) s

theorem State.copyLanes_frame (e : State → Nat) :
    s.copyLanes e = { s with lanes := (s.copyLanes e).lanes, laneTags := (s.copyLanes e).laneTags } := by
  unfold State.copyLanes
  generalize s.inService = l
  induction l generalizing s with
  | nil => rfl
  | cons cl l ih => rw [List.foldl_cons, ih]; rfl

theorem State.copyLanes_reg (e : State → Nat) (o : Nat) : (s.copyLanes e).reg o = s.reg o := by rw [State.copyLanes_frame]; rfl
theorem State.copyLanes_getF (e : State → Nat) (g : Fld) : (s.copyLanes e).getF g = s.getF g := by rw [State.copyLanes_frame]; rfl

/-- After the copy a lane of a cluster in service holds the shadow, and one of another cluster what it held. -/
theorem State.laneWord_copyLanes (e : State → Nat) {cl o : Nat} (hcl : cl < 16) (ho : o < 2 ^ 16) : (s.copyLanes e).laneWord cl s.shadowBank o =
    if s.serving cl = true then s.bankWord s.shadowBank o else s.laneWord cl s.shadowBank o := by
  simp only [← s.mem_inService hcl, State.copyLanes]
  generalize s.inService = l
  induction l generalizing s with
  | nil => rfl
  | cons c l ih =>
    have hrest := ih (s.copyLane s.shadowBank (e s) c)
    have hshadow : (s.copyLane s.shadowBank (e s) c).shadowBank = s.shadowBank := rfl
    have hbank : (s.copyLane s.shadowBank (e s) c).bankWord s.shadowBank o = s.bankWord s.shadowBank o := rfl
    rw [hshadow, hbank] at hrest
    rw [List.foldl_cons, hrest]
    by_cases hc : cl = c
    · subst hc
      simp [s.laneWord_copyLane_same _ _ _ ho]
    · simp [hc, s.laneWord_copyLane_other _ _ hc ho]

end Sys2Proof.Machine
end

section
/-! SUPPORT. The stages of a commit (R155): the state that each answers, and the registers that a refusal and a passed TABCOMMIT change. -/

namespace Sys2Proof.Machine

variable {s : State}

/-- While PD_SEL is not `ON`, which holds the banks, a commit stands still (R445). -/
theorem exec_commit_of_sel_off (hsel : s.selOn = false) {c : Instr}
    (hc : c ∈ [Instr.commitCheckDone, .laneCopyDone, .bankDrainDone, .bankCopyDone]) : exec c s = .next s := by
  simp only [List.mem_cons, List.not_mem_nil, or_false] at hc
  rcases hc with rfl | rfl | rfl | rfl
  · change execCommitCheckDone s = _
    simp [execCommitCheckDone, hsel]
  · change execLaneCopyDone s = _
    simp [execLaneCopyDone, hsel]
  · change execBankDrainDone s = _
    simp [execBankDrainDone, hsel]
  · change execBankCopyDone s = _
    simp [execBankCopyDone, hsel]

/-- No TABCOMMIT waits for the commit any more. -/
def State.endCommit (s : State) : State := { s with tabQueue := none, tabPassed := false }

@[simp] theorem State.endCommit_reg (o : Nat) : s.endCommit.reg o = s.reg o := rfl
@[simp] theorem State.endCommit_getF (g : Fld) : s.endCommit.getF g = s.getF g := rfl

/-! The check. -/

section
variable (hsel : s.selOn = true) (hst : s.getF fSHADOW_ST = 1) (hp : s.tabPassed = false) (hfar : s.flag fFARRIER_UP = true)
include hsel hst hp hfar

theorem exec_commitCheckDone_of_pass (hc : commitCheck (s.bankWord s.shadowBank) = none) :
    exec .commitCheckDone s = .next { s with tabPassed := true } := by
  change execCommitCheckDone s = _
  simp [execCommitCheckDone, hsel, hst, hp, hfar, hc]

theorem exec_commitCheckDone_of_fail {f : CommitFail} (hc : commitCheck (s.bankWord s.shadowBank) = some f) :
    exec .commitCheckDone s = .next (s.refuseCommit f) := by
  change execCommitCheckDone s = _
  simp [execCommitCheckDone, hsel, hst, hp, hfar, hc]

end

/-! The refusal. -/

/-- The fields that a refusal sets: the shadow's state and the first failure (R155, R156). -/
def CommitFail.fields (f : CommitFail) : List (Fld × Nat) :=
  [(fSHADOW_ST, 3), (fCFAIL, f.code), (fCF_ITEM, f.item), (fCF_SUB, f.sub)]

/-- The refusal is posted; the queue of its TABCOMMIT has not halted yet. -/
def State.commitRefused (s : State) (f : CommitFail) : State :=
  (s.setFields f.fields).endCommit.post
    ((s.setFields f.fields).endCommit.event 6 1 2 [(36, leBytes 1 f.code), (37, leBytes 1 f.item), (38, leBytes 2 f.sub)])

theorem State.commitRefused_frame (f : CommitFail) : s.commitRefused f = { s with
    regs := (s.commitRefused f).regs, ev := (s.commitRefused f).ev, mem := (s.commitRefused f).mem, link := (s.commitRefused f).link
    out := (s.commitRefused f).out, tabQueue := none, tabPassed := false } := by
  rw [State.commitRefused, State.post_frame, State.endCommit, State.setFields_frame]

/-- A refusal changes its fields and the registers of events. -/
theorem State.commitRefused_reg {f : CommitFail} {o : Nat} (hev : OffEvents o) : (s.commitRefused f).reg o = (s.setFields f.fields).reg o := by
  rw [State.commitRefused, State.post_reg _ hev, State.endCommit_reg]

theorem State.commitRefused_reg_other {f : CommitFail} {o : Nat} (hev : OffEvents o) (h : o ≠ rCF) (h' : o ≠ rCF + 0x10) :
    (s.commitRefused f).reg o = s.reg o := by
  rw [State.commitRefused_reg hev]
  exact s.setFields_reg_other f.fields (by simp [CommitFail.fields, fSHADOW_ST, fCFAIL, fCF_ITEM, fCF_SUB, h, h'])

theorem rCF_offEvents : OffEvents rCF := .inr (by decide)

theorem State.commitRefused_shadow (f : CommitFail) : (s.commitRefused f).getF fSHADOW_ST = 3 := by
  rw [State.getF_congr (f := fSHADOW_ST) (State.commitRefused_reg rCF_offEvents)]
  exact s.getF_setFields_head (by decide) (by simp [fSHADOW_ST, fCFAIL, fCF_ITEM, fCF_SUB, Fld.apart])

theorem State.commitRefused_bank (f : CommitFail) : (s.commitRefused f).getF fBANK_ACT = s.getF fBANK_ACT := by
  rw [State.getF_congr (f := fBANK_ACT) (State.commitRefused_reg rCF_offEvents)]
  exact s.getF_setFields_other (by decide) f.fields (by simp [CommitFail.fields, fBANK_ACT, fSHADOW_ST, fCFAIL, fCF_ITEM, fCF_SUB, Fld.apart])

theorem State.refuseCommit_eq (f : CommitFail) : s.refuseCommit f = s.tabQueue.elim (s.commitRefused f) fun q =>
    if (s.commitRefused f).halted q then s.commitRefused f else (s.commitRefused f).halt q 8 0 0 0xFFFFFFFF := by
  unfold State.refuseCommit
  cases s.tabQueue <;> rfl

/-- A refusal halts the queue of its TABCOMMIT, where it has one that runs. -/
theorem State.refuseCommit_cases (f : CommitFail) : s.refuseCommit f = s.commitRefused f ∨
    ∃ q, s.refuseCommit f = (s.commitRefused f).halt q 8 0 0 0xFFFFFFFF := by
  rw [State.refuseCommit_eq]
  cases s.tabQueue with
  | none => exact .inl rfl
  | some q =>
    by_cases hq : (s.commitRefused f).halted q = true
    · exact .inl (if_pos hq)
    · exact .inr ⟨q, if_neg hq⟩

theorem State.refuseCommit_frame (f : CommitFail) : s.refuseCommit f = { s with
    regs := (s.refuseCommit f).regs, ev := (s.refuseCommit f).ev, mem := (s.refuseCommit f).mem, link := (s.refuseCommit f).link
    out := (s.refuseCommit f).out, queues := (s.refuseCommit f).queues, repackQ := (s.refuseCommit f).repackQ
    tabQueue := none, tabPassed := false } := by
  rcases s.refuseCommit_cases f with h | ⟨q, h⟩
  · rw [h, State.commitRefused_frame]
  · rw [h, State.halt_frame, State.commitRefused_frame]

/-- The halt of a refusal does not reach the words of the Campion region that hold the bank and the epoch. -/
theorem State.refuseCommit_reg_commit {f : CommitFail} {o : Nat} (ho : o ∈ [rCF, rCF + 8]) : (s.refuseCommit f).reg o = (s.commitRefused f).reg o := by
  rcases s.refuseCommit_cases f with h | ⟨q, h⟩
  · rw [h]
  · have hne : o ≠ rQ q + 0x20 := by
      simp only [List.mem_cons, List.not_mem_nil, or_false, rCF] at ho
      simp only [rQ]
      omega
    have hev : OffEvents o := by
      simp only [List.mem_cons, List.not_mem_nil, or_false, rCF] at ho
      simp only [OffEvents]
      omega
    rw [h, State.halt_reg _ hev _ _ _ _ _ hne]

/-- The queue of a refused TABCOMMIT stands `HALTED` at its instruction (R155). -/
theorem State.refuseCommit_halts {f : CommitFail} {q : Nat} (hq : q < 32) (htab : s.tabQueue = some q) (hrun : s.halted q = false) :
    (s.refuseCommit f).halted q = true ∧ (s.refuseCommit f).getF (fQ_HALT q) = 8 ∧
      (s.refuseCommit f).getF (fQ_HEAD q) = s.getF (fQ_HEAD q) := by
  have hkept (c : Nat) (hc : c < 0x40) : (s.commitRefused f).reg (rQ q + c) = s.reg (rQ q + c) := by
    apply State.commitRefused_reg_other <;> simp only [OffEvents, rQ, rCF] <;> omega
  have hrun' : (s.commitRefused f).halted q = false := by
    rw [State.halted, State.getF_congr (f := fQ_STATE q) (hkept 0x20 (by decide))]
    exact hrun
  have heq : s.refuseCommit f = (s.commitRefused f).halt q 8 0 0 0xFFFFFFFF := by
    rw [State.refuseCommit_eq, htab]
    exact if_neg (by simp [hrun'])
  obtain ⟨hstate, hcode⟩ := (s.commitRefused f).getF_halt (order := 0) 0 0xFFFFFFFF hq (show 8 < 256 by decide)
  have hhead : ((s.commitRefused f).halt q 8 0 0 0xFFFFFFFF).reg (rQ q + 0x10) = (s.commitRefused f).reg (rQ q + 0x10) := by
    apply State.halt_reg
    · simp only [OffEvents, rQ]
      omega
    · omega
  rw [heq, State.halted, hstate]
  exact ⟨rfl, hcode, State.getF_congr (f := fQ_HEAD q) (hhead.trans (hkept 0x10 (by decide)))⟩

/-! The copy into the lanes. -/

theorem nextEpoch_lt {e : Nat} (h : e < 2 ^ 32) : nextEpoch e < 2 ^ 32 := by
  unfold nextEpoch
  split <;> omega

/-- The commit is `PASSED`: the lanes hold the shadow, and the epoch to come is named; its TABCOMMIT has not been passed yet. -/
def State.commitPassed (s : State) : State :=
  ((s.copyLanes fun _ => nextEpoch (s.getF fCF_EPOCH)).setFields [(fSHADOW_ST, 2), (fPEND_EPOCH, nextEpoch (s.getF fCF_EPOCH))]).endCommit

theorem State.commitPassed_frame : s.commitPassed = { s with
    regs := s.commitPassed.regs, lanes := (s.copyLanes fun _ => nextEpoch (s.getF fCF_EPOCH)).lanes
    laneTags := (s.copyLanes fun _ => nextEpoch (s.getF fCF_EPOCH)).laneTags, tabQueue := none, tabPassed := false } := by
  rw [State.commitPassed, State.endCommit, State.setFields_frame, State.copyLanes_frame]

theorem State.commitPassed_getF : s.commitPassed.getF fSHADOW_ST = 2 ∧
    s.commitPassed.getF fPEND_EPOCH = nextEpoch (s.getF fCF_EPOCH) ∧ s.commitPassed.getF fCF_EPOCH = s.getF fCF_EPOCH := by
  have hlt := nextEpoch_lt (s.getF_lt fCF_EPOCH)
  rw [State.commitPassed, State.endCommit_getF, State.endCommit_getF, State.endCommit_getF]
  generalize nextEpoch (s.getF fCF_EPOCH) = e at hlt
  have hapart : [(fSHADOW_ST, 2), (fPEND_EPOCH, e)].Pairwise fun x y => y.1.apart x.1 := by
    simp [fSHADOW_ST, fPEND_EPOCH, Fld.apart]
  refine ⟨?_, ?_, ?_⟩
  · exact State.getF_setFields _ hapart (g := fSHADOW_ST) (v := 2) (by decide) (by simp)
  · exact (State.getF_setFields _ hapart (g := fPEND_EPOCH) (v := e) (by decide) (by simp)).trans (Nat.mod_eq_of_lt hlt)
  · rw [State.getF_setFields_other _ (by decide) _ (by simp [fSHADOW_ST, fPEND_EPOCH, fCF_EPOCH, Fld.apart]), State.copyLanes_getF]

/-- `passCommit` changes nothing but `regs`, `queues`. -/
theorem State.passCommit_frame (q : Nat) :
    s.passCommit q = { s with regs := (s.passCommit q).regs, queues := (s.passCommit q).queues } := by
  unfold State.passCommit
  split
  · split
    · exact s.passItem_frame q false
    · rfl
  · rfl

/-- Only a queue that holds an item is passed: the words of the Campion region stay. -/
theorem State.passCommit_reg_commit (hlen : s.queues.length = 32) (q : Nat) {o : Nat} (ho : rCF ≤ o) : (s.passCommit q).reg o = s.reg o := by
  unfold State.passCommit
  split
  case h_1 d hd =>
    have hq := s.lt_of_item hd
    split
    · apply State.passItem_reg <;> simp only [rQ, rCF] at * <;> omega
    · rfl
  case h_2 => rfl

/-- Where a TABCOMMIT asked for the commit, it is passed. -/
def State.passAsker (s : State) (q : Option Nat) : State := q.elim s s.passCommit

theorem State.passAsker_frame (q : Option Nat) :
    s.passAsker q = { s with regs := (s.passAsker q).regs, queues := (s.passAsker q).queues } := by
  cases q with
  | none => rfl
  | some q => exact s.passCommit_frame q

theorem State.passAsker_reg_commit (hlen : s.queues.length = 32) (q : Option Nat) {o : Nat} (ho : rCF ≤ o) :
    (s.passAsker q).reg o = s.reg o := by
  cases q with
  | none => rfl
  | some q => exact State.passCommit_reg_commit hlen q ho

theorem exec_laneCopyDone_of_passed (hsel : s.selOn = true) (hst : s.getF fSHADOW_ST = 1) (hp : s.tabPassed = true) :
    exec .laneCopyDone s = .next (s.commitPassed.passAsker s.tabQueue) := by
  change execLaneCopyDone s = _
  rw [execLaneCopyDone, if_neg (by simp [hsel, hst, hp])]
  cases s.tabQueue <;> rfl

/-! The drain and the copy of the active bank. -/

theorem exec_bankDrainDone_of_drained (hsel : s.selOn = true) (hst : s.getF fSHADOW_ST = 4) (hf : ∀ f ∈ s.flights, f.bank = s.activeBank) :
    exec .bankDrainDone s = .next (s.setF fSHADOW_ST 5) := by
  change execBankDrainDone s = _
  rw [execBankDrainDone, if_pos]
  simpa [hsel, hst] using hf

theorem exec_bankDrainDone_of_bound (hf : ∃ f ∈ s.flights, f.bank ≠ s.activeBank) : exec .bankDrainDone s = .next s := by
  change execBankDrainDone s = _
  obtain ⟨f, hmem, hbank⟩ := hf
  rw [execBankDrainDone, if_neg]
  simp only [Bool.and_eq_true, List.all_eq_true, beq_iff_eq, not_and]
  exact fun _ hall => hbank (hall f hmem)

/-- The shadow's masters hold the contents of the active bank. -/
def State.bankRestored (s : State) : State :=
  { s with banks := Store.setRegion s.banks s.shadowBank (Store.region s.banks s.activeBank) }

/-- The masters and the lanes of the clusters in service hold the contents of the active bank, and the shadow is `IDLE`. -/
def State.bankCopied (s : State) : State := ((s.bankRestored.copyLanes fun s => s.getF fCF_EPOCH).setF fSHADOW_ST 0).advanceG

theorem exec_bankCopyDone_of_copy (hsel : s.selOn = true) (hst : s.getF fSHADOW_ST = 5) : exec .bankCopyDone s = .next s.bankCopied := by
  change execBankCopyDone s = _
  rw [execBankCopyDone, if_neg (by simp [hsel, hst])]
  rfl

theorem State.bankCopied_fields : s.bankCopied.banks = s.bankRestored.banks ∧ s.bankCopied.mem = s.mem ∧ s.bankCopied.flights = s.flights := by
  rw [State.bankCopied, State.copyLanes_frame]
  exact ⟨rfl, rfl, rfl⟩

theorem State.bankCopied_reg {o : Nat} (ho : o ≠ rCF) : s.bankCopied.reg o = s.reg o := by
  rw [State.bankCopied, State.advanceG_reg, State.reg_setF_other _ fSHADOW_ST 0 ho, State.copyLanes_reg]
  rfl

/-- The two banks are not the same. -/
theorem State.activeBank_ne_shadowBank : s.activeBank ≠ s.shadowBank := by
  unfold State.activeBank State.shadowBank
  omega

theorem State.bankRestored_shadow {o : Nat} (ho : o < 2 ^ 16) : s.bankRestored.bankWord s.shadowBank o = s.bankWord s.activeBank o :=
  Store.read_setRegion_region s.banks s.banks _ _ ho

theorem State.bankRestored_active {o : Nat} (ho : o < 2 ^ 16) : s.bankRestored.bankWord s.activeBank o = s.bankWord s.activeBank o :=
  Store.read_setRegion_out bankDefault s.banks (fun _ => Store.key_lt_of_mem_region) (by
    have := s.activeBank_ne_shadowBank
    omega)

end Sys2Proof.Machine
end

section
/-! PROOF. Commits are checked, copied and drained (R155). -/

namespace Sys2Proof.Machine

/-- Settles O49: each stage comes to the state that its rule names; the words of the Campion region lie outside what a halt, a passed item and an event change. -/
theorem commitsAreCheckedCopiedAndDrained : Obligations.CommitsAreCheckedCopiedAndDrained := by
  unfold Obligations.CommitsAreCheckedCopiedAndDrained
  intro s hs
  refine ⟨fun hsel c hc => exec_commit_of_sel_off hsel hc, fun hsel hst hp hfar => ⟨exec_commitCheckDone_of_pass hsel hst hp hfar, ?refused⟩, ?passed,
    fun hsel hst hf => ?drained, fun _ hf => exec_bankDrainDone_of_bound hf, fun hsel hst => ?copied⟩
  case refused =>
    intro f hc
    refine ⟨_, exec_commitCheckDone_of_fail hsel hst hp hfar hc, ?state, ?_, ?epoch, ?bank, ?_,
      fun q htab hq hrun => State.refuseCommit_halts hq htab hrun, ?_, ?_⟩
    case state => rw [State.getF_congr (f := fSHADOW_ST) (State.refuseCommit_reg_commit (by decide)), State.commitRefused_shadow]
    case epoch =>
      have hkept : (s.commitRefused f).reg (rCF + 8) = s.reg (rCF + 8) := State.commitRefused_reg_other (.inr (by decide)) (by decide) (by decide)
      exact State.getF_congr (f := fCF_EPOCH) ((State.refuseCommit_reg_commit (by decide)).trans hkept)
    case bank => rw [State.getF_congr (f := fBANK_ACT) (State.refuseCommit_reg_commit (by decide)), State.commitRefused_bank]
    all_goals rw [State.refuseCommit_frame]
  case passed =>
    intro hsel hst hp
    obtain ⟨hstate, hpend, hepoch⟩ := s.commitPassed_getF
    have hlen : s.commitPassed.queues.length = 32 := by rw [State.commitPassed_frame, hs.queues]
    have hreg {g : Fld} (hg : rCF ≤ g.off) := State.getF_congr (f := g) (State.passAsker_reg_commit hlen s.tabQueue hg)
    have hlanes : (s.commitPassed.passAsker s.tabQueue).lanes = (s.copyLanes fun _ => nextEpoch (s.getF fCF_EPOCH)).lanes := by
      rw [State.passAsker_frame, State.commitPassed_frame]
    refine ⟨_, exec_laneCopyDone_of_passed hsel hst hp, (hreg (g := fSHADOW_ST) (by decide)).trans hstate,
      (hreg (g := fPEND_EPOCH) (by decide)).trans hpend, (hreg (g := fCF_EPOCH) (by decide)).trans hepoch, ?_, ?_,
      fun cl o hcl ho => (State.laneWord_congr hlanes cl _ o).trans (s.laneWord_copyLanes _ hcl ho), ?_⟩
    all_goals rw [State.passAsker_frame, State.commitPassed_frame]
  case drained =>
    exact ⟨_, exec_bankDrainDone_of_drained hsel hst hf, s.getF_setF_same fSHADOW_ST 5 (by decide), fun o ho => s.reg_setF_other fSHADOW_ST 5 ho, rfl⟩
  case copied =>
    obtain ⟨hbanks, hmem, hflights⟩ := s.bankCopied_fields
    have hword (b o : Nat) : s.bankCopied.bankWord b o = s.bankRestored.bankWord b o := State.bankWord_congr hbanks b o
    refine ⟨_, exec_bankCopyDone_of_copy hsel hst, State.getF_setF_same _ fSHADOW_ST 0 (by decide), fun o ho => ?_, fun o => State.bankCopied_reg,
      hmem, hflights⟩
    rw [hword, hword]
    exact ⟨State.bankRestored_shadow ho, State.bankRestored_active ho⟩

end Sys2Proof.Machine
end

section
/-! SUPPORT. Writes in the Campion region (R154, R155): the table window and `GO`, and what each answers. -/

namespace Sys2Proof.Machine

variable {s t : State} {off : Nat} {v : Word64} {snd : Sender}

/-! Where the write goes. -/

/-- Each word of the window lies in its part of the Campion region. -/
theorem inWindowRegion_of_windowWord (h : windowWord off = true) : inWindowRegion off = true := by
  simp only [windowWord, inWindowRegion, Bool.or_eq_true, Bool.and_eq_true, decide_eq_true_eq] at h ⊢
  omega

theorem windowWord_lt (h : windowWord off = true) : off < 0x10000 := by
  have h := inWindowRegion_of_windowWord h
  simp only [inWindowRegion, Bool.or_eq_true, decide_eq_true_eq] at h
  omega

/-- An access to the Campion region is refused while PD_SEL is not `ON` (R445, R449). -/
theorem State.refusal_campion (hw : t.power.asleep = false) (h8 : off % 8 = 0) (hlt : off < 0x10000) :
    t.refusal (0x10000 + off) = if t.selOn then none else some rACCESS := by
  have halign : ((0x10000 + off) % 8 != 0) = false := by simp; omega
  have hreg : inRegion (0x10000 + off) = true := by
    simp only [inRegion, decide_eq_true_eq]
    omega
  have hhal : inHalter (0x10000 + off) = false := by
    simp only [inHalter, decide_eq_false_iff_not]
    omega
  have hcam : inCampion (0x10000 + off) = true := by
    simp only [inCampion, decide_eq_true_eq]
    omega
  cases hsel : t.selOn <;> simp [State.refusal, halign, hreg, hw, hhal, hcam, hsel]

theorem State.writeWord_campion_off (hw : t.power.asleep = false) (h8 : off % 8 = 0) (hlt : off < 0x10000) (hsel : t.selOn = false) :
    t.writeWord (0x10000 + off) v snd none = (t, rACCESS) := by
  rw [State.writeWord, State.refusal_campion hw h8 hlt, hsel]
  rfl

/-- While PD_SEL is `ON` a write of the Campion region reaches the window or a register. -/
theorem State.writeWord_campion_on (hw : t.power.asleep = false) (h8 : off % 8 = 0) (hlt : off < 0x10000) (hsel : t.selOn = true) :
    t.writeWord (0x10000 + off) v snd none =
      if inWindowRegion off then ((t.writeWindow off v).1, if (t.writeWindow off v).2 then rOK else rACCESS)
      else t.settled (t.writeReg (0x10000 + off) v none) := by
  have hkey : t.keyAt (0x10000 + off) = none := by
    rw [State.keyAt, if_neg]
    simp only [Bool.or_eq_true, Bool.and_eq_true, decide_eq_true_eq]
    omega
  have hhal : inHalter (0x10000 + off) = false := by
    simp only [inHalter, decide_eq_false_iff_not]
    omega
  have hpad : inPaddock (0x10000 + off) = false := by
    simp only [inPaddock, decide_eq_false_iff_not]
    omega
  have hcam : inCampion (0x10000 + off) = true := by
    simp only [inCampion, decide_eq_true_eq]
    omega
  have hmod : (0x10000 + off) % 0x10000 = off := by omega
  simp [State.writeWord, State.refusal_campion hw h8 hlt, hsel, hkey, hhal, hpad, hcam, hmod]

theorem exec_tableWindowWrite_heard (h : Heard s snd t) (hlt : off < 0x10000) :
    exec (.tableWindowWrite off v snd) s = .next ((t.putTo (0x10000 + off) v snd none).replied snd opWR 1) := by
  change s.putCommand (decide (off < 0x10000)) (0x10000 + off) v snd = _
  rw [State.putCommand, if_pos (decide_eq_true hlt), State.request_heard _ _ _ _ _ _ h.1 h.2]

theorem exec_commitGo_heard (h : Heard s snd t) :
    exec (.commitGo v snd) s = .next ((t.putTo (0x10000 + 0x10) v snd none).replied snd opWR 1) :=
  State.request_heard _ _ _ _ _ _ h.1 h.2

/-! The table window (R154). -/

section
variable (h : Heard s snd t) (hw : t.power.asleep = false)
include h hw

theorem exec_tableWindowWrite_of_sel_off (hsel : t.selOn = false) (h8 : off % 8 = 0) (hlt : off < 0x10000) :
    exec (.tableWindowWrite off v snd) s = .next ((t.answer rACCESS []).replied snd opWR 1) := by
  rw [exec_tableWindowWrite_heard h hlt, State.putTo, State.writeWord_campion_off hw h8 hlt hsel]

theorem exec_tableWindowWrite_of_sel_on (hsel : t.selOn = true) (h8 : off % 8 = 0) (hword : windowWord off = true) :
    exec (.tableWindowWrite off v snd) s =
      .next (((t.writeWindow off v).1.answer (if (t.writeWindow off v).2 then rOK else rACCESS) []).replied snd opWR 1) := by
  rw [exec_tableWindowWrite_heard h (windowWord_lt hword), State.putTo, State.writeWord_campion_on hw h8 (windowWord_lt hword) hsel,
    if_pos (inWindowRegion_of_windowWord hword)]

end

/-- A word of the shadow bank is written. -/
def State.writeBank (t : State) (off : Nat) (v : Word64) : State :=
  { t with banks := Store.write bankDefault t.banks (2 ^ 16 * t.shadowBank + off) v }

theorem State.writeBank_same : (t.writeBank off v).bankWord t.shadowBank off = v := Store.read_write_same bankDefault t.banks _ v

theorem State.writeBank_other {b o : Nat} (ho : o < 2 ^ 16) (hlt : off < 2 ^ 16) (h : (b, o) ≠ (t.shadowBank, off)) :
    (t.writeBank off v).bankWord b o = t.bankWord b o := by
  refine Store.read_write_other bankDefault t.banks v ?_
  rw [Ne, Prod.mk.injEq] at h
  omega

theorem State.writeWindow_of_open (ho : t.shadowOpen = true) (hword : windowWord off = true) :
    t.writeWindow off v = (t.writeBank off v, true) := by
  simp [State.writeWindow, ho, hword, State.writeBank]

/-- While the shadow is closed a write is counted, and its event is posted where `WREJ_EV` asks for it. -/
theorem State.writeWindow_of_closed (ho : t.shadowOpen = false) : (t.writeWindow off v).2 = false ∧
    ((t.writeWindow off v).1 = t.addSat fWREJ 1 ∨ ∃ e, (t.writeWindow off v).1 = (t.addSat fWREJ 1).post e) := by
  rw [State.writeWindow, if_neg (by simp [ho])]
  refine ⟨rfl, ?_⟩
  dsimp only
  split
  · exact .inr ⟨_, rfl⟩
  · exact .inl rfl

theorem State.writeWindow_closed_banks (ho : t.shadowOpen = false) : (t.writeWindow off v).1.banks = t.banks := by
  obtain ⟨-, h | ⟨e, h⟩⟩ := State.writeWindow_of_closed (off := off) (v := v) ho
  · rw [h, State.addSat_banks]
  · rw [h, State.post_banks, State.addSat_banks]

theorem State.writeWindow_closed_count (ho : t.shadowOpen = false) :
    (t.writeWindow off v).1.getF fWREJ = Nat.min (2 ^ 16 - 1) (t.getF fWREJ + 1) := by
  have hcount := State.getF_addSat_same (s := t) fWREJ 1 (by decide)
  obtain ⟨-, h | ⟨e, h⟩⟩ := State.writeWindow_of_closed (off := off) (v := v) ho
  · rw [h, hcount]
    rfl
  · rw [h, State.post_getF (f := fWREJ) _ _ (.inr (by decide)), hcount]
    rfl

/-! `GO` (R155). -/

theorem State.writeReg_commitGo (hgo : v.getLsbD 0 = true) : t.writeReg (0x10000 + 0x10) v none = t.commitGo := by
  have hrange : t.rangeOk (0x10000 + 0x10) v = true := t.rangeOk_of_unbounded v (by decide)
  have hbit : getBits v 0 1 = 1 := by
    rw [← beq_iff_eq, getBits_one_beq, hgo]
  have hne : ∀ o ∈ [rGCTL, rLIFECYCLE, rMBOX_ARG, rMBOX_CMD, rARB_COMMIT, rEV_SIZE, 0x3000], 0x10000 + 0x10 ≠ o := by decide
  simp only [List.forall_mem_cons] at hne
  obtain ⟨h1, h2, h3, h4, h5, h6, h7, -⟩ := hne
  rw [State.writeReg, if_neg (by simp [hrange]), if_neg h1, if_neg h2, if_neg h3, if_neg h4, if_neg (by decide), if_neg h5, if_neg (by decide),
    if_neg (by decide), if_neg h6, if_neg h7, if_neg (by decide), if_pos rfl, if_neg (by simp [hbit])]

section
variable (h : Heard s snd t) (hw : t.power.asleep = false)
include h hw

theorem exec_commitGo_of_sel_off (hsel : t.selOn = false) : exec (.commitGo v snd) s = .next ((t.answer rACCESS []).replied snd opWR 1) := by
  rw [exec_commitGo_heard h, State.putTo, State.writeWord_campion_off hw (by decide) (by decide) hsel]

theorem exec_commitGo_of_sel_on (hsel : t.selOn = true) (hgo : v.getLsbD 0 = true) :
    exec (.commitGo v snd) s = .next (((t.settled t.commitGo).1.answer (t.settled t.commitGo).2 []).replied snd opWR 1) := by
  rw [exec_commitGo_heard h, State.putTo, State.writeWord_campion_on hw (by decide) (by decide) hsel, if_neg (by decide),
    State.writeReg_commitGo hgo]

theorem exec_commitGo_of_open (hsel : t.selOn = true) (hgo : v.getLsbD 0 = true) (ho : t.shadowOpen = true) :
    exec (.commitGo v snd) s = .next (((t.startCommit none).answer rOK []).replied snd opWR 1) := by
  rw [exec_commitGo_of_sel_on h hw hsel hgo, State.commitGo, if_pos ho]
  rfl

theorem exec_commitGo_of_closed (hsel : t.selOn = true) (hgo : v.getLsbD 0 = true) (ho : t.shadowOpen = false) :
    exec (.commitGo v snd) s = .next ((t.answer rACCESS []).replied snd opWR 1) := by
  rw [exec_commitGo_of_sel_on h hw hsel hgo, State.commitGo, if_neg (by simp [ho])]
  rfl

end

end Sys2Proof.Machine
end

section
/-! PROOF. The table window and `GO` reach the shadow bank (R154, R155). -/

namespace Sys2Proof.Machine

/-- Settles O21: each write of the Campion region is refused, reaches the shadow bank, or begins its commit, as PD_SEL and the shadow's state say. -/
theorem tableWindowAndCommitGoReachTheShadow : Obligations.TableWindowAndCommitGoReachTheShadow := by
  unfold Obligations.TableWindowAndCommitGoReachTheShadow
  intro s t off v snd h hw
  refine ⟨fun hsel h8 hword ho => ?written, fun hsel h8 hword ho => ?counted, fun hsel hgo ho => ?begun,
    exec_commitGo_of_closed h hw, fun hsel h8 hword => ?off⟩
  case written =>
    have hlt := windowWord_lt hword
    refine ⟨((t.writeBank off v).answer rOK []).replied snd opWR 1, ?_, rfl, State.writeBank_same, fun b o _ hlo hne => ?_, rfl⟩
    · rw [exec_tableWindowWrite_of_sel_on h hw hsel h8 hword, State.writeWindow_of_open ho hword]
      rfl
    · exact State.writeBank_other hlo hlt hne
  case counted =>
    refine ⟨((t.writeWindow off v).1.answer rACCESS []).replied snd opWR 1, ?_, rfl, State.writeWindow_closed_banks ho,
      State.writeWindow_closed_count ho⟩
    rw [exec_tableWindowWrite_of_sel_on h hw hsel h8 hword, (State.writeWindow_of_closed ho).1]
    rfl
  case begun =>
    exact ⟨_, exec_commitGo_of_open h hw hsel hgo ho, rfl, t.getF_setF_same fSHADOW_ST 1 (by decide), rfl, rfl,
      fun o hne => t.reg_setF_other fSHADOW_ST 1 hne, rfl⟩
  case off =>
    exact ⟨exec_tableWindowWrite_of_sel_off h hw hsel h8 (windowWord_lt hword), exec_commitGo_of_sel_off h hw hsel⟩

end Sys2Proof.Machine
end

section
/-! SUPPORT. Requests that are sent stay outstanding until their response (R371, R373): the sending of others keeps a request with its port, its address and its purpose. -/

namespace Sys2Proof.Machine

variable {s : State} {p : Port} {a : Nat} {why : Purpose2}

/-- A request on port `p` at address `a` with the purpose `why` is outstanding. -/
def State.Awaits (s : State) (p : Port) (a : Nat) (why : Purpose2) : Prop := ∃ o ∈ s.out, o.port = p ∧ o.addr = a ∧ o.why = why

theorem State.Awaits.of_out {t : State} (h : s.Awaits p a why) (ht : t.out = s.out) : t.Awaits p a why := by
  rw [State.Awaits, ht]
  exact h

theorem PumpX.took_fst {o : Outstanding} (h : o.why ≠ .read) (x : PumpX) : (x.took o).1 = some { o with wait := none } := by
  rw [PumpX.took, if_neg h]

/-- On its way out a request that awaits a response is sent or waits, and keeps its port, its address and its purpose. -/
theorem pumpOne_keeps (c : PumpCtx) (x : PumpX) {o : Outstanding} (h : o.why ≠ .read) :
    ∃ y, (pumpOne c x o).1 = some y ∧ y.port = o.port ∧ y.addr = o.addr ∧ y.why = o.why := by
  unfold pumpOne
  split
  · exact ⟨o, rfl, rfl, rfl, rfl⟩
  · split
    · exact ⟨o, rfl, rfl, rfl, rfl⟩
    · split
      · dsimp only
        split
        · exact ⟨_, PumpX.took_fst (by exact h) _, rfl, rfl, rfl⟩
        · exact ⟨_, PumpX.took_fst (by exact h) _, rfl, rfl, rfl⟩
      · exact ⟨o, rfl, rfl, rfl, rfl⟩

theorem pumpAll_keeps (c : PumpCtx) {l : List Outstanding} {o : Outstanding} (ho : o ∈ l) (h : o.why ≠ .read) (x : PumpX) :
    ∃ y ∈ (pumpAll c x l).1, y.port = o.port ∧ y.addr = o.addr ∧ y.why = o.why := by
  induction l generalizing x with
  | nil => simp at ho
  | cons z l ih =>
    rw [pumpAll]
    rcases List.mem_cons.1 ho with rfl | ho
    · obtain ⟨y, hy, hkeep⟩ := pumpOne_keeps c x h
      exact ⟨y, by simp [hy], hkeep⟩
    · obtain ⟨y, hy, hkeep⟩ := ih ho (pumpOne c x z).2
      exact ⟨y, List.mem_append_right _ hy, hkeep⟩

theorem State.Awaits.pump (h : s.Awaits p a why) (hw : why ≠ .read) (q : Port) : (s.pump q).Awaits p a why := by
  obtain ⟨o, ho, hp, ha, hwhy⟩ := h
  obtain ⟨y, hy, hyp, hya, hyw⟩ := pumpAll_keeps _ ho (by rwa [hwhy]) _
  exact ⟨y, hy, hyp.trans hp, hya.trans ha, hyw.trans hwhy⟩

/-- Sending another request. -/
theorem State.Awaits.send (h : s.Awaits p a why) (hw : why ≠ .read) (q : Port) (b n : Nat) (w : Purpose2) (hd : Header) (d : List (BitVec 128)) :
    (s.send q b n w hd d).Awaits p a why := by
  obtain ⟨o, ho, hkeep⟩ := h
  exact State.Awaits.pump ⟨o, List.mem_append_left _ ho, hkeep⟩ hw q

/-- The request that is sent. -/
theorem State.awaits_send (s : State) (hw : why ≠ .read) (p : Port) (a n : Nat) (hd : Header) (d : List (BitVec 128)) :
    (s.send p a n why hd d).Awaits p a why := by
  have hnew : State.Awaits { s with out := s.out ++ [⟨p, 0, a, n, why, { hd with nds := d.length }, some d⟩] } p a why :=
    ⟨_, List.mem_append_right _ List.mem_cons_self, rfl, rfl, rfl⟩
  exact hnew.pump hw p

theorem State.Awaits.writePiece (h : s.Awaits p a why) (hw : why ≠ .read) (vc b : Nat) (bs : List Byte) (w : Purpose2) (x : Port × Nat × Nat) :
    (s.writePiece vc b bs w x).Awaits p a why := by
  unfold State.writePiece
  dsimp only
  split
  · refine State.Awaits.send ?_ hw ..
    split
    · exact h.of_out rfl
    · exact h
  · split
    · exact State.Awaits.send (h.of_out rfl) hw ..
    · exact h

theorem State.awaits_writePiece_hport (s : State) (hw : why ≠ .read) (vc b : Nat) (bs : List Byte) (a n : Nat) :
    (s.writePiece vc b bs why (.hport, a, n)).Awaits .hport a why :=
  State.awaits_send _ hw .hport a n _ _

theorem State.Awaits.foldl {β : Type} {f : State → β → State} (h : s.Awaits p a why) (hf : ∀ t x, t.Awaits p a why → (f t x).Awaits p a why)
    (l : List β) : (l.foldl f s).Awaits p a why :=
  List.foldlRecOn (motive := fun (t : State) => t.Awaits p a why) l f h fun t ht x _ => hf t x ht

/-- A walk in which one step sends the request, and every step keeps it. -/
theorem State.awaits_foldl {β : Type} {f : State → β → State} (hf : ∀ t x, t.Awaits p a why → (f t x).Awaits p a why)
    {l : List β} {x : β} (hx : x ∈ l) (hsend : ∀ t, (f t x).Awaits p a why) (s : State) : (l.foldl f s).Awaits p a why := by
  obtain ⟨before, rest, rfl⟩ := List.append_of_mem hx
  rw [List.foldl_append, List.foldl_cons]
  exact (hsend _).foldl hf rest

theorem State.Awaits.writeBy (h : s.Awaits p a why) (hw : why ≠ .read) (q : Option Port) (vc b : Nat) (bs : List Byte) (w : Purpose2) :
    (s.writeBy q vc b bs w).Awaits p a why := by
  rw [State.writeBy_eq_foldl]
  exact h.foldl (fun t x ht => ht.writePiece hw vc b bs w x) _

/-- The first message of a write to the H-port is at the address of the write. -/
theorem State.awaits_writeBy_hport (s : State) (hw : why ≠ .read) (vc a : Nat) {bs : List Byte} (hbs : bs ≠ []) :
    (s.writeBy (some .hport) vc a bs why).Awaits .hport a why := by
  have hlen : bs.length ≠ 0 := by simpa using hbs
  have hfirst : (.hport, a, s.cut .hport true a bs.length) ∈ s.messages (some .hport) true a bs.length := by
    rw [State.messages, State.pieces, if_neg hlen]
    exact List.mem_cons_self
  rw [State.writeBy_eq_foldl]
  exact State.awaits_foldl (fun t x ht => ht.writePiece hw vc a bs why x) hfirst (fun t => t.awaits_writePiece_hport hw vc a bs a _) s

end Sys2Proof.Machine
end

section
/-! SUPPORT. XMERGE (R184, R191): the records of a round, where they go, and the state that sending them leaves. -/

namespace Sys2Proof.Machine

variable {s : State} {f : Flight} {m : MergeCtx} {ln : Nat}

/-- The record of each row in a round. -/
def Flight.roundRecords (f : Flight) (m : MergeCtx) : List (List Byte) := f.rows.zipIdx.map fun q => mergeRecord f m q.2 q.1

/-- A round's records are sent to every chip of the group. -/
def State.sendRound (s : State) (m : MergeCtx) (f : Flight) : State :=
  m.g.peers.foldl (fun s q => s.sendTo m f (f.roundRecords m) q.1) s

/-- The state that XMERGE leaves: the round sent and counted as sent, and counted as delivered where it has no record. -/
def State.merging (s : State) (m : MergeCtx) (f : Flight) : State :=
  let t := (s.sendRound m f).setFlight { f with mrSent := f.mrSent + 1 }
  if (f.roundRecords m).all (·.isEmpty) then t.mergeCounts f.ln f.mrSent else t

theorem mergeCtx_round {k : Nat} (h : mergeCtx f k = some m) : m.round = k := by
  unfold mergeCtx at h
  split at h
  · obtain rfl := Option.some.inj h
    rfl
  · simp at h

/-! Frames. -/

theorem State.sendTo_frame (s : State) (m : MergeCtx) (f : Flight) (recs : List (List Byte)) (base : Nat) : s.sendTo m f recs base =
    { s with mem := (s.sendTo m f recs base).mem, out := (s.sendTo m f recs base).out, link := (s.sendTo m f recs base).link } := by
  unfold State.sendTo
  generalize recs.zipIdx = l
  induction l generalizing s with
  | nil => rfl
  | cons x l ih => rw [List.foldl_cons, ih, State.writeBy_frame]

theorem State.sendRound_frame (s : State) (m : MergeCtx) (f : Flight) : s.sendRound m f =
    { s with mem := (s.sendRound m f).mem, out := (s.sendRound m f).out, link := (s.sendRound m f).link } := by
  unfold State.sendRound
  generalize m.g.peers = l
  induction l generalizing s with
  | nil => rfl
  | cons x l ih => rw [List.foldl_cons, ih, State.sendTo_frame]

theorem State.mergeCounts_frame (s : State) (ln k : Nat) : s.mergeCounts ln k =
    { s with out := (s.mergeCounts ln k).out, link := (s.mergeCounts ln k).link } := by
  unfold State.mergeCounts
  split
  · rfl
  · split
    · rfl
    next m _ =>
      refine List.foldlRecOn (motive := fun (t : State) => t = { s with out := t.out, link := t.link }) _ _ rfl fun t ht q _ => ?_
      rw [State.sendAtom_frame, ht]

theorem State.merging_frame (s : State) (m : MergeCtx) (f : Flight) : s.merging m f =
    { s with mem := (s.merging m f).mem, out := (s.merging m f).out, link := (s.merging m f).link, flights := (s.merging m f).flights } := by
  unfold State.merging
  dsimp only
  split
  · rw [State.mergeCounts_frame, State.setFlight, State.sendRound_frame]
  · rw [State.setFlight, State.sendRound_frame]

theorem State.becomes_merging (h : s.flight ln = some f) (m : MergeCtx) : Becomes s (s.merging m f) ln { f with mrSent := f.mrSent + 1 } := by
  have hfl : (s.sendRound m f).flights = s.flights := by rw [State.sendRound_frame]
  have hsent := Becomes.setFlight_of_flights (g := { f with mrSent := f.mrSent + 1 }) h hfl (State.flight_ln h :)
  unfold State.merging
  dsimp only
  split
  · exact hsent.of_flights (by rw [State.mergeCounts_frame])
  · exact hsent

/-! What is sent. -/

theorem Flight.mem_roundRecords {r : Nat} {row : RowState} (h : f.rows[r]? = some row) (m : MergeCtx) :
    (mergeRecord f m r row, r) ∈ (f.roundRecords m).zipIdx := by
  rw [List.mem_zipIdx_iff_getElem?, Flight.roundRecords, List.getElem?_map, List.getElem?_zipIdx, h]
  simp

theorem State.Awaits.sendTo {p : Port} {a : Nat} {why : Purpose2} (h : s.Awaits p a why) (hw : why ≠ .read) (m : MergeCtx) (f : Flight)
    (recs : List (List Byte)) (base : Nat) : (s.sendTo m f recs base).Awaits p a why :=
  h.foldl (fun _ _ ht => ht.writeBy hw ..) _

/-- Every record that is not empty is sent to each chip, to its slot of that chip's area. -/
theorem State.awaits_sendRound (s : State) {r : Nat} {row : RowState} (h : f.rows[r]? = some row) (hrec : mergeRecord f m r row ≠ [])
    {p : Nat × Nat × Nat × Nat} (hp : p ∈ m.g.peers) :
    (s.sendRound m f).Awaits .hport (m.place f.prog p.1 m.g.self r) (.merge f.ln m.round) := by
  have hw : Purpose2.merge f.ln m.round ≠ .read := nofun
  refine State.awaits_foldl (fun t q ht => ht.sendTo hw m f _ q.1) hp (fun t => ?_) s
  unfold State.sendTo
  exact State.awaits_foldl (fun t q ht => ht.writeBy hw (some .hport) 2 _ q.1 _) (Flight.mem_roundRecords h m)
    (fun t => t.awaits_writeBy_hport hw 2 _ hrec) t

/-- A round that counts adds 1 to the count of every chip. -/
theorem State.awaits_mergeCounts {k : Nat} (h : s.flight ln = some f) (hm : mergeCtx f k = some m) {p : Nat × Nat × Nat × Nat} (hp : p ∈ m.g.peers) :
    (s.mergeCounts ln k).Awaits .hport p.2.1 (.mergeCnt ln k) := by
  have hw : Purpose2.mergeCnt ln k ≠ .read := nofun
  simp only [State.mergeCounts, h, hm]
  exact State.awaits_foldl (fun t q ht => ht.send hw .hport q.2.1 8 _ _ _) hp (fun t => t.awaits_send hw .hport p.2.1 8 _ _) s

theorem State.Awaits.mergeCounts {p : Port} {a : Nat} {why : Purpose2} (h : s.Awaits p a why) (hw : why ≠ .read) (ln k : Nat) :
    (s.mergeCounts ln k).Awaits p a why := by
  unfold State.mergeCounts
  split
  · exact h
  · split
    · exact h
    · exact h.foldl (fun t q ht => ht.send hw .hport q.2.1 8 _ _ _) _

theorem State.awaits_merging {r : Nat} {row : RowState} (h : f.rows[r]? = some row) (hrec : mergeRecord f m r row ≠ [])
    {p : Nat × Nat × Nat × Nat} (hp : p ∈ m.g.peers) (s : State) :
    (s.merging m f).Awaits .hport (m.place f.prog p.1 m.g.self r) (.merge f.ln m.round) := by
  have hsent : ((s.sendRound m f).setFlight { f with mrSent := f.mrSent + 1 }).Awaits .hport (m.place f.prog p.1 m.g.self r) (.merge f.ln m.round) :=
    (s.awaits_sendRound h hrec hp).of_out rfl
  unfold State.merging
  dsimp only
  split
  · exact hsent.mergeCounts nofun ..
  · exact hsent

/-- A round in which no row has a record counts at once. -/
theorem State.awaits_merging_count (h : s.flight ln = some f) (hm : mergeCtx f f.mrSent = some m)
    (hrec : ∀ (r : Nat) (row : RowState), f.rows[r]? = some row → mergeRecord f m r row = []) {p : Nat × Nat × Nat × Nat} (hp : p ∈ m.g.peers) :
    (s.merging m f).Awaits .hport p.2.1 (.mergeCnt ln m.round) := by
  have hempty : (f.roundRecords m).all (·.isEmpty) = true := by
    simp only [Flight.roundRecords, List.all_map, List.all_eq_true, Function.comp_apply, List.isEmpty_iff]
    exact fun q hq => hrec q.2 q.1 (List.mem_zipIdx_iff_getElem?.1 hq)
  have hfl : (s.sendRound m f).flights = s.flights := by rw [State.sendRound_frame]
  have hsent := Becomes.setFlight_of_flights (g := { f with mrSent := f.mrSent + 1 }) h hfl (State.flight_ln h :)
  obtain rfl := State.flight_ln h
  rw [State.merging, if_pos hempty, mergeCtx_round hm]
  exact State.awaits_mergeCounts hsent.1 hm hp

/-! The command. -/

section
variable (h : s.flight ln = some f) (hm : mergeCtx f f.mrSent = some m)
include h hm

theorem exec_xmerge_of_count (hp : f.past = false) (he : f.emitted = false) (hs : f.selected = true ∨ f.scored = true)
    (hk : f.prog.paired = true → f.klDone = true) (hr : f.mrSent = f.mrDone) (ho : f.merged = false)
    (hc : (m.rnd - 1) * m.g.c ≤ s.getF fXM_CNT) : exec (.xmerge ln) s = .next (s.merging m f) := by
  have hsel : (f.selected || f.scored) = true := by simpa using hs
  have hkl : (f.prog.paired && !f.klDone) = false := by
    cases hpair : f.prog.paired with
    | false => rfl
    | true => simp [hk hpair]
  change execXmerge ln s = _
  simp only [execXmerge, h, hm]
  rw [if_neg (by simp [hp, he, hsel, hkl, hr, ho, hc]), State.merging, State.flight_ln h]
  rfl

theorem exec_xmerge_of_early (hc : s.getF fXM_CNT < (m.rnd - 1) * m.g.c) : exec (.xmerge ln) s = .next s := by
  change execXmerge ln s = _
  simp only [execXmerge, h, hm]
  exact if_pos (by simp [hc])

end

end Sys2Proof.Machine
end

section
/-! SUPPORT. Registers outside the events' that the reads and refinements of a row leave (R22, R93, R121, R237). -/

namespace Sys2Proof.Machine

variable {s : State} {o : Nat} (h : OffEvents o)
include h

theorem State.sealEvents_reg (s : State) (stepId queue : Nat) (l : List SealEvent) (row : Nat) :
    (s.sealEvents stepId queue l row).reg o = s.reg o := by
  have hcount : ∀ (t : State) (far : FarX) (f : Fld), 0x7000 ≤ f.off → f.off < 0x7060 → ({ t with far := far }.addSat f 1).reg o = t.reg o :=
    fun t far f hlo hhi => State.reg_setF_other _ f _ (h.ne ⟨hlo, hhi⟩)
  unfold State.sealEvents
  refine foldl_keeps (π := fun t : State => t.reg o) (fun t e => ?_) l s
  dsimp only
  split
  · exact (State.coalesce_reg _ h ..).trans (hcount t _ fCE_SEAL (by decide) (by decide))
  · exact (State.post_reg _ h _).trans (hcount t _ fUE_POISON (by decide) (by decide))

theorem State.recordPoison_reg (s : State) (req n : Nat) (who : Who) (l : Loc) (cured : Bool) (row : Nat) :
    (s.recordPoison req n who l cured row).reg o = s.reg o := by
  unfold State.recordPoison
  split
  · dsimp only
    rw [State.poisonEvents_reg _ h]
    split <;> simp
  · rfl

theorem State.refineRead_reg (s : State) (f : Flight) (row : Nat) (v : PlaneView) (kind id : Nat) (loc : Loc) (n : Nat) (tms : Int)
    (cured : List RecRef) : (s.refineRead f row v kind id loc n tms cured).1.reg o = s.reg o :=
  (State.recordPoison_reg h ..).trans (State.sealEvents_reg h ..)

theorem State.refineBias_reg (s : State) (f : Flight) (row : Nat) (fuse : Option (F32 × Nat)) (id : Nat) :
    (s.refineBias f row fuse id).1.reg o = s.reg o := by
  unfold State.refineBias
  split
  · rfl
  · split
    · rfl
    · exact State.readHost_reg _ h ..

omit h in
theorem State.hurtRefine_reg (s : State) (r : RowState) (id : Nat) : (s.hurtRefine r id).1.reg o = s.reg o := by
  unfold State.hurtRefine
  split
  · split <;> rfl
  · rfl

theorem State.refineTok_reg (s : State) (f : Flight) (i : Nat) (v : PlaneView) (fuse : Option (F32 × Nat)) (r : RowState) (hr : HRow)
    (cured : List RecRef) (x : Tok) : (s.refineTok f i v fuse r hr cured x).1.reg o = s.reg o := by
  unfold State.refineTok
  split
  next t1 _ _ e1 =>
  split
  next t2 _ _ e2 =>
  split
  next t3 _ e3 =>
  split
  next t4 _ e4 =>
  have h2 : t2.reg o = s.reg o := calc
    t2.reg o = t1.reg o := (fst_keeps (π := fun t : State => t.reg o) e2).trans (State.refineRead_reg h ..)
    _ = s.reg o := (fst_keeps (π := fun t : State => t.reg o) e1).trans (State.refineRead_reg h ..)
  have h4 : t4.reg o = s.reg o := calc
    t4.reg o = t3.reg o := (fst_keeps (π := fun t : State => t.reg o) e4).trans (State.hurtRefine_reg ..)
    _ = t2.reg o := (fst_keeps (π := fun t : State => t.reg o) e3).trans (State.refineBias_reg h ..)
    _ = s.reg o := h2
  split
  · exact h4
  · split <;> exact h4

theorem State.refineList_reg (s : State) (f : Flight) (i : Nat) (r : RowState) (cured : List RecRef) (ids : List Nat) :
    (s.refineList f i r cured ids).1.reg o = s.reg o := by
  unfold State.refineList
  refine (foldl_fst_keeps (π := fun t : State => t.reg o) (fun p id => ?_) ids _).trans (State.readHost_reg _ h ..)
  split
  · rfl
  · split
    · rfl
    · exact State.refineTok_reg h ..

end Sys2Proof.Machine
end

section
/-! SUPPORT. The records of a row as a merge reads them (R184, R192): nothing that a read of a record depends on changes until one of them fails. -/

namespace Sys2Proof.Machine

variable {s t : State} {f : Flight} {m : MergeCtx} {i c : Nat} {wo : Option Nat}

/-- The records of row `i` in the receive area, by chip. -/
def State.records (s : State) (m : MergeCtx) (f : Flight) (i : Nat) : List (Array Byte) :=
  (List.range m.g.c).map fun c => (s.memAt (m.place f.prog m.g.rxBase c i) (m.slot f.prog)).toArray

/-- What R192 finds wrong with chip `c`'s record of row `i`. -/
def State.recordFault (s : State) (m : MergeCtx) (f : Flight) (i : Nat) (wo : Option Nat) (c : Nat) : Option Nat :=
  mergeBad m c wo (s.memAt (m.place f.prog m.g.rxBase c i) (m.slot f.prog)).toArray (s.peek (m.place f.prog m.g.rxBase c i) (m.slot f.prog)).2

/-- Every record of row `i` passes R192. -/
def State.RecordsPass (s : State) (m : MergeCtx) (f : Flight) (i : Nat) (wo : Option Nat) : Prop :=
  ∀ c, c < m.g.c → mergeBad m c wo ((s.records m f i).getD c #[]) (s.peek (m.place f.prog m.g.rxBase c i) (m.slot f.prog)).2 = none

theorem State.recordsPass_iff : s.RecordsPass m f i wo ↔ ∀ c ∈ List.range m.g.c, s.recordFault m f i wo c = none := by
  simp only [List.mem_range]
  refine forall₂_congr fun c hc => ?_
  rw [State.records, List.getD_eq_getElem?_getD, List.getElem?_map, List.getElem?_range hc]
  rfl

/-- One step of `State.mergeRow`: chip `c`'s record is read and checked. -/
def State.mergeStep (m : MergeCtx) (f : Flight) (i : Nat) (wo : Option Nat) (x : State × Option (List (Array Byte))) (c : Nat) :
    State × Option (List (Array Byte)) :=
  let (s, a, pois) := x.1.mergeRead m f c i
  match mergeBad m c wo a pois with
  | some k =>
    (s.post { s.event 8 1 1 [(36, leBytes 1 c), (37, leBytes 1 k), (40, leBytes 4 (m.rnd % 2 ^ 32))] with
      stepId := f.prog.stepId, queue := f.queue, row := i }, none)
  | none => (s, x.2.map fun l => l ++ [a])

theorem State.mergeRow_eq_foldl (s : State) (m : MergeCtx) (f : Flight) (i : Nat) (wo : Option Nat) :
    s.mergeRow m f i wo = (List.range m.g.c).foldl (State.mergeStep m f i wo) (s, some []) := rfl

theorem mergeBad_ne_none_of_poisoned (m : MergeCtx) (c : Nat) (wo : Option Nat) (a : Array Byte) : mergeBad m c wo a true ≠ none := by
  simp [mergeBad]

/-- A read that no odd granule disturbs posts nothing. -/
theorem State.readHost_of_good {a n : Nat} (h : (s.peek a n).2 = false) (req sev : Nat) (who : Who) (row : Nat) :
    (s.readHost req sev a n who row).1 = s.issueRead a n := by
  have hgood : ∀ g ∈ s.granules a n, ¬ poisons g.2 = true := by
    simp only [State.peek, List.any_eq_false, bne_iff_ne, not_not] at h
    intro g hg
    rw [h g hg]
    exact Bool.false_ne_true
  change (s.issueRead a n).poisonEvents req sev (s.granules a n) who row = _
  unfold State.poisonEvents
  refine List.foldlRecOn (motive := fun (t : State) => t = s.issueRead a n) _ _ rfl fun t ht g hg => ?_
  rw [if_pos (by simpa using hgood g hg), ht]

theorem State.mergeStep_of_good (h : s.recordFault m f i wo c = none) (acc : Option (List (Array Byte))) :
    State.mergeStep m f i wo (s, acc) c = (s.issueRead (m.place f.prog m.g.rxBase c i) (m.slot f.prog),
      acc.map fun l => l ++ [(s.memAt (m.place f.prog m.g.rxBase c i) (m.slot f.prog)).toArray]) := by
  have hclean : (s.peek (m.place f.prog m.g.rxBase c i) (m.slot f.prog)).2 = false := by
    by_contra hp
    rw [State.recordFault, Bool.eq_true_of_not_eq_false hp] at h
    exact mergeBad_ne_none_of_poisoned m c wo _ h
  have hread : s.mergeRead m f c i = (s.issueRead (m.place f.prog m.g.rxBase c i) (m.slot f.prog),
      (s.memAt (m.place f.prog m.g.rxBase c i) (m.slot f.prog)).toArray, (s.peek (m.place f.prog m.g.rxBase c i) (m.slot f.prog)).2) := by
    rw [← State.readHost_of_good hclean 5 1 f.who i]
    rfl
  rw [State.recordFault] at h
  simp only [State.mergeStep, hread, h]

theorem State.mergeStep_of_fault (h : s.recordFault m f i wo c ≠ none) (acc : Option (List (Array Byte))) :
    (State.mergeStep m f i wo (s, acc) c).2 = none := by
  obtain ⟨k, hk⟩ := Option.ne_none_iff_exists'.1 h
  change mergeBad m c wo (s.mergeRead m f c i).2.1 (s.mergeRead m f c i).2.2 = some k at hk
  simp only [State.mergeStep, hk]

/-- Once a record has failed, the row has none. -/
theorem State.mergeStep_none (x : State × Option (List (Array Byte))) (hx : x.2 = none) (l : List Nat) :
    (l.foldl (State.mergeStep m f i wo) x).2 = none := by
  refine List.foldlRecOn (motive := fun (x : State × Option (List (Array Byte))) => x.2 = none) l _ hx fun x hx c _ => ?_
  unfold State.mergeStep
  dsimp only
  split
  · rfl
  · simp [hx]

/-- What a read of a record depends on is as in `s`: only requests have been sent since. -/
def OnlyReads (s t : State) : Prop := t = { s with out := t.out, link := t.link }

theorem OnlyReads.issueRead (h : OnlyReads s t) (a n : Nat) : OnlyReads s (t.issueRead a n) := by
  unfold OnlyReads at h ⊢
  rw [State.issueRead_frame, h]

theorem OnlyReads.recordFault (h : OnlyReads s t) (c : Nat) : t.recordFault m f i wo c = s.recordFault m f i wo c := by
  rw [h]
  rfl

theorem OnlyReads.memAt (h : OnlyReads s t) (a n : Nat) : t.memAt a n = s.memAt a n := by
  rw [h]
  rfl

theorem OnlyReads.foldl_mergeStep_of_good {l : List Nat} (hl : ∀ c ∈ l, s.recordFault m f i wo c = none) (h : OnlyReads s t)
    (acc : List (Array Byte)) : (l.foldl (State.mergeStep m f i wo) (t, some acc)).2 =
      some (acc ++ l.map fun c => (s.memAt (m.place f.prog m.g.rxBase c i) (m.slot f.prog)).toArray) := by
  induction l generalizing t acc with
  | nil => simp
  | cons c l ih =>
    obtain ⟨hc, hl⟩ := List.forall_mem_cons.1 hl
    rw [List.foldl_cons, State.mergeStep_of_good (by rw [h.recordFault, hc]), Option.map_some, ih hl (h.issueRead ..), h.memAt]
    simp

theorem OnlyReads.foldl_mergeStep_of_fault {l : List Nat} (hl : ¬ ∀ c ∈ l, s.recordFault m f i wo c = none) (h : OnlyReads s t)
    (acc : List (Array Byte)) : (l.foldl (State.mergeStep m f i wo) (t, some acc)).2 = none := by
  induction l generalizing t acc with
  | nil => exact absurd (List.forall_mem_nil _) hl
  | cons c l ih =>
    rw [List.foldl_cons]
    by_cases hc : s.recordFault m f i wo c = none
    · rw [State.mergeStep_of_good (by rw [h.recordFault, hc])]
      exact ih (fun hgood => hl (List.forall_mem_cons.2 ⟨hc, hgood⟩)) (h.issueRead ..) _
    · exact State.mergeStep_none _ (State.mergeStep_of_fault (by rwa [h.recordFault]) _) l

theorem State.mergeRow_of_pass (h : s.RecordsPass m f i wo) : (s.mergeRow m f i wo).2 = some (s.records m f i) := by
  rw [State.mergeRow_eq_foldl, OnlyReads.foldl_mergeStep_of_good (State.recordsPass_iff.1 h) (show OnlyReads s s from rfl)]
  rfl

theorem State.mergeRow_of_fail (h : ¬ s.RecordsPass m f i wo) : (s.mergeRow m f i wo).2 = none := by
  rw [State.mergeRow_eq_foldl]
  exact OnlyReads.foldl_mergeStep_of_fault (fun hgood => h (State.recordsPass_iff.2 hgood)) (show OnlyReads s s from rfl) []

end Sys2Proof.Machine
end

section
/-! SUPPORT. What a merge of a row keeps, and what the row comes to in each case (R186 to R190, R192, R237). -/

namespace Sys2Proof.Machine

variable {s t : State} {f : Flight} {m : MergeCtx} {r : RowState} {i ln : Nat} {cured : List RecRef} {late : Bool}

/-! What stays. -/

/-- What no read, no event and no refinement of a merge changes: the holdings of a score phase, and the count of merge deliveries. -/
def State.mergeHoldings (s : State) : ScoreHoldings × Nat := (s.scoreHoldings, s.getF fXM_CNT)

theorem State.mergeHoldings_eq (h : t.scoreHoldings = s.scoreHoldings) (hreg : t.reg 0x5038 = s.reg 0x5038) :
    t.mergeHoldings = s.mergeHoldings :=
  Prod.ext h (State.getF_congr (f := fXM_CNT) hreg)

theorem offEvents_mergeCount : OffEvents 0x5038 := .inl (by decide)

theorem State.mergeStep_mergeHoldings (wo : Option Nat) (x : State × Option (List (Array Byte))) (c : Nat) :
    (State.mergeStep m f i wo x c).1.mergeHoldings = x.1.mergeHoldings := by
  have hread : (x.1.mergeRead m f c i).1.mergeHoldings = x.1.mergeHoldings :=
    State.mergeHoldings_eq (State.readHost_scoreHoldings ..) (State.readHost_reg _ offEvents_mergeCount ..)
  unfold State.mergeStep
  dsimp only
  split
  · exact (State.mergeHoldings_eq (State.post_scoreHoldings ..) (State.post_reg _ offEvents_mergeCount _)).trans hread
  · exact hread

theorem State.mergeRow_mergeHoldings (s : State) (m : MergeCtx) (f : Flight) (i : Nat) (wo : Option Nat) :
    (s.mergeRow m f i wo).1.mergeHoldings = s.mergeHoldings := by
  rw [State.mergeRow_eq_foldl]
  exact foldl_fst_keeps (State.mergeStep_mergeHoldings wo) _ _

theorem State.refineList_mergeHoldings (s : State) (f : Flight) (i : Nat) (r : RowState) (cured : List RecRef) (ids : List Nat) :
    (s.refineList f i r cured ids).1.mergeHoldings = s.mergeHoldings :=
  State.mergeHoldings_eq (State.refineList_scoreHoldings ..) (State.refineList_reg offEvents_mergeCount ..)

theorem State.refineScored_mergeHoldings (s : State) (f : Flight) (i : Nat) (r : RowState) (c : SelCtx) (cured : List RecRef) (choice : Option Nat) :
    (s.refineScored f i r c cured choice).1.mergeHoldings = s.mergeHoldings := by
  unfold State.refineScored
  split
  · rfl
  · dsimp only
    split
    · rfl
    · split
      · rfl
      · have hlist := State.refineList_mergeHoldings s f i r cured
        split
        · exact hlist _
        · split
          · exact hlist _
          · split <;> exact hlist _

theorem State.refineScored_mid (s : State) (f : Flight) (i : Nat) (r : RowState) (c : SelCtx) (cured : List RecRef) (choice : Option Nat) :
    (s.refineScored f i r c cured choice).2.1.mid = r.mid := by
  rcases (s.refineScored_spec f i r c cured choice).2 with h | ⟨y, h, -⟩
  · rw [h]
  · rw [h]

/-- The second pass of a row refines and scores, and keeps what the first round told of it. -/
theorem State.secondPass_spec (s : State) (f : Flight) (cured : List RecRef) (i : Nat) (r : RowState) (mid : MergeMid) :
    (s.secondPass f cured i r mid).1.mergeHoldings = s.mergeHoldings ∧ (s.secondPass f cured i r mid).2.mid = r.mid := by
  have hlist := State.refineList_mergeHoldings s f i r cured
  unfold State.secondPass
  dsimp only
  split
  · exact ⟨hlist _, rfl⟩
  · split
    · exact ⟨hlist _, rfl⟩
    · exact ⟨(State.refineScored_mergeHoldings ..).trans (hlist _), State.refineScored_mid ..⟩

theorem State.mergeFirst_mergeHoldings (s : State) (m : MergeCtx) (f : Flight) (cured : List RecRef) (i : Nat) (r : RowState) :
    (s.mergeFirst m f cured i r).1.mergeHoldings = s.mergeHoldings := by
  have hrow := State.mergeRow_mergeHoldings s m f i
  unfold State.mergeFirst
  dsimp only
  split
  · exact hrow _
  · split
    · exact hrow _
    · split
      · split
        · exact (State.secondPass_spec ..).1.trans (hrow _)
        · exact hrow _
      · exact (State.secondPass_spec ..).1.trans (hrow _)
      · exact hrow _

theorem State.mergeSecond_mergeHoldings (s : State) (m : MergeCtx) (f : Flight) (i : Nat) (r : RowState) :
    (s.mergeSecond m f i r).1.mergeHoldings = s.mergeHoldings := by
  have hrow := State.mergeRow_mergeHoldings s m f i
  unfold State.mergeSecond
  split
  · dsimp only
    split <;> exact hrow _
  · rfl

/-! The merged row. -/

/-- A row that has a token has the disposition and the token of the decision; the reference values change neither. -/
theorem mergedOut_made (f : Flight) (m : MergeCtx) (i : Nat) (r : RowState) (p : Parts) (x : Merged) {d : Disp} (h : d = .normal ∨ d = .tie) :
    (mergedOut f m i r p x d).disp = d ∧ (mergedOut f m i r p x d).token = x.token := by
  rcases h with rfl | rfl <;>
  · unfold mergedOut
    dsimp only
    split
    · exact ⟨rfl, rfl⟩
    · split
      · rw [genRef_frame]
        exact ⟨rfl, rfl⟩
      · rw [genRef_frame]
        exact ⟨rfl, rfl⟩

theorem mergedOut_disp (f : Flight) (m : MergeCtx) (i : Nat) (r : RowState) (p : Parts) (x : Merged) (d : Disp) :
    (mergedOut f m i r p x d).disp = d := by
  cases d with
  | poison => rfl
  | empty => rfl
  | tie => exact (mergedOut_made f m i r p x (.inr rfl)).1
  | normal => exact (mergedOut_made f m i r p x (.inl rfl)).1

/-! The first round. -/

/-- The row's record of the first round is that of R188, which a second round follows. -/
def RowState.twoRounds (r : RowState) (m : MergeCtx) : Bool := r.serve && m.two

theorem State.mergeFirst_of_fail (h : ¬ s.RecordsPass m f i (some (if r.twoRounds m then 24 else 44))) :
    (s.mergeFirst m f cured i r).2 = { r with merged := some (poisonOut f r) } := by
  have hrow := State.mergeRow_of_fail h
  rw [RowState.twoRounds] at hrow
  simp only [State.mergeFirst, hrow]

theorem State.mergeFirst_of_one_round (hr : r.twoRounds m = false) (h : s.RecordsPass m f i (some 44)) :
    (s.mergeFirst m f cured i r).2 = { r with merged := some (mergeRollout f m i r (s.records m f i)) } := by
  have hrow := State.mergeRow_of_pass h
  rw [RowState.twoRounds] at hr
  simp only [State.mergeFirst, hr, Bool.false_eq_true, if_false, hrow]
  rfl

section
variable (hr : r.twoRounds m = true) (h : s.RecordsPass m f i (some 24))
include hr h

/-- A row that takes part in the second round holds what the first told. -/
theorem State.mergeFirst_of_second (hd : (firstRound f (rowCtx f r) (s.records m f i)).disp = .normal ∨
      (firstRound f (rowCtx f r) (s.records m f i)).disp = .tie ∧ r.entry ≠ none) :
    (s.mergeFirst m f cured i r).2.mid = some (firstRound f (rowCtx f r) (s.records m f i)) := by
  have hrow := State.mergeRow_of_pass h
  rw [RowState.twoRounds] at hr
  simp only [State.mergeFirst, hr, if_true, hrow, Bool.not_true, Bool.false_eq_true, if_false]
  rcases hd with hd | ⟨hd, he⟩
  · simp only [hd]
    exact (State.secondPass_spec ..).2
  · simp only [hd, if_pos (Option.isSome_iff_ne_none.2 he)]
    exact (State.secondPass_spec ..).2

/-- A row that the first round decides has its disposition. -/
theorem State.mergeFirst_of_decided (he : r.entry = none) (hd : (firstRound f (rowCtx f r) (s.records m f i)).disp ≠ .normal) :
    ∃ o, (s.mergeFirst m f cured i r).2.merged = some o ∧ o.disp = (firstRound f (rowCtx f r) (s.records m f i)).disp := by
  have hrow := State.mergeRow_of_pass h
  rw [RowState.twoRounds] at hr
  simp only [State.mergeFirst, hr, if_true, hrow, Bool.not_true, Bool.false_eq_true, if_false]
  cases hdisp : (firstRound f (rowCtx f r) (s.records m f i)).disp with
  | normal => exact absurd hdisp hd
  | tie =>
    simp only [he, Option.isSome_none, Bool.false_eq_true, if_false]
    exact ⟨_, rfl, mergedOut_disp ..⟩
  | empty => exact ⟨_, rfl, mergedOut_disp ..⟩
  | poison => exact ⟨_, rfl, mergedOut_disp ..⟩

end

/-! The second round. -/

/-- The refined scores that the records of a second round bring, by token. -/
def secondScores (recs : List (Array Byte)) : List (Nat × F32) :=
  recs.flatMap fun b => (List.range (byteAt b 9)).map fun k => (leAt b (32 + 8 * k) 4, f32At b (36 + 8 * k))

theorem State.mergeSecond_of_pass {mid : MergeMid} (hmid : r.mid = some mid) (ho : r.merged = none) (h : s.RecordsPass m f i none) :
    ∃ o, (s.mergeSecond m f i r).2 = { r with merged := some o } ∧
      o.disp = (decideServe f (rowCtx f r) mid (secondScores (s.records m f i))).1 ∧
      (o.disp = .normal ∨ o.disp = .tie → o.token = (decideServe f (rowCtx f r) mid (secondScores (s.records m f i))).2.token) := by
  have hrow := State.mergeRow_of_pass h
  simp only [State.mergeSecond, hmid, ho, hrow]
  refine ⟨_, rfl, mergedOut_disp .., fun hd => ?_⟩
  rw [mergedOut_disp] at hd
  exact (mergedOut_made _ _ _ _ _ _ hd).2

end Sys2Proof.Machine
end

section
/-! SUPPORT. MERGE_ROUND_COMPLETE (R184, R191): the state in which it finds each row, and the state that it leaves. -/

namespace Sys2Proof.Machine

variable {s : State} {f : Flight} {m : MergeCtx} {ln : Nat} {cured : List RecRef} {late : Bool}

/-- One row at the end of a round. -/
def State.mergedRow (m : MergeCtx) (f : Flight) (cured : List RecRef) (s : State) (i : Nat) (r : RowState) : State × RowState :=
  if m.round = 0 then s.mergeFirst m f (curedMain cured) i r else s.mergeSecond m f i r

/-- The step once a round is merged. -/
def Flight.afterRound (f : Flight) (m : MergeCtx) (rows : List RowState) : Flight :=
  { f with rows := rows, mrDone := f.mrDone + 1, klDone := f.klDone && !(f.prog.paired && m.two && m.round == 0) }

theorem State.mergedRow_mergeHoldings (s : State) (i : Nat) (r : RowState) : (State.mergedRow m f cured s i r).1.mergeHoldings = s.mergeHoldings := by
  unfold State.mergedRow
  split
  · exact State.mergeFirst_mergeHoldings ..
  · exact State.mergeSecond_mergeHoldings ..

theorem State.overMergedRows_mergeHoldings (s : State) (rows : List RowState) :
    (s.overRows rows (State.mergedRow m f cured)).1.mergeHoldings = s.mergeHoldings :=
  State.overRows_keeps (fun t i r => t.mergedRow_mergeHoldings i r) rows

theorem Flight.timing_afterRound (f : Flight) (m : MergeCtx) (rows : List RowState) (cause : Nat) :
    (f.timing cause).afterRound m rows = (f.afterRound m rows).timing cause := by
  unfold Flight.timing Flight.breaks
  cases hc : f.collected with
  | false => simp [Flight.afterRound, hc]
  | true => cases htb : f.tb == 0 <;> simp [Flight.afterRound, hc, htb]

theorem State.finishScore_reg (s : State) (ln o : Nat) : (s.finishScore ln).reg o = s.reg o := by
  unfold State.finishScore
  split
  · rfl
  · dsimp only
    split
    · rfl
    · rw [State.setFlight_reg]
      split
      · exact State.writeHost_reg ..
      · rfl

section
variable (h : s.flight ln = some f) (hm : mergeCtx f f.mrDone = some m)
include h hm

theorem exec_mergeRoundComplete_of_count (hp : f.past = false) (he : f.emitted = false) (hr : f.mrDone < f.mrSent)
    (hc : m.rnd * m.g.c ≤ s.getF fXM_CNT) (ht : s.mergeTurn f = true) :
    let x := s.overRows f.rows (State.mergedRow m f cured)
    ∃ u g, exec (.mergeRoundComplete ln cured late) s = .next u ∧ PhaseEnd s x.1 ln (f.afterRound m x.2) u g ∧ u.getF fXM_CNT = s.getF fXM_CNT := by
  intro x
  have hkeep : x.1.mergeHoldings = s.mergeHoldings := State.overMergedRows_mergeHoldings ..
  obtain ⟨hscore, hcount⟩ := Prod.ext_iff.1 hkeep
  obtain ⟨g, hend⟩ := State.finishPhase_of_keeps (h := f.afterRound m x.2) h hscore (State.flight_ln h :) he
    (if late && m.two && m.round == 0 then 7 else 0)
  refine ⟨_, g, ?_, hend, (State.getF_congr (State.finishScore_reg ..)).trans hcount⟩
  change execMergeRoundComplete ln cured late s = _
  rw [← Flight.timing_afterRound]
  simp only [execMergeRoundComplete, h, hm]
  rw [if_neg (by simp [hp, he, hr, hc, ht])]
  have hpair : ∀ cause, (f.timing cause).prog = f.prog := fun cause => by rw [Flight.timing_frame]
  simp only [Flight.afterRound, hpair]
  rfl

theorem exec_mergeRoundComplete_of_early (hc : s.getF fXM_CNT < m.rnd * m.g.c) : exec (.mergeRoundComplete ln cured late) s = .next s := by
  change execMergeRoundComplete ln cured late s = _
  simp only [execMergeRoundComplete, h, hm]
  exact if_pos (by simp [hc])

end

end Sys2Proof.Machine
end

section
/-! SUPPORT. What a merge decides from the parts of a row (R135, R185 to R187): the disposition of the group, its sums, the best key, and the fields of a ROLLOUT record. -/

namespace Sys2Proof.Machine

/-! The group. -/

theorem groupDisp_eq (l : List Disp) : groupDisp l =
    if Disp.poison ∈ l then .poison else if Disp.tie ∈ l then .tie else if Disp.normal ∈ l then .normal else .empty := by
  simp only [groupDisp, List.contains_iff_mem]

theorem sumNat_eq_sum (l : List Nat) : sumNat l = l.sum := List.sum_eq_foldl_nat.symm

/-- The values of the chips whose part is `NORMAL`, of lists formed from one list of records. -/
theorem Parts.normal_map {α β : Type} (p : Parts) (l : List α) (disp : α → Disp) (value : α → β) (hp : p.disps = l.map disp) :
    p.normal (l.map value) = (l.filter fun a => disp a == .normal).map value := by
  rw [Parts.normal, hp]
  induction l generalizing p with
  | nil => rfl
  | cons a l ih =>
    have ih := ih ⟨l.map disp, p.sums, p.exts⟩ rfl
    simp only [List.map_cons, List.zip_cons_cons, List.filterMap_cons, List.filter_cons, ih]
    cases disp a == .normal <;> rfl

/-! Sorting. -/

section
variable {α : Type} {le : α → α → Bool} {x y : α} {l : List α}

theorem mem_insOne : y ∈ insOne le x l ↔ y = x ∨ y ∈ l := by
  induction l with
  | nil => simp [insOne]
  | cons z l ih =>
    rw [insOne]
    split
    · simp
    · simp only [List.mem_cons, ih]
      tauto

theorem mem_insSort : y ∈ insSort le l ↔ y ∈ l := by
  induction l with
  | nil => rfl
  | cons z l ih => rw [insSort, mem_insOne, ih, List.mem_cons]

/-- What comes before every other element stands at the head of the sorted list. -/
theorem head?_insSort (hx : x ∈ l) (hfirst : ∀ y ∈ l, y ≠ x → le x y = true ∧ le y x = false) : (insSort le l).head? = some x := by
  induction l with
  | nil => simp at hx
  | cons z l ih =>
    have hl : ∀ y ∈ l, y ≠ x → le x y = true ∧ le y x = false := fun y hy => hfirst y (List.mem_cons_of_mem _ hy)
    rw [insSort]
    by_cases hz : z = x
    · subst hz
      cases hs : insSort le l with
      | nil => rfl
      | cons y s =>
        rw [insOne]
        by_cases hy : y = z
        · split <;> simp [hy]
        · rw [if_pos (hl y (mem_insSort.1 (by rw [hs]; exact List.mem_cons_self)) hy).1]
          rfl
    · have hhead := ih (List.mem_of_ne_of_mem (Ne.symm hz) hx) hl
      obtain ⟨s, hs⟩ : ∃ s, insSort le l = x :: s := List.head?_eq_some_iff.1 hhead
      rw [hs, insOne, if_neg (by rw [(hfirst z List.mem_cons_self hz).2]; exact Bool.false_ne_true)]
      rfl

end

/-- The best of a list is the one with the highest key, and among equals with the lowest id. -/
theorem bestOf_eq {l : List (Nat × F32 × Nat)} {x : Nat × F32 × Nat} (hx : x ∈ l) (hbest : ∀ y ∈ l, y ≠ x →
      orderKey y.2.1 < orderKey x.2.1 ∨ orderKey y.2.1 = orderKey x.2.1 ∧ x.1 < y.1) : bestOf l = some x := by
  refine head?_insSort hx fun y hy hne => ?_
  rcases hbest y hy hne with h | ⟨h, hid⟩
  · simp [h, h.ne, not_lt.2 h.le]
  · simp [h, hid, hid.le]

/-! A ROLLOUT row. -/

section
variable {f : Flight} {m : MergeCtx} {r : RowState}

/-- The logprob and the tie count of a tied row that scores no token. -/
theorem mergedOut_tie (he : r.entry = none) (hp : f.prog.paired = false) (i : Nat) (p : Parts) (x : Merged) :
    (mergedOut f m i r p x .tie).tieN = x.tieN ∧ (mergedOut f m i r p x .tie).lp = negLn f.compat x.tieN := by
  simp [mergedOut, he, hp]

/-- The logprob of a `NORMAL` row that scores no token: its token's working score over the partitions of the parts that are `NORMAL`. -/
theorem mergedOut_normal_lp (he : r.entry = none) (hp : f.prog.paired = false) (i : Nat) (p : Parts) (x : Merged) :
    (mergedOut f m i r p x .normal).lp =
      logprobOf (x.z.getD fNan) (groupSums f.compat (p.normal p.sums) []).a (groupSums f.compat (p.normal p.sums) []).s := by
  simp [mergedOut, reportZ, he, hp, groupSums]

end

/-- The chips whose part of a row has a winner, each with its token, its key and its number. -/
def rolloutWins (recs : List (Array Byte)) : List (Nat × F32 × Nat) :=
  recs.zipIdx.filterMap fun q =>
    if dispOfCode (byteAt q.1 9) == .normal && leAt q.1 12 4 != 0xFFFFFFFF then some (leAt q.1 12 4, f32At q.1 16, q.2) else none

/-- Chip `k`'s part of a row has a winner. -/
def HasWinner (recs : List (Array Byte)) (k : Nat) : Prop :=
  k < recs.length ∧ dispOfCode (byteAt (recs.getD k #[]) 9) = .normal ∧ leAt (recs.getD k #[]) 12 4 ≠ 0xFFFFFFFF

/-- Chip `k`'s winner as the merge lists it. -/
def winnerOf (recs : List (Array Byte)) (k : Nat) : Nat × F32 × Nat := (leAt (recs.getD k #[]) 12 4, f32At (recs.getD k #[]) 16, k)

theorem mem_rolloutWins {recs : List (Array Byte)} {y : Nat × F32 × Nat} : y ∈ rolloutWins recs ↔ ∃ k, HasWinner recs k ∧ winnerOf recs k = y := by
  simp only [rolloutWins, List.mem_filterMap, Prod.exists, List.mem_zipIdx_iff_getElem?]
  constructor
  · rintro ⟨a, k, ha, hy⟩
    obtain ⟨hlt, -⟩ := List.getElem?_eq_some_iff.1 ha
    split at hy
    next hwin =>
      simp only [Bool.and_eq_true, beq_iff_eq, bne_iff_ne] at hwin
      refine ⟨k, ⟨hlt, ?_⟩, ?_⟩
      · rwa [getD_of_getElem? ha]
      · rw [winnerOf, getD_of_getElem? ha]
        exact Option.some.inj hy
    · simp at hy
  · rintro ⟨k, ⟨hlt, hd, hid⟩, rfl⟩
    have hwin : (dispOfCode (byteAt (recs.getD k #[]) 9) == .normal && leAt (recs.getD k #[]) 12 4 != 0xFFFFFFFF) = true := by
      rw [hd, bne_iff_ne.2 hid]
      rfl
    exact ⟨recs.getD k #[], k, by simp [hlt], if_pos hwin⟩

section
variable {f : Flight} {m : MergeCtx} {r : RowState} {recs : List (Array Byte)}

theorem mergeRollout_disp (f : Flight) (m : MergeCtx) (i : Nat) (r : RowState) (recs : List (Array Byte)) :
    (mergeRollout f m i r recs).disp = groupDisp (recs.map fun a => dispOfCode (byteAt a 9)) := mergedOut_disp ..

variable (he : r.entry = none) (hp : f.prog.paired = false)
include he hp

theorem mergeRollout_tie (i : Nat) (hd : groupDisp (recs.map fun a => dispOfCode (byteAt a 9)) = .tie) :
    (mergeRollout f m i r recs).tieN = (recs.map fun a => leAt a 32 4).sum ∧
    (mergeRollout f m i r recs).lp = negLn f.compat (mergeRollout f m i r recs).tieN := by
  unfold mergeRollout
  dsimp only
  rw [hd]
  exact ⟨(mergedOut_tie he hp ..).1.trans (sumNat_eq_sum _), (mergedOut_tie he hp ..).2.trans (by rw [(mergedOut_tie he hp ..).1])⟩

/-- The chip whose winner is the best decides a `NORMAL` row. -/
theorem mergeRollout_normal (i : Nat) (hd : groupDisp (recs.map fun a => dispOfCode (byteAt a 9)) = .normal) {k : Nat} (hk : HasWinner recs k)
    (hfirst : ∀ j, HasWinner recs j → j ≠ k → orderKey (winnerOf recs j).2.1 < orderKey (winnerOf recs k).2.1 ∨
      orderKey (winnerOf recs j).2.1 = orderKey (winnerOf recs k).2.1 ∧ (winnerOf recs k).1 < (winnerOf recs j).1) :
    let g := groupSums f.compat ((recs.filter fun a => dispOfCode (byteAt a 9) == .normal).map fun a => (f32At a 24, f32At a 28)) []
    (mergeRollout f m i r recs).token = some (leAt (recs.getD k #[]) 12 4) ∧
    (mergeRollout f m i r recs).lp = logprobOf (f32At (recs.getD k #[]) 20) g.a g.s := by
  intro g
  have hbest : bestOf (rolloutWins recs) = some (winnerOf recs k) := by
    refine bestOf_eq (mem_rolloutWins.2 ⟨k, hk, rfl⟩) fun y hy hne => ?_
    obtain ⟨j, hj, rfl⟩ := mem_rolloutWins.1 hy
    exact hfirst j hj fun hjk => hne (by rw [hjk])
  rw [rolloutWins] at hbest
  have htie : (Disp.normal == Disp.tie) = false := rfl
  unfold mergeRollout
  dsimp only
  rw [hd]
  simp only [htie, Bool.false_eq_true, if_false, hbest]
  refine ⟨(mergedOut_made _ _ _ _ _ _ (.inl rfl)).2, (mergedOut_normal_lp he hp ..).trans ?_⟩
  rw [Parts.normal_map _ recs (fun a => dispOfCode (byteAt a 9)) (fun a => (f32At a 24, f32At a 28)) rfl]
  rfl

end

/-! The record of a ROLLOUT row. -/

theorem drop_leBytes_append {k n : Nat} (v : Nat) (rest : List Byte) (h : k ≤ n) : (leBytes k v ++ rest).drop n = rest.drop (n - k) := by
  rw [List.drop_append, List.drop_eq_nil_of_le (by simpa using h), List.nil_append, leBytes_length]

theorem take_leBytes_append (k v : Nat) (rest : List Byte) : (leBytes k v ++ rest).take k = leBytes k v := List.take_left' (leBytes_length k v)

theorem rolloutRecord_fields {f : Flight} {m : MergeCtx} {i : Nat} {r : RowState} {o : RowOut} {scr : RowScreen} (ho : r.out = some o)
    (hscr : r.scr = some scr) (hd : o.disp = .normal) : let st := rowStats f r scr
    ((rolloutRecord f m i r).drop 9).take 1 = leBytes 1 0 ∧ ((rolloutRecord f m i r).drop 12).take 4 = leBytes 4 (o.token.getD 0xFFFFFFFF) ∧
    ((rolloutRecord f m i r).drop 24).take 4 = f32Bytes (partA st.mStar st.sStar) ∧
    ((rolloutRecord f m i r).drop 28).take 4 = f32Bytes (((XR.of st.mStar).sub (.fin ⟨st.mom, Nat.max 1 st.sStar⟩)).toF32 .even) := by
  intro st
  have hpart : r.part f = o := by rw [RowState.part, ho, Option.getD_some]
  have hstats : partStats f r = some (partA st.mStar st.sStar, ((XR.of st.mStar).sub (.fin ⟨st.mom, Nat.max 1 st.sStar⟩)).toF32 .even) := by
    simp only [partStats, hscr, st]
  simp only [rolloutRecord, recHead, hpart, hstats, hd, f32Bytes, List.append_assoc]
  refine ⟨?_, ?_, ?_, ?_⟩ <;> simp [drop_leBytes_append, Disp.code]

end Sys2Proof.Machine
end

section
/-! PROOF. Rounds of a chip group (R184 to R187, R190 to R192). -/

namespace Sys2Proof.Machine

variable {s : State} {f : Flight} {m : MergeCtx} {row : RowState}

/-- What the statement says of a row that a round has merged into `got`, met in the state `a`. -/
def RowMerged (a : State) (f : Flight) (m : MergeCtx) (i : Nat) (row got : RowState) : Prop :=
  let recs := a.records m f i
  let mid := firstRound f (rowCtx f row) recs
  (m.round = 0 → row.twoRounds m = false → a.RecordsPass m f i (some 44) → got = { row with merged := some (mergeRollout f m i row recs) }) ∧
  (m.round = 0 → ¬ a.RecordsPass m f i (some (if row.twoRounds m then 24 else 44)) → got = { row with merged := some (poisonOut f row) }) ∧
  (m.round = 0 → row.twoRounds m = true → a.RecordsPass m f i (some 24) → mid.disp = .normal ∨ mid.disp = .tie ∧ row.entry ≠ none →
    got.mid = some mid) ∧
  (m.round = 0 → row.twoRounds m = true → a.RecordsPass m f i (some 24) → row.entry = none → mid.disp ≠ .normal →
    ∃ o, got.merged = some o ∧ o.disp = mid.disp) ∧
  ∀ mid, m.round ≠ 0 → row.mid = some mid → row.merged = none → a.RecordsPass m f i none →
    ∃ o, got = { row with merged := some o } ∧ o.disp = (decideServe f (rowCtx f row) mid (secondScores recs)).1 ∧
      (o.disp = .normal ∨ o.disp = .tie → o.token = (decideServe f (rowCtx f row) mid (secondScores recs)).2.token)

theorem rowMerged_mergedRow (a : State) (f : Flight) (m : MergeCtx) (cured : List RecRef) (i : Nat) (row : RowState) :
    RowMerged a f m i row (State.mergedRow m f cured a i row).2 := by
  have hfirst (h : m.round = 0) : State.mergedRow m f cured a i row = a.mergeFirst m f (curedMain cured) i row := if_pos h
  have hsecond (h : m.round ≠ 0) : State.mergedRow m f cured a i row = a.mergeSecond m f i row := if_neg h
  refine ⟨fun hr => ?_, fun hr => ?_, fun hr => ?_, fun hr => ?_, fun mid hr => ?_⟩
  · rw [hfirst hr]
    exact State.mergeFirst_of_one_round
  · rw [hfirst hr]
    exact State.mergeFirst_of_fail
  · rw [hfirst hr]
    exact State.mergeFirst_of_second
  · rw [hfirst hr]
    exact State.mergeFirst_of_decided
  · rw [hsecond hr]
    exact State.mergeSecond_of_pass

/-- Settles O45: XMERGE's messages are followed into the requests outstanding, each row is met in the state that the rows before it leave, and the merged values are read from its records. -/
theorem mergeRoundsFollowTheCount : Obligations.MergeRoundsFollowTheCount := by
  unfold Obligations.MergeRoundsFollowTheCount
  refine ⟨fun s ln f m h hp he => ⟨fun hm hs hk hr ho => ⟨fun hc => ?send, exec_xmerge_of_early h hm⟩,
    fun hm hr cured late => ⟨fun hc ht => ?merge, exec_mergeRoundComplete_of_early h hm⟩⟩, groupDisp_eq, ?sums,
    fun f m i r o scr => rolloutRecord_fields, fun f m i r recs he hp => ⟨mergeRollout_disp f m i r recs, mergeRollout_tie he hp i, ?normal⟩⟩
  case send =>
    obtain rfl := State.flight_ln h
    exact ⟨_, exec_xmerge_of_count h hm hp he hs hk hr ho hc, State.becomes_merging h m, fun p hpeer r row hrow hrec => s.awaits_merging hrow hrec hpeer,
      fun hrec p hpeer => State.awaits_merging_count h hm hrec hpeer, State.merging_frame s m f⟩
  case merge =>
    obtain ⟨u, g, hexec, hend, hcount⟩ := exec_mergeRoundComplete_of_count (cured := cured) (late := late) h hm hp he hr hc ht
    have hlen : g.rows.length = f.rows.length := by rw [hend.rows]; exact State.length_overRows f.rows
    have hdone : g.mrDone = f.mrDone + 1 := by rw [hend.frame]; rfl
    have hsent : g.mrSent = f.mrSent := by rw [hend.frame]; rfl
    refine ⟨u, g, hexec, hend.becomes, hdone, hsent, hlen, hcount, fun i row hrow => ?_, hend.pad, hend.fuses⟩
    have hgot := getD_of_getElem? (d := default) ((congrArg (·[i]?) hend.rows).trans (State.overRows_getElem? hrow))
    have hmerged := rowMerged_mergedRow (s.overRows (f.rows.take i) (State.mergedRow m f cured)).1 f m cured i row
    rw [← hgot] at hmerged
    exact hmerged
  case sums => exact fun compat l rl => ⟨rfl, sumNat_eq_sum _⟩
  case normal =>
    intro hd k hk hnorm hid hfirst
    exact mergeRollout_normal he hp i hd ⟨hk, hnorm, hid⟩ fun j hj hne => hfirst j hj.1 hj.2.1 hj.2.2 hne

end Sys2Proof.Machine
end

section
/-! SUPPORT. Writes in the sync region (R184, R408, R409): which word each reaches, and what it leaves of it. -/

namespace Sys2Proof.Machine

variable {s t : State} {snd : Sender} {off : Nat} {v : Word64}

/-! The word that a write leaves. -/

theorem getBits_all (w : Word64) : getBits w 0 64 = w.toNat := by
  have := w.isLt
  rw [getBits]
  omega

/-- A write of a register with one RW field over its whole word leaves the word of the write. -/
theorem State.merged_of_word (s : State) (v : Word64) (h : regFields off = [⟨0, 64, .rw, .all⟩]) : s.merged off v = v := by
  have hbits : getBits (s.merged off v) 0 64 = getBits v 0 64 :=
    s.getBits_merged_taken (f := ⟨0, 64, .rw, .all⟩) v (by rw [h]; exact List.mem_cons_self) rfl
  rw [getBits_all, getBits_all] at hbits
  exact BitVec.eq_of_toNat_eq hbits

/-- A write of a register that has RO fields only leaves its word. -/
theorem State.merged_of_ro (s : State) (v : Word64) (h : ∀ f ∈ regFields off, f.acc = .ro) : s.merged off v = s.reg off := by
  rw [s.merged_eq_foldl]
  refine List.foldlRecOn (motive := fun w => w = s.reg off) _ _ rfl fun w hw f hf => ?_
  rw [State.mergeField, h f hf, if_neg (by simp [State.takes]), if_neg (by decide), hw]

/-- A one-bit RW field, as a flag. -/
theorem State.storeReplied_flag_rw (t : State) (v : Word64) (snd : Sender) (l : Nat) (r : Rng) (hf : ⟨l, 1, .rw, r⟩ ∈ regFields off) :
    (t.storeReplied off v snd).flag ⟨off, l, 1⟩ = v.getLsbD l := by
  rw [← getBits_one_beq, State.flag]
  exact congrArg (· == 1) (t.storeReplied_getF_rw v snd l 1 r hf)

/-- A 1 in a W1C bit clears it. -/
theorem State.getBits_merged_w1c (s : State) {l : Nat} {r : Rng} (hf : ⟨l, 1, .w1c, r⟩ ∈ regFields off) (hv : v.getLsbD l = true) :
    getBits (s.merged off v) l 1 = 0 := by
  obtain ⟨w, -, h⟩ := s.getBits_merged v hf
  have hone : getBits v l 1 = 1 := by
    rw [← getBits_one_beq] at hv
    exact beq_iff_eq.1 hv
  have hlt := getBits_lt w l 1
  dsimp only at h
  rw [h, State.mergeField, if_neg (by simp [State.takes]), if_pos rfl, getBits_setBits_same _ _ _ _ ((regFields_ascend off).2 _ hf), hone]
  dsimp only
  interval_cases getBits w l 1 <;> rfl

/-! Where the write goes. -/

theorem exec_syncRegisterWrite (h : off < 0x50) :
    exec (.syncRegisterWrite off v snd) s = exec (.registerWrite (0x5000 + off) (.put v) snd) s := by
  change State.putCommand s (decide (off < 0x50)) (0x5000 + off) v snd = _
  rw [State.putCommand, if_pos (decide_eq_true h)]
  rfl

theorem exec_mismatchClear : exec (.mismatchClear v snd) s = exec (.registerWrite 0x5028 (.put v) snd) s := rfl

theorem State.writeReg_sync (hlo : 0x5000 ≤ off) (hhi : off < 0x5050) (hr : t.rangeOk off v = true) (out : Option TestOut) :
    t.writeReg off v out = t.writeSync off v := by
  have hne : ∀ o ∈ [rGCTL, rLIFECYCLE, rMBOX_ARG, rMBOX_CMD, rARB_COMMIT], off ≠ o := by
    have hbelow : ∀ o ∈ [rGCTL, rLIFECYCLE, rMBOX_ARG, rMBOX_CMD, rARB_COMMIT], o < 0x5000 := by decide
    intro o ho
    have := hbelow o ho
    omega
  simp only [List.forall_mem_cons] at hne
  obtain ⟨h1, h2, h3, h4, h5, -⟩ := hne
  rw [State.writeReg, if_neg (by simp [hr]), if_neg h1, if_neg h2, if_neg h3, if_neg h4, if_neg (by omega), if_neg h5, if_pos ⟨hlo, hhi⟩]

/-- What the rules of the sync region refuse is refused, in range or not. -/
theorem State.writeReg_sync_refused (hlo : 0x5000 ≤ off) (hhi : off < 0x5050) (hw : t.writeSync off v = none) (out : Option TestOut) :
    t.writeReg off v out = none := by
  cases hr : t.rangeOk off v with
  | false => exact State.writeReg_of_range hr out
  | true => rw [State.writeReg_sync hlo hhi hr, hw]

/-- The words of the region whose write does no more than store. -/
theorem State.writeSync_stored (h : off ∉ [0x5010, 0x5020, 0x5028, 0x5030, 0x5048]) : t.writeSync off v = some (t.storeWord off v) := by
  simp only [List.mem_cons, List.not_mem_nil, or_false, not_or] at h
  obtain ⟨h1, h2, h3, h4, h5⟩ := h
  rw [State.writeSync, if_neg h1, if_neg (not_or.2 ⟨h2, h4⟩), if_neg h3, if_neg h5]

theorem State.writeSync_barrier (t : State) (v : Word64) :
    t.writeSync 0x5010 v = if t.barrierWaits then none else some (t.storeWord 0x5010 v) := rfl

/-- `LOCKSTEP_CTL` and `DIGEST_PEER` are written while nothing is in flight (R409). -/
theorem State.writeSync_lockstep (t : State) (v : Word64) (h : off = 0x5020 ∨ off = 0x5030) :
    t.writeSync off v = if t.flights.isEmpty then some (t.storeWord off v) else none := by
  rw [State.writeSync, if_neg (by omega), if_pos h]

theorem plainReg_sync (hoff : off < 0x50) (h8 : off % 8 = 0) : plainReg (0x5000 + off) = true := by
  simp only [plainReg, inRegion, inHalter, inPaddock, inCampion, Bool.and_eq_true, Bool.or_eq_true, Bool.not_eq_true', beq_iff_eq,
    decide_eq_true_eq, decide_eq_false_iff_not]
  omega

/-! The commands. -/

section
variable (h : Heard s snd t) (hoff : off < 0x50) (h8 : off % 8 = 0)
include h hoff h8

theorem exec_sync_taken {u : State} (hr : t.rangeOk (0x5000 + off) v = true) (hw : t.writeSync (0x5000 + off) v = some u) :
    exec (.syncRegisterWrite off v snd) s = .next ((u.answer rOK []).replied snd opWR 1) := by
  rw [exec_syncRegisterWrite hoff, exec_registerWrite_heard h, State.accessTo,
    t.putTo_plain_some _ (plainReg_sync hoff h8) v snd none ((State.writeReg_sync (by omega) (by omega) hr none).trans hw)]
  rfl

theorem exec_sync_refused (hw : t.writeSync (0x5000 + off) v = none) :
    exec (.syncRegisterWrite off v snd) s = .next ((t.answer rACCESS []).replied snd opWR 1) := by
  rw [exec_syncRegisterWrite hoff]
  exact exec_put_refused h (plainReg_sync hoff h8) (State.writeReg_sync_refused (by omega) (by omega) hw none)

/-- A write that is only stored. -/
theorem exec_sync_stored (hr : t.rangeOk (0x5000 + off) v = true) (hw : t.writeSync (0x5000 + off) v = some (t.storeWord (0x5000 + off) v)) :
    exec (.syncRegisterWrite off v snd) s = .next (t.storeReplied (0x5000 + off) v snd) :=
  exec_sync_taken h hoff h8 hr hw

end

/-- Values of `BAR_ROLE` up to 2 are in range. -/
theorem State.rangeOk_barrier (h : getBits v 1 2 ≤ 2) : t.rangeOk 0x5010 v = true := by
  have hrows : regFields 0x5010 = [⟨0, 1, .rw, .all⟩, ⟨1, 2, .rw, .between 0 2⟩, ⟨4, 12, .rw, .all⟩] := by decide
  refine t.rangeOk_of_ok ?_
  rw [hrows]
  simpa [Rng.ok] using h

/-! The count of merge deliveries (R184). -/

theorem mergeCount_row : regFields 0x5038 = [⟨0, 64, .rw, .all⟩] := by decide

theorem State.writeReg_mergeCount (t : State) (v : Word64) : t.writeReg 0x5038 v none = some (t.storeWord 0x5038 v) :=
  (State.writeReg_sync (by decide) (by decide) (t.rangeOk_of_unbounded v (by decide)) none).trans (State.writeSync_stored (by decide))

theorem State.readReg_mergeCount (t : State) : t.readReg 0x5038 = (t, t.reg 0x5038) := by
  have hmask : readMask 0x5038 = BitVec.allOnes 64 := by decide
  rw [t.readReg_eq (by decide), t.clearRc_of_no_rc (by rw [mergeCount_row]; decide), hmask, BitVec.and_allOnes]
  rfl

theorem State.keyAt_mergeCount (t : State) : t.keyAt 0x5038 = none := by simp [State.keyAt]

theorem State.atomFields_mergeCount (t : State) : t.atomFields 0x5038 = [(0, 64)] := by
  rw [State.atomFields, t.keyAt_mergeCount, if_neg (by decide), if_neg (by decide), if_neg (by decide), mergeCount_row]
  rfl

theorem State.atomMask_mergeCount (t : State) : t.atomMask 0x5038 = BitVec.allOnes 64 := by
  rw [State.atomMask, t.keyAt_mergeCount, if_neg (by decide), if_neg (by decide), mergeCount_row]
  decide

/-- The word that FADD of `v` writes to `XM_CNT`. -/
def State.mergeCountSum (t : State) (v : Word64) : Word64 := addFields (t.atomFields 0x5038) (t.reg 0x5038) v &&& t.atomMask 0x5038

theorem State.mergeCountSum_toNat (t : State) (v : Word64) : (t.mergeCountSum v).toNat = (t.getF fXM_CNT + v.toNat) % 2 ^ 64 := by
  rw [State.mergeCountSum, t.atomMask_mergeCount, BitVec.and_allOnes, t.atomFields_mergeCount]
  simp only [addFields, List.foldl_cons, List.foldl_nil]
  rw [← getBits_all, getBits_setBits_same _ _ _ _ (by decide), Nat.mod_mod, getBits_all v]
  rfl

theorem exec_mergeCount_fadd (h : Heard s snd t) (y : Word64) :
    exec (.registerWrite 0x5038 (.atom 1 v y) snd) s =
      .next (((t.storeWord 0x5038 (t.mergeCountSum v)).answer rOK [t.reg 0x5038]).replied snd opATOM 1) := by
  have hmask : t.atomMask 0x5038 ≠ 0 := by rw [t.atomMask_mergeCount]; decide
  have hatom := State.atomWord_fadd_plain (t := t) (off := 0x5038) (snd := snd) (v := v) (y := y) (u := t.storeWord 0x5038 (t.mergeCountSum v))
    (by decide) (by rw [t.readReg_mergeCount]) hmask (by rw [t.readReg_mergeCount]; exact t.writeReg_mergeCount _)
  rw [exec_registerWrite_heard h, State.accessTo, hatom, t.readReg_mergeCount]
  rfl

theorem State.getF_mergeCount_fadd (t : State) (v : Word64) :
    (t.storeWord 0x5038 (t.mergeCountSum v)).getF fXM_CNT = (t.getF fXM_CNT + v.toNat) % 2 ^ 64 := calc
  (t.storeWord 0x5038 (t.mergeCountSum v)).getF fXM_CNT = getBits (t.merged 0x5038 (t.mergeCountSum v)) 0 64 :=
      congrArg (getBits · 0 64) (t.reg_setReg_same 0x5038 _)
  _ = (t.mergeCountSum v).toNat := by rw [t.merged_of_word _ mergeCount_row, getBits_all]
  _ = (t.getF fXM_CNT + v.toNat) % 2 ^ 64 := t.mergeCountSum_toNat v

end Sys2Proof.Machine
end

section
/-! SUPPORT. The comparison of digests (R435, R436): what a delivery comes to, a difference, and a write that clears it. -/

namespace Sys2Proof.Machine

variable {s t : State} {snd : Sender} {v lo hi : Word64} {f : Flight} {ln : Nat}

/-! Every queue's state. -/

theorem State.refreshAll_frame (s : State) : s.refreshAll = { s with regs := s.refreshAll.regs } := by
  unfold State.refreshAll
  refine List.foldlRecOn (motive := fun (t : State) => t = { s with regs := t.regs }) _ _ rfl fun t ht q _ => ?_
  rw [State.refresh_frame, ht]

/-- Refreshing the queues leaves the registers of other regions. -/
theorem State.refreshAll_reg {o : Nat} (h : ∀ q, o ≠ rQ q + 0x20) (s : State) : s.refreshAll.reg o = s.reg o :=
  foldl_keeps (π := fun t : State => t.reg o) (fun t q => t.refresh_reg q (h q)) _ s

theorem lockstepStat_ne_queue (q : Nat) : rLOCKSTEP_STAT ≠ rQ q + 0x20 := by
  simp only [rLOCKSTEP_STAT, rQ]
  omega

/-! A difference. -/

theorem State.raise_reg {o : Nat} (h : OffEvents o) (s : State) (x : Exc) (e : EvRec) : (s.raise x e).reg o = s.reg o := by
  unfold State.raise
  split
  · dsimp only
    rw [State.coalesce_reg _ h]
    exact State.reg_setF_other _ fEXQ_DROPS _ (h.ne (by decide))
  · exact State.reg_setF_other _ fEXQ_HIGH _ (h.ne (by decide))

theorem State.endCompare_reg (s : State) (f : Flight) (o : Nat) : (s.endCompare f).reg o = s.reg o := rfl

/-- The registers of a difference: `LOCKSTEP_STAT` with the mismatch, its tile and its step. -/
theorem State.mismatchAt_stat (s : State) (f : Flight) (first : Nat) : (s.mismatchAt f first).reg rLOCKSTEP_STAT =
    (((s.setF fMISMATCH 1).setF fFIRST_TILE first).setF fLS_STEP_ID f.prog.stepId).reg rLOCKSTEP_STAT := by
  have hoff : OffEvents rLOCKSTEP_STAT := .inl (by decide)
  unfold State.mismatchAt
  dsimp only
  rw [State.refreshAll_reg lockstepStat_ne_queue, State.endCompare_reg, State.raise_reg hoff, State.post_reg _ hoff]

theorem State.mismatchAt_mismatch (s : State) (f : Flight) (first : Nat) : (s.mismatchAt f first).mismatch = true := by
  have hflag : (((s.setF fMISMATCH 1).setF fFIRST_TILE first).setF fLS_STEP_ID f.prog.stepId).flag fMISMATCH = true := by
    rw [State.flag_setF_other _ _ _ (by decide) (.inr (.inl (by decide))), State.flag_setF_other _ _ _ (by decide) (.inr (.inl (by decide))),
      State.flag_setF_same _ _ _ (by decide)]
    rfl
  exact (State.flag_congr (s.mismatchAt_stat f first)).trans hflag

theorem State.mismatchAt_tile (s : State) (f : Flight) {first : Nat} (h : first < 2 ^ 24) : (s.mismatchAt f first).getF fFIRST_TILE = first := by
  have htile : (((s.setF fMISMATCH 1).setF fFIRST_TILE first).setF fLS_STEP_ID f.prog.stepId).getF fFIRST_TILE = first := by
    rw [State.getF_setF_other _ _ _ (by decide) (.inr (.inl (by decide))), State.getF_setF_same _ _ _ (by decide)]
    exact Nat.mod_eq_of_lt h
  exact (State.getF_congr (s.mismatchAt_stat f first)).trans htile

theorem State.mismatchAt_cmpLn (s : State) (f : Flight) (first : Nat) : (s.mismatchAt f first).sync.cmpLn = none := by
  unfold State.mismatchAt
  dsimp only
  rw [State.refreshAll_frame]
  rfl

/-! The comparison. -/

theorem State.tryCompare_of_none (h : s.sync.cmpLn = none) : s.tryCompare = s := by
  simp only [State.tryCompare, h]

/-- Within a bisection a delivery is kept for its round. -/
theorem State.tryCompare_of_bisect (h : s.sync.bisect ≠ none) : s.tryCompare = s := by
  unfold State.tryCompare
  split
  · rfl
  · split
    · rfl
    · exact if_pos (by simp [Option.isSome_iff_ne_none.2 h])

/-- The state in which a delivery is compared: it is taken, and the peer's words are held. -/
def State.comparing (s : State) : State := { s with sync := { s.sync with delivered := false, peer := (s.getF fDG_LO, s.getF fDG_HI) } }

theorem State.comparing_getF (s : State) (g : Fld) : s.comparing.getF g = s.getF g := rfl

theorem State.comparing_reg (s : State) (o : Nat) : s.comparing.reg o = s.reg o := rfl

section
variable (hc : s.sync.cmpLn = some ln) (hf : s.flight ln = some f) (hd : s.sync.delivered = true) (hb : s.sync.bisect = none)
include hc hf hd hb

theorem State.tryCompare_eq : s.tryCompare =
    if s.getF fDG_LO = f.digLo && s.getF fDG_HI == f.digHi then s.comparing.endCompare f
    else if s.getF fDG_LO = f.digLo then s.comparing.mismatchAt f 0xFFFFFF
    else s.comparing.bisectFrom f 0 s.sync.log.length 1 := by
  unfold State.tryCompare
  rw [hc]
  dsimp only
  rw [hf]
  dsimp only
  rw [if_neg (by simp [hd, hb])]
  change (if s.comparing.getF fDG_LO = f.digLo && s.comparing.getF fDG_HI == f.digHi then s.comparing.endCompare f
    else if s.comparing.getF fDG_LO = f.digLo then s.comparing.mismatchAt f 0xFFFFFF
    else s.comparing.bisectFrom f 0 s.sync.log.length 1) = _
  rw [State.comparing_getF, State.comparing_getF]

theorem State.tryCompare_of_equal (hlo : s.getF fDG_LO = f.digLo) (hhi : s.getF fDG_HI = f.digHi) : s.tryCompare = s.comparing.endCompare f := by
  rw [State.tryCompare_eq hc hf hd hb, if_pos (by simp [hlo, hhi])]

theorem State.tryCompare_of_rows_differ (hlo : s.getF fDG_LO = f.digLo) (hhi : s.getF fDG_HI ≠ f.digHi) :
    s.tryCompare = s.comparing.mismatchAt f 0xFFFFFF := by
  rw [State.tryCompare_eq hc hf hd hb, if_neg (by simp [hhi]), if_pos hlo]

theorem State.tryCompare_of_tiles_differ (hlo : s.getF fDG_LO ≠ f.digLo) : s.tryCompare = s.comparing.bisectFrom f 0 s.sync.log.length 1 := by
  rw [State.tryCompare_eq hc hf hd hb, if_neg (by simp [hlo]), if_neg hlo]

end

theorem State.bisectFrom_of_one {lo hi : Nat} (h : hi - lo ≤ 1) (j : Nat) : s.bisectFrom f lo hi j = s.mismatchAt f lo := if_pos h

/-- A round over more than one tile is begun: its sum is sent, and the comparison goes on. -/
theorem State.bisectFrom_of_more {lo hi : Nat} (h : 1 < hi - lo) (j : Nat) :
    (s.bisectFrom f lo hi j).sync = { s.sync with bisect := some (lo, hi, j) } ∧ (s.bisectFrom f lo hi j).flights = s.flights := by
  rw [State.bisectFrom, if_neg (by omega)]
  exact ⟨State.writeBy_sync .., State.writeBy_flights ..⟩

/-! A delivery. -/

/-- The state in which a delivered pair is weighed: its words are in `DG_LO` and `DG_HI`, and count as delivered. -/
def State.pairStored (t : State) (lo hi : Word64) : State :=
  { (t.storeWord 0x5040 lo).storeWord 0x5048 hi with sync := { t.sync with delivered := true } }

theorem State.pairStored_frame (t : State) (lo hi : Word64) :
    t.pairStored lo hi = { t with regs := (t.pairStored lo hi).regs, sync := { t.sync with delivered := true } } := rfl

/-- What a response leaves of a state that differs from `t` in its registers and its sync port. -/
theorem State.answered_frame {u : State} (h : u = { t with regs := u.regs, sync := u.sync }) (status op n : Nat) (ws : List Word64) (snd : Sender) :
    (u.answer status ws).replied snd op n = { t with
      regs := ((u.answer status ws).replied snd op n).regs, resp := ((u.answer status ws).replied snd op n).resp
      respHdr := ((u.answer status ws).replied snd op n).respHdr, link := ((u.answer status ws).replied snd op n).link, sync := u.sync } := by
  rw [h]
  rfl

theorem State.reg_pairStored_lo (t : State) (lo hi : Word64) : (t.pairStored lo hi).reg 0x5040 = lo := calc
  (t.pairStored lo hi).reg 0x5040 = (t.storeWord 0x5040 lo).reg 0x5040 := State.reg_setReg_other _ _ (by decide)
  _ = t.merged 0x5040 lo := t.reg_setReg_same ..
  _ = lo := t.merged_of_word lo (by decide)

theorem State.reg_pairStored_hi (t : State) (lo hi : Word64) : (t.pairStored lo hi).reg 0x5048 = hi := calc
  (t.pairStored lo hi).reg 0x5048 = (t.storeWord 0x5040 lo).merged 0x5048 hi := State.reg_setReg_same ..
  _ = hi := State.merged_of_word _ hi (by decide)

theorem State.reg_pairStored_other (t : State) (lo hi : Word64) {o : Nat} (hlo : o ≠ 0x5040) (hhi : o ≠ 0x5048) :
    (t.pairStored lo hi).reg o = t.reg o :=
  (State.reg_setReg_other _ _ hhi).trans (State.reg_setReg_other _ _ hlo)

theorem State.getF_pairStored (t : State) (lo hi : Word64) :
    (t.pairStored lo hi).getF fDG_LO = lo.toNat ∧ (t.pairStored lo hi).getF fDG_HI = hi.toNat := by
  have hlo : (t.pairStored lo hi).getF fDG_LO = getBits lo 0 64 := congrArg (getBits · 0 64) (t.reg_pairStored_lo lo hi)
  have hhi : (t.pairStored lo hi).getF fDG_HI = getBits hi 0 64 := congrArg (getBits · 0 64) (t.reg_pairStored_hi lo hi)
  rw [hlo, hhi, getBits_all, getBits_all]
  exact ⟨rfl, rfl⟩

theorem State.writeWord_digestLow (t : State) (v : Word64) (snd : Sender) :
    t.writeWord 0x5040 v snd none = (t.storeWord 0x5040 v, rOK) := by
  have hw : t.writeReg 0x5040 v none = some (t.storeWord 0x5040 v) :=
    (State.writeReg_sync (by decide) (by decide) (t.rangeOk_of_unbounded v (by decide)) none).trans (State.writeSync_stored (by decide))
  rw [t.writeWord_plain (by decide), hw]
  rfl

theorem State.writeWord_digestHigh (t : State) (v : Word64) (snd : Sender) :
    t.writeWord 0x5048 v snd none = ((t.storeWord 0x5048 v).deliver, rOK) := by
  have hw : t.writeReg 0x5048 v none = some (t.storeWord 0x5048 v).deliver :=
    State.writeReg_sync (by decide) (by decide) (t.rangeOk_of_unbounded v (by decide)) none
  rw [t.writeWord_plain (by decide), hw]
  rfl

/-- A delivery writes both words in ascending order, and the second has them compared. -/
theorem exec_digestDelivery_heard (h : Heard s snd t) :
    exec (.digestDelivery lo hi snd) s = .next (((t.pairStored lo hi).tryCompare.answer rOK []).replied snd opWR 2) := by
  have hwords : t.writeWords 0x5040 snd [lo, hi] = ((t.pairStored lo hi).tryCompare, rOK) := by
    rw [State.writeWords, State.writeWords, State.writeWords, State.writeWord_digestLow, State.writeWord_digestHigh]
    rfl
  have hserved := exec_block_served (off := 0x5040) (vs := [lo, hi]) h (by decide) (show 0x5040 % 4096 + 8 * 2 ≤ 4096 by decide)
  rw [hwords] at hserved
  exact hserved

/-! Clearing. -/

/-- The state after a write of `LOCKSTEP_STAT`. -/
def State.statWritten (t : State) (v : Word64) : State := (t.storeWord 0x5028 v).refreshAll

theorem State.writeSync_stat (t : State) (v : Word64) : t.writeSync 0x5028 v = some (t.statWritten v) := rfl

theorem State.statWritten_mismatch (t : State) (h : v.getLsbD 0 = true) : (t.statWritten v).mismatch = false := by
  have hbit : (t.storeWord 0x5028 v).getF fMISMATCH = 0 :=
    (congrArg (getBits · 0 1) (t.reg_setReg_same 0x5028 _)).trans (t.getBits_merged_w1c (r := .all) (by decide) h)
  have hflag : (t.storeWord 0x5028 v).flag fMISMATCH = false := by rw [State.flag, hbit]; rfl
  exact (State.flag_congr (State.refreshAll_reg lockstepStat_ne_queue _)).trans hflag

theorem State.statWritten_frame (t : State) (v : Word64) : t.statWritten v = { t with regs := (t.statWritten v).regs } :=
  State.refreshAll_frame _

theorem exec_mismatchClear_heard (h : Heard s snd t) :
    exec (.mismatchClear v snd) s = .next (((t.statWritten v).answer rOK []).replied snd opWR 1) :=
  exec_sync_taken (off := 0x28) h (by decide) (by decide) (t.rangeOk_of_unbounded v (by decide)) (t.writeSync_stat v)

end Sys2Proof.Machine
end

section
/-! PROOF. Writes of the sync registers, merge counts and digest deliveries (R184, R409, R435, R436). -/

namespace Sys2Proof.Machine

/-- Settles O25: each write is brought to the word that it stores or to its refusal, and a delivery to the outcome of the comparison of its pair. -/
theorem syncRegisterWritesAndDigestDelivery : Obligations.SyncRegisterWritesAndDigestDelivery := by
  unfold Obligations.SyncRegisterWritesAndDigestDelivery
  refine ⟨fun s t v snd h => ⟨fun hrole hw => ?barrierBusy, fun hrole hw => ?barrier, fun hfl => ?stepBusy, fun hfl => ?lockstep, fun hfl => ?peer,
    fun off hoff => ?readOnly, fun hv => ?clear, ?low, fun hc => ?high, ?count, fun y => ?fadd⟩, fun s t lo hi v snd h => ?delivery⟩
  case barrierBusy => exact exec_sync_refused (off := 0x10) h (by decide) (by decide) ((t.writeSync_barrier v).trans (if_pos hw))
  case barrier =>
    exact ⟨_, exec_sync_stored (off := 0x10) h (by decide) (by decide) (State.rangeOk_barrier hrole)
        ((t.writeSync_barrier v).trans (if_neg (by simp [hw]))), rfl,
      t.storeReplied_flag_rw v snd 0 .all (by decide), t.storeReplied_getF_rw v snd 1 2 (.between 0 2) (by decide),
      t.storeReplied_getF_rw v snd 4 12 .all (by decide), fun o => t.storeReplied_reg_other v snd, t.storeReplied_frame _ v snd⟩
  case stepBusy =>
    have hbusy : ¬ t.flights.isEmpty = true := by simpa using hfl
    exact ⟨exec_sync_refused (off := 0x20) h (by decide) (by decide) ((t.writeSync_lockstep v (.inl rfl)).trans (if_neg hbusy)),
      exec_sync_refused (off := 0x30) h (by decide) (by decide) ((t.writeSync_lockstep v (.inr rfl)).trans (if_neg hbusy))⟩
  case lockstep =>
    exact ⟨_, exec_sync_stored (off := 0x20) h (by decide) (by decide) (t.rangeOk_of_unbounded v (by decide))
        ((t.writeSync_lockstep v (.inl rfl)).trans (if_pos (by simp [hfl]))), rfl,
      t.storeReplied_flag_rw v snd 0 .all (by decide), t.storeReplied_flag_rw v snd 1 .all (by decide),
      fun o => t.storeReplied_reg_other v snd, t.storeReplied_frame _ v snd⟩
  case peer =>
    exact ⟨_, exec_sync_stored (off := 0x30) h (by decide) (by decide) (t.rangeOk_of_unbounded v (by decide))
        ((t.writeSync_lockstep v (.inr rfl)).trans (if_pos (by simp [hfl]))), rfl,
      t.storeReplied_getF_rw v snd 0 48 .all (by decide), fun o => t.storeReplied_reg_other v snd, t.storeReplied_frame _ v snd⟩
  case readOnly =>
    have hrows : ∀ off ∈ [0, 0x08, 0x18], off < 0x50 ∧ off % 8 = 0 ∧ 0x5000 + off ∉ [0x5010, 0x5020, 0x5028, 0x5030, 0x5048] ∧
        ∀ f ∈ regFields (0x5000 + off), f.acc = .ro ∧ f.rng = .all := by decide
    obtain ⟨hlt, h8, hst, hro⟩ := hrows off hoff
    refine ⟨_, exec_sync_stored h hlt h8 (t.rangeOk_of_unbounded v fun f hf => (hro f hf).2) (State.writeSync_stored hst), rfl, fun o => ?_⟩
    by_cases ho : o = 0x5000 + off
    · rw [ho, t.storeReplied_reg_same, t.merged_of_ro v fun f hf => (hro f hf).1]
    · exact t.storeReplied_reg_other v snd ho
  case clear =>
    exact ⟨_, exec_mismatchClear_heard h, rfl, t.statWritten_mismatch hv, by rw [t.statWritten_frame]; rfl, by rw [t.statWritten_frame]; rfl⟩
  case low =>
    exact ⟨_, exec_sync_stored (off := 0x40) h (by decide) (by decide) (t.rangeOk_of_unbounded v (by decide)) (State.writeSync_stored (by decide)), rfl,
      (t.storeReplied_reg_same ..).trans (t.merged_of_word v (by decide)), fun o => t.storeReplied_reg_other v snd⟩
  case high =>
    have hidle : (t.storeWord 0x5048 v).deliver = { t.storeWord 0x5048 v with sync := { t.sync with delivered := true } } :=
      State.tryCompare_of_none hc
    refine ⟨_, exec_sync_taken (off := 0x48) h (by decide) (by decide) (t.rangeOk_of_unbounded v (by decide)) (congrArg some hidle), rfl, ?_, rfl,
      fun o ho => t.reg_setReg_other _ ho⟩
    exact (t.reg_setReg_same 0x5048 _).trans (t.merged_of_word v (by decide))
  case count =>
    exact ⟨_, exec_sync_stored (off := 0x38) h (by decide) (by decide) (t.rangeOk_of_unbounded v (by decide)) (State.writeSync_stored (by decide)), rfl,
      (t.storeReplied_reg_same ..).trans (t.merged_of_word v mergeCount_row), fun o => t.storeReplied_reg_other v snd, t.storeReplied_frame _ v snd⟩
  case fadd =>
    exact ⟨_, exec_mergeCount_fadd h y, rfl, t.getF_mergeCount_fadd v, fun o ho => t.reg_setReg_other _ ho, rfl⟩
  case delivery =>
    obtain ⟨hgetLo, hgetHi⟩ := t.getF_pairStored lo hi
    have hother (o : Nat) : o ≠ 0x5040 → o ≠ 0x5048 → (t.pairStored lo hi).reg o = t.reg o := t.reg_pairStored_other lo hi
    refine ⟨fun hc => ?idle, fun ln f hc hf hb hlo hhi => ?equal, fun ln f hc hf hb hlo hhi => ?rows, fun ln f hc hf hb hlo hlog => ?bisected,
      fun ln f hc hf hb hlo hlog => ?tile, fun hb => ?round, fun hv => ?cleared⟩
    case idle =>
      have hsame : (t.pairStored lo hi).tryCompare = t.pairStored lo hi := State.tryCompare_of_none hc
      refine ⟨_, exec_digestDelivery_heard h, rfl, ?_⟩
      simp only [hsame, State.replied_reg, State.answer_reg]
      exact ⟨t.reg_pairStored_lo lo hi, t.reg_pairStored_hi lo hi, rfl, hother, State.answered_frame (t.pairStored_frame lo hi) ..⟩
    case equal =>
      have hend := State.tryCompare_of_equal (s := t.pairStored lo hi) hc hf rfl hb (hgetLo.trans hlo) (hgetHi.trans hhi)
      have hbecomes : Becomes t ((t.pairStored lo hi).comparing.endCompare f) ln { f with digested := true } :=
        (Becomes.setFlight_of_flights (t := (t.pairStored lo hi).comparing) (g := { f with digested := true }) hf rfl (State.flight_ln hf :)).of_flights rfl
      refine ⟨_, exec_digestDelivery_heard h, rfl, ?_⟩
      simp only [hend, State.replied_reg, State.answer_reg, State.endCompare_reg, State.comparing_reg]
      exact ⟨t.reg_pairStored_lo lo hi, t.reg_pairStored_hi lo hi, rfl, rfl, hbecomes.of_flights rfl, hother⟩
    case rows =>
      have hdiff := State.tryCompare_of_rows_differ (s := t.pairStored lo hi) hc hf rfl hb (hgetLo.trans hlo) (hgetHi ▸ hhi)
      refine ⟨_, exec_digestDelivery_heard h, rfl, ?_⟩
      rw [hdiff]
      exact ⟨State.mismatchAt_mismatch .., State.mismatchAt_tile _ f (by decide), State.mismatchAt_cmpLn ..⟩
    case bisected =>
      have hdiff := State.tryCompare_of_tiles_differ (s := t.pairStored lo hi) hc hf rfl hb (hgetLo ▸ hlo)
      obtain ⟨hsync, hflights⟩ := (t.pairStored lo hi).comparing.bisectFrom_of_more (f := f) (lo := 0) hlog 1
      refine ⟨_, exec_digestDelivery_heard h, rfl, ?_⟩
      rw [hdiff]
      exact ⟨congrArg SyncX.bisect hsync, (congrArg SyncX.cmpLn hsync).trans hc, hflights⟩
    case tile =>
      have hdiff := State.tryCompare_of_tiles_differ (s := t.pairStored lo hi) hc hf rfl hb (hgetLo ▸ hlo)
      have hone := (t.pairStored lo hi).comparing.bisectFrom_of_one (f := f) (lo := 0) hlog 1
      refine ⟨_, exec_digestDelivery_heard h, rfl, ?_⟩
      rw [hdiff.trans hone]
      exact ⟨State.mismatchAt_mismatch .., State.mismatchAt_tile _ f (by decide), State.mismatchAt_cmpLn ..⟩
    case round =>
      have hsame : (t.pairStored lo hi).tryCompare = t.pairStored lo hi := State.tryCompare_of_bisect hb
      refine ⟨_, exec_digestDelivery_heard h, rfl, ?_⟩
      simp only [hsame, State.replied_reg, State.answer_reg]
      exact ⟨t.reg_pairStored_lo lo hi, t.reg_pairStored_hi lo hi, rfl, rfl, rfl⟩
    case cleared =>
      exact ⟨_, exec_mismatchClear_heard h, rfl, t.statWritten_mismatch hv, by rw [t.statWritten_frame]; rfl, by rw [t.statWritten_frame]; rfl,
        by rw [t.statWritten_frame]; rfl⟩

end Sys2Proof.Machine
end

section
/-! PROOF. The acceptance test of a SPEC_EXACT row (R206, R208). -/

namespace Sys2Proof.Machine

variable {d : SpecIn} {ref : Nat → Bool} {ks : List KTok}

/-- Acceptance is certain (R208): the draft token is kept, and its lower weight passes the test against the upper sum. -/
def SpecIn.Passes (d : SpecIn) (ks : List KTok) : Prop :=
  ∃ k, ks.find? (fun k => k.tok.id == d.x) = some k ∧
    (2 * d.aAcc + 1) * entryOf d.entries d.x * sumNat (ks.map (·.up)) ≤ 2 ^ 25 * k.dn * d.sigma

theorem specTest_of_passes (h : d.Passes ks) : specTest d ref ks = .accept := by
  obtain ⟨k, hk, hle⟩ := h
  unfold specTest
  rw [hk]
  exact if_pos (decide_eq_true hle)

/-- Past the test a row emits a token of the residual draw or asks for refinements, so that only the test accepts. -/
theorem passes_of_specTest (h : specTest d ref ks = .accept) : d.Passes ks := by
  by_contra hfail
  unfold specTest at h
  dsimp only at h
  rw [if_neg] at h
  case hnc =>
    intro hpass
    split at hpass
    next k hk => exact hfail ⟨k, hk, of_decide_eq_true hpass⟩
    next => exact Bool.noConfusion hpass
  split_ifs at h
  split at h <;> exact SpecRes.noConfusion h

/-- What `accept` says, for weights that need not be exact (R208). -/
theorem specTest_eq_accept_iff : specTest d ref ks = .accept ↔ d.Passes ks :=
  ⟨passes_of_specTest, specTest_of_passes⟩

/-- Settles O12: the test reads the lower weight of the kept draft token, which is its upper one where weights are exact. -/
theorem draftTokenAcceptedByExactTest : Obligations.DraftTokenAcceptedByExactTest := by
  unfold Obligations.DraftTokenAcceptedByExactTest
  intro d ref ks hexact
  rw [specTest_eq_accept_iff, SpecIn.Passes]
  refine exists_congr fun k => and_congr_right fun hk => ?_
  rw [hexact k (List.mem_of_find?_eq_some hk)]

end Sys2Proof.Machine
end

section
/-! SUPPORT. What the reports of damage keep: the register words that events do not write, the bits of `ERR_STAT` that are set, and the windows that are open (R414, R476 to R478, R483). -/

namespace Sys2Proof.Machine

variable {s t : State} {Q : State → Prop}

/-! Register words. -/

/-- A property of the register words that every write of an event keeps: `TAIL`, `DROP`, a class bit that is set, and the counts of the exception queue. -/
structure KeptByEvents (Q : State → Prop) : Prop where
  of_regs : ∀ {s t : State}, Q s → t.regs = s.regs → Q t
  tail : ∀ {s : State} (v : Nat), Q s → Q (s.setF fEV_TAIL v)
  drop : ∀ {s : State} (v : Nat), Q s → Q (s.setF fEV_DROP v)
  classSet : ∀ {s : State} (k : Nat), Q s → Q (s.setF (fERR_CLASS k) 1)
  excDrops : ∀ {s : State} (v : Nat), Q s → Q (s.setF fEXQ_DROPS v)
  excHigh : ∀ {s : State} (v : Nat), Q s → Q (s.setF fEXQ_HIGH v)

/-- The register words that events write: the size word of the ring with `DROP`, `TAIL`, `ERR_STAT` and the counts of the exception queue. -/
def eventWords : List Nat := [rEV_SIZE, 0x7018, 0x7020, 0x7040]

/-- Every other word is left as it is. -/
theorem KeptByEvents.reg {o : Nat} (ho : o ∉ eventWords) (w : Word64) : KeptByEvents fun t => t.reg o = w := by
  have keep (s : State) {f : Fld} (v : Nat) (hf : f.off ∈ eventWords) (h : s.reg o = w) : (s.setF f v).reg o = w :=
    (s.reg_setF_other f v (ne_of_mem_of_not_mem hf ho).symm).trans h
  exact
    { of_regs := fun h hr => (State.reg_congr hr o).trans h
      tail := fun v h => keep _ v (by decide) h
      drop := fun v h => keep _ v (by decide) h
      classSet := fun k h => keep _ (f := fERR_CLASS k) 1 (show 0x7020 ∈ eventWords by decide) h
      excDrops := fun v h => keep _ v (by decide) h
      excHigh := fun v h => keep _ v (by decide) h }

/-- A class bit, once set, stays set. -/
theorem KeptByEvents.errClass {c : Nat} (hc : c < 64) : KeptByEvents fun t => t.flag (fERR_CLASS c) = true := by
  have fits : (fERR_CLASS c).lsb + (fERR_CLASS c).width ≤ 64 := hc
  have keep (s : State) {f : Fld} (v : Nat) (hf : f.off ≠ 0x7020) (h : s.flag (fERR_CLASS c) = true) :
      (s.setF f v).flag (fERR_CLASS c) = true := (s.flag_setF_other f v fits (.inl hf)).trans h
  refine
    { of_regs := fun h hr => (State.flag_congr (State.reg_congr hr _)).trans h
      tail := fun v h => keep _ v (by decide) h
      drop := fun v h => keep _ v (by decide) h
      classSet := fun {s} k h => ?_
      excDrops := fun v h => keep _ v (by decide) h
      excHigh := fun v h => keep _ v (by decide) h }
  by_cases hk : k = c
  · rw [hk]
    exact s.flag_setF_same _ 1 fits
  · have happart : (fERR_CLASS k).apart (fERR_CLASS c) := .inr (by simp only [fERR_CLASS]; omega)
    exact (s.flag_setF_other _ 1 fits happart).trans h

section
variable (hQ : KeptByEvents Q)
include hQ

theorem KeptByEvents.advanceTail (h : Q s) (n : Nat) : Q (s.advanceTail n) := by
  induction n generalizing s with
  | zero => exact h
  | succ n ih =>
    rw [State.advanceTail]
    dsimp only
    split
    · exact ih (hQ.tail _ (hQ.of_regs h rfl))
    · exact h

theorem KeptByEvents.ackEvent (h : Q s) (i : Nat) : Q (s.ackEvent i) := by
  refine hQ.of_regs (hQ.advanceTail ?_ _) (State.noteTail_regs _)
  exact hQ.of_regs h rfl

theorem KeptByEvents.issueEvent (h : Q s) (e : EvRec) : Q (s.issueEvent e) := by
  unfold State.issueEvent
  dsimp only
  split
  · exact hQ.of_regs h rfl
  · split
    · split
      · refine hQ.of_regs h ?_
        rw [State.writeHost_regs]
      · refine hQ.ackEvent (hQ.of_regs h ?_) _
        rw [State.writeHost_regs]
    · exact hQ.drop _ (hQ.of_regs h rfl)

theorem KeptByEvents.post (h : Q s) (e : EvRec) : Q (s.post e) := hQ.issueEvent (hQ.classSet _ h) e

theorem KeptByEvents.coalesce (h : Q s) (k : CoalKey) (e : EvRec) : Q (s.coalesce k e) := by
  have hset : Q (s.setF (fERR_CLASS e.cls) 1) := hQ.classSet _ h
  unfold State.coalesce
  dsimp only
  split
  · exact hQ.of_regs hset rfl
  · exact hQ.of_regs hset rfl

theorem KeptByEvents.raise (h : Q s) (x : Exc) (e : EvRec) : Q (s.raise x e) := by
  unfold State.raise
  dsimp only
  split
  · refine hQ.coalesce (hQ.excDrops _ ?_) _ _
    exact hQ.of_regs h rfl
  · refine hQ.excHigh _ ?_
    exact hQ.of_regs h rfl

theorem KeptByEvents.readHost (h : Q s) (req sev a n : Nat) (who : Who) (row : Nat) : Q (s.readHost req sev a n who row).1 := by
  refine List.foldlRecOn (motive := Q) _ _ (hQ.of_regs h (State.issueRead_regs ..)) fun t ht g _ => ?_
  split
  · exact ht
  · exact hQ.coalesce ht _ _

end

/-- A chain of reports and reads of host memory: what is posted, counted into a window, raised and read, one after another. -/
inductive Reported (s : State) : State → Prop
  | none : Reported s s
  | post {t : State} (h : Reported s t) (e : EvRec) : Reported s (t.post e)
  | coalesce {t : State} (h : Reported s t) (k : CoalKey) (e : EvRec) : Reported s (t.coalesce k e)
  | raise {t : State} (h : Reported s t) (x : Exc) (e : EvRec) : Reported s (t.raise x e)
  | readHost {t : State} (h : Reported s t) (req sev a n : Nat) (who : Who) (row : Nat) : Reported s (t.readHost req sev a n who row).1

theorem Reported.ite {u : State} {b : Bool} (ht : Reported s t) (hu : Reported s u) : Reported s (if b then t else u) := by
  cases b
  · exact hu
  · exact ht

theorem Reported.keeps (h : Reported s t) (hQ : KeptByEvents Q) (hs : Q s) : Q t := by
  induction h with
  | none => exact hs
  | post _ e ih => exact hQ.post ih e
  | coalesce _ k e ih => exact hQ.coalesce ih k e
  | raise _ x e ih => exact hQ.raise ih x e
  | readHost _ req sev a n who row ih => exact hQ.readHost ih req sev a n who row

/-- Reports change nothing but registers, the event ring, host memory, the ports and Farrier's state. -/
theorem Reported.frame (h : Reported s t) :
    t = { s with regs := t.regs, ev := t.ev, mem := t.mem, link := t.link, out := t.out, far := t.far } := by
  induction h with
  | none => rfl
  | post _ e ih => rw [State.post_frame, ih]
  | coalesce _ k e ih => rw [State.coalesce_frame, ih]
  | raise _ x e ih => rw [State.raise_frame, ih]
  | readHost _ req sev a n who row ih => rw [State.readHost_frame, ih]

theorem Reported.holdings (h : Reported s t) : t.holdings = s.holdings := by rw [h.frame]; rfl

theorem Reported.reg (h : Reported s t) {o : Nat} (ho : o ∉ eventWords) : t.reg o = s.reg o := h.keeps (.reg ho _) rfl

theorem Reported.getF (h : Reported s t) {g : Fld} (hg : g.off ∉ eventWords) : t.getF g = s.getF g := State.getF_congr (h.reg hg)

/-- A posted event sets the bit of its class. -/
theorem State.post_errClass (s : State) {e : EvRec} {c : Nat} (he : e.cls = c) (hc : c < 64) : (s.post e).flag (fERR_CLASS c) = true := by
  subst he
  exact (KeptByEvents.errClass hc).issueEvent (s.flag_setF_same (fERR_CLASS e.cls) 1 hc) e

/-! Windows. -/

/-- The part of the event ring's state that acknowledgements leave: the open windows and the number of the next record. -/
def State.windows (s : State) : List (CoalKey × EvRec) × Nat := (s.ev.coal, s.ev.seq)

theorem State.noteTail_windows (s : State) : s.noteTail.windows = s.windows := by
  unfold State.noteTail
  split
  · rfl
  · dsimp only
    rw [State.writeHost_frame]
    rfl

theorem State.advanceTail_windows (s : State) (n : Nat) : (s.advanceTail n).windows = s.windows := by
  induction n generalizing s with
  | zero => rfl
  | succ n ih =>
    rw [State.advanceTail]
    dsimp only
    split
    · rw [ih]
      rfl
    · rfl

theorem State.ackEvent_windows (s : State) (i : Nat) : (s.ackEvent i).windows = s.windows := by
  rw [State.ackEvent, State.noteTail_windows, State.advanceTail_windows]
  rfl

/-- Each record takes the next number, whether it is issued, masked or dropped (R414). -/
theorem State.issueEvent_windows (s : State) (e : EvRec) : (s.issueEvent e).windows = (s.ev.coal, (s.ev.seq + 1) % 2 ^ 32) := by
  unfold State.issueEvent
  dsimp only
  split
  · rfl
  · split
    · split
      · rw [State.writeHost_frame]
        rfl
      · rw [State.ackEvent_windows, State.writeHost_frame]
        rfl
    · rfl

/-- A window that closes leaves the list, and its record takes the next number (R478). -/
theorem State.closeWindow_windows {k : CoalKey} {p : CoalKey × EvRec} (h : s.ev.coal.find? (fun p => p.1 == k) = some p) :
    (s.closeWindow k).windows = (s.ev.coal.filter fun q => !(q.1 == k), (s.ev.seq + 1) % 2 ^ 32) := by
  unfold State.closeWindow
  rw [h]
  exact State.issueEvent_windows _ _

/-- An exception leaves the time for which each cluster posts no health event. -/
theorem State.raise_sorrelOff (s : State) (x : Exc) (e : EvRec) : (s.raise x e).far.sorrelOff = s.far.sorrelOff := by
  unfold State.raise
  split
  · dsimp only
    rw [State.coalesce_far]
    rfl
  · rfl

end Sys2Proof.Machine
end

section
/-! SUPPORT. Words of SRAM that are corrected or found uncorrectable (R470, R471): what an effect on a part leaves, the counts, and the report. -/

namespace Sys2Proof.Machine

variable (s : State)

/-! What the end of a request leaves (R273, R275). -/

/-- A damaged request keeps what spoiled rows, a wanted end and the end itself keep (R471). -/
theorem State.faultReq_keeps {α : Type} {π : State → α} (hrows : ∀ (t : State) p g, π (t.onRows p g).1 = π t)
    (hend : ∀ (t : State) slot why, π (t.settle slot why) = π t) (hwant : ∀ (t : State) slot st reason, π (t.wantEnd slot st reason) = π t)
    (slot : Nat) (rows : Bool) : π (s.faultReq slot rows).1 = π s := by
  have hstop (t : State) :
      π (if t.eState slot = 0 then (t, false) else ((t.wantEnd slot 7 7).settle slot (some .plain), true)).1 = π t := by
    split
    · rfl
    · rw [hend, hwant]
  cases rows
  · exact hstop s
  · exact (hstop _).trans (hrows s _ _)

/-- A register word below the entries. -/
def OffEntries (o : Nat) : Prop := o < 0x100000

section
variable {o : Nat} (ho : OffEntries o)
include ho

theorem OffEntries.ne {b : Nat} (hb : 0x100000 ≤ b) : o ≠ b := by
  unfold OffEntries at ho
  omega

theorem State.stateReason_reg (slot st reason : Nat) : ((s.setF (fE_STATE slot) st).setF (fE_REASON slot) reason).reg o = s.reg o := by
  have hstate : o ≠ (fE_STATE slot).off := ho.ne (by simp only [fE_STATE, rENT]; omega)
  have hreason : o ≠ (fE_REASON slot).off := ho.ne (by simp only [fE_REASON, rENT]; omega)
  rw [State.reg_setF_other _ _ _ hreason, State.reg_setF_other _ _ _ hstate]

omit ho in
theorem State.freeRets_reg (slot : Nat) : (s.freeRets slot).reg o = s.reg o := rfl

omit ho in
theorem State.writeNote_reg (slot : Nat) (why : Option Purpose2) : (s.writeNote slot why).reg o = s.reg o := by
  unfold State.writeNote
  split
  · rfl
  · dsimp only
    split
    · rfl
    · rw [State.writeHost_reg]

theorem State.enter_reg (slot st reason : Nat) (why : Option Purpose2) : (s.enter slot st reason why).reg o = s.reg o := by
  rw [State.enter, State.writeNote_reg, State.freeRets_reg]
  exact s.stateReason_reg ho slot st reason

theorem State.settle_reg (slot : Nat) (why : Option Purpose2) : (s.settle slot why).reg o = s.reg o := by
  unfold State.settle
  split
  · rfl
  · split
    · dsimp only
      split
      · rfl
      · exact State.enter_reg _ ho ..
    · split
      · exact State.enter_reg _ ho ..
      · rfl

theorem State.faultReq_reg (slot : Nat) (rows : Bool) : (s.faultReq slot rows).1.reg o = s.reg o :=
  s.faultReq_keeps (π := fun t => t.reg o) (fun _ _ _ => rfl) (fun t => t.settle_reg ho) (fun _ _ _ _ => rfl) slot rows

end

theorem State.writeNote_fuses (slot : Nat) (why : Option Purpose2) : (s.writeNote slot why).fuses = s.fuses := by
  unfold State.writeNote
  split
  · rfl
  · dsimp only
    split
    · rfl
    · rw [State.writeHost_fuses]

theorem State.enter_fuses (slot st reason : Nat) (why : Option Purpose2) : (s.enter slot st reason why).fuses = s.fuses :=
  State.writeNote_fuses _ slot why

theorem State.settle_fuses (slot : Nat) (why : Option Purpose2) : (s.settle slot why).fuses = s.fuses := by
  unfold State.settle
  split
  · rfl
  · split
    · dsimp only
      split
      · rfl
      · exact State.enter_fuses ..
    · split
      · exact State.enter_fuses ..
      · rfl

theorem State.faultReq_fuses (slot : Nat) (rows : Bool) : (s.faultReq slot rows).1.fuses = s.fuses :=
  s.faultReq_keeps (π := State.fuses) (fun _ _ _ => rfl) State.settle_fuses (fun _ _ _ _ => rfl) slot rows

/-! The effect on the part (R471). -/

/-- Requests that end change their entries, and a key loses its words: no register below them changes. -/
theorem State.hitPart_reg {o : Nat} (ho : OffEntries o) (p : SramPart) : (s.hitPart p).1.reg o = s.reg o := by
  cases p with
  | requestTable slot w => exact s.faultReq_reg ho slot true
  | historyCache slot w => exact s.faultReq_reg ho slot true
  | working slot w => exact s.faultReq_reg ho slot false
  | stopSet addr w => exact foldl_keeps (π := fun t : State => t.reg o) (fun t n => t.faultReq_reg ho n false) _ _
  | tenantKey t w =>
    have hkey (hi : Nat) : o ≠ kYKEY t hi := ho.ne (by simp only [kYKEY]; omega)
    exact (State.reg_setReg_other _ _ (hkey 1)).trans (State.reg_setReg_other _ _ (hkey 0))
  | _ => rfl

theorem State.hitPart_fuses (p : SramPart) : (s.hitPart p).1.fuses = s.fuses := by
  cases p with
  | requestTable slot w => exact s.faultReq_fuses slot true
  | historyCache slot w => exact s.faultReq_fuses slot true
  | working slot w => exact s.faultReq_fuses slot false
  | stopSet addr w => exact foldl_keeps (π := fun t : State => t.fuses) (fun t n => t.faultReq_fuses n false) _ _
  | _ => rfl

/-- A damaged key reads 0 in both words (R296). -/
theorem State.hitPart_tenantKey (t w hi : Nat) (h : hi = 0 ∨ hi = 1) : (s.hitPart (.tenantKey t w)).1.reg (kYKEY t hi) = 0 := by
  rcases h with rfl | rfl
  · have hne : kYKEY t 0 ≠ kYKEY t 1 := by simp [kYKEY]
    exact (State.reg_setReg_other _ _ hne).trans (State.reg_setReg_same ..)
  · exact State.reg_setReg_same ..

/-! An uncorrectable word (R470, R471). -/

/-- The mark of a word that stays bad until it is written anew; one that its source restores at once gets none. -/
def State.markBad (s : State) (p : SramPart) : State := if partRestored p then s else { s with bad := s.bad ++ [p] }

theorem State.markBad_regs (p : SramPart) : (s.markBad p).regs = s.regs := by
  unfold State.markBad
  split <;> rfl

theorem State.markBad_fuses (p : SramPart) : (s.markBad p).fuses = s.fuses := by
  unfold State.markBad
  split <;> rfl

theorem State.mem_markBad {p : SramPart} (h : partRestored p = false) : p ∈ (s.markBad p).bad := by simp [State.markBad, h]

/-- The state before the report: the part is hit, its word is marked, and the error is counted. -/
def State.damageCounted (s : State) (p : SramPart) : State :=
  let t := (s.hitPart p).1.markBad p
  { (t.addSat fUE_SRAM 1) with far := { t.far with ueSram := t.far.ueSram + 1 } }

theorem State.damageCounted_ueSram (p : SramPart) :
    (s.damageCounted p).getF fUE_SRAM = Nat.min (2 ^ 32 - 1) (s.getF fUE_SRAM + 1) := by
  have hsame : ((s.hitPart p).1.markBad p).getF fUE_SRAM = s.getF fUE_SRAM :=
    State.getF_congr ((State.reg_congr (State.markBad_regs _ p) _).trans (s.hitPart_reg (by unfold OffEntries; decide) p))
  rw [← hsame]
  exact State.getF_addSat_same fUE_SRAM 1 (by decide)

theorem State.damageCounted_keySet (t w : Nat) : (s.damageCounted (.tenantKey t w)).keySet t = false := by
  have hzero (hi : Nat) (h : hi = 0 ∨ hi = 1) : (s.damageCounted (.tenantKey t w)).reg (kYKEY t hi) = 0 := by
    have hne : kYKEY t hi ≠ fUE_SRAM.off := by simp only [kYKEY, fUE_SRAM]; omega
    exact (State.reg_setF_other _ fUE_SRAM _ hne).trans (s.hitPart_tenantKey t w hi h)
  simp [State.keySet, hzero]

/-- The report is one event of class 1, and for a plane record with a host copy an exception (R476, R483). -/
theorem State.uncorrectable_reported {p : SramPart} (h : p ∉ s.bad) :
    ∃ e : EvRec, e.cls = 1 ∧ Reported ((s.damageCounted p).post e) (s.uncorrectable p) := by
  have hnew : ¬s.bad.contains p = true := by simpa using h
  unfold State.uncorrectable
  rw [if_neg hnew]
  cases p with
  | planeRegion c w =>
    dsimp only
    cases s.wordOwner c w with
    | none => exact ⟨_, rfl, .none⟩
    | some o => exact ⟨_, rfl, .ite (.raise .none _ _) .none⟩
  | _ => exact ⟨_, rfl, .none⟩

/-! A corrected word (R470). -/

/-- The state before the report. -/
def State.correctionCounted (s : State) : State := { (s.addSat fCE_SRAM 1) with far := { s.far with ceSram := s.far.ceSram + 1 } }

/-- The correction counted into the window of its class: the slices of a cluster have one, and Halter has one (R478). -/
def State.correctionNoted (s : State) (code cl : Nat) (e : EvRec) : State :=
  if code = 1 then s.correctionCounted.coalesce (.padCe cl) e
  else if code = 2 then s.correctionCounted.coalesce .halCe e
  else s.correctionCounted

theorem State.correctionNoted_reported (code cl : Nat) (e : EvRec) : Reported s.correctionCounted (s.correctionNoted code cl e) := by
  unfold State.correctionNoted
  split_ifs
  · exact .coalesce .none _ _
  · exact .coalesce .none _ _
  · exact .none

/-- The record is not written before its window closes. -/
theorem State.correctionNoted_mem (code cl : Nat) (e : EvRec) : (s.correctionNoted code cl e).mem = s.mem := by
  unfold State.correctionNoted
  split_ifs
  · exact State.coalesce_mem ..
  · exact State.coalesce_mem ..
  · rfl

theorem State.corrected_reported (p : SramPart) (storm : Bool) (syn : BitVec 8) :
    Reported s.correctionCounted (s.corrected p storm syn) :=
  .ite (.raise (s.correctionNoted_reported ..) _ _) (s.correctionNoted_reported ..)

theorem State.corrected_mem (p : SramPart) (storm : Bool) (syn : BitVec 8) : (s.corrected p storm syn).mem = s.mem :=
  ite_keeps (π := State.mem) ((State.raise_mem ..).trans (s.correctionNoted_mem ..)) (s.correctionNoted_mem ..)

end Sys2Proof.Machine
end

section
/-! SUPPORT. The scrubber (R475), the windows (R478) and the reseeding of a lane (R221, R226, R227): the state that each comes to. -/

namespace Sys2Proof.Machine

variable {s : State}

/-! The scrubber. -/

theorem State.scrubRecord_reported (s : State) (v : PlaneView) (x : RecId) (glitch : Bool) : Reported s (s.scrubRecord v x glitch) := by
  have hread (b : Bool) (a n : Nat) :
      Reported s (if b then ((s.readHost 6 0 a n).1.readHost 6 0 a n).1 else (s.readHost 6 0 a n).1) :=
    .ite (.readHost (.readHost .none ..) ..) (.readHost .none ..)
  exact .ite (.ite (.coalesce (hread ..) _ _) (hread ..)) (.ite (.raise (.post (hread ..) _) _ _) (.post (hread ..) _))

theorem State.getF_addMod_same (s : State) (f : Fld) (n : Nat) (hf : f.lsb + f.width ≤ 64) :
    (s.addMod f n).getF f = (s.getF f + n) % 2 ^ f.width := by
  rw [State.addMod, State.getF_setF_same _ _ _ hf, Nat.mod_mod]

section
variable (s : State) (planes : List (PlaneView × Nat)) (p : ScrubPos)

theorem State.scrubNext_scrub :
    (s.scrubNext planes p).scrub = ((scrubFrom planes (p.1, p.2.1, p.2.2 + 1)).map (·.1)).getD (0, 0, 0) := by
  unfold State.scrubNext
  cases scrubFrom planes (p.1, p.2.1, p.2.2 + 1) <;> rfl

theorem State.scrubNext_holdings : (s.scrubNext planes p).holdings = s.holdings := by
  unfold State.scrubNext
  split <;> rfl

/-- With no record left the pass is complete. -/
theorem State.scrubNext_passes : (s.scrubNext planes p).getF fPASSES =
    (s.getF fPASSES + if scrubFrom planes (p.1, p.2.1, p.2.2 + 1) = none then 1 else 0) % 2 ^ 32 := by
  unfold State.scrubNext
  cases scrubFrom planes (p.1, p.2.1, p.2.2 + 1) with
  | none => exact State.getF_addMod_same _ fPASSES 1 (by decide)
  | some q => exact (Nat.mod_eq_of_lt (s.getF_lt fPASSES)).symm

end

theorem exec_scrubRead_off (h : s.flag fSCRUB_EN = false) (g : Bool) : exec (.scrubRead g) s = .next s := by
  change execScrubRead g s = _
  simp [execScrubRead, h]

section
variable {p : ScrubPos} {v : PlaneView} {x : RecId} (hen : s.flag fSCRUB_EN = true)
include hen

theorem exec_scrubRead_here (h : scrubFrom s.scrubPlanes s.scrub = some (p, v, x)) (g : Bool) :
    exec (.scrubRead g) s = .next ((s.scrubRecord v x g).scrubNext s.scrubPlanes p) := by
  change execScrubRead g s = _
  simp [execScrubRead, hen, h]

theorem exec_scrubRead_first (h : scrubFrom s.scrubPlanes s.scrub = none) (hfirst : scrubFrom s.scrubPlanes (0, 0, 0) = some (p, v, x))
    (g : Bool) : exec (.scrubRead g) s = .next (((s.addMod fPASSES 1).scrubRecord v x g).scrubNext s.scrubPlanes p) := by
  change execScrubRead g s = _
  simp [execScrubRead, hen, h, hfirst]

theorem exec_scrubRead_empty (h : scrubFrom s.scrubPlanes s.scrub = none) (hfirst : scrubFrom s.scrubPlanes (0, 0, 0) = none)
    (g : Bool) : exec (.scrubRead g) s = .next s := by
  change execScrubRead g s = _
  simp [execScrubRead, hen, h, hfirst]

end

/-! Windows. -/

/-- Every window but that of a step's rows closes; where the exception queue's is posted, Farrier's state keeps what it has reported. -/
theorem exec_coalesceWindowClose {k : CoalKey} (hk : ∀ a b, k ≠ .rowCode a b) (s : State) :
    ∃ u, exec (.coalesceWindowClose k) s = .next u ∧ u = { s.closeWindow k with far := u.far } := by
  cases k with
  | rowCode a b => exact absurd rfl (hk a b)
  | _ => exact ⟨_, rfl, rfl⟩

/-! The reseeding of a lane. -/

theorem liveSeed_ne_zero (x : BitVec 32) : liveSeed x ≠ 0 := by
  unfold liveSeed
  split
  · decide
  · assumption

/-- Repeats in a row: a jitter word is compared with the lane's previous one and with its neighbour's. -/
def reseedFails (a : Lane) (j nb : BitVec 32) : Nat := if j == a.last || j == nb then a.fails + 1 else 0

theorem reseedFails_eq (a : Lane) (j nb : BitVec 32) : reseedFails a j nb = if j = a.last ∨ j = nb then a.fails + 1 else 0 := by
  simp [reseedFails]

/-- The state word of a reseeded lane: the jitter word enters it, and chunks drawn past the reseed leave it free. -/
def State.reseedWord (s : State) (k : Nat) (a : Lane) (j : BitVec 32) : BitVec 32 :=
  if a.count - 65536 = 0 then liveSeed (a.x ^^^ j) else liveSeed (Config.freeWord s.freeCtr k)

theorem State.reseedWord_of_exact (s : State) (k : Nat) {a : Lane} (j : BitVec 32) (h : a.count = 65536) :
    s.reseedWord k a j = if a.x ^^^ j = 0 then 1 else a.x ^^^ j := by
  have hnone : a.count - 65536 = 0 := by omega
  exact if_pos hnone

theorem State.reseedWord_ne_zero (s : State) (k : Nat) (a : Lane) (j : BitVec 32) : s.reseedWord k a j ≠ 0 := by
  unfold State.reseedWord
  split
  · exact liveSeed_ne_zero _
  · exact liveSeed_ne_zero _

/-- The lane reseeded, before its health is reported. -/
def State.reseeded (s : State) (k : Nat) (a : Lane) (j nb : BitVec 32) : State :=
  { s.bump with sorrel := putLane s.sorrel k ⟨s.reseedWord k a j, a.count - 65536, j, reseedFails a j nb⟩ }

/-- The cluster posts no other health event for 1 ms (R226). -/
def State.healthSilenced (s : State) (cl : Nat) : State := { s with far := { s.far with sorrelOff := s.far.sorrelOff.set cl 1000 } }

theorem State.healthSilenced_sorrelOff {cl : Nat} (s : State) (h : cl < s.far.sorrelOff.length) : (s.healthSilenced cl).far.sorrelOff.getD cl 0 = 1000 := by
  simp [State.healthSilenced, h]

theorem exec_sorrelReseed (cl lane : Nat) (j nb : BitVec 32) (s : State) :
    exec (.sorrelReseed cl lane j nb) s = execSorrelReseed cl lane j nb s := rfl

section
variable {cl lane k : Nat} {a : Lane} (hlane : s.sorrel.find? (fun p => p.1 == laneKey cl lane) = some (k, a)) (j nb : BitVec 32)
include hlane

theorem exec_sorrelReseed_early (h : s.strict = true ∨ a.count < 65536) : exec (.sorrelReseed cl lane j nb) s = .next s := by
  rw [exec_sorrelReseed, execSorrelReseed, hlane]
  exact if_pos (by simpa using h)

section
variable (hs : s.strict = false) (hc : 65536 ≤ a.count)
include hs hc

omit hlane in
theorem sorrelReseed_due : ¬(s.strict || decide (a.count < 65536)) = true := by simp [hs, hc]

/-- Nothing is posted for a lane that passes its health test, or whose cluster has posted within 1 ms. -/
theorem exec_sorrelReseed_quiet (h : reseedFails a j nb < 4 ∨ 16 ≤ cl ∨ s.far.sorrelOff.getD cl 0 ≠ 0) :
    exec (.sorrelReseed cl lane j nb) s = .next (s.reseeded k a j nb) := by
  have hquiet : (decide (reseedFails a j nb < 4) || decide (16 ≤ cl) || s.far.sorrelOff.getD cl 0 != 0) = true := by simpa [or_assoc] using h
  rw [exec_sorrelReseed, execSorrelReseed, hlane]
  exact (if_neg (sorrelReseed_due hs hc)).trans (if_pos hquiet)

/-- Four repeats in a row are reported, once in 1 ms for a cluster. -/
theorem exec_sorrelReseed_failed (hfour : 4 ≤ reseedFails a j nb) (hcl : cl < 16) (hoff : s.far.sorrelOff.getD cl 0 = 0) :
    ∃ (e : EvRec) (x : Exc), exec (.sorrelReseed cl lane j nb) s = .next ((((s.reseeded k a j nb).healthSilenced cl).post e).raise x e) ∧ e.cls = 15 := by
  have hmet : ¬(decide (reseedFails a j nb < 4) || decide (16 ≤ cl) || s.far.sorrelOff.getD cl 0 != 0) = true := by
    rw [hoff]
    simp [hfour, hcl]
  rw [exec_sorrelReseed, execSorrelReseed, hlane]
  exact ⟨_, _, (if_neg (sorrelReseed_due hs hc)).trans (if_neg hmet), rfl⟩

end

end

end Sys2Proof.Machine
end

section
/-! PROOF. Damage of SRAM, the scrubber, the windows and the health of Sorrel's lanes (R221, R226, R227, R470, R471, R475, R478). -/

namespace Sys2Proof.Machine

variable {s : State} {part : SramPart}

/-! Words of SRAM. -/

theorem exec_sramPatrol_down (h : s.domainOn (partDomain part) = false) (double storm : Bool) (syn : BitVec 8) :
    exec (.sramPatrol part double storm syn) s = .next s := by
  change execSramPatrol part double storm syn s = _
  simp [execSramPatrol, h]

theorem exec_sramPatrol_corrected (h : s.domainOn (partDomain part) = true) (storm : Bool) (syn : BitVec 8) :
    exec (.sramPatrol part false storm syn) s = .next (s.corrected part storm syn) := by
  change execSramPatrol part false storm syn s = _
  simp [execSramPatrol, h]

theorem exec_sramPatrol_uncorrectable (h : s.domainOn (partDomain part) = true) (storm : Bool) (syn : BitVec 8) :
    exec (.sramPatrol part true storm syn) s = .next (s.uncorrectable part) := by
  change execSramPatrol part true storm syn s = _
  simp [execSramPatrol, h]

/-- A word found before is not counted again (R470). -/
theorem exec_sramPatrol_known (h : part ∈ s.bad) (storm : Bool) (syn : BitVec 8) :
    exec (.sramPatrol part true storm syn) s = .next s := by
  change execSramPatrol part true storm syn s = _
  simp [execSramPatrol, State.uncorrectable, h]

theorem correctedWord_counted (h : s.domainOn (partDomain part) = true) (storm : Bool) (syn : BitVec 8) :
    ∃ u, exec (.sramPatrol part false storm syn) s = .next u ∧ u.getF fCE_SRAM = Nat.min (2 ^ 32 - 1) (s.getF fCE_SRAM + 1) ∧
      u.pad = s.pad ∧ u.bad = s.bad ∧ u.flights = s.flights ∧ u.mem = s.mem := by
  have hrep := s.corrected_reported part storm syn
  have hhold : (s.corrected part storm syn).holdings = s.holdings := hrep.holdings
  refine ⟨_, exec_sramPatrol_corrected h storm syn, ?_, congrArg Holdings.pad hhold, congrArg Holdings.bad hhold,
    congrArg Holdings.flights hhold, s.corrected_mem part storm syn⟩
  exact (hrep.getF (by decide)).trans (State.getF_addSat_same fCE_SRAM 1 (by decide))

theorem uncorrectableWord_counted (h : s.domainOn (partDomain part) = true) (hnew : part ∉ s.bad) (storm : Bool) (syn : BitVec 8) :
    ∃ u, exec (.sramPatrol part true storm syn) s = .next u ∧ u.getF fUE_SRAM = Nat.min (2 ^ 32 - 1) (s.getF fUE_SRAM + 1) ∧
      u.flag (fERR_CLASS 1) = true ∧ u.fuses = s.fuses ∧ (partRestored part = false → part ∈ u.bad) ∧
      (∀ cl w, part = .laneCopy cl w → u.flights = s.flights) ∧ (∀ t w, part = .tenantKey t w → u.keySet t = false) := by
  obtain ⟨e, hcls, hrep⟩ := State.uncorrectable_reported s hnew
  have hall : Reported (s.damageCounted part) ((s.damageCounted part).post e) := .post .none e
  have hhold : (s.uncorrectable part).holdings = (s.damageCounted part).holdings := hrep.holdings.trans hall.holdings
  have hword {o : Nat} (ho : o ∉ eventWords) : (s.uncorrectable part).reg o = (s.damageCounted part).reg o :=
    (hrep.reg ho).trans (hall.reg ho)
  refine ⟨_, exec_sramPatrol_uncorrectable h storm syn, ?count, ?error, ?fuses, fun hbad => ?mark, fun cl w hpart => ?lane, fun t w hpart => ?key⟩
  case count => exact (State.getF_congr (hword (by decide))).trans (s.damageCounted_ueSram part)
  case error => exact hrep.keeps (.errClass (by decide)) (State.post_errClass _ hcls (by decide))
  case fuses => exact (congrArg Holdings.fuses hhold).trans ((State.markBad_fuses _ part).trans (s.hitPart_fuses part))
  case mark =>
    have hbads : (s.uncorrectable part).bad = (s.damageCounted part).bad := congrArg Holdings.bad hhold
    rw [hbads]
    exact State.mem_markBad _ hbad
  case lane =>
    subst hpart
    exact congrArg Holdings.flights hhold
  case key =>
    subst hpart
    have hkey (hi : Nat) : kYKEY t hi ∉ eventWords := by
      simp only [eventWords, kYKEY, rEV_SIZE, List.mem_cons, List.not_mem_nil, or_false]
      omega
    rw [← s.damageCounted_keySet t w, State.keySet, State.keySet, hword (hkey 0), hword (hkey 1)]

/-! The scrubber. -/

section
variable {p : ScrubPos} {v : PlaneView} {x : RecId} {g : Bool}

/-- What reading a record and moving on comes to: a pass is counted where no record is left, and no data changes. -/
theorem scrubRecord_scrubNext (t : State) (planes : List (PlaneView × Nat)) :
    ((t.scrubRecord v x g).scrubNext planes p).getF fPASSES =
        (t.getF fPASSES + if scrubFrom planes (p.1, p.2.1, p.2.2 + 1) = none then 1 else 0) % 2 ^ 32 ∧
      ((t.scrubRecord v x g).scrubNext planes p).pad = t.pad ∧ ((t.scrubRecord v x g).scrubNext planes p).flights = t.flights := by
  have hrep := t.scrubRecord_reported v x g
  have hpass : (t.scrubRecord v x g).getF fPASSES = t.getF fPASSES := hrep.getF (by decide)
  have hhold := hrep.holdings
  refine ⟨?_, ?_, ?_⟩
  · rw [State.scrubNext_passes, hpass]
  · exact (congrArg Holdings.pad (State.scrubNext_holdings ..)).trans (congrArg Holdings.pad hhold)
  · exact (congrArg Holdings.flights (State.scrubNext_holdings ..)).trans (congrArg Holdings.flights hhold)

/-- The scrubber reads the record at its place or behind it; where none is left a pass is complete, and the next one begins. -/
theorem scrubRead_counted (hen : s.flag fSCRUB_EN = true)
    (h : scrubFrom s.scrubPlanes s.scrub = some (p, v, x) ∨
      (scrubFrom s.scrubPlanes s.scrub = none ∧ scrubFrom s.scrubPlanes (0, 0, 0) = some (p, v, x))) :
    ∃ u, exec (.scrubRead g) s = .next u ∧
      u.scrub = ((scrubFrom s.scrubPlanes (p.1, p.2.1, p.2.2 + 1)).map (·.1)).getD (0, 0, 0) ∧
      u.getF fPASSES = (s.getF fPASSES + (if scrubFrom s.scrubPlanes s.scrub = none then 1 else 0) +
        (if scrubFrom s.scrubPlanes (p.1, p.2.1, p.2.2 + 1) = none then 1 else 0)) % 2 ^ 32 ∧
      u.pad = s.pad ∧ u.flights = s.flights := by
  rcases h with hhere | ⟨hnone, hfirst⟩
  · obtain ⟨hpass, hpad, hfl⟩ := scrubRecord_scrubNext (p := p) (v := v) (x := x) (g := g) s s.scrubPlanes
    refine ⟨_, exec_scrubRead_here hen hhere g, State.scrubNext_scrub .., ?_, hpad, hfl⟩
    simpa [hhere] using hpass
  · obtain ⟨hpass, hpad, hfl⟩ := scrubRecord_scrubNext (p := p) (v := v) (x := x) (g := g) (s.addMod fPASSES 1) s.scrubPlanes
    have hbegun : (s.addMod fPASSES 1).getF fPASSES = (s.getF fPASSES + 1) % 2 ^ 32 := s.getF_addMod_same fPASSES 1 (by decide)
    refine ⟨_, exec_scrubRead_first hen hnone hfirst g, State.scrubNext_scrub .., ?_, hpad, hfl⟩
    rw [hpass, hbegun, Nat.mod_add_mod, if_pos hnone]

end

/-! Windows. -/

theorem windowClosed {k : CoalKey} {e : EvRec} (hk : ∀ a b, k ≠ .rowCode a b) (h : s.ev.coal.find? (fun p => p.1 == k) = some (k, e)) :
    ∃ u, exec (.coalesceWindowClose k) s = .next u ∧ u.ev.coal = s.ev.coal.filter (fun p => !(p.1 == k)) ∧
      u.ev.seq = (s.ev.seq + 1) % 2 ^ 32 ∧ u.flights = s.flights ∧ u.fuses = s.fuses := by
  obtain ⟨u, hu, hframe⟩ := exec_coalesceWindowClose hk s
  have hwin : u.windows = (s.ev.coal.filter fun q => !(q.1 == k), (s.ev.seq + 1) % 2 ^ 32) := by
    rw [hframe]
    exact State.closeWindow_windows h
  refine ⟨u, hu, congrArg Prod.fst hwin, congrArg Prod.snd hwin, ?_, ?_⟩
  · rw [hframe]
    exact State.closeWindow_flights ..
  · rw [hframe]
    exact State.closeWindow_fuses ..

/-! Sorrel's lanes. -/

theorem laneReseeded {cl lane k : Nat} {a : Lane} (hlane : s.sorrel.find? (fun p => p.1 == laneKey cl lane) = some (k, a)) (j nb : BitVec 32)
    (hs : s.strict = false) (hc : 65536 ≤ a.count) :
    ∃ u x, exec (.sorrelReseed cl lane j nb) s = .next u ∧
      u.sorrel = putLane s.sorrel k ⟨x, a.count - 65536, j, reseedFails a j nb⟩ ∧
      (a.count = 65536 → x = if a.x ^^^ j = 0 then 1 else a.x ^^^ j) ∧ x ≠ 0 ∧ u.flights = s.flights ∧ u.pad = s.pad ∧
      (reseedFails a j nb < 4 → u = { s with sorrel := u.sorrel, freeCtr := s.freeCtr + 1 }) ∧
      (4 ≤ reseedFails a j nb → cl < 16 → s.far.sorrelOff.getD cl 0 = 0 → u.flag (fERR_CLASS 15) = true ∧
        (cl < s.far.sorrelOff.length → u.far.sorrelOff.getD cl 0 = 1000)) := by
  have hword : a.count = 65536 → s.reseedWord k a j = if a.x ^^^ j = 0 then 1 else a.x ^^^ j := fun h => s.reseedWord_of_exact k j h
  by_cases hmet : reseedFails a j nb < 4 ∨ 16 ≤ cl ∨ s.far.sorrelOff.getD cl 0 ≠ 0
  · refine ⟨_, s.reseedWord k a j, exec_sorrelReseed_quiet hlane j nb hs hc hmet, rfl, hword, s.reseedWord_ne_zero k a j, rfl, rfl,
      fun _ => rfl, fun hfour hcl hoff => ?_⟩
    rcases hmet with h | h | h
    · omega
    · omega
    · exact absurd hoff h
  · obtain ⟨hfour, hcl, hoff⟩ : 4 ≤ reseedFails a j nb ∧ cl < 16 ∧ s.far.sorrelOff.getD cl 0 = 0 := by
      simpa [not_or] using hmet
    obtain ⟨e, x, hrun, hcls⟩ := exec_sorrelReseed_failed hlane j nb hs hc hfour hcl hoff
    have hrep : Reported ((s.reseeded k a j nb).healthSilenced cl) ((((s.reseeded k a j nb).healthSilenced cl).post e).raise x e) :=
      .raise (.post .none e) x e
    have hhold := hrep.holdings
    refine ⟨_, s.reseedWord k a j, hrun, ?_, hword, s.reseedWord_ne_zero k a j, congrArg Holdings.flights hhold,
      congrArg Holdings.pad hhold, fun h => absurd h (by omega), fun _ _ _ => ⟨?_, fun hlen => ?_⟩⟩
    · rw [hrep.frame]
      rfl
    · exact (KeptByEvents.errClass (by decide)).raise (State.post_errClass _ hcls (by decide)) x e
    · rw [State.raise_sorrelOff, State.post_far]
      exact (s.reseeded k a j nb).healthSilenced_sorrelOff hlen

/-- Settles O53: a word is counted where its domain reads it, and its part is hit once; the scrubber, the windows and the lanes each go on by the state that they have come to. -/
theorem damageIsCountedAndReported : Obligations.DamageIsCountedAndReported := by
  unfold Obligations.DamageIsCountedAndReported
  intro s
  refine ⟨fun part double storm syn h => exec_sramPatrol_down h double storm syn, fun part storm syn h => correctedWord_counted h storm syn,
    fun part storm syn h => exec_sramPatrol_known h storm syn, fun part storm syn h hnew => uncorrectableWord_counted h hnew storm syn,
    exec_scrubRead_off, fun g hen => ⟨fun hhere hfirst => exec_scrubRead_empty hen hhere hfirst g, fun p v x h => ?scrub⟩,
    fun a b => rfl, fun k e hk h => windowClosed hk h,
    fun cl lane j nb k a hlane => ⟨exec_sorrelReseed_early hlane j nb, fun hs hc => ?reseed⟩⟩
  case scrub =>
    obtain ⟨u, hrun, hscrub, hrest⟩ := scrubRead_counted (g := g) hen h
    refine ⟨u, hrun, hscrub.trans ?_, hrest⟩
    cases scrubFrom s.scrubPlanes (p.1, p.2.1, p.2.2 + 1) <;> rfl
  case reseed =>
    rw [← reseedFails_eq]
    exact laneReseeded hlane j nb hs hc

end Sys2Proof.Machine
end

section
/-! SUPPORT. What keeps the stores canonical: the fields that `Canonical` does not speak of, a region replaced, a branch, a fold. -/

namespace Sys2Proof.Machine

variable {s t : State}

section
variable {α : Type} {d : Nat → α}

theorem Store.wf_nil : Store.wf d [] := ⟨.nil, fun _ h => nomatch h⟩

theorem Store.wf_filter {l : Store α} (h : Store.wf d l) (f : Nat × α → Bool) : Store.wf d (l.filter f) :=
  ⟨h.1.filter f, fun p hp => h.2 p (List.mem_filter.1 hp).1⟩

theorem Store.wf_foldl_write [DecidableEq α] {β : Type} {k : β → Nat} {v : β → α} {l : Store α} (h : Store.wf d l) {xs : List β} :
    Store.wf d (xs.foldl (fun m x => Store.write d m (k x) (v x)) l) := by
  induction xs generalizing l with
  | nil => exact h
  | cons x xs ih => exact ih (Store.wf_write d h _ _)

/-- A region has its keys in the order of the store, and holds none of the values that an unlisted key reads as. -/
theorem Store.wf_region {c : α} {l : Store α} (h : Store.wf (fun _ => c) l) (r : Nat) : Store.wf (fun _ => c) (Store.region l r) := by
  obtain ⟨hkeys, hvals⟩ := h
  constructor
  · refine List.Pairwise.filterMap _ (fun p q hpq x hx y hy => ?_) hkeys
    simp only [Option.ite_none_right_eq_some, Option.some.injEq] at hx hy
    obtain ⟨hp, rfl⟩ := hx
    obtain ⟨hq, rfl⟩ := hy
    dsimp only
    omega
  · intro x hx
    obtain ⟨p, hp, hx⟩ := List.mem_filterMap.1 hx
    simp only [Option.ite_none_right_eq_some, Option.some.injEq] at hx
    obtain ⟨-, rfl⟩ := hx
    exact hvals p hp

/-- The entries below a region, its new entries and those above it stand in the order of their keys. -/
theorem Store.wf_setRegion {c : α} {l x : Store α} {r : Nat} (hl : Store.wf (fun _ => c) l) (hx : Store.wf (fun _ => c) x)
    (hlt : ∀ p ∈ x, p.1 < 2 ^ 16) : Store.wf (fun _ => c) (Store.setRegion l r x) := by
  obtain ⟨hlow, hlowVals⟩ := Store.wf_filter hl fun p => decide (p.1 / 2 ^ 16 < r)
  obtain ⟨hhigh, hhighVals⟩ := Store.wf_filter hl fun p => decide (r < p.1 / 2 ^ 16)
  obtain ⟨hkeys, hvals⟩ := hx
  have hnew : (x.map fun p => (2 ^ 16 * r + p.1, p.2)).Pairwise fun p q => p.1 < q.1 :=
    hkeys.map _ fun p q hpq => Nat.add_lt_add_left hpq _
  refine ⟨List.pairwise_append.2 ⟨List.pairwise_append.2 ⟨hlow, hnew, ?_⟩, hhigh, ?_⟩, ?_⟩
  · intro p hp q hq
    obtain ⟨q, hq, rfl⟩ := List.mem_map.1 hq
    have := (List.mem_filter.1 hp).2
    simp only [decide_eq_true_eq] at this
    dsimp only
    omega
  · intro p hp q hq
    have hq := (List.mem_filter.1 hq).2
    simp only [decide_eq_true_eq] at hq
    rcases List.mem_append.1 hp with hp | hp
    · have := (List.mem_filter.1 hp).2
      simp only [decide_eq_true_eq] at this
      omega
    · obtain ⟨p, hx, rfl⟩ := List.mem_map.1 hp
      have := hlt p hx
      dsimp only
      omega
  · intro p hp
    rcases List.mem_append.1 hp with hp | hp
    · rcases List.mem_append.1 hp with hp | hp
      · exact hlowVals p hp
      · obtain ⟨q, hq, rfl⟩ := List.mem_map.1 hp
        exact hvals q hq
    · exact hhighVals p hp

end

/-- The state `t` with other values in fields that `Canonical` does not speak of. -/
theorem Canonical.frame
    {pe fc rs rh fu fp tr pf pd ba lt tq tp qs nl nd no fl pl rq rr mj ms sh rt st yb yl ou go ar sy po ev fa te so sc qu}
    (h : Canonical t) :
    Canonical ⟨pe, fc, rs, rh, t.regs, t.mem, t.memMark, fu, fp, tr, t.pad, pf, pd, ba, t.banks, t.lanes, lt, tq, tp, qs, nl, nd, no, fl, pl,
      rq, rr, mj, ms, t.reqs, sh, rt, st, yb, yl, ou, go, t.link, ar, sy, po, ev, fa, te, so, sc, qu⟩ :=
  ⟨h.regs, h.mem, h.marks, h.pad, h.banks, h.lanes, h.reqs, h.epochs⟩

/-- The same where the link's state has changed too, but for its epochs. -/
theorem Canonical.frameLink
    {pe fc rs rh fu fp tr pf pd ba lt tq tp qs nl nd no fl pl rq rr mj ms sh rt st yb yl ou go ar sy po ev fa te so sc qu
      cs cm ks kg is hd da dr io se me fs mq md mr cp gq}
    (h : Canonical t) :
    Canonical ⟨pe, fc, rs, rh, t.regs, t.mem, t.memMark, fu, fp, tr, t.pad, pf, pd, ba, t.banks, t.lanes, lt, tq, tp, qs, nl, nd, no, fl, pl,
      rq, rr, mj, ms, t.reqs, sh, rt, st, yb, yl, ou, go, ⟨t.link.epochs, cs, cm, ks, kg, is, hd, da, dr, io, se, me, fs, mq, md, mr, cp, gq⟩,
      ar, sy, po, ev, fa, te, so, sc, qu⟩ :=
  ⟨h.regs, h.mem, h.marks, h.pad, h.banks, h.lanes, h.reqs, h.epochs⟩

/-- Another link with the same epochs. -/
theorem Canonical.setLink {l : LinkX} (h : Canonical s) (hl : l.epochs = s.link.epochs) : Canonical { s with link := l } :=
  { h with epochs := hl ▸ h.epochs }

theorem Canonical.ite {c : Prop} {_ : Decidable c} (hs : Canonical s) (ht : Canonical t) : Canonical (if c then s else t) := by split <;> assumption

theorem Canonical.ite_fst {β : Type} {p q : State × β} {c : Prop} {_ : Decidable c} (hp : Canonical p.1) (hq : Canonical q.1) :
    Canonical (if c then p else q).1 := by
  split <;> assumption

theorem Canonical.of_fst {β : Type} {p : State × β} {b : β} (e : p = (t, b)) (h : Canonical p.1) : Canonical t := by
  rw [e] at h
  exact h

theorem Canonical.foldl {α : Type} {f : State → α → State} {l : List α} (h : Canonical s) (hf : ∀ {t x}, Canonical t → Canonical (f t x)) :
    Canonical (l.foldl f s) := by
  induction l generalizing s with
  | nil => exact h
  | cons x l ih => exact ih (hf h)

theorem Canonical.foldl_fst {α β : Type} {f : State × β → α → State × β} {l : List α} {a : State × β} (h : Canonical a.1)
    (hf : ∀ {b x}, Canonical b.1 → Canonical (f b x).1) : Canonical (l.foldl f a).1 := by
  induction l generalizing a with
  | nil => exact h
  | cons x l ih => exact ih (hf h)

/-- The state that a command answers has its stores canonical. -/
def CanonicalNext (o : Host.Outcome State Fault Refusal) : Prop := ∀ t, o = .next t → Canonical t

theorem CanonicalNext.next (h : Canonical s) : CanonicalNext (.next s) := fun _ e => by cases e; exact h

theorem CanonicalNext.ite {o p : Host.Outcome State Fault Refusal} {c : Prop} {_ : Decidable c} (ho : CanonicalNext o) (hp : CanonicalNext p) :
    CanonicalNext (if c then o else p) := by
  split <;> assumption

/-- The state that an access leaves, where it is not refused, has its stores canonical. -/
def CanonicalSome (o : Option State) : Prop := ∀ t, o = some t → Canonical t

theorem CanonicalSome.some (h : Canonical s) : CanonicalSome (some s) := fun _ e => by cases e; exact h

theorem CanonicalSome.none : CanonicalSome none := fun _ e => nomatch e

theorem CanonicalSome.ite {o p : Option State} {c : Prop} {_ : Decidable c} (ho : CanonicalSome o) (hp : CanonicalSome p) :
    CanonicalSome (if c then o else p) := by
  split <;> assumption

end Sys2Proof.Machine
end

section
/-! SUPPORT. Registers, host memory, the ports and the event ring keep the stores canonical. -/

namespace Sys2Proof.Machine

variable {s t : State}

theorem Canonical.setReg {off : Nat} {v : Word64} (h : Canonical s) : Canonical (s.setReg off v) :=
  { h with regs := Store.wf_write _ h.regs off v }

theorem Canonical.setF {f : Fld} {v : Nat} (h : Canonical s) : Canonical (s.setF f v) :=
  h.setReg

theorem Canonical.setFlag {f : Fld} {b : Bool} (h : Canonical s) : Canonical (s.setFlag f b) :=
  h.setF

theorem Canonical.addSat {f : Fld} {n : Nat} (h : Canonical s) : Canonical (s.addSat f n) :=
  h.setF

theorem Canonical.addMod {f : Fld} {n : Nat} (h : Canonical s) : Canonical (s.addMod f n) :=
  h.setF

theorem Canonical.bump (h : Canonical s) : Canonical s.bump :=
  h.frame

theorem Canonical.setBit {f : Fld} {n : Nat} {b : Bool} (h : Canonical s) : Canonical (s.setBit f n b) :=
  h.setF

theorem Canonical.answer {status : Nat} {words : List Word64} (h : Canonical s) : Canonical (s.answer status words) :=
  h.frame

theorem Canonical.putMem {a : Nat} {bs : List Byte} (h : Canonical s) : Canonical (s.putMem a bs) :=
  { h with mem := Store.wf_writeRange _ h.mem a bs }

theorem Canonical.setMarks {k : Nat} {ms : List Mark} (h : Canonical s) :
    Canonical { s with memMark := Store.writeRange markDefault s.memMark k ms } :=
  { h with marks := Store.wf_writeRange _ h.marks k ms }

theorem pumpOne_epochs (c : PumpCtx) (x : PumpX) (o : Outstanding) : (pumpOne c x o).2.link.epochs = x.link.epochs := by
  unfold pumpOne
  split
  · rfl
  · split
    · rfl
    · split
      · dsimp only
        split <;> rw [PumpX.took_link] <;> rfl
      · rfl

theorem pumpAll_epochs (c : PumpCtx) (x : PumpX) (l : List Outstanding) : (pumpAll c x l).2.link.epochs = x.link.epochs := by
  induction l generalizing x with
  | nil => rfl
  | cons o r ih => exact (ih _).trans (pumpOne_epochs c x o)

theorem Canonical.pump {p : Port} (h : Canonical s) : Canonical (s.pump p) :=
  { h with epochs := (pumpAll_epochs ..).symm ▸ h.epochs }

theorem Canonical.send {p : Port} {addr len : Nat} {why : Purpose2} {f' : Header} {d : List (BitVec 128)} (h : Canonical s) :
    Canonical (s.send p addr len why f' d) :=
  h.frame.pump

theorem Canonical.issueRd {m : Port × Nat × Nat} (h : Canonical s) : Canonical (s.issueRd m) :=
  .ite h.send h

theorem Canonical.issueRead {a n : Nat} (h : Canonical s) : Canonical (s.issueRead a n) :=
  h.foldl fun h1 => h1.issueRd

theorem Canonical.writeBy {p : Option Port} {vc a : Nat} {bs : List Byte} {why : Purpose2} (h : Canonical s) : Canonical (s.writeBy p vc a bs why) := by
  unfold State.writeBy
  refine h.foldl fun h1 => ?_
  split
  · exact (Canonical.ite h1.putMem h1).send
  · exact .ite h1.putMem.send h1

theorem Canonical.writeHost {a : Nat} {bs : List Byte} {why : Purpose2} (h : Canonical s) : Canonical (s.writeHost a bs why) :=
  h.writeBy

theorem Canonical.sendAtom {vc sub a : Nat} {x : Word64} {why : Purpose2} (h : Canonical s) : Canonical (s.sendAtom vc sub a x why) :=
  h.send

theorem Canonical.noteTail (h : Canonical s) : Canonical s.noteTail :=
  .ite h h.frame.writeHost

theorem Canonical.advanceTail {n : Nat} (h : Canonical s) : Canonical (s.advanceTail n) := by
  induction n generalizing s with
  | zero => exact h
  | succ n ih => exact .ite (ih h.frame.setF) h

theorem Canonical.ackEvent {i : Nat} (h : Canonical s) : Canonical (s.ackEvent i) :=
  h.frame.advanceTail.noteTail

theorem Canonical.issueEvent {e : EvRec} (h : Canonical s) : Canonical (s.issueEvent e) := by
  refine .ite ?_ ?_
  · exact h.frame
  · exact .ite (.ite h.frame.frame.writeHost h.frame.frame.writeHost.ackEvent) h.frame.addSat

theorem Canonical.post {e : EvRec} (h : Canonical s) : Canonical (s.post e) :=
  h.setF.issueEvent

theorem Canonical.coalesce {k : CoalKey} {e : EvRec} (h : Canonical s) : Canonical (s.coalesce k e) :=
  .ite h.setF.frame h.setF.frame

theorem Canonical.closeWindow {k : CoalKey} (h : Canonical s) : Canonical (s.closeWindow k) := by
  unfold State.closeWindow
  split
  · exact h
  · exact h.frame.issueEvent

theorem Canonical.poisonEvents {req sev : Nat} {gs : List (Nat × Mark)} {who : Who} {row : Nat} (h : Canonical s) :
    Canonical (s.poisonEvents req sev gs who row) :=
  h.foldl fun h1 => .ite h1 h1.coalesce

theorem Canonical.readHost {req sev a n : Nat} {who : Who} {row : Nat} (h : Canonical s) : Canonical (s.readHost req sev a n who row).1 :=
  h.issueRead.poisonEvents

theorem Canonical.raise {x : Exc} {e : EvRec} (h : Canonical s) : Canonical (s.raise x e) :=
  .ite h.frame.addSat.coalesce h.frame.setF

end Sys2Proof.Machine
end

section
/-! SUPPORT. Queues, flights, the pad and the marks keep the stores canonical. -/

namespace Sys2Proof.Machine

variable {s t : State}

theorem Canonical.setQx {q : Nat} {x : QueueX} (h : Canonical s) : Canonical (s.setQx q x) :=
  h.frame

theorem Canonical.refresh {q : Nat} (h : Canonical s) : Canonical (s.refresh q) :=
  .ite h h.setF

theorem Canonical.haltAt {q code order : Nat} (h : Canonical s) : Canonical (s.haltAt q code order) :=
  h.setF.setF.frame

theorem Canonical.halt {q code order slot stepId : Nat} (h : Canonical s) : Canonical (s.halt q code order slot stepId) :=
  .ite h.haltAt h.haltAt.post

theorem Canonical.passItem {q : Nat} {gated : Bool} (h : Canonical s) : Canonical (s.passItem q gated) := by
  unfold State.passItem
  split
  · exact h
  · exact h.setQx.addMod.refresh

theorem Canonical.holdPins (h : Canonical s) : Canonical s.holdPins :=
  .ite h.frame h

theorem Canonical.setFlight {f : Flight} (h : Canonical s) : Canonical (s.setFlight f) :=
  h.frame

theorem Canonical.rowEvent {f : Flight} {code row n cause slot : Nat} (h : Canonical s) : Canonical (s.rowEvent f code row n cause slot) :=
  h.coalesce

theorem Canonical.setReq {slot : Nat} {r : ReqX} (h : Canonical s) : Canonical (s.setReq slot r) :=
  { h with reqs := Store.wf_write _ h.reqs slot r }

theorem Canonical.copyLane {b e cl : Nat} (h : Canonical s) : Canonical (s.copyLane b e cl) :=
  { h with lanes := Store.wf_setRegion h.lanes (Store.wf_region h.banks b) fun _ => Store.key_lt_of_mem_region }

theorem Canonical.dirtyPad {a b : Nat} (h : Canonical s) : Canonical (s.dirtyPad a b) :=
  h.frame

theorem Canonical.putPad {cl byte : Nat} {bs : List Byte} (h : Canonical s) : Canonical (s.putPad cl byte bs) :=
  { h with pad := Store.wf_writeRange _ h.pad _ bs }

/-- The requests' store replaced by another canonical one. -/
theorem Canonical.setReqs {l : Store ReqX} (h : Canonical s) (hl : Store.wf reqDefault l) : Canonical { s with reqs := l } :=
  { h with reqs := hl }

/-- The banks replaced by another canonical store. -/
theorem Canonical.setBanks {l : Store Word64} (h : Canonical s) (hl : Store.wf bankDefault l) : Canonical { s with banks := l } :=
  { h with banks := hl }

theorem Canonical.mend {p : SramPart → Bool} (h : Canonical s) : Canonical (s.mend p) :=
  h.frame

theorem Canonical.advanceG (h : Canonical s) : Canonical s.advanceG :=
  h.frame

theorem Canonical.writeNote {slot : Nat} {why : Option Purpose2} (h : Canonical s) : Canonical (s.writeNote slot why) := by
  unfold State.writeNote
  split
  · exact h
  · exact .ite h h.writeHost

theorem Canonical.freeRets {slot : Nat} (h : Canonical s) : Canonical (s.freeRets slot) :=
  h.frame

end Sys2Proof.Machine
end

section
/-! SUPPORT. The requests, their leases and their admission keep the stores canonical. -/

namespace Sys2Proof.Machine

variable {s t : State}

theorem Canonical.enter {slot st reason : Nat} {why : Option Purpose2} (h : Canonical s) : Canonical (s.enter slot st reason why) :=
  h.setF.setF.freeRets.writeNote

theorem Canonical.wantEnd {slot st reason : Nat} (h : Canonical s) : Canonical (s.wantEnd slot st reason) :=
  h.setReq

theorem Canonical.settle {slot : Nat} {why : Option Purpose2} (h : Canonical s) : Canonical (s.settle slot why) := by
  unfold State.settle
  refine .ite h ?_
  split
  · exact .ite h.setReq h.setReq.enter
  · exact .ite h.enter h

theorem Canonical.stopReq {slot reason : Nat} (h : Canonical s) : Canonical (s.stopReq slot reason) :=
  h.setF.setF.freeRets

theorem Canonical.dropShadow {slot : Nat} (h : Canonical s) : Canonical (s.dropShadow slot) :=
  h.setReg.frame

theorem Canonical.leaseEvent {slot code cause : Nat} (h : Canonical s) : Canonical (s.leaseEvent slot code cause) :=
  h.post

theorem Canonical.leaseCas {slot : Nat} {expect new : Word64} {snd : Sender} (h : Canonical s) : Canonical (s.leaseCas slot expect new snd).1 :=
  Canonical.ite_fst h (Canonical.ite_fst h h.setReg.frame)

theorem Canonical.breakLease {slot cause : Nat} (h : Canonical s) : Canonical (s.breakLease slot cause) :=
  .ite h.leaseEvent.dropShadow h

theorem Canonical.breakAgent {agent : Nat} (h : Canonical s) : Canonical (s.breakAgent agent) :=
  h.foldl fun h1 => .ite h1.breakLease h1

theorem Canonical.pruneStops (h : Canonical s) : Canonical s.pruneStops :=
  h.frame

theorem Canonical.mendSlot {slot : Nat} (h : Canonical s) : Canonical (s.mendSlot slot) :=
  h.mend

theorem Canonical.levelEntry {slot : Nat} (h : Canonical s) : Canonical (s.levelEntry slot) :=
  .ite h.setF h

theorem Canonical.levelPrio (h : Canonical s) : Canonical s.levelPrio :=
  h.foldl fun h1 => h1.levelEntry

theorem Canonical.freeEntry {slot : Nat} (h : Canonical s) : Canonical (s.freeEntry slot) :=
  (h.foldl fun h1 => h1.setReg).levelEntry.mendSlot.setReq.freeRets.frame.pruneStops

theorem Canonical.applyEdit {slot : Nat} (h : Canonical s) : Canonical (s.applyEdit slot) := by
  unfold State.applyEdit
  split
  · exact h.dropShadow
  · extract_lets live want fixedDiff s1 s2 s3 s4
    have h1 : Canonical s1 := h.foldl fun h => h.setReg
    have h2 : Canonical s2 := h1.dropShadow
    have h3 : Canonical s3 := .ite h2.mendSlot h2.mend
    have h4 : Canonical s4 := .ite h3.setF h3
    exact .ite h.leaseEvent.dropShadow (.ite h.leaseEvent.dropShadow (.ite h4.freeEntry (.ite h4.stopReq.settle h4)))

theorem Canonical.leasePut {slot : Nat} {v : Word64} {snd : Sender} (h : Canonical s) : CanonicalSome (s.leasePut slot v snd) :=
  .ite .none (.ite (.some h.applyEdit) (.ite (.some h.dropShadow) .none))

theorem Canonical.writeEntry {slot w : Nat} {v : Word64} {snd : Sender} (h : Canonical s) : CanonicalSome (s.writeEntry slot w v snd) :=
  .ite (.some h.frame) .none

theorem Canonical.spillTable {slot : Nat} {who : Who} (h : Canonical s) : Canonical (s.spillTable slot who).1 :=
  h.foldl fun h1 => h1.readHost

theorem Canonical.spill {slot : Nat} {why : Purpose2} {who : Who} (h : Canonical s) : Canonical (s.spill slot why who).1 := by
  refine Canonical.ite_fst ?_ ?_
  · exact Canonical.ite_fst h h.spillTable
  · exact ((Canonical.ite_fst h h.spillTable).foldl fun h1 => h1.writeHost).setF.setFlag.setF.setReq

theorem Canonical.addHist {slot tok : Nat} {why : Purpose2} {who : Who} (h : Canonical s) : Canonical (s.addHist slot tok why who).1 :=
  Canonical.ite_fst (Canonical.ite_fst h.spill h) (Canonical.ite_fst h.spill h).setReq.setF

theorem Canonical.loadTables {slots : List Nat} {who : Who} (h : Canonical s) : Canonical (s.loadTables slots who).1 :=
  h.foldl_fst fun h1 => Canonical.ite_fst h1.spillTable h1

theorem Canonical.spilledCounts {tabs : List SpillTab} {slot : Nat} {who : Who} (h : Canonical s) : Canonical (s.spilledCounts tabs slot who).1 := by
  unfold State.spilledCounts
  refine Canonical.ite_fst h ?_
  split
  · exact h
  · exact h.spillTable

theorem Canonical.countList {tabs : List SpillTab} {slot : Nat} {who : Who} (h : Canonical s) : Canonical (s.countList tabs slot who).1 :=
  h.spilledCounts

theorem Canonical.readParam {addr : Nat} {who : Who} (h : Canonical s) : Canonical (s.readParam addr who).1 := by
  unfold State.readParam
  split
  next t b bad e =>
    have ht : Canonical t := .of_fst e h.readHost
    dsimp only
    split
    · exact ht
    · dsimp only
      exact ht.readHost

theorem Canonical.pushTail {slot tok : Nat} (h : Canonical s) : Canonical (s.pushTail slot tok) :=
  h.setReq

theorem Canonical.queueBlocks {slot upto : Nat} (h : Canonical s) : Canonical (s.queueBlocks slot upto) :=
  .ite h h.frame

theorem Canonical.admitStop {n : Nat} (h : Canonical s) : Canonical (s.admitStop n).1 :=
  Canonical.ite_fst h (Canonical.ite_fst h.readHost h.readHost.frame.mend)

theorem Canonical.admitRing {n : Nat} (h : Canonical s) : Canonical (s.admitRing n).1 :=
  Canonical.ite_fst h.readHost h.readHost.writeHost.writeHost

theorem Canonical.readPrompt {n : Nat} (h : Canonical s) : Canonical (s.readPrompt n).1 :=
  h.foldl_fst fun h1 => h1.readHost

theorem Canonical.countPrompt {n : Nat} {toks : List Nat} (h : Canonical s) : Canonical (s.countPrompt n toks).1 :=
  h.foldl_fst fun h1 => Canonical.ite_fst h1.addHist h1

theorem Canonical.uncount {n : Nat} (hs : Canonical s) (ht : Canonical t) : Canonical (s.uncount t n) :=
  (ht.setReqs hs.reqs).setF.setF.setFlag

theorem Canonical.admitHist {n : Nat} {hprompt : Bool} (h : Canonical s) : Canonical (s.admitHist n hprompt).1 := by
  unfold State.admitHist
  dsimp only
  exact .ite_fst h.readHost (.ite_fst h.readHost.readPrompt (.ite_fst h.readHost.readPrompt
    (.ite_fst h.readHost.readPrompt (h.readHost.readPrompt.uncount h.readHost.readPrompt.countPrompt))))

theorem Canonical.admitFail {n reason : Nat} (h : Canonical s) : Canonical (s.admitFail n reason) :=
  h.setF.setF.writeNote

theorem Canonical.admitReq {n : Nat} (h : Canonical s) : Canonical (s.admitReq n) := by
  unfold State.admitReq
  refine .ite h.admitFail ?_
  split
  next s1 pb e1 =>
  have h1 : Canonical s1 := .of_fst e1 h.readParam
  split
  · exact h1.admitFail
  · refine .ite h1.admitFail ?_
    split
    next s2 ok2 e2 =>
    have h2 : Canonical s2 := .of_fst e2 h1.admitStop
    refine .ite h2.admitFail ?_
    split
    next s3 ok3 e3 =>
    have h3 : Canonical s3 := .of_fst e3 h2.admitRing
    refine .ite h3.admitFail ?_
    split
    next s4 ok4 toks e4 =>
    have h4 : Canonical s4 := .of_fst e4 h3.admitHist
    extract_lets s5 s6
    have h5 : Canonical s5 := .ite h4.countPrompt h4
    have h6 : Canonical s6 := h5.setFlag.setF.setF.setF
    exact .ite h4.admitFail (.ite h4.admitFail (.ite h6.queueBlocks (.ite h6 h6.frame)))

theorem execAdmission_canonical (h : Canonical s) : CanonicalNext (execAdmission s) := by
  unfold execAdmission
  split
  · exact .next h
  · exact .ite (.next h.admitReq) (.next h)

theorem execLeaseTimeout_canonical {slot : Nat} (h : Canonical s) : CanonicalNext (execLeaseTimeout slot s) :=
  .ite (.next h.breakLease) (.next h)

theorem execDeadlineScan_canonical (h : Canonical s) : CanonicalNext (execDeadlineScan s) :=
  .ite (.next h) (.next (h.foldl fun h1 => .ite h1.enter h1))

theorem execAgeing_canonical (h : Canonical s) : CanonicalNext (execAgeing s) :=
  .ite (.next h) (.next (h.foldl fun h1 => .ite h1.setF h1))

theorem Canonical.yReport {b : YBlock} {kind value : Nat} (h : Canonical s) : Canonical (s.yReport b kind value) :=
  .ite h.addSat h.writeHost.addMod

theorem Canonical.yLookup {b : YBlock} {bs : List Byte} {bad : Bool} (h : Canonical s) : Canonical (s.yLookup b bs bad) := by
  unfold State.yLookup
  dsimp only
  refine .ite h.yReport ?_
  split
  · exact h.yReport
  · exact .ite h.yReport h

theorem Canonical.ySend {b : YBlock} (h : Canonical s) : Canonical (s.ySend b) := by
  unfold State.ySend
  dsimp only
  split
  · exact .ite h.frame.send h.poisonEvents.yReport
  · exact h.frame.send

theorem Canonical.yAnswer {slot block : Nat} {bs : List Byte} {bad : Bool} (h : Canonical s) : Canonical (s.yAnswer slot block bs bad) := by
  unfold State.yAnswer
  split
  · exact h
  · exact h.frame.yLookup

theorem execYarrowBlock_canonical (h : Canonical s) : CanonicalNext (execYarrowBlock s) := by
  unfold execYarrowBlock
  split
  · exact .next h
  · refine .ite (.next h) ?_
    refine .ite (.ite (.next h.frame.addSat.yReport) (.next h.frame.ySend)) ?_
    refine .ite ?_ ?_
    · exact .next h.frame.addSat.yReport
    · exact .ite (.next h.frame.setF.setF.addSat.yReport) (.next h.frame.setF.setF.ySend)

theorem execYarrowReport_canonical (h : Canonical s) : CanonicalNext (execYarrowReport s) := by
  unfold execYarrowReport
  split
  · exact .next h
  · split
    · exact .next h
    · exact .next h.frame.pump.poisonEvents.yAnswer

end Sys2Proof.Machine
end

section
/-! SUPPORT. Plane sets, working sets, loads and history snapshots keep the stores canonical. -/

namespace Sys2Proof.Machine

variable {s t : State}

theorem Canonical.psFree {n : Nat} (h : Canonical s) : Canonical (s.psFree n) :=
  ((h.setReg.setFlag.foldl fun h1 => h1.setReg).setReg.frame).advanceG

theorem Canonical.psAdopt {n : Nat} (h : Canonical s) : Canonical (s.psAdopt n) := by
  unfold State.psAdopt
  split
  · exact h.post
  · exact (h.setF.frame).advanceG

theorem Canonical.writePsStat {n : Nat} {v : Word64} (h : Canonical s) : Canonical (s.writePsStat n v) :=
  .ite h.setF.psFree (.ite h.setF.setF.setF.psAdopt h.setF.setF.setF)

theorem Canonical.leaveWith {n : Nat} {cause : Option Nat} {exc : Bool} (h : Canonical s) : Canonical (s.leaveWith n cause exc) := by
  unfold State.leaveWith
  refine .ite h ?_
  refine Canonical.foldl ?_ fun h5 => ?_
  · split
    · exact ((h.setBit.advanceG.foldl fun h1 => h1.setF.setF.setF).foldl fun h2 => h2.setF).frame.post
    · exact ((h.setBit.advanceG.foldl fun h3 => h3.setF.setF.setF).foldl fun h4 => h4.setF).frame
  · exact h5.post

theorem Canonical.leaveService {n cause : Nat} (h : Canonical s) : Canonical (s.leaveService n cause) :=
  h.leaveWith

theorem Canonical.joinService {n : Nat} (h : Canonical s) : Canonical (s.joinService n) :=
  .ite h h.setBit.advanceG

theorem Canonical.sealEvents {stepId queue : Nat} {l : List SealEvent} {row : Nat} (h : Canonical s) : Canonical (s.sealEvents stepId queue l row) :=
  h.foldl fun h1 => .ite h1.frame.addSat.coalesce h1.frame.addSat.post

theorem Canonical.refuseStep {f : Flight} (h : Canonical s) : Canonical (s.refuseStep f) :=
  .ite h.setFlight h.setFlight.halt.setQx

theorem execAllocateWorkingSet_canonical {ln : Nat} (h : Canonical s) : CanonicalNext (execAllocateWorkingSet ln s) := by
  unfold execAllocateWorkingSet
  dsimp only
  split
  · exact .next h
  · refine .ite (.next h) ?_
    split
    · exact .next (.ite h h.refuseStep)
    · refine .ite ?_ ?_
      · exact .next (.ite h h.refuseStep)
      · exact .ite (.next h) (.next (h.foldl fun h1 => h1.dirtyPad).setFlight)

theorem Canonical.readRuns {p : StepProg} {who : Who} (h : Canonical s) : Canonical (s.readRuns p who).1 := by
  unfold State.readRuns
  split
  · exact h
  · exact h.readHost

theorem Canonical.replay {e : ScoreEntry} {b : ParamBlock} {who : Who} {row : Nat} (h : Canonical s) : Canonical (s.replay e b who row).1 :=
  Canonical.ite_fst h.readHost h.readHost

theorem Canonical.readHidden {req : Nat} {f : Flight} {r : Nat} (h : Canonical s) : Canonical (s.readHidden req f r).1 :=
  h.readHost

theorem Canonical.readBias {hb : Nat} {v : PlaneView} {who : Who} (h : Canonical s) : Canonical (s.readBias hb v who).1 :=
  Canonical.ite_fst h h.readHost

theorem Canonical.readRowMask {b : ParamBlock} {v : PlaneView} {who : Who} {row : Nat} (h : Canonical s) : Canonical (s.readRowMask b v who row).1 :=
  Canonical.ite_fst h h.readHost

theorem Canonical.readBlocks {addrs : List Nat} {who : Who} (h : Canonical s) : Canonical (s.readBlocks addrs who).1 :=
  h.foldl_fst fun h1 => h1.readParam

theorem Canonical.loadRow {f : Flight} {runs : List VRun} {blocks : List (Nat × Option ParamBlock)} {r : Nat} (h : Canonical s) :
    Canonical (s.loadRow f runs blocks r).1 := by
  unfold State.loadRow
  split
  next s1 g e1 =>
  have h1 : Canonical s1 := .of_fst e1 h.readHidden
  extract_lets
  split
  · exact h1.rowEvent
  · extract_lets serve s2 row raw cls s3
    have h3 : Canonical s3 := .ite h1.setF.rowEvent h1.setF
    split
    next blk cause e =>
    extract_lets s4
    have h4 : Canonical s4 := by
      unfold s4
      split
      exacts [h3.rowEvent, h3]
    split
    · exact h4
    · exact h4.readRowMask

theorem Canonical.loadScoreRow {f : Flight} {entries : List (ScoreEntry × Bool)} {blocks : List (Nat × Option ParamBlock)} {r : Nat} (h : Canonical s) :
    Canonical (s.loadScoreRow f entries blocks r).1 := by
  have hfail {t : State} {code row n cause slot} (ht : Canonical t) : Canonical (t.rowEvent f code row n cause slot) := ht.rowEvent
  unfold State.loadScoreRow
  dsimp only
  refine Canonical.ite_fst (hfail h.readHidden) ?_
  split
  · exact hfail h.readHidden
  · refine Canonical.ite_fst (hfail h.readHidden) ?_
    split
    next t e => exact hfail (.of_fst e h.readHidden.replay)
    next t _ e =>
      have ht : Canonical t := .of_fst e h.readHidden.replay
      exact (Canonical.ite (hfail ht) ht).readRowMask

theorem Canonical.waitStore {f : Flight} (h : Canonical s) : Canonical (s.waitStore f) :=
  .ite h h.addSat.setFlight

theorem Canonical.finishLoad {f : Flight} {runs : List VRun} {bytes : Nat} {rows : List RowState} (h : Canonical s) :
    Canonical (s.finishLoad f runs bytes rows) := by
  unfold State.finishLoad
  refine Canonical.setFlight ?_
  split
  · exact (h.foldl fun h1 => .ite h1.rowEvent h1).loadTables.readBias.readBias
  · exact (h.foldl fun h2 => .ite h2.rowEvent h2).loadTables.readBias

theorem execLoadh_canonical {ln : Nat} (h : Canonical s) : CanonicalNext (execLoadh ln s) := by
  unfold execLoadh
  split
  · exact .next h
  · refine .ite (.next h) ?_
    split
    · refine .ite (.next h.waitStore) ?_
      split
      next t1 _ _ e1 =>
        have h1 : Canonical t1 := .of_fst e1 h.readHost
        split
        next t2 _ e2 =>
          have h2 : Canonical t2 := .of_fst e2 h1.readBlocks
          split
          next t3 _ e3 =>
            have h3 : Canonical t3 := .of_fst e3 (h2.foldl_fst fun h4 => h4.loadScoreRow)
            exact .next h3.finishLoad
    · refine .ite (.next h.waitStore) ?_
      split
      next t5 _ e5 =>
        have h5 : Canonical t5 := .of_fst e5 h.readRuns
        split
        next t6 _ e6 =>
          have h6 : Canonical t6 := .of_fst e6 h5.readBlocks
          split
          next t7 _ e7 =>
            have h7 : Canonical t7 := .of_fst e7 (h6.foldl_fst fun h8 => h8.loadRow)
            exact .next h7.finishLoad

theorem Canonical.rereadCons {n : Nat} {who : Who} (h : Canonical s) : Canonical (s.rereadCons n who) :=
  .ite h.readHost h.readHost.setReq

theorem Canonical.takeSlots {n k : Nat} {merge : Bool} (h : Canonical s) : Canonical (s.takeSlots n k merge).1 :=
  Canonical.ite_fst h.setReq h.addSat

theorem Canonical.callEnd {n st reason : Nat} (h : Canonical s) : Canonical (s.callEnd n st reason) :=
  .ite h h.wantEnd

theorem Canonical.vacancy {n k : Nat} {merge : Bool} (h : Canonical s) : Canonical (s.vacancy n k merge).1 := by
  refine Canonical.ite_fst ?_ ?_
  · exact .ite ((Canonical.ite h.callEnd h).callEnd) (.ite h.callEnd h)
  · exact (Canonical.ite ((Canonical.ite h.callEnd h).callEnd) (.ite h.callEnd h)).takeSlots

theorem Canonical.snapRow {f : Flight} {done : List RowState} {r : Nat} {row : RowState} (h : Canonical s) : Canonical (s.snapRow f done r row).1 := by
  unfold State.snapRow
  split
  · exact h
  · extract_lets merge run j held first
    split
    next s1 vac e1 =>
    have h1 : Canonical s1 := .of_fst e1 (.ite_fst h.vacancy h)
    split
    next s2 c bad e2 =>
    extract_lets s3 s4 s5
    have h3 : Canonical s3 := .ite (.of_fst e2 h1.countList) h1
    have h4 : Canonical s4 := .ite h3.callEnd h3
    have h5 : Canonical s5 := .ite (by split; exacts [h4.setFlight, h4]) h4
    exact h5

theorem execHistorySnapshot_canonical {ln : Nat} (h : Canonical s) : CanonicalNext (execHistorySnapshot ln s) := by
  unfold execHistorySnapshot
  split
  · exact .next h
  · refine .ite (.next h) ?_
    dsimp only
    split
    · exact .next ((h.foldl fun h1 => h1.rereadCons).foldl_fst (a := (_, [])) fun h2 => h2.snapRow)
    · exact .next ((h.foldl fun h1 => h1.rereadCons).foldl_fst (a := (_, [])) fun h2 => h2.snapRow).setFlight

theorem execFillRelease_canonical {ln : Nat} (h : Canonical s) : CanonicalNext (execFillRelease ln s) := by
  unfold execFillRelease
  split
  · exact .next h
  · exact .ite (.next h) (.ite (.next h.setFlight) (.next h.setFlight))

end Sys2Proof.Machine
end

section
/-! SUPPORT. The passes of a step keep the stores canonical: screen, M0, refine, select, verify, score and gradient. -/

namespace Sys2Proof.Machine

variable {s t : State}

theorem Canonical.writeSlice {cl byte : Nat} {bs : List Byte} (h : Canonical s) : Canonical (s.writeSlice cl byte bs) :=
  h.putPad.frame

theorem Canonical.hurtScreen {f : Flight} (h : Canonical s) : Canonical (s.hurtScreen f).1 :=
  .ite h h.bump

theorem Canonical.recordPoison {req n : Nat} {who : Who} {l : Loc} {cured : Bool} {row : Nat} (h : Canonical s) :
    Canonical (s.recordPoison req n who l cured row) := by
  unfold State.recordPoison
  split
  · exact (Canonical.ite h.issueRead.issueRead h.issueRead).poisonEvents
  · exact h

theorem Canonical.screenPoison {who : Who} {v : PlaneView} {d : Deal} {full : Bool} {cured : List RecRef} (h : Canonical s) :
    Canonical (s.screenPoison who v d full cured) := by
  refine h.foldl fun h1 => ?_
  refine .ite ?_ ?_
  · exact (h1.foldl fun h2 => h2.foldl fun h3 => h3.recordPoison).foldl fun h4 => h4.foldl fun h5 => h5.recordPoison.recordPoison
  · exact h1.foldl fun h6 => h6.foldl fun h7 => h7.recordPoison

theorem Canonical.mendStream {ln : Nat} (h : Canonical s) : Canonical (s.mendStream ln) :=
  h.mend

theorem Canonical.mendLog {f : Flight} (h : Canonical s) : Canonical (s.mendLog f) :=
  .ite h.mend h

theorem Canonical.screenSet {f : Flight} {v : PlaneView} {cured : List RecRef} (h : Canonical s) : Canonical (s.screenSet f v cured).1 :=
  h.sealEvents.screenPoison

theorem execScreen_canonical {ln : Nat} {cured : List RecRef} (h : Canonical s) : CanonicalNext (execScreen ln cured s) := by
  unfold execScreen
  split
  · exact .next h
  · refine .ite (.next h) ?_
    refine .next ?_
    refine Canonical.setFlight ?_
    refine Canonical.mendLog ?_
    refine Canonical.mendStream ?_
    refine Canonical.hurtScreen ?_
    refine Canonical.screenSet ?_
    split
    · exact h.screenSet
    · exact h

theorem Canonical.teaselFail {f : Flight} {i : Nat} {r : RowState} (h : Canonical s) : Canonical (s.teaselFail f i r).1 :=
  h.rowEvent

theorem Canonical.m0Row {f : Flight} {i : Nat} {r : RowState} (h : Canonical s) : Canonical (s.m0Row f i r).1 := by
  unfold State.m0Row
  refine Canonical.ite_fst h ?_
  refine Canonical.ite_fst h.teaselFail ?_
  split
  · exact h
  · exact h
  · exact h
  · exact Canonical.ite_fst h (Canonical.ite_fst h.teaselFail h)

theorem Canonical.overRows {rows : List RowState} {g : State → Nat → RowState → State × RowState} (h : Canonical s)
    (hg : ∀ {t i r}, Canonical t → Canonical (g t i r).1) : Canonical (s.overRows rows g).1 :=
  Canonical.foldl_fst (a := (s, [])) h fun h1 => hg h1

theorem execM0Broadcast_canonical {ln : Nat} {lag : Bool} (h : Canonical s) : CanonicalNext (execM0Broadcast ln lag s) := by
  unfold execM0Broadcast
  dsimp only
  split
  · exact .next h
  · exact .ite (.next h) (.next (h.overRows fun h1 => h1.m0Row).setFlight)

theorem Canonical.secondScreen {f : Flight} {cured : List RecRef} (h : Canonical s) : Canonical (s.secondScreen f cured).1 :=
  h.screenSet.hurtScreen.mendStream

theorem execSumSweep_canonical {ln : Nat} {cured : List RecRef} (h : Canonical s) : CanonicalNext (execSumSweep ln cured s) := by
  unfold execSumSweep
  split
  · exact .next h
  · exact .ite (.next h) (.next (Canonical.ite_fst h.secondScreen h).setFlight)

theorem Canonical.refineRead {f : Flight} {row : Nat} {v : PlaneView} {kind id : Nat} {loc : Loc} {n : Nat} {tms : Int} {cured : List RecRef}
    (h : Canonical s) :
    Canonical (s.refineRead f row v kind id loc n tms cured).1 :=
  h.sealEvents.recordPoison

theorem Canonical.refineBias {f : Flight} {row : Nat} {fuse : Option (F32 × Nat)} {id : Nat} (h : Canonical s) :
    Canonical (s.refineBias f row fuse id).1 := by
  unfold State.refineBias
  split
  · exact h
  · exact Canonical.ite_fst h h.readHost

theorem Canonical.hurtRefine {r : RowState} {id : Nat} (h : Canonical s) : Canonical (s.hurtRefine r id).1 := by
  unfold State.hurtRefine
  split
  · exact Canonical.ite_fst h.bump h
  · exact h

theorem Canonical.refineTok {f : Flight} {i : Nat} {v : PlaneView} {fuse : Option (F32 × Nat)} {r : RowState} {g : HRow} {cured : List RecRef} {x : Tok}
    (h : Canonical s) : Canonical (s.refineTok f i v fuse r g cured x).1 := by
  unfold State.refineTok
  dsimp only
  split
  · exact h.refineRead.refineRead.refineBias.hurtRefine
  · exact .ite_fst h.refineRead.refineRead.refineBias.hurtRefine h.refineRead.refineRead.refineBias.hurtRefine

theorem Canonical.refineList {f : Flight} {i : Nat} {r : RowState} {cured : List RecRef} {ids : List Nat} (h : Canonical s) :
    Canonical (s.refineList f i r cured ids).1 := by
  unfold State.refineList
  split
  next t1 _ e1 =>
    have h1 : Canonical t1 := .of_fst e1 h.readHidden
    refine h1.foldl_fst fun h2 => ?_
    refine Canonical.ite_fst h2 ?_
    split
    · exact h2
    · exact h2.refineTok

theorem Canonical.refineRow {f : Flight} {i : Nat} {r : RowState} {scr : RowScreen} {cured : List RecRef} (h : Canonical s) :
    Canonical (s.refineRow f i r scr cured).1 := by
  unfold State.refineRow
  split
  · exact Canonical.ite_fst h.refineList (Canonical.ite_fst h.refineList.teaselFail h.refineList)
  · exact h

theorem execRefineRound_canonical {ln row : Nat} {cured : List RecRef} {late : Bool} (h : Canonical s) :
    CanonicalNext (execRefineRound ln row cured late s) := by
  unfold execRefineRound
  split
  · exact .next h
  · refine .ite (.next h) ?_
    split
    · exact .next h
    · split
      · exact .ite (.next h) (.ite (.next h.setFlight) (.next h.refineRow.setFlight))
      · exact .next h

theorem execSelect_canonical {ln : Nat} (h : Canonical s) : CanonicalNext (execSelect ln s) := by
  unfold execSelect
  split
  · exact .next h
  · exact .ite (.next h) (.next h.setFlight)

theorem execVerify_canonical {ln : Nat} (h : Canonical s) : CanonicalNext (execVerify ln s) := by
  unfold execVerify
  split
  · exact .next h
  · exact .ite (.next h) (.next h.setFlight)

theorem Canonical.refineScored {f : Flight} {i : Nat} {r : RowState} {c : SelCtx} {cured : List RecRef} {choice : Option Nat} (h : Canonical s) :
    Canonical (s.refineScored f i r c cured choice).1 := by
  unfold State.refineScored
  dsimp only
  split
  · exact h
  · refine Canonical.ite_fst h ?_
    refine Canonical.ite_fst h ?_
    split
    · exact h.refineList
    · exact Canonical.ite_fst h.refineList (Canonical.ite_fst h.refineList h.refineList)

theorem Canonical.scoreRow {f : Flight} {cured : List RecRef} {i : Nat} {r : RowState} (h : Canonical s) : Canonical (s.scoreRow f cured i r).1 := by
  unfold State.scoreRow
  dsimp only
  split
  · exact h
  · split
    · exact h
    · exact h
    · exact Canonical.ite_fst h h.refineScored
    · exact Canonical.ite_fst h h.refineScored

theorem Canonical.finishScore {ln : Nat} (h : Canonical s) : Canonical (s.finishScore ln) := by
  unfold State.finishScore
  split
  · exact h
  · exact .ite h (Canonical.ite h.writeHost h).setFlight

theorem execScoreq_canonical {ln : Nat} {cured : List RecRef} {late : Bool} (h : Canonical s) : CanonicalNext (execScoreq ln cured late s) := by
  unfold execScoreq
  dsimp only
  split
  · exact .next h
  · exact .ite (.next h) (.next (h.overRows fun h1 => h1.scoreRow).setFlight.finishScore)

theorem Canonical.refineRef {f : Flight} {cured : List RecRef} {i : Nat} {r : RowState} (h : Canonical s) : Canonical (s.refineRef f cured i r).1 := by
  unfold State.refineRef
  split
  · exact h
  · refine Canonical.ite_fst h ?_
    split
    next t1 _ e1 =>
      have h1 : Canonical t1 := .of_fst e1 h.readHidden
      split
      next t2 _ e2 =>
        have h2 : Canonical t2 := by
          refine .of_fst e2 ?_
          refine h1.foldl_fst fun h3 => ?_
          split
          · exact h3
          · exact h3.refineTok
        exact h2

theorem execKlref_canonical {ln : Nat} {cured : List RecRef} {late : Bool} (h : Canonical s) : CanonicalNext (execKlref ln cured late s) := by
  unfold execKlref
  dsimp only
  split
  · exact .next h
  · exact .ite (.next h) (.next (h.overRows fun h1 => Canonical.ite_fst h1 h1.refineRef).setFlight.finishScore)

theorem Canonical.gradScreen {f : Flight} {g : GradDesc} {cured : List RecRef} (h : Canonical s) : Canonical (s.gradScreen f g cured).1 := by
  unfold State.gradScreen
  refine Canonical.mendStream ?_
  refine Canonical.hurtScreen ?_
  refine Canonical.screenSet ?_
  split
  · exact Canonical.ite_fst h.screenSet h
  · exact h

theorem Canonical.writeRows {ln base stride : Nat} {rows : List (List Byte)} (h : Canonical s) : Canonical (s.writeRows ln base stride rows) :=
  h.foldl fun h1 => h1.writeHost

theorem execGrad_canonical {ln : Nat} {cured : List RecRef} (h : Canonical s) : CanonicalNext (execGrad ln cured s) := by
  unfold execGrad
  split
  · exact .next h
  · split
    · exact .next h
    · exact .ite (.next h) (.next h.gradScreen.frame.writeRows.bump.setFlight.finishScore)

theorem execGradTransposedPass_canonical {ln : Nat} {cured : List RecRef} (h : Canonical s) : CanonicalNext (execGradTransposedPass ln cured s) := by
  unfold execGradTransposedPass
  split
  · exact .next h
  · split
    · exact .next h
    · exact .ite (.next h) (.next h.sealEvents.screenPoison.mendStream.writeRows.setFlight.finishScore)

end Sys2Proof.Machine
end

section
/-! SUPPORT. EMIT, the completion of a step and its merges keep the stores canonical. -/

namespace Sys2Proof.Machine

variable {s t : State}

theorem Canonical.joinToken {f : Flight} {n tok : Nat} (h : Canonical s) : Canonical (s.joinToken f n tok).1 :=
  Canonical.ite_fst h.addHist h.addHist.setF.pushTail

theorem Canonical.stopHere {n : Nat} {reason : Option Nat} (h : Canonical s) : Canonical (s.stopHere n reason).1 := by
  unfold State.stopHere
  split
  · exact Canonical.ite_fst h.stopReq h
  · exact h

theorem Canonical.formRecord {e : Emission} {f : Flight} {row n : Nat} {o : RowOut} {acc : Bool} (h : Canonical s) :
    Canonical (s.formRecord e f row n o acc).1 := by
  have hfault {t : State} (ht : Canonical t) : Canonical (if t.flag (fE_PRETRY n) then t else t.callEnd n 7 7) := .ite ht ht.callEnd
  have hlate : Canonical (if s.isLate f n then s.callEnd n 6 6 else s) := .ite h.callEnd h
  unfold State.formRecord
  dsimp only
  refine Canonical.ite_fst (.ite (hfault hlate) hlate) ?_
  dsimp only
  refine Canonical.setF (Canonical.addMod ?_)
  split
  · exact hfault hlate
  · exact hlate.stopHere
  · exact hlate
  · split
    next t _ e => exact (Canonical.of_fst e hlate.joinToken).callEnd
    next t r e => exact (Canonical.of_fst e hlate.joinToken).stopHere

theorem Canonical.retain {f : Flight} {n : Nat} {r : RowState} {o : RowOut} (h : Canonical s) : Canonical (s.retain f n r o) := by
  unfold State.retain
  split
  · exact h
  · exact .ite h.frame.mend h

theorem Canonical.emitRetain {e : Emission} {f : Flight} {row n : Nat} {r : RowState} {o : RowOut} (h : Canonical s) :
    Canonical (s.emitRetain e f row n r o).1 :=
  Canonical.ite_fst h (.ite ((Canonical.ite h.retain h).callEnd) (.ite h.retain h))

theorem Canonical.runRecords {e : Emission} {f : Flight} {v : VRun} {slot n j : Nat} (h : Canonical s) : Canonical (s.runRecords e f v slot n j).1 := by
  induction n generalizing s e j with
  | zero => exact h.formRecord
  | succ n ih => exact Canonical.ite_fst h.formRecord (Canonical.ite_fst h.formRecord (ih h.formRecord))

theorem Canonical.adapt {n : Nat} {v : VRun} {cut : Bool} (h : Canonical s) : Canonical (s.adapt n v cut) :=
  .ite h (.ite (.ite (.ite h.setF.setF h.setF) h.setF) (.ite h (.ite h.setF.setF h.setF)))

theorem Canonical.emitPoisonRun {e : Emission} {f : Flight} {v : VRun} {n : Nat} (h : Canonical s) : Canonical (s.emitPoisonRun e f v n).1 :=
  h.spillTable.callEnd.formRecord

theorem Canonical.emitRecords {e : Emission} {f : Flight} {v : VRun} {n : Nat} (h : Canonical s) : Canonical (s.emitRecords e f v n).1 :=
  Canonical.ite_fst (p := ((s.emitPoisonRun e f v n).1, _)) (q := ((s.runRecords e f v n v.na 0).1, _)) h.emitPoisonRun h.runRecords

theorem Canonical.emitRun {e : Emission} {f : Flight} {v : VRun} (h : Canonical s) : Canonical (s.emitRun e f v).1 := by
  unfold State.emitRun
  dsimp only
  split
  · exact h
  · exact Canonical.ite_fst h.freeRets (.ite h.emitRecords.freeRets.adapt h.emitRecords.freeRets)

theorem Canonical.emitRow {x : State × Emission × List VRun} {f : Flight} {i : Nat} {r : RowState} (h : Canonical x.1) :
    Canonical (State.emitRow x f i r).1 := by
  unfold State.emitRow
  dsimp only
  split
  · exact Canonical.ite_fst h.emitRun h
  · split
    · exact h
    · exact Canonical.ite_fst h.emitRetain (Canonical.ite_fst h h.formRecord)

theorem Canonical.releaseRings {f : Flight} (h : Canonical s) : Canonical (s.releaseRings f) :=
  h.foldl fun h1 => h1.setReq

theorem Canonical.writeProd {ln n : Nat} (h : Canonical s) : Canonical (s.writeProd ln n) :=
  h.writeHost

theorem Canonical.issueEmission {f : Flight} {e : Emission} (h : Canonical s) : Canonical (s.issueEmission f e) := by
  unfold State.issueEmission
  extract_lets w s1 s2 s3 vt s4
  have h1 : Canonical s1 := .ite h.writeHost h
  have h2 : Canonical s2 := .ite (h1.foldl fun h => h.writeHost) h1
  have h3 : Canonical s3 := h2.foldl fun h => h.writeHost
  have h4 : Canonical s4 := .ite (h3.foldl fun h => h.writeHost) h3
  exact .ite (h4.foldl fun h => .ite h h.writeProd) h4

theorem Canonical.emitNow {f : Flight} (h : Canonical s) : Canonical (s.emitNow f) := by
  have hrows {e l} := (h.releaseRings (f := f)).foldl_fst (l := l) (a := (s.releaseRings f, e, f.runs))
    (f := fun x (q : RowState × Nat) => State.emitRow x f q.2 q.1) fun h => Canonical.emitRow h
  unfold State.emitNow
  dsimp only
  split
  · exact hrows.issueEmission
  · exact hrows.issueEmission.setFlight

theorem execEmit_canonical {ln : Nat} (h : Canonical s) : CanonicalNext (execEmit ln s) := by
  unfold execEmit
  split
  · exact .next h
  · exact .ite (.next h) (.ite (.next h.emitNow) (.next h.setFlight))

theorem execEmitConsRetry_canonical {ln : Nat} (h : Canonical s) : CanonicalNext (execEmitConsRetry ln s) := by
  unfold execEmitConsRetry
  split
  · exact .next h
  · refine .ite ?_ ?_
    · exact .next h
    · exact .ite (.next (h.foldl fun h1 => h1.rereadCons).emitNow) (.next (h.foldl fun h2 => h2.rereadCons))

theorem Canonical.finishStep {f : Flight} (h : Canonical s) : Canonical (s.finishStep f) := by
  unfold State.finishStep
  dsimp only
  split
  · exact ((h.foldl fun h1 => h1.setF).foldl fun h2 => h2.queueBlocks.settle).foldl fun h3 => h3.closeWindow
  · exact (((h.foldl fun h4 => h4.setF).foldl fun h5 => h5.queueBlocks.settle).foldl fun h6 => h6.closeWindow).setFlight

theorem Canonical.writeStatus {f : Flight} (h : Canonical s) : Canonical (s.writeStatus f) := by
  unfold State.writeStatus
  dsimp only
  generalize hu : State.mend _ _ = u
  have h1 : Canonical u := by rw [← hu]; exact h.bump.writeHost.addMod.mend
  exact h1.frame

theorem Canonical.closeEmit {f : Flight} (h : Canonical s) : Canonical (s.closeEmit f) :=
  .ite h h.finishStep

theorem execCompletionStatus_canonical {ln : Nat} (h : Canonical s) : CanonicalNext (execCompletionStatus ln s) := by
  unfold execCompletionStatus
  dsimp only
  split
  · exact .next h
  · refine .ite (.next h) ?_
    split
    · exact .next h.closeEmit
    · exact .ite (.next h.closeEmit.writeStatus) (.next h.closeEmit)

theorem Canonical.sendTo {m : MergeCtx} {f : Flight} {recs : List (List Byte)} {base : Nat} (h : Canonical s) : Canonical (s.sendTo m f recs base) :=
  h.foldl fun h1 => h1.writeBy

theorem Canonical.mergeCounts {ln round : Nat} (h : Canonical s) : Canonical (s.mergeCounts ln round) := by
  unfold State.mergeCounts
  split
  · exact h
  · split
    · exact h
    · exact h.foldl fun h1 => h1.sendAtom

theorem execXmerge_canonical {ln : Nat} (h : Canonical s) : CanonicalNext (execXmerge ln s) := by
  unfold execXmerge
  split
  · exact .next h
  · split
    · exact .next h
    · refine .ite (.next h) ?_
      refine .next ?_
      refine .ite ?_ ?_
      · exact (h.foldl fun h1 => h1.sendTo).setFlight.mergeCounts
      · exact (h.foldl fun h2 => h2.sendTo).setFlight

theorem Canonical.mergeRead {m : MergeCtx} {f : Flight} {c r : Nat} (h : Canonical s) : Canonical (s.mergeRead m f c r).1 :=
  h.readHost

theorem Canonical.mergeRow {m : MergeCtx} {f : Flight} {i : Nat} {wo : Option Nat} (h : Canonical s) : Canonical (s.mergeRow m f i wo).1 := by
  unfold State.mergeRow
  dsimp only
  refine h.foldl_fst fun h1 => ?_
  split
  · exact h1.mergeRead.post
  · exact h1.mergeRead

theorem Canonical.secondPass {f : Flight} {cured : List RecRef} {i : Nat} {r : RowState} {mid : MergeMid} (h : Canonical s) :
    Canonical (s.secondPass f cured i r mid).1 := by
  unfold State.secondPass
  dsimp only
  split
  · exact h.refineList
  · exact Canonical.ite_fst h.refineList h.refineList.refineScored

theorem Canonical.mergeFirst {m : MergeCtx} {f : Flight} {cured : List RecRef} {i : Nat} {r : RowState} (h : Canonical s) :
    Canonical (s.mergeFirst m f cured i r).1 := by
  unfold State.mergeFirst
  dsimp only
  split
  · exact h.mergeRow
  · refine Canonical.ite_fst h.mergeRow ?_
    split
    · exact Canonical.ite_fst h.mergeRow.secondPass h.mergeRow
    · exact h.mergeRow.secondPass
    · exact h.mergeRow

theorem Canonical.mergeSecond {m : MergeCtx} {f : Flight} {i : Nat} {r : RowState} (h : Canonical s) : Canonical (s.mergeSecond m f i r).1 := by
  unfold State.mergeSecond
  dsimp only
  split
  · split
    · exact h.mergeRow
    · exact h.mergeRow
  · exact h

theorem execMergeRoundComplete_canonical {ln : Nat} {cured : List RecRef} {late : Bool} (h : Canonical s) :
    CanonicalNext (execMergeRoundComplete ln cured late s) := by
  unfold execMergeRoundComplete
  dsimp only
  split
  · exact .next h
  · split
    · exact .next h
    · exact .ite (.next h) (.next (h.overRows fun h1 => Canonical.ite_fst h1.mergeFirst h1.mergeSecond).setFlight.finishScore)

end Sys2Proof.Machine
end

section
/-! SUPPORT. The front of the queues keeps the stores canonical: fetch, decode and the queue instructions. -/

namespace Sys2Proof.Machine

variable {s t : State}

theorem Canonical.readDesc {a n : Nat} {who : Who} (h : Canonical s) : Canonical (s.readDesc a n who).1 :=
  h.readHost

theorem Canonical.stateOk {who : Who} {p : StepProg} {x : GInstr} (h : Canonical s) : Canonical (s.stateOk who p x).1 := by
  unfold State.stateOk
  dsimp only
  split
  · exact Canonical.ite_fst h h.readDesc
  · exact h
  · exact h
  · exact h
  · exact h
  · exact h
  · exact h.readDesc
  · refine Canonical.ite_fst h ?_
    split
    · exact h.readDesc
    · exact h.readDesc.readDesc
  · exact h

theorem checkFour_canonical {who : Who} {gated : Bool} {cls : List Nat} {i : Nat} {l : List GInstr} {p : StepProg} (h : Canonical s) :
    Canonical (checkFour who gated cls i l s p).1 := by
  induction l generalizing s i p with
  | nil => exact h
  | cons g r ih =>
    unfold checkFour
    dsimp only
    split
    · exact h.stateOk
    · exact Canonical.ite_fst (ih h.stateOk) h.stateOk

theorem Canonical.place {q : Nat} {d : Decoded} (h : Canonical s) : Canonical (s.place q d) :=
  h.setQx.frame.refresh

theorem Canonical.decodeStep {q len : Nat} {code : List GInstr} {p : StepProg} (h : Canonical s) : Canonical (s.decodeStep q len code p) := by
  unfold State.decodeStep
  dsimp only
  split
  next t i e => exact (Canonical.of_fst e (checkFour_canonical h)).halt
  next t p e => exact (Canonical.of_fst e (checkFour_canonical h)).place

theorem Canonical.decodeInsn {q : Nat} {g : GInstr} (h : Canonical s) : Canonical (s.decodeInsn q g) := by
  unfold State.decodeInsn
  dsimp only
  split
  · split
    · exact h.readDesc.halt
    · split
      · exact h.readDesc.halt
      · exact h.readDesc.place
  · exact h.frame.place
  · exact h.place

theorem Canonical.fetchPoison {q : Nat} (h : Canonical s) : Canonical (s.fetchPoison q) :=
  h.halt

theorem execSlotFetchArrival_canonical {q : Nat} (h : Canonical s) : CanonicalNext (execSlotFetchArrival q s) := by
  refine .ite ?_ ?_
  · exact .next h
  · exact .ite (.next (.ite h.readHost.setQx.fetchPoison h.readHost.setQx)) (.next h.readHost.setQx.refresh)

theorem execDecode_canonical {q : Nat} (h : Canonical s) : CanonicalNext (execDecode q s) := by
  unfold execDecode
  refine .ite (.next h.fetchPoison) ?_
  refine .ite (.next h) ?_
  refine .ite ?_ ?_
  · split
    · exact .next h.refresh
    · exact .next h.halt
    · exact .next h.decodeStep
  · split
    · exact .next h.refresh
    · exact .next h.halt
    · exact .next h.decodeInsn

theorem execG2g3Descriptor_canonical {q : Nat} (h : Canonical s) : CanonicalNext (execG2g3Descriptor q s) := by
  unfold execG2g3Descriptor
  refine .ite (.next h.fetchPoison) ?_
  refine .ite (.next h) ?_
  refine .ite (.next h.halt) ?_
  refine .ite (.next h) ?_
  refine .ite ?_ ?_
  · refine .ite (.next h.halt) ?_
    split
    · exact .next h.halt
    · exact .next h.decodeStep
  · exact .ite (.next h.place) (.next h.halt)

theorem Canonical.handOver {q : Nat} {want : GInstr → Bool} (h : Canonical s) : Canonical (s.handOver q want) := by
  unfold State.handOver
  split
  · exact h
  · split
    · exact h
    · exact h.setQx

theorem Canonical.recheckAll (h : Canonical s) : Canonical s.recheckAll := by
  unfold State.recheckAll
  refine h.foldl fun h1 => ?_
  split
  · split
    · refine .ite ?_ ?_
      · split
        · exact h1.halt
        · exact h1.setQx
      · exact h1
    · exact h1
  · exact h1

theorem Canonical.writeTail {q t : Nat} (h : Canonical s) : Canonical (s.writeTail q t) :=
  .ite h.setF (.ite (.ite h h.halt) (.ite h.setF.halt h.setF.refresh))

theorem Canonical.dropQueue {q : Nat} (h : Canonical s) : Canonical (s.dropQueue q) :=
  h.setQx.frame

theorem Canonical.startQueue {q : Nat} (h : Canonical s) : Canonical (s.startQueue q) :=
  h.setF.setF.setF.setF.setF.setF.setF.dropQueue.refresh

theorem Canonical.stopQueue {q : Nat} (h : Canonical s) : Canonical (s.stopQueue q) :=
  h.setF.setF.dropQueue

theorem Canonical.restartQueue {q : Nat} {skip : Bool} (h : Canonical s) : Canonical (s.restartQueue q skip) :=
  .ite ((Canonical.ite h h.setQx).addMod.setF.halt) (Canonical.ite h h.setQx).addMod.setF.refresh

theorem Canonical.writeAttr {q : Nat} {v : Word64} (h : Canonical s) : CanonicalSome (s.writeAttr q v) := by
  refine .ite ?_ ?_
  · exact .ite (.some h.setF.setF) (.ite (.some h.setF.setF.startQueue) .none)
  · exact .ite (.ite (.some h.setF.restartQueue) (.some h.setF)) (.ite (.some h.setF.stopQueue) .none)

theorem Canonical.putHold {q : Nat} {c' : Hold} (h : Canonical s) : Canonical (s.putHold q c') :=
  h.setQx

theorem execNop_canonical {q : Nat} (h : Canonical s) : CanonicalNext (execNop q s) := by
  unfold execNop
  split
  · exact .next h.passItem
  · exact .next h

theorem execHalt_canonical {q : Nat} (h : Canonical s) : CanonicalNext (execHalt q s) := by
  unfold execHalt
  split
  · exact .next h.passItem.halt
  · exact .next h

theorem execWaitq_canonical {q : Nat} (h : Canonical s) : CanonicalNext (execWaitq q s) := by
  unfold execWaitq
  split
  · exact .ite (.next h.passItem) (.next h)
  · exact .next h

theorem Canonical.remoteErr {q slot op addr status : Nat} (h : Canonical s) : Canonical (s.remoteErr q slot op addr status) :=
  h.post

theorem Canonical.addRemote {q : Nat} (h : Canonical s) : Canonical (s.addRemote q) :=
  h.setQx.frame

theorem Canonical.putRemote {q op a : Nat} {v : Word64} (h : Canonical s) : Canonical (s.putRemote q op a v) :=
  .ite h.remoteErr h.writeHost.addRemote

theorem Canonical.remoteDone {q slot op addr : Nat} {st : Option Nat} (h : Canonical s) : Canonical (s.remoteDone q slot op addr st) := by
  unfold State.remoteDone
  split
  · exact h.setQx.remoteErr
  · exact h.setQx

theorem Canonical.keepPart {id addr : Nat} {bs : List Byte} (h : Canonical s) : Canonical (s.keepPart id addr bs) :=
  h.frame

theorem Canonical.getDone {id q slot src dst n : Nat} {st : Option Nat} (h : Canonical s) : Canonical (s.getDone id q slot src dst n st) := by
  unfold State.getDone
  split
  · exact h.frame.remoteDone
  · exact .ite h.frame.writeHost h.frame.writeHost.remoteDone

theorem Canonical.getRemote {q n src dst : Nat} (h : Canonical s) : Canonical (s.getRemote q n src dst) := by
  refine .ite ?_ ?_
  · exact (h.addRemote.foldl fun h1 => h1.poisonEvents).getDone
  · exact (h.addRemote.foldl fun h2 => h2.poisonEvents).foldl fun h3 => h3.send

theorem execPut_canonical {q : Nat} (h : Canonical s) : CanonicalNext (execPut q s) := by
  unfold execPut
  split
  · exact .next h.putRemote.passItem
  · exact .next h

theorem execGet_canonical {q : Nat} (h : Canonical s) : CanonicalNext (execGet q s) := by
  unfold execGet
  split
  · exact .next h.getRemote.passItem
  · exact .next h

theorem Canonical.hostFadd {a v : Nat} (h : Canonical s) : Canonical (s.hostFadd a v) :=
  .ite h h.putMem

theorem execSignal_canonical {q : Nat} (h : Canonical s) : CanonicalNext (execSignal q s) := by
  unfold execSignal
  split
  · refine .ite ?_ ?_
    · exact .next h
    · exact .next (Canonical.ite ((Canonical.ite h.hostFadd h).sendAtom.addRemote) h.putRemote).passItem
  · exact .next h

theorem Canonical.sendOrds {q : Nat} (h : Canonical s) : Canonical (s.sendOrds q) :=
  (h.foldl fun h1 => h1.send).setQx

theorem execFence_canonical {q : Nat} (h : Canonical s) : CanonicalNext (execFence q s) := by
  unfold execFence
  split
  · refine .ite (.next h) ?_
    refine .ite (.next h.passItem) ?_
    split
    · exact .next h.passItem
    · exact .next h
    · exact .next h.sendOrds
  · exact .next h

theorem Canonical.ackOrd {ch : Nat} (h : Canonical s) : Canonical (s.ackOrd ch) := by
  unfold State.ackOrd
  split
  · exact h
  · split
    · exact h.frame.pump.setQx
    · exact h.frame.pump

theorem execLaunchat_canonical {q : Nat} (h : Canonical s) : CanonicalNext (execLaunchat q s) := by
  unfold execLaunchat
  split
  · exact .next h.passItem.putHold
  · exact .next h

theorem execLaunchatSatisfied_canonical {q : Nat} (h : Canonical s) : CanonicalNext (execLaunchatSatisfied q s) :=
  .next (Canonical.ite h.setQx h).frame

theorem Canonical.arrive (h : Canonical s) : Canonical s.arrive := by
  unfold State.arrive
  split
  · exact h
  · exact .ite h (.ite (.ite h h.setF.frame) (.ite h.frame h))

theorem Canonical.takeBarrier {b : Nat} (h : Canonical s) : Canonical (s.takeBarrier b) :=
  .ite h.frame.arrive h

theorem execBarrier_canonical {q : Nat} (h : Canonical s) : CanonicalNext (execBarrier q s) := by
  unfold execBarrier
  split
  · exact .ite (.next h.passItem) (.ite (.next h.takeBarrier.passItem.putHold) (.next h.takeBarrier))
  · exact .next h

theorem Canonical.releaseBarrier {b : Nat} (h : Canonical s) : Canonical (s.releaseBarrier b) := by
  unfold State.releaseBarrier
  dsimp only
  refine (h.foldl fun h1 => ?_).frame.setF
  split
  · exact .ite (.ite h1.passItem h1.setQx) h1
  · exact h1

theorem execBarrierRelease_canonical (h : Canonical s) : CanonicalNext (execBarrierRelease s) := by
  unfold execBarrierRelease
  split
  · refine .next ?_
    split
    · exact h.frame.releaseBarrier.takeBarrier
    · exact h.frame.releaseBarrier
  · exact .next h

theorem execSyncBarDn_canonical {level : Bool} (h : Canonical s) : CanonicalNext (execSyncBarDn level s) :=
  .ite (.next h.frame) (.next h.frame.frame)

theorem execSyncBarCup_canonical {child : Nat} {level : Bool} (h : Canonical s) : CanonicalNext (execSyncBarCup child level s) := by
  have h1 : Canonical { s with sync := { s.sync with cup := s.sync.cup.set child level } } := h.frame
  exact .ite (.next h1.arrive) (.next h1)

theorem execRepack_canonical {q : Nat} (h : Canonical s) : CanonicalNext (execRepack q s) := by
  unfold execRepack
  split
  · exact .ite (.next h.passItem) (.next h.frame)
  · exact .next h

theorem execMaskLoad_canonical {q : Nat} (h : Canonical s) : CanonicalNext (execMaskLoad q s) := by
  unfold execMaskLoad
  split
  · exact .ite (.next h) (.next h.frame.setQx.passItem)
  · exact .next h

end Sys2Proof.Machine
end

section
/-! SUPPORT. The link and the responses of its ports keep the stores canonical. -/

namespace Sys2Proof.Machine

variable {s t : State}

theorem Canonical.setEpoch {a : Nat} {e : BitVec 16} (h : Canonical s) :
    Canonical { s with link := { s.link with epochs := Store.write epochDefault s.link.epochs a e } } :=
  { h with epochs := Store.wf_write _ h.epochs a e }

theorem Canonical.epochCheck {snd : Sender} (h : Canonical s) : CanonicalSome (s.epochCheck snd) :=
  .ite (.some h) (.ite (.some h) (.ite (.some h.setEpoch.breakAgent) .none))

theorem Canonical.tookMgmt (h : Canonical s) : Canonical s.tookMgmt :=
  .ite h.frameLink h

theorem CanonicalSome.getD {o : Option State} (ho : CanonicalSome o) (h : Canonical s) : Canonical (o.getD s) := by
  cases o with
  | none => exact h
  | some t => exact ho t rfl

theorem execEpochNote_canonical {agent aepoch : BitVec 16} (h : Canonical s) : CanonicalNext (execEpochNote agent aepoch s) :=
  .ite (.next (h.epochCheck.getD h).tookMgmt) (.next h)

theorem Canonical.tell {sub arg : Nat} (h : Canonical s) : Canonical (s.tell sub arg) :=
  h.frameLink

theorem Canonical.tellMc {n : Nat} (h : Canonical s) : Canonical (s.tellMc n) :=
  h.frameLink

theorem Canonical.linkFail {cause : Nat} (h : Canonical s) : Canonical (s.linkFail cause) :=
  h.setF.setF.frameLink

theorem Canonical.resetLink (h : Canonical s) : Canonical { s with link := linkReset } :=
  { h with epochs := Store.wf_nil }

theorem Canonical.startNegotiate (h : Canonical s) : Canonical s.startNegotiate :=
  h.resetLink.frame.setF.setF.setF.setF.tell.foldl fun h1 => h1.tellMc

theorem execCapResend_canonical (h : Canonical s) : CanonicalNext (execCapResend s) :=
  .ite (.next ((Canonical.ite h.tell h).foldl fun h1 => h1.tellMc)) (.next (.ite h.tell h))

theorem Canonical.tryCredit (h : Canonical s) : Canonical s.tryCredit := by
  unfold State.tryCredit
  split
  · exact .ite h (.ite h.linkFail (h.setF.setF.foldl fun h1 => h1.tell))
  · exact h

theorem Canonical.tryOnline (h : Canonical s) : Canonical s.tryOnline :=
  .ite ((h.setF.setFlag.foldl fun h1 => h1.joinService).frame) h

theorem Canonical.hostCap {cap : Word64} {agent aepoch : BitVec 16} (h : Canonical s) : Canonical (s.hostCap cap agent aepoch) := by
  unfold State.hostCap
  dsimp only
  refine .ite h ?_
  split
  · exact h.setReg.setF.frameLink.linkFail
  · exact h.setReg.setF.frameLink.setFlag.setF.tell.frameLink.tryCredit

theorem Canonical.channelCap {n : Nat} {cap : Word64} (h : Canonical s) : Canonical (s.channelCap n cap) := by
  refine .ite h ?_
  have h1 {c} : Canonical { s with link := { (s.link.takeCap n Header.cap.word (leBytes 8 cap.toNat)) with capMc := c } } := h.frameLink
  exact .ite h1 (h1.foldl fun h2 => h2.setF.setFlag.setFlag.setFlag).tryOnline

theorem execCapReceive_canonical {port : Port} {cap : Word64} {agent aepoch : BitVec 16} (h : Canonical s) :
    CanonicalNext (execCapReceive port cap agent aepoch s) := by
  unfold execCapReceive
  split
  · exact .next h.hostCap
  · exact .next h.channelCap

theorem execModeAckReceive_canonical {mode : Nat} (h : Canonical s) : CanonicalNext (execModeAckReceive mode s) :=
  .ite (.next h.frameLink.tryCredit) (.next h)

theorem execCreditInitReceive_canonical {vc hdr dat : Nat} (h : Canonical s) : CanonicalNext (execCreditInitReceive vc hdr dat s) := by
  exact .ite (.next h) (.ite (.next h.frameLink.linkFail) (.next h.frameLink.tryOnline))

theorem execNegotiateTimeout_canonical (h : Canonical s) : CanonicalNext (execNegotiateTimeout s) :=
  .ite (.next h.linkFail) (.next h)

theorem execCreditReturn_canonical {vc hdr dat : Nat} (h : Canonical s) : CanonicalNext (execCreditReturn vc hdr dat s) := by
  unfold execCreditReturn
  split
  · exact .next h
  · exact .next h.frameLink.pump

theorem Canonical.emitAcked {ln : Nat} {rec : Option Nat} (h : Canonical s) : Canonical (s.emitAcked ln rec) := by
  unfold State.emitAcked
  dsimp only
  split
  · refine .ite ?_ ?_
    · refine Canonical.setFlight ?_
      split
      · exact .ite h h.writeProd
      · exact h
    · split
      · exact .ite h h.writeProd
      · exact h
  · split
    · exact .ite h h.writeProd
    · exact h

theorem Canonical.remoteOver {x : Purpose2} (h : Canonical s) : Canonical (s.remoteOver x) := by
  unfold State.remoteOver
  split
  · exact h.remoteDone
  · exact h.getDone
  · exact h

theorem Canonical.failOp {w : Purpose2} {status : Nat} (h : Canonical s) : Canonical (s.failOp w status) :=
  h.frame

theorem Canonical.remotePart {w : Purpose2} {status : Nat} {bad : Bool} (h : Canonical s) : Canonical (s.remotePart w status bad) :=
  .ite h.remoteOver (.ite h.failOp h)

theorem Canonical.keepGet {o : Outstanding} {a : Nat} {bs : List Byte} (h : Canonical s) : Canonical (s.keepGet o a bs) := by
  unfold State.keepGet
  split
  · exact h.keepPart
  · exact h

theorem Canonical.retire {o : Outstanding} {status : Nat} {mark : Mark} {bs : List Byte} (h : Canonical s) : Canonical (s.retire o status mark bs) := by
  unfold State.retire
  split
  · exact h.frame.pump.ackEvent
  · exact h.frame.pump.frame.noteTail
  · exact h.frame.pump.remotePart
  · exact (Canonical.ite (.ite h.frame.pump.putMem.keepGet h.frame.pump) h.frame.pump.poisonEvents).remotePart
  · exact h.frame.pump.setQx
  · exact h.frame.pump.emitAcked
  · exact h.frame.pump.emitAcked
  · exact h.frame.pump.emitAcked
  · exact (Canonical.ite h.frame.pump h.frame.pump.mergeCounts).emitAcked
  · exact h.frame.pump.emitAcked
  · exact (Canonical.ite h.frame.pump h.frame.pump.poisonEvents).yAnswer
  · exact h.frame.pump
  · exact h.frame.pump

theorem Canonical.putAnswer {addr : Nat} {bs : List Byte} {mark : Mark} (h : Canonical s) : Canonical (s.putAnswer addr bs mark) :=
  (Canonical.ite h.putMem h).setMarks

theorem execHResponse_canonical {tag status : Nat} {pois : Bool} {addr : Nat} {words : List Word64} (h : Canonical s) :
    CanonicalNext (execHResponse tag status pois addr words s) := by
  unfold execHResponse
  dsimp only
  split
  · exact .ite (.next h.putAnswer) (.next h)
  · exact .next h.retire

theorem Canonical.putGranule {addr : Nat} {data : List Byte} {mark : Mark} (h : Canonical s) : Canonical (s.putGranule addr data mark) :=
  (Canonical.ite h.putMem h).setMarks

theorem Canonical.getGranule {o : Outstanding} {addr : Nat} {data : List Byte} {mark : Mark} (h : Canonical s) :
    Canonical (s.getGranule o addr data mark) := by
  refine .ite ?_ ?_
  · exact (Canonical.ite h.poisonEvents h.keepGet).frame.pump.remotePart
  · exact .ite ((Canonical.ite h.poisonEvents h.keepGet).failOp) (.ite h.poisonEvents h.keepGet)

theorem Canonical.tookGranule {ch tag : Nat} {data : List Byte} {mark : Mark} (h : Canonical s) : Canonical (s.tookGranule ch tag data mark) :=
  h.bump.frameLink

theorem execMcReadResponse_canonical {ch tag addr : Nat} {data : List Byte} {mark : Mark} (h : Canonical s) :
    CanonicalNext (execMcReadResponse ch tag addr data mark s) := by
  unfold execMcReadResponse
  dsimp only
  refine .ite (.next h) ?_
  split
  · exact .next h.tookGranule.putGranule
  · split
    · exact .ite (.next h.tookGranule.putGranule.getGranule) (.next h.tookGranule.putGranule)
    · exact .next h.tookGranule.putGranule

theorem execMcWriteAck_canonical {ch tag status : Nat} (h : Canonical s) : CanonicalNext (execMcWriteAck ch tag status s) := by
  unfold execMcWriteAck
  split
  · exact .next h
  · split
    · exact .next h
    · exact .next h
    · exact .next h
    · exact .next h.retire

theorem execMcOrdAck_canonical {ch : Nat} (h : Canonical s) : CanonicalNext (execMcOrdAck ch s) :=
  .next h.ackOrd

theorem Canonical.portFault {p : Port} {e : EvRec} (h : Canonical s) : Canonical (s.portFault p e) :=
  h.frameLink.post.raise

theorem Canonical.hportDown (h : Canonical s) : Canonical s.hportDown :=
  h.setF.setF

theorem execLinkFault_canonical {flit : Flit} {carry vc : Nat} (h : Canonical s) : CanonicalNext (execLinkFault flit carry vc s) := by
  unfold execLinkFault
  split
  · exact .next h
  · exact .ite (.next h) (.next (Canonical.ite h.linkFail h.hportDown).frameLink.portFault)

theorem execRspTimeout_canonical {port : Port} {tag : Nat} (h : Canonical s) : CanonicalNext (execRspTimeout port tag s) := by
  unfold execRspTimeout
  split
  · exact .next h
  · split
    · exact .next h.hportDown.portFault
    · exact .next (h.setF.foldl fun h1 => h1.retire).portFault

theorem Canonical.enterQuiesce (h : Canonical s) : Canonical s.enterQuiesce :=
  h.setF.frameLink

theorem execQuiesce_canonical (h : Canonical s) : CanonicalNext (execQuiesce s) :=
  .ite (.next h.tookMgmt) (.ite (.next h.tookMgmt.frameLink) (.next h.tookMgmt.enterQuiesce))

theorem execDrained_canonical (h : Canonical s) : CanonicalNext (execDrained s) := by
  refine .ite (.next (h.tell.setLink ?_)) (.next h)
  dsimp only
  split <;> rfl

theorem execIsolate_canonical (h : Canonical s) : CanonicalNext (execIsolate s) :=
  .ite (.next h) (.next ((h.setF.foldl fun h1 => h1.setF).holdPins.setLink rfl).frameLink)

end Sys2Proof.Machine
end

section
/-! SUPPORT. Arbitration, digests, table commits, a restored context and the launch keep the stores canonical. -/

namespace Sys2Proof.Machine

variable {s t : State}

theorem Canonical.replied {snd : Sender} {op n : Nat} (h : Canonical s) : Canonical (s.replied snd op n) :=
  h.frameLink

theorem Canonical.arbGo (h : Canonical s) : CanonicalSome s.arbGo :=
  .ite .none (.ite .none (.some (h.setF.setF.frame)))

theorem execArbSnapshotApply_canonical {g : Nat} (h : Canonical s) : CanonicalNext (execArbSnapshotApply g s) := by
  unfold execArbSnapshotApply
  split
  · exact .next h
  · exact .next h.setBit.setF.frame

theorem execArbModeChange_canonical {g : Nat} (h : Canonical s) : CanonicalNext (execArbModeChange g s) :=
  .ite (.next h) (.next h.setF.setF)

theorem Canonical.sendPair {lo hi : Nat} (h : Canonical s) : Canonical (s.sendPair lo hi) :=
  h.writeBy

theorem Canonical.endCompare {f : Flight} (h : Canonical s) : Canonical (s.endCompare f) :=
  h.setFlight.frame

theorem Canonical.refreshAll (h : Canonical s) : Canonical s.refreshAll :=
  h.foldl fun h1 => h1.refresh

theorem Canonical.mismatchAt {f : Flight} {first : Nat} (h : Canonical s) : Canonical (s.mismatchAt f first) :=
  h.setF.setF.setF.post.raise.endCompare.refreshAll

theorem Canonical.bisectFrom {f : Flight} {lo hi j : Nat} (h : Canonical s) : Canonical (s.bisectFrom f lo hi j) :=
  .ite h.mismatchAt h.frame.sendPair

theorem Canonical.tryCompare (h : Canonical s) : Canonical s.tryCompare := by
  unfold State.tryCompare
  split
  · exact h
  · split
    · exact h
    · exact .ite h (.ite h.frame.endCompare (.ite h.frame.mismatchAt h.frame.bisectFrom))

theorem Canonical.deliver (h : Canonical s) : Canonical s.deliver :=
  h.frame.tryCompare

theorem Canonical.takeDigest {f : Flight} {wr cmp : Bool} {addr : Nat} (h : Canonical s) : Canonical (s.takeDigest f wr cmp addr) := by
  refine .ite ?_ ?_
  · exact (Canonical.ite h.frame.mend.writeHost h.frame.mend).setFlight.sendPair.frame.tryCompare
  · exact (Canonical.ite h.frame.mend.writeHost h.frame.mend).setFlight

theorem execDigest_canonical {ln : Nat} (h : Canonical s) : CanonicalNext (execDigest ln s) := by
  unfold execDigest
  dsimp only
  split
  · exact .next h
  · split
    · exact .next h
    · refine .ite (.next h) ?_
      split
      · exact .next h.closeEmit
      · exact .ite (.next h.closeEmit.takeDigest) (.next h.closeEmit)

theorem execDigestBisectRound_canonical (h : Canonical s) : CanonicalNext (execDigestBisectRound s) := by
  unfold execDigestBisectRound
  split
  · split
    · exact .next h
    · exact .ite (.next h) (.next (.ite h.frame.bisectFrom h.frame.bisectFrom))
  · exact .next h

theorem Canonical.startCommit {q : Option Nat} (h : Canonical s) : Canonical (s.startCommit q) :=
  h.setF.frame

theorem execTabcommit_canonical {q : Nat} (h : Canonical s) : CanonicalNext (execTabcommit q s) := by
  unfold execTabcommit
  split
  · exact .ite (.next h.startCommit) (.next h)
  · exact .next h

theorem Canonical.commitGo (h : Canonical s) : CanonicalSome s.commitGo :=
  .ite (.some h.startCommit) .none

theorem Canonical.refuseCommit {f : CommitFail} (h : Canonical s) : Canonical (s.refuseCommit f) := by
  unfold State.refuseCommit
  dsimp only
  split
  · exact .ite h.setF.setF.setF.setF.frame.post h.setF.setF.setF.setF.frame.post.halt
  · exact h.setF.setF.setF.setF.frame.post

theorem execCommitCheckDone_canonical (h : Canonical s) : CanonicalNext (execCommitCheckDone s) := by
  unfold execCommitCheckDone
  refine .ite (.next h) ?_
  split
  · exact .next h.refuseCommit
  · exact .next h.frame

theorem Canonical.passCommit {q : Nat} (h : Canonical s) : Canonical (s.passCommit q) := by
  unfold State.passCommit
  split
  · exact .ite h.passItem h
  · exact h

theorem execLaneCopyDone_canonical (h : Canonical s) : CanonicalNext (execLaneCopyDone s) := by
  unfold execLaneCopyDone
  refine .ite (.next h) ?_
  refine .next ?_
  split
  · exact (h.foldl fun h1 => h1.copyLane).setF.setF.frame.passCommit
  · exact (h.foldl fun h2 => h2.copyLane).setF.setF.frame

theorem execBankDrainDone_canonical (h : Canonical s) : CanonicalNext (execBankDrainDone s) :=
  .ite (.next h.setF) (.next h)

theorem execBankCopyDone_canonical (h : Canonical s) : CanonicalNext (execBankCopyDone s) := by
  refine .ite (.next h) (.next ((h.setBanks ?_).foldl fun h1 => h1.copyLane).setF.advanceG)
  exact Store.wf_setRegion h.banks (Store.wf_region h.banks _) fun _ => Store.key_lt_of_mem_region

theorem Canonical.writeWindow {off : Nat} {v : Word64} (h : Canonical s) : Canonical (s.writeWindow off v).1 :=
  Canonical.ite_fst (.ite (h.setBanks (Store.wf_write _ h.banks _ _)) h) (.ite h.addSat.post h.addSat)

theorem execNormal_canonical {ln : Nat} (h : Canonical s) : CanonicalNext (execNormal ln s) := by
  unfold execNormal
  split
  · exact .next h
  · split
    · exact .next h
    · exact .ite (.next h) (.next (Canonical.ite h h.bump).writeHost.setFlight)

theorem Canonical.imagePoison {img : Nat} (h : Canonical s) : Canonical (s.imagePoison img) :=
  h.poisonEvents

theorem Canonical.copyPlanes {l : List Found} {v : PlaneView} (h : Canonical s) : Canonical (s.copyPlanes l v) := by
  unfold State.copyPlanes
  refine h.foldl fun h1 => ?_
  refine .ite h1 ?_
  split
  · exact h1
  · refine h1.foldl fun h2 => ?_
    split
    · exact h2.writeSlice
    · exact h2

theorem Canonical.restoreSet {l : List Found} {x : Found} (h : Canonical s) : Canonical (s.restoreSet l x).1 := by
  unfold State.restoreSet
  extract_lets n a s1 s2 v placed cls u b clash s3 s4 s5
  have h1 : Canonical s1 := h.foldl fun h => h.setReg
  have h2 : Canonical s2 := h1.foldl fun h => by split; exacts [h.setF, h]
  have h3 : Canonical s3 := h2.frame.advanceG
  have h4 : Canonical s4 := h3.setF.setF.setF
  have h5 : Canonical s5 := h4.frame
  exact .ite_fst h3 (.ite_fst (h3.foldl fun h => h.setF) h5.copyPlanes)

theorem Canonical.restoreMask {x : Found} (h : Canonical s) : Canonical (s.restoreMask x) :=
  h.frame.mend.advanceG

theorem Canonical.restoreBank {b : Nat} {x : Found} (h : Canonical s) : Canonical (s.restoreBank b x) :=
  h.setBanks (Store.wf_foldl_write h.banks)

theorem Canonical.restoreReq {ver : Nat} {r : List Byte} (h : Canonical s) : Canonical (s.restoreReq ver r) := by
  unfold State.restoreReq
  extract_lets a n s1 s2 s3 hist tail x s4
  have h1 : Canonical s1 := h.foldl fun h => h.setReg
  have h2 : Canonical s2 := .ite h1.setF h1
  have h3 : Canonical s3 := (Canonical.ite h2.setF h2).levelEntry.mendSlot
  have h4 : Canonical s4 := h3.setReq
  exact .ite h4.enter h4

theorem Canonical.restoreStops {x : Found} (h : Canonical s) : Canonical (s.restoreStops x) :=
  h.frame.mend

theorem Canonical.restore {ver epoch : Nat} {l : List Found} (h : Canonical s) : Canonical (s.restore ver epoch l).1 := by
  have hcompat {t : State} {c : Prop} {_ : Decidable c} {f v} (ht : Canonical t) : Canonical (if c then t.setF f v else t) := .ite ht.setF ht
  unfold State.restore
  dsimp only
  refine hcompat ((Canonical.foldl ?_ fun h => h.restoreStops).foldl fun h => h.foldl fun h => h.restoreReq)
  refine .ite ?_ (.mend (.foldl (.setF (.setF ?_)) fun h => h.copyLane.copyLane)) <;>
  · refine .foldl (.foldl (.foldl_fst ?_ fun h => h.restoreSet) fun h => h.restoreMask) fun h => h.restoreBank
    exact h

theorem Canonical.payCharge {e : Nat} (h : Canonical s) : Canonical (s.payCharge e) :=
  .ite h h.frame

theorem Canonical.swapBanks (h : Canonical s) : Canonical s.swapBanks :=
  .ite h h.setF.setF.setF.setF.advanceG

theorem Canonical.mendLanes (h : Canonical s) : Canonical s.mendLanes :=
  h.frame

theorem Canonical.launchItem {q : Nat} {d : Decoded} (h : Canonical s) : Canonical (s.launchItem q d) :=
  h.swapBanks.mendLanes.payCharge.frame.setQx.setF.passItem

theorem Canonical.markWaiting {q : Nat} (h : Canonical s) : Canonical (s.markWaiting q) := by
  unfold State.markWaiting
  split
  · exact h.setQx
  · exact h

theorem execLaunch_canonical (h : Canonical s) : CanonicalNext (execLaunch s) := by
  unfold execLaunch
  dsimp only
  refine .ite (.next h) ?_
  split
  · exact .next h.recheckAll.halt
  · split
    · exact .next (h.recheckAll.foldl fun h1 => h1.markWaiting)
    · exact .next ((h.recheckAll.foldl fun h2 => h2.markWaiting).foldl fun h3 => h3.addSat).launchItem

end Sys2Proof.Machine
end

section
/-! SUPPORT. Reset, the power domains, the supply, the clock and the sensors keep the stores canonical. -/

namespace Sys2Proof.Machine

variable {s t : State}

theorem Canonical.setTag {n v : Nat} (h : Canonical s) : Canonical (s.setTag n v) :=
  h.frame

theorem Canonical.setStale {n : Nat} {b : Bool} (h : Canonical s) : Canonical (s.setStale n b) :=
  .ite h.setFlag.setBit h.setFlag

theorem Canonical.clearCluster {n : Nat} (h : Canonical s) : Canonical (s.clearCluster n) :=
  { h with pad := Store.wf_filter h.pad _, lanes := Store.wf_filter h.lanes _ }

theorem Canonical.dropSorrel {n : Nat} (h : Canonical s) : Canonical (s.dropSorrel n) :=
  h.frame

theorem Canonical.losePower {n : Nat} (h : Canonical s) : Canonical (s.losePower n) :=
  (Canonical.ite ((Canonical.ite h.frame.clearCluster h.frame).frame) (.ite h.frame.clearCluster h.frame)).setTag

theorem Canonical.startWipe {cause : Nat} (h : Canonical s) : Canonical (s.startWipe cause) :=
  h.setF.setF.setF.setF.setF.setF.setF.frame

theorem Canonical.fuseDomains (h : Canonical s) : Canonical s.fuseDomains :=
  h.foldl fun h1 => .ite h1.setF.setF h1

theorem State.reset_canonical : Canonical State.reset :=
  ⟨Store.wf_nil, Store.wf_nil, Store.wf_nil, Store.wf_nil, Store.wf_nil, Store.wf_nil, Store.wf_nil, Store.wf_nil⟩

theorem Canonical.resetTo {rst : Nat} (h : Canonical s) : Canonical (s.resetTo rst) := by
  have h1 : Canonical { State.reset with
      pending := s.pending, freeCtr := s.freeCtr, mem := s.mem, memMark := s.memMark, fuses := s.fuses, fuseCopy := s.fuseCopy, trims := s.trims
      pad := s.pad, padFresh := s.padFresh, padDirty := s.padDirty, bad := s.bad
      test := s.test.shut s.lc
      sync := { syncReset with dn := s.sync.dn, cup := s.sync.cup, log := s.sync.log, load := s.sync.load }
      power := { powerReset with
        gen := s.advanceG.power.gen, tags := s.power.tags, winUs := s.power.winUs % 100, pdReq := s.power.pdReq, pdRet := s.power.pdRet
        pdAck := s.power.pdAck } } :=
    { State.reset_canonical with mem := h.mem, marks := h.marks, pad := h.pad }
  exact ((h1.setF.setF.setF.foldl fun h2 => h2.setF).foldl fun h3 => .ite h3 h3.setF.losePower).fuseDomains

theorem Canonical.cutFuses (h : Canonical s) : Canonical s.cutFuses :=
  .ite h.bump.frame h

theorem execReset_canonical (h : Canonical s) : CanonicalNext (execReset s) :=
  .next h.cutFuses.resetTo.startWipe

theorem execSupplyReset_canonical {supply : Nat} (h : Canonical s) : CanonicalNext (execSupplyReset supply s) :=
  .next h.cutFuses.resetTo.startWipe

theorem execLcFuseDone_canonical (h : Canonical s) : CanonicalNext (execLcFuseDone s) :=
  .ite (.next h) (.next h.frame.resetTo.setF.startWipe)

/-- A wipe empties slices, banks and lane copies. -/
theorem Canonical.wiped {sy po} (h : Canonical s) : Canonical { s with
    pad := [], padFresh := [], padDirty := [], bad := [], banks := [], lanes := [], rets := [], stops := [], sync := sy, power := po } :=
  { h with pad := Store.wf_nil, banks := Store.wf_nil, lanes := Store.wf_nil }

theorem execWipeDone_canonical (h : Canonical s) : CanonicalNext (execWipeDone s) :=
  .ite (.next h) (.next (h.wiped.foldl fun h1 => h1.setBit).setF.setF.setF.addMod.setF)

theorem execPdAoPowerUp_canonical (h : Canonical s) : CanonicalNext (execPdAoPowerUp s) := by
  have h1 : Canonical { State.reset with
      pending := s.pending, freeCtr := s.freeCtr, mem := s.mem, memMark := s.memMark, fuses := s.fuses
      fuseCopy := s.fuses.setWidth 64, trims := trimWords s.fuses
      sync := { syncReset with dn := s.sync.dn, cup := s.sync.cup, load := s.sync.load }
      power := { powerReset with pdAck := s.power.pdAck } } :=
    { State.reset_canonical with mem := h.mem, marks := h.marks }
  exact .next (h1.fuseDomains.setF.setF.setF).frame

theorem Canonical.setBist {n : Nat} {ok : Bool} (h : Canonical s) : Canonical (s.setBist n ok) :=
  h.frame

theorem execBistDone_canonical {failed : BitVec 16} {others : BitVec 3} (h : Canonical s) : CanonicalNext (execBistDone failed others s) := by
  refine .ite (.next h) ?_
  refine .ite ?_ ?_
  · exact .next (h.foldl fun h1 => h1.setBist).setBist.setBist.frame
  · exact .next (h.foldl fun h2 => h2.setBist).setBist.setBist.frame.startNegotiate

theorem Canonical.trans {n : Nat} (h : Canonical s) : Canonical (s.trans n) :=
  h.addSat

theorem Canonical.pins {n : Nat} {req ret : Bool} (h : Canonical s) : Canonical (s.pins n req ret) :=
  h.frame

theorem Canonical.takeOut {n : Nat} (h : Canonical s) : Canonical (s.takeOut n) :=
  h.setTag.leaveService

theorem Canonical.startMove {n t : Nat} (h : Canonical s) : Canonical (s.startMove n t) :=
  (Canonical.ite ((Canonical.ite h.pins h.pins.setTag).setF) (.ite h.pins h.pins.setTag)).setF.trans.frame

theorem Canonical.endMoves (h : Canonical s) : Canonical s.endMoves :=
  .ite (.ite h.setF.enterQuiesce h.setF) h

theorem Canonical.endSleep (h : Canonical s) : Canonical s.endSleep :=
  .ite h.frame h

theorem Canonical.entered {n : Nat} (h : Canonical s) : Canonical (s.entered n) := by
  refine .ite ?_ ?_
  · exact (Canonical.ite h.pins.setF h.pins).setF.trans.setStale.frame
  · exact (Canonical.ite h.pins.setF h.pins).setF.trans.setStale

theorem Canonical.left {n t : Nat} (h : Canonical s) : Canonical (s.left n t) := by
  refine .ite ?_ ?_
  · exact (Canonical.ite h.setF.trans.setStale.frame.dropSorrel h.setF.trans.setStale.frame).losePower
  · exact .ite h.setF.trans.setStale.frame.dropSorrel h.setF.trans.setStale.frame

theorem Canonical.changeOff {n t : Nat} (h : Canonical s) : Canonical (s.changeOff n t) :=
  .ite h.pins.left h

theorem execDomainMove_canonical (h : Canonical s) : CanonicalNext (execDomainMove s) := by
  unfold execDomainMove
  refine .ite (.next h) ?_
  split
  · exact .ite (.next h) (.next h.frame.startMove)
  · split
    · exact .next h
    · refine .ite ?_ ?_
      · exact .next (Canonical.ite h.takeOut h).frame.changeOff.endMoves
      · exact .ite (.next (.ite h.takeOut h)) (.next (Canonical.ite h.takeOut h).frame.startMove)

theorem execPdAck_canonical {n : Nat} {level : Bool} (h : Canonical s) : CanonicalNext (execPdAck n level s) := by
  have h1 : Canonical { s with power := { s.power with pdAck := s.power.pdAck.set n level } } := h.frame
  unfold execPdAck
  dsimp only
  split
  · refine .ite (.next h1) ?_
    exact .ite (.next (Canonical.ite h1.frame.entered h1.frame.left).startWipe) (.next (Canonical.ite h1.frame.entered h1.frame.left).endMoves.endSleep)
  · exact .next h1

theorem execPdAckBudgetExceeded_canonical {n : Nat} (h : Canonical s) : CanonicalNext (execPdAckBudgetExceeded n s) := by
  unfold execPdAckBudgetExceeded
  dsimp only
  split
  · exact .next h
  · refine .ite (.next h) ?_
    have h1 := (h.resetLink.setF (f := fLSTATE) (v := 0)).holdPins
    split
    · exact .next h.frame
    · exact .next h
    · exact .next h
    · exact .next h1.frame
    · exact .next h1.frame
    · exact .next h1.frame

theorem Canonical.pdGo (h : Canonical s) : CanonicalSome s.pdGo :=
  .ite .none (.some (h.foldl fun h1 => h1.changeOff).setFlag.frame)

theorem Canonical.restoreLanes {n : Nat} (h : Canonical s) : Canonical (s.restoreLanes n) :=
  h.copyLane.copyLane.frame

theorem Canonical.recoverRecord {v : PlaneView} {x : RecId} (h : Canonical s) : Canonical (s.recoverRecord v x).1 := by
  unfold State.recoverRecord
  dsimp only
  refine Canonical.ite_fst h ?_
  refine Canonical.ite_fst h ?_
  split
  · exact Canonical.ite_fst h.writeSlice h
  · exact h

theorem Canonical.recoverSet {cl ps : Nat} (h : Canonical s) : Canonical (s.recoverSet cl ps) := by
  have h1 (l) := h.foldl_fst (l := l) (a := (s, true))
    (f := fun y x => ((y.1.recoverRecord (s.planeView ps) x).1, y.2 && (y.1.recoverRecord (s.planeView ps) x).2))
      fun h2 => h2.recoverRecord
  exact .ite (h1 _) (h1 _).setF.post

theorem Canonical.tagLoss {n : Nat} (h : Canonical s) : Canonical (s.tagLoss n) :=
  h.post

theorem Canonical.wipeHalter (h : Canonical s) : Canonical s.wipeHalter :=
  { h with regs := Store.wf_filter h.regs _, reqs := Store.wf_nil }

theorem Canonical.recovered {n : Nat} (h : Canonical s) : Canonical (s.recovered n) :=
  h.setTag.setStale.frame.endSleep

theorem Canonical.recoveryFails {n : Nat} {words : List Nat} (h : Canonical s) : Canonical (s.recoveryFails n words) :=
  (Canonical.ite h.setTag.frame.leaveWith h.setTag.frame.post).raise.endSleep

theorem execClusterRecovery_canonical {n : Nat} {words : List Nat} (h : Canonical s) : CanonicalNext (execClusterRecovery n words s) := by
  refine .ite (.next h) ?_
  refine .ite ?_ ?_
  · exact .next (Canonical.ite (h.frame.setBanks Store.wf_nil).frame.tagLoss h.frame).recovered
  · refine .ite (.next (Canonical.ite h.wipeHalter.tagLoss h).recovered) ?_
    refine .ite (.next h.recoveryFails) ?_
    refine .next ?_
    refine Canonical.recovered ?_
    refine .ite ?_ ?_
    · exact h.restoreLanes.foldl fun h1 => h1.recoverSet
    · exact (h.restoreLanes.foldl fun h2 => h2.recoverSet).joinService

theorem execChipSleepReq_canonical (h : Canonical s) : CanonicalNext (execChipSleepReq s) :=
  .ite (.next h) (.ite (.next h.frame) (.next h.frame))

theorem execChipWake_canonical (h : Canonical s) : CanonicalNext (execChipWake s) :=
  .ite (.next h.frame) (.next h.frame.frame.endSleep)

theorem Canonical.breakCounts (h : Canonical s) : Canonical s.breakCounts :=
  h.frame

theorem Canonical.showClock (h : Canonical s) : Canonical s.showClock :=
  h.setF

theorem execSupplyWarning_canonical {supply : Nat} (h : Canonical s) : CanonicalNext (execSupplyWarning supply s) := by
  refine .ite (.next h) ?_
  refine .ite ?_ ?_
  · exact .next (h.setF.setF.addSat.post.foldl fun h1 => .ite h1.setTag h1)
  · exact .next h.setF.setF.addSat.post.setF.showClock.frame.breakCounts

theorem execSupplyRecoveryCrossing_canonical {supply : Nat} (h : Canonical s) : CanonicalNext (execSupplyRecoveryCrossing supply s) :=
  .ite (.next h.setF) (.next h)

theorem execSupplyRecovered_canonical {us : BitVec 32} (h : Canonical s) : CanonicalNext (execSupplyRecovered us s) :=
  .ite (.next h) (.next h.setF.showClock.frame.post)

theorem Canonical.drivePoint {pt : Nat} (h : Canonical s) : Canonical (s.drivePoint pt) :=
  (Canonical.ite h.setF.showClock h).frame

theorem Canonical.tripDown (h : Canonical s) : Canonical s.tripDown := by
  unfold State.tripDown
  refine .ite ?_ ?_
  · refine Canonical.breakCounts ?_
    split
    · exact .ite h.setF.showClock h
    · exact .ite h h.drivePoint
  · split
    · exact .ite h.setF.showClock h
    · exact .ite h h.drivePoint

theorem execVselAck_canonical (h : Canonical s) : CanonicalNext (execVselAck s) := by
  unfold execVselAck
  split
  · exact .next h
  · refine .ite ?_ ?_
    · exact .ite (.next h.frame) (.next (.ite h.frame.drivePoint.breakCounts h.frame.drivePoint))
    · exact .next h.frame.setF.showClock

theorem execVselTimeout_canonical (h : Canonical s) : CanonicalNext (execVselTimeout s) :=
  .ite (.next h) (.next (.ite h.frame.post.tripDown h.frame.post))

theorem execDvfsDecision_canonical (h : Canonical s) : CanonicalNext (execDvfsDecision s) := by
  refine .ite ?_ ?_
  · exact .next h
  · exact .ite (.next (.ite h.frame h.frame.drivePoint)) (.ite (.next h.frame.drivePoint) (.next h))

theorem Canonical.endWindow (h : Canonical s) : Canonical s.endWindow :=
  h.frame

theorem execEnergyRefill_canonical (h : Canonical s) : CanonicalNext (execEnergyRefill s) :=
  .next (.ite h.frame.endWindow h.frame)

theorem Canonical.sampleSensor {n : Nat} {t : BitVec 12} (h : Canonical s) : Canonical (s.sampleSensor n t).1 := by
  have hhot {t : State} {k us due mi tr} (ht : Canonical t) :
      Canonical { t with power := { t.power with hotUs := t.power.hotUs.set k us, hotDue := due, missed := mi, tripped := tr } } :=
    ht.frame
  unfold State.sampleSensor
  dsimp only
  refine Canonical.ite_fst (.ite ?_ (.tripDown ?_)) ?_ <;>
  · refine hhot (.setFlag (.ite (.ite ?_ ?_) h.setF))
    · exact h.setF.setF.setF
    · exact h.setF.setF

theorem execThermalSample_canonical {temps : List (BitVec 12)} (h : Canonical s) : CanonicalNext (execThermalSample temps s) := by
  unfold execThermalSample
  split
  next t1 _ e1 =>
    have h1 : Canonical t1 := .of_fst e1 (h.foldl_fst fun h2 => h2.sampleSensor)
    exact .next (h1.foldl fun h3 => h3.foldl fun h4 => h4.post)

theorem execSyncTick_canonical (h : Canonical s) : CanonicalNext (execSyncTick s) :=
  .next (.ite h.addMod h)

theorem execSyncLoad_canonical {v : Word64} {level : Bool} (h : Canonical s) : CanonicalNext (execSyncLoad v level s) :=
  .next (Canonical.ite h.setF h).frame

end Sys2Proof.Machine
end

section
/-! SUPPORT. Damaged memories and the commands of Farrier keep the stores canonical. -/

namespace Sys2Proof.Machine

variable {s t : State}

theorem Canonical.onRows {p : Flight → Nat → RowState → Bool} {g : Flight → RowState → RowState} (h : Canonical s) : Canonical (s.onRows p g).1 :=
  h.frame

theorem Canonical.faultReq {slot : Nat} {rows : Bool} (h : Canonical s) : Canonical (s.faultReq slot rows).1 :=
  Canonical.ite_fst (.ite h.onRows h) (Canonical.ite h.onRows h).wantEnd.settle

theorem Canonical.hitPart {p : SramPart} (h : Canonical s) : Canonical (s.hitPart p).1 := by
  unfold State.hitPart
  split
  · exact h
  · exact h
  · exact h
  · exact h
  · exact h.onRows
  · exact h.onRows
  · exact h.frame
  · exact h.onRows
  · exact h.onRows
  · exact h.bump.frame
  · exact h.onRows
  · exact h.frame
  · exact h.onRows
  · exact h.faultReq
  · exact h.faultReq
  · exact h.frame.onRows
  · exact h.frame
  · exact h.onRows
  · exact h.frame.foldl fun h1 => h1.faultReq
  · exact h.faultReq
  · exact h.setReg.setReg

theorem Canonical.uncorrectable {p : SramPart} (h : Canonical s) : Canonical (s.uncorrectable p) := by
  unfold State.uncorrectable
  dsimp only
  refine .ite h ?_
  split
  · refine .ite ?_ ?_
    · exact (Canonical.ite h.hitPart h.hitPart.frame).addSat.frame.post.raise
    · exact (Canonical.ite h.hitPart h.hitPart.frame).addSat.frame.post
  · exact (Canonical.ite h.hitPart h.hitPart.frame).addSat.frame.post

theorem Canonical.corrected {p : SramPart} {storm : Bool} {syn : BitVec 8} (h : Canonical s) : Canonical (s.corrected p storm syn) := by
  refine .ite ?_ ?_
  · exact (Canonical.ite h.addSat.frame.coalesce (.ite h.addSat.frame.coalesce h.addSat.frame)).raise
  · exact .ite h.addSat.frame.coalesce (.ite h.addSat.frame.coalesce h.addSat.frame)

theorem execSramPatrol_canonical {part : SramPart} {double storm : Bool} {syndrome : BitVec 8} (h : Canonical s) :
    CanonicalNext (execSramPatrol part double storm syndrome s) :=
  .next (.ite h (.ite h.uncorrectable h.corrected))

theorem Canonical.scrubRecord {v : PlaneView} {x : RecId} {glitch : Bool} (h : Canonical s) : Canonical (s.scrubRecord v x glitch) := by
  refine .ite ?_ ?_
  · exact .ite ((Canonical.ite h.readHost.readHost h.readHost).coalesce) (.ite h.readHost.readHost h.readHost)
  · refine .ite ?_ ?_
    · exact (Canonical.ite h.readHost.readHost h.readHost).post.raise
    · exact (Canonical.ite h.readHost.readHost h.readHost).post

theorem Canonical.scrubNext {planes : List (PlaneView × Nat)} {p : ScrubPos} (h : Canonical s) : Canonical (s.scrubNext planes p) := by
  unfold State.scrubNext
  split
  · exact h.frame
  · exact h.frame.addMod

theorem execScrubRead_canonical {glitch : Bool} (h : Canonical s) : CanonicalNext (execScrubRead glitch s) := by
  unfold execScrubRead
  refine .ite (.next h) ?_
  split
  · exact .next h.scrubRecord.scrubNext
  · split
    · exact .next h.addMod.scrubRecord.scrubNext
    · exact .next h

theorem execSorrelReseed_canonical {cl lane : Nat} {j nb : BitVec 32} (h : Canonical s) : CanonicalNext (execSorrelReseed cl lane j nb s) := by
  unfold execSorrelReseed
  split
  · exact .next h
  · refine .ite (.next h) (.ite (.next h.bump.frame) (.next (.raise (.post ?_))))
    exact h.bump.frame

theorem Canonical.popExc {flag : Nat} {data : List Nat} (h : Canonical s) : Canonical (s.popExc flag data) := by
  unfold State.popExc
  split
  · exact h
  · exact h.setF.frame

theorem Canonical.sliceHard {cl word : Nat} (h : Canonical s) : Canonical (s.sliceHard cl word) :=
  h.post

theorem Canonical.repairWord {cl word ps : Nat} {hard : List Nat} {glitch : Bool} (h : Canonical s) : Canonical (s.repairWord cl word ps hard glitch) := by
  unfold State.repairWord
  dsimp only
  split
  · exact h
  · split
    · exact (Canonical.ite h.readHost.readHost h.readHost).sealEvents
    · refine .ite ?_ ?_
      · exact (Canonical.ite h.readHost.readHost h.readHost).sealEvents
      · exact (Canonical.ite h.readHost.readHost h.readHost).sealEvents.foldl fun h1 => .ite h1.sliceHard h1.writeSlice

theorem execPadRepair_canonical {hard : List Nat} {glitch : Bool} (h : Canonical s) : CanonicalNext (execPadRepair hard glitch s) := by
  unfold execPadRepair
  split
  · exact .next h.repairWord.popExc
  · exact .next h

theorem execCeStorm_canonical {persists : Bool} (h : Canonical s) : CanonicalNext (execCeStorm persists s) := by
  unfold execCeStorm
  split
  · exact .next (Canonical.ite h.sliceHard h).popExc
  · exact .next h

theorem execScrubFix_canonical (h : Canonical s) : CanonicalNext (execScrubFix s) := by
  unfold execScrubFix
  split
  · exact .next (Canonical.ite h.writeHost h).popExc
  · exact .next h

theorem execStaleFail_canonical (h : Canonical s) : CanonicalNext (execStaleFail s) := by
  unfold execStaleFail
  split
  · exact .next h.popExc
  · exact .next h

theorem execSorrelCheck_canonical {passed : Bool} (h : Canonical s) : CanonicalNext (execSorrelCheck passed s) := by
  unfold execSorrelCheck
  split
  · exact .next h.popExc
  · exact .next h

theorem execLinkLog_canonical (h : Canonical s) : CanonicalNext (execLinkLog s) := by
  unfold execLinkLog
  split
  · exact .next h.popExc
  · exact .next h

theorem execLockstepLog_canonical (h : Canonical s) : CanonicalNext (execLockstepLog s) := by
  unfold execLockstepLog
  split
  · exact .next h.popExc
  · exact .next h

theorem Canonical.abortMailbox (h : Canonical s) : Canonical s.abortMailbox := by
  unfold State.abortMailbox
  split
  · exact h
  · exact h.bump.frame.setF.setF.post

theorem execFarrierRestartDone_canonical (h : Canonical s) : CanonicalNext (execFarrierRestartDone s) :=
  .ite (.next h.setF) (.next h)

theorem execTelemetryPeriod_canonical (h : Canonical s) : CanonicalNext (execTelemetryPeriod s) := by
  unfold execTelemetryPeriod
  split
  · exact .next h
  · exact .ite (.next h.frame) (.next h.writeHost.frame)

theorem Canonical.mboxStatus {st seq retry result : Nat} (h : Canonical s) : Canonical (s.mboxStatus st seq retry result) :=
  h.setF.setF.setF.setF

theorem Canonical.takeCommand {cmd seq : Nat} {out : TestOut} (h : Canonical s) : Canonical (s.takeCommand cmd seq out) :=
  (Canonical.ite h.mboxStatus.leaveWith h.mboxStatus).frame

theorem Canonical.writeMailbox {v : Word64} {out : TestOut} (h : Canonical s) : CanonicalSome (s.writeMailbox v out) := by
  refine .ite .none ?_
  refine .ite ?_ ?_
  · exact .some h.setF.setF.bump.mboxStatus
  · exact .ite (.some h.setF.setF.mboxStatus) (.some h.setF.setF.takeCommand)

theorem Canonical.writeMboxArg {v : Word64} (h : Canonical s) : CanonicalSome (s.writeMboxArg v) :=
  .ite .none (.some h.setF)

theorem Canonical.doRestore {arg : Word64} (h : Canonical s) : Canonical (s.doRestore arg).1 := by
  refine Canonical.ite_fst h (Canonical.ite_fst h ?_)
  split
  · exact h.imagePoison
  · exact h.restore

theorem Canonical.doTelem {arg : Word64} (h : Canonical s) : Canonical (s.doTelem arg).1 :=
  Canonical.ite_fst h.frame (Canonical.ite_fst h h.frame)

theorem Canonical.doTest (h : Canonical s) : Canonical s.doTest.1 := by
  unfold State.doTest
  split
  · exact h
  · refine Canonical.ite_fst (.joinService (.restoreLanes ?_)) (.ite (.raise (.post (.frame ?_))) (.post (.frame ?_))) <;>
    exact h.clearCluster.setBist.frame

theorem Canonical.runCommand {cmd : Nat} {arg : Word64} (h : Canonical s) : Canonical (s.runCommand cmd arg).1 := by
  refine Canonical.ite_fst h ?_
  split
  · exact h
  · exact Canonical.ite_fst h (Canonical.ite_fst h h.writeHost)
  · exact h.doRestore
  · exact h.doTelem
  · exact Canonical.ite_fst h (.ite h h.writeHost)
  · exact h.doTest
  · exact Canonical.ite_fst h.breakLease h
  · exact Canonical.ite_fst h (Canonical.ite_fst h h.stopQueue)
  · exact Canonical.ite_fst h (Canonical.ite_fst h h.bump.writeHost)
  · exact Canonical.ite_fst h (Canonical.ite_fst h h.bump.writeHost)
  · exact h

theorem execMailboxCommandDone_canonical (h : Canonical s) : CanonicalNext (execMailboxCommandDone s) := by
  unfold execMailboxCommandDone
  split
  · exact .next h
  · exact .ite (.next h) (.next h.runCommand.frame.mboxStatus)

theorem Canonical.cutSave (h : Canonical s) : Canonical s.cutSave := by
  unfold State.cutSave
  split
  · exact .ite h (.ite h.bump h.bump.writeHost)
  · exact h

theorem execFarrierReset_canonical (h : Canonical s) : CanonicalNext (execFarrierReset s) := by
  refine .ite ?_ ?_
  · exact .next h
  · exact .next (Canonical.ite h.setF.cutSave.refuseCommit h.setF.cutSave).popExc.addSat.post.abortMailbox

end Sys2Proof.Machine
end

section
/-! SUPPORT. The accesses of the control space keep the stores canonical. -/

namespace Sys2Proof.Machine

variable {s t : State}

theorem Canonical.padRead {off : Nat} (h : Canonical s) : Canonical (s.padRead off).1 :=
  Canonical.ite_fst h (Canonical.ite_fst h (Canonical.ite_fst h h.bump))

theorem Canonical.padStore {cl b : Nat} {v : Word64} (h : Canonical s) : Canonical (s.padStore cl b v) :=
  h.frame.writeSlice

theorem Canonical.padWrite {off : Nat} {v : Word64} (h : Canonical s) : CanonicalSome (s.padWrite off v) := by
  unfold State.padWrite
  refine .ite .none ?_
  split
  · exact .ite .none (.some h.padStore)
  · exact .ite .none (.some (Canonical.ite h.bump h).padStore)

theorem Canonical.clearRc {off : Nat} (h : Canonical s) : Canonical (s.clearRc off) :=
  .ite h.setReg h

theorem Canonical.readReg {off : Nat} (h : Canonical s) : Canonical (s.readReg off).1 :=
  (Canonical.ite h.bump h).clearRc

theorem Canonical.readWord {off : Nat} {snd : Sender} (h : Canonical s) : Canonical (s.readWord off snd).1 := by
  unfold State.readWord
  split
  · exact h
  · exact Canonical.ite_fst h (Canonical.ite_fst h (Canonical.ite_fst h.padRead (Canonical.ite_fst h h.readReg)))

theorem Canonical.readWords {off : Nat} {snd : Sender} {n : Nat} (h : Canonical s) : Canonical (s.readWords off snd n).1 := by
  induction n generalizing s off with
  | zero => exact h
  | succ n ih => exact ih h.readWord

theorem Canonical.storeWord {off : Nat} {v : Word64} (h : Canonical s) : Canonical (s.storeWord off v) :=
  h.setReg

theorem Canonical.writeGctl {v : Word64} (h : Canonical s) : CanonicalSome (s.writeGctl v) :=
  .ite .none (.some h.storeWord.frame)

theorem Canonical.writeLcReq {v : Word64} (h : Canonical s) : CanonicalSome (s.writeLcReq v) :=
  .ite .none (.some h.setF.setF)

theorem Canonical.startRing (h : Canonical s) : Canonical s.startRing :=
  h.setF.setF.setF.frame.foldl fun h1 => h1.post

theorem Canonical.writeEvSize {v : Word64} (h : Canonical s) : CanonicalSome (s.writeEvSize v) :=
  .ite (.some (.ite h h.setF)) (.ite (.some h.setF) (.ite (.some h.setF.startRing) .none))

theorem Canonical.writeHmwin {v : Word64} (h : Canonical s) : CanonicalSome (s.writeHmwin v) :=
  .ite .none (.ite .none (.ite .none (.some h.storeWord)))

theorem Canonical.writeSync {off : Nat} {v : Word64} (h : Canonical s) : CanonicalSome (s.writeSync off v) := by
  refine .ite (.ite .none (.some h.storeWord)) ?_
  refine .ite ?_ ?_
  · exact .ite (.some h.storeWord) .none
  · exact .ite (.some h.storeWord.refreshAll) (.ite (.some h.storeWord.deliver) (.some h.storeWord))

theorem Canonical.writePower {off : Nat} {v : Word64} (h : Canonical s) : CanonicalSome (s.writePower off v) := by
  refine .ite ?_ ?_
  · exact .ite (.some h) (.ite .none h.pdGo)
  · exact .ite (.ite (.some h.storeWord) .none) (.ite (.ite (.some h.storeWord) .none) (.some h.storeWord))

theorem Canonical.writePs {off : Nat} {v : Word64} (h : Canonical s) : Canonical (s.writePs off v) :=
  .ite h.writePsStat (.ite h.storeWord h.storeWord.frame)

theorem Canonical.writeMbox {v : Word64} {out : Option TestOut} (h : Canonical s) : CanonicalSome (s.writeMbox v out) := by
  unfold State.writeMbox
  split
  · exact h.writeMailbox
  · exact h.bump.writeMailbox

theorem Canonical.writeReg {off : Nat} {v : Word64} {out : Option TestOut} (h : Canonical s) : CanonicalSome (s.writeReg off v out) := by
  unfold State.writeReg
  refine .ite .none ?_
  refine .ite h.writeGctl ?_
  refine .ite h.writeLcReq ?_
  refine .ite h.writeMboxArg ?_
  refine .ite h.writeMbox ?_
  refine .ite ?_ ?_
  · split
    · exact .some h.writeTail
    · exact h.writeAttr
    · exact .some h.storeWord
  · refine .ite (.ite (.some h) (.ite .none h.arbGo)) ?_
    refine .ite h.writeSync ?_
    refine .ite h.writePower ?_
    refine .ite h.writeEvSize ?_
    refine .ite ?_ ?_
    · exact .some h.storeWord.levelPrio
    · exact .ite (.some h.writePs) (.ite (.ite (.some h) h.commitGo) (.ite h.writeHmwin (.some h.storeWord)))

theorem Canonical.writeKey {tenant hi : Nat} {v : Word64} (h : Canonical s) : CanonicalSome (s.writeKey tenant hi v) :=
  .ite .none (.some h.setReg.mend)

theorem Canonical.settled {o : Option State} (h : Canonical s) (ho : CanonicalSome o) : Canonical (s.settled o).1 := by
  cases o with
  | none => exact h
  | some t => exact ho t rfl

theorem Canonical.writeWord {off : Nat} {v : Word64} {snd : Sender} {out : Option TestOut} (h : Canonical s) : Canonical (s.writeWord off v snd out).1 := by
  unfold State.writeWord
  split
  · exact h
  · split
    · exact h.settled h.writeKey
    · exact Canonical.ite_fst (h.settled (.ite h.leasePut h.writeEntry))
        (Canonical.ite_fst (h.settled h.padWrite) (Canonical.ite_fst h.writeWindow (h.settled h.writeReg)))

theorem Canonical.atomWord {off sub : Nat} {x y : Word64} {snd : Sender} (h : Canonical s) : Canonical (s.atomWord off sub x y snd).1 := by
  unfold State.atomWord
  split
  · exact h
  · refine Canonical.ite_fst h ?_
    refine Canonical.ite_fst (Canonical.ite_fst h.leaseCas h) ?_
    refine Canonical.ite_fst h.readWord ?_
    split
    · exact h.readWord
    · exact Canonical.ite_fst h.readWord (Canonical.ite_fst h.readWord.writeWord h.writeWord)

theorem Canonical.request {snd : Sender} {op n : Nat} {f : State → State} (h : Canonical s) (hf : ∀ {t}, Canonical t → Canonical (f t)) :
    CanonicalNext (s.request snd op n f) := by
  refine .ite (.next h) ?_
  split
  · exact .next h.answer.replied
  next t e => exact .next (hf (h.epochCheck t e)).replied

theorem Canonical.putTo {off : Nat} {v : Word64} {snd : Sender} {out : Option TestOut} (h : Canonical s) : Canonical (s.putTo off v snd out) :=
  h.writeWord.answer

theorem Canonical.writeWords {off : Nat} {snd : Sender} {l : List Word64} (h : Canonical s) : Canonical (s.writeWords off snd l).1 := by
  induction l generalizing s off with
  | nil => exact h
  | cons v r ih => exact ih h.writeWord

theorem Canonical.accessTo {off : Nat} {op : Access} {snd : Sender} (h : Canonical s) : Canonical (s.accessTo off op snd) := by
  unfold State.accessTo
  split
  · exact h.putTo
  · exact .ite h.answer h.writeWords.answer
  · exact h.atomWord.answer

theorem Canonical.putCommand {named : Bool} {off : Nat} {v : Word64} {snd : Sender} (h : Canonical s) : CanonicalNext (s.putCommand named off v snd) :=
  .ite (h.request fun h1 => h1.putTo) (.next h)

theorem execRegisterWrite_canonical {off : Nat} {op : Access} {snd : Sender} (h : Canonical s) : CanonicalNext (execRegisterWrite off op snd s) :=
  h.request fun h1 => h1.accessTo

theorem execRcFieldRead_canonical {off n : Nat} {snd : Sender} (h : Canonical s) : CanonicalNext (execRcFieldRead off n snd s) :=
  .ite (.next h) (h.request fun h1 => .ite h1.answer h1.readWords.answer)

theorem execDoorbell_canonical {q : Nat} {op : Access} {snd : Sender} (h : Canonical s) : CanonicalNext (execDoorbell q op snd s) :=
  .ite (h.request fun h1 => h1.accessTo) (.next h)

theorem execDigestDelivery_canonical {lo hi : Word64} {snd : Sender} (h : Canonical s) : CanonicalNext (execDigestDelivery lo hi snd s) :=
  h.request fun h1 => h1.accessTo

theorem execLeaseAcquire_canonical {slot : Nat} {expect new : Word64} {snd : Sender} (h : Canonical s) :
    CanonicalNext (execLeaseAcquire slot expect new snd s) :=
  .ite (h.request fun h1 => h1.accessTo) (.next h)

theorem execHalterEntryWrite_canonical {slot word : Nat} {op : Access} {snd : Sender} (h : Canonical s) :
    CanonicalNext (execHalterEntryWrite slot word op snd s) :=
  .ite (h.request fun h1 => h1.accessTo) (.next h)

theorem execPaddockWindowAccess_canonical {off : Nat} {v : Option Word64} {snd : Sender} (h : Canonical s) :
    CanonicalNext (execPaddockWindowAccess off v snd s) := by
  unfold execPaddockWindowAccess
  split
  · exact h.putCommand
  · exact .ite (h.request fun h1 => h1.readWord.answer) (.next h)

theorem execLcReqWrite_canonical {v : Word64} {rmaEn : Bool} {snd : Sender} (h : Canonical s) : CanonicalNext (execLcReqWrite v rmaEn snd s) :=
  h.frame.putCommand

theorem Canonical.mailbox {cmd : Nat} {arg : Word64} {seq : BitVec 8} {snd : Sender} {out : Option TestOut} (h : Canonical s) :
    CanonicalNext (s.mailbox cmd arg seq snd out) :=
  h.request fun h1 => h1.putTo.replied.putTo

end Sys2Proof.Machine
end

section
/-! SUPPORT. Builds, mask loads, the test port and timeouts keep the stores canonical. -/

namespace Sys2Proof.Machine

variable {s t : State}

theorem Canonical.repackFailed {j : RepackJob} {e : RepackEnd} (h : Canonical s) : Canonical (s.repackFailed j e) := by
  unfold State.repackFailed
  refine Canonical.recheckAll ?_
  split
  · exact .ite h.post.halt h.post
  · exact h.post

theorem Canonical.beginBuild {j : RepackJob} {d : RepackDesc} (h : Canonical s) : Canonical (s.beginBuild j d) :=
  (h.foldl fun h1 => h1.setF).frame

theorem execRepackStart_canonical (h : Canonical s) : CanonicalNext (execRepackStart s) := by
  unfold execRepackStart
  dsimp only
  split
  · exact .next h
  · refine .ite (.next h) ?_
    refine .ite (.next h.readHost.frame.repackFailed) ?_
    split
    · exact .next (Canonical.ite h.readHost.frame h.readHost.frame.writeHost).repackFailed
    · exact .ite (.next h) (.next h.readHost.frame.beginBuild)

theorem Canonical.readMasters {j : RepackJob} {d : RepackDesc} (h : Canonical s) : Canonical (s.readMasters j d) :=
  h.foldl fun h1 => .ite h1.readHost.readHost h1.readHost

theorem Canonical.writeLoc {l : Loc} {bs : List Byte} (h : Canonical s) : Canonical (s.writeLoc l bs) := by
  unfold State.writeLoc
  split
  · exact h.writeSlice
  · exact .ite h.putMem h

theorem Canonical.writeRecord {r : RepackRun} {p : Nat} {loc : PlaneView → Loc} {epoch : Nat} {bs : List Byte} (h : Canonical s) :
    Canonical (s.writeRecord r p loc epoch bs) :=
  .ite ((Canonical.ite h.writeLoc h).writeLoc) (.ite h.writeLoc h)

theorem Canonical.passRepack {j : RepackJob} (h : Canonical s) : Canonical (s.passRepack j) := by
  unfold State.passRepack
  split
  · exact .ite (.ite h.setQx h.passItem) h
  · exact h

theorem Canonical.setReady {r : RepackRun} {epoch : Nat} {devs : List (Nat × Nat)} (h : Canonical s) : Canonical (s.setReady r epoch devs) :=
  (h.foldl fun h1 => h1.setF).advanceG

theorem execRepackComplete_canonical (h : Canonical s) : CanonicalNext (execRepackComplete s) := by
  unfold execRepackComplete
  dsimp only
  split
  · exact .next h
  · refine .ite ?_ ?_
    · exact .next h
    · exact .next (h.bump.frame.readMasters.foldl fun h1 => h1.foldl fun h2 => h2.writeRecord).setReady.writeHost.frame.passRepack.recheckAll

theorem execRepackStop_canonical (h : Canonical s) : CanonicalNext (execRepackStop s) := by
  unfold execRepackStop
  dsimp only
  split
  · exact .next h
  · refine .ite ?_ ?_
    · exact .next h
    · exact .next (h.bump.frame.readMasters.foldl fun h1 => .ite h1.writeRecord h1).setF.writeHost.frame.repackFailed

theorem Canonical.endLoad {q : Nat} (h : Canonical s) : Canonical (s.endLoad q) :=
  h.setQx

theorem execMaskLoadComplete_canonical (h : Canonical s) : CanonicalNext (execMaskLoadComplete s) := by
  unfold execMaskLoadComplete
  split
  · exact .next h
  · exact .ite (.next h) (.next (h.readHost.frame).mend.endLoad.advanceG)

theorem Canonical.throughBypass {code : Nat} (h : Canonical s) : Canonical (s.throughBypass code) :=
  h.bump.frame

theorem Canonical.loadWir {code : Nat} {effect : TestX → TestX} (h : Canonical s) : Canonical (s.loadWir code effect) :=
  .ite h.frame h.throughBypass

theorem execMsMbist_canonical {failed : BitVec 18} (h : Canonical s) : CanonicalNext (execMsMbist failed s) :=
  .next (.ite h.bump.loadWir h.loadWir)

theorem execMsFuse_canonical {bits : BitVec 1024} (h : Canonical s) : CanonicalNext (execMsFuse bits s) := by
  have h1 {l : List Bool} : Canonical (s.loadWir 10 fun t => { t with seen := l, wso := l }) := h.loadWir
  exact .next (.ite h1.frame h1)

theorem Canonical.scanned {inst : Instrument} {opens : Bool} {bits : List Bool} (h : Canonical s) : Canonical (s.scanned inst opens bits) :=
  h.frame

theorem Canonical.preempt {ch : Nat} (h : Canonical s) : Canonical (s.preempt ch) :=
  .ite h.bump.addSat h.bump

theorem Canonical.bridleRead {addr : Nat} (h : Canonical s) : Canonical (s.bridleRead addr) :=
  .ite h.scanned h.preempt.readHost.scanned

theorem Canonical.bridleWrite {addr : Nat} {data : List Byte} (h : Canonical s) : Canonical (s.bridleWrite addr data) :=
  .ite h.scanned h.preempt.writeHost.scanned

theorem Canonical.bridle {index : Nat} {x : BridleOp} (h : Canonical s) : Canonical (s.bridle index x) := by
  unfold State.bridle
  split
  · exact h.bump.scanned.frame
  · exact h.scanned.frame
  · exact h.bridleRead
  · exact h.bridleWrite

theorem execIeee1687Access_canonical {inst : Instrument} {index : Nat} {op : BridleOp} (h : Canonical s) :
    CanonicalNext (execIeee1687Access inst index op s) :=
  .ite (.next h.scanned) (.ite (.next h.bridle) (.next h.bump.scanned))

-- The kernel reduces `vacancy` to compare the pair with its parts.
set_option maxRecDepth 2000 in
theorem Canonical.lateVacancy {f : Flight} {n i : Nat} {k : List Nat} {r : RowState} (h : Canonical s) : Canonical (s.lateVacancy f n i k r).1 := by
  unfold State.lateVacancy
  refine Canonical.ite_fst h ?_
  dsimp only
  split
  · exact Canonical.ite_fst (.ite h.vacancy h.vacancy.setReq) h
  · exact .ite h.vacancy h.vacancy.setReq

theorem Canonical.abandonRow {x : State × Emission × List Nat × List Nat} {f : Flight} {i : Nat} {r : RowState} (h : Canonical x.1) :
    Canonical (State.abandonRow x f i r).1 := by
  unfold State.abandonRow
  split
  next s e k vac =>
  split
  · split
    next t v hv =>
      have ht : Canonical t := .of_fst hv h.lateVacancy
      exact Canonical.ite_fst ht (Canonical.ite_fst ht.emitRetain (Canonical.ite_fst ht.formRecord (.ite ht ht.callEnd)))
  · exact h

theorem Canonical.abandonEmit {f : Flight} (h : Canonical s) : Canonical (s.abandonEmit f).1 := by
  unfold State.abandonEmit
  dsimp only
  refine .issueEmission (.foldl (.foldl_fst (a := (_, _)) ?_ fun h => Canonical.abandonRow h) fun h => h.freeRets)
  exact .ite h.releaseRings (h.releaseRings.foldl fun h => h.rereadCons)

theorem Canonical.abandonScores {f : Flight} (h : Canonical s) : Canonical (s.abandonScores f).1 :=
  .ite h.writeHost h

theorem Canonical.abandonEarly {f : Flight} (h : Canonical s) : Canonical (s.abandonEarly f).1 :=
  Canonical.ite_fst h h.writeHost

theorem Canonical.dropWaits {f : Flight} (h : Canonical s) : Canonical (s.dropWaits f) :=
  h.frame

theorem execStepTimeout_canonical {ln : Nat} (h : Canonical s) : CanonicalNext (execStepTimeout ln s) := by
  unfold execStepTimeout
  split
  · exact .next h
  · extract_lets stage wait round
    refine .ite (.next h) ?_
    split
    next s1 g e1 =>
    have h1 : Canonical s1 := .of_fst e1 (.ite_fst h (.ite_fst h.abandonEarly (.ite_fst h.abandonScores h.abandonEmit)))
    exact .next (Canonical.ite h1.dropWaits.setFlight.addSat.post h1.dropWaits.setFlight.addSat).post

theorem execCoalesceWindowClose_canonical {key : CoalKey} (h : Canonical s) : CanonicalNext (execCoalesceWindowClose key s) := by
  unfold execCoalesceWindowClose
  split
  · exact .next h
  · exact .next h.closeWindow.frame
  · exact .next h.closeWindow

end Sys2Proof.Machine
end

section
/-! SUPPORT. Every command keeps the stores canonical. -/

namespace Sys2Proof.Machine

variable {s t : State}

/-- Each command leaves the stores canonical. -/
theorem exec_canonical {c : Instr} (h : Canonical s) : CanonicalNext (exec c s) := by
  cases c <;> rw [exec]
  case stepOpen | stepEnd | rows | screenInstr | refine | fuse | bias | penal | temp | maskUse | gumbel | draw =>
    exact .next h.handOver
  case queueEnable | queueDisable | resume | skip | mismatchClear | commitGo | tableWindowWrite | psRelease | psAdopt | leaseRelease |
    leaseDiscard | tenantKeyWrite | arbCommit | gctlWrite | tkHmwinWrite | eventRingEnable | syncRegisterWrite | powerRegisterWrite |
    pdCommit =>
    exact h.putCommand
  case ping | ctxSave | ctxRestore | telemCfg | faultLog | clusterTest | leaseBreak | queueAbandon | dbgSnapshot | dbgTrace =>
    exact h.mailbox
  case wsSafe | wsPreload | wsExtest | wsIntest | msLbist =>
    exact .next h.loadWir
  case wsBypass | wsClamp =>
    exact .next h.throughBypass
  exacts [execDoorbell_canonical h, execSlotFetchArrival_canonical h, execDecode_canonical h, execG2g3Descriptor_canonical h,
    execLaunch_canonical h, execNop_canonical h, execHalt_canonical h, execLoadh_canonical h, execAllocateWorkingSet_canonical h,
    execHistorySnapshot_canonical h, execFillRelease_canonical h, execScreen_canonical h, execM0Broadcast_canonical h,
    execSumSweep_canonical h, execRefineRound_canonical h, execSelect_canonical h, execVerify_canonical h, execEmit_canonical h,
    execEmitConsRetry_canonical h, execCompletionStatus_canonical h, execScoreq_canonical h, execKlref_canonical h, execGrad_canonical h,
    execGradTransposedPass_canonical h, execXmerge_canonical h, execMergeRoundComplete_canonical h, execDigest_canonical h,
    execDigestDelivery_canonical h, execDigestBisectRound_canonical h, execLaunchat_canonical h, execLaunchatSatisfied_canonical h,
    execBarrier_canonical h, execBarrierRelease_canonical h, execSyncBarDn_canonical h, execSyncBarCup_canonical h, execWaitq_canonical h,
    execSignal_canonical h, execFence_canonical h, execPut_canonical h, execGet_canonical h, execRepack_canonical h,
    execRepackStart_canonical h, execRepackComplete_canonical h, execRepackStop_canonical h, execMaskLoad_canonical h,
    execMaskLoadComplete_canonical h, execTabcommit_canonical h, execCommitCheckDone_canonical h, execLaneCopyDone_canonical h,
    execBankDrainDone_canonical h, execBankCopyDone_canonical h, execNormal_canonical h, execLeaseAcquire_canonical h,
    execHalterEntryWrite_canonical h, execLeaseTimeout_canonical h, execAdmission_canonical h, execDeadlineScan_canonical h,
    execAgeing_canonical h, execYarrowBlock_canonical h, execYarrowReport_canonical h, execArbSnapshotApply_canonical h,
    execArbModeChange_canonical h, execPaddockWindowAccess_canonical h, execRcFieldRead_canonical h, execRegisterWrite_canonical h,
    execLcReqWrite_canonical h, execLcFuseDone_canonical h, execPadRepair_canonical h, execCeStorm_canonical h, execScrubFix_canonical h,
    execStaleFail_canonical h, execSorrelCheck_canonical h, execLinkLog_canonical h, execLockstepLog_canonical h,
    execFarrierReset_canonical h, execFarrierRestartDone_canonical h, execTelemetryPeriod_canonical h, execStepTimeout_canonical h,
    execRspTimeout_canonical h, execCoalesceWindowClose_canonical h, execSramPatrol_canonical h, execScrubRead_canonical h,
    execSorrelReseed_canonical h, execHResponse_canonical h, execMcReadResponse_canonical h, execMcWriteAck_canonical h,
    execMcOrdAck_canonical h, execCapReceive_canonical h, execCapResend_canonical h, execModeAckReceive_canonical h,
    execCreditInitReceive_canonical h, execNegotiateTimeout_canonical h, execEpochNote_canonical h, execLinkFault_canonical h,
    execQuiesce_canonical h, execDrained_canonical h, execIsolate_canonical h, execPdAoPowerUp_canonical h, execReset_canonical h,
    execWipeDone_canonical h, execBistDone_canonical h, execDomainMove_canonical h, execPdAck_canonical h, execClusterRecovery_canonical h,
    execChipSleepReq_canonical h, execChipWake_canonical h, execSupplyWarning_canonical h, execSupplyRecovered_canonical h,
    execSupplyReset_canonical h, execDvfsDecision_canonical h, execVselAck_canonical h, execVselTimeout_canonical h,
    execEnergyRefill_canonical h, execThermalSample_canonical h, execSyncTick_canonical h, execSyncLoad_canonical h,
    execMsMbist_canonical h, execMsFuse_canonical h, execIeee1687Access_canonical h, execCreditReturn_canonical h,
    execMailboxCommandDone_canonical h, execSupplyRecoveryCrossing_canonical h, execPdAckBudgetExceeded_canonical h]

/-- Settles O5: a step idles, or runs one command from the same stores, and each command writes them by the writes that keep the form. -/
theorem stepsKeepStoresCanonical : Obligations.StepsKeepStoresCanonical := by
  intro s t h hstep
  unfold step at hstep
  split at hstep
  · exact (CanonicalNext.next h) t hstep
  · exact exec_canonical h.frame t hstep

end Sys2Proof.Machine
end

section
/-! PROOF. Extended records (R289). -/

namespace Sys2Proof.Machine

/-- A run of like pieces holds piece `i` behind the `i` before it. -/
theorem take_drop_flatMap {α β : Type} {g : α → List β} {n : Nat} (hg : ∀ x, (g x).length = n) (l : List α) {i : Nat} (d : α)
    (hi : i < l.length) : ((l.flatMap g).drop (n * i)).take n = g (l.getD i d) := by
  induction l generalizing i with
  | nil => exact absurd hi (Nat.not_lt_zero i)
  | cons x l ih =>
    cases i with
    | zero => simp [List.flatMap_cons, List.take_left' (hg x)]
    | succ i =>
      have hdrop : ((x :: l).flatMap g).drop (n * (i + 1)) = (l.flatMap g).drop (n * i) := by
        rw [List.flatMap_cons, Nat.mul_succ, Nat.add_comm, ← List.drop_drop, List.drop_left' (hg x)]
      rw [hdrop]
      exact ih (Nat.lt_of_succ_lt_succ hi)

@[simp] theorem topPairs_length (l : List (Nat × F32)) : (topPairs l).length = 12 := by
  simp [topPairs]

/-- The 8 bytes of a pair of an extended record. -/
def pairBytes (p : Nat × F32) : List Byte := leBytes 4 p.1 ++ leBytes 4 p.2.toNat

@[simp] theorem pairBytes_length (p : Nat × F32) : (pairBytes p).length = 8 := by simp [pairBytes]

variable (f : Flight) (o : RowOut) (pos flags gc : Nat)

@[simp] theorem ringRecord_base_length : (ringRecord f o pos flags gc false).length = 32 := by simp [ringRecord]

/-- An extended record is the base record with its 12 pairs behind it. -/
theorem ringRecord_ext : ringRecord f o pos flags gc true = ringRecord f o pos flags gc false ++ (topPairs o.top).flatMap pairBytes := by
  simp only [ringRecord, if_true, Bool.false_eq_true, if_false, List.append_nil, List.append_assoc]
  rfl

theorem ringRecord_ext_length : (ringRecord f o pos flags gc true).length = 128 := by
  simp [ringRecord_ext, List.length_flatMap]

/-- Without tokens every pair of an extended record is blank. -/
theorem topPairs_nil_getD {i : Nat} (hi : i < 12) : (topPairs []).getD i (0, 0) = (0xFFFFFFFF, fNinf) := by
  rw [List.getD_eq_getElem _ _ (by simpa using hi)]
  exact List.getElem_replicate _

/-- Settles O13: the pairs are a run of pieces of 8 bytes behind the base record, and a row without tokens has none but blank ones. -/
theorem extendedRecordAddsTwelvePairs : Obligations.ExtendedRecordAddsTwelvePairs := by
  intro f o pos flags gc
  refine ⟨ringRecord_base_length .., ringRecord_ext_length .., ?_, fun i hi => ?_, fun r i hi => ?_⟩
  · rw [ringRecord_ext, List.take_left' (ringRecord_base_length ..)]
  · rw [ringRecord_ext, ← List.drop_drop, List.drop_left' (ringRecord_base_length ..)]
    exact take_drop_flatMap pairBytes_length _ _ (by simpa using hi)
  · exact ⟨topPairs_nil_getD hi, topPairs_nil_getD hi⟩

end Sys2Proof.Machine
end

section
/-! SUPPORT. Accesses to an entry's words (R262): the Halter window, and what a read and a write of it answer. -/

namespace Sys2Proof.Machine

variable {s t : State} {slot w : Nat} {v : Word64} {snd : Sender}

/-! Where the access goes. -/

theorem inHalter_rENT (hs : slot < 8192) (hw : w < 16) : inHalter (rENT slot w) = true :=
  decide_eq_true (by unfold rENT; omega)

theorem entrySlot_rENT (hs : slot < 8192) (hw : w < 16) : entrySlot (rENT slot w) = slot := by
  unfold entrySlot rENT
  omega

theorem entryWord_rENT (hw : w < 16) : entryWord (rENT slot w) = w := by
  unfold entryWord rENT
  omega

theorem State.keyAt_rENT (t : State) (slot w : Nat) : t.keyAt (rENT slot w) = none := by
  have hlt : 0x100000 ≤ rENT slot w := by
    unfold rENT
    omega
  rw [State.keyAt, if_neg]
  simp only [Bool.or_eq_true, Bool.and_eq_true, decide_eq_true_eq]
  omega

/-- An access to the Halter window is refused while PD_HAL is not `ON` (R445, R449). -/
theorem State.refusal_rENT (ha : t.power.asleep = false) (hs : slot < 8192) (hw : w < 16) :
    t.refusal (rENT slot w) = if t.halOn then none else some rACCESS := by
  have halign : (rENT slot w % 8 != 0) = false := by simp [rENT]; omega
  have hreg : inRegion (rENT slot w) = true := decide_eq_true (by unfold rENT; omega)
  have hcam : inCampion (rENT slot w) = false := decide_eq_false (by unfold rENT; omega)
  cases hhal : t.halOn <;> simp [State.refusal, halign, hreg, ha, inHalter_rENT hs hw, hcam, hhal]

section
variable (ha : t.power.asleep = false) (hs : slot < 8192) (hw : w < 16)
include ha hs hw

theorem State.readWord_rENT_off (hhal : t.halOn = false) : t.readWord (rENT slot w) snd = (t, rACCESS, 0) := by
  rw [State.readWord, State.refusal_rENT ha hs hw, hhal]
  rfl

theorem State.readWord_rENT_on (hhal : t.halOn = true) : t.readWord (rENT slot w) snd = (t, rOK, t.readEntry slot w snd) := by
  simp [State.readWord, State.refusal_rENT ha hs hw, hhal, State.keyAt_rENT, inHalter_rENT hs hw, entrySlot_rENT hs hw, entryWord_rENT hw]

theorem State.writeWord_rENT_off (hhal : t.halOn = false) : t.writeWord (rENT slot w) v snd none = (t, rACCESS) := by
  rw [State.writeWord, State.refusal_rENT ha hs hw, hhal]
  rfl

theorem State.writeWord_rENT_on (hhal : t.halOn = true) : t.writeWord (rENT slot w) v snd none =
    t.settled (if w = 14 then t.leasePut slot v snd else t.writeEntry slot w v snd) := by
  simp [State.writeWord, State.refusal_rENT ha hs hw, hhal, State.keyAt_rENT, inHalter_rENT hs hw, entrySlot_rENT hs hw, entryWord_rENT hw]

end

/-! The commands. -/

theorem exec_rcFieldRead_entry (h : Heard s snd t) : exec (.rcFieldRead (rENT slot w) 1 snd) s =
    .next (((t.readWord (rENT slot w) snd).1.answer (t.readWord (rENT slot w) snd).2.1
      [if (t.readWord (rENT slot w) snd).2.1 = rOK then (t.readWord (rENT slot w) snd).2.2 else 0]).replied snd opRD 1) := by
  rw [exec_rcFieldRead_heard h (by decide) (by decide) (by unfold rENT; omega) (by unfold rENT; omega)]
  simp only [State.readWords]
  split
  · next hok => rw [hok]
  · rfl

theorem exec_halterEntryWrite_heard (h : Heard s snd t) (hs : slot < 8192) (hw : w < 16) :
    exec (.halterEntryWrite slot w (.put v) snd) s = .next ((t.putTo (rENT slot w) v snd none).replied snd opWR 1) := by
  change execHalterEntryWrite slot w (.put v) snd s = _
  rw [execHalterEntryWrite, if_pos ⟨hs, hw⟩, State.request_heard _ _ _ _ _ _ h.1 h.2]
  rfl

/-! The shadow of a lease. -/

/-- The holder's write of a word goes to its shadow. -/
def State.writeShadow (t : State) (slot w : Nat) (v : Word64) : State :=
  { t with shadows := t.shadows.map fun p => if p.1 == slot then (slot, p.2.set w (blend (rwsMask w) (p.2.getD w 0) v)) else p }

theorem State.writeEntry_of_holder (hh : t.holder slot snd = true) : t.writeEntry slot w v snd = some (t.writeShadow slot w v) := if_pos hh

theorem State.writeEntry_of_not_holder (hh : t.holder slot snd = false) : t.writeEntry slot w v snd = none := by
  rw [State.writeEntry, if_neg (by simp [hh])]

/-- A write of a shadow leaves each shadow at its slot. -/
theorem State.writeShadow_find (n : Nat) : (t.writeShadow slot w v).shadows.find? (fun p => p.1 == n) =
    (t.shadows.find? fun p => p.1 == n).map fun p =>
      if p.1 == slot then (slot, p.2.set w (blend (rwsMask w) (p.2.getD w 0) v)) else p := by
  rw [State.writeShadow, List.find?_map]
  congr 2
  funext p
  by_cases hp : p.1 = slot <;> simp [hp]

theorem State.writeShadow_same {sh : List Word64} (hsh : t.shadow slot = some sh) :
    (t.writeShadow slot w v).shadow slot = some (sh.set w (blend (rwsMask w) (sh.getD w 0) v)) := by
  obtain ⟨p, hp, rfl⟩ := Option.map_eq_some_iff.1 hsh
  have hslot : p.1 = slot := beq_iff_eq.1 (List.find?_some (p := fun p : Nat × List Word64 => p.1 == slot) hp)
  rw [State.shadow, State.writeShadow_find, hp]
  simp [hslot]

theorem State.writeShadow_other {n : Nat} (hn : n ≠ slot) : (t.writeShadow slot w v).shadow n = t.shadow n := by
  rw [State.shadow, State.shadow, State.writeShadow_find]
  cases hp : t.shadows.find? fun p => p.1 == n with
  | none => rfl
  | some p =>
    have hslot : p.1 = n := beq_iff_eq.1 (List.find?_some (p := fun p : Nat × List Word64 => p.1 == n) hp)
    simp [hslot, hn]

end Sys2Proof.Machine
end

section
/-! PROOF. Entry accesses go through the lease (R262). -/

namespace Sys2Proof.Machine

/-- Settles O18: an access to an entry's word is refused while PD_HAL is not `ON`; else it reaches the live word or the holder's shadow. -/
theorem entryAccessesGoThroughTheLease : Obligations.EntryAccessesGoThroughTheLease := by
  unfold Obligations.EntryAccessesGoThroughTheLease
  intro s t slot w v snd h ha hs hw
  refine ⟨fun hhal => ⟨?readOff, ?writeOff⟩, fun hhal => ?read, fun hhal hw14 hh => ?shadowed, fun hhal hw14 hh => ?refused⟩
  case readOff => rw [exec_rcFieldRead_entry h, State.readWord_rENT_off ha hs hw hhal]; rfl
  case writeOff => rw [exec_halterEntryWrite_heard h hs hw, State.putTo, State.writeWord_rENT_off ha hs hw hhal]
  case read =>
    rw [exec_rcFieldRead_entry h, State.readWord_rENT_on ha hs hw hhal]
    simp [State.readEntry]
  case shadowed =>
    refine ⟨((t.writeShadow slot w v).answer rOK []).replied snd opWR 1, ?_, rfl, rfl, fun _ => State.writeShadow_same, fun _ => State.writeShadow_other⟩
    rw [exec_halterEntryWrite_heard h hs hw, State.putTo, State.writeWord_rENT_on ha hs hw hhal, if_neg hw14, State.writeEntry_of_holder hh]
    rfl
  case refused =>
    rw [exec_halterEntryWrite_heard h hs hw, State.putTo, State.writeWord_rENT_on ha hs hw hhal, if_neg hw14, State.writeEntry_of_not_holder hh]
    rfl

end Sys2Proof.Machine
end

section
/-! SUPPORT. Words of an entry: what a blend takes, words written in order, and what an entry's end leaves of the state. -/

namespace Sys2Proof.Machine

/-! Blends of words. -/

theorem blend_getLsbD (m x y : Word64) (i : Nat) (hi : i < 64) :
    (blend m x y).getLsbD i = if m.getLsbD i then y.getLsbD i else x.getLsbD i := by
  rw [blend, BitVec.getLsbD_or, BitVec.getLsbD_and, BitVec.getLsbD_and, BitVec.getLsbD_not]
  cases m.getLsbD i <;> simp [hi]

theorem blend_zero (x y : Word64) : blend 0 x y = x := by
  refine BitVec.eq_of_getLsbD_eq fun i hi => ?_
  rw [blend_getLsbD 0 x y i hi]
  simp

/-- Only the masked bits of the second word count. -/
theorem blend_congr {m y z : Word64} (x : Word64) (h : y &&& m = z &&& m) : blend m x y = blend m x z := by
  rw [blend, blend, h]

theorem blend_blend (m d x y : Word64) : blend m d (blend m x y) = blend m d y := by
  refine BitVec.eq_of_getLsbD_eq fun i hi => ?_
  simp only [blend_getLsbD _ _ _ i hi]
  split <;> rfl

/-- A field outside the mask stays as it was. -/
theorem getBits_blend_out {m : Word64} {l n : Nat} (h : ∀ i, i < n → m.getLsbD (l + i) = false) (x y : Word64) (hn : l + n ≤ 64) :
    getBits (blend m x y) l n = getBits x l n := by
  refine Nat.eq_of_testBit_eq fun i => ?_
  rw [getBits_testBit, getBits_testBit]
  by_cases hi : i < n
  · rw [blend_getLsbD m x y _ (by omega), if_neg (by simp [h i hi])]
  · simp [hi]

/-- A field outside the mask may be written beside it. -/
theorem setBits_and_out {m : Word64} {l n : Nat} (h : ∀ i, i < n → m.getLsbD (l + i) = false) (x : Word64) (v : Nat) :
    setBits x l n v &&& m = x &&& m := by
  refine BitVec.eq_of_getLsbD_eq fun i hi => ?_
  rw [BitVec.getLsbD_and, BitVec.getLsbD_and, setBits_getLsbD x l n v i hi]
  split
  · next hin =>
    have hm := h (i - l) (by omega)
    rw [Nat.add_sub_cancel' hin.1] at hm
    simp [hm]
  · rfl

/-! Words of one entry written in order. -/

variable {s : State} {slot : Nat}

theorem rENT_inj {w w' : Nat} : rENT slot w = rENT slot w' ↔ w = w' := by
  unfold rENT
  omega

/-- The first `n` words of an entry, each made anew from what it holds. -/
def State.mapWords (s : State) (slot n : Nat) (g : Nat → Word64 → Word64) : State :=
  (List.range n).foldl (fun s w => s.setReg (rENT slot w) (g w (s.word slot w))) s

variable {n : Nat} {g : Nat → Word64 → Word64}

theorem State.mapWords_succ :
    s.mapWords slot (n + 1) g = (s.mapWords slot n g).setReg (rENT slot n) (g n ((s.mapWords slot n g).word slot n)) := by
  rw [State.mapWords, List.range_succ, List.foldl_append]
  rfl

theorem State.mapWords_frame : s.mapWords slot n g = { s with regs := (s.mapWords slot n g).regs } := by
  induction n with
  | zero => rfl
  | succ n ih => rw [State.mapWords_succ, ih]; rfl

theorem State.mapWords_reg_other {o : Nat} (h : ∀ w, w < n → o ≠ rENT slot w) : (s.mapWords slot n g).reg o = s.reg o := by
  induction n with
  | zero => rfl
  | succ n ih =>
    rw [State.mapWords_succ, State.reg_setReg_other _ _ (h n n.lt_succ_self), ih fun w hw => h w (Nat.lt_succ_of_lt hw)]

theorem State.mapWords_word_out {w : Nat} (h : n ≤ w) : (s.mapWords slot n g).word slot w = s.word slot w :=
  State.mapWords_reg_other fun w' hw' he => absurd (rENT_inj.1 he) (by omega)

theorem State.mapWords_word {w : Nat} (h : w < n) : (s.mapWords slot n g).word slot w = g w (s.word slot w) := by
  induction n with
  | zero => exact absurd h (Nat.not_lt_zero w)
  | succ n ih =>
    rw [State.mapWords_succ]
    rcases Nat.lt_succ_iff_lt_or_eq.1 h with hlt | rfl
    · exact (State.reg_setReg_other _ _ (mt rENT_inj.1 hlt.ne)).trans (ih hlt)
    · exact (State.reg_setReg_same _ _ _).trans (congrArg (g w) (State.mapWords_word_out (le_refl w)))

/-! The `NOTE` word and the end of a request (R273, R275, R286). -/

theorem State.writeNote_frame (slot : Nat) (why : Option Purpose2) : s.writeNote slot why =
    { s with mem := (s.writeNote slot why).mem, link := (s.writeNote slot why).link, out := (s.writeNote slot why).out } := by
  unfold State.writeNote
  split
  · rfl
  · dsimp only
    split
    · rfl
    · exact State.writeHost_frame ..

theorem State.enter_regs (st reason : Nat) (why : Option Purpose2) :
    (s.enter slot st reason why).regs = ((s.setF (fE_STATE slot) st).setF (fE_REASON slot) reason).regs := by
  rw [State.enter, State.writeNote_frame]
  rfl

theorem State.enter_rets (st reason : Nat) (why : Option Purpose2) :
    (s.enter slot st reason why).rets = s.rets.filter fun r => r.slot != slot := by
  rw [State.enter, State.writeNote_frame]
  rfl

/-- The end of a request changes registers, its retentions, and what its `NOTE` word sends. -/
theorem State.enter_frame (st reason : Nat) (why : Option Purpose2) : s.enter slot st reason why =
    { s with regs := (s.enter slot st reason why).regs, rets := (s.enter slot st reason why).rets, mem := (s.enter slot st reason why).mem
             link := (s.enter slot st reason why).link, out := (s.enter slot st reason why).out } := by
  rw [State.enter, State.writeNote_frame]
  rfl

theorem State.getF_enter_state {st : Nat} (hst : st < 8) (reason : Nat) (why : Option Purpose2) : (s.enter slot st reason why).eState slot = st := by
  have hst8 := (s.getF_setF_same (fE_STATE slot) st (show 0 + 3 ≤ 64 by decide)).trans (Nat.mod_eq_of_lt hst)
  rw [State.eState, State.getF_congr (State.reg_congr (State.enter_regs st reason why) _)]
  exact (State.getF_setF_other _ (fE_REASON slot) reason (show 0 + 3 ≤ 64 by decide) (.inr (.inl (show 0 + 3 ≤ 32 by decide)))).trans hst8

theorem State.getF_enter_reason {reason : Nat} (hr : reason < 256) (st : Nat) (why : Option Purpose2) :
    (s.enter slot st reason why).getF (fE_REASON slot) = reason := by
  rw [State.getF_congr (State.reg_congr (State.enter_regs st reason why) _), State.getF_setF_same _ _ _ (show 32 + 8 ≤ 64 by decide)]
  exact Nat.mod_eq_of_lt hr

/-- A state change touches no word but the first of its entry. -/
theorem State.enter_reg_other {o : Nat} (st reason : Nat) (why : Option Purpose2) (ho : o ≠ rENT slot 0) :
    (s.enter slot st reason why).reg o = s.reg o := by
  rw [State.reg_congr (State.enter_regs st reason why), State.reg_setF_other _ (fE_REASON slot) _ ho, State.reg_setF_other _ (fE_STATE slot) _ ho]

/-- What `settle` leaves: the state itself, the end that was wanted, or the end of a request that stops. -/
theorem State.settle_cases (s : State) (slot : Nat) (why : Option Purpose2) :
    (s.settle slot why = s) ∨
    (∃ st reason, s.settle slot why = s.setReq slot { s.req slot with ending := none } ∨
      s.settle slot why = (s.setReq slot { s.req slot with ending := none }).enter slot st reason why) ∨
    s.settle slot why = s.enter slot 5 (s.getF (fE_REASON slot)) why := by
  unfold State.settle
  split
  · exact .inl rfl
  · split
    · next st reason _ =>
      dsimp only
      split
      · exact .inr (.inl ⟨st, reason, .inl rfl⟩)
      · exact .inr (.inl ⟨st, reason, .inr rfl⟩)
    · split
      · exact .inr (.inr rfl)
      · exact .inl rfl

/-- What an end keeps, and the loss of a wanted end keeps, `settle` keeps. -/
theorem State.settle_keeps {Q : State → Prop} (henter : ∀ (t : State) st reason why, Q t → Q (t.enter slot st reason why))
    (hreq : ∀ (t : State) r, Q t → Q (t.setReq slot r)) (why : Option Purpose2) (h : Q s) : Q (s.settle slot why) := by
  rcases s.settle_cases slot why with he | ⟨st, reason, he | he⟩ | he
  · rwa [he]
  · rw [he]
    exact hreq _ _ h
  · rw [he]
    exact henter _ _ _ _ (hreq _ _ h)
  · rw [he]
    exact henter _ _ _ _ h

theorem State.settle_of_running {why : Option Purpose2} (h : s.getF (fE_INFL slot) ≠ 0) : s.settle slot why = s := if_pos (by simpa using h)

theorem State.settle_of_stopping {why : Option Purpose2} (hinfl : s.getF (fE_INFL slot) = 0) (hend : (s.req slot).ending = none)
    (hst : s.eState slot = 4) : s.settle slot why = s.enter slot 5 (s.getF (fE_REASON slot)) why := by
  rw [State.settle, if_neg (by simp [hinfl]), hend]
  exact if_pos hst

theorem State.settle_reg_other {o : Nat} (why : Option Purpose2) (ho : o ≠ rENT slot 0) : (s.settle slot why).reg o = s.reg o :=
  State.settle_keeps (Q := fun t => t.reg o = s.reg o) (fun t st reason why h => (t.enter_reg_other st reason why ho).trans h) (fun _ _ h => h) why rfl

theorem State.settle_flights (why : Option Purpose2) : (s.settle slot why).flights = s.flights :=
  State.settle_keeps (Q := fun t => t.flights = s.flights) (fun t st reason why h => by rw [State.enter_frame]; exact h) (fun _ _ h => h) why rfl

theorem State.settle_shadows (why : Option Purpose2) : (s.settle slot why).shadows = s.shadows :=
  State.settle_keeps (Q := fun t => t.shadows = s.shadows) (fun t st reason why h => by rw [State.enter_frame]; exact h) (fun _ _ h => h) why rfl

/-- A request without retentions gains none at its end. -/
theorem State.settle_rets (why : Option Purpose2) (h : ∀ r ∈ s.rets, r.slot ≠ slot) : ∀ r ∈ (s.settle slot why).rets, r.slot ≠ slot :=
  State.settle_keeps (Q := fun t => ∀ r ∈ t.rets, r.slot ≠ slot)
    (fun t st reason why _ r hr => by
      rw [State.enter_rets, List.mem_filter] at hr
      simpa using hr.2) (fun _ _ h => h) why h

end Sys2Proof.Machine
end

section
/-! SUPPORT. Leases (R266 to R269): how each is taken, and how an edit is refused or applied. -/

namespace Sys2Proof.Machine

variable {s t u : State} {slot w : Nat} {snd : Sender}

/-! A lease word that is 0 is free, and its shadow is gone. -/

/-- The slot's `LEASE` word is 0 and it has no shadow. -/
def State.released (s : State) (slot : Nat) : Prop := s.word slot 14 = 0 ∧ s.shadow slot = none

theorem State.word_congr (h : u.regs = t.regs) (slot w : Nat) : u.word slot w = t.word slot w := State.reg_congr h _

theorem State.shadow_congr (h : u.shadows = t.shadows) (slot : Nat) : u.shadow slot = t.shadow slot := by
  rw [State.shadow, State.shadow, h]

theorem State.released.held (h : s.released slot) : s.held slot = false := by
  have hf : s.getF (fE_HELD slot) = getBits (s.word slot 14) 63 1 := rfl
  rw [State.held, State.flag, hf, h.1]
  rfl

theorem State.released.congr (h : t.released slot) (hw : u.word slot 14 = t.word slot 14) (hs : u.shadows = t.shadows) : u.released slot :=
  ⟨hw.trans h.1, (State.shadow_congr hs slot).trans h.2⟩

theorem State.shadow_filter (l : List (Nat × List Word64)) : ((l.filter fun p => p.1 != slot).find? fun p => p.1 == slot) = none := by
  rw [List.find?_eq_none]
  intro p hp
  have hne := (List.mem_filter.1 hp).2
  simpa using hne

theorem State.dropShadow_released (s : State) (slot : Nat) : (s.dropShadow slot).released slot :=
  ⟨s.reg_setReg_same _ _, by rw [State.shadow, State.dropShadow, State.shadow_filter]; rfl⟩

/-- Dropping a shadow changes the `LEASE` word and the shadows. -/
theorem State.dropShadow_reg {o : Nat} (ho : o ≠ rENT slot 14) : (s.dropShadow slot).reg o = s.reg o := s.reg_setReg_other _ ho

theorem State.dropShadow_word (hw : w ≠ 14) : (s.dropShadow slot).word slot w = s.word slot w := State.dropShadow_reg (mt rENT_inj.1 hw)

theorem State.leaseEvent_word (code cause : Nat) : (s.leaseEvent slot code cause).word slot w = s.word slot w :=
  State.post_reg s (offEvents_rENT slot w) _

/-! The acquisition (R266). -/

section
variable {new : Word64}

/-- The state that a `CAS` which takes the lease leaves. -/
def State.leased (t : State) (slot : Nat) (new : Word64) : State :=
  { (t.setReg (rENT slot 14) new) with shadows := t.shadows ++ [(slot, (List.range 16).map fun w => t.word slot w)] }

theorem State.leaseCas_of_free (hh : t.held slot = false) (hbit : getBits new 63 1 = 1) (hzero : getBits new 48 15 = 0)
    (howner : getBits new 0 16 = snd.agent.toNat) (hepoch : getBits new 16 16 = (t.epochOf snd.agent.toNat).toNat) (hroom : t.shadows.length < 64) :
    t.leaseCas slot 0 new snd = (t.leased slot new, 0) := by
  simp [State.leaseCas, hh, hbit, hzero, howner, hepoch, hroom, State.leased]

theorem State.leaseCas_of_held (x : Word64) (hh : t.held slot = true) : t.leaseCas slot x new snd = (t, t.word slot 14) := by
  rw [State.leaseCas]
  exact if_pos hh

theorem State.leased_held (hbit : getBits new 63 1 = 1) : (t.leased slot new).held slot = true := by
  have hf : (t.leased slot new).getF (fE_HELD slot) = getBits ((t.setReg (rENT slot 14) new).reg (rENT slot 14)) 63 1 := rfl
  rw [State.held, State.flag, hf, State.reg_setReg_same, hbit]
  rfl

/-- An atomic operation on a `LEASE` word is refused with PD_HAL, or is an attempt at the lease. -/
theorem State.atomWord_lease (ha : t.power.asleep = false) (hs : slot < 8192) (x y : Word64) :
    t.atomWord (rENT slot 14) 2 x y snd =
      if t.halOn then ((t.leaseCas slot x y snd).1, rOK, [(t.leaseCas slot x y snd).2]) else (t, rACCESS, []) := by
  cases hhal : t.halOn <;>
    simp [State.atomWord, State.refusal_rENT ha hs, hhal, inHalter_rENT hs, entryWord_rENT, entrySlot_rENT hs]

theorem exec_leaseAcquire_heard (h : Heard s snd t) (ha : t.power.asleep = false) (hs : slot < 8192) (x : Word64) :
    exec (.leaseAcquire slot x new snd) s = .next ((if t.halOn then (t.leaseCas slot x new snd).1.answer rOK [(t.leaseCas slot x new snd).2]
      else t.answer rACCESS []).replied snd opATOM 1) := by
  change execLeaseAcquire slot x new snd s = _
  rw [execLeaseAcquire, if_pos hs, State.request_heard _ _ _ _ _ _ h.1 h.2, State.accessTo, State.atomWord_lease ha hs]
  cases t.halOn <;> rfl

end

/-! A `PUT` on the `LEASE` word (R267). -/

/-- A `PUT` on the `LEASE` word of a slot, as a command. -/
theorem State.putCommand_lease (h : Heard s snd t) (ha : t.power.asleep = false) (hs : slot < 8192) (v : Word64) :
    s.putCommand (decide (slot < 8192)) (rENT slot 14) v snd =
      .next ((if t.halOn then (t.settled (t.leasePut slot v snd)).1.answer (t.settled (t.leasePut slot v snd)).2 []
        else t.answer rACCESS []).replied snd opWR 1) := by
  rw [State.putCommand, if_pos (decide_eq_true hs), State.request_heard _ _ _ _ _ _ h.1 h.2, State.putTo]
  cases hhal : t.halOn
  · rw [State.writeWord_rENT_off ha hs (by decide) hhal]
    rfl
  · rw [State.writeWord_rENT_on ha hs (by decide) hhal]
    rfl

theorem State.leasePut_release (hh : t.holder slot snd = true) : t.leasePut slot 0 snd = some (t.applyEdit slot) := by simp [State.leasePut, hh]

theorem State.leasePut_discard (hh : t.holder slot snd = true) : t.leasePut slot 0x2000000000000000 snd = some (t.dropShadow slot) := by
  simp [State.leasePut, hh]

theorem State.leasePut_of_not_holder (v : Word64) (hh : t.holder slot snd = false) : t.leasePut slot v snd = none := by simp [State.leasePut, hh]

/-- A `PUT` by one that does not hold the lease, or while PD_HAL is not `ON`, is an error. -/
theorem State.putCommand_lease_refused (h : Heard s snd t) (ha : t.power.asleep = false) (hs : slot < 8192) (v : Word64)
    (hno : t.holder slot snd = false ∨ t.halOn = false) :
    s.putCommand (decide (slot < 8192)) (rENT slot 14) v snd = .next ((t.answer rACCESS []).replied snd opWR 1) := by
  rw [State.putCommand_lease h ha hs]
  rcases hno with hh | hhal
  · rw [State.leasePut_of_not_holder v hh]
    cases t.halOn <;> rfl
  · rw [hhal]
    rfl

/-! A lease is broken (R269). -/

theorem exec_leaseTimeout_of_on (hhal : s.halOn = true) (hh : s.held slot = true) :
    exec (.leaseTimeout slot) s = .next ((s.leaseEvent slot 2 1).dropShadow slot) := by
  change execLeaseTimeout slot s = _
  rw [execLeaseTimeout, if_pos hhal, State.breakLease, if_pos hh]

theorem exec_leaseTimeout_of_off (hhal : s.halOn = false) : exec (.leaseTimeout slot) s = .next s := by
  change execLeaseTimeout slot s = _
  rw [execLeaseTimeout, if_neg (by simp [hhal])]

/-! The edit of a shadow (R267, R268). -/

section
variable {sh : List Word64}

/-- The `STATE` that a shadow asks for. -/
def shadowState (sh : List Word64) : Nat := getBits (sh.getD 0 0) 0 3

/-- An edit changes a fixed field where it may not, or asks for a change of `STATE` that is not permitted. -/
def State.editRefused (t : State) (slot : Nat) (sh : List Word64) : Prop :=
  (∃ w, w < 14 ∧ sh.getD w 0 &&& fixedMask w ≠ t.word slot w &&& fixedMask w) ∧ shadowState sh ≠ 0 ∧ ¬(t.eState slot = 0 ∧ shadowState sh = 1) ∨
    shadowState sh ≠ t.eState slot ∧
      (t.eState slot, shadowState sh) ∉ [(0, 1), (2, 3), (3, 2), (2, 4), (3, 4), (5, 0), (6, 0), (7, 0)]

theorem releaseOk_iff {live want : Nat} (hl : live < 8) (hw : want < 8) :
    releaseOk live want = true ↔ ¬(want ≠ live ∧ (live, want) ∉ [(0, 1), (2, 3), (3, 2), (2, 4), (3, 4), (5, 0), (6, 0), (7, 0)]) := by
  have hall : ∀ l : Fin 8, ∀ n : Fin 8, releaseOk l n = true ↔
      ¬(n.1 ≠ l.1 ∧ (l.1, n.1) ∉ [(0, 1), (2, 3), (3, 2), (2, 4), (3, 4), (5, 0), (6, 0), (7, 0)]) := by decide
  exact hall ⟨live, hl⟩ ⟨want, hw⟩

theorem State.eState_lt (s : State) (slot : Nat) : s.eState slot < 8 := s.getF_lt (fE_STATE slot)

/-- `EPRIO` takes the value of `PRIO`. -/
def State.levelled (s : State) (slot : Nat) : State := s.setF (fE_EPRIO slot) (s.getF (fE_PRIO slot))

/-- An entry whose words have taken the RWS fields of the shadow, the lease gone. -/
def State.edited (t : State) (slot : Nat) (sh : List Word64) : State :=
  let s := (t.mapWords slot 14 fun w x => blend (rwsMask w) x (sh.getD w 0)).dropShadow slot
  let s := if t.eState slot = 0 then s.mendSlot slot else s.mend fun p => match p with | .requestTable n _ => n == slot | _ => false
  if s.getF fAGE_Q = 0 || shadowState sh = 1 then s.levelled slot else s

/-- A fixed field differs and the edit neither frees the entry nor admits it (R267). -/
def State.fixedRefused (t : State) (slot : Nat) (sh : List Word64) : Bool :=
  ((List.range 14).any fun w => (sh.getD w 0 &&& fixedMask w) != (t.word slot w &&& fixedMask w)) &&
    !(shadowState sh == 0 || (t.eState slot == 0 && shadowState sh == 1))

theorem State.fixedRefused_iff : t.fixedRefused slot sh = true ↔
    (∃ w, w < 14 ∧ sh.getD w 0 &&& fixedMask w ≠ t.word slot w &&& fixedMask w) ∧ shadowState sh ≠ 0 ∧
      ¬(t.eState slot = 0 ∧ shadowState sh = 1) := by
  simp [State.fixedRefused, List.any_eq_true, imp_iff_not_or]

theorem State.editRefused_iff :
    t.editRefused slot sh ↔ t.fixedRefused slot sh = true ∨ releaseOk (t.eState slot) (shadowState sh) = false := by
  rw [State.editRefused, State.fixedRefused_iff, ← Bool.not_eq_true,
    releaseOk_iff (t.eState_lt slot) (getBits_lt _ _ _), not_not]

theorem State.applyEdit_eq (hsh : t.shadow slot = some sh) : t.applyEdit slot =
    if t.fixedRefused slot sh then (t.leaseEvent slot 1 0).dropShadow slot
    else if !releaseOk (t.eState slot) (shadowState sh) then (t.leaseEvent slot 1 1).dropShadow slot
    else if shadowState sh = 0 then (t.edited slot sh).freeEntry slot
    else if shadowState sh = 4 && t.eState slot != 4 then ((t.edited slot sh).stopReq slot 5).settle slot (some .plain)
    else t.edited slot sh := by
  rw [State.applyEdit, hsh]
  rfl

/-- A refused edit posts `LEASE_REJECT` and drops the shadow. -/
theorem State.applyEdit_of_refused (hsh : t.shadow slot = some sh) (hr : t.editRefused slot sh) :
    ∃ cause, t.applyEdit slot = (t.leaseEvent slot 1 cause).dropShadow slot := by
  rw [State.applyEdit_eq hsh]
  cases hfix : t.fixedRefused slot sh
  · have hno : releaseOk (t.eState slot) (shadowState sh) = false := (State.editRefused_iff.1 hr).resolve_left (by simp [hfix])
    exact ⟨1, by simp [hno]⟩
  · exact ⟨0, rfl⟩

section
variable (hsh : t.shadow slot = some sh) (hr : ¬t.editRefused slot sh)
include hsh hr

theorem State.applyEdit_of_applied : t.applyEdit slot =
    if shadowState sh = 0 then (t.edited slot sh).freeEntry slot
    else if shadowState sh = 4 && t.eState slot != 4 then ((t.edited slot sh).stopReq slot 5).settle slot (some .plain)
    else t.edited slot sh := by
  rw [State.editRefused_iff, not_or, Bool.not_eq_true, Bool.not_eq_false] at hr
  rw [State.applyEdit_eq hsh, hr.1, hr.2]
  rfl

theorem State.applyEdit_of_freed (hw : shadowState sh = 0) : t.applyEdit slot = (t.edited slot sh).freeEntry slot := by
  rw [State.applyEdit_of_applied hsh hr, if_pos hw]

theorem State.applyEdit_of_stopped (hw : shadowState sh = 4) (hl : t.eState slot ≠ 4) :
    t.applyEdit slot = ((t.edited slot sh).stopReq slot 5).settle slot (some .plain) := by
  rw [State.applyEdit_of_applied hsh hr, if_neg (by omega), if_pos (by simp [hw, hl])]

theorem State.applyEdit_of_edited (hw : shadowState sh ≠ 0) (hstop : shadowState sh = 4 → t.eState slot = 4) :
    t.applyEdit slot = t.edited slot sh := by
  rw [State.applyEdit_of_applied hsh hr, if_neg hw, if_neg]
  simpa using hstop

end

/-! An entry whose words took the edit. -/

theorem State.levelled_word_other (hw : w ≠ 0) : (s.levelled slot).word slot w = s.word slot w :=
  s.reg_setF_other (fE_EPRIO slot) _ (mt rENT_inj.1 hw)

/-- A word with its bits of `PRIO` at those of `EPRIO`. -/
def levelWord (x : Word64) : Word64 := setBits x 10 2 (getBits x 8 2)

theorem State.levelled_word : (s.levelled slot).word slot 0 = levelWord (s.word slot 0) := s.reg_setReg_same _ _

/-- The entry with the RWS fields of the shadow, before `EPRIO` follows. -/
def State.taken (t : State) (slot : Nat) (sh : List Word64) : State :=
  let s := (t.mapWords slot 14 fun w x => blend (rwsMask w) x (sh.getD w 0)).dropShadow slot
  if t.eState slot = 0 then s.mendSlot slot else s.mend fun p => match p with | .requestTable n _ => n == slot | _ => false

theorem State.edited_eq : t.edited slot sh =
    if (t.taken slot sh).getF fAGE_Q = 0 || shadowState sh = 1 then (t.taken slot sh).levelled slot else t.taken slot sh := rfl

theorem State.taken_regs : (t.taken slot sh).regs =
    ((t.mapWords slot 14 fun w x => blend (rwsMask w) x (sh.getD w 0)).dropShadow slot).regs := by
  unfold State.taken
  dsimp only
  split <;> rfl

theorem State.taken_shadows : (t.taken slot sh).shadows = t.shadows.filter fun p => p.1 != slot := by
  have hmap : (t.mapWords slot 14 fun w x => blend (rwsMask w) x (sh.getD w 0)).shadows = t.shadows := by rw [State.mapWords_frame]
  rw [← hmap, State.taken]
  split <;> rfl

theorem State.taken_frame : t.taken slot sh =
    { t with regs := (t.taken slot sh).regs, shadows := (t.taken slot sh).shadows, bad := (t.taken slot sh).bad } := by
  obtain ⟨r, hr⟩ : ∃ r, t.mapWords slot 14 (fun w x => blend (rwsMask w) x (sh.getD w 0)) = { t with regs := r } := ⟨_, State.mapWords_frame⟩
  rw [State.taken, hr]
  split <;> rfl

theorem rwsMask_fifteen : rwsMask 15 = 0 := rfl

theorem State.taken_word (hw : w < 16) (h14 : w ≠ 14) : (t.taken slot sh).word slot w = blend (rwsMask w) (t.word slot w) (sh.getD w 0) := by
  rw [State.word_congr State.taken_regs, State.dropShadow_word h14]
  by_cases hlt : w < 14
  · exact State.mapWords_word hlt
  · obtain rfl : w = 15 := by omega
    rw [State.mapWords_word_out (by decide), rwsMask_fifteen, blend_zero]

theorem State.taken_released : (t.taken slot sh).released slot :=
  (State.dropShadow_released _ slot).congr (State.word_congr State.taken_regs _ _) (by
    rw [State.taken_shadows, State.dropShadow, State.mapWords_frame])

/-- The edit leaves every register outside the entry. -/
theorem State.taken_age : (t.taken slot sh).getF fAGE_Q = t.getF fAGE_Q := by
  have hne (w : Nat) : fAGE_Q.off ≠ rENT slot w := by simp only [fAGE_Q, rENT]; omega
  refine State.getF_congr ?_
  rw [State.reg_congr State.taken_regs, State.dropShadow_reg (hne 14), State.mapWords_reg_other fun w _ => hne w]

/-- `EPRIO` follows `PRIO` as the edit is taken (R276). -/
theorem State.edited_cases : (t.edited slot sh = (t.taken slot sh).levelled slot ∧ (t.getF fAGE_Q = 0 ∨ shadowState sh = 1)) ∨
    (t.edited slot sh = t.taken slot sh ∧ ¬(t.getF fAGE_Q = 0 ∨ shadowState sh = 1)) := by
  rw [State.edited_eq, State.taken_age]
  by_cases hc : t.getF fAGE_Q = 0 ∨ shadowState sh = 1
  · exact .inl ⟨if_pos (by simpa using hc), hc⟩
  · exact .inr ⟨if_neg (by simpa using hc), hc⟩

theorem State.edited_frame : t.edited slot sh =
    { t with regs := (t.edited slot sh).regs, shadows := (t.edited slot sh).shadows, bad := (t.edited slot sh).bad } := by
  rcases State.edited_cases (t := t) (slot := slot) (sh := sh) with ⟨he, -⟩ | ⟨he, -⟩
  · rw [he, State.levelled, State.setF, State.setReg, State.taken_frame]
  · rw [he, State.taken_frame]

theorem State.edited_word_other (h0 : w ≠ 0) : (t.edited slot sh).word slot w = (t.taken slot sh).word slot w := by
  rcases State.edited_cases (t := t) (slot := slot) (sh := sh) with ⟨he, -⟩ | ⟨he, -⟩
  · rw [he, State.levelled_word_other h0]
  · rw [he]

theorem State.edited_word (h0 : w ≠ 0) (hw : w < 16) (h14 : w ≠ 14) :
    (t.edited slot sh).word slot w = blend (rwsMask w) (t.word slot w) (sh.getD w 0) :=
  (State.edited_word_other h0).trans (State.taken_word hw h14)

theorem State.edited_word_zero : (t.edited slot sh).word slot 0 =
    if t.getF fAGE_Q = 0 ∨ shadowState sh = 1 then levelWord (blend (rwsMask 0) (t.word slot 0) (sh.getD 0 0))
    else blend (rwsMask 0) (t.word slot 0) (sh.getD 0 0) := by
  have htaken := State.taken_word (t := t) (slot := slot) (sh := sh) (w := 0) (by decide) (by decide)
  rcases State.edited_cases (t := t) (slot := slot) (sh := sh) with ⟨he, hc⟩ | ⟨he, hc⟩
  · rw [he, if_pos hc, State.levelled_word, htaken]
  · rw [he, if_neg hc, htaken]

theorem State.edited_released : (t.edited slot sh).released slot := by
  refine State.taken_released.congr (State.edited_word_other (by decide)) ?_
  rcases State.edited_cases (t := t) (slot := slot) (sh := sh) with ⟨he, -⟩ | ⟨he, -⟩ <;> rw [he]
  rfl

theorem State.edited_age : (t.edited slot sh).getF fAGE_Q = t.getF fAGE_Q := by
  have hne : fAGE_Q.off ≠ (fE_EPRIO slot).off := by simp only [fAGE_Q, fE_EPRIO, rENT]; omega
  rcases State.edited_cases (t := t) (slot := slot) (sh := sh) with ⟨he, -⟩ | ⟨he, -⟩ <;> rw [he]
  · exact (State.getF_setReg_other _ _ hne).trans State.taken_age
  · exact State.taken_age

end

end Sys2Proof.Machine
end

section
/-! SUPPORT. Entries that become FREE or STOPPING at the release of a lease (R268, R271). -/

namespace Sys2Proof.Machine

variable {s t u : State} {slot w : Nat} {sh : List Word64}

/-! An entry becomes FREE (R271). -/

/-- The words of an entry at reset, with the RWS fields that it holds. -/
def State.wiped (s : State) (slot : Nat) : State :=
  s.mapWords slot 16 fun w x => blend (rwsMask w) (regDefault (rENT slot w)) x

theorem State.levelEntry_eq : s.levelEntry slot = if s.getF fAGE_Q = 0 then s.levelled slot else s := rfl

theorem State.freeEntry_eq : s.freeEntry slot = { (((((s.wiped slot).levelEntry slot).mendSlot slot).setReq slot noReq).freeRets slot) with
      yBlocks := ((s.wiped slot).levelEntry slot).yBlocks.filter (fun b => b.slot != slot)
      shadows := ((s.wiped slot).levelEntry slot).shadows.filter fun p => p.1 != slot }.pruneStops := rfl

theorem State.freeEntry_regs : (s.freeEntry slot).regs = ((s.wiped slot).levelEntry slot).regs := by
  rw [State.freeEntry_eq]
  generalize (s.wiped slot).levelEntry slot = t
  rfl

theorem State.levelEntry_frame : s.levelEntry slot = { s with regs := (s.levelEntry slot).regs } := by
  rw [State.levelEntry_eq]
  split <;> rfl

theorem State.wiped_age : (s.wiped slot).getF fAGE_Q = s.getF fAGE_Q :=
  State.getF_congr (State.mapWords_reg_other fun w _ => by simp only [fAGE_Q, rENT]; omega)

theorem State.freeEntry_word_other (h0 : w ≠ 0) (hw : w < 16) :
    (s.freeEntry slot).word slot w = blend (rwsMask w) (regDefault (rENT slot w)) (s.word slot w) := by
  have hwiped : (s.wiped slot).word slot w = blend (rwsMask w) (regDefault (rENT slot w)) (s.word slot w) := State.mapWords_word hw
  rw [State.word_congr State.freeEntry_regs, State.levelEntry_eq, ← hwiped]
  split
  · exact State.levelled_word_other h0
  · rfl

theorem State.freeEntry_word_zero : (s.freeEntry slot).word slot 0 =
    if s.getF fAGE_Q = 0 then levelWord (blend (rwsMask 0) (regDefault (rENT slot 0)) (s.word slot 0))
    else blend (rwsMask 0) (regDefault (rENT slot 0)) (s.word slot 0) := by
  have hwiped : (s.wiped slot).word slot 0 = blend (rwsMask 0) (regDefault (rENT slot 0)) (s.word slot 0) := State.mapWords_word (by decide)
  rw [State.word_congr State.freeEntry_regs, State.levelEntry_eq, State.wiped_age, ← hwiped]
  split
  · exact State.levelled_word
  · rfl

/-- What becoming FREE leaves of the state behind the entry's own words. -/
theorem State.freeEntry_fields : (s.freeEntry slot).req slot = noReq ∧ (s.freeEntry slot).rets = s.rets.filter (fun r => r.slot != slot) ∧
    (s.freeEntry slot).shadows = s.shadows.filter (fun p => p.1 != slot) ∧ (s.freeEntry slot).mem = s.mem ∧ (s.freeEntry slot).flights = s.flights := by
  obtain ⟨r, hr⟩ : ∃ r, (s.wiped slot).levelEntry slot = { s with regs := r } := ⟨_, by
    rw [State.levelEntry_frame, State.wiped, State.mapWords_frame]⟩
  rw [State.freeEntry_eq, hr]
  exact ⟨Store.read_write_same reqDefault s.reqs slot noReq, rfl, rfl, rfl, rfl⟩

theorem State.freeEntry_released (hs : slot < 8192) : (s.freeEntry slot).released slot := by
  obtain ⟨-, -, hshadows, -, -⟩ := s.freeEntry_fields (slot := slot)
  constructor
  · have hmask : rwsMask 14 = 0 := rfl
    have hdef : regDefault (rENT slot 14) = 0 := (regDefault_entry hs (by decide)).trans (by decide)
    rw [State.freeEntry_word_other (by decide) (by decide), hmask, hdef, blend_zero]
  · rw [State.shadow, hshadows, State.shadow_filter]
    rfl

/-- `EPRIO` lies outside the RWS fields of its word. -/
theorem blend_levelWord (d x : Word64) : blend (rwsMask 0) d (levelWord x) = blend (rwsMask 0) d x :=
  blend_congr d (setBits_and_out (by decide) x _)

/-- The first word of an edited entry, as the RWS fields that it lends count. -/
theorem State.edited_word_zero_rws (d : Word64) :
    blend (rwsMask 0) d ((t.edited slot sh).word slot 0) = blend (rwsMask 0) d (sh.getD 0 0) := by
  rw [State.edited_word_zero]
  split
  · rw [blend_levelWord, blend_blend]
  · rw [blend_blend]

theorem State.edited_freed_word (h0 : w ≠ 0) (hw : w < 16) (h14 : w ≠ 14) :
    ((t.edited slot sh).freeEntry slot).word slot w = blend (rwsMask w) (State.reset.word slot w) (sh.getD w 0) := by
  rw [State.freeEntry_word_other h0 hw, State.edited_word h0 hw h14, blend_blend]
  rfl

theorem State.edited_freed_word_zero : ((t.edited slot sh).freeEntry slot).word slot 0 =
    if t.getF fAGE_Q = 0 then levelWord (blend (rwsMask 0) (State.reset.word slot 0) (sh.getD 0 0))
    else blend (rwsMask 0) (State.reset.word slot 0) (sh.getD 0 0) := by
  rw [State.freeEntry_word_zero, State.edited_age, State.edited_word_zero_rws]
  rfl

/-! An entry becomes STOPPING (R268). -/

theorem State.stopReq_regs (reason : Nat) :
    (s.stopReq slot reason).regs = ((s.setF (fE_STATE slot) 4).setF (fE_REASON slot) reason).regs := rfl

theorem State.stopReq_frame (reason : Nat) :
    s.stopReq slot reason = { s with regs := (s.stopReq slot reason).regs, rets := s.rets.filter fun r => r.slot != slot } := rfl

theorem State.stopReq_word_other (reason : Nat) (h0 : w ≠ 0) : (s.stopReq slot reason).word slot w = s.word slot w := by
  have hne : rENT slot w ≠ rENT slot 0 := mt rENT_inj.1 h0
  rw [State.word_congr (State.stopReq_regs reason), State.word, State.reg_setF_other _ (fE_REASON slot) reason hne,
    State.reg_setF_other _ (fE_STATE slot) 4 hne]
  rfl

theorem State.stopReq_getF (reason : Nat) (f : Fld) :
    (s.stopReq slot reason).getF f = ((s.setF (fE_STATE slot) 4).setF (fE_REASON slot) reason).getF f :=
  State.getF_congr (State.reg_congr (State.stopReq_regs reason) _)

theorem State.stopReq_state (reason : Nat) : (s.stopReq slot reason).eState slot = 4 := by
  rw [State.eState, State.stopReq_getF,
    State.getF_setF_other _ (fE_REASON slot) reason (show 0 + 3 ≤ 64 by decide) (.inr (.inl (show 0 + 3 ≤ 32 by decide))),
    State.getF_setF_same _ (fE_STATE slot) 4 (show 0 + 3 ≤ 64 by decide)]
  rfl

theorem State.stopReq_reason {reason : Nat} (hr : reason < 256) : (s.stopReq slot reason).getF (fE_REASON slot) = reason := by
  rw [State.stopReq_getF, State.getF_setF_same _ (fE_REASON slot) reason (show 32 + 8 ≤ 64 by decide)]
  exact Nat.mod_eq_of_lt hr

theorem State.stopReq_infl (reason : Nat) : (s.stopReq slot reason).getF (fE_INFL slot) = s.getF (fE_INFL slot) := by
  rw [State.stopReq_getF,
    State.getF_setF_other _ (fE_REASON slot) reason (g := fE_INFL slot) (show 40 + 8 ≤ 64 by decide) (.inr (.inr (show 32 + 8 ≤ 40 by decide))),
    State.getF_setF_other _ (fE_STATE slot) 4 (g := fE_INFL slot) (show 40 + 8 ≤ 64 by decide) (.inr (.inr (show 0 + 3 ≤ 40 by decide)))]

theorem State.stopReq_rets (reason : Nat) : ∀ r ∈ (s.stopReq slot reason).rets, r.slot ≠ slot := by
  intro r hr
  rw [State.stopReq_frame, List.mem_filter] at hr
  simpa using hr.2

/-- The edit leaves `INFL`, an RO field. -/
theorem State.edited_infl : (t.edited slot sh).getF (fE_INFL slot) = t.getF (fE_INFL slot) := by
  have hblend : getBits (blend (rwsMask 0) (t.word slot 0) (sh.getD 0 0)) 40 8 = getBits (t.word slot 0) 40 8 :=
    getBits_blend_out (by decide) _ _ (by decide)
  change getBits ((t.edited slot sh).word slot 0) 40 8 = getBits (t.word slot 0) 40 8
  rw [State.edited_word_zero, ← hblend]
  split
  · exact getBits_setBits_other _ _ _ _ _ _ (by decide) (.inr (by decide))
  · rfl

theorem State.req_congr (h : u.reqs = t.reqs) (n : Nat) : u.req n = t.req n := by
  rw [State.req, State.req, h]

/-- The entry that the edit stops, once it has settled. -/
def State.stopEdited (t : State) (slot : Nat) (sh : List Word64) : State := ((t.edited slot sh).stopReq slot 5).settle slot (some .plain)

theorem State.stopEdited_word (h0 : w ≠ 0) : (t.stopEdited slot sh).word slot w = (t.edited slot sh).word slot w :=
  (State.settle_reg_other _ (mt rENT_inj.1 h0)).trans (State.stopReq_word_other 5 h0)

theorem State.stopEdited_flights : (t.stopEdited slot sh).flights = t.flights := by
  rw [State.stopEdited, State.settle_flights, State.stopReq_frame, State.edited_frame]

theorem State.stopEdited_shadows : (t.stopEdited slot sh).shadows = (t.edited slot sh).shadows := State.settle_shadows _

theorem State.stopEdited_running (h : t.getF (fE_INFL slot) ≠ 0) :
    (t.stopEdited slot sh).eState slot = 4 ∧ (t.stopEdited slot sh).getF (fE_REASON slot) = 5 := by
  rw [State.stopEdited, State.settle_of_running (by rwa [State.stopReq_infl, State.edited_infl])]
  exact ⟨State.stopReq_state 5, State.stopReq_reason (by decide)⟩

theorem State.stopEdited_idle (h : t.getF (fE_INFL slot) = 0) (hend : (t.req slot).ending = none) :
    (t.stopEdited slot sh).eState slot = 5 ∧ (t.stopEdited slot sh).getF (fE_REASON slot) = 5 := by
  have hreq : ((t.edited slot sh).stopReq slot 5).req slot = t.req slot := State.req_congr (by rw [State.stopReq_frame, State.edited_frame]) slot
  rw [State.stopEdited, State.settle_of_stopping (by rwa [State.stopReq_infl, State.edited_infl]) (by rwa [hreq]) (State.stopReq_state 5),
    State.stopReq_reason (by decide)]
  exact ⟨State.getF_enter_state (by decide) 5 _, State.getF_enter_reason (by decide) 5 _⟩

/-! Every release ends the lease. -/

theorem State.applyEdit_released (t : State) (hs : slot < 8192) : (t.applyEdit slot).released slot := by
  cases hsh : t.shadow slot with
  | none =>
    rw [State.applyEdit, hsh]
    exact State.dropShadow_released _ slot
  | some sh =>
    by_cases hr : t.editRefused slot sh
    · obtain ⟨cause, he⟩ := State.applyEdit_of_refused hsh hr
      rw [he]
      exact State.dropShadow_released _ slot
    · rw [State.applyEdit_of_applied hsh hr]
      split
      · exact State.freeEntry_released hs
      · split
        · exact State.edited_released.congr (State.stopEdited_word (by decide)) State.stopEdited_shadows
        · exact State.edited_released

/-- A refused edit changes no word of the entry but `LEASE`, and posts `LEASE_REJECT`. -/
theorem State.leaseRejected (t : State) (slot cause : Nat) :
    (∀ w, w ≠ 14 → ((t.leaseEvent slot 1 cause).dropShadow slot).word slot w = t.word slot w) ∧
    ((t.leaseEvent slot 1 cause).dropShadow slot).flag (fERR_CLASS 9) = true := by
  refine ⟨fun w hw => (State.dropShadow_word hw).trans (State.leaseEvent_word 1 cause), ?_⟩
  have hne : (fERR_CLASS 9).off ≠ rENT slot 14 := by simp only [fERR_CLASS, rENT]; omega
  have hflag : (t.leaseEvent slot 1 cause).flag (fERR_CLASS 9) = true := t.post_errClass rfl (by decide)
  rw [← hflag, State.flag, State.flag, State.getF_congr (State.dropShadow_reg hne)]

end Sys2Proof.Machine
end

section
/-! PROOF. Leases are taken, released and broken (R266 to R269, R271). -/

namespace Sys2Proof.Machine

/-- What the release of a lease does with its shadow: refused, applied, applied to a freed entry, applied to one that stops. -/
theorem State.applyEdit_outcomes {t : State} {slot : Nat} {sh : List Word64} (hsh : t.shadow slot = some sh) :
    let u := t.applyEdit slot
    let want := shadowState sh
    let edited (w : Nat) := blend (rwsMask w) (t.word slot w) (sh.getD w 0)
    let freed (w : Nat) := blend (rwsMask w) (State.reset.word slot w) (sh.getD w 0)
    (t.editRefused slot sh → (∀ w, w < 16 → w ≠ 14 → u.word slot w = t.word slot w) ∧ u.flag (fERR_CLASS 9) = true ∧ u.reqs = t.reqs ∧
      u.rets = t.rets ∧ u.stops = t.stops ∧ u.flights = t.flights) ∧
    (¬t.editRefused slot sh → want ≠ 0 → (want = 4 → t.eState slot = 4) → (∀ w, 0 < w → w < 16 → w ≠ 14 → u.word slot w = edited w) ∧
      u.word slot 0 = (if t.getF fAGE_Q = 0 ∨ want = 1 then levelWord (edited 0) else edited 0) ∧
      u = { t with regs := u.regs, shadows := u.shadows, bad := u.bad }) ∧
    (¬t.editRefused slot sh → want = 0 → (∀ w, 0 < w → w < 16 → w ≠ 14 → u.word slot w = freed w) ∧
      u.word slot 0 = (if t.getF fAGE_Q = 0 then levelWord (freed 0) else freed 0) ∧ u.req slot = noReq ∧
      (∀ r ∈ u.rets, r.slot ≠ slot) ∧ u.mem = t.mem ∧ u.flights = t.flights) ∧
    (¬t.editRefused slot sh → want = 4 → t.eState slot ≠ 4 → (∀ r ∈ u.rets, r.slot ≠ slot) ∧ u.flights = t.flights ∧
      (∀ w, 0 < w → w < 14 → u.word slot w = edited w) ∧
      (t.getF (fE_INFL slot) ≠ 0 → u.eState slot = 4 ∧ u.getF (fE_REASON slot) = 5) ∧
      (t.getF (fE_INFL slot) = 0 → (t.req slot).ending = none → u.eState slot = 5 ∧ u.getF (fE_REASON slot) = 5)) := by
  refine ⟨fun hr => ?refused, fun hr hw hstop => ?applied, fun hr hw => ?freed, fun hr hw hl => ?stopped⟩
  case refused =>
    obtain ⟨cause, he⟩ := State.applyEdit_of_refused hsh hr
    obtain ⟨hwords, hflag⟩ := t.leaseRejected slot cause
    rw [he]
    exact ⟨fun w _ => hwords w, hflag, State.post_reqs _ _, State.post_rets _ _, State.post_stops _ _, State.post_flights _ _⟩
  case applied =>
    rw [State.applyEdit_of_edited hsh hr hw hstop]
    exact ⟨fun w h0 h16 h14 => State.edited_word h0.ne' h16 h14, State.edited_word_zero, State.edited_frame⟩
  case freed =>
    obtain ⟨hreq, hrets, -, hmem, hflights⟩ := (t.edited slot sh).freeEntry_fields (slot := slot)
    rw [State.applyEdit_of_freed hsh hr hw]
    refine ⟨fun w h0 h16 h14 => State.edited_freed_word h0.ne' h16 h14, State.edited_freed_word_zero, hreq, fun r hr => ?_, ?_, ?_⟩
    · rw [hrets, List.mem_filter] at hr
      simpa using hr.2
    · rw [hmem, State.edited_frame]
    · rw [hflights, State.edited_frame]
  case stopped =>
    rw [State.applyEdit_of_stopped hsh hr hw hl]
    exact ⟨State.settle_rets _ (State.stopReq_rets 5), State.stopEdited_flights,
      fun w h0 h14 => (State.stopEdited_word h0.ne').trans (State.edited_word h0.ne' (by omega) (by omega)), State.stopEdited_running, State.stopEdited_idle⟩

/-- Settles O19: a lease is taken by one `CAS`, and each way it ends applies its edit, refuses it or drops it. -/
theorem leasesAreTakenReleasedAndBroken : Obligations.LeasesAreTakenReleasedAndBroken := by
  unfold Obligations.LeasesAreTakenReleasedAndBroken
  intro s t slot new snd h ha hs
  have hrelease : exec (.leaseRelease slot snd) s = _ := State.putCommand_lease h ha hs 0
  have hdiscard : exec (.leaseDiscard slot snd) s = _ := State.putCommand_lease h ha hs 0x2000000000000000
  refine ⟨fun hhal hh hbit hzero howner hepoch hroom => ?taken, fun hhal hh => ?busy, fun hhal hh => ⟨?released, ?_⟩,
    fun sh hsh => State.applyEdit_outcomes hsh, fun hhal hh => ?dropped, fun hno => ⟨?_, ?_⟩, fun hhal => ⟨?off, exec_leaseTimeout_of_off⟩,
    fun hhal hh => ?broken⟩
  case taken =>
    refine ⟨((t.leased slot new).answer rOK [0]).replied snd opATOM 1, ?_, rfl, State.reg_setReg_same _ _ _, State.leased_held hbit, rfl, rfl⟩
    rw [exec_leaseAcquire_heard h ha hs, State.leaseCas_of_free hh hbit hzero howner hepoch hroom, if_pos hhal]
  case busy => rw [exec_leaseAcquire_heard h ha hs, State.leaseCas_of_held 0 hh, if_pos hhal]
  case released =>
    rw [hrelease, State.leasePut_release hh, if_pos hhal]
    rfl
  · exact ⟨(t.applyEdit_released hs).held, (t.applyEdit_released hs).2⟩
  case dropped =>
    have hrel := t.dropShadow_released slot
    refine ⟨((t.dropShadow slot).answer rOK []).replied snd opWR 1, ?_, rfl, hrel.held, hrel.2, fun w hw => State.dropShadow_word hw, rfl⟩
    rw [hdiscard, State.leasePut_discard hh, if_pos hhal]
    rfl
  · exact State.putCommand_lease_refused h ha hs 0 hno
  · exact State.putCommand_lease_refused h ha hs 0x2000000000000000 hno
  case off =>
    rw [exec_leaseAcquire_heard h ha hs, if_neg (by simp [hhal])]
  case broken =>
    have hrel := (s.leaseEvent slot 2 1).dropShadow_released slot
    exact ⟨_, exec_leaseTimeout_of_on hhal hh, hrel.held, hrel.2, fun w hw => (State.dropShadow_word hw).trans (State.leaseEvent_word 2 1),
      State.post_fuses _ _, State.post_flights _ _⟩

end Sys2Proof.Machine
end

section
/-! SUPPORT. Admission (R270): what its reads, its writes and the count of the prompt leave of the state. -/

namespace Sys2Proof.Machine

/-- The flights, Paddock, the fuses, and every field apart from the named ones and from the registers of events have kept. -/
structure State.Beside (own : Fld → Prop) (s t : State) : Prop where
  flights : t.flights = s.flights
  pad : t.pad = s.pad
  fuses : t.fuses = s.fuses
  getF : ∀ g : Fld, OffEvents g.off → g.lsb + g.width ≤ 64 → (∀ f, own f → f.apart g) → t.getF g = s.getF g

/-- No field. -/
def NoField (_ : Fld) : Prop := False

theorem noField_apart (g : Fld) : ∀ f, NoField f → f.apart g := fun _ h => False.elim h

/-- A field of an entry, or of a register behind the entries. -/
def EntryField (f : Fld) : Prop := 0x100000 ≤ f.off

theorem entryField_rENT (n w l k : Nat) : EntryField ⟨rENT n w, l, k⟩ := by
  show 0x100000 ≤ 0x100000 + 0x80 * n + 8 * w
  omega

/-- A register below the entries holds no field of them. -/
theorem EntryField.apart {g : Fld} (hg : g.off < 0x100000) : ∀ f, EntryField f → f.apart g := fun _ hf => .inl (Nat.lt_of_lt_of_le hg hf).ne'

/-- The fields of an entry that a count of tokens changes (R277, R278). -/
def Counted (n : Nat) (f : Fld) : Prop := f = fE_HCOUNT n ∨ f = fE_NSPILL n ∨ f = fE_SPILLED n

theorem Counted.entryField {n : Nat} : ∀ f, Counted n f → EntryField f := by
  rintro f (rfl | rfl | rfl) <;> exact entryField_rENT ..

namespace State.Beside

variable {own own' : Fld → Prop} {s t u : State} {n : Nat}

theorem refl (s : State) : Beside own s s := ⟨rfl, rfl, rfl, fun _ _ _ _ => rfl⟩

theorem trans (h : Beside own s t) (h' : Beside own t u) : Beside own s u :=
  ⟨h'.flights.trans h.flights, h'.pad.trans h.pad, h'.fuses.trans h.fuses, fun g ho hw hn => (h'.getF g ho hw hn).trans (h.getF g ho hw hn)⟩

theorem mono (h : Beside own s t) (ho : ∀ f, own f → own' f) : Beside own' s t :=
  ⟨h.flights, h.pad, h.fuses, fun g hg hw hn => h.getF g hg hw fun f hf => hn f (ho f hf)⟩

theorem flag (h : Beside own s t) {g : Fld} (ho : OffEvents g.off) (hw : g.lsb + g.width ≤ 64) (hn : ∀ f, own f → f.apart g) : t.flag g = s.flag g := by
  rw [State.flag, State.flag, h.getF g ho hw hn]

/-- A register that holds no named field keeps its word. -/
theorem reg (h : Beside own s t) {o : Nat} (ho : OffEvents o) (hn : ∀ f, own f → f.off ≠ o) : t.reg o = s.reg o := by
  have hword : (t.reg o).toNat / 2 ^ 0 % 2 ^ 64 = (s.reg o).toNat / 2 ^ 0 % 2 ^ 64 := h.getF ⟨o, 0, 64⟩ ho (show 0 + 64 ≤ 64 by decide) fun f hf => .inl (hn f hf)
  rw [Nat.pow_zero, Nat.div_one, Nat.div_one, Nat.mod_eq_of_lt (t.reg o).isLt, Nat.mod_eq_of_lt (s.reg o).isLt] at hword
  exact BitVec.eq_of_toNat_eq hword

/-- A state that takes the flights, Paddock, the fuses and the registers of one that kept them. -/
theorem congr (h : Beside own s t) (hf : u.flights = t.flights) (hp : u.pad = t.pad) (hfuse : u.fuses = t.fuses) (hr : u.regs = t.regs) :
    Beside own s u :=
  h.trans ⟨hf, hp, hfuse, fun g _ _ _ => State.getF_congr (State.reg_congr hr g.off)⟩

theorem ite {c : Prop} {_ : Decidable c} (ht : Beside own s t) (hu : Beside own s u) : Beside own s (if c then t else u) := by
  split <;> assumption

theorem ite_fst {β : Type} {p q : State × β} {c : Prop} {_ : Decidable c} (hp : Beside own s p.1) (hq : Beside own s q.1) :
    Beside own s (if c then p else q).1 := by
  split <;> assumption

theorem of_fst {β : Type} {p : State × β} {b : β} (e : p = (t, b)) (h : Beside own s p.1) : Beside own s t := by
  rw [e] at h
  exact h

theorem foldl {α : Type} {f : State → α → State} {l : List α} (h : Beside own s t) (hf : ∀ {u x}, Beside own s u → Beside own s (f u x)) :
    Beside own s (l.foldl f t) := by
  induction l generalizing t with
  | nil => exact h
  | cons x l ih => exact ih (hf h)

theorem foldl_fst {α β : Type} {f : State × β → α → State × β} {l : List α} {a : State × β} (h : Beside own s a.1)
    (hf : ∀ {b x}, Beside own s b.1 → Beside own s (f b x).1) : Beside own s (l.foldl f a).1 := by
  induction l generalizing a with
  | nil => exact h
  | cons x l ih => exact ih (hf h)

/-! Reads and writes of host memory, and fields that may change. -/

section
variable (h : Beside own s t)
include h

theorem readHost {req sev a m : Nat} {who : Who} {row : Nat} : Beside own s (t.readHost req sev a m who row).1 :=
  h.trans ⟨t.readHost_flights .., t.readHost_pad .., t.readHost_fuses .., fun _ ho _ _ => State.getF_congr (t.readHost_reg ho ..)⟩

theorem writeHost {a : Nat} {bs : List Byte} {why : Purpose2} : Beside own s (t.writeHost a bs why) :=
  h.congr (t.writeHost_flights ..) (t.writeHost_pad ..) (t.writeHost_fuses ..) (t.writeHost_regs ..)

theorem writeNote {why : Option Purpose2} : Beside own s (t.writeNote n why) := by
  rw [State.writeNote_frame]
  exact h.congr rfl rfl rfl rfl

theorem setF {f : Fld} {v : Nat} (hf : own f) : Beside own s (t.setF f v) :=
  h.trans ⟨rfl, rfl, rfl, fun _ _ hw hn => t.getF_setF_other f v hw (hn f hf)⟩

theorem setReq {m : Nat} {r : ReqX} : Beside own s (t.setReq m r) := h.congr rfl rfl rfl rfl

/-! The checks. -/

theorem readParam {a : Nat} {who : Who} : Beside own s (t.readParam a who).1 := by
  unfold State.readParam
  split
  next u b bad e =>
    have hu : Beside own s u := .of_fst e h.readHost
    dsimp only
    split
    · exact hu
    · dsimp only
      exact hu.readHost

theorem admitStop : Beside own s (t.admitStop n).1 := .ite_fst h (.ite_fst h.readHost (h.readHost.congr rfl rfl rfl rfl))

theorem admitRing : Beside own s (t.admitRing n).1 := .ite_fst h.readHost h.readHost.writeHost.writeHost

theorem readPrompt : Beside own s (t.readPrompt n).1 := h.foldl_fst fun h1 => h1.readHost

theorem spillTable {who : Who} : Beside own s (t.spillTable n who).1 := h.foldl fun h1 => h1.readHost

end

/-! The count of a prompt (R277, R278) changes three fields of the entry. -/

section
variable (hc : ∀ f, Counted n f → own f) (h : Beside own s t)
include hc h

theorem setHcount {v : Nat} : Beside own s (t.setF (fE_HCOUNT n) v) := h.setF (hc _ (.inl rfl))

theorem setNspill {v : Nat} : Beside own s (t.setF (fE_NSPILL n) v) := h.setF (hc _ (.inr (.inl rfl)))

theorem setSpilled {b : Bool} : Beside own s (t.setFlag (fE_SPILLED n) b) := h.setF (hc _ (.inr (.inr rfl)))

theorem spill {why : Purpose2} {who : Who} : Beside own s (t.spill n why who).1 := by
  refine .ite_fst ?_ ?_
  · exact .ite_fst h h.spillTable
  · exact (setHcount hc (setSpilled hc (setNspill hc ((ite_fst h h.spillTable).foldl fun h1 => h1.writeHost)))).setReq

theorem addHist {tok : Nat} {why : Purpose2} {who : Who} : Beside own s (t.addHist n tok why who).1 :=
  .ite_fst (.ite_fst (h.spill hc) h) (setHcount hc (ite_fst (h.spill hc) h).setReq)

theorem countPrompt {toks : List Nat} : Beside own s (t.countPrompt n toks).1 :=
  h.foldl_fst fun h1 => .ite_fst (addHist hc h1) h1

theorem uncount : Beside own s (u.uncount t n) :=
  setSpilled hc (setNspill hc (setHcount hc (h.congr rfl rfl rfl rfl : Beside own s { t with reqs := u.reqs })))

theorem admitHist {hp : Bool} : Beside own s (t.admitHist n hp).1 := by
  unfold State.admitHist
  dsimp only
  exact .ite_fst h.readHost (.ite_fst h.readHost.readPrompt (.ite_fst h.readHost.readPrompt
    (.ite_fst h.readHost.readPrompt (uncount hc (countPrompt hc h.readHost.readPrompt)))))

end

/-- The checks of a history that pass have only read. -/
theorem admitHist_passed {hp : Bool} (h : Beside own s t) (hok : (t.admitHist n hp).2.1 = true) : Beside own s (t.admitHist n hp).1 := by
  revert hok
  unfold State.admitHist
  dsimp only
  split
  · exact fun hok => absurd hok Bool.false_ne_true
  · split
    · exact fun hok => absurd hok Bool.false_ne_true
    · split
      · exact fun _ => h.readHost.readPrompt
      · split
        · exact fun _ => h.readHost.readPrompt
        · exact fun hok => absurd hok Bool.false_ne_true

end State.Beside
end Sys2Proof.Machine
end

section
/-! SUPPORT. Admission (R270): the outcome of each check, and the entry that passes them. -/

namespace Sys2Proof.Machine

variable {s t : State} {n : Nat} {b : ParamBlock}

/-! The entry that is taken next. -/

theorem exec_admission_of_next (hn : s.nextAdmit = some n) (hhal : s.halOn = true) : exec .admission s = .next (s.admitReq n) := by
  change execAdmission s = _
  rw [execAdmission, hn]
  exact if_pos hhal

/-! The checks in order. -/

/-- The entry that passed its checks: the prompt is counted where the history holds it (R270). -/
def State.admitCounted (s : State) (n : Nat) (b : ParamBlock) (toks : List Nat) : State :=
  if b.histPrompt then (s.countPrompt n toks).1 else s

/-- `HPROMPT`, `LAST_GC`, `STATE` and `REASON` of an entry that becomes `ACTIVE`. -/
def State.admitFields (s : State) (n : Nat) (b : ParamBlock) : State :=
  (((s.setFlag (fE_HPROMPT n) b.histPrompt).setF (fE_LASTGC n) (s.gc % 2 ^ 32)).setF (fE_STATE n) 2).setF (fE_REASON n) 0

/-- The blocks of an admitted request that wait for Yarrow. -/
def State.admitBlocks (s : State) (n : Nat) : State :=
  if s.flag (fE_YEN n) then s.queueBlocks n (s.getF (fE_PLEN n))
  else if s.word n 11 == 0 then s
  else { s with yBlocks := s.yBlocks ++ [{ slot := n, key := s.getF (fE_KEY n), handle := true, block := 0, first := 0
                                           yblk := s.getF (fE_YBLK n), hash := (s.word n 11).toNat, skip := false }] }

theorem State.admitReq_of_fields (hf : s.fieldsAdmit n = false) : s.admitReq n = s.admitFail n 0x10 := by
  rw [State.admitReq]
  exact if_pos (by simp [hf])

section
variable (hf : s.fieldsAdmit n = true)
include hf

theorem State.admitReq_of_no_param (hp : (s.readParam (s.getF (fE_PB n))).2 = none) :
    s.admitReq n = (s.readParam (s.getF (fE_PB n))).1.admitFail n 0x11 := by
  rw [State.admitReq, if_neg (by simp [hf])]
  generalize s.readParam (s.getF (fE_PB n)) = p at hp ⊢
  obtain ⟨t, pb⟩ := p
  obtain rfl : pb = none := hp
  rfl

section
variable (hp : (s.readParam (s.getF (fE_PB n))).2 = some b)
include hp

theorem State.admitReq_of_param {t : State} (ht : (s.readParam (s.getF (fE_PB n))).1 = t) : s.admitReq n =
    if !paramOk b (t.flag (fE_CLASS n)) t.maskLoaded then t.admitFail n 0x11
    else if !(t.admitStop n).2 then (t.admitStop n).1.admitFail n 0x12
    else if !((t.admitStop n).1.admitRing n).2 then ((t.admitStop n).1.admitRing n).1.admitFail n 0x13
    else
      let h := ((t.admitStop n).1.admitRing n).1.admitHist n b.histPrompt
      if !h.2.1 then h.1.admitFail n 0x14
      else if h.1.flag (fE_YEN n) && !h.1.keySet (h.1.getF (fE_TENANT n)) then h.1.admitFail n 0x15
      else (((h.1.admitCounted n b h.2.2).admitFields n b).admitBlocks n) := by
  rw [State.admitReq, if_neg (by simp [hf])]
  generalize s.readParam (s.getF (fE_PB n)) = p at hp ht ⊢
  obtain ⟨t', pb⟩ := p
  obtain rfl : pb = some b := hp
  obtain rfl : t' = t := ht
  rfl

end
end

/-! An entry whose check failed. -/

theorem State.admitFail_regs (reason : Nat) : (s.admitFail n reason).regs = (s.enter n 7 reason none).regs := by
  rw [State.admitFail, State.writeNote_frame, State.enter_regs]

theorem State.admitFail_frame (reason : Nat) : s.admitFail n reason =
    { s with regs := (s.admitFail n reason).regs, mem := (s.admitFail n reason).mem
             link := (s.admitFail n reason).link, out := (s.admitFail n reason).out } := by
  rw [State.admitFail, State.writeNote_frame]
  rfl

theorem State.admitFail_fault {reason : Nat} (hr : reason < 256) :
    (s.admitFail n reason).eState n = 7 ∧ (s.admitFail n reason).getF (fE_REASON n) = reason := by
  have hregs (f : Fld) := State.getF_congr (f := f) (State.reg_congr (State.admitFail_regs (s := s) (n := n) reason) _)
  rw [State.eState, hregs, hregs]
  exact ⟨State.getF_enter_state (by decide) reason none, State.getF_enter_reason hr 7 none⟩

theorem State.admitFail_reg_other {o : Nat} (reason : Nat) (ho : o ≠ rENT n 0) : (s.admitFail n reason).reg o = s.reg o :=
  (State.reg_congr (State.admitFail_regs reason) o).trans (State.enter_reg_other 7 reason none ho)

/-- The outcome of a failed check. -/
theorem State.Beside.admitFail {own : Fld → Prop} {reason : Nat} (h : Beside own s t) (hr : reason < 256) :
    (t.admitFail n reason).eState n = 7 ∧ (t.admitFail n reason).getF (fE_REASON n) = reason ∧
      (t.admitFail n reason).flights = s.flights ∧ (t.admitFail n reason).fuses = s.fuses := by
  obtain ⟨hstate, hreason⟩ := State.admitFail_fault (s := t) (n := n) hr
  refine ⟨hstate, hreason, ?_, ?_⟩ <;> rw [State.admitFail_frame]
  · exact h.flights
  · exact h.fuses

/-! An entry that becomes ACTIVE. -/

/-- The fields of an entry that becomes `ACTIVE`, in the order of their writes. -/
def admittedFields (n gc : Nat) (hprompt : Bool) : List (Fld × Nat) :=
  [(fE_HPROMPT n, if hprompt then 1 else 0), (fE_LASTGC n, gc % 2 ^ 32), (fE_STATE n, 2), (fE_REASON n, 0)]

theorem State.admitFields_eq : s.admitFields n b = s.setFields (admittedFields n s.gc b.histPrompt) := rfl

theorem admittedFields_apart (n gc : Nat) (hprompt : Bool) : (admittedFields n gc hprompt).Pairwise fun x y => y.1.apart x.1 := by
  simp [admittedFields, Fld.apart, fE_HPROMPT, fE_LASTGC, fE_STATE, fE_REASON, rENT]

theorem State.getF_admitFields {f : Fld} {v : Nat} (hf : f.lsb + f.width ≤ 64) (hv : v < 2 ^ f.width)
    (hm : (f, v) ∈ admittedFields n s.gc b.histPrompt) : (s.admitFields n b).getF f = v := by
  rw [State.admitFields_eq, s.getF_setFields (admittedFields_apart ..) hf hm, Nat.mod_eq_of_lt hv]

theorem State.admitBlocks_eq (s : State) (n : Nat) : ∃ l, s.admitBlocks n = { s with yBlocks := l } := by
  unfold State.admitBlocks
  split
  · unfold State.queueBlocks
    split
    · exact ⟨s.yBlocks, rfl⟩
    · exact ⟨_, rfl⟩
  · split
    · exact ⟨s.yBlocks, rfl⟩
    · exact ⟨_, rfl⟩

theorem State.Beside.admitBlocks {own : Fld → Prop} (h : Beside own s t) : Beside own s (t.admitBlocks n) := by
  obtain ⟨l, hl⟩ := t.admitBlocks_eq n
  rw [hl]
  exact h.congr rfl rfl rfl rfl

theorem State.Beside.admitFields (h : Beside EntryField s t) : Beside EntryField s (t.admitFields n b) := by
  have hprompt : Beside EntryField s (t.setFlag (fE_HPROMPT n) b.histPrompt) := h.setF (entryField_rENT ..)
  exact ((hprompt.setF (f := fE_LASTGC n) (entryField_rENT ..)).setF (f := fE_STATE n) (entryField_rENT ..)).setF (f := fE_REASON n)
    (entryField_rENT ..)

theorem State.getF_admitBlocks (s : State) (n : Nat) (f : Fld) : (s.admitBlocks n).getF f = s.getF f := by
  obtain ⟨l, hl⟩ := s.admitBlocks_eq n
  rw [hl]
  rfl

theorem State.flag_admitFields : (s.admitFields n b).flag (fE_HPROMPT n) = b.histPrompt := by
  have hm : (fE_HPROMPT n, if b.histPrompt then 1 else 0) ∈ admittedFields n s.gc b.histPrompt := List.mem_cons_self
  rw [State.flag, State.admitFields_eq, s.getF_setFields (admittedFields_apart ..) (show 7 + 1 ≤ 64 by decide) hm]
  cases b.histPrompt <;> rfl

theorem State.getF_admitFields_lastGc : (s.admitFields n b).getF (fE_LASTGC n) = s.gc % 2 ^ 32 :=
  State.getF_admitFields (show 0 + 32 ≤ 64 by decide) (show s.gc % 2 ^ 32 < 2 ^ 32 from Nat.mod_lt _ (by decide)) (by simp [admittedFields])

/-- The outcome of an entry that passed its checks. -/
theorem State.Beside.admitted (h : Beside EntryField s t) :
    let u := (t.admitFields n b).admitBlocks n
    u.eState n = 2 ∧ u.getF (fE_REASON n) = 0 ∧ u.flag (fE_HPROMPT n) = b.histPrompt ∧ u.getF (fE_LASTGC n) = s.gc % 2 ^ 32 ∧
      u.flights = s.flights ∧ u.fuses = s.fuses := by
  have hgc : t.gc = s.gc := h.getF fGC_NOW (.inl (by decide)) (by decide) (EntryField.apart (by decide : fGC_NOW.off < 0x100000))
  have hkept : Beside EntryField s ((t.admitFields n b).admitBlocks n) := h.admitFields.admitBlocks
  have hstate : (t.admitFields n b).getF (fE_STATE n) = 2 :=
    State.getF_admitFields (show 0 + 3 ≤ 64 by decide) (show 2 < 2 ^ 3 by decide) (by simp [admittedFields])
  have hreason : (t.admitFields n b).getF (fE_REASON n) = 0 :=
    State.getF_admitFields (show 32 + 8 ≤ 64 by decide) (show 0 < 2 ^ 8 by decide) (by simp [admittedFields])
  refine ⟨(State.getF_admitBlocks ..).trans hstate, (State.getF_admitBlocks ..).trans hreason, ?_, ?_, hkept.flights, hkept.fuses⟩
  · rw [State.flag, State.getF_admitBlocks]
    exact State.flag_admitFields
  · rw [State.getF_admitBlocks, State.getF_admitFields_lastGc, hgc]

theorem State.Beside.admitCounted {toks : List Nat} (h : Beside EntryField s t) : Beside EntryField s (t.admitCounted n b toks) :=
  .ite (h.countPrompt Counted.entryField) h

theorem State.keySet_congr (hr : ∀ o, 0x8000000 ≤ o → t.reg o = s.reg o) (m : Nat) : t.keySet m = s.keySet m := by
  have hkey (hi : Nat) : t.reg (kYKEY m hi) = s.reg (kYKEY m hi) := hr _ (by unfold kYKEY; omega)
  rw [State.keySet, State.keySet, hkey, hkey]

end Sys2Proof.Machine
end

section
/-! SUPPORT. Deadlines and ageing (R273, R276): walks over the live entries, each step of which changes the first word of its own entry. -/

namespace Sys2Proof.Machine

variable {s : State} {n : Nat}

/-- A word that reads other than after reset stands in the store. -/
theorem Store.mem_of_read {α : Type} {d : Nat → α} {l : Store α} {k : Nat} (h : Store.read d l k ≠ d k) : (k, Store.read d l k) ∈ l := by
  cases hf : l.find? fun p => p.1 == k with
  | none => exact absurd (by rw [Store.read, hf]) h
  | some p =>
    have hkey : p.1 = k := beq_iff_eq.1 (List.find?_some (p := fun p : Nat × α => p.1 == k) hf)
    have hval : Store.read d l k = p.2 := by rw [Store.read, hf]
    rw [hval, ← hkey]
    exact List.mem_of_find?_eq_some hf

/-- An entry that is not FREE is live. -/
theorem State.mem_liveSlots (hn : n < 8192) (h : s.eState n ≠ 0) : n ∈ s.liveSlots := by
  have hstate : getBits (s.reg (rENT n 0)) 0 3 ≠ 0 := h
  have hdef : getBits (regDefault (rENT n 0)) 0 3 = 0 := by
    rw [regDefault_entry hn (by decide)]
    decide
  have hmem : (rENT n 0, s.reg (rENT n 0)) ∈ s.regs := Store.mem_of_read fun he => hstate ((congrArg (getBits · 0 3) he).trans hdef)
  rw [State.liveSlots, List.mem_filterMap]
  refine ⟨_, hmem, ?_⟩
  rw [if_pos ⟨by unfold rENT; omega, by unfold rENT; omega, by unfold rENT; omega, hstate⟩]
  exact congrArg some (by unfold rENT; omega)

theorem rENT_ne_zero {m w : Nat} (hw : w < 16) (h : n ≠ m ∨ w ≠ 0) : rENT n w ≠ rENT m 0 := by
  unfold rENT
  omega

/-! A walk whose step changes no register but the first word of its own entry. -/

/-- The step of a walk over entries keeps every register but the first word of its entry. -/
def OwnWord (f : State → Nat → State) : Prop := ∀ (s : State) (m o : Nat), o ≠ rENT m 0 → (f s m).reg o = s.reg o

variable {f : State → Nat → State}

theorem OwnWord.foldl_reg (hf : OwnWord f) {o : Nat} (l : List Nat) (ho : ∀ m, o ≠ rENT m 0) : (l.foldl f s).reg o = s.reg o := by
  induction l generalizing s with
  | nil => rfl
  | cons m l ih => exact ih.trans (hf s m o (ho m))

theorem OwnWord.word (hf : OwnWord f) {m w : Nat} (hw : w < 16) (h : n ≠ m ∨ w ≠ 0) : (f s m).word n w = s.word n w :=
  hf s m _ (rENT_ne_zero hw h)

/-- What an entry's words and the clock decide. -/
structure State.SameEntry (n : Nat) (s t : State) : Prop where
  word : ∀ w, w < 16 → t.word n w = s.word n w
  gc : t.gc = s.gc

theorem State.SameEntry.getF (h : State.SameEntry n s t) {w : Nat} (hw : w < 16) (l k : Nat) : t.getF ⟨rENT n w, l, k⟩ = s.getF ⟨rENT n w, l, k⟩ :=
  congrArg (getBits · l k) (h.word w hw)

theorem OwnWord.sameEntry (hf : OwnWord f) {m : Nat} (h : n ≠ m) : State.SameEntry n s (f s m) :=
  ⟨fun _ hw => hf.word hw (.inl h), State.getF_congr (hf s m _ (by simp only [fGC_NOW, rENT]; omega))⟩

/-- An entry that the step leaves alone stays as it was over the walk. -/
theorem OwnWord.foldl_word_of_idle (hf : OwnWord f) {due : State → Bool} (hdue : ∀ {s t : State}, State.SameEntry n s t → due t = due s)
    (hidle : ∀ s, due s = false → f s n = s) (l : List Nat) (h : due s = false) {w : Nat} (hw : w < 16) : (l.foldl f s).word n w = s.word n w := by
  induction l generalizing s with
  | nil => rfl
  | cons m l ih =>
    rw [List.foldl_cons]
    by_cases hm : n = m
    · rw [← hm, hidle s h]
      exact ih h
    · have hsame := hf.sameEntry (s := s) hm
      exact (ih ((hdue hsame).trans h)).trans (hsame.word w hw)

/-- A walk that meets an entry whose step is due brings about what the step does, where nothing undoes it. -/
theorem foldl_reaches {due P : State → Prop} {l : List Nat} (hn : n ∈ l) (hother : ∀ t m, m ≠ n → due t → due (f t m))
    (hdo : ∀ t, due t → P (f t n)) (hkeep : ∀ t m, P t → P (f t m)) (h : due s) : P (l.foldl f s) := by
  have hstays (l : List Nat) (t : State) (hP : P t) : P (l.foldl f t) := by
    induction l generalizing t with
    | nil => exact hP
    | cons m l ih => exact ih _ (hkeep t m hP)
  induction l generalizing s with
  | nil => exact absurd hn List.not_mem_nil
  | cons m l ih =>
    by_cases hm : m = n
    · rw [hm]
      exact hstays l _ (hdo s h)
    · exact ih ((List.mem_cons.1 hn).resolve_left (Ne.symm hm)) (hother s m hm h)

/-! Deadlines (R273). -/

/-- An idle request's deadline has passed. -/
def State.expireDue (n : Nat) (s : State) : Bool :=
  (s.eState n == 2 || s.eState n == 3) && s.getF (fE_INFL n) == 0 && decide (s.getF (fE_DEADLINE n) < s.gc)

def State.expireStep (s : State) (n : Nat) : State := if s.expireDue n then s.enter n 6 6 (some .plain) else s

theorem exec_deadlineScan_of_on (hhal : s.halOn = true) : exec .deadlineScan s = .next (s.liveSlots.foldl State.expireStep s) := by
  change execDeadlineScan s = _
  rw [execDeadlineScan, if_neg (by simp [hhal])]
  rfl

theorem State.expireDue_iff : s.expireDue n = true ↔
    (s.eState n = 2 ∨ s.eState n = 3) ∧ s.getF (fE_INFL n) = 0 ∧ s.getF (fE_DEADLINE n) < s.gc := by
  simp [State.expireDue, and_assoc]

/-- What an expiry keeps, a step of the scan keeps. -/
theorem State.expireStep_keeps {α : Type} {π : State → α} (s : State) (m : Nat) (h : π (s.enter m 6 6 (some .plain)) = π s) :
    π (s.expireStep m) = π s := by
  rw [State.expireStep]
  split
  · exact h
  · rfl

theorem ownWord_expireStep : OwnWord State.expireStep := fun s m o ho =>
  s.expireStep_keeps (π := fun t => t.reg o) m (s.enter_reg_other 6 6 (some .plain) ho)

/-- The scan leaves the flights, the fuses and Halter's state of the requests. -/
theorem State.foldl_expireStep_fields (l : List Nat) (s : State) : (l.foldl State.expireStep s).flights = s.flights ∧
    (l.foldl State.expireStep s).fuses = s.fuses ∧ (l.foldl State.expireStep s).reqs = s.reqs := by
  refine ⟨foldl_keeps (π := State.flights) (fun t m => t.expireStep_keeps m ?_) l s, foldl_keeps (π := State.fuses) (fun t m => t.expireStep_keeps m ?_) l s,
    foldl_keeps (π := State.reqs) (fun t m => t.expireStep_keeps m ?_) l s⟩
  all_goals rw [State.enter_frame]

theorem State.SameEntry.expireDue {t : State} (h : State.SameEntry n s t) : t.expireDue n = s.expireDue n := by
  have hstate : t.eState n = s.eState n := h.getF (w := 0) (by decide) 0 3
  have hinfl : t.getF (fE_INFL n) = s.getF (fE_INFL n) := h.getF (w := 0) (by decide) 40 8
  have hdead : t.getF (fE_DEADLINE n) = s.getF (fE_DEADLINE n) := h.getF (w := 4) (by decide) 0 64
  rw [State.expireDue, State.expireDue, hstate, hinfl, hdead, h.gc]

/-- The request has expired. -/
def State.expired (n : Nat) (s : State) : Prop := s.eState n = 6 ∧ s.getF (fE_REASON n) = 6 ∧ ∀ r ∈ s.rets, r.slot ≠ n

theorem State.expireStep_of_due (h : s.expireDue n = true) : (s.expireStep n).expired n := by
  rw [State.expireStep, if_pos h]
  refine ⟨State.getF_enter_state (by decide) 6 _, State.getF_enter_reason (by decide) 6 _, fun r hr => ?_⟩
  rw [State.enter_rets, List.mem_filter] at hr
  simpa using hr.2

theorem State.expireStep_of_idle (h : s.expireDue n = false) : s.expireStep n = s := if_neg (by simp [h])

/-- Nothing revives a request that has expired. -/
theorem State.expired.expireStep (h : s.expired n) (m : Nat) : (s.expireStep m).expired n := by
  obtain ⟨hstate, hreason, hrets⟩ := h
  by_cases hm : n = m
  · rw [← hm, State.expireStep_of_idle (by simp [State.expireDue, hstate])]
    exact ⟨hstate, hreason, hrets⟩
  · have hsame : State.SameEntry n s (s.expireStep m) := ownWord_expireStep.sameEntry hm
    refine ⟨(hsame.getF (w := 0) (by decide) 0 3).trans hstate, (hsame.getF (w := 0) (by decide) 32 8).trans hreason, fun r hr => hrets r ?_⟩
    rw [State.expireStep] at hr
    split at hr
    · rw [State.enter_rets] at hr
      exact (List.mem_filter.1 hr).1
    · exact hr

/-! Ageing (R276). -/

/-- The `EPRIO` that a request's wait gives it. -/
def State.aged (q : Nat) (s : State) (n : Nat) : Nat :=
  Nat.min 3 (s.getF (fE_PRIO n) + (2 ^ 32 + s.gc % 2 ^ 32 - s.getF (fE_LASTGC n)) % 2 ^ 32 / q)

/-- The request runs or pauses. -/
def State.ages (n : Nat) (s : State) : Bool := s.eState n == 2 || s.eState n == 3

def State.ageStep (q : Nat) (s : State) (n : Nat) : State := if s.ages n then s.setF (fE_EPRIO n) (s.aged q n) else s

theorem exec_ageing_of_on (hq : s.getF fAGE_Q ≠ 0) (hhal : s.halOn = true) :
    exec .ageing s = .next (s.liveSlots.foldl (State.ageStep (s.getF fAGE_Q)) s) := by
  change execAgeing s = _
  rw [execAgeing, if_neg (by simp [hq, hhal])]
  rfl

theorem exec_ageing_of_idle (h : s.getF fAGE_Q = 0 ∨ s.halOn = false) : exec .ageing s = .next s := by
  change execAgeing s = _
  rw [execAgeing, if_pos (by simpa using h)]

variable {q : Nat}

theorem ownWord_ageStep : OwnWord (State.ageStep q) := by
  intro s m o ho
  rw [State.ageStep]
  split
  · exact s.reg_setF_other (fE_EPRIO m) _ ho
  · rfl

theorem State.foldl_ageStep_frame (l : List Nat) (s : State) : l.foldl (State.ageStep q) s = { s with regs := (l.foldl (State.ageStep q) s).regs } := by
  induction l generalizing s with
  | nil => rfl
  | cons m l ih =>
    rw [List.foldl_cons, ih, State.ageStep]
    split <;> rfl

theorem State.SameEntry.ages {t : State} (h : State.SameEntry n s t) : t.ages n = s.ages n := by
  have hstate : t.eState n = s.eState n := h.getF (w := 0) (by decide) 0 3
  rw [State.ages, State.ages, hstate]

theorem State.SameEntry.aged {t : State} (h : State.SameEntry n s t) : t.aged q n = s.aged q n := by
  have hprio : t.getF (fE_PRIO n) = s.getF (fE_PRIO n) := h.getF (w := 0) (by decide) 8 2
  have hlast : t.getF (fE_LASTGC n) = s.getF (fE_LASTGC n) := h.getF (w := 13) (by decide) 0 32
  rw [State.aged, State.aged, hprio, hlast, h.gc]

theorem State.ageStep_of_idle (h : s.ages n = false) : s.ageStep q n = s := if_neg (by simp [h])

/-- The request ages to `v`, and `EPRIO` may hold it already. -/
def State.agesTo (q n v : Nat) (s : State) : Prop := s.ages n = true ∧ s.aged q n = v

theorem State.SameEntry.agesTo {t : State} {v : Nat} (h : State.SameEntry n s t) (ha : s.agesTo q n v) : t.agesTo q n v :=
  ⟨h.ages.trans ha.1, h.aged.trans ha.2⟩

/-- `EPRIO` takes the value, and the request ages to it as before. -/
theorem State.agesTo.ageStep {v : Nat} (hv : v < 4) (h : s.agesTo q n v) : (s.ageStep q n).agesTo q n v ∧ (s.ageStep q n).getF (fE_EPRIO n) = v := by
  obtain ⟨hages, haged⟩ := h
  have hstep : s.ageStep q n = s.setF (fE_EPRIO n) v := by rw [State.ageStep, if_pos hages, haged]
  have hstate : (s.setF (fE_EPRIO n) v).eState n = s.eState n :=
    State.getF_setF_other _ (fE_EPRIO n) v (g := fE_STATE n) (show 0 + 3 ≤ 64 by decide) (.inr (.inl (show 0 + 3 ≤ 10 by decide)))
  have hprio : (s.setF (fE_EPRIO n) v).getF (fE_PRIO n) = s.getF (fE_PRIO n) :=
    State.getF_setF_other _ (fE_EPRIO n) v (g := fE_PRIO n) (show 8 + 2 ≤ 64 by decide) (.inr (.inl (show 8 + 2 ≤ 10 by decide)))
  have hlast : (s.setF (fE_EPRIO n) v).getF (fE_LASTGC n) = s.getF (fE_LASTGC n) :=
    State.getF_setReg_other _ _ (g := fE_LASTGC n) (rENT_ne_zero (by decide) (.inr (by decide)))
  have hgc : (s.setF (fE_EPRIO n) v).gc = s.gc :=
    State.getF_setReg_other _ _ (g := fGC_NOW) (by simp only [fGC_NOW, fE_EPRIO, rENT]; omega)
  have hages' : (s.setF (fE_EPRIO n) v).ages n = s.ages n := by rw [State.ages, State.ages, hstate]
  have haged' : (s.setF (fE_EPRIO n) v).aged q n = s.aged q n := by rw [State.aged, State.aged, hprio, hlast, hgc]
  rw [hstep]
  exact ⟨⟨hages'.trans hages, haged'.trans haged⟩,
    (s.getF_setF_same (fE_EPRIO n) v (show 10 + 2 ≤ 64 by decide)).trans (Nat.mod_eq_of_lt hv)⟩

theorem State.aged_lt (q : Nat) (s : State) (n : Nat) : s.aged q n < 4 := Nat.lt_succ_of_le (Nat.min_le_left ..)

/-- Ageing gives each request that runs or pauses the `EPRIO` of its wait. -/
theorem State.foldl_ageStep_eprio {l : List Nat} (hn : n ∈ l) (h : s.ages n = true) :
    (l.foldl (State.ageStep q) s).getF (fE_EPRIO n) = s.aged q n := by
  refine (foldl_reaches (due := fun t => t.agesTo q n (s.aged q n)) (P := fun t => t.agesTo q n (s.aged q n) ∧ t.getF (fE_EPRIO n) = s.aged q n)
    hn (fun t m hm => (ownWord_ageStep.sameEntry (Ne.symm hm)).agesTo) (fun t hd => hd.ageStep (s.aged_lt q n)) (fun t m hP => ?_) ⟨h, rfl⟩).2
  by_cases hm : n = m
  · rw [← hm]
    exact hP.1.ageStep (s.aged_lt q n)
  · have hsame := (ownWord_ageStep (q := q)).sameEntry (s := t) hm
    exact ⟨hsame.agesTo hP.1, (hsame.getF (w := 0) (by decide) 10 2).trans hP.2⟩

theorem State.ages_iff : s.ages n = true ↔ s.eState n = 2 ∨ s.eState n = 3 := by simp [State.ages]

end Sys2Proof.Machine
end

section
/-! PROOF. Requests are admitted, aged and expired (R270, R273, R276). -/

namespace Sys2Proof.Machine

/-- While PD_HAL is not `ON` Halter does nothing of its own (R445). -/
theorem exec_halter_of_off {s : State} (hhal : s.halOn = false) {c : Instr} (hc : c ∈ [Instr.admission, .deadlineScan, .ageing, .yarrowBlock]) :
    exec c s = .next s := by
  simp only [List.mem_cons, List.not_mem_nil, or_false] at hc
  rcases hc with rfl | rfl | rfl | rfl
  · change execAdmission s = _
    rw [execAdmission]
    split
    · rfl
    · exact if_neg (by simp [hhal])
  · change execDeadlineScan s = _
    exact if_pos (by simp [hhal])
  · exact exec_ageing_of_idle (.inr hhal)
  · change execYarrowBlock s = _
    rw [execYarrowBlock]
    split
    · rfl
    · exact if_pos (by simp [hhal])

/-- What the checks of an entry behind its fields leave, each as the first that fails, and the entry that passes them. -/
theorem admission_outcomes {s : State} {n : Nat} (hn : s.nextAdmit = some n) (hhal : s.halOn = true) (hf : s.fieldsAdmit n = true) :
    let p := s.readParam (s.getF (fE_PB n))
    let fails (reason : Nat) := ∃ u, exec .admission s = .next u ∧ u.eState n = 7 ∧ u.getF (fE_REASON n) = reason ∧
      u.flights = s.flights ∧ u.fuses = s.fuses
    (p.2 = none ∨ (∃ b, p.2 = some b ∧ paramOk b (s.flag (fE_CLASS n)) p.1.maskLoaded = false) → fails 0x11) ∧
    ∀ b, p.2 = some b → paramOk b (s.flag (fE_CLASS n)) p.1.maskLoaded = true →
      let t := p.1.admitStop n
      let r := t.1.admitRing n
      let h := r.1.admitHist n b.histPrompt
      (t.2 = false → fails 0x12) ∧
      (t.2 = true → r.2 = false → fails 0x13) ∧
      (t.2 = true → r.2 = true → h.2.1 = false → fails 0x14) ∧
      (t.2 = true → r.2 = true → h.2.1 = true → s.flag (fE_YEN n) = true → s.keySet (s.getF (fE_TENANT n)) = false → fails 0x15) ∧
      (t.2 = true → r.2 = true → h.2.1 = true → (s.flag (fE_YEN n) = true → s.keySet (s.getF (fE_TENANT n)) = true) →
        ∃ u, exec .admission s = .next u ∧ u.eState n = 2 ∧ u.getF (fE_REASON n) = 0 ∧ u.flag (fE_HPROMPT n) = b.histPrompt ∧
        u.getF (fE_LASTGC n) = s.gc % 2 ^ 32 ∧ u.flights = s.flights ∧ u.fuses = s.fuses) := by
  intro p fails
  have hexec := exec_admission_of_next hn hhal
  have hp {own : Fld → Prop} : State.Beside own s p.1 := (State.Beside.refl s).readParam
  have hclass : p.1.flag (fE_CLASS n) = s.flag (fE_CLASS n) := (hp (own := NoField)).flag (offEvents_rENT n 0) (show 5 + 1 ≤ 64 by decide) (noField_apart _)
  have hfail {t : State} {own : Fld → Prop} {reason : Nat} (hr : reason < 256) (he : s.admitReq n = t.admitFail n reason) (ht : State.Beside own s t) :
      fails reason := ⟨_, hexec.trans (congrArg _ he), ht.admitFail hr⟩
  refine ⟨fun hbad => ?param, fun b hb hok => ?checked⟩
  case param =>
    rcases hbad with hnone | ⟨b, hb, hbad⟩
    · exact hfail (by decide) (State.admitReq_of_no_param hf hnone) (hp (own := NoField))
    · refine hfail (by decide) ?_ (hp (own := NoField))
      rw [State.admitReq_of_param hf hb rfl, if_pos (by rw [hclass, hbad]; rfl)]
  case checked =>
    intro t r h
    have ht {own : Fld → Prop} : State.Beside own s t.1 := hp.admitStop
    have hr {own : Fld → Prop} : State.Beside own s r.1 := ht.admitRing
    have hreq : s.admitReq n = if !t.2 then t.1.admitFail n 0x12 else if !r.2 then r.1.admitFail n 0x13 else if !h.2.1 then h.1.admitFail n 0x14
        else if h.1.flag (fE_YEN n) && !h.1.keySet (h.1.getF (fE_TENANT n)) then h.1.admitFail n 0x15
        else (((h.1.admitCounted n b h.2.2).admitFields n b).admitBlocks n) := by
      rw [State.admitReq_of_param hf hb rfl, if_neg (by rw [hclass, hok]; decide)]
    have hpassed {own : Fld → Prop} (h3 : h.2.1 = true) : State.Beside own s h.1 := hr.admitHist_passed h3
    have hkey (h3 : h.2.1 = true) : (h.1.flag (fE_YEN n) && !h.1.keySet (h.1.getF (fE_TENANT n))) =
        (s.flag (fE_YEN n) && !s.keySet (s.getF (fE_TENANT n))) := by
      have hkept := hpassed (own := NoField) h3
      rw [hkept.flag (g := fE_YEN n) (offEvents_rENT n 0) (show 19 + 1 ≤ 64 by decide) (noField_apart _),
        hkept.getF (fE_TENANT n) (offEvents_rENT n 0) (show 24 + 8 ≤ 64 by decide) (noField_apart _),
        State.keySet_congr fun o ho => hkept.reg (.inr (by omega)) fun f hf => False.elim hf]
    refine ⟨fun h1 => ?_, fun h1 h2 => ?_, fun h1 h2 h3 => ?_, fun h1 h2 h3 hyen hno => ?_, fun h1 h2 h3 hyes => ?_⟩
    · exact hfail (by decide) (by rw [hreq, h1]; rfl) (ht (own := NoField))
    · exact hfail (by decide) (by rw [hreq, h1, h2]; rfl) (hr (own := NoField))
    · exact hfail (by decide) (by rw [hreq, h1, h2, h3]; rfl) (hr.admitHist Counted.entryField)
    · exact hfail (by decide) (by rw [hreq, h1, h2, hkey h3, h3, hyen, hno]; rfl) (hpassed (own := NoField) h3)
    · have hcounted := (hpassed h3).admitCounted (n := n) (b := b) (toks := h.2.2)
      refine ⟨_, hexec.trans (congrArg _ ?_), hcounted.admitted (b := b)⟩
      have hno : (s.flag (fE_YEN n) && !s.keySet (s.getF (fE_TENANT n))) = false := by
        cases hyen : s.flag (fE_YEN n)
        · rfl
        · simp [hyes hyen]
      rw [hreq, h1, h2, hkey h3, h3, hno]
      rfl

/-- The scan ends the idle requests whose deadline has passed, and leaves the other entries. -/
theorem deadlineScan_outcomes {s : State} {n : Nat} (hn : n < 8192) :
    (s.expireDue n = true → (s.liveSlots.foldl State.expireStep s).expired n ∧
      ∀ w, w ≠ 0 → w < 16 → (s.liveSlots.foldl State.expireStep s).word n w = s.word n w) ∧
    (s.expireDue n = false → ∀ w, w < 16 → (s.liveSlots.foldl State.expireStep s).word n w = s.word n w) := by
  refine ⟨fun hdue => ⟨?_, fun w h0 hw => ?_⟩, fun hidle w hw => ?_⟩
  · obtain ⟨hstate, -⟩ := State.expireDue_iff.1 hdue
    exact foldl_reaches (due := fun t => t.expireDue n = true) (State.mem_liveSlots hn (by omega))
      (fun t m hm hd => (ownWord_expireStep.sameEntry (Ne.symm hm)).expireDue.trans hd) (fun t => State.expireStep_of_due)
      (fun t m hP => hP.expireStep m) hdue
  · exact ownWord_expireStep.foldl_reg _ fun m => rENT_ne_zero hw (.inr h0)
  · exact ownWord_expireStep.foldl_word_of_idle (due := fun t => t.expireDue n) State.SameEntry.expireDue (fun t => State.expireStep_of_idle) _ hidle hw

/-- Ageing sets `EPRIO` of the requests that run or pause, and leaves the other entries. -/
theorem ageing_outcomes {s : State} {q n : Nat} (hn : n < 8192) :
    (s.ages n = true → (s.liveSlots.foldl (State.ageStep q) s).getF (fE_EPRIO n) = s.aged q n) ∧
    (s.ages n = false → ∀ w, w < 16 → (s.liveSlots.foldl (State.ageStep q) s).word n w = s.word n w) := by
  refine ⟨fun hages => ?_, fun hidle w hw => ?_⟩
  · have hstate := State.ages_iff.1 hages
    exact State.foldl_ageStep_eprio (State.mem_liveSlots hn (by omega)) hages
  · exact ownWord_ageStep.foldl_word_of_idle (due := fun t => t.ages n) State.SameEntry.ages (fun t => State.ageStep_of_idle) _ hidle hw

/-- Settles O50: admission by its checks in order; the scan of deadlines and ageing as walks whose steps keep to their own entries. -/
theorem requestsAreAdmittedAgedAndExpired : Obligations.RequestsAreAdmittedAgedAndExpired := by
  unfold Obligations.RequestsAreAdmittedAgedAndExpired
  refine ⟨fun s hhal c hc => exec_halter_of_off hhal hc, fun s n hn hhal => ⟨fun hf => ?fields, admission_outcomes hn hhal⟩,
    fun s hhal => ⟨?scan, fun hq => exec_ageing_of_idle (.inl hq), fun hq => ?aged⟩⟩
  case fields =>
    obtain ⟨hstate, hreason⟩ := State.admitFail_fault (s := s) (n := n) (reason := 0x10) (by decide)
    refine ⟨s.admitFail n 0x10, (exec_admission_of_next hn hhal).trans (congrArg _ (State.admitReq_of_fields hf)), hstate, hreason,
      fun o ho => State.admitFail_reg_other 0x10 ho, ?_, ?_, ?_⟩
    all_goals rw [State.admitFail_frame]
  case scan =>
    obtain ⟨hflights, hfuses, hreqs⟩ := State.foldl_expireStep_fields s.liveSlots s
    refine ⟨_, exec_deadlineScan_of_on hhal, hflights, hfuses, hreqs, fun n hn => ?_⟩
    obtain ⟨hexpired, hkept⟩ := deadlineScan_outcomes (s := s) hn
    rw [← Bool.not_eq_true] at hkept
    simp only [State.expireDue_iff] at hexpired hkept
    refine ⟨fun hdue => ?_, hkept⟩
    obtain ⟨⟨hstate, hreason, hrets⟩, hwords⟩ := hexpired hdue
    exact ⟨hstate, hreason, hrets, hwords⟩
  case aged =>
    refine ⟨_, exec_ageing_of_on hq hhal, State.foldl_ageStep_frame _ s, fun n hn => ?_⟩
    obtain ⟨haged, hkept⟩ := ageing_outcomes (s := s) (q := s.getF fAGE_Q) hn
    rw [← Bool.not_eq_true, State.ages_iff, not_or] at hkept
    exact ⟨fun hst => haged (State.ages_iff.2 hst), fun h2 h3 => hkept ⟨h2, h3⟩⟩

end Sys2Proof.Machine
end

section
/-! PROOF. Yarrow's report of a lookup: host memory whose store is not in its canonical form (R293, R295). -/

namespace Sys2Proof.Machine

/-- A lookup of the chain value 9 in slot 3, and its GET of the directory's group at 0x8000. -/
def strayLookup : YBlock := { slot := 3, key := 0, handle := false, block := 0, first := 0, yblk := 0, hash := 9, skip := false }
def strayGet : Outstanding := { port := .hport, tag := 0, addr := 0x8000, len := 64, why := .yarrow 3 0, hdr := default, wait := none }

/-- The link is up and the lookup is outstanding; host memory lists its byte at 0x8010 before the one at 0x8000, out of the order of a canonical store. -/
def strayMemory : State :=
  ({ State.reset with mem := [(0x8010, 1), (0x8000, 9)], yLooks := [strayLookup], out := [strayGet] } : State).setF fLSTATE 3

/-- Read alone the group's first key is 9; in the read of the whole group it is 0. -/
theorem strayMemory_keys : leNat (strayMemory.memAt 0x8000 8) = 9 ∧ leAt (strayMemory.memAt 0x8000 64).toArray 0 8 = 0 := by decide +kernel

/-- The model reads the group whole, finds no hit, and reports nothing. -/
theorem exec_yarrowReport_strayMemory :
    ∃ u, exec .yarrowReport strayMemory = .next u ∧ u.getF fYR_PROD = 0 := ⟨_, rfl, by decide +kernel⟩

/-- Refutes O20: its hit clause reads the keys of the group one by one, the model reads the group of 64 bytes whole (R295). The two reads agree where the store of host memory is in its canonical form, which every step keeps from reset on (O5); the statement speaks of any state, and `strayMemory` lists two bytes out of order, so that the model misses the hit and `PROD` stays 0. What fails is this freedom of the store, not the report of a reachable state. -/
theorem not_tenantKeysChainAndReportBlocks : ¬ Obligations.TenantKeysChainAndReportBlocks := by
  unfold Obligations.TenantKeysChainAndReportBlocks
  rintro ⟨-, -, hreport⟩
  obtain ⟨hhit, -, -⟩ := hreport strayMemory strayLookup [] strayGet rfl (by decide) (by decide +kernel)
  obtain ⟨u, hu, -, hclaim, -⟩ := hhit 0 (by decide) (by decide) strayMemory_keys.1 (fun k hk => absurd hk (Nat.not_lt_zero k))
    (by decide +kernel) (by decide +kernel)
  obtain ⟨v, hv, hmodel⟩ := exec_yarrowReport_strayMemory
  obtain rfl : u = v := Host.Outcome.next.inj (hu.symm.trans hv)
  exact absurd (hmodel.symm.trans hclaim) (by decide +kernel)

end Sys2Proof.Machine
end

section
/-! SUPPORT. EMIT (R273, R274, R278, R285, R286): what forming a record, a retention or a run leaves of the state. -/

namespace Sys2Proof.Machine

/-- The fields of an entry that a token which joins it, or a stop, changes. -/
def Joined (n : Nat) (f : Fld) : Prop := Counted n f ∨ f = fE_GLEN n ∨ f = fE_STATE n ∨ f = fE_REASON n

theorem Joined.entryField {n : Nat} : ∀ f, Joined n f → EntryField f := by
  rintro f (hc | rfl | rfl | rfl)
  · exact Counted.entryField f hc
  all_goals exact entryField_rENT ..

/-! A record, in its parts. -/

/-- A deadline that has passed calls for the end of the request (R273). -/
def State.formLate (s : State) (f : Flight) (n : Nat) : State := if s.isLate f n then s.callEnd n 6 6 else s

/-- A `POISON` row faults its request, unless it retries (R274). -/
def State.rowFault (s : State) (n : Nat) : State := if s.flag (fE_PRETRY n) then s else s.callEnd n 7 7

/-- The effect of a row's outcome on its request: the state, the outcome of the record, whether a stop test held, whether the request stopped, whether a spill met poison. -/
def State.formOutcome (s : State) (f : Flight) (row n : Nat) (o : RowOut) : State × RowOut × Bool × Bool × Bool :=
  match o.disp, o.token with
  | .poison, _ => (s.rowFault n, o, false, false, false)
  | .empty, _ => ((s.stopHere n (some 4)).1, o, false, (s.stopHere n (some 4)).2, false)
  | _, none => (s, o, false, false, false)
  | _, some t =>
    match s.joinToken f n t with
    | (s, false, _) => (s.callEnd n 7 7, { poisonOut f (f.rows.getD row default) with cert := o.cert, trunc := o.trunc }, false, false, true)
    | (s, true, r) => ((s.stopHere n r).1, o, r.isSome, (s.stopHere n r).2, false)

/-- The slot of a request's ring that its next record takes. -/
def State.slotAddr (s : State) (n : Nat) : Nat :=
  s.getF (fE_RING n) + (if s.flag (fE_EXTREC n) then 128 else 32) * (s.getF (fE_PROD n) % 2 ^ s.getF (fE_RORDER n))

/-- `PROD` and `LAST_GC` of a request that gains a record. -/
def State.takeRecord (s : State) (n : Nat) : State := (s.addMod (fE_PROD n) 1).setF (fE_LASTGC n) (s.gc % 2 ^ 32)

/-- The record of a row, with its token-vector word, its digest bytes and its log word. -/
def Emission.record (e : Emission) (f : Flight) (row n pos : Nat) (late acc : Bool) (t : State) (o : RowOut) (stop spoilt : Bool) : Emission :=
  let u := t.takeRecord n
  let flags (l : Bool) : Nat := recordFlags f.compat o l stop (acc && !spoilt)
  { e with
    tv := e.tv.set row (o.token.getD noToken)
    logs := match o.token with | some t => e.logs ++ [(u.logAddr n pos, t)] | none => e.logs
    spoiled := if spoilt then e.spoiled ++ [row] else e.spoiled
    spans := e.spans ++ (row, t.slotAddr n, if t.extends f n then 128 else 32) ::
      (match o.token with | some _ => [(row, u.logAddr n pos, 4)] | none => [])
    recs := e.recs ++ [(n, t.slotAddr n, ringRecord f o pos (flags late) f.gEmit (t.extends f n))]
    dig := e.dig.set row (leBytes 4 (o.token.getD noToken) ++ ringRecord f o pos (flags false) 0 (t.extends f n)) }

variable {own : Fld → Prop} {s t u : State} {f : Flight} {e : Emission} {n : Nat}

/-! The outcomes of a row. -/

section
variable {row : Nat} {o : RowOut}

theorem State.formOutcome_of_poison (h : o.disp = .poison) : s.formOutcome f row n o = (s.rowFault n, o, false, false, false) := by
  simp only [State.formOutcome, h]

theorem State.formOutcome_of_empty (h : o.disp = .empty) :
    s.formOutcome f row n o = ((s.stopHere n (some 4)).1, o, false, (s.stopHere n (some 4)).2, false) := by
  simp only [State.formOutcome, h]

/-- A row with a disposition of its own and no token leaves its request. -/
theorem State.formOutcome_of_none (hp : o.disp ≠ .poison) (he : o.disp ≠ .empty) (ht : o.token = none) :
    s.formOutcome f row n o = (s, o, false, false, false) := by
  cases hd : o.disp <;> simp_all [State.formOutcome]

/-- A token joins its request. -/
theorem State.formOutcome_of_some {v : Nat} (hp : o.disp ≠ .poison) (he : o.disp ≠ .empty) (ht : o.token = some v) :
    s.formOutcome f row n o = match s.joinToken f n v with
      | (s, false, _) => (s.callEnd n 7 7, { poisonOut f (f.rows.getD row default) with cert := o.cert, trunc := o.trunc }, false, false, true)
      | (s, true, r) => ((s.stopHere n r).1, o, r.isSome, (s.stopHere n r).2, false) := by
  cases hd : o.disp <;> simp_all [State.formOutcome]

end

theorem State.formRecord_eq (row : Nat) (o : RowOut) (acc : Bool) : s.formRecord e f row n o acc =
    let late := s.isLate f n
    let t := s.formLate f n
    let e := if late then { e with late := e.late + 1 } else e
    if late && t.flag (fE_LATEDROP n) then ((if o.disp == .poison then t.rowFault n else t), e.put row discarded, false)
    else
      let x := t.formOutcome f row n o
      (x.1.takeRecord n, e.record f row n ((t.getF (fE_PLEN n) + t.getF (fE_GLEN n)) % 2 ^ 32) late acc x.1 x.2.1 x.2.2.2.1 x.2.2.2.2, x.2.2.1) := by
  unfold State.formRecord
  refine if_congr Iff.rfl rfl ?_
  dsimp only
  rw [← State.formLate]
  generalize s.formLate f n = t
  split
  next h => rw [State.formOutcome_of_poison h]; rfl
  next h => rw [State.formOutcome_of_empty h]; rfl
  next ht hp he => rw [State.formOutcome_of_none hp he ht]; rfl
  next v ht hp he =>
    rw [State.formOutcome_of_some hp he ht]
    generalize t.joinToken f n v = p
    obtain ⟨t', ok, r⟩ := p
    cases ok <;> rfl

/-! What the parts leave. -/

namespace State.Beside

section
variable (h : Beside own s t)
include h

theorem wantEnd {st reason : Nat} : Beside own s (t.wantEnd n st reason) := h.setReq

theorem callEnd {st reason : Nat} : Beside own s (t.callEnd n st reason) := .ite h h.wantEnd

theorem rowFault : Beside own s (t.rowFault n) := .ite h h.callEnd

theorem formLate : Beside own s (t.formLate f n) := .ite h.callEnd h

theorem freeRets : Beside own s (t.freeRets n) := h.congr rfl rfl rfl rfl

theorem pushTail {tok : Nat} : Beside own s (t.pushTail n tok) := h.setReq

theorem mend {p : SramPart → Bool} : Beside own s (t.mend p) := h.congr rfl rfl rfl rfl

theorem rereadCons {who : Who} : Beside own s (t.rereadCons n who) := .ite h.readHost h.readHost.setReq

theorem releaseRings : Beside own s (t.releaseRings f) := h.foldl fun h1 => h1.setReq

end

section
variable (hj : ∀ f, Joined n f → own f) (h : Beside own s t)
include hj h

theorem stopReq {reason : Nat} : Beside own s (t.stopReq n reason) :=
  ((h.setF (hj _ (.inr (.inr (.inl rfl))))).setF (hj _ (.inr (.inr (.inr rfl))))).freeRets

theorem stopHere {reason : Option Nat} : Beside own s (t.stopHere n reason).1 := by
  cases reason with
  | none => exact h
  | some r => exact .ite_fst (h.stopReq hj) h

theorem joinToken {tok : Nat} : Beside own s (t.joinToken f n tok).1 := by
  have hadd := h.addHist (tok := tok) (why := .emit f.ln) (who := f.who) fun g hg => hj g (.inl hg)
  exact .ite_fst hadd (hadd.setF (hj _ (.inr (.inl rfl)))).pushTail

/-- The outcome of a row changes what a token that joins, or a stop, changes. -/
theorem formOutcome {row : Nat} {o : RowOut} : Beside own s (t.formOutcome f row n o).1 := by
  by_cases hp : o.disp = .poison
  · rw [State.formOutcome_of_poison hp]
    exact h.rowFault
  · by_cases he : o.disp = .empty
    · rw [State.formOutcome_of_empty he]
      exact h.stopHere hj
    · cases ht : o.token with
      | none =>
        rw [State.formOutcome_of_none hp he ht]
        exact h
      | some v =>
        rw [State.formOutcome_of_some hp he ht]
        have hjoin := h.joinToken hj (f := f) (tok := v)
        split
        next e => exact (Beside.of_fst e hjoin).callEnd
        next e => exact (Beside.of_fst e hjoin).stopHere hj

end

/-! What EMIT leaves: the entries' own fields change. -/

section
variable (h : Beside EntryField s t)
include h

theorem takeRecord : Beside EntryField s (t.takeRecord n) := (h.setF (f := fE_PROD n) (entryField_rENT ..)).setF (entryField_rENT ..)

theorem formRecord {row : Nat} {o : RowOut} {acc : Bool} : Beside EntryField s (t.formRecord e f row n o acc).1 := by
  rw [State.formRecord_eq]
  exact .ite_fst (.ite h.formLate.rowFault h.formLate) (h.formLate.formOutcome Joined.entryField).takeRecord

theorem retain {r : RowState} {o : RowOut} : Beside EntryField s (t.retain f n r o) := by
  unfold State.retain
  split
  · exact h
  · exact .ite (h.congr rfl rfl rfl rfl) h

theorem emitRetain {row : Nat} {r : RowState} {o : RowOut} : Beside EntryField s (t.emitRetain e f row n r o).1 :=
  .ite_fst h (.ite (Beside.callEnd (.ite h.retain h)) (.ite h.retain h))

theorem runRecords {v : VRun} {k j : Nat} : Beside EntryField s (t.runRecords e f v n k j).1 := by
  induction k generalizing t e j with
  | zero => exact h.formRecord
  | succ k ih => exact .ite_fst h.formRecord (.ite_fst h.formRecord (ih h.formRecord))

theorem adapt {v : VRun} {cut : Bool} : Beside EntryField s (t.adapt n v cut) := by
  have hrej {k : Nat} : Beside EntryField s (t.setF (fE_REJRUN n) k) := h.setF (entryField_rENT ..)
  have hdlim {d k : Nat} : Beside EntryField s ((t.setF (fE_DLIM n) d).setF (fE_REJRUN n) k) :=
    Beside.setF (h.setF (entryField_rENT ..)) (entryField_rENT ..)
  exact .ite h (.ite (.ite (.ite hdlim hrej) hrej) (.ite h (.ite hdlim hrej)))

theorem emitPoisonRun {v : VRun} : Beside EntryField s (t.emitPoisonRun e f v n).1 := h.spillTable.callEnd.formRecord

theorem emitRecords {v : VRun} : Beside EntryField s (t.emitRecords e f v n).1 := .ite_fst h.emitPoisonRun h.runRecords

theorem emitRun {v : VRun} : Beside EntryField s (t.emitRun e f v).1 := by
  unfold State.emitRun
  dsimp only
  split
  · exact h
  · split
    · exact h.freeRets
    · exact .ite (Beside.adapt h.emitRecords.freeRets) h.emitRecords.freeRets

end

theorem emitRow {x : State × Emission × List VRun} {i : Nat} {r : RowState} (h : Beside EntryField s x.1) :
    Beside EntryField s (State.emitRow x f i r).1 := by
  unfold State.emitRow
  dsimp only
  split
  · split
    · exact h.emitRun
    · exact h
  · split
    · exact h
    · split
      · exact h.emitRetain
      · split
        · exact h
        · exact h.formRecord

end State.Beside

/-! The writes of EMIT, in their order (R291). -/

/-- Each record goes to its slot. -/
def State.writeRecs (s : State) (ln : Nat) (l : List (Nat × Nat × List Byte)) : State :=
  l.foldl (fun s r => s.writeHost r.2.1 r.2.2 (.ringRec ln r.1)) s

/-- Each token goes to the log. -/
def State.writeLogs (s : State) (ln : Nat) (l : List (Nat × Nat)) : State :=
  l.foldl (fun s x => s.writeHost x.1 (leBytes 4 x.2) (.emit ln)) s

/-- The write-backs go to the verify table at `vt`. -/
def State.writeBacks (s : State) (ln vt : Nat) (l : List (Nat × Nat × List Byte)) : State :=
  l.foldl (fun s b => s.writeHost (vt + 64 * b.1 + 40) b.2.2 (.emit ln)) s

/-- `PROD` of the requests that have no record open. -/
def State.writeProds (s : State) (ln : Nat) (l : List Nat) : State :=
  l.foldl (fun s n => if s.recsOpen ln n then s else s.writeProd ln n) s

/-- Where the verify table of a step lies. -/
def Flight.verifyAt (f : Flight) : Nat := match f.prog.verify with | some (_, _, _, t) => t | none => 0

/-- The writes up to the token log. -/
def State.writeTokens (s : State) (f : Flight) (e : Emission) : State :=
  ((s.writeHost f.prog.tv (e.tv.flatMap (leBytes 4)) (.emit f.ln)).writeRecs f.ln e.recs).writeLogs f.ln e.logs

theorem State.issueEmission_of_writes (hw : f.writes = true) : s.issueEmission f e =
    ((s.writeTokens f e).writeBacks f.ln f.verifyAt e.wbs).writeProds f.ln (e.recs.map (·.1)).eraseDups := by
  unfold State.issueEmission
  rw [hw]
  rfl

theorem State.issueEmission_of_silent (hw : f.writes = false) : s.issueEmission f e = s.writeLogs f.ln e.logs := by
  unfold State.issueEmission
  rw [hw]
  rfl

section
variable (h : State.Beside own s t)
include h

theorem State.Beside.writeLogs {ln : Nat} {l : List (Nat × Nat)} : Beside own s (t.writeLogs ln l) := h.foldl fun h1 => h1.writeHost

theorem State.Beside.issueEmission : Beside own s (t.issueEmission f e) := by
  cases hw : f.writes
  · rw [State.issueEmission_of_silent hw]
    exact h.writeLogs
  · rw [State.issueEmission_of_writes hw]
    have htokens : Beside own s (t.writeTokens f e) := (h.writeHost.foldl fun h1 => h1.writeHost).writeLogs
    exact (htokens.foldl fun h1 => h1.writeHost).foldl fun h1 => .ite h1 h1.writeHost

end

end Sys2Proof.Machine
end

section
/-! SUPPORT. EMIT forms every row in order (R291): the rows, the writes, and the flight that it leaves. -/

namespace Sys2Proof.Machine

variable {s t u : State} {f h : Flight} {e : Emission} {ln : Nat}

/-- Nothing has been formed yet. -/
def noEmission (n : Nat) : Emission := ⟨List.replicate n discarded, List.replicate n [], [], [], [], 0, [], []⟩

/-- The rows of a step as EMIT forms them, from the ring slots that it returns on. -/
def State.formed (a : State) (h : Flight) : State × Emission × List VRun :=
  h.rows.zipIdx.foldl (fun x q => State.emitRow x h q.2 q.1) (a.releaseRings h, noEmission h.prog.rows, h.runs)

/-- What EMIT writes: what its rows formed, and the write-backs of its runs. -/
def State.emission (a : State) (h : Flight) : Emission :=
  { (a.formed h).2.1 with wbs := (a.formed h).2.2.map fun v => (v.index, v.row0, (a.formed h).1.writeBack h v) }

/-- The state once the writes of EMIT are issued. -/
def State.emitWrites (a : State) (h : Flight) : State := (a.formed h).1.issueEmission h (a.emission h)

theorem State.emitWrites_beside (a : State) (h : Flight) : State.Beside EntryField a (a.emitWrites h) :=
  State.Beside.issueEmission (State.Beside.foldl_fst (State.Beside.refl a).releaseRings fun hb => hb.emitRow)

/-- A digest of what a row's writes hold. -/
def Emission.digestOf (e : Emission) (i : Nat) : List Byte :=
  (if (e.dig.getD i []).isEmpty then leBytes 4 (e.tv.getD i 0) else e.dig.getD i []) ++ (e.wbs.filter fun b => b.2.1 == i).flatMap (·.2.2)

/-- The flight that EMIT leaves of `g`. -/
def Flight.emittedAs (g h : Flight) (e : Emission) (runs : List VRun) (gc : Nat) : Flight :=
  { g with
    rows := g.rows.zipIdx.map fun q => if e.spoiled.contains q.2 then { q.1 with out := some (poisonOut h q.1), merged := none } else q.1
    emitted := true, emitting := true, runs := runs, gEmit := h.gEmit, gcDone := gc, nLate := e.late
    writesOf := e.writesOf h
    rowBytes := if h.writes then (List.range h.prog.rows).map e.digestOf else [] }

theorem State.emitNow_eq {a : State} {g : Flight} (hg : a.flight h.ln = some g) : a.emitNow h =
    (a.emitWrites h).setFlight (g.emittedAs h (a.emission h) (a.formed h).2.2 (a.emitWrites h).gc) := by
  have hfl : (a.emitWrites h).flight h.ln = some g := by
    rw [State.flight_congr (a.emitWrites_beside h).flights, hg]
  have heq : a.emitNow h = match (a.emitWrites h).flight h.ln with
    | none => a.emitWrites h
    | some g => (a.emitWrites h).setFlight (g.emittedAs h (a.emission h) (a.formed h).2.2 (a.emitWrites h).gc) := rfl
  rw [heq, hfl]

theorem Flight.emittedAs_rows {g : Flight} {runs : List VRun} {gc r : Nat} (hr : r ∉ e.spoiled) :
    (g.emittedAs h e runs gc).rows[r]? = g.rows[r]? := by
  have hno : e.spoiled.contains r = false := by simpa using hr
  rw [Flight.emittedAs, List.getElem?_map, List.getElem?_zipIdx]
  cases g.rows[r]? with
  | none => rfl
  | some row => simp [hr]

theorem State.Beside.gc (hb : State.Beside EntryField s t) : t.gc = s.gc :=
  hb.getF fGC_NOW (.inl (by decide)) (by decide) (EntryField.apart (by decide : fGC_NOW.off < 0x100000))

/-- EMIT goes on from `a`, which has the flights of `s`, its clock, Paddock and fuses. -/
theorem State.emitNow_outcome {a : State} (hb : State.Beside EntryField s a) (hf : s.flight ln = some f) (hln : h.ln = ln) :
    (∃ g, Becomes a (a.emitNow h) ln g ∧ g.emitted = true ∧ g.gEmit = h.gEmit ∧ g.gcDone = s.gc ∧ g.runs = (a.formed h).2.2 ∧
      g.nLate = (a.emission h).late ∧ g.rows.length = f.rows.length ∧ ∀ r, r ∉ (a.emission h).spoiled → g.rows[r]? = f.rows[r]?) ∧
    a.emitNow h = { a.emitWrites h with flights := (a.emitNow h).flights } ∧ (a.emitNow h).pad = s.pad ∧ (a.emitNow h).fuses = s.fuses := by
  have ha : a.flight ln = some f := by rw [State.flight_congr hb.flights, hf]
  have hkept := hb.trans (a.emitWrites_beside h)
  have hln' : (f.emittedAs h (a.emission h) (a.formed h).2.2 (a.emitWrites h).gc).ln = ln := State.flight_ln (f := f) hf
  rw [State.emitNow_eq (by rw [hln]; exact ha)]
  refine ⟨⟨_, .setFlight_of_flights ha (a.emitWrites_beside h).flights hln', rfl, rfl, hkept.gc, rfl, rfl, ?_,
    fun r hr => Flight.emittedAs_rows hr⟩, rfl, hkept.pad, hkept.fuses⟩
  rw [Flight.emittedAs, List.length_map, List.length_zipIdx]

/-! The commands (R286, R291). -/

/-- A step that begins EMIT takes the gate counter. -/
def Flight.emitsAt (f : Flight) (gc : Nat) : Flight := if f.emitting then f else { f with emitting := true, gEmit := gc }

theorem Flight.emitsAt_ln (f : Flight) (gc : Nat) : (f.emitsAt gc).ln = f.ln := by
  unfold Flight.emitsAt
  split <;> rfl

theorem Flight.emitsAt_prog (f : Flight) (gc : Nat) : (f.emitsAt gc).prog = f.prog := by
  unfold Flight.emitsAt
  split <;> rfl

theorem exec_emit_of_wait (hf : s.flight ln = some f) (ht : s.unitTurn ln Flight.emitReady = false) : exec (.emit ln) s = .next s := by
  change execEmit ln s = _
  simp [execEmit, hf, ht]

section
variable (hf : s.flight ln = some f) (hr : f.emitReady = true)
include hf hr

theorem exec_emit_of_turn (ht : s.unitTurn ln Flight.emitReady = true) : exec (.emit ln) s =
    if s.ringsFit (f.emitsAt s.gc) then .next (s.emitNow (f.emitsAt s.gc)) else .next (s.setFlight (f.emitsAt s.gc)) := by
  change execEmit ln s = _
  rw [execEmit, hf]
  exact if_neg (by simp [hr, ht])

/-- The rings' `CONS` read again by the waiting EMIT. -/
def State.emitReread (s : State) (f : Flight) : State :=
  (s.byEprio (f.recordsFor.map (·.1))).foldl (fun s n => s.rereadCons n f.who) s

omit hf hr in
theorem State.emitReread_beside (s : State) (f : Flight) : State.Beside EntryField s (s.emitReread f) :=
  (State.Beside.refl s).foldl fun hb => hb.rereadCons

theorem exec_emitConsRetry_of_full (he : f.emitting = true) (hfull : s.ringsFit f = false) : exec (.emitConsRetry ln) s =
    if (s.emitReread f).ringsFit f then .next ((s.emitReread f).emitNow f) else .next (s.emitReread f) := by
  change execEmitConsRetry ln s = _
  rw [execEmitConsRetry, hf]
  exact if_neg (by simp [hr, he, hfull])

end

end Sys2Proof.Machine
end

section
/-! SUPPORT. The writes of EMIT (R291): what stands in host memory beside the writes that follow it, and `PROD` at the acknowledgement of the last record. -/

namespace Sys2Proof.Machine

variable {s t u : State} {f : Flight} {e : Emission} {ln : Nat} {a : Nat} {bs : List Byte}

/-! What stands apart from later writes. -/

section
variable (h : Written s t a bs)
include h

theorem Written.foldl {α : Type} {g : State → α → State} {l : List α} (hg : ∀ x ∈ l, ∀ t, Written s t a bs → Written s (g t x) a bs) :
    Written s (l.foldl g t) a bs :=
  List.foldlRecOn (motive := fun (t : State) => Written s t a bs) l g h fun t ht x hx => hg x hx t ht

theorem Written.writeRecs {l : List (Nat × Nat × List Byte)} (hl : ∀ x ∈ l, Apart a bs.length x.2.1 x.2.2.length) : Written s (t.writeRecs ln l) a bs :=
  h.foldl fun x hx _ ht => ht.writeHost (hl x hx)

theorem Written.writeLogs {l : List (Nat × Nat)} (hl : ∀ x ∈ l, Apart a bs.length x.1 4) : Written s (t.writeLogs ln l) a bs :=
  h.foldl fun x hx _ ht => ht.writeHost (by rw [leBytes_length]; exact hl x hx)

theorem Written.writeBacks {vt : Nat} {l : List (Nat × Nat × List Byte)} (hl : ∀ b ∈ l, Apart a bs.length (vt + 64 * b.1 + 40) b.2.2.length) :
    Written s (t.writeBacks ln vt l) a bs :=
  h.foldl fun x hx _ ht => ht.writeHost (hl x hx)

end

/-- A write of `PROD` changes no register. -/
theorem State.writeProds_step_regs (t : State) (ln n : Nat) : (if t.recsOpen ln n then t else t.writeProd ln n).regs = t.regs := by
  split
  · rfl
  · exact t.writeHost_regs ..

theorem Written.writeProds (h : Written s t a bs) {l : List Nat} (hl : ∀ n ∈ l, Apart a bs.length (t.getF (fE_CB n)) 8) :
    Written s (t.writeProds ln l) a bs := by
  induction l generalizing t with
  | nil => exact h
  | cons n l ih =>
    refine ih ?_ fun m hm => ?_
    · dsimp only
      split
      · exact h
      · exact h.writeHost (by rw [leBytes_length]; exact hl n List.mem_cons_self)
    · rw [State.getF_congr (State.reg_congr (t.writeProds_step_regs ln n) _)]
      exact hl m (List.mem_cons_of_mem _ hm)

/-! The registers of EMIT's writes. -/

theorem foldl_writeHost_regs {α : Type} (p : α → Nat × List Byte × Purpose2) (l : List α) (s : State) :
    (l.foldl (fun s x => s.writeHost (p x).1 (p x).2.1 (p x).2.2) s).regs = s.regs :=
  foldl_keeps (π := State.regs) (fun t _ => t.writeHost_regs ..) l s

theorem State.writeRecs_regs (l : List (Nat × Nat × List Byte)) : (t.writeRecs ln l).regs = t.regs :=
  foldl_writeHost_regs (fun r : Nat × Nat × List Byte => (r.2.1, r.2.2, .ringRec ln r.1)) l t

theorem State.writeTokens_regs : (t.writeTokens f e).regs = t.regs :=
  (foldl_writeHost_regs (fun x : Nat × Nat => (x.1, leBytes 4 x.2, .emit f.ln)) e.logs _).trans
    ((State.writeRecs_regs e.recs).trans (t.writeHost_regs ..))

theorem State.writeBacks_regs {vt : Nat} (l : List (Nat × Nat × List Byte)) : (t.writeBacks ln vt l).regs = t.regs :=
  foldl_writeHost_regs (fun b : Nat × Nat × List Byte => (vt + 64 * b.1 + 40, b.2.2, .emit ln)) l t

/-- What the records leave stands, where it lies apart from the log words, the write-backs and `PROD`. -/
theorem State.written_issueEmission (hw : f.writes = true)
    (h : Written s ((s.writeHost f.prog.tv (e.tv.flatMap (leBytes 4)) (.emit f.ln)).writeRecs f.ln e.recs) a bs)
    (hlogs : ∀ l ∈ e.logs, Apart a bs.length l.1 4) (hwbs : ∀ b ∈ e.wbs, Apart a bs.length (f.verifyAt + 64 * b.1 + 40) b.2.2.length)
    (hcb : ∀ x ∈ e.recs, Apart a bs.length (s.getF (fE_CB x.1)) 8) : Written s (s.issueEmission f e) a bs := by
  rw [State.issueEmission_of_writes hw]
  refine Written.writeProds ((h.writeLogs hlogs).writeBacks hwbs) fun n hn => ?_
  rw [List.mem_eraseDups, List.mem_map] at hn
  obtain ⟨x, hx, rfl⟩ := hn
  have hregs : ((s.writeTokens f e).writeBacks f.ln f.verifyAt e.wbs).regs = s.regs := (State.writeBacks_regs e.wbs).trans State.writeTokens_regs
  exact (State.getF_congr (State.reg_congr hregs _)).symm ▸ hcb x hx

/-- The token vector stands at its place. -/
theorem State.written_tokenVector (hw : f.writes = true)
    (hrecs : ∀ x ∈ e.recs, Apart f.prog.tv (e.tv.flatMap (leBytes 4)).length x.2.1 x.2.2.length)
    (hlogs : ∀ l ∈ e.logs, Apart f.prog.tv (e.tv.flatMap (leBytes 4)).length l.1 4)
    (hwbs : ∀ b ∈ e.wbs, Apart f.prog.tv (e.tv.flatMap (leBytes 4)).length (f.verifyAt + 64 * b.1 + 40) b.2.2.length)
    (hcb : ∀ x ∈ e.recs, Apart f.prog.tv (e.tv.flatMap (leBytes 4)).length (s.getF (fE_CB x.1)) 8) :
    Written s (s.issueEmission f e) f.prog.tv (e.tv.flatMap (leBytes 4)) :=
  State.written_issueEmission hw (Written.writeRecs (State.written_writeHost (.of_regs rfl) f.prog.tv (e.tv.flatMap (leBytes 4)) (.emit f.ln)) hrecs) hlogs hwbs hcb

/-- A record stands at its slot. -/
theorem State.written_record (hw : f.writes = true) {l r : List (Nat × Nat × List Byte)} {x : Nat × Nat × List Byte} (hx : e.recs = l ++ x :: r)
    (hrecs : ∀ y ∈ r, Apart x.2.1 x.2.2.length y.2.1 y.2.2.length) (hlogs : ∀ l ∈ e.logs, Apart x.2.1 x.2.2.length l.1 4)
    (hwbs : ∀ b ∈ e.wbs, Apart x.2.1 x.2.2.length (f.verifyAt + 64 * b.1 + 40) b.2.2.length)
    (hcb : ∀ y ∈ e.recs, Apart x.2.1 x.2.2.length (s.getF (fE_CB y.1)) 8) : Written s (s.issueEmission f e) x.2.1 x.2.2 := by
  refine State.written_issueEmission hw ?_ hlogs hwbs hcb
  rw [hx, State.writeRecs, List.foldl_append]
  have hports : SamePorts s ((s.writeHost f.prog.tv (e.tv.flatMap (leBytes 4)) (.emit f.ln)).writeRecs f.ln l) :=
    .of_regs ((State.writeRecs_regs l).trans (s.writeHost_regs ..))
  exact Written.writeRecs (State.written_writeHost hports x.2.1 x.2.2 (.ringRec f.ln x.1)) hrecs

/-! The acknowledgement of a record (R291). -/

theorem PumpX.took_why {z : PumpX} {w y : Outstanding} (h : (z.took w).1 = some y) : y.why = w.why := by
  unfold PumpX.took at h
  split at h
  · exact absurd h (by simp)
  · rw [← Option.some.inj h]

/-- A request keeps its purpose on its way out. -/
theorem pumpOne_why (c : PumpCtx) (x : PumpX) {o y : Outstanding} (h : (pumpOne c x o).1 = some y) : y.why = o.why := by
  unfold pumpOne at h
  split at h
  · rw [← Option.some.inj h]
  · split at h
    · rw [← Option.some.inj h]
    · split at h
      · dsimp only at h
        split at h
        · exact (PumpX.took_why h :)
        · exact (PumpX.took_why h :)
      · rw [← Option.some.inj h]

theorem pumpAll_why (c : PumpCtx) {l : List Outstanding} {x : PumpX} {y : Outstanding} (h : y ∈ (pumpAll c x l).1) : ∃ o ∈ l, y.why = o.why := by
  induction l generalizing x with
  | nil => exact absurd h List.not_mem_nil
  | cons o l ih =>
    rw [pumpAll, List.mem_append, Option.mem_toList] at h
    rcases h with h | h
    · exact ⟨o, List.mem_cons_self, pumpOne_why c x h⟩
    · obtain ⟨z, hz, hwhy⟩ := ih h
      exact ⟨z, List.mem_cons_of_mem _ hz, hwhy⟩

/-- The sending of others opens no record. -/
theorem State.recsOpen_pump {n : Nat} {p : Port} (h : s.recsOpen ln n = false) : (s.pump p).recsOpen ln n = false := by
  rw [State.recsOpen, List.any_eq_false] at h ⊢
  intro y hy
  obtain ⟨o, ho, hwhy⟩ := pumpAll_why _ hy
  rw [hwhy]
  exact h o ho

theorem State.emitAcked_mem {n : Nat} (h : t.recsOpen ln n = false) : (t.emitAcked ln (some n)).mem = (t.writeProd ln n).mem := by
  unfold State.emitAcked
  dsimp only
  rw [if_neg (by simp [h])]
  split
  · split <;> rfl
  · rfl

theorem exec_mcWriteAck_of_record {ch tag n : Nat} (st : Nat) {o : Outstanding} (ho : s.findOut (.mc ch) tag = some o) (hw : o.why = .ringRec ln n) :
    exec (.mcWriteAck ch tag st) s = .next ((State.pump { s with out := s.out.erase o } o.port).emitAcked ln (some n)) := by
  change execMcWriteAck ch tag st s = _
  simp only [execMcWriteAck, ho, State.retire, hw]

/-- The acknowledgement of a request's last record writes its `PROD`. -/
theorem exec_mcWriteAck_of_last {ch tag n : Nat} (st : Nat) {o : Outstanding} (ho : s.findOut (.mc ch) tag = some o) (hw : o.why = .ringRec ln n)
    (hlast : (s.out.erase o).any (fun x => x.why == .ringRec ln n) = false) : ∃ u, exec (.mcWriteAck ch tag st) s = .next u ∧
      Written s u (s.getF (fE_CB n)) (leBytes 8 (s.getF (fE_PROD n))) := by
  refine ⟨_, exec_mcWriteAck_of_record st ho hw, ?_⟩
  have hclosed : (State.pump { s with out := s.out.erase o } o.port).recsOpen ln n = false := State.recsOpen_pump hlast
  have hports : SamePorts s (State.pump { s with out := s.out.erase o } o.port) := .of_regs rfl
  exact Written.of_mem (State.written_writeHost hports (s.getF (fE_CB n)) (leBytes 8 (s.getF (fE_PROD n))) (.prod ln n)) (State.emitAcked_mem hclosed)

end Sys2Proof.Machine
end

section
/-! SUPPORT. A record of a row that is not late (R273, R286, R287). -/

namespace Sys2Proof.Machine

variable {s : State} {f : Flight} {e : Emission} {n row : Nat} {o : RowOut}

/-- A row takes the outcome it came with, or turns `POISON` where its spill meets poison. -/
theorem State.formOutcome_record : (s.formOutcome f row n o).2.1 = o ∧ (s.formOutcome f row n o).2.2.2.2 = false ∨
    (o.disp = .normal ∨ o.disp = .tie) ∧ o.token ≠ none ∧ (s.formOutcome f row n o).2.1.disp = .poison ∧ (s.formOutcome f row n o).2.2.2.2 = true := by
  by_cases hp : o.disp = .poison
  · rw [State.formOutcome_of_poison hp]
    exact .inl ⟨rfl, rfl⟩
  · by_cases he : o.disp = .empty
    · rw [State.formOutcome_of_empty he]
      exact .inl ⟨rfl, rfl⟩
    · cases ht : o.token with
      | none =>
        rw [State.formOutcome_of_none hp he ht]
        exact .inl ⟨rfl, rfl⟩
      | some v =>
        rw [State.formOutcome_of_some hp he ht]
        split
        · have hdisp : o.disp = .normal ∨ o.disp = .tie := by
            cases hd : o.disp <;> simp_all
          exact .inr ⟨hdisp, Option.some_ne_none v, rfl, rfl⟩
        · exact .inl ⟨rfl, rfl⟩

/-! The fields that say where a record goes are no fields that a token which joins changes. -/

/-- A field of a word that holds none of them is apart from all. -/
theorem joined_apart_of_word {g : Fld} {n w : Nat} (hg : g.off = rENT n w) (h0 : 0 ≠ w) (h2 : 2 ≠ w) (h13 : 13 ≠ w) : ∀ f, Joined n f → f.apart g := by
  rintro f ((rfl | rfl | rfl) | rfl | rfl | rfl)
  case inl.inr.inl => exact .inl (hg ▸ mt rENT_inj.1 h13)
  case inr.inl => exact .inl (hg ▸ mt rENT_inj.1 h2)
  all_goals exact .inl (hg ▸ mt rENT_inj.1 h0)

theorem joined_apart_ext (n : Nat) : ∀ f, Joined n f → f.apart (fE_EXTREC n) := by
  rintro f ((rfl | rfl | rfl) | rfl | rfl | rfl)
  case inl.inr.inl => exact .inl (mt rENT_inj.1 (by decide))
  case inr.inl => exact .inl (mt rENT_inj.1 (by decide))
  case inr.inr.inl => exact .inr (.inr (show 0 + 3 ≤ 4 by decide))
  case inr.inr.inr => exact .inr (.inl (show 4 + 1 ≤ 32 by decide))
  case inl.inl => exact .inr (.inl (show 4 + 1 ≤ 48 by decide))
  case inl.inr.inr => exact .inr (.inl (show 4 + 1 ≤ 18 by decide))

/-- The fields of a request that say where a record goes stay, whatever the row does to its request. -/
theorem State.formOutcome_slot : (s.formOutcome f row n o).1.slotAddr n = s.slotAddr n ∧
    (s.formOutcome f row n o).1.extends f n = s.extends f n ∧ (s.formOutcome f row n o).1.getF (fE_PROD n) = s.getF (fE_PROD n) := by
  have hb : Beside (Joined n) s (s.formOutcome f row n o).1 := (Beside.refl s).formOutcome fun _ h => h
  have hring := hb.getF (fE_RING n) (offEvents_rENT n 6) (show 0 + 48 ≤ 64 by decide) (joined_apart_of_word rfl (by decide) (by decide) (by decide))
  have horder := hb.getF (fE_RORDER n) (offEvents_rENT n 6) (show 48 + 5 ≤ 64 by decide) (joined_apart_of_word rfl (by decide) (by decide) (by decide))
  have hprod := hb.getF (fE_PROD n) (offEvents_rENT n 12) (show 0 + 64 ≤ 64 by decide) (joined_apart_of_word rfl (by decide) (by decide) (by decide))
  have hext := hb.flag (g := fE_EXTREC n) (offEvents_rENT n 0) (show 4 + 1 ≤ 64 by decide) (joined_apart_ext n)
  exact ⟨by rw [State.slotAddr, State.slotAddr, hring, horder, hprod, hext], by rw [State.extends, State.extends, hext], hprod⟩

/-- `PROD` rises by 1 with each record. -/
theorem State.getF_takeRecord : (s.takeRecord n).getF (fE_PROD n) = (s.getF (fE_PROD n) + 1) % 2 ^ (fE_PROD n).width := by
  have hw : (fE_PROD n).lsb + (fE_PROD n).width ≤ 64 := show 0 + 64 ≤ 64 by decide
  have hoff : (fE_LASTGC n).apart (fE_PROD n) := .inl (mt rENT_inj.1 (by decide))
  rw [State.takeRecord, State.getF_setF_other _ _ _ hw hoff, State.getF_addMod_same _ _ _ hw]

/-- A row that is not late forms one record, at the slot that `PROD` names (R286, R287). -/
theorem State.formRecord_of_timely (e : Emission) (acc : Bool) (hlate : s.isLate f n = false) :
    ∃ o' fl, (o' = o ∨ (o.disp = .normal ∨ o.disp = .tie) ∧ o.token ≠ none ∧ o'.disp = .poison ∧ row ∈ (s.formRecord e f row n o acc).2.1.spoiled) ∧
      (s.formRecord e f row n o acc).2.1.recs = e.recs ++
        [(n, s.slotAddr n, ringRecord f o' ((s.getF (fE_PLEN n) + s.getF (fE_GLEN n)) % 2 ^ 32) fl f.gEmit (s.extends f n))] ∧
      (s.formRecord e f row n o acc).2.1.tv = e.tv.set row (o'.token.getD noToken) ∧
      (s.formRecord e f row n o acc).1.getF (fE_PROD n) = (s.getF (fE_PROD n) + 1) % 2 ^ (fE_PROD n).width := by
  obtain ⟨hslot, hext, hprod⟩ := s.formOutcome_slot (f := f) (row := row) (n := n) (o := o)
  have hpart : s.formLate f n = s := if_neg (by simp [hlate])
  rw [State.formRecord_eq, hpart, hlate]
  refine ⟨(s.formOutcome f row n o).2.1, recordFlags f.compat (s.formOutcome f row n o).2.1 false (s.formOutcome f row n o).2.2.2.1
    (acc && !(s.formOutcome f row n o).2.2.2.2), ?_, ?_, rfl, ?_⟩
  · obtain ⟨ho, -⟩ | ⟨hdisp, htok, hpois, hspoilt⟩ := s.formOutcome_record (f := f) (row := row) (n := n) (o := o)
    · exact .inl ho
    · refine .inr ⟨hdisp, htok, hpois, ?_⟩
      simp [Emission.record, hspoilt]
  · simp [Emission.record, hslot, hext]
  · rw [← hprod]
    exact State.getF_takeRecord

end Sys2Proof.Machine
end

section
/-! SUPPORT. The completion of a step (R310, R478) and its status (R311). -/

namespace Sys2Proof.Machine

variable {own : Fld → Prop} {s t : State} {f : Flight} {ln n : Nat}

/-! What the completion of a step for its requests leaves. -/

namespace State.Beside

theorem enter {st reason : Nat} {why : Option Purpose2} (h : Beside EntryField s t) : Beside EntryField s (t.enter n st reason why) :=
  ((h.setF (f := fE_STATE n) (entryField_rENT ..)).setF (f := fE_REASON n) (entryField_rENT ..)).freeRets.writeNote

theorem settle {why : Option Purpose2} (h : Beside EntryField s t) : Beside EntryField s (t.settle n why) :=
  State.settle_keeps (Q := Beside EntryField s) (fun _ _ _ _ h => h.enter) (fun _ _ h => h.setReq) why h

theorem queueBlocks {upto : Nat} (h : Beside own s t) : Beside own s (t.queueBlocks n upto) := .ite h (h.congr rfl rfl rfl rfl)

theorem issueEvent {e : EvRec} (h : Beside own s t) : Beside own s (t.issueEvent e) :=
  h.trans ⟨t.issueEvent_flights e, t.issueEvent_pad e, t.issueEvent_fuses e, fun _ ho _ _ => State.getF_congr (t.issueEvent_reg ho e)⟩

theorem closeWindow {k : CoalKey} (h : Beside own s t) : Beside own s (t.closeWindow k) := by
  unfold State.closeWindow
  split
  · exact h
  · exact issueEvent (h.congr rfl rfl rfl rfl)

end State.Beside

/-- The slots of the requests that a step's rows are bound to. -/
def Flight.boundSlots (f : Flight) : List Nat := f.rows.filterMap fun r => if r.bound then r.slot else none

/-- The requests of a step at its completion: `INFL`, their blocks, their end states, and the `ROW` records. -/
def State.finishReqs (s : State) (f : Flight) : State :=
  [1, 2, 3, 4, 5].foldl (fun s c => s.closeWindow (.rowCode f.ln c))
    (f.boundSlots.eraseDups.foldl
      (fun s n => (s.queueBlocks n (s.getF (fE_PLEN n) + s.getF (fE_GLEN n))).settle n (if f.writes then some (.emit f.ln) else none))
      (f.boundSlots.foldl (fun s n => s.setF (fE_INFL n) (s.getF (fE_INFL n) - 1)) s))

theorem State.finishReqs_beside (s : State) (f : Flight) : State.Beside EntryField s (s.finishReqs f) :=
  have hinfl := (State.Beside.refl s).foldl (f := fun (s : State) n => s.setF (fE_INFL n) (s.getF (fE_INFL n) - 1)) (l := f.boundSlots)
    fun h => h.setF (entryField_rENT ..)
  (hinfl.foldl fun h => h.queueBlocks.settle).foldl fun h => h.closeWindow

/-- A step that completes is marked; nothing but its entries, its reports and its `NOTE` words has changed. -/
theorem State.finishStep_eq (hf : s.flight f.ln = some f) : s.finishStep f = (s.finishReqs f).setFlight { f with complete := true } := by
  have hfl : (s.finishReqs f).flight f.ln = some f := by
    rw [State.flight_congr (s.finishReqs_beside f).flights, hf]
  have heq : s.finishStep f = match (s.finishReqs f).flight f.ln with
    | none => s.finishReqs f
    | some g => (s.finishReqs f).setFlight { g with complete := true } := rfl
  rw [heq, hfl]

section
variable (hf : s.flight ln = some f)
include hf

theorem State.flight_closeEmit (hc : f.complete = false) : (s.closeEmit f).flight ln = some { f with complete := true } := by
  have hln : f.ln = ln := State.flight_ln hf
  rw [State.closeEmit, if_neg (by simp [hc]), State.finishStep_eq (by rw [hln, hf])]
  exact (Becomes.setFlight_of_flights (g := { f with complete := true }) hf (s.finishReqs_beside f).flights hln).1

theorem State.closeEmit_beside (hc : f.complete = false) :
    ∃ v, State.Beside EntryField s v ∧ s.closeEmit f = v.setFlight { f with complete := true } := by
  have hln : f.ln = ln := State.flight_ln hf
  rw [State.closeEmit, if_neg (by simp [hc]), State.finishStep_eq (by rw [hln, hf])]
  exact ⟨s.finishReqs f, s.finishReqs_beside f, rfl⟩

theorem State.closeEmit_kept (hc : f.complete = false) : (s.closeEmit f).pad = s.pad ∧ (s.closeEmit f).fuses = s.fuses := by
  obtain ⟨v, hv, he⟩ := State.closeEmit_beside hf hc
  rw [he]
  exact ⟨hv.pad, hv.fuses⟩

omit hf in
theorem State.closeEmit_of_complete (hc : f.complete = true) : s.closeEmit f = s := if_pos hc

end

/-! The status. -/

/-- The place of a step is free, and `DONE` rises. -/
def State.freePlace (s : State) (f : Flight) : State :=
  let s := s.addMod (fQ_DONE f.queue) 1
  let s := s.mend fun p => partStep p == some f.ln
  { s with
    flights := s.flights.filter fun g => g.ln != f.ln
    far := { s.far with steps := s.far.steps + 1, rows := s.far.rows + f.rows.length } }

/-- The status goes to its address. -/
def State.sendStatus (s : State) (f : Flight) : State := s.bump.writeHost f.prog.cpl (statusBytes f s.freeCtr) .plain

theorem State.sendStatus_regs : (s.sendStatus f).regs = s.regs := s.bump.writeHost_regs ..
theorem State.sendStatus_flights : (s.sendStatus f).flights = s.flights := s.bump.writeHost_flights ..
theorem State.sendStatus_reqs : (s.sendStatus f).reqs = s.reqs := s.bump.writeHost_reqs ..
theorem State.sendStatus_pad : (s.sendStatus f).pad = s.pad := s.bump.writeHost_pad ..
theorem State.sendStatus_fuses : (s.sendStatus f).fuses = s.fuses := s.bump.writeHost_fuses ..

theorem State.writeStatus_eq : s.writeStatus f = (s.sendStatus f).freePlace f := by
  unfold State.writeStatus State.freePlace State.sendStatus
  with_reducible rfl

theorem State.freePlace_mem : (s.freePlace f).mem = s.mem := rfl
theorem State.freePlace_reqs : (s.freePlace f).reqs = s.reqs := rfl
theorem State.freePlace_pad : (s.freePlace f).pad = s.pad := rfl
theorem State.freePlace_fuses : (s.freePlace f).fuses = s.fuses := rfl
theorem State.freePlace_flights : (s.freePlace f).flights = s.flights.filter fun g => g.ln != f.ln := rfl

theorem State.written_writeStatus : Written s (s.writeStatus f) f.prog.cpl (statusBytes f s.freeCtr) := by
  have hports : SamePorts s s.bump := .of_regs rfl
  have hsent := State.written_writeHost hports f.prog.cpl (statusBytes f s.freeCtr) .plain
  rw [State.writeStatus_eq]
  exact Written.of_mem hsent State.freePlace_mem

theorem State.sameMemBut_writeStatus : SameMemBut s (s.writeStatus f) f.prog.cpl (statusBytes f s.freeCtr).length := by
  intro k hk
  rw [State.writeStatus_eq, State.freePlace_mem]
  exact s.bump.sameMemBut_writeHost f.prog.cpl (statusBytes f s.freeCtr) .plain k hk

theorem State.writeStatus_flights : (s.writeStatus f).flights = s.flights.filter fun g => g.ln != f.ln := by
  rw [State.writeStatus_eq, State.freePlace_flights, State.sendStatus_flights]

theorem State.writeStatus_reqs : (s.writeStatus f).reqs = s.reqs := by rw [State.writeStatus_eq, State.freePlace_reqs, State.sendStatus_reqs]
theorem State.writeStatus_pad : (s.writeStatus f).pad = s.pad := by rw [State.writeStatus_eq, State.freePlace_pad, State.sendStatus_pad]
theorem State.writeStatus_fuses : (s.writeStatus f).fuses = s.fuses := by rw [State.writeStatus_eq, State.freePlace_fuses, State.sendStatus_fuses]

/-- A step whose status is written has left the machine. -/
theorem State.writeStatus_flight : (s.writeStatus f).flight f.ln = none := by
  rw [State.flight, State.writeStatus_flights, List.find?_eq_none]
  intro g hg
  simpa using (List.mem_filter.1 hg).2

theorem State.freePlace_done : (s.freePlace f).getF (fQ_DONE f.queue) = (s.getF (fQ_DONE f.queue) + 1) % 2 ^ 32 :=
  s.getF_addMod_same (fQ_DONE f.queue) 1 (show 32 + 32 ≤ 64 by decide)

theorem State.writeStatus_done : (s.writeStatus f).getF (fQ_DONE f.queue) = (s.getF (fQ_DONE f.queue) + 1) % 2 ^ 32 := by
  rw [State.writeStatus_eq, State.freePlace_done, State.getF_congr (State.reg_congr State.sendStatus_regs _)]

theorem State.freePlace_reg_other {o : Nat} (ho : o ≠ (fQ_DONE f.queue).off) : (s.freePlace f).reg o = s.reg o :=
  s.reg_setF_other (fQ_DONE f.queue) _ ho

theorem State.writeStatus_reg_other {o : Nat} (ho : o ≠ (fQ_DONE f.queue).off) : (s.writeStatus f).reg o = s.reg o := by
  rw [State.writeStatus_eq, State.freePlace_reg_other ho, State.reg_congr State.sendStatus_regs]

/-! COMPLETION_STATUS. -/

section
variable (hf : s.flight ln = some f)
include hf

theorem exec_completionStatus_of_open (ho : s.emitOver f = false) : exec (.completionStatus ln) s = .next s := by
  change execCompletionStatus ln s = _
  simp [execCompletionStatus, hf, ho]

theorem exec_completionStatus_of_over {g : Flight} (ho : s.emitOver f = true) (hg : (s.closeEmit f).flight ln = some g) :
    exec (.completionStatus ln) s =
      if (s.closeEmit f).flightQuiet ln && g.digestOver && (s.closeEmit f).statusTurn g then .next ((s.closeEmit f).writeStatus g)
      else .next (s.closeEmit f) := by
  change execCompletionStatus ln s = _
  simp only [execCompletionStatus, hf, ho, hg, Bool.not_true, Bool.false_eq_true, if_false]

theorem State.emitOver_of_quiet (he : f.emitted = true) (hq : s.flightQuiet ln = true) : s.emitOver f = true := by
  rw [State.emitOver, he, State.flight_ln hf, hq]
  rfl

end

end Sys2Proof.Machine
end

section
/-! SUPPORT. The fields of a completion status (R311) at their bytes. -/

namespace Sys2Proof.Machine

variable (f : Flight) (fr : Nat)

/-- The `MODE` bits of a status, from bit 0 on. -/
def Flight.modeBits (f : Flight) : List Bool :=
  [f.twice, f.compat, f.strict, f.collected, f.tb != 0, f.prog.isScore, f.prog.paired, f.normal.isSome]

/-- The byte of `MODE`. -/
def Flight.modeByte (f : Flight) : Nat :=
  let b (k : Nat) (x : Bool) : Nat := if x then 2 ^ k else 0
  b 0 f.twice + b 1 f.compat + b 2 f.strict + b 3 f.collected + b 4 (f.tb != 0) + b 5 f.prog.isScore + b 6 f.prog.paired + b 7 f.normal.isSome

/-- The fields of a status in their order. -/
def statusParts (f : Flight) (fr : Nat) : List (List Byte) :=
  let norm := f.normal.isSome
  [leBytes 4 f.prog.stepId, leBytes 1 f.queue, leBytes 1 f.cstat, leBytes 1 f.modeByte, leBytes 1 (if norm then 0 else f.prog.prec),
   leBytes 4 f.tepoch, leBytes 4 (if norm then 0 else f.view.epoch), leBytes 8 f.gcLaunch, leBytes 8 f.gcDone,
   leBytes 4 (Config.free32 fr).toNat, leBytes 2 (if norm || f.cstat == 3 then 0 else f.prog.rows),
   rowCount f (fun r => (r.final f).uncert), rowCount f (fun r => !(f.cstat == 1 && r.vacant) && (r.final f).disp == .poison),
   rowCount f (fun r => (r.final f).disp == .empty), rowCount f (·.vacant), leBytes 2 f.nLate,
   leBytes 4 (sumNat (f.rows.map fun r => r.ref.length)), leBytes 4 f.eEst, leBytes 1 (if norm then 0 else f.clusters.length), leBytes 1 f.tb,
   List.replicate 6 0]

/-- The bytes that each of them takes (R311). -/
def statusLengths : List Nat := [4, 1, 1, 1, 1, 4, 4, 8, 8, 4, 2, 2, 2, 2, 2, 2, 4, 4, 1, 1, 6]

theorem statusParts_lengths : (statusParts f fr).map List.length = statusLengths := by
  simp only [statusParts, rowCount, List.map_cons, List.map_nil, leBytes_length, List.length_replicate, statusLengths]

theorem statusParts_length : (statusParts f fr).length = 21 := rfl

theorem statusBytes_eq : statusBytes f fr = (statusParts f fr).flatten := by
  simp only [statusParts, List.flatten_cons, List.flatten_nil, List.append_nil, ← List.append_assoc]
  rfl

theorem statusBytes_length : (statusBytes f fr).length = 64 := by
  rw [statusBytes_eq, List.length_flatten, statusParts_lengths]
  rfl

/-- The `i`th field stands at the sum of the lengths before it. -/
theorem statusBytes_part (i : Nat) (hi : i < 21) :
    ((statusBytes f fr).drop (statusLengths.take i).sum).take ((statusLengths.take (i + 1)).sum - (statusLengths.take i).sum) =
      (statusParts f fr)[i]'(hi.trans_eq (statusParts_length f fr).symm) := by
  rw [← statusParts_lengths f fr, statusBytes_eq, ← List.drop_take, List.drop_take_succ_flatten_eq_getElem]

/-- A weighed bit. -/
theorem ite_two_pow (k : Nat) (x : Bool) : (if x then 2 ^ k else 0) = 2 ^ k * x.toNat := by cases x <;> simp

theorem Flight.modeByte_eq : f.modeByte = Nat.ofBits fun i : Fin 8 => f.modeBits.getD i false := by
  simp only [Flight.modeByte, ite_two_pow, Flight.modeBits, Nat.ofBits_succ, Nat.ofBits_zero]
  simp
  omega

theorem statusBytes_mode {k : Nat} (hk : k < 8) : (leNat (((statusBytes f fr).drop 6).take 1)).testBit k = f.modeBits.getD k false := by
  have hbyte : ((statusBytes f fr).drop 6).take 1 = leBytes 1 f.modeByte := statusBytes_part f fr 3 (by decide)
  have hfits : f.modeByte < 256 ^ 1 := by
    rw [Flight.modeByte_eq]
    exact Nat.ofBits_lt_two_pow _
  rw [hbyte, leNat_leBytes, Nat.mod_eq_of_lt hfits, Flight.modeByte_eq, Nat.testBit_ofBits_lt _ k hk]

theorem statusBytes_rows :
    ((statusBytes f fr).drop 36).take 2 = leBytes 2 (if f.normal.isSome = true ∨ f.cstat = 3 then 0 else f.prog.rows) := by
  refine (statusBytes_part f fr 10 (by decide)).trans (congrArg (leBytes 2) (if_congr ?_ rfl rfl))
  rw [Bool.or_eq_true, beq_iff_eq]

/-- In a step that did not end early every `POISON` row counts. -/
theorem statusBytes_poison (he : f.cstat ≠ 1) :
    ((statusBytes f fr).drop 40).take 2 = leBytes 2 (f.rows.countP fun r => (r.final f).disp == .poison) := by
  refine (statusBytes_part f fr 12 (by decide)).trans (congrArg (leBytes 2) (List.countP_congr fun r _ => ?_))
  simp [he]

end Sys2Proof.Machine
end

section
/-! PROOF. O43: EMIT and the completion of a step. -/

namespace Sys2Proof.Machine

/-! COMPLETION_STATUS, by what is still to be done. -/

section
variable {s : State} {ln : Nat} {f : Flight} (hf : s.flight ln = some f) (he : f.emitted = true) (hq : s.flightQuiet ln = true)
include hf he hq

/-- A complete step in its turn writes its status and leaves. -/
theorem exec_completionStatus_of_turn (hd : f.digestOver = true) (hc : f.complete = true) (ht : s.statusTurn f = true) :
    ∃ u, exec (.completionStatus ln) s = .next u ∧ u.flight ln = none ∧ u.flights = s.flights.filter (fun g => g.ln != ln) ∧
      u.getF (fQ_DONE f.queue) = (s.getF (fQ_DONE f.queue) + 1) % 2 ^ 32 ∧ Written s u f.prog.cpl (statusBytes f s.freeCtr) ∧
      SameMemBut s u f.prog.cpl 64 ∧ (∀ o, o ≠ (fQ_DONE f.queue).off → u.reg o = s.reg o) ∧ u.reqs = s.reqs ∧ u.pad = s.pad := by
  have hln : f.ln = ln := State.flight_ln hf
  have hsame := State.closeEmit_of_complete (s := s) hc
  have hexec := exec_completionStatus_of_over hf (State.emitOver_of_quiet hf he hq) (hsame ▸ hf)
  rw [hsame, if_pos (by simp [hq, hd, ht])] at hexec
  exact ⟨_, hexec, hln ▸ State.writeStatus_flight, hln ▸ State.writeStatus_flights, State.writeStatus_done, State.written_writeStatus,
    statusBytes_length f s.freeCtr ▸ State.sameMemBut_writeStatus, fun o ho => State.writeStatus_reg_other ho, State.writeStatus_reqs,
    State.writeStatus_pad⟩

/-- A step whose writes are acknowledged completes for its requests, and writes its status at once if nothing holds it back. -/
theorem exec_completionStatus_of_finish (hc : f.complete = false) :
    ∃ u g, exec (.completionStatus ln) s = .next u ∧ (s.closeEmit f).flight ln = some g ∧ g = { f with complete := true } ∧
      (((s.closeEmit f).flightQuiet ln && g.digestOver && (s.closeEmit f).statusTurn g) = true →
        u = (s.closeEmit f).writeStatus g ∧ u.flight ln = none) ∧
      (((s.closeEmit f).flightQuiet ln && g.digestOver && (s.closeEmit f).statusTurn g) = false → u = s.closeEmit f) ∧
      u.fuses = s.fuses ∧ u.pad = s.pad := by
  have hln : f.ln = ln := State.flight_ln hf
  have hclosed := State.flight_closeEmit hf hc
  obtain ⟨hpad, hfuses⟩ := State.closeEmit_kept hf hc
  have hexec := exec_completionStatus_of_over hf (State.emitOver_of_quiet hf he hq) hclosed
  cases hturn : (s.closeEmit f).flightQuiet ln && ({ f with complete := true } : Flight).digestOver &&
      (s.closeEmit f).statusTurn { f with complete := true }
  · rw [hturn, if_neg Bool.false_ne_true] at hexec
    exact ⟨_, _, hexec, hclosed, rfl, fun h => absurd (hturn.symm.trans h) Bool.false_ne_true, fun _ => rfl, hfuses, hpad⟩
  · rw [hturn, if_pos rfl] at hexec
    exact ⟨_, _, hexec, hclosed, rfl, fun _ => ⟨rfl, hln ▸ State.writeStatus_flight⟩, fun h => absurd (h.symm.trans hturn) Bool.false_ne_true,
      State.writeStatus_fuses.trans hfuses, State.writeStatus_pad.trans hpad⟩

/-- A complete step whose digest or turn is still to come waits. -/
theorem exec_completionStatus_of_wait (hc : f.complete = true) (hno : (f.digestOver && s.statusTurn f) = false) :
    exec (.completionStatus ln) s = .next s := by
  have hsame := State.closeEmit_of_complete (s := s) hc
  have hexec := exec_completionStatus_of_over hf (State.emitOver_of_quiet hf he hq) (hsame ▸ hf)
  rw [hsame, hq, Bool.true_and, hno, if_neg Bool.false_ne_true] at hexec
  exact hexec

end

/-- A step whose records do not fit begins EMIT, takes the gate counter and waits. -/
theorem exec_emit_of_full {s : State} {ln : Nat} {f : Flight} (hf : s.flight ln = some f) (hr : f.emitReady = true)
    (ht : s.unitTurn ln Flight.emitReady = true) (hfull : s.ringsFit (f.emitsAt s.gc) = false) :
    ∃ u, exec (.emit ln) s = .next u ∧ Becomes s u ln (f.emitsAt s.gc) ∧ u = { s with flights := u.flights } :=
  ⟨_, (exec_emit_of_turn hf hr ht).trans (if_neg (by simp [hfull])), .setFlight hf ((f.emitsAt_ln s.gc).trans (State.flight_ln hf)), rfl⟩

/-- Settles O43. EMIT keeps every part of the state beside the entries, their histories and what it sends (`State.Beside`), so the flight it leaves is read off; the writes of R291 follow one another, and each stands where the later ones are apart; a record's slot is that of the fields before the row's outcome, which changes none of them; the status is the flattening of its fields. -/
theorem emitAndCompletionOfAStep : Obligations.EmitAndCompletionOfAStep := by
  refine ⟨fun s ln f hf hr => ?_, fun s f e hw => ?_, fun s ln n ch tag st o ho hwhy hlast => exec_mcWriteAck_of_last st ho hwhy hlast,
    fun s e f row n o acc _ hlate => ?_, fun s ln f hf => ?_, fun f fr => ?_⟩
  case refine_1 =>
    have hln : f.ln = ln := State.flight_ln hf
    refine ⟨exec_emit_of_wait hf, fun ht hfit => ⟨_, (exec_emit_of_turn hf hr ht).trans (if_pos hfit), ?_⟩, exec_emit_of_full hf hr,
      fun he hfull hfit => ⟨_, (exec_emitConsRetry_of_full hf hr he hfull).trans (if_pos hfit), State.emitNow_outcome (s.emitReread_beside f) hf hln⟩,
      fun he hfull hno => (exec_emitConsRetry_of_full hf hr he hfull).trans (if_neg (Bool.eq_false_iff.1 hno))⟩
    have hdone := State.emitNow_outcome (.refl s) hf ((f.emitsAt_ln s.gc).trans hln)
    simp only [State.emitWrites, State.emission, State.formed, Flight.emitsAt_prog] at hdone
    exact hdone
  case refine_2 =>
    have hkept : State.Beside EntryField s (s.issueEmission f e) := (State.Beside.refl s).issueEmission
    refine ⟨fun ⟨hrecs, hlogs, hwbs⟩ => State.written_tokenVector hw (fun x hx => (hrecs x hx).1) hlogs hwbs fun x hx => (hrecs x hx).2,
      fun l x r hsplit ⟨hrecs, hlogs, hwbs⟩ hl hx => State.written_record hw hsplit (fun y hy => (hrecs y hy).1) hlogs hwbs fun y hy => ?_,
      hkept.pad, hkept.fuses, hkept.flights⟩
    rw [hsplit, List.mem_append, List.mem_cons] at hy
    obtain hy | rfl | hy := hy
    · exact hl y hy
    · exact hx
    · exact (hrecs y hy).2
  case refine_3 =>
    have hkept : State.Beside EntryField s (s.formRecord e f row n o acc).1 := (State.Beside.refl s).formRecord
    obtain ⟨o', fl, hout, hrecs, htv, hprod⟩ := State.formRecord_of_timely e acc hlate (row := row) (o := o)
    exact ⟨o', fl, hout, hrecs, htv, hprod, hkept.fuses, hkept.flights⟩
  case refine_4 =>
    exact ⟨fun he hq hd hc ht _ => exec_completionStatus_of_turn hf he hq hd hc ht, exec_completionStatus_of_finish hf,
      exec_completionStatus_of_wait hf, exec_completionStatus_of_open hf⟩
  case refine_5 =>
    exact ⟨statusBytes_length f fr, statusBytes_part f fr 0 (by decide), statusBytes_part f fr 1 (by decide), statusBytes_part f fr 2 (by decide),
      fun k hk => statusBytes_mode f fr hk, statusBytes_part f fr 4 (by decide), statusBytes_part f fr 5 (by decide),
      statusBytes_part f fr 6 (by decide), statusBytes_part f fr 7 (by decide), statusBytes_part f fr 8 (by decide), statusBytes_rows f fr,
      statusBytes_part f fr 11 (by decide), fun he => statusBytes_poison f fr he, statusBytes_part f fr 13 (by decide),
      statusBytes_part f fr 14 (by decide), statusBytes_part f fr 15 (by decide), statusBytes_part f fr 17 (by decide),
      statusBytes_part f fr 18 (by decide), statusBytes_part f fr 19 (by decide), statusBytes_part f fr 20 (by decide)⟩

end Sys2Proof.Machine
end
